-- ==== Sys2Proof/Word.lean ====
section
/-! DEFINITION. The words of the device: bytes, FP32 words, 64-bit registers and 128-bit instruction words (00 R5, R6, R12; 05 R173). -/

namespace Sys2Proof

/-- One byte of memory, of a queue or of a message. -/
abbrev Byte := BitVec 8

/-- One 4-byte word: an FP32 value, an index, a count word. -/
abbrev Word32 := BitVec 32

/-- One register (R12), one identity (R414) or one digest (R351). -/
abbrev Word64 := BitVec 64

/-- One Ovtuit instruction word (R173). -/
abbrev Word128 := BitVec 128

/-- One key of a key slot (R417), or one SHA-256 value. -/
abbrev Word256 := BitVec 256

end Sys2Proof
end

