-- ==== Sys2Proof/Syntax.lean ====
section
/-! DEFINITION. The commands of the block: one constructor of `Instr` for each row of the opcode table, with the operands the manual gives it. Field values are natural numbers as the manual's layouts number them; `WellFormed` states their widths and reserved values. -/

namespace Sys2Proof

/-- A core's two streams (R124). -/
inductive Strm where
  | a
  | x
  deriving DecidableEq, Repr

/-- The completion field of the common header (R173). -/
structure Cf where
  cfe : Bool
  cfn : Nat
  deriving DecidableEq, Repr

/-- LOOP body (R178): `csrc` true takes the count from slot `slot`. -/
structure LoopB where
  csrc : Bool
  slot : Nat
  imm : Nat
  deriving DecidableEq, Repr

/-- The body of MOVE, PFETCH, QLOAD and QSTORE (R187): `f0` is [111:108] (SAG or QS), `f1` is [107:104] (DAG or QD), `rows` holds rows − 1. -/
structure XferB where
  f0 : Nat
  f1 : Nat
  rows : Nat
  rbytes : Nat
  sstr : Nat
  dstr : Nat
  dline : Nat
  norush : Bool
  pot : Bool
  gslot : Nat
  deriving DecidableEq, Repr

/-- SLOAD body (R193). -/
structure SloadB where
  sag : Nat
  kag : Nat
  pair : Nat
  bank : Nat
  type : Nat
  bax : Nat
  tr : Nat
  tc : Nat
  sstr : Nat
  kstr : Nat
  dline : Nat
  norush : Bool
  deriving DecidableEq, Repr

/-- GATHER body (R195). -/
structure GatherB where
  sag : Nat
  qi : Nat
  qd : Nat
  nidx : Nat
  rbytes : Nat
  istr : Nat
  dline : Nat
  norush : Bool
  deriving DecidableEq, Repr

/-- RACC body (R197). -/
structure RaccB where
  sag : Nat
  rch : Nat
  wire : Nat
  srct : Nat
  rmode : Nat
  treg : Nat
  elems : Nat
  toff : Nat
  deriving DecidableEq, Repr

/-- OPS body (R203). -/
structure OpsB where
  arr : Nat
  link : Bool
  set : Nat
  quad : Nat
  ta : Nat
  tb : Nat
  wsrc : Nat
  wsq : Nat
  nsrc : Nat
  nsq : Nat
  m : Nat
  n : Nat
  ktail : Nat
  sbank : Nat
  soff : Nat
  sk : Nat
  steps : Nat
  deriving DecidableEq, Repr

/-- AMODE body (R201). -/
structure AmodeB where
  arr : Nat
  qm : Bool
  ta : Nat
  tb : Nat
  deriving DecidableEq, Repr

/-- PRELOAD body (R202); `pmode` 0 ZERO, 1 ROWB, 2 COLB, 3 FULL. -/
structure PreloadB where
  arr : Nat
  set : Nat
  quad : Nat
  pmode : Nat
  pt : Nat
  pq : Nat
  m : Nat
  n : Nat
  deriving DecidableEq, Repr

/-- DDESC body (R209) without its descriptor number. -/
structure DescB where
  act : Nat
  dmode : Nat
  topk : Nat
  otype : Nat
  rmode : Nat
  baxis : Nat
  oq : Nat
  osq : Nat
  sq : Nat
  stype : Nat
  srmode : Nat
  sbaxis : Nat
  kq : Nat
  stream : Nat
  ld : Nat
  deriving DecidableEq, Repr

/-- DRAIN body (R210). -/
structure DrainB where
  arr : Nat
  clr : Bool
  set : Nat
  quad : Nat
  dd : Nat
  rdep : Nat
  rinc : Nat
  cdep : Nat
  cinc : Nat
  orgR : Nat
  orgC : Nat
  deriving DecidableEq, Repr

/-- RX body (R213). -/
structure RxB where
  rop : Nat
  sa : Nat
  sb : Nat
  sc : Nat
  ts : Nat
  dst : Nat
  td : Nat
  rmode : Nat
  stream : Nat
  len : Nat
  deriving DecidableEq, Repr

/-- One Ovtuit instruction as a table entry holds it (R176): header completion field and body. -/
inductive Ovt where
  | nop
  | endS
  | loop (b : LoopB)
  | endloop
  | boundary
  | phase (edge : Bool) (pid : Nat)
  | fadd (flag k : Nat)
  | faddr (cf : Cf) (tcore flag k : Nat)
  | fwait (flag k : Nat)
  | agbase (ag region offset : Nat)
  | agstr (ag : Nat) (grp : Bool) (s0 s1 s2 : Nat)
  | cset (slot val : Nat)
  | cload (cf : Cf) (ag slot : Nat)
  | move (cf : Cf) (b : XferB)
  | qload (cf : Cf) (b : XferB)
  | qstore (cf : Cf) (b : XferB)
  | sload (cf : Cf) (b : SloadB)
  | gather (cf : Cf) (b : GatherB)
  | pfetch (cf : Cf) (b : XferB)
  | repoch (cf : Cf) (rch dsc dlns : Nat)
  | racc (cf : Cf) (b : RaccB)
  | rwait (cf : Cf) (rch dag tout : Nat)
  | ops (cf : Cf) (b : OpsB)
  | amode (cf : Cf) (b : AmodeB)
  | preload (cf : Cf) (b : PreloadB)
  | ddesc (dd : Nat) (d : DescB)
  | drain (cf : Cf) (b : DrainB)
  | rx (cf : Cf) (b : RxB)
  | rebase (dep stride ebase : Nat)
  | qmove (cf : Cf) (qs qd bytes : Nat)
  deriving DecidableEq, Repr

/-- An 8-byte SECDED group found in error while a queue is read (R444, R454): the queue, the group's number from the front of the queue, and whether the code corrected it. -/
structure QErr where
  q : Nat
  group : Nat
  fixed : Bool
  deriving DecidableEq, Repr

/-- A received Nalmiwin packet as its header and frame show it (R414, R416): sender, connection number, version, key slot, the key its tag was made under, sequence number, acknowledgement, credit, packet counter, source IPv6 address, FLAGS bits 0 and 1, a CE mark on the IP header, whether HCRC and PCRC are correct, and the VID where the frame carries a tag. -/
structure Pkt where
  src : Nat
  conn : Nat
  ver : Nat
  keyId : Nat
  key : Word256
  seq : Nat
  ackSeq : Nat
  credit : Nat
  pctr : Nat
  addr : Nat
  echo : Bool
  ackNow : Bool
  ce : Bool
  hcrc : Bool
  pcrc : Bool
  vid : Option Nat
  deriving DecidableEq, Repr

/-- The name of an epoch (R375, R439). -/
structure EpName where
  group : Nat
  rch : Nat
  ord : Nat
  step : Nat
  deriving DecidableEq, Repr

/-- START and STEP fields (R428): `block` is FLAGS bit 0, `words` the host bytes. -/
structure StepB where
  part : Nat
  block : Bool
  exp : Nat
  instant : Nat
  sbdpa : Nat
  words : List Byte
  deriving DecidableEq, Repr

/-- The extension of a LOAD with THLEN = 32 (R475). -/
structure LoadExt where
  cstep : Nat
  mode : Nat
  token : Nat
  deriving DecidableEq, Repr

/-- CAIRN_CTL fields (R474). -/
structure CtlB where
  status : Nat
  part : Nat
  slot : Nat
  step : Nat
  length : Nat
  digest : Nat
  deriving DecidableEq, Repr

/-- How a burst or group reads (R280, R340): good, corrected, or uncorrectable. -/
inductive Ecc where
  | good
  | corrected
  | bad
  deriving DecidableEq, Repr

/-- What a march reports (R309, R310): the failing words, and those that held an uncorrectable error before the test, numbered 4,096 × bank + row. -/
structure MarchB where
  fails : List Nat
  lost : List Nat
  deriving DecidableEq, Repr

/-- What one batch of additions meets (R340, R406): a mismatch of the dual-checked adders, and the bursts read that were corrected and lost. -/
structure AddB where
  miscmp : Bool
  ce : List Nat
  ue : List Nat
  deriving DecidableEq, Repr

/-- What a power-on reset finds (R342, R348): channels that fail training, and channels whose failing rows are not repaired. -/
structure PowerB where
  badChans : List Nat
  unrepaired : List Nat
  deriving DecidableEq, Repr

/-- What a start of the compute dies finds (R348, R349, R496): a die that does not power up, channels that fail the 4 KiB check of their saved training, channels that fail a full training. -/
structure WakeB where
  dieFails : Bool
  check : List Nat
  fail : List Nat
  deriving DecidableEq, Repr

/-- What the PCS reports (R410): uncorrectable FEC codewords within 1 ms, and whether the lanes are aligned. -/
structure LossB where
  fec : Nat
  aligned : Bool
  deriving DecidableEq, Repr

/-- What a bring-up attempt comes to (R409, R454): its rate, the lanes that fail to train, whether the lanes are aligned; with neither, negotiation is done and training begins. -/
structure BringB where
  fast : Bool
  failed : List Nat
  aligned : Bool
  deriving DecidableEq, Repr

/-- A command of the block: one constructor for each row of the opcode table. `c` is a logical core, `st` the issuing stream of a row both streams may issue. -/
inductive Instr where
  -- instructions of the streams (05)
  | nop (c : Nat) (st : Strm)
  | endStream (c : Nat) (st : Strm)
  | loop (c : Nat) (st : Strm) (b : LoopB)
  | boundary (c : Nat) (st : Strm)
  | phase (c : Nat) (st : Strm) (edge : Bool) (pid : Nat)
  | fadd (c : Nat) (st : Strm) (flag k : Nat)
  | faddr (c : Nat) (cf : Cf) (tcore flag k : Nat)
  | fwait (c : Nat) (st : Strm) (flag k : Nat)
  | agbase (c : Nat) (ag region offset : Nat)
  | agstr (c : Nat) (ag : Nat) (grp : Bool) (s0 s1 s2 : Nat)
  | cset (c : Nat) (slot val : Nat)
  | cload (c : Nat) (cf : Cf) (ag slot : Nat)
  | move (c : Nat) (cf : Cf) (b : XferB)
  | qload (c : Nat) (cf : Cf) (b : XferB)
  | qstore (c : Nat) (cf : Cf) (b : XferB)
  | sload (c : Nat) (cf : Cf) (b : SloadB)
  | gather (c : Nat) (cf : Cf) (b : GatherB)
  | pfetch (c : Nat) (cf : Cf) (b : XferB)
  | repoch (c : Nat) (cf : Cf) (rch dsc dlns : Nat)
  | racc (c : Nat) (cf : Cf) (b : RaccB)
  | rwait (c : Nat) (cf : Cf) (rch dag tout : Nat)
  | ops (c : Nat) (cf : Cf) (b : OpsB)
  | amode (c : Nat) (cf : Cf) (b : AmodeB)
  | preload (c : Nat) (cf : Cf) (b : PreloadB)
  | ddesc (c : Nat) (dd : Nat) (d : DescB)
  | drain (c : Nat) (cf : Cf) (b : DrainB)
  | rx (c : Nat) (cf : Cf) (b : RxB)
  | rebase (c : Nat) (dep stride ebase : Nat)
  | qmove (c : Nat) (cf : Cf) (qs qd bytes : Nat)
  -- events of a core (03, 04, 05, 09); `qerr`: uncorrectable groups met while queues are read
  | modeChange (c arr : Nat)
  | preloadRowWrite (c arr quad : Nat) (qerr : List QErr)
  | drainRowRead (c arr quad : Nat) (qerr : List QErr)
  | drainPush (c arr q : Nat)
  | topkPush (c arr q : Nat)
  | columnBlockEmit (c arr q : Nat)
  | rxGroup (c : Nat) (qerr : List QErr)
  | claimGrant (c : Nat) (st : Strm) (region : Nat)
  | completionFlagAdd (c flag : Nat)
  | loopEntryLatch (c : Nat) (st : Strm)
  | countSlotWrite (c slot : Nat)
  | queuePush (c q : Nat)
  | queuePop (c q : Nat) (qerr : List QErr)
  | requestSend (c : Nat)
  | hamperAccess (c : Nat) (ce ue : List Nat)
  | arrayStepEntry (c arr quad : Nat) (qerr : List QErr) (serr : List (Nat × Bool)) (perr : List Nat)
  | strollGapExpiry (c arr : Nat)
  | rampStage (c arr : Nat)
  | hwFault (c : Nat)
  -- steps and partitions (04, 05, 07); `p` a partition
  | streamStart (p : Nat)
  | stepClose (p : Nat)
  | stepOpen (p : Nat)
  | programEnd (p : Nat)
  | partitionRelease (p : Nat)
  | stallTimeout (p : Nat)
  -- slices and the fabric (08); `id` a request, `ce` and `ue` the groups of its word met in error
  | sliceRead (id : Nat) (ce ue : List Nat)
  | sliceWrite (id : Nat)
  | sliceScrub (slice : Nat) (ce ue : List Nat)
  | potluckContribution (id : Nat)
  | potluckRoundApply (a : Nat) (err : Ecc)
  | remoteFlagAdd (id : Nat)
  | readResponseLand (id : Nat)
  | writeAcknowledge (id : Nat)
  | bridgeBlockReceive (d n seq : Nat) (good : Bool)
  | bridgeNack (d n seq : Nat)
  | bridgeAck (d n seq : Nat)
  | linkRetrainEnd (d n : Nat) (ok : Bool)
  | routerFailure (d r : Nat)
  | marchComplete (slice : Nat) (b : MarchB)
  -- stacked memory (10); `q` a channel, errors by burst of the word
  | hmcRead (id : Nat) (e0 e1 : Ecc) (odc : Bool)
  | hmcWrite (id : Nat)
  | refresh (q bank : Nat)
  | hmcScrub (q : Nat) (err : Ecc) (odc : Bool)
  | temperatureReadout (q temp : Nat)
  | channelRetraining (q : Nat)
  | retrainingEnd (q : Nat) (ok : Bool) (lanes0 lanes1 : Nat)
  | tallyAdd (q : Nat) (b : AddB)
  | digestSweepComplete (n : Nat)
  | tgRunComplete (q eff fpc fbank frow errs : Nat)
  | refreshManagement (q : Nat)
  | interfaceError (q : Nat)
  -- the transport (12)
  | openConn (p : Pkt) (ver cls conn icred : Nat)
  | openAck (p : Pkt) (status ver conn icred : Nat)
  | ack (p : Pkt) (bitmap : Nat)
  | ackTimer (conn : Nat)
  | resendTimer (conn seq : Nat)
  | halfOpenTimeout (conn : Nat)
  -- owner requests (12, 14); `r` is REQID
  | regRead (p : Pkt) (r count addr : Nat)
  | regWrite (p : Pkt) (r addr : Nat) (vals : List Nat)
  | memRead (p : Pkt) (r len dpa : Nat)
  | memWrite (p : Pkt) (r dpa : Nat) (data : List Byte)
  | image (p : Pkt) (r off : Nat) (data : List Byte)
  | imageAssemblyTimeout
  | load (p : Pkt) (r len : Nat) (ext : Option LoadExt)
  | start (p : Pkt) (r : Nat) (b : StepB)
  | step (p : Pkt) (r : Nat) (b : StepB)
  | partitionKill (p : Pkt) (r part : Nat)
  | groupSet (p : Pkt) (r group : Nat) (last : Bool) (hostr size rank first : Nat) (entries : List (Nat × Nat))
  | runTestPack (p : Pkt) (r pack unit : Nat)
  | testComplete (unit : Nat) (fault : Bool)
  | testRunmaxExpiry (unit : Nat)
  | startMarch (p : Pkt) (r slice : Nat) (destructive : Bool)
  | stopMarch (p : Pkt) (r slice : Nat)
  | retrainChannel (p : Pkt) (r q : Nat)
  | digestSweep (p : Pkt) (r n : Nat)
  | clearUnitRecord (p : Pkt) (r unit : Nat)
  | fenceUnit (p : Pkt) (r unit : Nat)
  | deleteTestPack (p : Pkt) (r pack : Nat)
  | setModuleConfiguration (p : Pkt) (r : Nat) (data : List Byte)
  | warmReset (p : Pkt) (r : Nat)
  | enterShade (p : Pkt) (r : Nat)
  | leaveShade (p : Pkt) (r : Nat)
  | installOwnerKey (p : Pkt) (r : Nat) (wrapped : List Byte)
  | installPeerKey (p : Pkt) (r : Nat) (wrapped : List Byte)
  | retireOwnerPrevious (p : Pkt) (r : Nat)
  | retirePeerPrevious (p : Pkt) (r : Nat)
  | release (p : Pkt) (r : Nat)
  | fwImageData (p : Pkt) (r target off : Nat) (data : List Byte)
  | fwImageFinish (p : Pkt) (r target : Nat)
  | fwImageActivate (p : Pkt) (r target : Nat)
  | fwImageCommit (p : Pkt) (r target off : Nat)
  | fwImageAbort (p : Pkt) (r target : Nat)
  | attest (p : Pkt) (r off : Nat) (nonce : List Byte)
  | telemetryDropTimeout
  | counterSnapshot
  -- reductions (11); `n` an epoch name, `ch` a reduction channel
  | roll (p : Pkt) (n : EpName) (digest deadline rcDeadline : Nat)
  | rollResend (ch : Nat)
  | answer (p : Pkt) (n : EpName) (digest ver rank : Nat)
  | rollCallDeadline (ch : Nat)
  | roster (p : Pkt) (n : EpName) (deadline : Nat) (listener : Bool) (admitted : List Nat)
  | rollCallTimeout (ch : Nat)
  | contrib (p : Pkt) (n : EpName) (rank first : Nat) (data : List (Byte × Bool))
  | rack (p : Pkt) (n : EpName) (rank status : Nat) (nan poison : Bool) (cred first : Nat)
  | done (p : Pkt) (n : EpName) (rank : Nat) (nan poison : Bool)
  | epochDeadline (ch : Nat)
  | admitRanks (p : Pkt) (n : EpName) (deadline : Nat) (upTo : Option Nat) (excluded : List Nat)
  | late (p : Pkt) (n : EpName) (rank delay : Nat)
  | close (p : Pkt) (n : EpName) (outcome : Nat) (record : List Byte) (included : List Nat)
  | holderResultSend (ch : Nat)
  | result (p : Pkt) (n : EpName) (rank : Nat) (longSum sumNan poison : Bool) (rfmt first : Nat) (data : List (Byte × Bool))
  | abandon (p : Pkt) (n : EpName) (reason : Nat)
  | lost (p : Pkt) (n : EpName) (rank : Nat)
  | rwaitTimeout (c ch : Nat)
  | memberDeadline (ch : Nat)
  | admitIntervalExpiry (ch : Nat)
  -- cairns (13)
  | begin (p : Pkt) (b : CtlB)
  | begun (p : Pkt) (b : CtlB)
  | cairnData (p : Pkt) (off : Nat) (data : List Byte)
  | seal (p : Pkt) (b : CtlB)
  | sealed (p : Pkt) (b : CtlB)
  | cairnWriteTimeout
  | fetch (p : Pkt) (b : CtlB)
  | fetched (p : Pkt) (b : CtlB)
  | restoreComplete
  -- unit history (13)
  | unitEventCommit
  | hourlyClassification
  -- boot, power, cooling and the facility port (14, 15)
  | powerOnReset (b : PowerB)
  | computePowerUp (b : WakeB)
  | trialWatchdog
  | supplySample (mv ma : Nat)
  | limiterTick
  | coolantSample (tin tout : Int) (flow : Nat) (leak : Bool)
  | facilityStatus
  | valve (seq op : Nat)
  | shutdown (seq reason : Nat)
  | hubDieTemperature (temp : Nat) (stackCrit : Bool)
  | facilityBadFrame (unknown : Bool)
  -- the Ethernet port and PTP (12)
  | linkAttemptTimeout
  | linkLoss (b : LossB)
  | linkUp (b : BringB)
  | pauseFrame
  | nonIpFrame
  | neighborSolicitation (src target : Nat)
  | echoRequest (src ident seq : Nat) (data : List Byte)
  | extensionHeaderPacket
  | badUdpChecksum
  | malformedPacket
  | ptpSync (offset : Int)
  | ptpHoldover
  -- writes of registers with a behaviour of their own (R505): REG_WRITE of one register with value `v`
  | stepNow (p : Pkt) (r v : Nat)
  | leakClr (p : Pkt) (r v : Nat)
  | arithFlagClear (p : Pkt) (r c v : Nat)
  | talModeWrite (p : Pkt) (r q v : Nat)
  | digestRegionConfig (p : Pkt) (r n v : Nat)
  | storeConfig (p : Pkt) (r v : Nat)
  | clientConfig (p : Pkt) (r v : Nat)
  | tgOff (p : Pkt) (r q v : Nat)
  | tgReadCheck (p : Pkt) (r q v : Nat)
  | tgWriteCompare (p : Pkt) (r q v : Nat)
  | tgWriteOnly (p : Pkt) (r q v : Nat)
  | flashProgramComplete
  deriving DecidableEq, Repr

end Sys2Proof
end

