-- ==== Sys2Proof/Decode.lean ====
section
/-! DEFINITION. Decoding a word of the opcode table. The table's rows are commands with operands and no bits; the 128-bit words of stream instructions are `Machine/Words.lean`. -/

namespace Sys2Proof

/-- The command a word spells by the table's bits: none, since no row of the table gives bits. DEDUCED (log 3). -/
def decodeTableWord (_nbits _w : Nat) : Option Instr := none

end Sys2Proof
end

