-- ==== Sys2Proof/Config.lean ====
section
/-! DEFINITION. What the manual leaves open or takes from a fixed unit: free values (no body, so nothing can be proved of their value) and the standards it cites without defining them (signatures, key generation, AES key wrap). -/

namespace Sys2Proof.Config

/-- DESIGN CHOICE (log 5): a free 32-bit value; the step applies it to the counter `State.free`, which it then advances, or to a tag drawn from it. -/
opaque freeWord : Nat → Word32

/-- DESIGN CHOICE (log 5): a free byte of an area the manual calls undefined, by the area's tag and the byte's key. -/
opaque freeByte : Nat → Nat → Byte

/-- DESIGN CHOICE (log 5): the undefined value of an accumulator (R93, R549), by the set's tag and the cell's index. -/
opaque freeCell : Nat → Nat → Word32

/-- The operations whose value the manual bounds to 1 or 2 ulp but does not fix (R70). -/
inductive Approx where
  | rsqrt | exp | log | tanh | sigm | erf
  | act (code : Nat) | dact (code : Nat)
  deriving DecidableEq, Repr

/-- DESIGN CHOICE (log 5): the DETAIL of a unit-history event with a location (R453 names its parts, the bank and row, pseudo-channel or lane, and fixes no layout). -/
opaque detail : List Nat → Word64

/-- DESIGN CHOICE (log 7): the FP32 result of an approximate operation on a finite operand whose result the manual does not fix to the bit (R70); one value for each operand on every device (R71). -/
opaque approx : Approx → Word32 → Word32

/-- DESIGN CHOICE (log 7): the quotient where the manual states none: a finite or infinite dividend over zero, and Inf over Inf (R70). -/
opaque openQuotient : Word32 → Word32 → Word32

/-- DESIGN CHOICE (log 7): the rounding error that two-sum adds to a companion word where the sum is not finite (R68 states none). -/
opaque openError : Word32 → Word32 → Word32

/-- DESIGN CHOICE (log 10): the servo's next frequency correction, in 0.01 ppm, from the one in force and the measured offset (R436 states only its clamp). -/
opaque servo : Int → Int → Int

/-- DESIGN CHOICE (log 10): a connection number picked at random (R419), by the free counter. -/
opaque connNumber : Nat → Nat

/-- DESIGN CHOICE (log 6): the 14-bit hash of the two identities and the key class of a connection (R413). -/
opaque portHash : Nat → Nat → Nat → BitVec 14

/-- DESIGN CHOICE (log 34): the message types that version 0x01 defines, which this manual does not list (R416). -/
opaque oldDefines : Nat → Bool

/-- DESIGN CHOICE (log 11): the fused unique device secret (R497), a value of the device that no message, register or test reads. -/
opaque uds : Word256

/-- PRESUMED (log 11): SLH-DSA key generation, the public key from a seed (R497, FIPS 205). -/
opaque slhPublic : Word256 → List Byte

/-- PRESUMED (log 11): an SLH-DSA signature (R501, R502) under the key of a seed. -/
opaque slhSign : Word256 → List Byte → List Byte

/-- PRESUMED (log 11): an SLH-DSA-SHA2-256s verification under the fused Ramindea key (R457, R490): signed bytes, signature. -/
opaque slhVerify : List Byte → List Byte → Bool

/-- PRESUMED (log 11): AES Key Wrap's unwrap (R499, RFC 3394): the wrapping key and the 40 wrapped bytes; none where the integrity check fails. -/
opaque aesUnwrap : Word256 → List Byte → Option Word256

/-- PRESUMED (log 11): the device certificate of R497. -/
opaque certificate : List Byte

/-- DESIGN CHOICE (log 9): the header bytes 0 to 4,095 of the firmware shipped in the banks (R491), with its FWVER, SVN and NWTVER, which are the maker's. -/
opaque factoryHeader : List Byte

end Sys2Proof.Config
end

