-- ==== Sys2Proof/Machine/Bits.lean ====
section
/-! DEFINITION. Bit fields, sign extension and byte order (00 R5, R6), as plain arithmetic on natural numbers. -/

namespace Sys2Proof.Machine

/-- The field [hi:lo] of `w` (R5). -/
def bits (w hi lo : Nat) : Nat := w / 2 ^ lo % 2 ^ (hi + 1 - lo)

/-- `w` with its field [hi:lo] replaced by the low bits of `v`. -/
def setBits (w hi lo v : Nat) : Nat :=
  w / 2 ^ (hi + 1) * 2 ^ (hi + 1) + v % 2 ^ (hi + 1 - lo) * 2 ^ lo + w % 2 ^ lo

/-- The two's-complement value of the low `n` bits of `v`. -/
def signed (n v : Nat) : Int :=
  if v % 2 ^ n < 2 ^ (n - 1) then ((v % 2 ^ n : Nat) : Int) else ((v % 2 ^ n : Nat) : Int) - (2 ^ n : Nat)

/-- The low `n` bits of an integer, in two's complement. -/
def unsigned (n : Nat) (v : Int) : Nat := (v % ((2 ^ n : Nat) : Int)).toNat

/-- The value of bytes in ascending address order, little-endian (R6). -/
def ofLe : List Byte → Nat
  | [] => 0
  | b :: r => b.toNat + 256 * ofLe r

/-- The low `n` bytes of `v`, little-endian (R6). -/
def toLe : Nat → Nat → List Byte
  | 0, _ => []
  | n + 1, v => BitVec.ofNat 8 v :: toLe n (v / 256)

/-- Quotient rounded up, as the manual writes ⌈a ÷ b⌉. -/
def ceilDiv (a b : Nat) : Nat := (a + b - 1) / b

/-- Saturating value of a counter field of `n` bits. -/
def satN (n v : Nat) : Nat := min v (2 ^ n - 1)

/-- `n` copies of the zero byte. -/
def zeroBytes (n : Nat) : List Byte := List.replicate n 0

/-- `l` padded with zero bytes to a multiple of `n`. -/
def padTo (n : Nat) (l : List Byte) : List Byte := l ++ zeroBytes (ceilDiv l.length n * n - l.length)

/-- Bytes `off` to `off + n - 1` of `l`, zero where `l` ends. -/
def slice (l : List Byte) (off n : Nat) : List Byte :=
  let t := (l.drop off).take n
  t ++ zeroBytes (n - t.length)

/-- The little-endian field of `n` bytes at offset `off` (R6). -/
def fieldLe (l : List Byte) (off n : Nat) : Nat := ofLe ((l.drop off).take n)

/-- A Boolean as the manual's 1 or 0. -/
def bit (b : Bool) : Nat := if b then 1 else 0

/-- Largest element of a list, or 0. -/
def maxOf (l : List Nat) : Nat := l.foldl max 0

/-- Sum of a list. -/
def sumOf (l : List Nat) : Nat := l.foldl (· + ·) 0

end Sys2Proof.Machine
end

