-- ==== Sys2Proof/Machine/Num.lean ====
section
/-! DEFINITION. Number formats and exact arithmetic (02 R40 to R54, R62, R70): every finite value is an exact dyadic rational, computed exactly and rounded once at the end. -/

namespace Sys2Proof.Machine

/-- The arithmetic flags an operation raises, laid out as ENG_ARITH_FLAGS bits [7:0] (R73). -/
abbrev Fl := BitVec 8

/-- OVF: an FP32 result or an MX widening overflowed to Inf. -/
def Fl.ovf : Fl := 0x01
/-- NAN_GEN: an invalid operation produced NaN. -/
def Fl.nanGen : Fl := 0x02
/-- NAN_IN: a NaN entered a cell or a row-engine operation. -/
def Fl.nanIn : Fl := 0x04
/-- NARROW_OVF: a BF16 or FP16 narrowing turned a finite value into Inf. -/
def Fl.narrowOvf : Fl := 0x08
/-- MX_NANBLK: an MX narrowing wrote scale 0xFF. -/
def Fl.mxNanBlk : Fl := 0x10
/-- MX_SAT: an MX narrowing replaced an element by the element maximum. -/
def Fl.mxSat : Fl := 0x20
/-- I8_SAT: an INT8 conversion saturated or met NaN. -/
def Fl.i8Sat : Fl := 0x40
/-- LONG_K: a K-step count saturated at 2^24. -/
def Fl.longK : Fl := 0x80

/-- A value of any format: NaN, an infinity, or the finite value (−1)^neg × m × 2^e (signed zero included). -/
inductive Num where
  | nan
  | inf (neg : Bool)
  | fin (neg : Bool) (m : Nat) (e : Int)
  deriving DecidableEq, Repr

/-- How a format encodes infinities and NaN (R40). -/
inductive Special where
  | ieee   -- exponent all ones
  | e4m3   -- NaN at S.1111.111 only
  | none   -- neither
  deriving DecidableEq, Repr

/-- A floating-point format of the table of R40. -/
structure Fmt where
  eb : Nat
  mb : Nat
  bias : Nat
  sp : Special
  deriving DecidableEq, Repr

/-- FP32, code 0x0. -/
def fp32 : Fmt := ⟨8, 23, 127, .ieee⟩
/-- BF16, code 0x1. -/
def bf16 : Fmt := ⟨8, 7, 127, .ieee⟩
/-- FP16, code 0x2. -/
def fp16 : Fmt := ⟨5, 10, 15, .ieee⟩

/-- The format of a type code (R16, R40); codes 0x8 and above name no floating-point format. -/
def fmtOf (code : Nat) : Option Fmt :=
  match code with
  | 0 => some fp32
  | 1 => some bf16
  | 2 => some fp16
  | 3 => some ⟨4, 3, 7, .e4m3⟩
  | 4 => some ⟨5, 2, 15, .ieee⟩
  | 5 => some ⟨3, 2, 3, .none⟩
  | 6 => some ⟨2, 3, 1, .none⟩
  | 7 => some ⟨2, 1, 1, .none⟩
  | _ => none

/-- An MX element code (R16). -/
def isMx (code : Nat) : Bool := 3 ≤ code && code ≤ 7

/-- Element width in bits (R16). -/
def widthOf (code : Nat) : Nat :=
  match code with
  | 0 => 32
  | 1 => 16
  | 2 => 16
  | 3 => 8
  | 4 => 8
  | 5 => 6
  | 6 => 6
  | 7 => 4
  | _ => 8

/-- The bytes that `n` packed elements take (R45): an MXFP6 group of four takes three bytes and an MXFP4 pair one byte, whole where the last one is short. DEDUCED (log 13). -/
def packedLen (code n : Nat) : Nat :=
  match widthOf code with
  | 6 => ceilDiv n 4 * 3
  | 4 => ceilDiv n 2
  | w => n * (w / 8)

/-- Largest normal exponent of an MX element format (R59, step 3). -/
def emaxOf (code : Nat) : Int :=
  match code with
  | 3 => 8
  | 4 => 15
  | 5 => 4
  | 6 => 2
  | _ => 2

/-- The largest finite magnitude's encoding (R40). -/
def Fmt.maxCode (f : Fmt) : Nat :=
  match f.sp with
  | .ieee => (2 ^ f.eb - 1) * 2 ^ f.mb - 1
  | .e4m3 => 2 ^ (f.eb + f.mb) - 2
  | .none => 2 ^ (f.eb + f.mb) - 1

/-- The canonical quiet NaN of an IEEE-shaped format (R48). -/
def Fmt.nanCode (f : Fmt) : Nat := (2 ^ f.eb - 1) * 2 ^ f.mb + 2 ^ (f.mb - 1)

/-- The value of an encoding (R40). -/
def Fmt.decode (f : Fmt) (w : Nat) : Num :=
  let neg := w / 2 ^ (f.eb + f.mb) % 2 == 1
  let ex := w / 2 ^ f.mb % 2 ^ f.eb
  let mant := w % 2 ^ f.mb
  let special : Option Num :=
    match f.sp with
    | .ieee => if ex = 2 ^ f.eb - 1 then some (if mant = 0 then .inf neg else .nan) else none
    | .e4m3 => if ex = 2 ^ f.eb - 1 ∧ mant = 2 ^ f.mb - 1 then some .nan else none
    | .none => none
  match special with
  | some x => x
  | none =>
    if ex = 0 then .fin neg mant (1 - (f.bias : Int) - f.mb)
    else .fin neg (2 ^ f.mb + mant) ((ex : Int) - f.bias - f.mb)

/-- Rounding of the dropped part of a magnitude (R52, R54). -/
inductive RMode where
  | rne
  | sr (draw : Nat)
  | rtz
  deriving DecidableEq, Repr

/-- `m × 2^(-k)` truncated to an integer and, by the mode, moved one away from zero: the dropped bits are compared with one half (RNE), or their 16 leading bits are added to the draw (R54). -/
def roundShift (mode : RMode) (m k : Nat) : Nat :=
  let t := m / 2 ^ k
  let r := m % 2 ^ k
  let up : Bool :=
    match mode with
    | .rne => decide (2 ^ k < 2 * r) || (decide (2 ^ k = 2 * r) && t % 2 == 1)
    | .sr draw => decide (2 ^ 16 ≤ r * 2 ^ 16 / 2 ^ k + draw % 2 ^ 16)
    | .rtz => false
  if up then t + 1 else t

/-- Bits in a positive magnitude. -/
def bitLen (m : Nat) : Nat := if m = 0 then 0 else Nat.log2 m + 1

/-- The encoding of a finite magnitude rounded to the format's precision, its exponent unbounded above: compare with `Fmt.maxCode` for overflow. -/
def Fmt.roundMag (f : Fmt) (mode : RMode) (m : Nat) (e : Int) : Nat :=
  if m = 0 then 0
  else
    let qmin : Int := 1 - (f.bias : Int) - f.mb
    let q : Int := max (e + bitLen m - (f.mb + 1)) qmin
    let t := if q ≤ e then m * 2 ^ (e - q).toNat else roundShift mode m (q - e).toNat
    ((q + f.mb + f.bias).toNat) * 2 ^ f.mb + t - 2 ^ f.mb

/-- The sign bit of an encoding. -/
def Fmt.signBit (f : Fmt) (neg : Bool) : Nat := if neg then 2 ^ (f.eb + f.mb) else 0

/-- Encode an exact value as FP32 under RNE, with OVF where a finite result passes the FP32 maximum (R49, R53). -/
def rnd32 (x : Num) : Word32 × Fl :=
  match x with
  | .nan => (0x7FC00000, 0)
  | .inf neg => (BitVec.ofNat 32 (fp32.signBit neg + 0x7F800000), 0)
  | .fin neg m e =>
    let c := fp32.roundMag .rne m e
    if c > fp32.maxCode then (BitVec.ofNat 32 (fp32.signBit neg + 0x7F800000), Fl.ovf)
    else (BitVec.ofNat 32 (fp32.signBit neg + c), 0)

/-- The value of an FP32 word. -/
def val32 (w : Word32) : Num := fp32.decode w.toNat

/-- A word, canonical where it is NaN (R48). -/
def canonical (w : Word32) : Word32 := if val32 w = .nan then 0x7FC00000 else w

/-- A value is NaN. -/
def Num.isNan : Num → Bool
  | .nan => true
  | _ => false

/-- A value is zero of either sign. -/
def Num.isZero : Num → Bool
  | .fin _ m _ => m == 0
  | _ => false

/-- Sign of a value; NaN counts as positive. -/
def Num.neg : Num → Bool
  | .nan => false
  | .inf n => n
  | .fin n _ _ => n

/-- The value with its sign turned; NaN stays NaN. -/
def Num.flip : Num → Num
  | .nan => .nan
  | .inf n => .inf (!n)
  | .fin n m e => .fin (!n) m e

/-- The value times 2^k. -/
def Num.scale (k : Int) : Num → Num
  | .fin n m e => .fin n m (e + k)
  | x => x

/-- Exact product (R49): NaN in an operand gives NaN, 0 × Inf gives NaN with NAN_GEN. -/
def mulExact (a b : Num) : Num × Fl :=
  match a, b with
  | .nan, _ => (.nan, 0)
  | _, .nan => (.nan, 0)
  | .inf n, y => if y.isZero then (.nan, Fl.nanGen) else (.inf (n != y.neg), 0)
  | x, .inf n => if x.isZero then (.nan, Fl.nanGen) else (.inf (x.neg != n), 0)
  | .fin n m e, .fin n' m' e' => (.fin (n != n') (m * m') (e + e'), 0)

/-- A finite value as an integer multiple of 2^k, for k at most its exponent. -/
def Num.toInt (k : Int) : Num → Int
  | .fin n m e => (if n then -1 else 1) * ((m * 2 ^ (e - k).toNat : Nat) : Int)
  | _ => 0

/-- Exponent of a finite value's unit, or `d`. -/
def Num.expOr (d : Int) : Num → Int
  | .fin _ _ e => e
  | _ => d

/-- Exact sum of a list of addends (R49, R62, R63): NaN wins, opposite infinities give NaN with NAN_GEN, an exact zero is +0 unless every addend is −0. -/
def sumExact (l : List Num) : Num × Fl :=
  if l.any Num.isNan then (.nan, 0)
  else
    let p := l.any (fun x => x == .inf false)
    let n := l.any (fun x => x == .inf true)
    if p && n then (.nan, Fl.nanGen)
    else if p then (.inf false, 0)
    else if n then (.inf true, 0)
    else
      let k := l.foldl (fun a x => min a (x.expOr a)) ((l.head?.map (Num.expOr 0)).getD 0)
      let s := l.foldl (fun (a : Int) x => a + x.toInt k) 0
      if s = 0 then (.fin (!l.isEmpty && l.all Num.neg) 0 0, 0)
      else (.fin (decide (s < 0)) s.natAbs k, 0)

/-- Round a result with flags to FP32, joining the flags. -/
def finish32 (x : Num × Fl) : Word32 × Fl :=
  let r := rnd32 x.1
  (r.1, x.2 ||| r.2)

/-- FP32 addition, RNE (R53, R70). -/
def add32 (a b : Word32) : Word32 × Fl := finish32 (sumExact [val32 a, val32 b])

/-- FP32 subtraction, RNE. -/
def sub32 (a b : Word32) : Word32 × Fl := finish32 (sumExact [val32 a, (val32 b).flip])

/-- FP32 multiplication, RNE. -/
def mul32 (a b : Word32) : Word32 × Fl := finish32 (mulExact (val32 a) (val32 b))

/-- FP32 fused multiply-add, one rounding (R70). -/
def fma32 (a b c : Word32) : Word32 × Fl :=
  let p := mulExact (val32 a) (val32 b)
  let r := finish32 (sumExact [p.1, val32 c])
  (r.1, p.2 ||| r.2)

/-- Quotient of two finite nonzero magnitudes with enough bits and a sticky bit, so that one rounding of it is the correct rounding. -/
def quotNum (neg : Bool) (m : Nat) (e : Int) (m' : Nat) (e' : Int) : Num :=
  let k := 40 + bitLen m'
  let q := m * 2 ^ k / m'
  let r := m * 2 ^ k % m'
  .fin neg (2 * q + (if r = 0 then 0 else 1)) (e - e' - k - 1)

/-- FP32 division, correctly rounded under RNE (R70); where the manual states no quotient the result is open (log 7). -/
def div32 (a b : Word32) : Word32 × Fl :=
  match val32 a, val32 b with
  | .nan, _ => (0x7FC00000, 0)
  | _, .nan => (0x7FC00000, 0)
  | .inf _, .inf _ => (canonical (Config.openQuotient a b), 0)
  | .inf n, .fin n' m' _ => if m' = 0 then (canonical (Config.openQuotient a b), 0) else rnd32 (.inf (n != n'))
  | .fin n _ _, .inf n' => rnd32 (.fin (n != n') 0 0)
  | .fin n m e, .fin n' m' e' =>
    if m' = 0 then (canonical (Config.openQuotient a b), 0)
    else if m = 0 then rnd32 (.fin (n != n') 0 0)
    else rnd32 (quotNum (n != n') m e m' e')

/-- Bit-by-bit integer square root: bits `b − 1` to 0 are tried in turn. -/
def isqrtFrom (m : Nat) : Nat → Nat → Nat
  | 0, r => r
  | b + 1, r => if (r + 2 ^ b) * (r + 2 ^ b) ≤ m then isqrtFrom m b (r + 2 ^ b) else isqrtFrom m b r

/-- ⌊√m⌋. -/
def isqrt (m : Nat) : Nat := isqrtFrom m (bitLen m / 2 + 1) 0

/-- FP32 square root, correctly rounded; a negative operand other than −0 gives NaN with NAN_GEN (R49). -/
def sqrt32 (a : Word32) : Word32 × Fl :=
  match val32 a with
  | .nan => (0x7FC00000, 0)
  | .inf n => if n then (0x7FC00000, Fl.nanGen) else rnd32 (.inf false)
  | .fin n m e =>
    if m = 0 then rnd32 (.fin n 0 0)
    else if n then (0x7FC00000, Fl.nanGen)
    else
      let k : Nat := if (e % 2 : Int) = 0 then 60 else 61
      let mm := m * 2 ^ k
      let r := isqrt mm
      rnd32 (.fin false (2 * r + (if r * r = mm then 0 else 1)) ((e - k) / 2 - 1))

/-- Order of values as the IEEE 754-2019 maximum takes it: −0 below +0 (R216). Neither operand is NaN. -/
def numLt (a b : Num) : Bool :=
  match a, b with
  | .inf n, .inf n' => n && !n'
  | .inf n, _ => n
  | _, .inf n => !n
  | x, y =>
    let k := min (x.expOr 0) (y.expOr 0)
    let i := x.toInt k
    let j := y.toInt k
    decide (i < j) || (decide (i = j) && x.neg && !y.neg)

/-- Larger of two FP32 words, NaN if either is NaN (R216). -/
def max32 (a b : Word32) : Word32 :=
  if (val32 a).isNan || (val32 b).isNan then 0x7FC00000
  else if numLt (val32 a) (val32 b) then b else a

/-- Smaller of two FP32 words, NaN if either is NaN (R216). -/
def min32 (a b : Word32) : Word32 :=
  if (val32 a).isNan || (val32 b).isNan then 0x7FC00000
  else if numLt (val32 b) (val32 a) then b else a

/-- Two-sum (R68): the rounded sum and its exact rounding error; where the sum is not finite the manual states no error (log 7). -/
def twoSum (s x : Word32) : Word32 × Word32 × Fl :=
  let r := add32 s x
  match val32 s, val32 x, val32 r.1 with
  | .fin a b c, .fin a' b' c', .fin a'' b'' c'' =>
    let e := rnd32 (sumExact [.fin a b c, .fin a' b' c', (Num.fin a'' b'' c'').flip]).1
    (r.1, e.1, r.2)
  | _, _, _ => (r.1, canonical (Config.openError s x), r.2)

end Sys2Proof.Machine
end

