-- ==== Sys2Proof/Machine/Interleave.lean ====
section
/-! DEFINITION. Where addresses land: the scratchpad interleave (08 R278) and the stacked-memory map with removed slots (10 R332 to R334). -/

namespace Sys2Proof.Machine

/-- First DPA of the hamper windows (R8, R9). -/
def hamperDpa : Nat := 0x000100000000
/-- First DPA of stacked memory (R8). -/
def stackDpa : Nat := 0x010000000000
/-- First DPA after stacked memory (R8). -/
def stackTop : Nat := 0x019000000000

/-- Slice of a scratchpad DPA (R278). -/
def sliceOf (a : Nat) : Nat := (bits a 19 11 ^^^ bits a 28 20) ^^^ (bits a 31 29 * 64)

/-- Bank of a scratchpad DPA. -/
def bankOf (a : Nat) : Nat := bits a 10 6 ^^^ bits a 15 11

/-- Row of a scratchpad DPA within its bank. -/
def rowOf (a : Nat) : Nat := bits a 31 20

/-- The DPA of the word in a slice's bank and row: the inverse of R278. -/
def sliceDpa (slice bank row : Nat) : Nat :=
  let base := row * 2 ^ 20
  let line := slice ^^^ bits base 28 20 ^^^ (bits base 31 29 * 64)
  let a := base + line * 2 ^ 11
  a + (bank ^^^ bits a 15 11) * 64

/-- Physical channel of a slot (R332). -/
def chanOf (slot : Nat) : Nat := slot % 8 * 32 + slot / 8

/-- Slot of a physical channel. -/
def slotOf (q : Nat) : Nat := q % 32 * 8 + q / 32

/-- Where a stacked-memory DPA lands: physical channel, pseudo-channel, bank, row, byte, block on the channel. -/
structure Home where
  chan : Nat
  pc : Nat
  bank : Nat
  row : Nat
  byte : Nat
  blk : Nat
  deriving DecidableEq, Repr

/-- The slots not removed, ascending. -/
def liveSlots (removed : List Nat) : List Nat := (List.range 256).filter (fun s => !removed.contains s)

/-- Blocks still fully mapped. -/
def lowerBlocks (k : Nat) : Nat := 2304 * (256 - k)

/-- `home` of R332 under a list of removed slots in ascending order; none where UNMAPPED. -/
def home (removed : List Nat) (a : Nat) : Option Home :=
  let o := a - stackDpa
  let g := o / 4096
  let w := o / 64 % 64
  let s := bits g 7 0 ^^^ bits g 15 8 ^^^ bits g 23 16 ^^^ bits g 27 24
  let l := g / 256
  let k := removed.length
  let lower := lowerBlocks k
  if lower ≤ l then none
  else
    let j := (removed.idxOf s) * lower + l
    let (slot, blk) := if removed.contains s then ((liveSlots removed).getD (j % (256 - k)) 0, lower + j / (256 - k)) else (s, l)
    let c := w / 16
    let x := 2 * blk + c / 2
    some ⟨chanOf slot, c % 2, bits x 5 0 ^^^ bits x 11 6, x / 64, o % 1024, blk⟩

/-- First DPA of the granule that a channel's block holds; none where no DPA lands there: the inverse of R332. -/
def granuleDpa (removed : List Nat) (q blk : Nat) : Option Nat :=
  let k := removed.length
  let lower := lowerBlocks k
  let mk := fun (slot l : Nat) => stackDpa + (l * 256 + (slot ^^^ bits l 7 0 ^^^ bits l 15 8 ^^^ bits l 19 16)) * 4096
  let s := slotOf q
  if removed.contains s then none
  else if blk < lower then some (mk s blk)
  else
    let j := (blk - lower) * (256 - k) + (liveSlots removed).idxOf s
    if j < k * lower then some (mk (removed.getD (j / lower) 0) (j % lower)) else none

/-- A DPA's contents survive a rebuild: its home is the same (R334). -/
def sameHome (old new : List Nat) (a : Nat) : Bool := home old a == home new a

/-- Keys an undefined or zeroed area holds: all, one slice's words (R278), those whose home a rebuild moved (R334), or a traffic generator's range of a channel (R355). -/
inductive Sel where
  | all
  | slice (s : Nat)
  | moved (old new : List Nat)
  | chan (removed : List Nat) (q pcs banks rows : Nat)
  deriving DecidableEq, Repr

/-- A key lies in a selection. -/
def Sel.has (x : Sel) (k : Nat) : Bool :=
  match x with
  | .all => true
  | .slice s => decide (k < hamperDpa) && sliceOf k == s
  | .moved old new => decide (stackDpa ≤ k) && !sameHome old new k
  | .chan removed q pcs banks rows =>
    decide (stackDpa ≤ k) &&
    (match home removed k with
     | some h => h.chan == q && bits pcs h.pc h.pc == 1 && decide (h.bank ≤ banks) && decide (h.row ≤ rows)
     | none => false)

end Sys2Proof.Machine
end

