-- ==== Sys2Proof/Machine/Tab.lean ====
section
/-! DEFINITION. Sparse tables: a list of (key, value) pairs in ascending key order. What an unlisted key reads as is the reader's argument. -/

namespace Sys2Proof.Machine

/-- A sparse table keyed by natural numbers. -/
abbrev Tab (α : Type) := List (Nat × α)

/-- The listed value of a key, if any. -/
def Tab.find {α : Type} (t : Tab α) (k : Nat) : Option α :=
  match t with
  | [] => none
  | (k', v) :: r => if k' = k then some v else Tab.find r k

/-- The value of a key, `d` where none is listed. -/
def Tab.get {α : Type} (t : Tab α) (d : α) (k : Nat) : α := (Tab.find t k).getD d

/-- The table with `k` listed as `v`, in ascending key order. -/
def Tab.put {α : Type} (t : Tab α) (k : Nat) (v : α) : Tab α :=
  match t with
  | [] => [(k, v)]
  | (k', v') :: r => if k < k' then (k, v) :: (k', v') :: r else if k = k' then (k, v) :: r else (k', v') :: Tab.put r k v

/-- The table without `k`. -/
def Tab.del {α : Type} (t : Tab α) (k : Nat) : Tab α := t.filter (fun p => p.1 != k)

/-- The table with the value of `k` changed by `f`. -/
def Tab.upd {α : Type} (t : Tab α) (d : α) (k : Nat) (f : α → α) : Tab α := Tab.put t k (f (Tab.get t d k))

/-- The table without the keys that `p` holds of. -/
def Tab.drop {α : Type} (t : Tab α) (p : Nat → Bool) : Tab α := t.filter (fun e => !p e.1)

/-- The keys strictly rise. -/
def Tab.rising {α : Type} (t : Tab α) : Prop := List.Pairwise (fun a b => a.1 < b.1) t

/-- A sorted list of natural numbers with `k` in it. -/
def insertNat (k : Nat) : List Nat → List Nat
  | [] => [k]
  | a :: r => if k < a then k :: a :: r else if k = a then a :: r else a :: insertNat k r

/-- The list with every element of `ks` removed. -/
def removeNats (ks : List Nat) (l : List Nat) : List Nat := l.filter (fun a => !ks.contains a)

end Sys2Proof.Machine
end

