-- ==== Sys2Proof/Machine/CoreTypes.lean ====
section
/-! DEFINITION. The parts of a core and the fabric's requests, as plain data (03, 04, 05, 08, 09). -/

namespace Sys2Proof.Machine

/-- A byte with its poison mark (R90, R132, R190). -/
abbrev PByte := Byte × Bool

/-- An FP32 value with its poison bit. -/
abbrev PWord := Word32 × Bool

/-- Claim modes (R137). -/
inductive CMode where
  | read
  | write
  | acc
  deriving DecidableEq, Repr

/-- A claim: region number and mode. -/
structure Claim where
  region : Nat
  mode : CMode
  deriving DecidableEq, Repr

/-- One running loop (R179): `body` and `tail` are table indices, `tail` that of its ENDLOOP. -/
structure Loop where
  count : Nat
  index : Nat
  body : Nat
  tail : Nat
  deriving DecidableEq, Repr

/-- An instruction whose claims are not all granted (R138): the ECLK in which it requested them, the claims granted and those waited for. DEDUCED (log 16). -/
structure Hold where
  t : Nat
  ins : Ovt
  got : List Claim
  want : List Claim
  deriving DecidableEq, Repr

/-- One stream sequencer (R124, R125, R172): `state` and `stall` are encoded as ASTATE and ASTALL, `table` is the instruction memory, `entry` is the slot of a LOOP waiting for a value, `link` the ids of the linked group being issued (R208), `slotw` a CSET waiting to write. -/
structure Stream where
  state : Nat
  pc : Nat
  stall : Nat
  obj : Nat
  loops : List Loop
  table : List Word128
  hold : Option Hold
  entry : Option Nat
  slotw : Bool
  link : List Nat
  deriving DecidableEq, Repr

/-- An address generator (R184 to R186). -/
structure AddrGen where
  region : Option Nat
  offset : Nat
  strides : List Nat
  deriving DecidableEq, Repr

/-- A count-slot write in issue order (R156): the CLOAD's id (none: a CSET) and the value, once known. -/
structure SlotWrite where
  op : Option Nat
  value : Option Nat
  deriving DecidableEq, Repr

/-- A count slot (R154, R156): declared maximum and readers, value, its sequence number, and the number each stream last latched. -/
structure Slot where
  max : Nat
  readA : Bool
  readX : Bool
  value : Nat
  seq : Nat
  latA : Nat
  latX : Nat
  writes : List SlotWrite
  deriving DecidableEq, Repr

/-- A data queue (R128 to R132): depth in slabs, stream position of the front byte, bytes, poisoned 4-byte words by stream position ÷ 4, and the pops and pushes of the last 256 ECLK (R319). -/
structure Queue where
  depth : Nat
  head : Nat
  bytes : List Byte
  poison : List Nat
  pops : List (Nat × Nat)
  pushes : List (Nat × Nat)
  deriving DecidableEq, Repr

/-- Consecutive bytes a transfer reads or writes; no address: the zero bytes of a null index (R196). -/
structure Seg where
  addr : Option Nat
  len : Nat
  deriving DecidableEq, Repr

/-- Binding of a PFETCH (R191): not latched yet, confirmed, voided; other instructions are confirmed. -/
inductive Bound where
  | waiting
  | sure
  | void
  deriving DecidableEq, Repr

/-- One accumulator set of an array or quadrant (R83, R89, R90, R94): region, K-step count, listed cells (32 × row + column), poisoned cells, and the tag of undefined contents (R93, R549). -/
structure AccSet where
  region : Option (Nat × Nat)
  kc : Nat
  cells : Tab Word32
  poison : List Nat
  undef : Option Nat
  deriving DecidableEq, Repr

/-- An issued instruction that has not completed, with its progress: source and destination bytes and how many 64-byte requests of each are sent and done, landed bytes by position, bytes popped and pushed, units done (`cnt`: steps, rows or groups), the loop-dependent origins captured at issue (`region`: a tile's rows and columns, or a GATHER's claimed region; `row0`, `col0`: a tile's origin, an RX's first element index, a GATHER's base; of a reduction instruction `row0` is the ordinal of its epoch), the row engine's scalar operands, running value and the results of its last group that no queue has taken yet (`res`, by queue, R218), and the contents that a drain still reads of a set that a later step has entered (R87). -/
structure Op where
  id : Nat
  st : Strm
  pc : Nat
  cf : Cf
  ins : Ovt
  issued : Nat
  step : Nat
  bound : Bound
  claims : List Claim
  src : List Seg
  dst : List Seg
  rsent : Nat
  rland : Nat
  wsent : Nat
  wdone : Nat
  landed : Tab PByte
  popped : Nat
  pushed : Nat
  cnt : Nat
  group : List Nat
  desc : Option DescB
  region : Nat × Nat
  row0 : Nat
  col0 : Nat
  scal : List PWord
  acc : Option PWord
  res : List (Nat × List PByte)
  rch : Nat
  snap : Option AccSet
  deriving DecidableEq, Repr

/-- What a pending push of a drain carries. -/
inductive PushKind where
  | row
  | side
  | topk
  deriving DecidableEq, Repr

/-- A drained row on its way to a queue (R110, R111): FP32 values with poison, after the activation stage (a side row: before it). -/
structure Push where
  op : Nat
  kind : PushKind
  q : Nat
  row : Nat
  vals : List PWord
  deriving DecidableEq, Repr

/-- A column-block buffer (R107): its drain, whether it holds the side output, the rows collected, and how many pushes it has made once full. -/
structure ColBuf where
  op : Nat
  side : Bool
  rows : List (List PWord)
  full : Bool
  made : Nat
  deriving DecidableEq, Repr

/-- Current-ramp state of an array (R118, R119): as reset leaves it (idle, with RAMP at its reset value 0, R122; DEDUCED, log 69), idle, strolling or stepping at full rate, in stage s of a ramp-down, in stage s of a ramp-up. -/
inductive Ramp where
  | rest
  | idle
  | full
  | down (s : Nat)
  | up (s : Nat)
  deriving DecidableEq, Repr

/-- One array (03): mode and quadrant pairing, the operation ports (key 3 × quadrant + port: 0 step, 1 preload, 2 drain; ids of at most two operations each, R565), the sets (key 4 × quadrant + set), the regions by which issued instructions last named the sets (R94), pending pushes, column-block buffers, a waiting AMODE, the ramp with the ECLK of the last step and of the stage's start, the ECLK of strolling in the gap so far (R118, R120) and the GAP it began with (R552), the first ECLK in which each quadrant may take another step (R77), and the tag of undefined contents of the sets not listed (R93, R549). -/
structure Arr where
  qm : Bool
  ta : Nat
  tb : Nat
  ports : Tab (List Nat)
  sets : Tab AccSet
  named : Tab (Nat × Nat)
  pushes : List Push
  bufs : List ColBuf
  amode : Option Nat
  ramp : Ramp
  lastStep : Nat
  stageAt : Nat
  gap : Nat
  gapMax : Nat
  nextAt : Tab Nat
  undef : Option Nat
  deriving DecidableEq, Repr

/-- A spread bank (R112 to R116): the tile's type, block axis, rows and columns, its bytes (elements from 0, scales from 32,768), poisoned 8-byte groups, and the tag of undefined contents. -/
structure Spread where
  type : Nat
  bax : Nat
  rows : Nat
  cols : Nat
  bytes : Tab Byte
  poison : List Nat
  undef : Option Nat
  deriving DecidableEq, Repr

/-- A completion add not made yet (R147): the flag and the instruction that makes it. -/
structure Comp where
  flag : Nat
  st : Strm
  pc : Nat
  deriving DecidableEq, Repr

/-- A burst that the access unit is sending (R316): its number, the ECLK of its first word, line or granule, write or read, timed or not, its last word and its words. -/
structure Burst where
  id : Nat
  start : Nat
  line : Nat
  wr : Bool
  timed : Bool
  last : Nat
  words : Nat
  deriving DecidableEq, Repr

/-- The edges of one phase in the step in progress (R273): start edges, and whether a start, an end, an A-stream edge and an X-stream edge were seen. The times are CORE_PHSn and CORE_PHEn. -/
structure Phase where
  count : Nat
  started : Bool
  ended : Bool
  a : Bool
  x : Bool
  deriving DecidableEq, Repr

/-- One physical core; `ords` counts the REPOCHs it has issued on each channel in the step in progress (R375), `adds` holds for a flag the ECLK of its last add and what that ECLK has added to it (R182), `portUse` for a spread's port (2 × pair + port: 0 column, 1 row) the ECLK and array it last served (R115). -/
structure Core where
  a : Stream
  x : Stream
  flags : Tab Nat
  slots : Tab Slot
  ags : Tab AddrGen
  dds : Tab DescB
  scalars : Tab PWord
  rebase : Option (Nat × Nat × Nat)
  queues : Tab Queue
  regions : Tab (Nat × Nat)
  ops : List Op
  next : Nat
  arrays : Tab Arr
  spreads : Tab Spread
  comps : List Comp
  bursts : List Burst
  phases : Tab Phase
  ords : Tab Nat
  adds : Tab (Nat × Nat)
  portUse : Tab (Nat × Nat)
  deriving DecidableEq, Repr

/-- A stream with no program. -/
def Stream.reset : Stream := ⟨0, 0, 0, 0, [], [], none, none, false, []⟩

/-- A core after reset: no program, every queue, flag, slot and set empty or zero. DESIGN CHOICE (log 8). -/
def Core.reset : Core := ⟨Stream.reset, Stream.reset, [], [], [], [], [], none, [], [], [], 0, [], [], [], [], [], [], [], []⟩

/-- An array after reset: full-array mode, idle, sets with no region. DESIGN CHOICE (log 8). -/
def Arr.reset : Arr := ⟨false, 0, 0, [], [], [], [], [], none, .rest, 0, 0, 0, 0, [], none⟩

/-- A set that nothing has named: +0 in every cell (log 8). -/
def AccSet.reset : AccSet := ⟨none, 0, [], [], none⟩

/-- A queue that is not declared. DESIGN CHOICE (log 8). -/
def Queue.reset : Queue := ⟨0, 0, [], [], [], []⟩

/-- A slot that is not declared. DESIGN CHOICE (log 8). -/
def Slot.reset : Slot := ⟨0, false, false, 0, 0, 0, 0, []⟩

/-- A generator that no AGBASE has set (R186). DESIGN CHOICE (log 8). -/
def AddrGen.reset : AddrGen := ⟨none, 0, [0, 0, 0, 0, 0, 0]⟩

/-- A spread bank that nothing has loaded. DESIGN CHOICE (log 8). -/
def Spread.reset : Spread := ⟨0, 0, 0, 0, [], [], none⟩

/-! ## The fabric (08, 09) -/

/-- What a fabric request does (R283, R286): read, masked write, potluck contribution, remote flag add (core, flag, amount). -/
inductive FKind where
  | read
  | write
  | pot
  | flag (core n k : Nat)
  deriving DecidableEq, Repr

/-- A 64-byte fabric request that holds a tracker (R283, R322): the physical core and instruction that sent it, its kind, the first byte's DPA and length, its bytes' position in the transfer, the data, the ECLK it was sent, its latest-service time, whether it has been served, for a potluck contribution the 4-byte words not yet applied, and the number of its burst, 0 outside one (R316). -/
structure FabReq where
  id : Nat
  core : Nat
  op : Nat
  kind : FKind
  addr : Nat
  len : Nat
  pos : Nat
  data : List PByte
  sent : Nat
  stamp : Option Nat
  served : Bool
  left : List Nat
  burst : Nat
  deriving DecidableEq, Repr

/-- A request is a remote flag add, which addresses no memory. -/
def FabReq.flags (r : FabReq) : Bool :=
  match r.kind with
  | .flag _ _ _ => true
  | _ => false

end Sys2Proof.Machine
end

