-- ==== Sys2Proof/Machine/Memory.lean ====
section
/-! DEFINITION. Device memory: the scratchpad, the hampers and stacked memory as one list of bytes in canonical form, with poison marks and undefined areas (00 R6 to R9, 08 R278 to R282, 10 R332 to R340). -/

namespace Sys2Proof.Machine

/-- First DPA of the management registers (R8). -/
def mgmtDpa : Nat := 0x7F0000000000
/-- Key of the first byte of the hamper of physical core 0; each hamper takes 2 MiB of keys. -/
def hamperKey : Nat := 0x000100000000
/-- Bytes of a hamper (R9). -/
def hamperSize : Nat := 0x200000

/-- An area laid over memory: keys `lo` to `hi − 1` that `sel` holds; its unwritten bytes are free values of a tag, or zero where there is none. -/
structure Area where
  lo : Nat
  hi : Nat
  sel : Sel
  tag : Option Nat
  deriving DecidableEq, Repr

/-- Memory: written bytes by key, poisoned groups by the key of their first byte, areas (newest first). A key is a scratchpad or stacked-memory DPA, or a hamper byte of a physical core. -/
structure Memory where
  cells : Tab Byte
  poison : List Nat
  areas : List Area
  deriving DecidableEq, Repr

/-- Memory with nothing listed: every byte zero, no poison (R282, R348). -/
def Memory.empty : Memory := ⟨[], [], []⟩

/-- A key lies in an area. -/
def Area.has (a : Area) (k : Nat) : Bool := decide (a.lo ≤ k ∧ k < a.hi) && a.sel.has k

/-- The tag of a key's unlisted byte: that of the newest area that holds it. -/
def Memory.tagOf (m : Memory) (k : Nat) : Option Nat := (m.areas.find? (fun a => a.has k)).bind Area.tag

/-- What an unlisted key reads as: a free byte in an undefined area, else zero. -/
def Memory.base (m : Memory) (k : Nat) : Byte :=
  match m.tagOf k with
  | some t => Config.freeByte t k
  | none => 0

/-- One byte as stored. -/
def Memory.byte (m : Memory) (k : Nat) : Byte := (Tab.find m.cells k).getD (m.base k)

/-- Bytes that share one poison mark: 8 in scratchpad and hampers (R280), 32 in stacked memory (R340). -/
def groupSize (k : Nat) : Nat := if k < stackDpa then 8 else 32

/-- The first key of a key's poison group. -/
def groupOf (k : Nat) : Nat := k / groupSize k * groupSize k

/-- A byte's poison mark: that of its group. -/
def Memory.bad (m : Memory) (k : Nat) : Bool := m.poison.contains (groupOf k)

/-- Bytes from key `k` with their marks. -/
def Memory.readB (m : Memory) (k n : Nat) : List PByte := (List.range n).map (fun i => (m.byte (k + i), m.bad (k + i)))

/-- Store one byte, keeping the canonical form: a zero byte of a key that reads zero unlisted is not listed. -/
def Memory.setByte (m : Memory) (k : Nat) (b : Byte) : Memory :=
  { m with cells := if (m.tagOf k).isNone ∧ b = 0 then Tab.del m.cells k else Tab.put m.cells k b }

/-- Store consecutive bytes. -/
def Memory.setBytes (m : Memory) (k : Nat) : List Byte → Memory
  | [] => m
  | b :: r => Memory.setBytes (m.setByte k b) (k + 1) r

/-- Mark or clear the poison of the group that starts at `g`. -/
def Memory.setPoison (m : Memory) (g : Nat) (p : Bool) : Memory :=
  { m with poison := if p then insertNat g m.poison else m.poison.filter (fun x => x != g) }

/-- The 4-byte word of a byte is poisoned among the bytes written from `k`. -/
def markAt (k : Nat) (bs : List PByte) (lo hi : Nat) : Bool :=
  (List.range (hi - lo)).any (fun i => if k ≤ lo + i ∧ lo + i < k + bs.length then (bs.getD (lo + i - k) (0, false)).2 else false)

/-- Poison of one group after a write of `bs` at `k` (R280, R340): a write of the whole group sets the mark it carries; a partial write to a marked group leaves it marked, and one that itself carries a mark marks the group, which no rule states. DEDUCED (log 73). -/
def Memory.groupMark (m : Memory) (k : Nat) (bs : List PByte) (g : Nat) : Bool :=
  let sz := groupSize g
  let carried := markAt k bs g (g + sz)
  if k ≤ g ∧ g + sz ≤ k + bs.length then carried else carried || m.poison.contains g

/-- The groups that `n` bytes from `k` touch. -/
def groupsOf (k n : Nat) : List Nat :=
  if n = 0 then []
  else
    let sz := groupSize k
    (List.range ((k + n - 1) / sz - k / sz + 1)).map (fun i => (k / sz + i) * sz)

/-- A masked write of consecutive bytes with their marks (R277, R280, R340). -/
def Memory.writeB (m : Memory) (k : Nat) (bs : List PByte) : Memory :=
  let gs := groupsOf k bs.length
  let marks := gs.map (fun g => (g, m.groupMark k bs g))
  marks.foldl (fun m p => m.setPoison p.1 p.2) (m.setBytes k (bs.map (·.1)))

/-- Lay an area over memory: what it holds is forgotten, and its marks are clear. -/
def Memory.lay (m : Memory) (a : Area) : Memory :=
  ⟨m.cells.filter (fun e => !a.has e.1), m.poison.filter (fun g => !a.has g), if a.tag.isNone ∧ m.areas = [] then [] else a :: m.areas⟩

/-- Every byte of keys `lo` to `hi − 1` reads zero. -/
def Memory.zero (m : Memory) (lo hi : Nat) : Memory := m.lay ⟨lo, hi, .all, none⟩

/-- Keys `lo` to `hi − 1` are undefined: free values of `tag`. -/
def Memory.undefine (m : Memory) (lo hi tag : Nat) : Memory := m.lay ⟨lo, hi, .all, some tag⟩

/-- An entry is listed only where it differs from zero or lies in an undefined area (whose base is free). -/
def Memory.entryOk (m : Memory) (e : Nat × Byte) : Prop := e.2 ≠ 0 ∨ (m.tagOf e.1).isSome = true

/-- The canonical form: cells strictly rising and none equal to what an unlisted key reads as, marks strictly rising. -/
def Memory.wf (m : Memory) : Prop :=
  Tab.rising m.cells ∧ (∀ e ∈ m.cells, m.entryOk e) ∧ m.poison.Pairwise (· < ·)

/-- Two 32-bit words stored side by side read as one 4-byte little-endian value. -/
def Memory.word32 (m : Memory) (k : Nat) : Word32 := BitVec.ofNat 32 (ofLe ((m.readB k 4).map (·.1)))

/-- A word's poison mark. -/
def Memory.badWord (m : Memory) (k : Nat) : Bool := m.bad k

end Sys2Proof.Machine
end

