-- ==== Sys2Proof/Machine/DeviceTypes.lean ====
section
/-! DEFINITION. The parts of the device outside the cores, as plain data: partitions and programs, the transport, reductions, cairns, unit history, flash and keys, links, tests, power and cooling (04, 08, 10 to 15). -/

namespace Sys2Proof.Machine

/-! ## Partitions and programs (04, 07) -/

/-- An extent of a program (R163): `mode` 1 READ, 2 WRITE, 3 ACC; of an ACC extent, its potluck set (R292). -/
structure Extent where
  base : Nat
  len : Nat
  mode : Nat
  pot : List Nat
  deriving DecidableEq, Repr

/-- A reduction descriptor with its companion region (R363, R364). -/
structure Desc where
  rch : Nat
  group : Nat
  policy : Nat
  exclNan : Bool
  wire : Nat
  rfmt : Nat
  quorum : Nat
  hmin : Nat
  elems : Nat
  tally : Nat
  blocks : Nat
  rcdl : Nat
  latex : Nat
  comp : Option Nat
  bytes : List Byte
  deriving DecidableEq, Repr

/-- Where a partition's program stands (R124, R126, R160, R476, R551): no program, loaded and waiting for a start, running, closed at a boundary, restoring from a cairn, ended but still counting as running. -/
inductive PState where
  | none
  | loaded
  | running
  | closed
  | restoring
  | ending
  deriving DecidableEq, Repr

/-- Where a reply goes: connection, owner identity and REQID (R427). -/
structure Asker where
  conn : Nat
  owner : Nat
  req : Nat
  deriving DecidableEq, Repr

/-- A START or STEP that waits (R432): where its reply goes, and its fields; `start` tells START. -/
structure StepCmd where
  start : Bool
  ask : Asker
  body : StepB
  deriving DecidableEq, Repr

/-- One partition and its program (R159, R162, R166): cores, generator key, step counter, extents, image hash, REDUCE descriptors, staging blocks and the staging region's base, the pending command, the times at which steps opened (newest first), the close time, the token of the step in progress (R466), and the ECLK in which the program was terminated (R225). -/
structure Part where
  st : PState
  first : Nat
  num : Nat
  key : Nat
  step : Nat
  extents : List Extent
  hash : List Byte
  descs : List Desc
  staging : Nat
  stageBase : Nat
  cmd : Option StepCmd
  opens : List Nat
  closeAt : Nat
  token : Nat
  endedAt : Option Nat
  deriving DecidableEq, Repr

/-- A partition with no program. DESIGN CHOICE (log 8). -/
def Part.reset : Part := ⟨.none, 0, 0, 0, 0, [], [], [], 0, 0, none, [], 0, 0, none⟩

/-! ## Potluck rounds and tally additions (08, 10) -/

/-- A contribution to one potluck word (R293): logical core, request, the instruction's id, value, stream and index. -/
structure Contrib where
  core : Nat
  req : Nat
  op : Nat
  val : PWord
  st : Strm
  pc : Nat
  deriving DecidableEq, Repr

/-- The open rounds of one 4-byte word: its partition, its potluck set and the contributions in arrival order. -/
structure PotWord where
  part : Nat
  members : List Nat
  contribs : List Contrib
  deriving DecidableEq, Repr

/-- The additions of one staged block that a tally unit holds for one 64-byte tally word (R350, R385): the channel, the word's DPA, its companion word's, the reduction channel, the block (rank, first element), where its staged words stand, how many there are. -/
structure Batch where
  chan : Nat
  addr : Nat
  comp : Option Nat
  rch : Nat
  rank : Nat
  first : Nat
  src : Nat
  len : Nat
  deriving DecidableEq, Repr

/-! ## Fabric links and marches (08) -/

/-- One end of a bridge or hub link (R290, R291): the next sequence number to send, blocks in the replay buffer, the next sequence number to deliver, later good blocks held, CRC failures in a row by block, times of retrainings in the last second. DEDUCED (log 21). -/
structure Link where
  sendSeq : Nat
  replay : List Nat
  recvSeq : Nat
  held : List Nat
  fails : Tab Nat
  retrains : List Nat
  deriving DecidableEq, Repr

/-- A link after reset. DESIGN CHOICE (log 8). -/
def Link.reset : Link := ⟨0, [], 0, [], [], []⟩

/-! ## Memory channels (10) -/

/-- A pseudo-channel's batching (R337): whether it writes or reads, the words of the batch, the words that it may hold (R552), and the row last accessed of each bank. -/
structure Pseudo where
  wr : Bool
  batch : Nat
  limit : Nat
  rows : Tab Nat
  deriving DecidableEq, Repr

/-- A pseudo-channel with nothing served. DESIGN CHOICE (log 8). -/
def Pseudo.reset : Pseudo := ⟨false, 0, 0, []⟩

/-- What a channel's controller keeps beside its registers: its pseudo-channels, next burst of the scrub, stack temperature at its last training (none until the first readout after it), times of interface errors in the last second, a retraining that falls due, the control word of a traffic-generator run in progress (R355, R552). -/
structure Chan where
  pcs : Tab Pseudo
  scrub : Nat
  trained : Option Nat
  errs : List Nat
  due : Bool
  tg : Option Nat
  deriving DecidableEq, Repr

/-- A channel after training. DESIGN CHOICE (log 8). DESIGN CHOICE (log 33). -/
def Chan.reset : Chan := ⟨[], 0, none, [], false, none⟩

/-! ## The transport (12) -/

/-- A message the device sends on a connection, with its fields. -/
inductive Msg where
  | reply (req status : Nat) (lateStart poison : Bool) (data : List Byte)
  | telemetry (source part step : Nat) (data : List Byte)
  | termination (part : Nat) (term : Word64) (ns : Nat)
  | roll (n : EpName) (digest deadline rcDeadline : Nat)
  | answer (n : EpName) (digest ver rank : Nat)
  | roster (n : EpName) (deadline : Nat) (listener : Bool) (admitted : List Nat)
  | contrib (n : EpName) (rank first : Nat) (data : List PByte)
  | rack (n : EpName) (rank status : Nat) (nan poison : Bool) (cred first : Nat)
  | done (n : EpName) (rank : Nat) (nan poison : Bool)
  | admitRanks (n : EpName) (deadline : Nat) (upTo : Option Nat) (excluded : List Nat)
  | late (n : EpName) (rank delay : Nat)
  | close (n : EpName) (outcome : Nat) (record : List Byte) (included : List Nat)
  | result (n : EpName) (rank : Nat) (longSum sumNan poison : Bool) (rfmt first : Nat) (data : List PByte)
  | abandon (n : EpName) (reason : Nat)
  | lost (n : EpName) (rank : Nat)
  | cairnCtl (op : Nat) (b : CtlB)
  | cairnData (off : Nat) (data : List Byte)
  | opening (icred : Nat)
  | opened (status icred : Nat)
  deriving DecidableEq, Repr

/-- A block sent and not acknowledged (R421, R422): sequence number, message, resends made, whether an ACK's hole has had it resent since its timer started, and the resends that its running timer allows (R552). -/
structure Sent where
  seq : Nat
  msg : Msg
  resends : Nat
  holed : Bool
  retry : Nat
  deriving DecidableEq, Repr

/-- A connection (R419 to R426): this side's and the peer's connection numbers, peer identity and address, key class (0 owner, 1 peer), version, half open, opened by the peer, and the two directions' numbering, credit, window, acknowledgement and replay state; `held` are received messages that wait for blocks below them (R423), `grow` the SEQ whose acknowledgement ends a round trip, `wanted` the highest SEQ whose credit has been counted as wanted. -/
structure Conn where
  mine : Nat
  theirs : Nat
  id : Nat
  addr : Nat
  cls : Nat
  ver : Nat
  half : Bool
  opened : Nat
  last : Nat
  nextSeq : Nat
  sent : List Sent
  unsent : List Msg
  credit : Nat
  window : Nat
  rxNext : Nat
  rxSeen : List Nat
  held : List (Nat × Instr)
  since : Nat
  granted : Nat
  pctrOut : Nat
  pctrHigh : Nat
  pctrSeen : List Nat
  echo : Bool
  grow : Nat
  wanted : Nat
  deriving DecidableEq, Repr

/-- An owner request's reply, kept by owner identity and REQID (R427). -/
structure Kept where
  owner : Nat
  req : Nat
  reply : Option Msg
  deriving DecidableEq, Repr

/-- A reduction group table (R358): size, this device's rank, host rank, identity and address by rank. -/
structure Group where
  size : Nat
  rank : Nat
  host : Nat
  ids : Tab (Nat × Nat)
  deriving DecidableEq, Repr

/-- The image under assembly (R431): its connection, and the bytes by offset. -/
structure Assembly where
  conn : Nat
  parts : List (Nat × List Byte)
  deriving DecidableEq, Repr

/-! ## Epochs (11) -/

/-- A block this member emits (R199, R382): first element, its words with poison, the holder's rank, sent, acknowledged. -/
structure OutBlock where
  first : Nat
  words : List (Nat × Bool)
  holder : Nat
  sent : Bool
  acked : Bool
  deriving DecidableEq, Repr

/-- A staged contribution block (R382, R396, R397): its rank, its first element, the entry of the staging region that it takes, and whether it has been fed to the tally units. -/
structure Staged where
  rank : Nat
  first : Nat
  entry : Nat
  fed : Bool
  deriving DecidableEq, Repr

/-- How the host has resolved a rank (R384). -/
inductive Resolved where
  | included
  | excluded
  deriving DecidableEq, Repr

/-- The host's part of an epoch (R378 to R392): answers by rank (digest, version), the ranks admitted at the roll-call close and the listeners since, resolutions, the census of NaN ranks, lateness in µs granted, the last ADMIT's prefix and whether one is held back, whether the roll call has closed, the outcome once closed and the close time. -/
structure HostSide where
  answers : Tab (Nat × Nat)
  adm : List Nat
  lis : List Nat
  resolved : Tab Resolved
  census : List Nat
  ext : Nat
  announced : Option Nat
  admitHeld : Bool
  rollClosed : Bool
  outcome : Option Nat
  closeAt : Nat
  deriving DecidableEq, Repr

/-- The member's part (R198 to R200, R381 to R389): elements emitted and not yet in a block, blocks, credit by holder rank, NaN and poison seen by holders, DONE sent, first elements of landed result blocks, FLAGS bits 0 to 2 of the status record. -/
structure MemberSide where
  emitted : Tab (Nat × Bool)
  blocks : List OutBlock
  cred : Tab Nat
  nan : Bool
  poison : Bool
  doneSent : Bool
  landed : List Nat
  flags : Nat
  deriving DecidableEq, Repr

/-- A block that a holder has accepted (R382): rank, first element, and the flags it was acknowledged with. -/
structure Accepted where
  rank : Nat
  first : Nat
  nan : Bool
  poison : Bool
  deriving DecidableEq, Repr

/-- The holder's part (R382 to R387, R397): staged blocks, blocks accepted, contributions counted by element, the admitted prefix the host announced, ranks added or discarded, credit granted by rank, ranks whose credit was withheld, LONG_SUM and SUMNAN, whether CLOSE with FINAL has come, whether its duty is over. -/
structure HolderSide where
  staged : List Staged
  accepted : List Accepted
  counts : Tab Nat
  upTo : Option Nat
  added : List Nat
  granted : Tab Nat
  waited : List Nat
  longSum : Bool
  sumNan : Bool
  final : Bool
  ended : Bool
  deriving DecidableEq, Repr

/-- One epoch of a reduction channel on this device (R375, R403): its name, descriptor with its index, partition, this device's rank, its descriptor's digest, the current deadline and the roll-call deadline, which a member knows once a ROLL or a ROSTER has come (R376), whether its ROLL has come and been answered, the admitted ranks once the ROSTER is known, whether this device is a listener, whether the deadline has passed here, the outcome that CLOSE or ABANDON brought, the record of CLOSE and the included ranks, whether it has closed here, and the sides it plays. -/
structure Epoch where
  name : EpName
  dsc : Nat
  desc : Desc
  part : Nat
  rank : Nat
  digest : Nat
  deadline : Nat
  rcDeadline : Nat
  rolled : Bool
  answered : Bool
  admitted : Option (List Nat)
  listener : Bool
  deadlinePassed : Bool
  outcome : Option Nat
  record : List Byte
  included : List Nat
  closed : Bool
  host : Option HostSide
  member : MemberSide
  holder : HolderSide
  deriving DecidableEq, Repr

/-- A ROLL or an ANSWER that waits for its epoch (R375, R378): the name, digest, and for a ROLL its deadlines, for an ANSWER version and rank. -/
inductive Waiting where
  | roll (n : EpName) (digest deadline rcDeadline : Nat)
  | answer (n : EpName) (digest ver rank : Nat)
  deriving DecidableEq, Repr

/-! ## Cairns (13) -/

/-- A cairn write under way here as the writer (R472, R473): partition, step, connection, the cairn's bytes, whether BEGUN has come and SEAL has gone, slot, start time. DEDUCED (log 27). -/
structure CairnOut where
  part : Nat
  step : Nat
  conn : Nat
  bytes : List Byte
  begun : Bool
  sealing : Bool
  slot : Nat
  began : Nat
  deriving DecidableEq, Repr

/-- A restore under way (R476): partition, step named, token named, mode, the connection, the seal's fields, blocks received (offset, bytes). -/
structure Restore where
  part : Nat
  cstep : Nat
  token : Nat
  mode : Nat
  conn : Nat
  slot : Nat
  length : Nat
  digest : Nat
  checked : Bool
  blocks : List (Nat × List Byte)
  deriving DecidableEq, Repr

/-- A cairn write or fetch open on this device's store (R472, R474, R476): the connection, slot, step, partition, length, digest so far; a fetch has `write` false. -/
structure StoreOp where
  conn : Nat
  write : Bool
  slot : Nat
  step : Nat
  part : Nat
  length : Nat
  digest : Word64
  deriving DecidableEq, Repr

/-! ## Unit history and tests (13) -/

/-- A unit record (R452): `state` 0 HEALTHY, 1 SUSPECT, 2 LASTING; times newest first; `direct` a direct fault in the record. -/
structure UnitRec where
  state : Nat
  cause : Nat
  ce : Nat
  ue : Nat
  tf : Nat
  tp : Nat
  ceT : List Nat
  ueT : List Nat
  tfT : List Nat
  stateT : Nat
  direct : Bool
  deriving DecidableEq, Repr

/-- A unit with no event. -/
def UnitRec.reset : UnitRec := ⟨0, 0, 0, 0, 0, 0, [], [], [], 0, false⟩

/-- A unit-history event, or an entry of the event ring (R453): UNITID, KIND, time in whole seconds, DETAIL. -/
structure UEvent where
  unit : Nat
  kind : Nat
  time : Nat
  detail : Nat
  deriving DecidableEq, Repr

/-- A stored test pack (R457) with the bytes of its image. -/
structure Pack where
  id : Nat
  ver : Nat
  classes : Nat
  minFw : Nat
  runmax : Nat
  bytes : List Byte
  deriving DecidableEq, Repr

/-- A test run under way (R458, R459): pack, unit, started when. -/
structure Run where
  pack : Nat
  unit : Nat
  began : Nat
  deriving DecidableEq, Repr

/-- A LOAD that waits for core tests to end (R458, R460): where its reply goes, its length and its cairn fields. -/
structure LoadWait where
  ask : Asker
  len : Nat
  ext : Option LoadExt
  deriving DecidableEq, Repr

/-! ## Flash, keys and firmware (14) -/

/-- The trial mark of the boot record (R491). -/
inductive Trial where
  | none
  | pending
  | running
  deriving DecidableEq, Repr

/-- A firmware bank (R489): the shipped image, or programmed bytes by offset; an erased byte reads 0xFF. -/
structure Bank where
  shipped : Bool
  bytes : Tab Byte
  deriving DecidableEq, Repr

/-- A firmware block received and not in flash yet: its SEQ, offset, bytes, and where the reply goes. -/
structure FwBlock where
  seq : Nat
  off : Nat
  data : List Byte
  ask : Asker
  deriving DecidableEq, Repr

/-- An update in progress (R510): connection, target (1 a test pack), an erase under way, blocks not in flash yet, a test pack's bytes, bytes received. -/
structure Update where
  conn : Nat
  target : Nat
  erase : Bool
  queue : List FwBlock
  buffer : Tab Byte
  received : Nat
  deriving DecidableEq, Repr

/-- The non-volatile stores (R488, R490, R507, R452 to R454): boot record, banks, SVN floor, key slots (slot 0 absent on an unclaimed device), key store number, packs by slot, the module configuration in force and the one stored, unit records, the event ring with its next entry and last time (R452, R453), failing slice rows by (slice, bank, row), and the channel map that unit history keeps (R357). -/
structure Flash where
  active : Bool
  trial : Trial
  bankA : Bank
  bankB : Bank
  svnFloor : Nat
  keys : Tab Word256
  claimed : Bool
  kseq : Nat
  boots : Nat
  packs : Tab Pack
  config : List Byte
  stored : List Byte
  units : Tab UnitRec
  ring : Tab UEvent
  ringNext : Nat
  lastTime : Nat
  badRows : List (Nat × Nat × Nat)
  chanRows : List (Nat × Nat × Nat × Nat)
  mapWord : Word64
  removedWord : Word64
  deriving DecidableEq, Repr

/-! ## Power, cooling and time (12, 15) -/

/-- What the sequencer and limiter keep beside their registers (R516 to R520, R530, R537): samples (mV, mA) newest first; how many 10 µs samples in a row were below 30 V, below 24 V, above 42 V; how many 1 ms samples in a row satisfied the interlock, were low, were bad; whether the leak sensor reads wet; the stacks hold contents; every rail is off; the rails stay off until the input power is removed; limiter ticks since the admission stage last changed; limits held at 2.4 kW; ticks spent below stage 8; the last facility SHUTDOWN's REASON; 10 µs samples in a row within 32 to 40 V while every rail is off (R517); the time last recorded in unit history when the hub booted (R453). -/
structure Power where
  samples : List (Nat × Nat)
  under30 : Nat
  under24 : Nat
  over42 : Nat
  okMs : Nat
  lowMs : Nat
  badMs : Nat
  wet : Bool
  stacksOn : Bool
  railsOff : Bool
  lockOut : Bool
  stageAt : Nat
  heldLow : Bool
  throttled : Nat
  reason : Nat
  okIn : Nat
  histBase : Nat
  deriving DecidableEq, Repr

/-- Time: ECLK count of the fabric time base (R301, R320), the fraction of the present ns in units of 1/700,000,000, and cluster time in ns (R19, R435). -/
structure Clock where
  eclk : Nat
  frac : Nat
  ns : Nat
  deriving DecidableEq, Repr

/-- What a packet carries around its message (R411 to R415): the VLAN tag (VID, PCP) if frames carry one, the next hop, the IPv6 addresses, hop limit, DSCP and ECN, the UDP ports, the header's VER, FLAGS, KEYID, DST_CONN, SEQ, ACKSEQ, CREDIT and PCTR with the key of the slot, and the size of a reduction message's group. -/
structure Envelope where
  vlan : Option (Nat × Nat)
  nextHop : Nat
  src : Nat
  dst : Nat
  hop : Nat
  dscp : Nat
  ecn : Nat
  sport : Nat
  dport : Nat
  ver : Nat
  flags : Nat
  keyId : Nat
  key : Word256
  conn : Nat
  seq : Nat
  ackSeq : Nat
  credit : Nat
  pctr : Nat
  group : Nat
  deriving DecidableEq, Repr

/-- What the device sends outside Nalmiwin messages, and every packet it sends. DESIGN CHOICE (log 6). -/
inductive Out where
  | packet (conn : Nat) (peer : Nat) (seq : Nat) (pctr : Nat) (ackSeq credit : Nat) (echo : Bool) (msg : Msg) (env : Envelope)
  | openConn (peer addr cls mine ver icred : Nat) (env : Envelope)
  | openAck (peer addr cls theirs status mine ver icred : Nat) (env : Envelope)
  | ack (conn ackSeq : Nat) (bitmap : Nat) (credit : Nat) (env : Envelope)
  | neighborSolicit (target : Nat)
  | bridgeAck (d n seq : Nat)
  | bridgeNack (d n seq : Nat)
  | neighborAdvert (dst target : Nat)
  | echoReply (dst ident seq : Nat) (data : List Byte)
  | facStatus (tin tout flow leak valve compute pin : Nat)
  | facAck (seq result : Nat)
  deriving DecidableEq, Repr

end Sys2Proof.Machine
end

