-- ==== Sys2Proof/Machine/RegMap.lean ====
section
/-! DEFINITION. The management registers (00 R12 to R14, 14 R503 to R505): block bases, the address of every register the model reads or writes by name, the words they hold at reset, and the writable fields. -/

namespace Sys2Proof.Machine

/-- Block bases (R503). -/
def hubB : Nat := 0x7F0000000000
def dsupB : Nat := 0x7F0001000000
def coreB : Nat := 0x7F0100000000
def engB : Nat := 0x7F0200000000
def slcB : Nat := 0x7F0300000000
def fabB : Nat := 0x7F0400000000
def fabDieB : Nat := 0x7F0400100000
def hmcB : Nat := 0x7F0500000000
def hmcGlobB : Nat := 0x7F0500100000
def talB : Nat := 0x7F0600000000
def ethB : Nat := 0x7F0700000000
def nwtB : Nat := 0x7F0800000000
def ptpB : Nat := 0x7F0900000000
def secB : Nat := 0x7F0A00000000
def mntB : Nat := 0x7F0B00000000
def pwrB : Nat := 0x7F0C00000000
def facB : Nat := 0x7F0D00000000

/-- One block of the map: first address, instances, stride, bytes of one instance. Instances of CORE_ and ENG_ are 136 here: the model keeps them by physical core, and logical cores 0 to 127 address them through the core map (R504). -/
structure Block where
  base : Nat
  count : Nat
  stride : Nat
  deriving DecidableEq, Repr

/-- The blocks as management messages address them (R503); a single-instance block takes the addresses to the next block's base. -/
def blocks : List Block :=
  [⟨hubB, 1, 0x1000000⟩, ⟨dsupB, 4, 0x100000⟩, ⟨coreB, 128, 0x10000⟩, ⟨engB, 128, 0x10000⟩, ⟨slcB, 512, 0x1000⟩,
   ⟨fabB, 136, 0x1000⟩, ⟨fabDieB, 4, 0x1000⟩, ⟨hmcB, 256, 0x1000⟩, ⟨hmcGlobB, 1, 0x1000⟩, ⟨talB, 256, 0x1000⟩,
   ⟨ethB, 1, 0x100000000⟩, ⟨nwtB, 1, 0x100000000⟩, ⟨ptpB, 1, 0x100000000⟩, ⟨secB, 1, 0x100000000⟩,
   ⟨mntB, 1, 0x100000000⟩, ⟨pwrB, 1, 0x100000000⟩, ⟨facB, 1, 0x100000000⟩]

/-- HUB_ registers (R38, R224, R276, R329, R513, 12). -/
def rBoot : Nat := hubB
def rFwver : Nat := hubB + 0x8
def rFwstat : Nat := hubB + 0x10
def rIdent : Nat := hubB + 0x18
def rTelctl : Nat := hubB + 0x20
def rTelstat : Nat := hubB + 0x28
def rXtrk : Nat := hubB + 0xC00
def rWdog (p : Nat) : Nat := hubB + 0xC80 + 8 * p
def rPhaseStat (p : Nat) : Nat := hubB + 0xD00 + 8 * p
def rTerm (p : Nat) : Nat := hubB + 0xE00 + 8 * p
def rCmapSum : Nat := hubB + 0xF00
def rCmap (n : Nat) : Nat := hubB + 0x1000 + 8 * n
def rSnap (n : Nat) : Nat := hubB + 0x4000 + 8 * n

/-- DSUP_STAT of a die (R515). -/
def rDsup (d : Nat) : Nat := dsupB + 0x100000 * d

/-- CORE_ registers of a physical core (R172, R274, R327, R328). -/
def rSstat (k : Nat) : Nat := coreB + 0x10000 * k + 0x100
def rFeedCtrl (k : Nat) : Nat := coreB + 0x10000 * k + 0x180
def rFeedStat (k : Nat) : Nat := coreB + 0x10000 * k + 0x188
def rFeedMerge (k : Nat) : Nat := coreB + 0x10000 * k + 0x190
def rPhs (k n : Nat) : Nat := coreB + 0x10000 * k + 0x800 + 8 * n
def rPhe (k n : Nat) : Nat := coreB + 0x10000 * k + 0xA00 + 8 * n

/-- ENG_ registers of a physical core (R73, R121 to R123). -/
def rArith (k : Nat) : Nat := engB + 0x10000 * k + 0x400
def rStroll (k : Nat) : Nat := engB + 0x10000 * k + 0x408
def rAstat (k n : Nat) : Nat := engB + 0x10000 * k + 0x480 + 8 * n
def rAstep (k n : Nat) : Nat := engB + 0x10000 * k + 0x500 + 8 * n
def rAstroll (k n : Nat) : Nat := engB + 0x10000 * k + 0x540 + 8 * n

/-- SLC_ registers of a slice (R313). -/
def rSlcEcc (s : Nat) : Nat := slcB + 0x1000 * s
def rSlcMerge (s : Nat) : Nat := slcB + 0x1000 * s + 0x8
def rSlcPot (s : Nat) : Nat := slcB + 0x1000 * s + 0x10
def rSlcMarch (s : Nat) : Nat := slcB + 0x1000 * s + 0x18

/-- FAB_ registers of a master and of a die (R311, R312). -/
def rMbconf (m : Nat) : Nat := fabB + 0x1000 * m
def rMstarve (m : Nat) : Nat := fabB + 0x1000 * m + 0x8
def rMevt (m : Nat) : Nat := fabB + 0x1000 * m + 0x10
def rArbCtrl (d : Nat) : Nat := fabDieB + 0x1000 * d + 0x100
def rArbWeight (d : Nat) : Nat := fabDieB + 0x1000 * d + 0x108
def rLink (d n : Nat) : Nat := fabDieB + 0x1000 * d + 0x110 + 8 * n
def rRtr (d : Nat) : Nat := fabDieB + 0x1000 * d + 0x130

/-- HMC_ registers of a channel and the global instance (R356, R357). -/
def rHmcCtrl (q : Nat) : Nat := hmcB + 0x1000 * q
def rHmcStat (q : Nat) : Nat := hmcB + 0x1000 * q + 0x8
def rHmcEcc (q : Nat) : Nat := hmcB + 0x1000 * q + 0x10
def rHmcRdw (q : Nat) : Nat := hmcB + 0x1000 * q + 0x18
def rHmcWrw (q : Nat) : Nat := hmcB + 0x1000 * q + 0x20
def rHmcTurn (q : Nat) : Nat := hmcB + 0x1000 * q + 0x28
def rHmcConf (q : Nat) : Nat := hmcB + 0x1000 * q + 0x30
def rHmcThr (q : Nat) : Nat := hmcB + 0x1000 * q + 0x38
def rTgctl (q : Nat) : Nat := hmcB + 0x1000 * q + 0x40
def rTgstat (q : Nat) : Nat := hmcB + 0x1000 * q + 0x48
def rDgwacc (q n : Nat) : Nat := hmcB + 0x1000 * q + 0x100 + 8 * n
def rDgsacc (q n : Nat) : Nat := hmcB + 0x1000 * q + 0x180 + 8 * n
def rMap : Nat := hmcGlobB
def rRmv : Nat := hmcGlobB + 0x8
def rTherm : Nat := hmcGlobB + 0x10
def rDgcfg (n : Nat) : Nat := hmcGlobB + 0x100 + 8 * n
def rDgwin (n : Nat) : Nat := hmcGlobB + 0x200 + 8 * n
def rDgst (n : Nat) : Nat := hmcGlobB + 0x280 + 8 * n
def rDgswp (n : Nat) : Nat := hmcGlobB + 0x300 + 8 * n

/-- TAL_ registers of a channel (R406). -/
def rTalCtrl (q : Nat) : Nat := talB + 0x1000 * q
def rTalStat (q : Nat) : Nat := talB + 0x1000 * q + 0x8
def rTalAdds (q : Nat) : Nat := talB + 0x1000 * q + 0x10

/-- ETH_, NWT_, PTP_, SEC_ registers (R402 to R405, R441 to R443, R514). -/
def rEthCtrl : Nat := ethB
def rEthStat : Nat := ethB + 0x8
def rEthDrop : Nat := ethB + 0x10
def rNwtCtrl : Nat := nwtB
def rNwtTout : Nat := nwtB + 0x8
def rCollH : Nat := nwtB + 0x10
def rCollL : Nat := nwtB + 0x18
def rCollId : Nat := nwtB + 0x20
def rNwtDrop : Nat := nwtB + 0x28
def rNwtDrop2 : Nat := nwtB + 0x30
def rNwtConn : Nat := nwtB + 0x38
def rRchStat (n : Nat) : Nat := nwtB + 0x2000 + 8 * n
def rRchCnt (n : Nat) : Nat := nwtB + 0x2200 + 8 * n
def rRstage : Nat := nwtB + 0x2400
def rRdrop : Nat := nwtB + 0x2408
def rGrp (n : Nat) : Nat := nwtB + 0x2600 + 8 * n
def rPtpCtrl : Nat := ptpB
def rPtpStat : Nat := ptpB + 0x8
def rPtpTime : Nat := ptpB + 0x10
def rSecStat : Nat := secB
def rKfp (n : Nat) : Nat := secB + 0x10 + 8 * n

/-- MNT_ registers (R481 to R486). -/
def rHctl : Nat := mntB
def rGov : Nat := mntB + 0x100
def rGovSt : Nat := mntB + 0x108
def rGovT : Nat := mntB + 0x110
def rCstat : Nat := mntB + 0x118
def rBuddy : Nat := mntB + 0x120
def rBuddyH : Nat := mntB + 0x128
def rBuddyL : Nat := mntB + 0x130
def rCstore : Nat := mntB + 0x138
def rClient : Nat := mntB + 0x140
def rStoreSt : Nat := mntB + 0x148
def rSlotStep : Nat := mntB + 0x150
def rPoison (p : Nat) : Nat := mntB + 0x200 + 8 * p
def rTest : Nat := mntB + 0x300

/-- PWR_ and FAC_ registers (R541, R542). -/
def rPwrCtrl : Nat := pwrB
def rPwrStat : Nat := pwrB + 0x8
def rPwrSense : Nat := pwrB + 0x10
def rFacStat : Nat := facB
def rFacCtrl : Nat := facB + 0x8
def rFacCnt : Nat := facB + 0x10

/-- How a field takes a write (R505). -/
inductive Acc where
  | rw
  | w1c
  | wo
  deriving DecidableEq, Repr

/-- A writable field: its bits, how it takes a write, and the least and greatest values that are not reserved. -/
structure WFld where
  hi : Nat
  lo : Nat
  acc : Acc
  min : Nat
  max : Nat
  deriving DecidableEq, Repr

/-- Registers that take writes, `count` of them `stride` apart, with the word each holds at reset. -/
structure WReg where
  base : Nat
  count : Nat
  stride : Nat
  reset : Nat
  flds : List WFld
  deriving DecidableEq, Repr

/-- A whole-word field. -/
def wWhole : List WFld := [⟨63, 0, .rw, 0, 2 ^ 64 - 1⟩]

/-- Every register with a writable field; HUB_SNAPn.ADDR is a DPA, whose bits [63:48] are zero (R7) (R73, R121, R312, R327, R356, R357, R406, R441 to R443, R481, R482, R484, R513, R541, R542). DEDUCED (log 39). -/
def wregs : List WReg :=
  [⟨rTelctl, 1, 8, 0, [⟨63, 48, .rw, 0, 65535⟩, ⟨40, 32, .rw, 0, 256⟩]⟩,
   ⟨rWdog 0, 8, 8, 500 * 2 ^ 32, [⟨63, 32, .rw, 1, 2 ^ 32 - 1⟩]⟩,
   ⟨rSnap 0, 256, 8, 0, [⟨63, 0, .rw, 0, 2 ^ 48 - 1⟩]⟩,
   ⟨rFeedCtrl 0, 136, 0x10000, 0x2000_4000_4810_0100,
     [⟨63, 48, .rw, 1, 65535⟩, ⟨47, 32, .rw, 1, 65535⟩, ⟨31, 24, .rw, 0, 255⟩, ⟨23, 12, .rw, 0, 4095⟩, ⟨10, 0, .rw, 0, 1024⟩]⟩,
   ⟨rArith 0, 136, 0x10000, 0, [⟨7, 0, .w1c, 0, 255⟩]⟩,
   ⟨rStroll 0, 136, 0x10000, 0x40, [⟨6, 0, .rw, 0, 64⟩]⟩,
   ⟨rArbCtrl 0, 4, 0x1000, 0x4000_0001_0000_0400, [⟨47, 16, .rw, 1, 2 ^ 32 - 1⟩, ⟨15, 4, .rw, 1, 4095⟩]⟩,
   ⟨rArbWeight 0, 4, 0x1000, 0x80_4040, [⟨23, 16, .rw, 1, 255⟩, ⟨15, 8, .rw, 1, 255⟩, ⟨7, 0, .rw, 1, 255⟩]⟩,
   ⟨rHmcCtrl 0, 256, 0x1000, 0x0C20, [⟨15, 8, .rw, 1, 255⟩, ⟨6, 0, .rw, 1, 64⟩]⟩,
   ⟨rTgctl 0, 256, 0x1000, 0x0080_C00F_C000_47FF,
     [⟨63, 60, .rw, 0, 3⟩, ⟨59, 56, .rw, 0, 3⟩, ⟨55, 48, .rw, 0, 255⟩, ⟨47, 46, .rw, 1, 3⟩, ⟨35, 30, .rw, 0, 63⟩, ⟨14, 0, .rw, 0, 18431⟩]⟩,
   ⟨rTherm, 1, 8, 0x69_5F55, [⟨23, 16, .rw, 90, 110⟩, ⟨15, 8, .rw, 85, 105⟩]⟩,
   ⟨rDgcfg 0, 16, 8, 0, [⟨63, 63, .rw, 0, 1⟩, ⟨62, 60, .rw, 0, 7⟩, ⟨39, 20, .rw, 0, 2 ^ 20 - 1⟩, ⟨19, 0, .rw, 1, 589824⟩]⟩,
   ⟨rTalCtrl 0, 256, 0x1000, 0, [⟨1, 0, .rw, 0, 1⟩]⟩,
   ⟨rTalStat 0, 256, 0x1000, 0, [⟨33, 33, .w1c, 0, 1⟩, ⟨32, 32, .w1c, 0, 1⟩]⟩,
   ⟨rEthCtrl, 1, 8, 0, [⟨63, 62, .rw, 0, 2⟩, ⟨61, 61, .rw, 0, 1⟩, ⟨60, 60, .rw, 0, 1⟩, ⟨27, 16, .rw, 0, 4095⟩, ⟨15, 13, .rw, 0, 7⟩]⟩,
   ⟨rNwtCtrl, 1, 8, 0xB806_1080_0140_0000,
     [⟨63, 48, .rw, 0, 65535⟩, ⟨47, 40, .rw, 1, 64⟩, ⟨39, 36, .rw, 1, 15⟩, ⟨31, 20, .rw, 1, 4095⟩, ⟨19, 14, .rw, 0, 63⟩, ⟨13, 8, .rw, 0, 63⟩, ⟨7, 2, .rw, 0, 63⟩]⟩,
   ⟨rNwtTout, 1, 8, 0x2710_0000_0000, [⟨63, 32, .rw, 1, 2 ^ 32 - 1⟩]⟩,
   ⟨rCollH, 3, 8, 0, wWhole⟩,
   ⟨rPtpCtrl, 1, 8, 0x03E8_0000,
     [⟨63, 56, .rw, 0, 127⟩, ⟨55, 54, .rw, 0, 2⟩, ⟨53, 53, .wo, 0, 1⟩, ⟨47, 32, .rw, 0, 65535⟩, ⟨31, 16, .rw, 1, 65535⟩]⟩,
   ⟨rHctl, 1, 8, 0x0018_0302_0200_0001,
     [⟨63, 48, .rw, 1, 65535⟩, ⟨47, 40, .rw, 1, 255⟩, ⟨39, 32, .rw, 1, 255⟩, ⟨31, 24, .rw, 1, 255⟩, ⟨0, 0, .rw, 0, 1⟩]⟩,
   ⟨rGov, 1, 8, 0x03C0_0040_0000_2710,
     [⟨63, 63, .rw, 0, 1⟩, ⟨62, 60, .rw, 0, 7⟩, ⟨59, 52, .rw, 1, 255⟩, ⟨47, 32, .rw, 1, 65535⟩, ⟨31, 16, .rw, 0, 65535⟩, ⟨15, 0, .rw, 1, 65535⟩]⟩,
   ⟨rBuddy, 3, 8, 0, wWhole⟩,
   ⟨rCstore, 1, 8, 0, [⟨63, 40, .rw, 0, 2 ^ 24 - 1⟩, ⟨39, 16, .rw, 0, 2 ^ 24 - 1⟩]⟩,
   ⟨rClient, 1, 8, 0, wWhole⟩,
   ⟨rPwrCtrl, 1, 8, 0x0C80_0E10_0000_0000, [⟨63, 48, .rw, 1000, 3200⟩, ⟨47, 32, .rw, 1000, 3600⟩]⟩,
   ⟨rFacCtrl, 1, 8, 0, [⟨0, 0, .wo, 0, 1⟩]⟩]

/-- The writable register at an address, if any. -/
def wregAt (a : Nat) : Option WReg :=
  wregs.find? (fun r => decide (r.base ≤ a ∧ (a - r.base) % r.stride = 0 ∧ (a - r.base) / r.stride < r.count))

/-- The word of an address at reset (R12): the read-only registers with a nonzero reset, then the writable ones. FAB_LINKn.STATE is 0b01 (R312), PWR_STAT.STAGE is 8 (R541). -/
def resetWord (a : Nat) : Nat :=
  match wregAt a with
  | some r => r.reset
  | none =>
    if a = rPwrStat then 8 * 2 ^ 60
    else if fabDieB ≤ a ∧ a < fabDieB + 0x4000 ∧ 0x110 ≤ (a - fabDieB) % 0x1000 ∧ (a - fabDieB) % 0x1000 < 0x130 then 2 ^ 62
    else 0

end Sys2Proof.Machine
end

