-- ==== Sys2Proof/Machine/State.lean ====
section
/-! DEFINITION. The state of the device: everything the manual gives it, as plain data, and the state right after reset. -/

namespace Sys2Proof.Machine

/-- The state, by field: commands waiting; the free-value counter (the model's own, log 5); time; registers by address; memory; physical cores; partitions; fabric requests in flight and the next id; busy banks (key 32 × slice + bank, free at ECLK) and merge windows (word, ECLK of the first read); by arbitration point (a slice, or 512 + 2 × channel + pseudo-channel) the burst that holds the grant (R303) and the master served last (R302); the ECLK in which a slice's march started; potluck words; tally batches; link ends (key 4 × die + n; the hub's end of a hub bridge 16 + die); march rows scrubbed next by slice; channels; connections by number and the numbers used since reset (R419), requests kept, groups with their pending and partial tables, echo replies sent in the present second; the image under assembly; telemetry is queued on its connection; epochs by channel, the status records of earlier epochs of the step (partition, name, record), messages that wait for an epoch, the time of the last ADMIT by channel (R384), messages on the transport's local path (R382); cairn write, restore, store operation; unit events not committed, test runs, sweeps (region, since); flash; update; attestation reports by nonce; power; link bring-up (4 × the MODE in force + the attempt of its cycle); whether a program has started since reset (R300); the marks of digest windows in progress by region (1 partial, 2 poisoned); deficit counters (key 3 × die + class CORE, XPORT, SUP); the duration of the last sealed cairn write in ns (R478); a LOAD that waits for core tests (R458, R460); what the device has sent. DESIGN CHOICE (log 6). -/
structure State where
  pending : List Instr
  free : Nat
  clock : Clock
  regs : Tab Word64
  mem : Memory
  cores : Tab Core
  parts : Tab Part
  fab : List FabReq
  fabNext : Nat
  busy : Tab Nat
  merge : Tab Nat
  grants : Tab Nat
  turns : Tab Nat
  marchAt : Tab Nat
  pot : Tab PotWord
  tally : List Batch
  links : Tab Link
  scrubRow : Tab Nat
  chans : Tab Chan
  conns : Tab Conn
  connsUsed : List Nat
  kept : List Kept
  groups : Tab Group
  groupParts : Tab Group
  groupPend : Tab Group
  echoes : List Nat
  assembly : Option Assembly
  epochs : Tab Epoch
  past : List (Nat × EpName × List Byte)
  early : List Waiting
  admitAt : Tab Nat
  localQ : List Msg
  talPend : Tab Nat
  cairnOut : Option CairnOut
  restore : Option Restore
  storeOp : Option StoreOp
  events : List UEvent
  runs : List Run
  sweeps : List Nat
  flash : Flash
  update : Option Update
  reports : List (List Byte × List Byte)
  power : Power
  attempt : Nat
  started : Bool
  win : Tab Nat
  deficit : Tab Nat
  sealCost : Option Nat
  loadWait : Option LoadWait
  outbox : List Out
  deriving DecidableEq, Repr

/-- The model's faults: there are none, since the block stops no command with one (13, R223: a program's fault is a termination, a next state). -/
inductive Fault where
  deriving DecidableEq, Repr

/-- The model's refusals. DESIGN CHOICE (log 62). -/
inductive Refusal where
  /-- Raised by an arm of `exec` whose command has no meaning yet; safe. -/
  | notModelled (mnemonic : String)
  /-- Raised by every meaning on a command whose operands `Instr.wf` rejects: a value its field cannot hold or that the manual reserves (R13, R174); safe. -/
  | reservedOperand
  deriving DecidableEq, Repr

/-- The module configuration at manufacture (R507): UDP port 0xB806, every other byte zero (log 9: MEDIA, VID as fitted). -/
def factoryConfig : List Byte := List.replicate 32 0 ++ [0x06, 0xB8] ++ List.replicate 30 0

/-- The non-volatile stores of a module as shipped (log 9): both banks hold the shipped image, the device is unclaimed, no packs, no unit history, no removed channel. -/
def Flash.factory : Flash where
  active := false
  trial := .none
  bankA := ⟨true, []⟩
  bankB := ⟨true, []⟩
  svnFloor := 0
  keys := []
  claimed := false
  kseq := 0
  boots := 0
  packs := []
  config := factoryConfig
  stored := factoryConfig
  units := []
  ring := []
  ringNext := 0
  lastTime := 0
  badRows := []
  chanRows := []
  mapWord := 0
  removedWord := 0

/-- The power side right after a reset: no samples, every rail of the compute dies off (R517, R537). DESIGN CHOICE (log 8). -/
def Power.reset : Power := ⟨[], 0, 0, 0, 0, 0, 0, false, false, false, false, 0, false, 0, 0, 0, 0⟩

/-- The machine right after reset. DEDUCED (log 3). DESIGN CHOICE (log 8). -/
def State.reset : State where
  pending := []
  free := 0
  clock := ⟨0, 0, 0⟩
  regs := []
  mem := Memory.empty
  cores := []
  parts := []
  fab := []
  fabNext := 0
  busy := []
  merge := []
  grants := []
  turns := []
  marchAt := []
  pot := []
  tally := []
  links := []
  scrubRow := []
  chans := []
  conns := []
  connsUsed := []
  kept := []
  groups := []
  groupParts := []
  groupPend := []
  echoes := []
  assembly := none
  epochs := []
  past := []
  early := []
  admitAt := []
  localQ := []
  talPend := []
  cairnOut := none
  restore := none
  storeOp := none
  events := []
  runs := []
  sweeps := []
  flash := Flash.factory
  update := none
  reports := []
  power := Power.reset
  attempt := 0
  started := false
  win := []
  deficit := []
  sealCost := none
  loadWait := none
  outbox := []

end Sys2Proof.Machine
end

