-- ==== Sys2Proof/Machine/Regs.lean ====
section
/-! DEFINITION. Reading and writing registers and their fields by name (00 R12, R13), the core map's view of physical cores (01 R29, R31, R38), and fresh free values. -/

namespace Sys2Proof.Machine

/-- The word a register holds. -/
def State.reg (s : State) (a : Nat) : Nat :=
  match Tab.find s.regs a with
  | some w => w.toNat
  | none => resetWord a

/-- Set a whole register; a register at its reset word is not listed. -/
def State.setReg (s : State) (a v : Nat) : State :=
  { s with regs := if v % 2 ^ 64 = resetWord a then Tab.del s.regs a else Tab.put s.regs a (BitVec.ofNat 64 v) }

/-- The field [hi:lo] of a register. -/
def State.fld (s : State) (a hi lo : Nat) : Nat := bits (s.reg a) hi lo

/-- Set a field of a register. -/
def State.setFld (s : State) (a hi lo v : Nat) : State := s.setReg a (setBits (s.reg a) hi lo v)

/-- Add to a counter field that saturates at its all-ones value. -/
def State.addFld (s : State) (a hi lo n : Nat) : State := s.setFld a hi lo (satN (hi + 1 - lo) (s.fld a hi lo + n))

/-- Raise a field to `v` if it is lower (a maximum counter), within the field. -/
def State.maxFld (s : State) (a hi lo v : Nat) : State := s.setFld a hi lo (satN (hi + 1 - lo) (max (s.fld a hi lo) v))

/-- Clear every register from `lo` to `hi − 1` to its reset word. DEDUCED (log 63). -/
def State.clearRegs (s : State) (lo hi : Nat) : State :=
  { s with regs := Tab.drop s.regs (fun a => decide (lo ≤ a ∧ a < hi)) }

/-- The next free number: a tag for undefined contents or the argument of a free value (log 5). -/
def State.fresh (s : State) : Nat × State := (s.free, { s with free := s.free + 1 })

/-- The physical core that hosts a logical core under the map in force (R29, R38). -/
def State.phys (s : State) (c : Nat) : Option Nat :=
  let w := s.reg (rCmap c)
  if c < 128 ∧ bits w 63 63 = 1 then some (34 * bits w 9 8 + bits w 5 0) else none

/-- A physical core is fenced (R515). -/
def State.fenced (s : State) (k : Nat) : Bool := s.fld (rDsup (k / 34)) (k % 34) (k % 34) == 1

/-- A physical core's state. -/
def State.core (s : State) (k : Nat) : Core := Tab.get s.cores Core.reset k

/-- Set a physical core's state. -/
def State.setCore (s : State) (k : Nat) (c : Core) : State := { s with cores := Tab.put s.cores k c }

/-- Change a physical core's state. -/
def State.updCore (s : State) (k : Nat) (f : Core → Core) : State := s.setCore k (f (s.core k))

/-- A partition's state. -/
def State.part (s : State) (p : Nat) : Part := Tab.get s.parts Part.reset p

/-- Change a partition's state. -/
def State.updPart (s : State) (p : Nat) (f : Part → Part) : State := { s with parts := Tab.put s.parts p (f (s.part p)) }

/-- A partition's program is loaded or running and has not ended (R126, R127). -/
def Part.live (p : Part) : Bool :=
  match p.st with
  | .loaded => true
  | .running => true
  | .closed => true
  | .restoring => true
  | _ => false

/-- A partition counts as running (R551). -/
def Part.busy (p : Part) : Bool := p.live || p.st == .ending

/-- The partition whose live program holds a logical core (R162). -/
def State.partOf (s : State) (c : Nat) : Option Nat :=
  (List.range 8).find? (fun p => (s.part p).live && decide ((s.part p).first ≤ c ∧ c < (s.part p).first + (s.part p).num))

/-- The logical cores of a partition, of the 128 there are (R29, R162). -/
def Part.cores (p : Part) : List Nat := ((List.range p.num).map (· + p.first)).filter (fun c => decide (c < 128))

/-- Send a message or an export. DESIGN CHOICE (log 6). -/
def State.emit (s : State) (o : Out) : State := { s with outbox := s.outbox ++ [o] }

/-- The time a message carries: cluster time in ns (R19). -/
def State.now (s : State) : Nat := s.clock.ns

/-- Cluster time reaches `t` if it has not yet: a scheduled instant comes (R437). DESIGN CHOICE (log 4). -/
def State.reach (s : State) (t : Nat) : State := if s.clock.ns < t then { s with clock := { s.clock with ns := t, frac := 0 } } else s

end Sys2Proof.Machine
end

