-- ==== Sys2Proof/Machine/Flags.lean ====
section
/-! DEFINITION. The sticky arithmetic flags of a core (02 R73) and the counting flags F0 to F63 (04 R142 to R148). -/

namespace Sys2Proof.Machine

/-- Set arithmetic flags in ENG_ARITH_FLAGS of a physical core (R73). -/
def State.raise (s : State) (k : Nat) (f : Fl) : State :=
  if f = 0 then s else s.setFld (rArith k) 7 0 ((BitVec.ofNat 8 (s.fld (rArith k) 7 0) ||| f).toNat)

/-- NAN_IN where any operand is NaN (R73). -/
def nanIn (ws : List Word32) : Fl := if ws.any (fun w => (val32 w).isNan) then Fl.nanIn else 0

/-- The value of a counting flag (R142). -/
def Core.flag (c : Core) (n : Nat) : Nat := Tab.get c.flags 0 n

/-- An add that would carry a flag past 2^32 − 1 (R148). -/
def Core.flagOverflows (c : Core) (n k : Nat) : Bool := decide (2 ^ 32 ≤ c.flag n + k)

/-- Set a counting flag; zero is not listed. -/
def Core.setFlag (c : Core) (n v : Nat) : Core := { c with flags := if v = 0 then Tab.del c.flags n else Tab.put c.flags n v }

end Sys2Proof.Machine
end

