-- ==== Sys2Proof/Machine/Narrow.lean ====
section
/-! DEFINITION. Widening, packing, the counter-based generator and every narrowing (02 R41, R43 to R45, R51, R52, R54 to R60). -/

namespace Sys2Proof.Machine

/-- One step of the generator's round: the mixing of R55 with the round's two key words. -/
def genRound (r0 r1 : Word32) (x : Word32 × Word32 × Word32 × Word32) : Word32 × Word32 × Word32 × Word32 :=
  let x0 := x.1 + x.2.1
  let x3 := (x.2.2.2 ^^^ x0).rotateLeft 16
  let x2 := x.2.2.1 + x3
  let x1 := (x.2.1 ^^^ x2).rotateLeft 12
  let y0 := x0 + x1 + r0
  let y3 := (x3 ^^^ y0).rotateLeft 8
  let y2 := x2 + y3 + r1
  let y1 := (x1 ^^^ y2).rotateLeft 7
  (y0, y1, y2, y3)

/-- The generator G(key, step, stream, element) (R55). -/
def gen (key step stream element : Nat) : Word32 :=
  let k0 : Word32 := BitVec.ofNat 32 key
  let k1 : Word32 := BitVec.ofNat 32 (key / 2 ^ 32)
  let x0 : Word32 := BitVec.ofNat 32 element
  let x1 : Word32 := BitVec.ofNat 32 (element / 2 ^ 32 % 2 ^ 16 + stream % 2 ^ 16 * 2 ^ 16)
  let f := (List.range 10).foldl
    (fun x i => genRound (k0 + BitVec.ofNat 32 (i * 0x9E3779B9)) (k1 + BitVec.ofNat 32 (i * 0xBB67AE85)) x)
    (x0, x1, BitVec.ofNat 32 step, 0x5DA103C7#32)
  f.1 ^^^ f.2.1 ^^^ f.2.2.1 ^^^ f.2.2.2

/-- The 16-bit draw of R55. -/
def drawOf (key step stream element : Nat) : Nat := (gen key step stream element).toNat % 2 ^ 16

/-- The rounding mode of a 2-bit field with its draw (R52). -/
def rmodeOf (code draw : Nat) : RMode :=
  match code with
  | 0 => .rne
  | 1 => .sr draw
  | _ => .rtz

/-- Narrow FP32 to FP32, BF16 or FP16 (R48, R58; R54 past the maximum): the encoding and the flags. DEDUCED (log 18). -/
def narrowFp (code : Nat) (mode : RMode) (w : Word32) : Nat × Fl :=
  match code with
  | 0 => ((canonical w).toNat, 0)
  | _ =>
    let f := if code = 1 then bf16 else fp16
    match val32 w with
    | .nan => (f.nanCode, 0)
    | .inf n => (f.signBit n + f.maxCode + 1, 0)
    | .fin n m e =>
      let c := f.roundMag mode m e
      if c ≤ f.maxCode then (f.signBit n + c, 0)
      else if mode = .rtz then (f.signBit n + f.maxCode, 0)
      else (f.signBit n + f.maxCode + 1, Fl.narrowOvf)

/-- Convert FP32 to INT8 (R41): the byte and the flags. -/
def narrowI8 (mode : RMode) (w : Word32) : Nat × Fl :=
  match val32 w with
  | .nan => (0, Fl.i8Sat)
  | .inf n => (if n then 0x80 else 0x7F, Fl.i8Sat)
  | .fin n m e =>
    let t := if 0 ≤ e then m * 2 ^ e.toNat else roundShift mode m (-e).toNat
    if n then (if 128 < t then (0x80, Fl.i8Sat) else ((256 - t) % 256, 0))
    else (if 127 < t then (0x7F, Fl.i8Sat) else (t, 0))

/-- Narrow one value of an MX block, already divided by the block's scale (R59 step 4, R60). DEDUCED (log 18). -/
def narrowElem (f : Fmt) (mode : RMode) (x : Num) : Nat × Fl :=
  match x with
  | .fin n m e =>
    let c := f.roundMag mode m e
    if c ≤ f.maxCode then (f.signBit n + c, 0) else (f.signBit n + f.maxCode, Fl.mxSat)
  | _ => (0, 0)

/-- Binary exponent ⌊log2 |x|⌋ of a finite nonzero value. -/
def Num.ilog (x : Num) : Int :=
  match x with
  | .fin _ m e => e + bitLen m - 1
  | _ => 0

/-- The scale byte of a block and whether it is the NaN or the all-zero case (R59 steps 1 to 3). -/
def blockScale (code : Nat) (xs : List Num) : Nat :=
  let nz := xs.filter (fun x => !x.isZero)
  if xs.any (fun x => match x with | .fin _ _ _ => false | _ => true) then 0xFF
  else
    match nz with
    | [] => 0
    | x :: r =>
      let l := r.foldl (fun a y => max a y.ilog) x.ilog
      (min 127 (max (-127) (l - emaxOf code)) + 127).toNat

/-- Narrow up to 32 FP32 values into one MX block (R59, R60), padded with +0 (R44): scale byte, one element for each given value, flags. `mode` gives each value's rounding. -/
def narrowBlock (code : Nat) (xs : List (Word32 × RMode)) : Nat × List Nat × Fl :=
  match fmtOf code with
  | none => (0, xs.map (fun _ => 0), 0)
  | some f =>
    let vs := xs.map (fun x => val32 x.1)
    let s := blockScale code vs
    if s = 0xFF then (0xFF, xs.map (fun _ => 0), Fl.mxNanBlk)
    else if vs.all Num.isZero then (0, xs.map (fun _ => 0), 0)
    else
      let es := xs.map (fun x => narrowElem f x.2 ((val32 x.1).scale (127 - (s : Int))))
      (s, es.map (·.1), es.foldl (fun a e => a ||| e.2) 0)

/-- Widen one element of a scalar format to FP32 (R51); INT8 by value (R214). -/
def widenFp (code w : Nat) : Word32 :=
  match code with
  | 8 => (rnd32 (.fin (decide (128 ≤ w % 256)) (signed 8 w).natAbs 0)).1
  | _ =>
    match fmtOf code with
    | some f => (rnd32 (f.decode w)).1
    | none => 0

/-- The exact value of an MX element under its scale byte (R43). -/
def mxValue (code elem scale : Nat) : Num :=
  if scale = 0xFF then .nan
  else
    match fmtOf code with
    | some f => (f.decode elem).scale ((scale : Int) - 127)
    | none => .nan

/-- Widen an MX element to FP32, with OVF where it passes the FP32 maximum (R51). -/
def widenMx (code elem scale : Nat) : Word32 × Fl := rnd32 (mxValue code elem scale)

/-- Little-endian bits of packed elements, first element lowest (R45). -/
def packBits (w : Nat) : List Nat → Nat
  | [] => 0
  | e :: r => e % 2 ^ w + 2 ^ w * packBits w r

/-- Elements packed into bytes (R45). DEDUCED (log 13). -/
def packElems (code : Nat) (es : List Nat) : List Byte := toLe (packedLen code es.length) (packBits (widthOf code) es)

/-- The first `n` elements of packed bytes (R45). DEDUCED (log 13). -/
def unpackElems (code n : Nat) (bs : List Byte) : List Nat :=
  let w := widthOf code
  let v := ofLe bs
  (List.range n).map (fun i => v / 2 ^ (w * i) % 2 ^ w)

/-- The 4-byte words of a packed element's bits: first and last word index (R132: wholly or partly). -/
def elemWords (code i : Nat) : Nat × Nat :=
  let w := widthOf code
  (w * i / 32, (w * i + w - 1) / 32)

end Sys2Proof.Machine
end

