-- ==== Sys2Proof/Machine/Words.lean ====
section
/-! DEFINITION. The 128-bit Ovtuit instruction words (05 R173 to R219): one layout per opcode, the encoder and the decoder that Pyist and the sequencers use. -/

namespace Sys2Proof.Machine

/-- One field of a layout: its width, and whether it is used (false: reserved, R174). -/
abbrev Fld := Nat × Bool

/-- Values of consecutive fields, first field in the highest bits, as one number. -/
def packF : List (Nat × Nat) → Nat
  | [] => 0
  | (_, v) :: r => v * 2 ^ (sumOf (r.map (·.1))) + packF r

/-- The fields of a number by their widths, first field from the highest bits. -/
def unpackF : List Nat → Nat → List Nat
  | [], _ => []
  | w :: r, n => n / 2 ^ (sumOf r) % 2 ^ w :: unpackF r n

/-- A used field. -/
def u (w : Nat) : Fld := (w, true)
/-- A reserved field. -/
def rz (w : Nat) : Fld := (w, false)

/-- The transfer body (R187). -/
def xferLayout : List Fld := [u 4, u 4, u 12, u 20, u 20, u 20, u 12, u 1, u 1, rz 14, u 4]

/-- The layout of the 112-bit body, by opcode (R176 to R219); none where the opcode is reserved. -/
def bodyLayout (opc : Nat) : Option (List Fld) :=
  match opc with
  | 0x00 => some [rz 112]
  | 0x01 => some [rz 112]
  | 0x02 => some [u 1, rz 75, u 4, rz 16, u 16]
  | 0x03 => some [rz 112]
  | 0x04 => some [rz 112]
  | 0x05 => some [u 1, rz 105, u 6]
  | 0x08 => some [rz 74, u 6, rz 16, u 16]
  | 0x09 => some [rz 65, u 7, rz 2, u 6, rz 16, u 16]
  | 0x0A => some [rz 74, u 6, rz 16, u 16]
  | 0x10 => some [u 4, rz 4, u 8, rz 56, u 40]
  | 0x11 => some [u 4, u 1, rz 11, u 32, u 32, u 32]
  | 0x12 => some [rz 76, u 4, u 32]
  | 0x13 => some [u 4, rz 72, u 4, rz 32]
  | 0x20 => some xferLayout
  | 0x22 => some xferLayout
  | 0x23 => some xferLayout
  | 0x24 => some [u 4, u 4, u 2, u 1, u 4, u 1, u 4, u 4, u 20, u 20, u 12, u 1, rz 35]
  | 0x25 => some [u 4, u 4, u 4, rz 8, u 8, u 20, u 20, u 12, u 1, rz 31]
  | 0x26 => some xferLayout
  | 0x28 => some [u 6, u 6, rz 68, u 32]
  | 0x29 => some [u 4, u 6, u 2, u 4, u 2, u 8, rz 2, u 24, u 40, rz 20]
  | 0x2A => some [u 6, u 4, rz 70, u 32]
  | 0x40 => some [u 3, u 1, u 2, u 2, u 4, u 4, u 5, u 4, u 5, u 4, u 5, u 5, u 3, u 1, u 4, u 9, rz 3, u 16, rz 32]
  | 0x41 => some [u 3, u 1, rz 4, u 4, u 4, rz 96]
  | 0x42 => some [u 3, rz 1, u 2, u 2, u 2, u 4, u 4, u 5, u 5, rz 84]
  | 0x43 => some [u 3, u 4, u 2, u 5, u 4, u 2, u 1, u 4, u 4, u 4, u 4, u 2, u 1, u 4, rz 4, u 16, rz 16, u 32]
  | 0x44 => some [u 3, u 1, u 2, u 2, u 3, rz 10, u 3, u 8, u 3, u 8, rz 37, u 16, u 16]
  | 0x48 => some [u 8, u 5, u 5, u 5, u 4, u 5, u 4, u 2, rz 10, u 16, u 16, rz 32]
  | 0x49 => some [u 3, rz 13, u 32, rz 16, u 48]
  | 0x4A => some [u 4, u 4, rz 84, u 20]
  | _ => none

/-- A flag bit as a Boolean. -/
def isSet (v : Nat) : Bool := v == 1

/-- A transfer body from its used fields. -/
def xferOf : List Nat → Option XferB
  | [f0, f1, rows, rb, ss, ds, dl, nr, pot, gs] => some ⟨f0, f1, rows, rb, ss, ds, dl, isSet nr, isSet pot, gs⟩
  | _ => none

/-- The instruction of an opcode with a completion field and the used fields of its body. -/
def ovtOf (opc : Nat) (cf : Cf) (v : List Nat) : Option Ovt :=
  match opc, v with
  | 0x00, [] => some .nop
  | 0x01, [] => some .endS
  | 0x02, [c, s, i] => some (.loop ⟨isSet c, s, i⟩)
  | 0x03, [] => some .endloop
  | 0x04, [] => some .boundary
  | 0x05, [e, p] => some (.phase (isSet e) p)
  | 0x08, [f, k] => some (.fadd f k)
  | 0x09, [t, f, k] => some (.faddr cf t f k)
  | 0x0A, [f, k] => some (.fwait f k)
  | 0x10, [a, r, o] => some (.agbase a r o)
  | 0x11, [a, g, s0, s1, s2] => some (.agstr a (isSet g) s0 s1 s2)
  | 0x12, [s, x] => some (.cset s x)
  | 0x13, [a, s] => some (.cload cf a s)
  | 0x20, l => (xferOf l).map (.move cf)
  | 0x22, l => (xferOf l).map (.qload cf)
  | 0x23, l => (xferOf l).map (.qstore cf)
  | 0x24, [sag, kag, pair, bank, ty, bax, tr, tc, ss, ks, dl, nr] =>
    some (.sload cf ⟨sag, kag, pair, bank, ty, bax, tr, tc, ss, ks, dl, isSet nr⟩)
  | 0x25, [sag, qi, qd, ni, rb, is, dl, nr] => some (.gather cf ⟨sag, qi, qd, ni, rb, is, dl, isSet nr⟩)
  | 0x26, l => (xferOf l).map (.pfetch cf)
  | 0x28, [r, d, n] => some (.repoch cf r d n)
  | 0x29, [sag, rch, w, st, rm, tr, el, tf] => some (.racc cf ⟨sag, rch, w, st, rm, tr, el, tf⟩)
  | 0x2A, [r, d, t] => some (.rwait cf r d t)
  | 0x40, [arr, l, set, q, ta, tb, ws, wq, ns, nq, m, n, kt, sb, so, sk, st] =>
    some (.ops cf ⟨arr, isSet l, set, q, ta, tb, ws, wq, ns, nq, m, n, kt, sb, so, sk, st⟩)
  | 0x41, [arr, qm, ta, tb] => some (.amode cf ⟨arr, isSet qm, ta, tb⟩)
  | 0x42, [arr, set, q, pm, pt, pq, m, n] => some (.preload cf ⟨arr, set, q, pm, pt, pq, m, n⟩)
  | 0x43, [dd, act, dm, tk, ot, rm, ba, oq, osq, sq, sty, srm, sba, kq, str, ld] =>
    some (.ddesc dd ⟨act, dm, tk, ot, rm, ba, oq, osq, sq, sty, srm, sba, kq, str, ld⟩)
  | 0x44, [arr, clr, set, q, dd, rd, ri, cd, ci, r0, c0] =>
    some (.drain cf ⟨arr, isSet clr, set, q, dd, rd, ri, cd, ci, r0, c0⟩)
  | 0x48, [rop, sa, sb, sc, ts, dst, td, rm, str, len] => some (.rx cf ⟨rop, sa, sb, sc, ts, dst, td, rm, str, len⟩)
  | 0x49, [dep, str, eb] => some (.rebase dep str eb)
  | 0x4A, [qs, qd, by_] => some (.qmove cf qs qd by_)
  | _, _ => none

/-- The used fields of a transfer body. -/
def xferVals (b : XferB) : List Nat :=
  [b.f0, b.f1, b.rows, b.rbytes, b.sstr, b.dstr, b.dline, bit b.norush, bit b.pot, b.gslot]

/-- The completion field of an instruction; 0 where it has none (R175). -/
def ovtCf (o : Ovt) : Cf :=
  match o with
  | .faddr cf _ _ _ => cf
  | .cload cf _ _ => cf
  | .move cf _ => cf
  | .qload cf _ => cf
  | .qstore cf _ => cf
  | .sload cf _ => cf
  | .gather cf _ => cf
  | .pfetch cf _ => cf
  | .repoch cf _ _ _ => cf
  | .racc cf _ => cf
  | .rwait cf _ _ _ => cf
  | .ops cf _ => cf
  | .amode cf _ => cf
  | .preload cf _ => cf
  | .drain cf _ => cf
  | .rx cf _ => cf
  | .qmove cf _ _ _ => cf
  | _ => ⟨false, 0⟩

/-- Opcode and used body fields of an instruction. -/
def ovtVals (o : Ovt) : Nat × List Nat :=
  match o with
  | .nop => (0x00, [])
  | .endS => (0x01, [])
  | .loop b => (0x02, [bit b.csrc, b.slot, b.imm])
  | .endloop => (0x03, [])
  | .boundary => (0x04, [])
  | .phase e p => (0x05, [bit e, p])
  | .fadd f k => (0x08, [f, k])
  | .faddr _ t f k => (0x09, [t, f, k])
  | .fwait f k => (0x0A, [f, k])
  | .agbase a r o => (0x10, [a, r, o])
  | .agstr a g s0 s1 s2 => (0x11, [a, bit g, s0, s1, s2])
  | .cset s v => (0x12, [s, v])
  | .cload _ a s => (0x13, [a, s])
  | .move _ b => (0x20, xferVals b)
  | .qload _ b => (0x22, xferVals b)
  | .qstore _ b => (0x23, xferVals b)
  | .sload _ b => (0x24, [b.sag, b.kag, b.pair, b.bank, b.type, b.bax, b.tr, b.tc, b.sstr, b.kstr, b.dline, bit b.norush])
  | .gather _ b => (0x25, [b.sag, b.qi, b.qd, b.nidx, b.rbytes, b.istr, b.dline, bit b.norush])
  | .pfetch _ b => (0x26, xferVals b)
  | .repoch _ r d n => (0x28, [r, d, n])
  | .racc _ b => (0x29, [b.sag, b.rch, b.wire, b.srct, b.rmode, b.treg, b.elems, b.toff])
  | .rwait _ r d t => (0x2A, [r, d, t])
  | .ops _ b => (0x40, [b.arr, bit b.link, b.set, b.quad, b.ta, b.tb, b.wsrc, b.wsq, b.nsrc, b.nsq, b.m, b.n, b.ktail, b.sbank, b.soff, b.sk, b.steps])
  | .amode _ b => (0x41, [b.arr, bit b.qm, b.ta, b.tb])
  | .preload _ b => (0x42, [b.arr, b.set, b.quad, b.pmode, b.pt, b.pq, b.m, b.n])
  | .ddesc dd d => (0x43, [dd, d.act, d.dmode, d.topk, d.otype, d.rmode, d.baxis, d.oq, d.osq, d.sq, d.stype, d.srmode, d.sbaxis, d.kq, d.stream, d.ld])
  | .drain _ b => (0x44, [b.arr, bit b.clr, b.set, b.quad, b.dd, b.rdep, b.rinc, b.cdep, b.cinc, b.orgR, b.orgC])
  | .rx _ b => (0x48, [b.rop, b.sa, b.sb, b.sc, b.ts, b.dst, b.td, b.rmode, b.stream, b.len])
  | .rebase d s e => (0x49, [d, s, e])
  | .qmove _ s d b => (0x4A, [s, d, b])

/-- The values of a layout's fields in order: used values from `vs`, zero for reserved fields. -/
def fillLayout : List Fld → List Nat → List (Nat × Nat)
  | [], _ => []
  | (w, false) :: r, vs => (w, 0) :: fillLayout r vs
  | (w, true) :: r, vs => (w, vs.headD 0) :: fillLayout r vs.tail

/-- The used values among a layout's values. -/
def usedVals : List Fld → List Nat → List Nat
  | (_, true) :: r, v :: vs => v :: usedVals r vs
  | (_, false) :: r, _ :: vs => usedVals r vs
  | _, _ => []

/-- Every reserved field of the layout is zero (R174). -/
def reservedZero : List Fld → List Nat → Bool
  | (_, false) :: r, v :: vs => v == 0 && reservedZero r vs
  | (_, true) :: r, _ :: vs => reservedZero r vs
  | _, _ => true

/-- Every used value fits its field. -/
def fitsLayout : List Fld → List Nat → Bool
  | [], [] => true
  | (_, false) :: r, vs => fitsLayout r vs
  | (w, true) :: r, v :: vs => decide (v < 2 ^ w) && fitsLayout r vs
  | _, _ => false

/-- The instruction word (R173): opcode, completion field, body. -/
def ovtEncode (o : Ovt) : Nat :=
  let (opc, vs) := ovtVals o
  packF ([(8, opc), (1, bit (ovtCf o).cfe), (6, (ovtCf o).cfn), (1, 0)] ++ fillLayout ((bodyLayout opc).getD []) vs)

/-- The instruction of a word whose reserved fields are zero; none for a reserved opcode or a nonzero reserved field. -/
def ovtOfWord (w : Nat) : Option Ovt :=
  let opc := bits w 127 120
  match bodyLayout opc with
  | none => none
  | some l =>
    let vs := unpackF (l.map (·.1)) (w % 2 ^ 112)
    if reservedZero l vs && bits w 112 112 == 0 then
      ovtOf opc ⟨isSet (bits w 119 119), bits w 118 113⟩ (usedVals l vs)
    else none

/-- The rank of an operand pairing (R47): products a cell forms in one step; none where the table does not list the pair. FP32 steps carry one product and take 2 ECLK (R77). -/
def rankOf (a b : Nat) : Option Nat :=
  let mx := fun c => decide (3 ≤ c ∧ c ≤ 7)
  if mx a && mx b then some (if a = 7 ∧ b = 7 then 8 else 4)
  else if (a = 1 ∨ a = 2) ∧ (b = 1 ∨ b = 2) then some 2
  else if a = 0 ∧ b = 0 then some 1
  else none

end Sys2Proof.Machine
end

