-- ==== Sys2Proof/Machine/Operands.lean ====
section
/-! DEFINITION. Operand forms: generator addresses, loop terms, the bytes and 64-byte requests of a transfer (05 R185 to R196, 08 R283), and queue units (04 R128 to R132). -/

namespace Sys2Proof.Machine

/-! ### Streams and loops -/

/-- A stream of a core. -/
def Core.stream (c : Core) (st : Strm) : Stream :=
  match st with
  | .a => c.a
  | .x => c.x

/-- Set a stream of a core. -/
def Core.setStream (c : Core) (st : Strm) (t : Stream) : Core :=
  match st with
  | .a => { c with a := t }
  | .x => { c with x := t }

/-- Change a stream of a core. -/
def Core.updStream (c : Core) (st : Strm) (f : Stream → Stream) : Core := c.setStream st (f (c.stream st))

/-- The index of the loop at depth `d` (1 outermost) that encloses the instruction, or 0 (R185, R151). -/
def Stream.idx (t : Stream) (d : Nat) : Nat :=
  if d = 0 then 0 else ((t.loops.reverse.drop (d - 1)).head?.map Loop.index).getD 0

/-- Loop tails at `pc` (R179): at an ENDLOOP the index advances and the loop runs again, or the loop ends and the next position is examined. Innermost loop first. -/
def loopTail : List Loop → Nat → List Loop × Nat
  | [], pc => ([], pc)
  | l :: r, pc =>
    if pc = l.tail then
      if l.index + 1 < l.count then ({ l with index := l.index + 1 } :: r, l.body) else loopTail r (l.tail + 1)
    else (l :: r, pc)

/-- The stream goes on at `pc` after an instruction of a loop body (R177, R179). -/
def Stream.goto (t : Stream) (pc : Nat) : Stream :=
  let r := loopTail t.loops pc
  { t with loops := r.1, pc := r.2 }

/-- The instruction has issued: the next one in table order, loops followed; the stream issues again (R125). -/
def Stream.advance (t : Stream) : Stream := { t.goto (t.pc + 1) with state := 2, stall := 0, obj := 0 }

/-- The stream stalls with a reason and its object, encoded as ASTALL and AOBJ (R172). -/
def Stream.stop (t : Stream) (why obj : Nat) : Stream := { t with state := 3, stall := why, obj := obj }

/-- Index of the ENDLOOP that matches a LOOP, counting nested loops (R150, R178); the table's end where none does. DEDUCED (log 61). -/
def findEnd : List Word128 → Nat → Nat → Nat
  | [], _, i => i
  | w :: r, depth, i =>
    let opc := bits w.toNat 127 120
    if opc = 2 then findEnd r (depth + 1) (i + 1)
    else if opc = 3 then (if depth = 0 then i else findEnd r (depth - 1) (i + 1))
    else findEnd r depth (i + 1)

/-- Enter a loop with count `n` (R179): a zero count goes on after the ENDLOOP (R153). -/
def Stream.enter (t : Stream) (n : Nat) : Stream :=
  let tail := findEnd (t.table.drop (t.pc + 1)) 0 (t.pc + 1)
  let u := { t with state := 2, stall := 0, obj := 0 }
  if n = 0 then u.goto (tail + 1)
  else { u with loops := ⟨n, 0, t.pc + 1, tail⟩ :: t.loops, pc := t.pc + 1 }

/-! ### Address generators -/

/-- A generator of a core. -/
def Core.ag (c : Core) (n : Nat) : AddrGen := Tab.get c.ags AddrGen.reset n

/-- Base and length of a declared region; spread banks and undeclared regions have none (R134). -/
def Core.region (c : Core) (r : Nat) : Option (Nat × Nat) := Tab.find c.regions r

/-- Region and address of a generator as an instruction of the A-stream uses it (R185); none where it is unset. -/
def Core.agAddr (c : Core) (n : Nat) : Option (Nat × Nat) :=
  let g := c.ag n
  match g.region with
  | none => none
  | some r =>
    let base := ((c.region r).map (·.1)).getD 0
    let terms := (List.range 6).map (fun d => ((c.a.idx (d + 1) : Nat) : Int) * signed 32 (g.strides.getD d 0))
    some (r, ((((base + g.offset : Nat) : Int) + terms.foldl (· + ·) 0) % 2 ^ 48).toNat)

/-! ### Rows, segments and 64-byte requests -/

/-- Rows of `len` bytes, `stride` bytes apart, in 48-bit addresses. -/
def rowsOf (base : Nat) (stride : Int) (len n : Nat) : List Seg :=
  (List.range n).map (fun (r : Nat) => ⟨some ((((base : Int) + (r : Int) * stride) % 2 ^ 48).toNat), len⟩)

/-- A request of one 64-byte word: first byte, length, position of its bytes in the transfer. -/
structure Req where
  addr : Nat
  len : Nat
  pos : Nat
  deriving DecidableEq, Repr

/-- The 64-byte words that `len` bytes at `a` touch (R283). -/
def wordsOf (a len : Nat) : Nat := if len = 0 then 0 else (a + len - 1) / 64 - a / 64 + 1

/-- The part of a byte range in its `k`-th 64-byte word. -/
def partOfWord (a len k pos : Nat) : Req :=
  let lo := max a ((a / 64 + k) * 64)
  let hi := min (a + len) ((a / 64 + k) * 64 + 64)
  ⟨lo, hi - lo, pos + (lo - a)⟩

/-- The `k`-th memory request of a transfer's bytes; null rows make none (R196). -/
def nthReq : List Seg → Nat → Nat → Option Req
  | [], _, _ => none
  | s :: r, pos, k =>
    match s.addr with
    | none => nthReq r (pos + s.len) k
    | some a => if k < wordsOf a s.len then some (partOfWord a s.len k pos) else nthReq r (pos + s.len) (k - wordsOf a s.len)

/-- The `k`-th queue unit of a transfer: the bytes of one 64-byte request, null rows cut as if aligned (R130, R196). -/
def nthUnit : List Seg → Nat → Nat → Option Req
  | [], _, _ => none
  | s :: r, pos, k =>
    let a := s.addr.getD 0
    if k < wordsOf a s.len then some (partOfWord a s.len k pos) else nthUnit r (pos + s.len) (k - wordsOf a s.len)

/-- Memory requests of a transfer's bytes in all. -/
def reqCount (l : List Seg) : Nat := sumOf (l.map (fun s => match s.addr with | some a => wordsOf a s.len | none => 0))

/-- Bytes of a transfer in all. -/
def segBytes (l : List Seg) : Nat := sumOf (l.map Seg.len)

/-! ### The stroll gap of an array -/

/-- GAP of the gap in progress, of a register value `g` where none is (R552). -/
def Arr.gapLimit (a : Arr) (g : Nat) : Nat := if a.gap = 0 then g else a.gapMax

/-! ### Queues -/

/-- A queue of a core. -/
def Core.queue (c : Core) (q : Nat) : Queue := Tab.get c.queues Queue.reset q

/-- Set a queue of a core. -/
def Core.setQueue (c : Core) (q : Nat) (v : Queue) : Core := { c with queues := Tab.put c.queues q v }

/-- Free bytes of a queue (R128). -/
def Queue.free (q : Queue) : Nat := q.depth * 128 - q.bytes.length

/-- The 4-byte words of stream positions whose byte is poisoned. -/
def markWords (pos : Nat) : List PByte → List Nat → List Nat
  | [], l => l
  | b :: r, l => markWords (pos + 1) r (if b.2 then insertNat (pos / 4) l else l)

/-- One push (R130): bytes enter at the back, and a poisoned byte marks its 4-byte word (R132). `t` is the present ECLK. -/
def Queue.push (q : Queue) (bs : List PByte) (t : Nat) : Queue :=
  { q with
    bytes := q.bytes ++ bs.map (·.1)
    poison := markWords (q.head + q.bytes.length) bs q.poison
    pushes := (t, bs.length) :: q.pushes.filter (fun e => decide (t < e.1 + 256)) }

/-- The first `n` bytes with the marks of their words (R132). -/
def Queue.front (q : Queue) (n : Nat) : List PByte :=
  (q.bytes.take n).zipIdx.map (fun p => (p.1, q.poison.contains ((q.head + p.2) / 4)))

/-- One pop (R130): the first `n` bytes leave; a word's mark goes when the whole word has left. -/
def Queue.pop (q : Queue) (n t : Nat) : Queue :=
  let h := q.head + n
  { q with
    head := h
    bytes := q.bytes.drop n
    poison := q.poison.filter (fun w => decide (h < 4 * w + 4))
    pops := (t, n) :: q.pops.filter (fun e => decide (t < e.1 + 256)) }

/-- Uncorrectable 8-byte groups met while reading a queue mark both of their words (R444). -/
def Core.queueErrs (c : Core) (es : List QErr) : Core :=
  es.foldl
    (fun c e =>
      if e.fixed then c
      else
      let q := c.queue e.q
      let w := (q.head + 8 * e.group) / 8 * 2
      c.setQueue e.q { q with poison := insertNat w (insertNat (w + 1) q.poison) })
    c

/-- Elements of a scalar type popped as bytes: FP32 values with poison (R132, R214, R85). -/
def elemsOf (code n : Nat) (bs : List PByte) : List PWord :=
  let es := unpackElems code n (bs.map (·.1))
  let sz := widthOf code
  es.zipIdx.map (fun p =>
    let lo := sz * p.2 / 8
    let hi := (sz * p.2 + sz - 1) / 8
    (widenFp code p.1, ((bs.drop lo).take (hi + 1 - lo)).any (·.2)))

/-- Packed elements with poison flags as bytes: a byte is marked where an element in it is (R109). -/
def packMarked (code : Nat) (es : List (Nat × Bool)) : List PByte :=
  let bs := packElems code (es.map (·.1))
  let w := widthOf code
  bs.zipIdx.map (fun p =>
    let lo := 8 * p.2 / w
    let hi := (8 * p.2 + 7) / w
    (p.1, ((es.drop lo).take (hi + 1 - lo)).any (·.2)))

end Sys2Proof.Machine
end

