-- ==== Sys2Proof/Machine/Crc.lean ====
section
/-! DEFINITION. The digests of 64-byte words and cairn blocks: the reflected CRC-64 and mix64 of 10 R351, the cairn digest of 13 R469, and the CRC-32C of 12 R414. -/

namespace Sys2Proof.Machine

/-- The polynomial 0x42F0E1EBA9EA3693, bit-reversed for a reflected CRC. -/
def crcPoly : Word64 := 0xC96C5795D7870F42

/-- Eight shifts of the register. -/
def crcShift : Nat → Word64 → Word64
  | 0, c => c
  | n + 1, c => crcShift n (if c.toNat % 2 = 1 then (c >>> 1) ^^^ crcPoly else c >>> 1)

/-- crc64 of bytes: initial value and final XOR all ones (R351). -/
def crc64 (l : List Byte) : Word64 :=
  ~~~ (l.foldl (fun (c : Word64) b => crcShift 8 (c ^^^ b.setWidth 64)) (~~~ (0 : Word64)))

/-- mix64 (R351). -/
def mix64 (a : Word64) : Word64 :=
  let z := a + 0x9E3779B97F4A7C15
  let z := (z ^^^ (z >>> 30)) * 0xBF58476D1CE4E5B9
  let z := (z ^^^ (z >>> 27)) * 0x94D049BB133111EB
  z ^^^ (z >>> 31)

/-- The contribution of a 64-byte word at a DPA (R351). -/
def contribution (w : List Byte) (a : Nat) : Word64 := crc64 w ^^^ mix64 (BitVec.ofNat 64 a)

/-- Shifts of a reflected CRC-32C register, whose polynomial 0x1EDC6F41 reads 0x82F63B78 bit-reversed. -/
def crc32Shift : Nat → Word32 → Word32
  | 0, c => c
  | n + 1, c => crc32Shift n (if c.toNat % 2 = 1 then (c >>> 1) ^^^ 0x82F63B78 else c >>> 1)

/-- CRC-32C of bytes (R414), with initial value and final XOR all ones. PRESUMED (log 11). -/
def crc32c (l : List Byte) : Word32 :=
  ~~~ (l.foldl (fun (c : Word32) b => crc32Shift 8 (c ^^^ b.setWidth 32)) (~~~ (0 : Word32)))

/-- The term of the cairn block at an offset (R469). -/
def cairnTerm (block : List Byte) (off : Nat) : Word64 := crc64 (padTo 4096 block) ^^^ mix64 (BitVec.ofNat 64 off)

/-- The digest of a cairn (R469). -/
def cairnDigest (l : List Byte) : Word64 :=
  (List.range (ceilDiv l.length 4096)).foldl (fun d i => d ^^^ cairnTerm ((l.drop (4096 * i)).take 4096) (4096 * i)) 0

end Sys2Proof.Machine
end

