-- ==== Sys2Proof/Machine/Access.lean ====
section
/-! DEFINITION. Mapped memory as programs, the fabric and the hub reach it: DPAs (R8, R9, R29, R333), the channel map in force (10 R332, R357), faulty channels (R346), digest windows and sweeps (R351 to R354), and what a channel counts for one access (R337, R356). -/

namespace Sys2Proof.Machine

/-! ### Memory as programs and messages address it -/

/-- Where a DPA lands (R8, R9, R29, R333): scratchpad or stacked memory at itself, a mapped hamper window at its physical core's hamper; none where it is unmapped or a management address. -/
def State.keyOf (s : State) (a : Nat) : Option Nat :=
  if a < 0x100000000 then some a
  else if a < 0x110000000 then
    match s.phys ((a - hamperDpa) / hamperSize) with
    | some k => some (hamperKey + k * hamperSize + (a - hamperDpa) % hamperSize)
    | none => none
  else if stackDpa ≤ a ∧ a < stackTop - s.fld rMap 35 32 * 0x90000000 then some a
  else none

/-- A DPA in a hamper window (R9). -/
def inHamper (a : Nat) : Bool := decide (hamperDpa ≤ a ∧ a < 0x110000000)

/-- Read bytes with marks at a DPA; unmapped bytes read zero. DEDUCED (log 39). DEDUCED (log 55). -/
def State.readMem (s : State) (a n : Nat) : List PByte :=
  match s.keyOf a with
  | some k => s.mem.readB k n
  | none => List.replicate n (0, false)

/-- Write bytes with marks at a DPA. -/
def State.writeMem (s : State) (a : Nat) (bs : List PByte) : State :=
  match s.keyOf a with
  | some k => { s with mem := s.mem.writeB k bs }
  | none => s

/-! ### The channel map in force (R332, R357) -/

/-- Removed slots of the map in force, ascending. -/
def State.removed (s : State) : List Nat := (List.range (s.fld rMap 35 32)).map (fun i => s.fld rRmv (8 * i + 7) (8 * i))

/-- Home of a stacked-memory DPA under the map in force. -/
def State.homeOf (s : State) (a : Nat) : Option Home := if stackDpa ≤ a ∧ a < stackTop then home s.removed a else none

/-- The channel that holds a stacked-memory DPA. -/
def State.chanAt (s : State) (a : Nat) : Option Nat := (s.homeOf a).map Home.chan

/-- A channel is faulty and still in the map (R346). -/
def State.chanFaulty (s : State) (q : Nat) : Bool := s.fld (rHmcStat q) 63 60 == 5

/-- A DPA lies on a faulty channel. -/
def State.faultyAt (s : State) (a : Nat) : Bool := (s.chanAt a).any s.chanFaulty

/-! ### Digest regions (R352 to R354, R357) -/

/-- First DPA and end of digest region `n`. -/
def State.dgRange (s : State) (n : Nat) : Nat × Nat :=
  let lo := stackDpa + s.fld (rDgcfg n) 39 20 * 2 ^ 20
  (lo, lo + s.fld (rDgcfg n) 19 0 * 2 ^ 20)

/-- Digest region `n` is active and holds a DPA. -/
def State.inDigest (s : State) (n a : Nat) : Bool :=
  s.fld (rDgcfg n) 63 63 == 1 && decide ((s.dgRange n).1 ≤ a ∧ a < (s.dgRange n).2)

/-- Set marks of a region's window: 1 partial, 2 poisoned. -/
def State.markWin (s : State) (n m : Nat) : State := { s with win := Tab.upd s.win 0 n (fun v => v ||| m) }

/-- One region's view of a write of `bs` at `a` on channel `q`, within one word (R352 to R354). DESIGN CHOICE (log 28). -/
def State.noteRegion (s : State) (q a : Nat) (bs : List PByte) (n : Nat) : State :=
  if s.inDigest n a then
    let s := if bs.length = 64 then s.setReg (rDgwacc q n) (BitVec.ofNat 64 (s.reg (rDgwacc q n)) ^^^ contribution (bs.map (·.1)) a).toNat else s.markWin n 1
    let s := if bs.any (·.2) then s.markWin n 2 else s
    if s.sweeps.contains n then s.setFld (rDgst n) 4 4 1 else s
  else s

/-- Every region's view of a write. -/
def State.noteWrite (s : State) (q a : Nat) (bs : List PByte) : State := (List.range 16).foldl (fun s n => s.noteRegion q a bs n) s

/-! ### Bytes as the fabric and the hub read and write them -/

/-- Read bytes of one 64-byte word; a faulty channel returns poison (R346). -/
def State.loadWord (s : State) (a n : Nat) : List PByte :=
  let bs := s.readMem a n
  if s.faultyAt a then bs.map (fun b => (b.1, true)) else bs

/-- Write bytes of one 64-byte word; a faulty channel discards them (R346), and digest windows see a write of stacked memory (R352). -/
def State.storeWord (s : State) (a : Nat) (bs : List PByte) : State :=
  if s.faultyAt a then s
  else
    match s.chanAt a with
    | some q => (s.writeMem a bs).noteWrite q a bs
    | none => s.writeMem a bs

/-- The bytes from `a`, word by word. -/
def State.loadBytes (s : State) (a n : Nat) : List PByte :=
  (List.range (wordsOf a n)).flatMap (fun i => let r := partOfWord a n i 0; s.loadWord r.addr r.len)

/-- Write bytes from `a`, word by word. -/
def State.storeBytes (s : State) (a : Nat) (bs : List PByte) : State :=
  (List.range (wordsOf a bs.length)).foldl
    (fun s i => let r := partOfWord a bs.length i 0; s.storeWord r.addr ((bs.drop r.pos).take r.len)) s

/-- Plain bytes with clear marks. -/
def clean (bs : List Byte) : List PByte := bs.map (fun b => (b, false))

/-! ### Channels and pseudo-channels (R336, R337, R356) -/

/-- State of a channel's controller. -/
def State.chan (s : State) (q : Nat) : Chan := Tab.get s.chans Chan.reset q

/-- Change a channel's controller. -/
def State.updChan (s : State) (q : Nat) (f : Chan → Chan) : State := { s with chans := Tab.put s.chans q (f (s.chan q)) }

/-- HMC_STAT.STATE and LEVEL. -/
def State.chanState (s : State) (q : Nat) : Nat := s.fld (rHmcStat q) 63 60
def State.level (s : State) (q : Nat) : Nat := s.fld (rHmcStat q) 59 58

/-- A channel is up and serves requests; a faulty one answers them without the stack (R345, R346). -/
def State.serves (s : State) (q : Nat) : Bool := s.chanState q == 2 || s.chanState q == 5

/-- A pseudo-channel of a channel. -/
def State.pseudo (s : State) (q pc : Nat) : Pseudo := Tab.get (s.chan q).pcs Pseudo.reset pc

/-- Words of a batch (R337): HMC_CTRL.BATCH as it stood when the direction last changed (R552). -/
def State.batchOf (s : State) (q : Nat) (p : Pseudo) : Nat := if p.batch = 0 then s.fld (rHmcCtrl q) 6 0 else p.limit

/-- Requests are queued to a row of a bank, which keeps it open (R337). -/
def State.rowQueued (s : State) (q pc bank row : Nat) : Bool :=
  s.fab.any (fun r => !r.served && !r.flags && (s.homeOf r.addr).any (fun h => h.chan == q && h.pc == pc && h.bank == bank && h.row == row))

/-- One access to a 64-byte word of stacked memory, by any requester (R337, R356): the words of HMC_RDW or HMC_WRW, a turn-round where the direction changes, a conflict where another row of the bank is open, and the batch. -/
def State.countAccess (s : State) (a : Nat) (wr : Bool) : State :=
  match s.homeOf a with
  | none => s
  | some h =>
    let q := h.chan
    if s.chanState q = 5 then s
    else
      let p := s.pseudo q h.pc
      let turn := !p.rows.isEmpty && p.wr != wr
      let conf := match Tab.find p.rows h.bank with
        | some r => r != h.row && s.rowQueued q h.pc h.bank r
        | none => false
      let n := if p.wr != wr || decide (s.batchOf q p ≤ p.batch) then 1 else p.batch + 1
      let s := if wr then s.addFld (rHmcWrw q) 63 0 1 else s.addFld (rHmcRdw q) 63 0 1
      let s := (s.addFld (rHmcTurn q) 63 0 (bit turn)).addFld (rHmcConf q) 63 0 (bit conf)
      s.updChan q (fun c => { c with pcs := Tab.put c.pcs h.pc ⟨wr, n, if p.wr = wr then s.batchOf q p else s.fld (rHmcCtrl q) 6 0, Tab.put p.rows h.bank h.row⟩ })

end Sys2Proof.Machine
end

