-- ==== Sys2Proof/Machine/Tally.lean ====
section
/-! DEFINITION. Descriptors and shards (11 R363, R369 to R372), the epochs of the channels, and the tally units (R66 to R69, R350, R370, R406) with the staging entries that their additions free (R396, R397). -/

namespace Sys2Proof.Machine

/-! ### Descriptors and shards (R363, R369 to R372) -/

/-- Type code of the WIRE format: 0 FP32, 1 BF16, 2 FP16. -/
def Desc.wireCode (d : Desc) : Nat := if d.wire = 2 then 0 else d.wire + 1

/-- Type code of the result format. -/
def Desc.resultCode (d : Desc) : Nat := if d.rfmt = 1 then d.wireCode else 0

/-- Elements of one block of a type (R371). -/
def perBlock (code : Nat) : Nat := if code = 0 then 1024 else 2048

/-- Spans of a tally area (R371). -/
def Desc.spans (d : Desc) : Nat := ceilDiv d.elems 2048

/-- Elements of the block that starts at `f`. -/
def Desc.blockLen (d : Desc) (code f : Nat) : Nat := min (perBlock code) (d.elems - f)

/-- First elements of every block of a span. -/
def Desc.spanBlocks (d : Desc) (code sp : Nat) : List Nat :=
  (if code = 0 then [2048 * sp, 2048 * sp + 1024] else [2048 * sp]).filter (fun f => decide (f < d.elems))

/-- The spans of the `i`-th of `h` holders (R372): first, and one past the last. -/
def shardOf (ns h i : Nat) : Nat × Nat := (i * ns / h, (i + 1) * ns / h)

/-- First elements of the blocks of a rank's shard. -/
def Desc.shardBlocks (d : Desc) (code : Nat) (adm : List Nat) (rank : Nat) : List Nat :=
  if adm.contains rank then
    let r := shardOf d.spans adm.length (adm.idxOf rank)
    (List.range (r.2 - r.1)).flatMap (fun i => d.spanBlocks code (r.1 + i))
  else []

/-- A rank holds a shard: some span of the tally area is its own. -/
def Desc.holds (d : Desc) (adm : List Nat) (rank : Nat) : Bool := !(d.shardBlocks 1 adm rank).isEmpty

/-- The rank that holds an element (R372). -/
def Desc.holderOf (d : Desc) (adm : List Nat) (elem : Nat) : Option Nat :=
  adm.find? (fun r =>
    let x := shardOf d.spans adm.length (adm.idxOf r)
    decide (x.1 ≤ elem / 2048 ∧ elem / 2048 < x.2))

/-! ### Epochs -/

/-- An epoch of a channel. -/
def State.epoch (s : State) (ch : Nat) : Option Epoch := Tab.find s.epochs ch

/-- Set an epoch. -/
def State.putEpoch (s : State) (e : Epoch) : State := { s with epochs := Tab.put s.epochs e.name.rch e }

/-- Change the epoch of a channel. -/
def State.updEpoch (s : State) (ch : Nat) (f : Epoch → Epoch) : State :=
  match s.epoch ch with
  | some e => s.putEpoch (f e)
  | none => s

/-- Change the holder's part of a channel's epoch. -/
def State.updHolder (s : State) (ch : Nat) (f : HolderSide → HolderSide) : State :=
  s.updEpoch ch (fun e => { e with holder := f e.holder })

/-- This device holds a shard in an epoch (R403). -/
def Epoch.holds (e : Epoch) : Bool := e.admitted.any (fun l => e.desc.holds l e.rank)

/-! ### Additions (R66 to R69, R370, R373, R394) -/

/-- What an addition leaves: the element's sum and companion, whether a NaN arose that no operand was, whether the sum is long. -/
structure Tallied where
  sum : PWord
  comp : PWord
  nan : Bool
  long : Bool
  deriving DecidableEq, Repr

/-- The `n`-th contribution of an epoch to an element with sum `s` and companion `c` (R66, R68): the first starts both from +0 (R370). -/
def tallyAdd (n : Nat) (comp : Bool) (s c x : PWord) : Tallied :=
  let s : PWord := if n = 1 then (0, false) else s
  let c : PWord := if n = 1 then (0, false) else c
  let t := twoSum s.1 x.1
  let k := add32 c.1 t.2.1
  let arose := fun (f : Fl) => f &&& Fl.nanGen != 0
  { sum := (t.1, s.2 || x.2)
    comp := (k.1, s.2 || x.2 || c.2)
    nan := arose t.2.2 || (comp && arose k.2)
    long := (decide (4096 < n) && !comp) || decide (2 ^ 20 < n) }

/-- The sixteen FP32 elements of a 64-byte word, and back. -/
def pwords (bs : List PByte) : List PWord :=
  (List.range 16).map (fun i => let w := (bs.drop (4 * i)).take 4; (BitVec.ofNat 32 (ofLe (w.map (·.1))), w.any (·.2)))
def pbytes (ws : List PWord) : List PByte := ws.flatMap (fun w => (toLe 4 w.1.toNat).map (fun v => (v, w.2)))

/-- A batch's additions as the unit finds them: the staged words, widened (R51), added to the elements of its tally word. -/
def State.addsOf (s : State) (e : Epoch) (b : Batch) : List Tallied :=
  let none' : PWord := (0, false)
  let xs := elemsOf e.desc.wireCode b.len (s.loadBytes b.src (packedLen e.desc.wireCode b.len))
  let old := pwords (s.loadWord b.addr 64)
  let comp := match b.comp with
    | some c => pwords (s.loadWord c 64)
    | none => []
  xs.zipIdx.map (fun x =>
    tallyAdd (Tab.get e.holder.counts 0 ((b.addr - e.desc.tally) / 4 + x.2) + 1) b.comp.isSome (old.getD x.2 none') (comp.getD x.2 none') x.1)

/-- Write elements over the first ones of a word: one read and one write of it (R336, R350). -/
def State.putWord (s : State) (a : Nat) (ws : List PWord) : State :=
  let old := pwords (s.loadWord a 64)
  ((s.countAccess a false).countAccess a true).storeWord a (pbytes (ws ++ old.drop ws.length))

/-- A tally unit applies a batch (R350): the tally word and the companion word are read once and written once; TAL_ADDS, TAL_STAT and the epoch's status follow. -/
def State.tallyBatch (s : State) (b : Batch) : State :=
  match s.epoch b.rch with
  | none => s
  | some e =>
    let rs := s.addsOf e b
    let nan := rs.any (·.nan)
    let long := rs.any (·.long)
    let s := if b.src % 64 = 0 then s.countAccess b.src false else s
    let s := (s.putWord b.addr (rs.map Tallied.sum)).addFld (rTalAdds b.chan) 63 0 rs.length
    let s := match b.comp with
      | some c => s.putWord c (rs.map Tallied.comp)
      | none => s
    let s := if nan then s.setFld (rTalStat b.chan) 32 32 1 else s
    let s := if long then s.setFld (rTalStat b.chan) 33 33 1 else s
    let at' := (b.addr - e.desc.tally) / 4
    s.updHolder b.rch (fun h => { h with
      counts := (List.range rs.length).foldl (fun t i => Tab.upd t 0 (at' + i) (fun n => min (n + 1) (2 ^ 20))) h.counts
      longSum := h.longSum || long
      sumNan := h.sumNan || nan })

/-- A mode change waits no longer once the unit has no addition pending (R406). -/
def State.applyTalMode (s : State) (q : Nat) : State :=
  match Tab.find s.talPend q with
  | some m =>
    if s.tally.any (fun b => b.chan == q) then s
    else (({ s with talPend := Tab.del s.talPend q } : State).setFld (rTalCtrl q) 1 0 m).setFld (rTalStat q) 63 63 0
  | none => s

/-! ### Staging entries (R396, R397, R405) -/

/-- Staging entries in use, over every epoch (R405). -/
def State.countStage (s : State) : State :=
  let n := sumOf (s.epochs.map (fun (e : Nat × Epoch) => e.2.holder.staged.length))
  (s.setFld rRstage 63 46 n).maxFld rRstage 45 28 n

/-- The lowest entry of a partition's staging region that no block takes. DEDUCED (log 30). -/
def State.freeEntry (s : State) (p : Nat) : Nat :=
  let used := (s.epochs.filter (fun e => e.2.part == p)).flatMap (fun e => e.2.holder.staged.map (·.entry))
  ((List.range (used.length + 1)).find? (fun i => !used.contains i)).getD 0

/-- First DPA of an entry of a partition's staging region. -/
def State.entryAt (s : State) (p i : Nat) : Nat := (s.part p).stageBase + 4096 * i

/-- A block that no batch is left of has been added, and frees its entry (R397). -/
def State.freeBlock (s : State) (ch rank first : Nat) : State :=
  if s.tally.any (fun b => b.rch == ch && b.rank == rank && b.first == first) then s
  else (s.updHolder ch (fun h => { h with staged := h.staged.filter (fun b => !(b.fed && b.rank == rank && b.first == first)) })).countStage

/-- The holder's duty is over: what it has not fed to the tally units is discarded. -/
def State.dropHolder (s : State) (ch : Nat) : State :=
  (s.updHolder ch (fun h => { h with staged := h.staged.filter (·.fed), ended := true })).countStage

/-- A channel's tally unit takes a batch off its queue: a faulty channel acknowledges and discards the accumulate (R346). -/
def State.takeBatch (s : State) (b : Batch) : State :=
  let s : State := { s with tally := s.tally.erase b }
  let s := if s.chanFaulty b.chan then s else s.tallyBatch b
  (s.freeBlock b.rch b.rank b.first).applyTalMode b.chan

/-- The additions of a reduction channel that still wait are made, before its epoch closes here (R336, R374). DEDUCED (log 29). -/
def State.finishAdds (s : State) (ch : Nat) : State := (s.tally.filter (fun b => b.rch == ch)).foldl State.takeBatch s

end Sys2Proof.Machine
end

