-- ==== Sys2Proof/Machine/Sha.lean ====
section
/-! DEFINITION. SHA-256 (FIPS 180-4) and HMAC-SHA-256 (FIPS 198-1), which the manual names as standards (04 R167, 11 R369, 12 R415, 14 R489, R497). The round constants are the standard's, PRESUMED (log 11). -/

namespace Sys2Proof.Machine

/-- The round constants, eight to a row of 256 bits. -/
def shaRows : List Nat :=
  [0x428A2F9871374491B5C0FBCFE9B5DBA53956C25B59F111F1923F82A4AB1C5ED5,
   0xD807AA9812835B01243185BE550C7DC372BE5D7480DEB1FE9BDC06A7C19BF174,
   0xE49B69C1EFBE47860FC19DC6240CA1CC2DE92C6F4A7484AA5CB0A9DC76F988DA,
   0x983E5152A831C66DB00327C8BF597FC7C6E00BF3D5A7914706CA635114292967,
   0x27B70A852E1B21384D2C6DFC53380D13650A7354766A0ABB81C2C92E92722C85,
   0xA2BFE8A1A81A664BC24B8B70C76C51A3D192E819D6990624F40E3585106AA070,
   0x19A4C1161E376C082748774C34B0BCB5391C0CB34ED8AA4A5B9CCA4F682E6FF3,
   0x748F82EE78A5636F84C878148CC7020890BEFFFAA4506CEBBEF9A3F7C67178F2]

/-- The words of a row, its most significant first. -/
def shaRow (r : Nat) : List Word32 := (List.range 8).map (fun i => BitVec.ofNat 32 (r >>> (224 - 32 * i)))

/-- The working variables of a round. -/
structure ShaV where
  a : Word32
  b : Word32
  c : Word32
  d : Word32
  e : Word32
  f : Word32
  g : Word32
  h : Word32
  deriving DecidableEq, Repr

/-- The initial hash value, as a row. -/
def shaInit : ShaV :=
  let w := fun (i : Nat) => BitVec.ofNat 32 (0x6A09E667BB67AE853C6EF372A54FF53A510E527F9B05688C1F83D9AB5BE0CD19 >>> (224 - 32 * i))
  ⟨w 0, w 1, w 2, w 3, w 4, w 5, w 6, w 7⟩

/-- One round. -/
def shaRound (v : ShaV) (kw : Word32 × Word32) : ShaV :=
  let s1 := v.e.rotateRight 6 ^^^ v.e.rotateRight 11 ^^^ v.e.rotateRight 25
  let ch := (v.e &&& v.f) ^^^ (~~~v.e &&& v.g)
  let t1 := v.h + s1 + ch + kw.1 + kw.2
  let s0 := v.a.rotateRight 2 ^^^ v.a.rotateRight 13 ^^^ v.a.rotateRight 22
  let mj := (v.a &&& v.b) ^^^ (v.a &&& v.c) ^^^ (v.b &&& v.c)
  ⟨t1 + (s0 + mj), v.a, v.b, v.c, v.d + t1, v.e, v.f, v.g⟩

/-- The message schedule, newest word first, grown by `n` words. -/
def shaGrow : Nat → List Word32 → List Word32
  | 0, l => l
  | n + 1, l =>
    let w15 := l.getD 14 0
    let w2 := l.getD 1 0
    let s0 := w15.rotateRight 7 ^^^ w15.rotateRight 18 ^^^ (w15 >>> 3)
    let s1 := w2.rotateRight 17 ^^^ w2.rotateRight 19 ^^^ (w2 >>> 10)
    shaGrow n ((l.getD 15 0 + s0 + l.getD 6 0 + s1) :: l)

/-- A big-endian word of four bytes. -/
def beWord (l : List Byte) : Word32 := l.foldl (fun w b => w <<< 8 ||| b.setWidth 32) 0

/-- The words of a 64-byte block. -/
def shaWords (blk : List Byte) : List Word32 := (List.range 16).map (fun i => beWord ((blk.drop (4 * i)).take 4))

/-- One block. -/
def shaBlock (v : ShaV) (blk : List Byte) : ShaV :=
  let w := (shaGrow 48 (shaWords blk).reverse).reverse
  let r := ((shaRows.flatMap shaRow).zip w).foldl shaRound v
  ⟨v.a + r.a, v.b + r.b, v.c + r.c, v.d + r.d, v.e + r.e, v.f + r.f, v.g + r.g, v.h + r.h⟩

/-- Big-endian bytes of a number. -/
def toBe (n v : Nat) : List Byte := (List.range n).map (fun i => BitVec.ofNat 8 (v / 256 ^ (n - 1 - i)))

/-- The padded message. -/
def shaPad (m : List Byte) : List Byte :=
  let z := (119 - m.length % 64) % 64
  m ++ [0x80] ++ List.replicate z 0 ++ toBe 8 (8 * m.length)

/-- SHA-256 of a byte string: 32 bytes. PRESUMED (log 11). -/
def sha256 (m : List Byte) : List Byte :=
  let p := shaPad m
  let v := (List.range (p.length / 64)).foldl (fun v i => shaBlock v ((p.drop (64 * i)).take 64)) shaInit
  [v.a, v.b, v.c, v.d, v.e, v.f, v.g, v.h].flatMap (fun w => toBe 4 w.toNat)

/-- A 256-bit value as 32 bytes, first byte most significant. -/
def keyBytes (k : Word256) : List Byte := toBe 32 k.toNat

/-- A 256-bit value of 32 bytes. -/
def keyOfBytes (l : List Byte) : Word256 := BitVec.ofNat 256 (l.foldl (fun n b => n * 256 + b.toNat) 0)

/-- HMAC-SHA-256 under a key of at most 64 bytes. PRESUMED (log 11). -/
def hmac (key m : List Byte) : List Byte :=
  let k := key ++ List.replicate (64 - key.length) 0
  sha256 (k.map (· ^^^ 0x5C) ++ sha256 (k.map (· ^^^ 0x36) ++ m))

/-- ASCII bytes of a label. -/
def ascii (s : String) : List Byte := s.toList.map (fun c => BitVec.ofNat 8 c.toNat)

end Sys2Proof.Machine
end

