-- ==== Sys2Proof/Machine/Wire.lean ====
section
/-! DEFINITION. What goes out on the wire (12 R413 to R415, R420, R421, R427, R428, R438, R439; 13 R474): type codes, type headers and data areas of every message the device sends, the Nalmiwin header with its CRCs, the tag, and the UDP datagram. -/

namespace Sys2Proof.Machine

/-! ### Messages (R427, R428, R438, R439, R474) -/

/-- TYPE of a message (R427, R439). -/
def Msg.type (m : Msg) : Nat :=
  match m with
  | .opening _ => 0x01
  | .opened _ _ => 0x02
  | .reply _ _ _ _ _ => 0x1F
  | .telemetry _ _ _ _ => 0x20
  | .termination _ _ _ => 0x21
  | .cairnData _ _ => 0x30
  | .cairnCtl _ _ => 0x31
  | .roll _ _ _ _ => 0x40
  | .answer _ _ _ _ => 0x41
  | .roster _ _ _ _ => 0x42
  | .contrib _ _ _ _ => 0x43
  | .rack _ _ _ _ _ _ _ => 0x44
  | .done _ _ _ _ => 0x45
  | .admitRanks _ _ _ _ => 0x46
  | .late _ _ _ => 0x47
  | .close _ _ _ _ => 0x48
  | .result _ _ _ _ _ _ _ _ => 0x49
  | .abandon _ _ => 0x4A
  | .lost _ _ => 0x4B

/-- A reduction message (R427). -/
def Msg.reduction (m : Msg) : Bool := decide (0x40 ≤ m.type)

/-- The epoch name at the head of a reduction message (R439). -/
def nameBytes (n : EpName) : List Byte := toLe 1 n.group ++ toLe 1 n.rch ++ toLe 1 n.ord ++ toLe 1 0 ++ toLe 4 n.step

/-- A bitmap of ranks (R439): rank r is bit r mod 8 of byte r div 8. -/
def rankBitmap (g : Nat) (l : List Nat) : List Byte :=
  (List.range (ceilDiv g 8)).map (fun i => BitVec.ofNat 8 (sumOf ((List.range 8).map (fun j => if l.contains (8 * i + j) then 2 ^ j else 0))))

/-- NAN and POISON as FLAGS of RACK and DONE. -/
def nanPoison (nan poison : Bool) : Nat := bit nan + 2 * bit poison

/-- The type header of a message (R420, R428, R438, R439, R474). That of TERMINATION is the model's: the partition, HUB_TERM's word, the time. DESIGN CHOICE (log 6). -/
def Msg.typeHeader (m : Msg) : List Byte :=
  match m with
  | .opening _ => []
  | .opened _ _ => []
  | .reply req st ls poison _ => toLe 4 req ++ toLe 2 st ++ toLe 1 (nanPoison ls poison) ++ toLe 1 0
  | .telemetry src p step _ => toLe 1 src ++ toLe 1 p ++ toLe 2 0 ++ toLe 4 step
  | .termination p w ns => toLe 8 p ++ toLe 8 w.toNat ++ toLe 8 ns
  | .cairnData off _ => toLe 8 off
  | .cairnCtl op b => toLe 1 op ++ toLe 1 b.status ++ toLe 1 b.part ++ toLe 1 b.slot ++ toLe 4 b.step ++ toLe 8 b.length ++ toLe 8 b.digest
  | .roll n d t rt => nameBytes n ++ toLe 8 d ++ toLe 8 t ++ toLe 8 rt
  | .answer n d v r => nameBytes n ++ toLe 8 d ++ toLe 1 v ++ toLe 3 0 ++ toLe 4 r
  | .roster n t lis adm => nameBytes n ++ toLe 8 t ++ toLe 1 (bit lis) ++ toLe 3 0 ++ toLe 4 adm.length
  | .contrib n r f _ => nameBytes n ++ toLe 4 r ++ toLe 4 0 ++ toLe 8 f
  | .rack n r st a p c f => nameBytes n ++ toLe 4 r ++ toLe 1 st ++ toLe 1 (nanPoison a p) ++ toLe 2 c ++ toLe 8 f
  | .done n r a p => nameBytes n ++ toLe 4 r ++ toLe 1 (nanPoison a p) ++ toLe 3 0
  | .admitRanks n t u _ => nameBytes n ++ toLe 8 t ++ toLe 4 (u.getD 0xFFFFFFFF) ++ toLe 4 0
  | .late n r d => nameBytes n ++ toLe 4 r ++ toLe 4 d
  | .close n o _ _ => nameBytes n ++ toLe 1 o ++ toLe 7 0
  | .result n r l a p rf f _ => nameBytes n ++ toLe 4 r ++ toLe 1 (bit l + 2 * bit a + 4 * bit p) ++ toLe 1 rf ++ toLe 2 0 ++ toLe 8 f
  | .abandon n r => nameBytes n ++ toLe 1 r ++ toLe 7 0
  | .lost n r => nameBytes n ++ toLe 4 r ++ toLe 4 0

/-- The data area of a message, `g` the size of its group. -/
def Msg.data (g : Nat) (m : Msg) : List Byte :=
  match m with
  | .reply _ _ _ _ d => d
  | .telemetry _ _ _ d => d
  | .cairnData _ d => d
  | .roster _ _ _ adm => rankBitmap g adm
  | .contrib _ _ _ d => d.map (·.1)
  | .admitRanks _ _ _ x => rankBitmap g x
  | .close _ _ r inc => r ++ rankBitmap g inc
  | .result _ _ _ _ _ _ _ d => d.map (·.1)
  | _ => []

/-! ### The packet (R414, R415, R420, R421) -/

/-- TYPE, type header and data area of a packet that the device sends; none of other output. -/
def Out.body (o : Out) : Option (Nat × List Byte × List Byte × Envelope) :=
  match o with
  | .packet _ _ _ _ _ _ _ m e => some (m.type, m.typeHeader, m.data e.group, e)
  | .openConn _ _ cls mine ver icred e => some (0x01, toLe 1 ver ++ toLe 1 cls ++ toLe 2 0 ++ toLe 4 mine ++ toLe 4 icred ++ toLe 4 0, [], e)
  | .openAck _ _ _ _ st mine ver icred e => some (0x02, toLe 1 st ++ toLe 1 ver ++ toLe 2 0 ++ toLe 4 mine ++ toLe 4 icred ++ toLe 4 0, [], e)
  | .ack _ _ bitmap _ e => some (0x03, [], toLe 8 bitmap, e)
  | _ => none

/-- The 48-byte header (R414). -/
def headerOf (id type : Nat) (th data : List Byte) (e : Envelope) : List Byte :=
  let pcrc := if th ++ data = [] then 0 else (crc32c (th ++ data)).toNat
  let h := toLe 1 e.ver ++ toLe 1 type ++ toLe 1 e.flags ++ toLe 1 e.keyId ++ toLe 2 data.length ++ toLe 1 th.length ++ toLe 1 0 ++ toLe 8 id ++
    toLe 4 e.conn ++ toLe 4 e.seq ++ toLe 4 e.ackSeq ++ toLe 4 e.credit ++ toLe 8 e.pctr ++ toLe 4 pcrc
  h ++ toLe 4 (crc32c h).toNat

/-- A Nalmiwin packet of the device with identity `id` (R414, R415): header, type header, data area, and the first 16 bytes of the HMAC over them. -/
def Out.bytes (id : Nat) (o : Out) : List Byte :=
  match o.body with
  | some (ty, th, data, e) =>
    let b := headerOf id ty th data e ++ th ++ data
    b ++ (hmac (keyBytes e.key) b).take 16
  | none => []

/-! ### The datagram (R413) -/

/-- One's complement sum of big-endian 16-bit words. -/
def sum16 (l : List Byte) : Nat :=
  (List.range (ceilDiv l.length 2)).foldl
    (fun s i => let t := s + 256 * (l.getD (2 * i) 0).toNat + (l.getD (2 * i + 1) 0).toNat; t % 65536 + t / 65536) 0

/-- The UDP datagram (R413): ports, length, the checksum over the IPv6 pseudo-header, and the packet. -/
def Out.datagram (id : Nat) (o : Out) : List Byte :=
  match o.body with
  | some (_, _, _, e) =>
    let p := o.bytes id
    let n := p.length + 8
    let head := fun (ck : Nat) => toBe 2 e.sport ++ toBe 2 e.dport ++ toBe 2 n ++ toBe 2 ck
    let ck := 65535 - sum16 (toBe 16 e.src ++ toBe 16 e.dst ++ toBe 4 n ++ toBe 4 17 ++ head 0 ++ p)
    head (if ck = 0 then 65535 else ck) ++ p
  | none => []

end Sys2Proof.Machine
end

