-- ==== Sys2Proof/Machine/Send.lean ====
section
/-! DEFINITION. Sending: the device's identity and keys (14 R497, R498), connections' sending side (12 R412, R413, R421 to R426), telemetry and terminations (R438), and messages to ranks of a group (11 R358). -/

namespace Sys2Proof.Machine

/-! ### Identity (R497) -/

/-- The attestation public key, from the seed HMAC(UDS, "lx3-devid"). -/
def attestSeed : Word256 := keyOfBytes (hmac (keyBytes Config.uds) (ascii "lx3-devid"))

/-- The attestation public key. -/
def attestKey : List Byte := Config.slhPublic attestSeed

/-- The device identity: bytes 0 to 7 of the SHA-256 hash of the attestation public key. -/
def deviceId : Nat := fieldLe (sha256 attestKey) 0 8

/-- K_claim. PRESUMED (log 11). -/
def claimKey : Word256 := keyOfBytes (hmac (keyBytes Config.uds) (ascii "lx3-claim"))

/-- The key in a slot (R417, R498): an unclaimed device holds K_claim in slot 0. -/
def State.keySlot (s : State) (n : Nat) : Option Word256 :=
  match Tab.find s.flash.keys n with
  | some k => some k
  | none => if n = 0 ∧ !s.flash.claimed then some claimKey else none

/-! ### Sending on a connection (R421 to R426) -/

/-- Sequence numbers compare modulo 2^32: `a` is before `b`. -/
def seqBefore (a b : Nat) : Bool := decide ((b + 2 ^ 32 - a % 2 ^ 32) % 2 ^ 32 ≠ 0 ∧ (b + 2 ^ 32 - a % 2 ^ 32) % 2 ^ 32 < 2 ^ 31)

/-- The link is up (R410). -/
def State.linkUp (s : State) : Bool := decide (s.fld rEthStat 63 61 = 3 ∨ s.fld rEthStat 63 61 = 4)

/-- A connection may send another block: within CREDIT and the window (R424, R426). -/
def Conn.maySend (c : Conn) : Bool := !c.half && !seqBefore c.credit c.nextSeq && decide (c.sent.length < c.window)

/-- An IPv6 address of the module configuration, in network byte order. DEDUCED (log 50). -/
def addressAt (d : List Byte) (off : Nat) : Nat := (slice d off 16).foldl (fun n b => 256 * n + b.toNat) 0

/-- A link-local address. -/
def linkLocal (a : Nat) : Bool := decide (a / 2 ^ 118 = 0x3FA)

/-- Source address towards a destination: the global one where the device has one and the destination is not link-local (R412). DEDUCED (log 50). -/
def State.sourceFor (s : State) (dst : Nat) : Nat :=
  let g := addressAt s.flash.config 0
  if g = 0 ∨ linkLocal dst then 0xFE80 * 2 ^ 112 + deviceId else g

/-- The message's group, if it is a reduction message. -/
def Msg.group (m : Msg) : Option Nat :=
  match m with
  | .roll n _ _ _ => some n.group
  | .answer n _ _ _ => some n.group
  | .roster n _ _ _ => some n.group
  | .contrib n _ _ _ => some n.group
  | .rack n _ _ _ _ _ _ => some n.group
  | .done n _ _ _ => some n.group
  | .admitRanks n _ _ _ => some n.group
  | .late n _ _ => some n.group
  | .close n _ _ _ => some n.group
  | .result n _ _ _ _ _ _ _ => some n.group
  | .abandon n _ => some n.group
  | .lost n _ => some n.group
  | _ => none

/-- DSCP of a class (R413, R442): owner-key traffic, reduction messages, other peer traffic. -/
def State.dscpOf (s : State) (cls : Nat) (m : Option Msg) : Nat :=
  if cls = 0 then s.fld rNwtCtrl 19 14 else if m.any Msg.reduction then s.fld rNwtCtrl 13 8 else s.fld rNwtCtrl 7 2

/-- The bank that runs (R513). -/
def State.runBank (s : State) : Bank := if s.fld rBoot 59 59 = 1 then s.flash.bankB else s.flash.bankA

/-- The highest Nalmiwin version that the running firmware speaks (R489, R560): NWTVER of a programmed image, 0x02 for the shipped one. DESIGN CHOICE (log 9). -/
def State.nwtVersion (s : State) : Nat := if s.runBank.shipped then 2 else (Tab.get s.runBank.bytes 0xFF 12).toNat

/-- What a packet on a connection carries around its message (R411 to R415, R417): it goes by the router, but to a link-local address directly, with hop limit 64 and ECT(0), under the current key slot of its class. DEDUCED (log 50). -/
def State.envelope (s : State) (c : Conn) (seq pctr : Nat) (m : Option Msg) : Envelope where
  vlan := if s.fld rEthCtrl 60 60 = 1 then some (s.fld rEthCtrl 27 16, s.fld rEthCtrl 15 13) else none
  nextHop := if linkLocal c.addr then c.addr else addressAt s.flash.config 16
  src := s.sourceFor c.addr
  dst := c.addr
  hop := 64
  dscp := s.dscpOf c.cls m
  ecn := 2
  sport := 0xC000 + (Config.portHash deviceId c.id c.cls).toNat
  dport := s.fld rNwtCtrl 63 48
  ver := c.ver
  flags := bit c.echo
  keyId := 2 * c.cls
  key := (s.keySlot (2 * c.cls)).getD 0
  conn := c.theirs
  seq := seq
  ackSeq := c.rxNext
  credit := c.granted
  pctr := pctr
  group := ((m.bind Msg.group).bind (fun g => (Tab.find s.groups g).map Group.size)).getD 0

/-- The packet that carries a block of a connection (R414, R415); OPEN and OPENACK carry VER 0x01 (R560). -/
def State.packetOf (s : State) (c : Conn) (seq pctr : Nat) (m : Msg) : Out :=
  let e := s.envelope c seq pctr (some m)
  match m with
  | .opening icred => .openConn c.id c.addr c.cls c.mine c.ver icred { e with ver := 1 }
  | .opened st icred => .openAck c.id c.addr c.cls c.theirs st c.mine c.ver icred { e with ver := 1 }
  | m => .packet c.theirs c.id seq pctr c.rxNext c.granted c.echo m e

/-- Emit where the link is up: while it is down nothing leaves (R410). -/
def State.emitUp (s : State) (o : Out) : State := if s.linkUp then s.emit o else s

/-- Send one block on a connection: it takes the next SEQ and a packet counter, and carries the acknowledgement and credit (R421). While the link is down nothing leaves (R410). -/
def State.transmit (s : State) (c : Conn) (m : Msg) : State :=
  let c' := { c with
    nextSeq := (c.nextSeq + 1) % 2 ^ 32
    pctrOut := c.pctrOut + 1
    sent := c.sent ++ [⟨c.nextSeq, m, 0, false, s.fld rNwtCtrl 39 36⟩]
    since := 0
    echo := false
    last := s.now }
  let o := s.packetOf c c.nextSeq (c.pctrOut + 1) m
  ({ s with conns := Tab.put s.conns c.mine c' } : State).emitUp o

/-- Send the waiting messages of a connection while it may send. -/
def State.drainMsgs (s : State) (n : Nat) : List Msg → State
  | [] => s
  | m :: r =>
    match Tab.find s.conns n with
    | none => s
    | some c =>
      if s.linkUp && c.maySend then
        State.drainMsgs ((s.transmit { c with unsent := r } m)) n r
      else s

/-- Send what waits on a connection. -/
def State.drain (s : State) (n : Nat) : State :=
  match Tab.find s.conns n with
  | none => s
  | some c => s.drainMsgs n c.unsent

/-- A newer TERMINATION of a partition replaces an unsent older one (R438). -/
def replaces (m x : Msg) : Bool :=
  match m, x with
  | .termination p _ _, .termination q _ _ => p == q
  | _, _ => false

/-- A peer of version 0x01 is sent only what that version defines (R416). -/
def Conn.knows (c : Conn) (m : Msg) : Bool := c.ver != 1 || Config.oldDefines m.type

/-- Queue a message on a connection, and send it if it may go. DEDUCED (log 65). -/
def State.sendOn (s : State) (n : Nat) (m : Msg) : State :=
  match Tab.find s.conns n with
  | none => s
  | some c => if !c.knows m then s else ({ s with conns := Tab.put s.conns n { c with unsent := c.unsent.filter (fun x => !replaces m x) ++ [m] } }).drain n

/-- Half-open connections. DEDUCED (log 65). -/
def State.halfOpen (s : State) : Nat := (s.conns.filter (fun e => e.2.half)).length

/-- A new connection (R419, R420): `icred` blocks granted to the peer, `credit` the highest SEQ this side may send, `rx` the SEQ expected first. -/
def newConn (mine theirs id addr cls ver t icred credit window rx : Nat) : Conn :=
  ⟨mine, theirs, id, addr, cls, ver, true, t, t, 0, [], [], credit, max 1 window, rx, [], [], 0, (rx + icred + 2 ^ 32 - 1) % 2 ^ 32, 0, 0, [], false, 0, 0⟩

/-- Blocks that the transport has granted and not received, over every connection but one. -/
def State.grantedElse (s : State) (n : Nat) : Nat :=
  sumOf (s.conns.map (fun (e : Nat × Conn) => if e.1 = n then 0 else (e.2.granted + 1 + 2 ^ 32 - e.2.rxNext) % 2 ^ 32))

/-- Blocks that a new connection is granted first (R326, R424): no more than trackers can be set aside for. -/
def State.firstGrant (s : State) (n : Nat) : Nat := min n (992 - s.grantedElse 0)

/-- The collector's identity and address. DEDUCED (log 54). -/
def State.collector (s : State) : Nat × Nat := (s.reg rCollId, s.reg rCollH * 2 ^ 64 + s.reg rCollL)

/-- Count a dropped telemetry message in its source's counter (R276, R438, R513): of phase records, those of steps captured since the partition's load. DEDUCED (log 54). -/
def State.countDrop (s : State) (source part : Nat) : State :=
  match source with
  | 1 => if part < 8 ∧ s.fld (rPhaseStat part) 29 16 ≠ 0 then s.addFld (rPhaseStat part) 15 0 1 else s
  | 2 => s.addFld rTelstat 63 48 1
  | 3 => s.addFld rTelstat 47 32 1
  | 4 => s.addFld rTelstat 31 16 1
  | _ => s

/-- Messages that a connection will not send: telemetry counts as dropped, phase records once for each step (R275, R276, R438). DEDUCED (log 54). -/
def State.countLost (s : State) (l : List Msg) : State :=
  let steps := (l.filterMap (fun m => match m with
    | .telemetry 1 p st _ => some (p, st)
    | _ => none)).dedup
  let s := steps.foldl (fun s e => s.countDrop 1 e.1) s
  l.foldl (fun s m => match m with
    | .telemetry src p _ _ => if src = 1 then s else s.countDrop src p
    | _ => s) s

/-- A connection number picked at random and not used since reset (R419); 0 is kept for OPEN (R414). DESIGN CHOICE (log 10). -/
def State.freshConn (s : State) : Nat × State :=
  let (f, s) := s.fresh
  let n := ((List.range (s.connsUsed.length + 1)).map (fun j => 1 + (Config.connNumber f + j) % (2 ^ 32 - 1))).find? (fun x => !s.connsUsed.contains x)
  (n.getD 1, { s with connsUsed := n.getD 1 :: s.connsUsed })

/-- Send a message to a peer under a key class: on its connection, or on a new one that the device opens (R420, R422, R425). A full table loses the message, and telemetry counts as dropped. DEDUCED (log 65). -/
def State.sendTo (s : State) (cls id addr : Nat) (m : Msg) : State :=
  match s.conns.find? (fun e => e.2.id == id && e.2.cls == cls) with
  | some e => s.sendOn e.1 m
  | none =>
    if 65536 ≤ s.conns.length ∨ 4096 ≤ s.halfOpen then s.countLost [m]
    else
      let (mine, s) := s.freshConn
      let icred := s.fld rNwtCtrl 47 40
      s.transmit { newConn mine 0 id addr cls s.nwtVersion s.now (s.firstGrant icred) 0 icred 0 with unsent := [m] } (.opening icred)

/-- Terminations that a connection has not delivered (R438). -/
def Conn.terminations (c : Conn) : List Msg :=
  (c.sent.map Sent.msg ++ c.unsent).filter (fun m => match m with
    | .termination _ _ _ => true
    | _ => false)

/-- A connection closes or dies: its unsent and unacknowledged messages are discarded (R422), but for terminations, which are sent again on a new connection (R438); an assembly it owns is freed (R431), and an update or a write or fetch on the store that came over it ends. DEDUCED (log 65). -/
def State.closeConn (s : State) (n : Nat) : State :=
  match Tab.find s.conns n with
  | none => s
  | some c =>
    let s : State := { s with
      conns := Tab.del s.conns n
      assembly := match s.assembly with
        | some a => if a.conn = n then none else some a
        | none => none
      update := s.update.filter (fun u => u.conn != n)
      storeOp := s.storeOp.filter (fun o => o.conn != n) }
    let owner := s.collector
    c.terminations.foldl (fun s m => if owner.1 = 0 then s else s.sendTo 0 owner.1 owner.2 m) (s.countLost c.unsent)

/-! ### Telemetry and terminations (R438) -/

/-- Send telemetry to the collector; with no collector it is dropped. DEDUCED (log 54). -/
def State.telemetry (s : State) (source part step : Nat) (data : List Byte) : State :=
  let c := s.collector
  if c.1 = 0 then s.countDrop source part else s.sendTo 0 c.1 c.2 (.telemetry source part step data)

/-- Send a termination to the collector; it is kept until acknowledged. DEDUCED (log 54). -/
def State.sendTermination (s : State) (p : Nat) (w : Nat) : State :=
  let c := s.collector
  if c.1 = 0 then s else s.sendTo 0 c.1 c.2 (.termination p (BitVec.ofNat 64 w) s.now)

/-- Phase telemetry of a partition that its connection has not accepted (R275). -/
def isPhase (p : Nat) (m : Msg) : Bool :=
  match m with
  | .telemetry 1 q _ _ => q == p
  | _ => false

/-- Records of a partition are still being exported. -/
def State.phasePend (s : State) (p : Nat) : Bool := s.conns.any (fun e => e.2.unsent.any (isPhase p))

/-- Drop the rest of an export that the transport has not accepted (R275, R276, R438). -/
def State.dropPhase (s : State) (p : Nat) : State :=
  if s.phasePend p then
    ({ s with conns := s.conns.map (fun (e : Nat × Conn) => (e.1, { e.2 with unsent := e.2.unsent.filter (fun m => !isPhase p m) })) }).countDrop 1 p
  else s

/-! ### Replies to owner requests (R427 to R429) -/

/-- Status codes (R429). -/
def stOk : Nat := 0x0000
def stBusy : Nat := 0xF001
def stRange : Nat := 0xF002
def stNoProgram : Nat := 0xF003
def stBadStepBlock : Nat := 0xF004
def stWrongStep : Nat := 0xF005
def stNoTime : Nat := 0xF006
def stBadRequest : Nat := 0xF007
def stGroupLimit : Nat := 0xF008

/-- The reply kept for an owner's REQID is the reply sent (R427). DEDUCED (log 64). -/
def keepReply (owner req : Nat) (m : Msg) (l : List Kept) : List Kept :=
  l.map (fun k => if k.owner = owner ∧ k.req = req then { k with reply := some m } else k)

/-- Send a reply and keep it (R427, R428). -/
def State.answer (s : State) (a : Asker) (status : Nat) (late poison : Bool) (data : List Byte) : State :=
  let m := Msg.reply a.req status late poison data
  ({ s with kept := keepReply a.owner a.req m s.kept }).sendOn a.conn m

/-- A reply with a status alone. -/
def State.say (s : State) (a : Asker) (status : Nat) : State := s.answer a status false false []

/-- A START or STEP that still waits when its program ends is answered NO_PROGRAM (R432, DEDUCED). DEDUCED (log 26). -/
def State.dropCmd (s : State) (p : Nat) : State :=
  match (s.part p).cmd with
  | some c => (s.updPart p (fun x => { x with cmd := none })).say c.ask stNoProgram
  | none => s

/-! ### Phase records (R273 to R276) -/

/-- The 32 bytes of a core's record of one phase. -/
def State.phaseRecord (s : State) (p c k pid : Nat) (f : Phase) (partly : Bool) : List Byte :=
  let fl := bit f.started + 2 * bit f.ended + 4 * bit f.a + 8 * bit f.x + 16 * bit partly + 32 * bit (f.count == 2 ^ 32 - 1)
  toLe 1 c ++ toLe 1 pid ++ toLe 1 fl ++ toLe 1 p ++ toLe 4 (s.part p).step ++ toLe 4 f.count ++ toLe 4 0 ++
    toLe 8 (if f.started then s.reg (rPhs k pid) else 0) ++ toLe 8 (if f.ended then s.reg (rPhe k pid) else 0)

/-- Every record with an edge, in core and phase order. -/
def State.phaseRecords (s : State) (p : Nat) (partly : Bool) : List (List Byte) :=
  (s.part p).cores.flatMap (fun c =>
    match s.phys c with
    | some k => (s.core k).phases.map (fun e => s.phaseRecord p c k e.1 e.2 partly)
    | none => [])

/-- Capture and export the records of the step in progress (R275): what the last export left is dropped first; records go 128 to a message. DEDUCED (log 54). -/
def State.exportPhases (s : State) (p : Nat) (partly : Bool) : State :=
  let rs := s.phaseRecords p partly
  let s := s.dropPhase p
  let s := (s.setFld (rPhaseStat p) 63 32 (s.part p).step).setFld (rPhaseStat p) 29 16 rs.length
  let step := (s.part p).step
  if (s.collector).1 = 0 then (if rs.isEmpty then s else s.countDrop 1 p)
  else
    (List.range (ceilDiv rs.length 128)).foldl
      (fun s i => s.telemetry 1 p step ((rs.drop (128 * i)).take 128).flatten) s

/-- Forget the phase edges of a partition's cores and clear CORE_PHSn and CORE_PHEn (R274). -/
def State.clearPhases (s : State) (p : Nat) : State :=
  (s.part p).cores.foldl (fun s c =>
    match s.phys c with
    | some k => (s.updCore k (fun x => { x with phases := [] })).clearRegs (rPhs k 0) (rPhe k 64)
    | none => s) s

/-! ### Groups and epochs (R358 to R360, R375, R439) -/

/-- A group's table; none where it has none. -/
def State.group (s : State) (g : Nat) : Option Group := Tab.find s.groups g

/-- Identity and address of a rank. DEDUCED (log 65). -/
def State.rankId (s : State) (g r : Nat) : Option (Nat × Nat) := (s.group g).bind (fun t => Tab.find t.ids r)

/-- Send a reduction message to a rank; one for this device's own rank takes the transport's local path (R382). -/
def State.toRank (s : State) (g r : Nat) (m : Msg) : State :=
  match s.group g, s.rankId g r with
  | some t, some (id, addr) => if r = t.rank then { s with localQ := s.localQ ++ [m] } else s.sendTo 1 id addr m
  | _, _ => s

/-- Send one copy to each rank of a list (R425). -/
def State.toRanks (s : State) (g : Nat) (rs : List Nat) (m : Msg) : State := rs.foldl (fun s r => s.toRank g r m) s

/-- This device's rank in a group. -/
def State.myRank (s : State) (g : Nat) : Nat := ((s.group g).map Group.rank).getD 0

/-- An epoch of the group is open here, or a host part of one (R359). -/
def State.groupBusy (s : State) (g : Nat) : Bool :=
  s.epochs.any (fun e => e.2.name.group == g && (!e.2.closed || e.2.host.any (fun h => h.outcome.isNone)))

/-- A deferred group table takes effect once no epoch of the group is open (R359). DEDUCED (log 51). -/
def State.applyGroup (s : State) (g : Nat) : State :=
  match Tab.find s.groupPend g with
  | some t => if s.groupBusy g then s else { s with groups := Tab.put s.groups g t, groupPend := Tab.del s.groupPend g }
  | none => s

/-- An epoch closes on this device with an outcome (R388, R390, R403): its waiting additions are made first, LOUT is kept, and a deferred group table may apply. -/
def State.closeEpoch (s : State) (ch outcome : Nat) : State :=
  match s.epoch ch with
  | none => s
  | some e =>
    if e.closed then s
    else
      let s := (s.finishAdds ch).updEpoch ch (fun e => { e with closed := true, outcome := some outcome })
      (s.setFld (rRchStat ch) 59 56 outcome).applyGroup e.name.group

/-- An epoch is over on this device without an outcome: its program has ended. -/
def State.shutEpoch (s : State) (ch : Nat) : State :=
  match s.epoch ch with
  | none => s
  | some e => (s.putEpoch { e with closed := true }).applyGroup e.name.group

/-- The members and listeners of a hosted epoch; before the roll call closes, the ranks that have answered. -/
def HostSide.audience (h : HostSide) : List Nat := if h.rollClosed then h.adm ++ h.lis else h.answers.map (·.1)

/-- The host abandons an epoch (R400): ABANDON to every member and listener, this device's own parts among them; it closes here. -/
def State.abandonEpoch (s : State) (ch reason : Nat) : State :=
  match s.epoch ch with
  | none => s
  | some e =>
    match e.host with
    | some h =>
      if h.outcome.isSome then s
      else
        let s := s.putEpoch { e with host := some { h with outcome := some 2, closeAt := s.now, admitHeld := false } }
        ((((s.toRanks e.name.group (h.audience.filter (fun r => r != e.rank)) (.abandon e.name reason)).dropHolder ch).closeEpoch ch 2)).applyGroup e.name.group
    | none => s

/-- Abandon every epoch that a partition hosts, or every hosted epoch. DEDUCED (log 67). -/
def State.abandonAll (s : State) (p : Option Nat) (reason : Nat) : State :=
  s.epochs.foldl (fun t e => if p.all (fun x => x == e.2.part) then t.abandonEpoch e.1 reason else t) s

/-- A holder's duty in an epoch is not done (R400): it has a shard, and its part is not over or additions of the channel still wait. -/
def State.duty (s : State) (e : Epoch) : Bool := e.holds && (!e.holder.ended || s.tally.any (fun b => b.rch == e.name.rch))

end Sys2Proof.Machine
end

