-- ==== Sys2Proof/Machine/Ops.lean ====
section
/-! DEFINITION. The shared operations over the whole state: running a command, memory keys, terminating a program (05 R127, R223, 16 R549), poisoned stores (13 R446), and completing instructions (04 R147). -/

namespace Sys2Proof.Machine

/-! ### Unit history events (R451, R453, R454) -/

/-- Event kinds (R453). -/
def evCe : Nat := 1
def evUe : Nat := 2
def evTestFail : Nat := 3
def evTestPass : Nat := 4
def evDirect : Nat := 5

/-- UNITIDs (R451). -/
def unitCore (k : Nat) : Nat := 0x1000 + k
def unitArray (k n : Nat) : Nat := 0x2000 + 8 * k + n
def unitSlice (n : Nat) : Nat := 0x3000 + n
def unitChan (q : Nat) : Nat := 0x4000 + q
def unitLink (d n : Nat) : Nat := 0x5000 + 4 * d + n
def unitRouter (n : Nat) : Nat := 0x6000 + n
def unitLane (n : Nat) : Nat := 0x7000 + n

/-- Second of a unit-history event (R452, R453): cluster time once it has locked since reset, before that the time last recorded when the hub booted, plus the uptime; second 0 is recorded as 1. -/
def State.eventSecond (s : State) : Nat :=
  let t := s.now / 1000000000
  max 1 (if s.fld rPtpStat 61 61 = 1 then t else s.power.histBase + t)

/-- An event falls due for unit history (R453), with its DETAIL. DEDUCED (log 55). -/
def State.unitEvent (s : State) (unit kind detail : Nat) : State :=
  { s with events := s.events ++ [⟨unit, kind, s.eventSecond, detail⟩] }

/-- Groups in error met while queues of a core are read (R444, R454): each is an event of the core, and an uncorrectable one marks both of its words. -/
def State.meetErrs (s : State) (k : Nat) (es : List QErr) : State :=
  (es.foldl (fun s e => s.unitEvent (unitCore k) (if e.fixed then evCe else evUe) 0) s).setCore k ((s.core k).queueErrs es)

/-- The DETAIL of an event at a location, zero where its source reports none (R453). DEDUCED (log 55). -/
def detailOf (l : List Nat) : Nat := if l.isEmpty then 0 else (Config.detail l).toNat

/-! ### Poisoned stores (R446, R447, R485) -/

/-- The marked 4-byte words among bytes written at `a`. DEDUCED (log 44). -/
def badWords (a : Nat) (bs : List PByte) : Nat := (markWords a bs []).length

/-- Count `n` poisoned stores of partition `p` by an instruction of a logical core; the first of the step keeps its location. DEDUCED (log 44). -/
def State.poisonStore (s : State) (p n c : Nat) (st : Strm) (pc : Nat) : State :=
  if n = 0 then s
  else
    let r := rPoison p
    let s := s.addFld r 63 48 n
    if s.fld r 47 47 = 1 then s
    else (((s.setFld r 47 47 1).setFld r 46 46 (bit (st == .x))).setFld r 42 36 c).setFld r 11 0 pc

/-! ### Completing an instruction (R147) -/

/-- An instruction of a core by its id. -/
def Core.op (c : Core) (i : Nat) : Option Op := c.ops.find? (fun o => o.id == i)

/-- Replace an instruction's progress. -/
def Core.setOp (c : Core) (o : Op) : Core := { c with ops := c.ops.map (fun x => if x.id = o.id then o else x) }

/-- The instruction has completed: it leaves the core, its remaining claims are released, and its completion add falls due. -/
def Core.finish (c : Core) (o : Op) : Core :=
  { c with
    ops := c.ops.filter (fun x => x.id != o.id)
    comps := if o.cf.cfe then c.comps ++ [⟨o.cf.cfn, o.st, o.pc⟩] else c.comps }

/-! ### The arbiter mode of each die (R300) -/

/-- The die of a unit (R15, R451). -/
def unitDie (u : Nat) : Nat :=
  let i := u % 4096
  match u / 4096 with
  | 1 => i / 34
  | 2 => i / 8 / 34
  | 3 => i / 128
  | 4 => i / 64
  | 5 => i / 4
  | _ => if i < 136 then i / 34 else (i - 136) / 4

/-- A march runs on a slice of a die. -/
def State.marching (s : State) (d : Nat) : Bool :=
  s.regs.any (fun e => decide (slcB + 0x80000 * d ≤ e.1 ∧ e.1 < slcB + 0x80000 * (d + 1)) && decide ((e.1 - slcB) % 0x1000 = 0x18) &&
    decide (bits e.2.toNat 63 60 = 1 ∨ bits e.2.toNat 63 60 = 2))

/-- The channel that retrains, if any (R345). -/
def State.retraining (s : State) : Option Nat :=
  (s.regs.find? (fun e => decide (hmcB ≤ e.1 ∧ e.1 < hmcB + 0x100000) && decide ((e.1 - hmcB) % 0x1000 = 0x8) && bits e.2.toNat 63 60 == 3)).map
    (fun e => (e.1 - hmcB) / 0x1000)

/-- FAB_ARB_CTRL.MODE of a die: CREDIT until the first program starts, while a test or march runs on the die, and while a restore or a retraining is in progress. -/
def State.arbMode (s : State) (d : Nat) : Nat :=
  bit (!s.started || s.runs.any (fun r => unitDie r.unit == d) || s.marching d || s.restore.isSome || s.retraining.isSome)

/-- Report the mode of every die. -/
def State.setArb (s : State) : State := (List.range 4).foldl (fun s d => s.setFld (rArbCtrl d) 63 62 (s.arbMode d)) s

/-! ### Terminating a program (R127, R223, R224, R549) -/

/-- What a termination reports as its location. -/
inductive Loc where
  | none
  | core (c : Nat)
  | at (c : Nat) (st : Strm) (pc : Nat)
  deriving DecidableEq, Repr

/-- The word of HUB_TERMp (R224). -/
def termWord (code step : Nat) (l : Loc) : Nat :=
  let base := code * 2 ^ 56 + 2 ^ 55 + step
  match l with
  | .none => base + 2 ^ 53
  | .core c => base + 2 ^ 52 + c * 2 ^ 44
  | .at c st pc => base + bit (st == .x) * 2 ^ 54 + c * 2 ^ 44 + pc * 2 ^ 32

/-- A stream stopped by a termination. -/
def Stream.kill (t : Stream) : Stream := { t with state := 5, stall := 0, obj := 0, hold := none, entry := none, slotw := false, link := [] }

/-- An array whose accumulators are left undefined (R549): unlisted sets read free values of `tag`. -/
def Arr.kill (a : Arr) (tag : Nat) : Arr :=
  { a with ports := [], sets := [], pushes := [], bufs := [], amode := none, undef := some tag }

/-- A core whose program has ended by termination (R127, R549): streams stopped, queues discarded, instructions gone, spreads, accumulators and scalars undefined. `tag` and the numbers after it are free. DESIGN CHOICE (log 5). -/
def Core.kill (c : Core) (tag : Nat) : Core :=
  { c with
    a := c.a.kill
    x := c.x.kill
    queues := c.queues.map (fun e => (e.1, { e.2 with head := 0, bytes := [], poison := [] }))
    ops := []
    comps := []
    bursts := []
    arrays := (List.range 8).map (fun i => (i, (Tab.get c.arrays Arr.reset i).kill tag))
    spreads := (List.range 8).map (fun i => (i, { Spread.reset with undef := some (tag + 1) }))
    scalars := (List.range 16).map (fun i => (i, (Config.freeWord (tag + 2 + i), false))) }

/-- Free numbers one core's termination uses. -/
def killTags : Nat := 18

/-- Void counts of a core's PFETCHes that no guard latch has bound (R192, R311, R549). -/
def Core.unbound (c : Core) : Nat := (c.ops.filter (fun o => o.bound == .waiting)).length

/-- Stop one logical core of a terminated program. -/
def State.killCore (s : State) (c : Nat) : State :=
  match s.phys c with
  | none => s
  | some k =>
    let s := s.addFld (rMevt c) 31 0 (s.core k).unbound
    { (s.updCore k (fun x => x.kill s.free)) with free := s.free + killTags }

/-- SLC_POT of a slice: the bank words in which each core has served and unapplied contributions (R298, R313). DEDUCED (log 19). -/
def State.countPot (s : State) (a : Nat) : State :=
  if stackDpa ≤ a then s
  else
    let n := ((s.fab.filter (fun r => r.kind == .pot && r.served && !r.left.isEmpty && decide (r.addr < hamperDpa) && sliceOf r.addr == sliceOf a)).map
      (fun r => (r.core, r.addr / 64))).dedup.length
    (s.setFld (rSlcPot (sliceOf a)) 11 0 n).maxFld (rSlcPot (sliceOf a)) 27 16 n

/-- Discard a partition's open potluck rounds (R298): contributions leave their words, their requests have nothing left to wait for, and SLC_POT counts them no more. -/
def State.dropRounds (s : State) (p : Nat) : State :=
  let gone := (s.pot.filter (fun e => e.2.part == p)).flatMap (fun e => e.2.contribs.map Contrib.req)
  let slices := (s.fab.filter (fun r => gone.contains r.id && decide (r.addr < hamperDpa))).map (fun r => r.addr)
  let s : State := { s with
    pot := s.pot.filter (fun e => e.2.part != p)
    fab := s.fab.map (fun r => if gone.contains r.id then { r with left := [] } else r) }
  slices.foldl State.countPot s

/-- A termination message of partition `p` made at `now` carries word `w`. -/
def Msg.recode (p now w : Nat) (m : Msg) : Msg :=
  match m with
  | .termination q t n => if q = p ∧ n = now then .termination q (BitVec.ofNat 64 w) n else .termination q t n
  | m => m

/-- A second cause of an end in the same ECLK whose code is lower is the one reported, in HUB_TERMp and in the message (R225). DEDUCED (log 26). -/
def State.recode (s : State) (p code : Nat) (l : Loc) : State :=
  let q := s.part p
  if q.st = .ending ∧ q.endedAt = some s.clock.eclk ∧ code < s.fld (rTerm p) 63 56 then
    let w := termWord code q.step l
    let f := Msg.recode p s.now w
    { s.setReg (rTerm p) w with
      conns := s.conns.map (fun (e : Nat × Conn) =>
        (e.1, { e.2 with unsent := e.2.unsent.map f, sent := e.2.sent.map (fun x => { x with msg := f x.msg }) }))
      outbox := s.outbox.map (fun x =>
        match x with
        | .packet c r n t a k e m v => .packet c r n t a k e (f m) v
        | x => x) }
  else s

/-- Terminate the live program of partition `p` (R127, R223): HUB_TERMp and the termination message, the phase records of the step in progress (R275), streams stopped, work in flight as R549 says, its hosted epochs abandoned (R400), its pending command answered NO_PROGRAM. At a closed step there is no step in progress to export. A cause that arises after the end is not reported (R225). A restore that it ends leaves the dies' arbiters to R300. DEDUCED (log 26). DEDUCED (log 67). -/
def State.terminate (s : State) (p code : Nat) (l : Loc) : State :=
  let q := s.part p
  if q.live then
    let w := termWord code q.step l
    let s := s.setReg (rTerm p) w
    let s := if q.st = .running then s.exportPhases p true else s
    let s := q.cores.foldl State.killCore s
    let s := ((s.dropRounds p).abandonAll (some p) (if code = 0x0A then 1 else 0)).updPart p (fun x => { x with st := .ending, endedAt := some s.clock.eclk })
    let s := match s.restore with
      | some r => if r.part = p then (({ s with restore := none } : State).setFld rCstat 63 60 7).setArb else s
      | none => s
    (s.sendTermination p w).dropCmd p
  else s.recode p code l

/-- Terminate the program that holds a logical core, at an instruction. -/
def State.abort (s : State) (c code : Nat) (st : Strm) (pc : Nat) : State :=
  match s.partOf c with
  | some p => s.terminate p code (.at c st pc)
  | none => s

/-- Termination codes (R223). -/
def tEnded : Nat := 0x00
def tAddressFault : Nat := 0x01
def tCountBound : Nat := 0x02
def tPoison : Nat := 0x03
def tFlagOverflow : Nat := 0x04
def tStall : Nat := 0x05
def tStepWrap : Nat := 0x06
def tRemoteTimeout : Nat := 0x07
def tVersion : Nat := 0x08
def tCairn : Nat := 0x09
def tKill : Nat := 0x0A
def tFenced : Nat := 0x0B
def tHwFault : Nat := 0x0C
def tReset : Nat := 0x0D
def tShutdown : Nat := 0x0E

/-- What the adds of ECLK `t` have added to a flag (R182). -/
def Core.added (x : Core) (n t : Nat) : Nat :=
  match Tab.find x.adds n with
  | some e => if e.1 = t then e.2 else 0
  | none => 0

/-- An add to a counting flag of physical core `k`, made by an instruction of logical core `c`: past 2^32 − 1 the program ends with FLAG_OVERFLOW, at this instruction as the last of the adds of its ECLK, and none of these takes effect (R148, R182). -/
def State.addFlag (s : State) (k n amount c : Nat) (st : Strm) (pc : Nat) : State :=
  let x := s.core k
  let t := s.clock.eclk
  let sum := x.added n t
  if x.flagOverflows n amount then (s.setCore k (x.setFlag n (x.flag n - sum))).abort c tFlagOverflow st pc
  else s.setCore k { x.setFlag n (x.flag n + amount) with adds := Tab.put x.adds n (t, sum + amount) }

/-! ### Running a command -/

/-- A meaning's form: a command whose operands are well formed has its effect; any other is refused. DESIGN CHOICE (log 14). DESIGN CHOICE (log 62). -/
def guardWf (ok : Bool) (s : State) (f : State → State) : Host.Outcome State Fault Refusal :=
  if ok then .next (f s) else .refused .reservedOperand

end Sys2Proof.Machine
end

