-- ==== Sys2Proof/Machine/Issue.lean ====
section
/-! DEFINITION. Issuing an instruction: the conditions of 04 R125, the claims of R136 to R140, the trackers of 09 R323, the ports of 03 R565, and the record an issued instruction leaves. -/

namespace Sys2Proof.Machine

/-! ### Shapes of the transfers (05 R185 to R196) -/

/-- Source and destination bytes of a transfer body (R187, R188). -/
def xferSrc (c : Core) (b : XferB) : List Seg :=
  match c.agAddr b.f0 with
  | some (_, a) => rowsOf a (signed 20 b.sstr * 64) b.rbytes (b.rows + 1)
  | none => []

/-- Destination rows of a transfer body. -/
def xferDst (c : Core) (b : XferB) : List Seg :=
  match c.agAddr b.f1 with
  | some (_, a) => rowsOf a (signed 20 b.dstr * 64) b.rbytes (b.rows + 1)
  | none => []

/-- Bytes of one element row of a spread tile (R193). -/
def tileRow (b : SloadB) : Nat := packedLen b.type (32 * (b.tc + 1))

/-- Element bytes of a spread tile. -/
def tileBytes (b : SloadB) : Nat := 32 * (b.tr + 1) * tileRow b

/-- Element rows, then scale rows or groups, of a spread load (R194). -/
def sloadSrc (c : Core) (b : SloadB) : List Seg :=
  let el := match c.agAddr b.sag with
    | some (_, a) => rowsOf a (signed 20 b.sstr * 8) (tileRow b) (32 * (b.tr + 1))
    | none => []
  let sc := match c.agAddr b.kag with
    | some (_, a) =>
      if isMx b.type then
        (if b.bax = 0 then rowsOf a (signed 20 b.kstr) (b.tc + 1) (32 * (b.tr + 1))
         else rowsOf a (signed 20 b.kstr) (32 * (b.tc + 1)) (b.tr + 1))
      else []
    | none => []
  el ++ sc

/-- Source bytes of an issuing instruction. -/
def srcOf (c : Core) (i : Ovt) : List Seg :=
  match i with
  | .cload _ ag _ => (match c.agAddr ag with | some (_, a) => [⟨some a, 4⟩] | none => [])
  | .move _ b => xferSrc c b
  | .qload _ b => xferSrc c b
  | .pfetch _ b => xferSrc c b
  | .sload _ b => sloadSrc c b
  | .racc _ b => (match c.agAddr b.sag with | some (_, a) => [⟨some a, b.elems * (widthOf b.srct / 8)⟩] | none => [])
  | _ => []

/-- Destination bytes of an issuing instruction. -/
def dstOf (c : Core) (i : Ovt) : List Seg :=
  match i with
  | .move _ b => xferDst c b
  | .qstore _ b => xferDst c b
  | .pfetch _ b => xferDst c b
  | .rwait _ _ dag _ => (match c.agAddr dag with | some (_, a) => [⟨some a, 64⟩] | none => [])
  | _ => []

/-! ### Claims (04 R136 to R140) -/

/-- The region of a generator. -/
def agClaim (c : Core) (ag : Nat) (m : CMode) : List Claim :=
  match (c.ag ag).region with
  | some r => [⟨r, m⟩]
  | none => []

/-- WRITE, or ACC for a potluck add (R189). -/
def dstMode (pot : Bool) : CMode := if pot then .acc else .write

/-- The region of a spread bank (R134). -/
def bankRegion (pair bank : Nat) : Nat := 248 + 2 * pair + bank

/-- The claims of an instruction (R176): the sources first. -/
def claimsOf (c : Core) (i : Ovt) : List Claim :=
  match i with
  | .cload _ ag _ => agClaim c ag .read
  | .move _ b => agClaim c b.f0 .read ++ agClaim c b.f1 (dstMode b.pot)
  | .qload _ b => agClaim c b.f0 .read
  | .qstore _ b => agClaim c b.f1 (dstMode b.pot)
  | .sload _ b =>
    agClaim c b.sag .read ++ (if isMx b.type then agClaim c b.kag .read else []) ++ [⟨bankRegion b.pair b.bank, .write⟩]
  | .gather _ b => agClaim c b.sag .read
  | .pfetch _ b => agClaim c b.f0 .read ++ agClaim c b.f1 .write
  | .racc _ b => agClaim c b.sag .read ++ [⟨b.treg, .acc⟩]
  | .rwait _ _ dag _ => agClaim c dag .write
  | .ops _ b => if b.steps ≠ 0 ∧ (b.wsrc = 16 ∨ b.nsrc = 16) then [⟨bankRegion (b.arr / 2) b.sbank, .read⟩] else []
  | _ => []

/-- Two claims conflict (R137): the same region, unless both are READ or both are ACC. -/
def Claim.conflicts (a b : Claim) : Bool :=
  a.region == b.region && !((a.mode == .read && b.mode == .read) || (a.mode == .acc && b.mode == .acc))

/-- Every claim held on the core: those of issued instructions and those granted to instructions that still wait. DEDUCED (log 16). -/
def Core.held (c : Core) : List Claim :=
  c.ops.flatMap Op.claims ++ ((c.a.hold.map Hold.got).getD []) ++ ((c.x.hold.map Hold.got).getD [])

/-- Claims held by anything but the instruction that waits on stream `st`. -/
def Core.heldBut (c : Core) (st : Strm) : List Claim :=
  c.ops.flatMap Op.claims ++
    (match st with
     | .a => (c.x.hold.map Hold.got).getD []
     | .x => (c.a.hold.map Hold.got).getD [])

/-- The claims that the other stream requested before a request made by stream `st` in ECLK `t` and still waits for (R138): within one ECLK the A-stream's request counts as the earlier. -/
def Core.earlier (c : Core) (st : Strm) (t : Nat) : List Claim :=
  match st with
  | .a => (match c.x.hold with | some h => if h.t < t then h.want else [] | none => [])
  | .x => (match c.a.hold with | some h => if h.t ≤ t then h.want else [] | none => [])

/-- Claims that conflict with no held claim and with no earlier request that still waits (R138). DEDUCED (log 16). -/
def Core.free (c : Core) (st : Strm) (t : Nat) (l : List Claim) (held : List Claim) : Bool :=
  l.all (fun k => (held ++ c.earlier st t).all (fun h => !k.conflicts h))

/-! ### Latest-service times and trackers (09 R318 to R324) -/

/-- Trackers of a physical core held now (R322). -/
def State.trackers (s : State) (k : Nat) : Nat := (s.fab.filter (fun r => r.core == k)).length

/-- Trackers of a core held by requests without a time (R324). -/
def State.untimed (s : State) (k : Nat) : Nat := (s.fab.filter (fun r => r.core == k && r.stamp.isNone)).length

/-- The instruction makes fabric requests: some of its memory lies outside the core's own hamper (R315, R323), or it is a FADDR or a reduction transfer. -/
def fabricUser (c : Core) (i : Ovt) : Bool :=
  match i with
  | .faddr _ _ _ _ => true
  | .gather _ b => (match c.agAddr b.sag with | some (_, a) => !inHamper a | none => false)
  | _ => (srcOf c i ++ dstOf c i).any (fun s => match s.addr with | some a => !inHamper a | none => false)

/-! ### Ports (03 R565) -/

/-- An array of a core. -/
def Core.arr (c : Core) (n : Nat) : Arr := Tab.get c.arrays Arr.reset n

/-- Set an array of a core. -/
def Core.setArr (c : Core) (n : Nat) (a : Arr) : Core := { c with arrays := Tab.put c.arrays n a }

/-- Change an array of a core. -/
def Core.updArr (c : Core) (n : Nat) (f : Arr → Arr) : Core := c.setArr n (f (c.arr n))

/-- The operations of a port: port 0 step, 1 preload, 2 drain of a quadrant. -/
def Arr.port (a : Arr) (quad port : Nat) : List Nat := Tab.get a.ports [] (3 * quad + port)

/-- Set the operations of a port. -/
def Arr.setPort (a : Arr) (quad port : Nat) (l : List Nat) : Arr := { a with ports := Tab.put a.ports (3 * quad + port) l }

/-- A port accepts another operation: fewer than two, and no AMODE waits on the array (R565). -/
def Arr.room (a : Arr) (quad port : Nat) : Bool := decide ((a.port quad port).length < 2) && a.amode.isNone

/-- AMODE is accepted: no port of the array holds more than one operation. -/
def Arr.amodeRoom (a : Arr) : Bool := a.amode.isNone && a.ports.all (fun e => decide (e.2.length ≤ 1))

/-- The key of a set: sets of a quadrant in quadrant mode, of the array otherwise. -/
def setKey (quad set : Nat) : Nat := 4 * quad + set

/-- The port an array instruction takes (R565): array, quadrant, port. -/
def portOf (i : Ovt) : Option (Nat × Nat × Nat) :=
  match i with
  | .ops _ b => if b.steps = 0 then none else some (b.arr, b.quad, 0)
  | .preload _ b => some (b.arr, b.quad, 1)
  | .drain _ b => some (b.arr, b.quad, 2)
  | _ => none

/-- The instruction's port, or AMODE's array, has room. -/
def portRoom (c : Core) (i : Ovt) : Bool :=
  match i with
  | .amode _ b => (c.arr b.arr).amodeRoom
  | _ =>
    match portOf i with
    | some (a, q, p) => (c.arr a).room q p
    | none => true

/-- The arrays and quadrants of the linked group that starts at a stream's next instruction, as its table holds it (R208). -/
def groupArrs : List Word128 → List (Nat × Nat)
  | [] => []
  | w :: r =>
    match ovtOfWord w.toNat with
    | some (.ops _ b) => if b.link then (b.arr, b.quad) :: groupArrs r else [(b.arr, b.quad)]
    | _ => []

/-- The step port of every member of the linked group that starts here has room (R565). -/
def groupRoom (c : Core) (i : Ovt) : Bool :=
  match i with
  | .ops _ b =>
    if b.link ∧ c.x.link = [] then (groupArrs (c.x.table.drop c.x.pc)).all (fun e => (c.arr e.1).room e.2 0) else true
  | _ => true

/-! ### Queues that hold an instruction (04 R125, R130) -/

/-- Bytes that instructions already issued have yet to push to a queue (QLOAD and GATHER). DEDUCED (log 12). -/
def Core.owed (c : Core) (q : Nat) : Nat :=
  sumOf (c.ops.map (fun o =>
    match o.ins with
    | .qload _ b => if b.f1 = q then segBytes o.src - o.pushed else 0
    | .gather _ b => if b.qd = q then (b.nidx + 1) * b.rbytes - o.pushed else 0
    | _ => 0))

/-- A transfer already issued still pops from a queue (QSTORE and GATHER). DEDUCED (log 12). -/
def Core.popOpen (c : Core) (q : Nat) : Bool :=
  c.ops.any (fun o =>
    match o.ins with
    | .qstore _ b => b.f0 == q && decide (o.popped < segBytes o.dst)
    | .gather _ b => b.qi == q && decide (o.popped < 4 * (b.nidx + 1))
    | _ => false)

/-- The queue does not hold the unit of `n` bytes that a transfer would pop first. DEDUCED (log 12). -/
def Core.lacks (c : Core) (q n : Nat) : Bool := c.popOpen q || decide ((c.queue q).bytes.length < n)

/-- The queue has no room for the unit of `n` bytes that a transfer would push first. DEDUCED (log 12). -/
def Core.tight (c : Core) (q n : Nat) : Bool := decide ((c.queue q).free < c.owed q + n)

/-- A queue that holds a transfer from issuing, with its stall code (R125, R172; DEDUCED, log 12): 0x1 its first pop finds too few bytes, 0x2 its first push finds too little room. -/
def Core.queueHold (c : Core) (i : Ovt) : Option (Nat × Nat) :=
  match i with
  | .qload _ b => if c.tight b.f1 (((nthUnit (srcOf c i) 0 0).map Req.len).getD 0) then some (2, b.f1) else none
  | .qstore _ b => if c.lacks b.f0 (((nthUnit (dstOf c i) 0 0).map Req.len).getD 0) then some (1, b.f0) else none
  | .gather _ b => if c.lacks b.qi 4 then some (1, b.qi) else if c.tight b.qd (min 64 b.rbytes) then some (2, b.qd) else none
  | _ => none

/-! ### The record of an issued instruction -/

/-- The region an instruction names for its set (R94, R202): PRELOAD, or OPS with STEPS ≠ 0. -/
def namesRegion (i : Ovt) : Option (Nat × Nat × Nat × Nat) :=
  match i with
  | .ops _ b => if b.steps = 0 then none else some (b.arr, setKey b.quad b.set, b.m + 1, b.n + 1)
  | .preload _ b => some (b.arr, setKey b.quad b.set, b.m + 1, b.n + 1)
  | _ => none

/-- The record of an instruction that issues now on a core (R186, R210: generators and descriptors are read at issue). -/
def mkOp (s : State) (c : Core) (st : Strm) (step : Nat) (i : Ovt) (cl : List Claim) : Op where
  id := c.next
  st := st
  pc := (c.stream st).pc
  cf := ovtCf i
  ins := i
  issued := s.clock.eclk
  step := step
  bound := match i with
    | .pfetch _ _ => .waiting
    | _ => .sure
  claims := cl
  src := srcOf c i
  dst := dstOf c i
  rsent := 0
  rland := 0
  wsent := 0
  wdone := 0
  landed := []
  popped := 0
  pushed := 0
  cnt := 0
  group := []
  desc := match i with
    | .drain _ b => Tab.find c.dds b.dd
    | _ => none
  region := match i with
    | .drain _ b => Tab.get (c.arr b.arr).named (0, 0) (setKey b.quad b.set)
    | .preload _ b => (b.m + 1, b.n + 1)
    | .ops _ b => (b.m + 1, b.n + 1)
    | .gather _ b => (((c.ag b.sag).region.bind c.region).getD (0, 0))
    | .sload _ b => (((c.ag b.sag).region).getD 0, ((c.ag b.kag).region).getD 0)
    | _ => (0, 0)
  row0 := match i with
    | .drain _ b => 16 * (b.orgR + (c.stream st).idx b.rdep * b.rinc)
    | .rx _ _ =>
      (match c.rebase with
       | some (d, sd, eb) => (((eb : Int) + ((c.stream st).idx d : Int) * signed 32 sd) % 2 ^ 48).toNat
       | none => 0)
    | .repoch _ r _ _ => Tab.get c.ords 0 r
    | .racc _ b => Tab.get c.ords 0 b.rch - 1
    | .rwait _ r _ _ => Tab.get c.ords 0 r - 1
    | _ => 0
  col0 := match i with
    | .drain _ b => 16 * (b.orgC + (c.stream st).idx b.cdep * b.cinc)
    | .gather _ b => ((c.agAddr b.sag).map (·.2)).getD 0
    | _ => 0
  scal := []
  acc := none
  rch := match i with
    | .repoch _ r _ _ => r
    | .racc _ b => b.rch
    | .rwait _ r _ _ => r
    | _ => 0
  res := []
  snap := none

/-- Enter an operation on its port and name its set's region. -/
def Core.enterPort (c : Core) (i : Ovt) (id : Nat) : Core :=
  let c := match portOf i with
    | some (a, q, p) => c.updArr a (fun x => x.setPort q p (x.port q p ++ [id]))
    | none => c
  let c := match i with
    | .amode _ b => c.updArr b.arr (fun x => { x with amode := some id })
    | _ => c
  match namesRegion i with
  | some (a, k, m, n) => c.updArr a (fun x => { x with named := Tab.put x.named k (m, n) })
  | none => c

/-- A linked group closes at its member with LINK = 0 (R208): every member learns the group's ids. -/
def Core.linkGroup (c : Core) (i : Ovt) (id : Nat) : Core :=
  match i with
  | .ops _ b =>
    if b.steps = 0 then c
    else
      let g := c.x.link ++ [id]
      if b.link then { c with x := { c.x with link := g } }
      else { c with x := { c.x with link := [] }, ops := c.ops.map (fun o => if g.contains o.id then { o with group := g } else o) }
  | _ => c

/-- A CLOAD takes its place among the writes of its slot (R156). -/
def Core.queueWrite (c : Core) (i : Ovt) (id : Nat) : Core :=
  match i with
  | .cload _ _ slot =>
    let v := Tab.get c.slots Slot.reset slot
    { c with slots := Tab.put c.slots slot { v with writes := v.writes ++ [⟨some id, none⟩] } }
  | _ => c

/-- The instruction issues: its record, its port, its stream goes on (R125). An OPS with STEPS = 0 completes at once and touches nothing (R207). -/
def State.issueOp (s : State) (k : Nat) (st : Strm) (step : Nat) (i : Ovt) (cl : List Claim) : State :=
  let c := s.core k
  let o := mkOp s c st step i cl
  let c := { c with next := c.next + 1, ops := c.ops ++ [o] }
  let c := ((c.enterPort i o.id).linkGroup i o.id).queueWrite i o.id
  let c := c.updStream st Stream.advance
  let c := match i with
    | .ops _ b => if b.steps = 0 then c.finish o else c
    | .repoch _ r _ _ => { c with ords := Tab.upd c.ords 0 r (· + 1) }
    | _ => c
  s.setCore k c

/-- A stream may issue: it runs, and no earlier instruction of it waits for a claim, a slot value or a slot write, nor is it at a BOUNDARY (R125, R160). -/
def Stream.ready (t : Stream) : Bool :=
  (t.state == 2 || t.state == 3) && t.stall != 8 && t.hold.isNone && t.entry.isNone && !t.slotw

/-- The instruction that a stream issues next: that of its table at its index (R125). -/
def Stream.next (t : Stream) : Option Ovt := (t.table[t.pc]?).bind (fun w => ovtOfWord w.toNat)

/-- The running partition and the physical core of a logical core whose stream may issue and has instruction `i` next (R125). DESIGN CHOICE (log 15). -/
def State.issuer (s : State) (c : Nat) (st : Strm) (i : Ovt) : Option (Nat × Nat) :=
  match s.partOf c, s.phys c with
  | some p, some k =>
    let t := (s.core k).stream st
    if (s.part p).st == .running && t.ready && t.next == some i then some (p, k) else none
  | _, _ => none

/-- Stall a stream of a core. -/
def State.stall (s : State) (k : Nat) (st : Strm) (why obj : Nat) : State :=
  s.updCore k (fun c => c.updStream st (fun t => t.stop why obj))

/-- Issue an instruction that runs on (R125, R138, R140, R323, R565): a queue that holds it stalls with 0x1 or 0x2, a full port or no free tracker with 0x9; in a full scoreboard its claims wait with 0x7, a conflicting claim with 0x3; the claims that do not conflict are granted, the rest wait for CLAIM_GRANT. DESIGN CHOICE (log 15). DEDUCED (log 16). -/
def State.request (s : State) (c : Nat) (st : Strm) (i : Ovt) : State :=
  match s.issuer c st i with
  | none => s
  | some (p, k) =>
    let x := s.core k
    let t := s.clock.eclk
    let want := claimsOf x i
    match x.queueHold i with
    | some (why, q) => s.stall k st why q
    | none =>
    if !(portRoom x i && groupRoom x i) then s.stall k st 9 0
    else if fabricUser x i && decide (1536 ≤ s.trackers k) then s.stall k st 9 0
    else if 64 < x.held.length + want.length then
      s.updCore k (fun x => x.updStream st (fun u => { u.stop 7 0 with hold := some ⟨t, i, [], want⟩ }))
    else
      let free := want.filter (fun w => x.free st t [w] x.held)
      let wait := want.filter (fun w => !x.free st t [w] x.held)
      match wait with
      | [] => s.issueOp k st (s.part p).step i want
      | w :: _ =>
        s.updCore k (fun x => x.updStream st (fun u => { u.stop 3 w.region with hold := some ⟨t, i, free, wait⟩ }))

/-- A control instruction (class K, R177): its effect on the core, then the stream goes on. DESIGN CHOICE (log 15). -/
def State.control (s : State) (c : Nat) (st : Strm) (i : Ovt) (f : Core → Core) : State :=
  match s.issuer c st i with
  | none => s
  | some (_, k) => s.updCore k (fun x => (f x).updStream st Stream.advance)

end Sys2Proof.Machine
end

