-- ==== Sys2Proof/WellFormed.lean ====
section
/-! DEFINITION. Which commands are well formed: every operand fits its field and holds no value the manual reserves (00 R13, 05 R174 and the value rules of each body). A meaning refuses any other command. -/

namespace Sys2Proof

open Sys2Proof.Machine

/-- A completion field (R173): CFN is zero when CFE is 0. -/
def wfCf (cf : Cf) : Bool := decide (cf.cfn < 64) && (cf.cfe || cf.cfn == 0)

/-- A transfer body (R187): RBYTES is not 0 and a field the instruction does not use is zero. -/
def wfXfer (b : XferB) (useS useD usePot useG : Bool) : Bool :=
  b.rbytes != 0 && (useS || b.sstr == 0) && (useD || b.dstr == 0) && (usePot || !b.pot) && (useG || b.gslot == 0)

/-- A spread tile (R112, R193). -/
def wfSload (b : SloadB) : Bool :=
  let mx := decide (3 ≤ b.type ∧ b.type ≤ 7)
  let bits := match b.type with
    | 0 => 32
    | 1 => 16
    | 2 => 16
    | 5 => 6
    | 6 => 6
    | 7 => 4
    | _ => 8
  let elems := 32 * (b.tr + 1) * (32 * (b.tc + 1))
  decide (b.type ≤ 7) && (mx || (b.kag == 0 && b.bax == 0)) && decide (elems * bits / 8 ≤ 32768) && (!mx || decide (elems / 32 ≤ 2048))

/-- An OPS body (R203, R204). -/
def wfOps (b : OpsB) : Bool :=
  let mx := fun c => decide (3 ≤ c ∧ c ≤ 7)
  (match rankOf b.ta b.tb with
   | some r => decide (b.ktail < r)
   | none => false) &&
  decide (b.wsrc ≤ 16) && decide (b.nsrc ≤ 16) &&
  ((mx b.ta && decide (b.wsrc < 16)) || b.wsq == 0) && ((mx b.tb && decide (b.nsrc < 16)) || b.nsq == 0) &&
  (b.ktail == 0 || !(mx b.ta || mx b.tb)) &&
  (b.wsrc == 16 || b.nsrc == 16 || (b.sbank == 0 && b.soff == 0 && b.sk == 0))

/-- A drain descriptor (R96 to R108, R209, R212). -/
def wfDesc (d : DescB) : Bool :=
  let mx := fun c => decide (3 ≤ c ∧ c ≤ 7)
  decide (d.act ≤ 7) && decide (d.dmode ≤ 2) && decide (d.topk ≤ 16) && decide (d.otype ≤ 7) && decide (d.stype ≤ 7) &&
  decide (d.rmode ≤ 2) && decide (d.srmode ≤ 2) && (mx d.otype || d.osq == 0) && (d.dmode != 0 || d.sq == 0) &&
  (d.dmode != 1 || (d.sbaxis == 0 && decide (d.stype ≤ 4))) && (d.topk != 0 || d.kq == 0)

/-- The operations that read a third source (R214, R216). -/
def ropReadsC (rop : Nat) : Bool := rop == 5

/-- The operations that read a second source. -/
def ropReadsB (rop : Nat) : Bool := decide (rop ∈ [2, 3, 4, 5, 6, 0x0E, 0x0F, 0x14, 0x15])

/-- An RX body (R213 to R217). -/
def wfRx (b : RxB) : Bool :=
  let mx := decide (3 ≤ b.td ∧ b.td ≤ 7)
  decide (1 ≤ b.rop) && decide (b.rop ≤ 0x15) && decide (b.ts ∈ [0, 1, 2, 8]) && decide (b.td ≤ 8) && decide (b.rmode ≤ 2) && b.len != 0 &&
  (ropReadsB b.rop || b.sb == 0) && (ropReadsC b.rop || mx || b.sc == 0) && (!mx || !ropReadsC b.rop) && (!mx || decide (b.sc < 16)) &&
  (decide (b.dst < 16) || b.rop == 0x10 || b.rop == 0x11 || (b.len == 1 && b.rop != 0x15)) &&
  (decide (b.rop ∉ [0x12, 0x13]) || b.td == 1) && (b.rop != 0x14 || (b.ts == 1 && b.td == 0)) &&
  (b.rop != 0x15 || (decide (b.len ≤ 16) && b.ts == 0 && b.td == 0 && decide (b.sa < 16) && decide (b.sb < 16)))

/-- The value rules of an instruction's body. -/
def wfBody (o : Ovt) : Bool :=
  match o with
  | .nop => true
  | .endS => true
  | .loop b => if b.csrc then b.imm == 0 else b.slot == 0
  | .endloop => true
  | .boundary => true
  | .phase _ _ => true
  | .fadd _ k => k != 0
  | .faddr _ _ _ k => k != 0
  | .fwait _ k => k != 0
  | .agbase _ r _ => decide (r ≤ 247)
  | .agstr _ _ _ _ _ => true
  | .cset _ _ => true
  | .cload _ _ _ => true
  | .move _ b => wfXfer b true true true false
  | .qload _ b => wfXfer b true false false false
  | .qstore _ b => wfXfer b false true true false
  | .sload _ b => wfSload b
  | .gather _ b => b.rbytes != 0
  | .pfetch _ b => wfXfer b true true false true
  | .repoch _ _ _ _ => true
  | .racc _ b => decide (b.wire ≤ 2) && decide (b.srct ≤ 2) && (b.rmode == 0 || b.rmode == 2) && decide (b.treg ≤ 247) && b.elems != 0
  | .rwait _ _ _ _ => true
  | .ops _ b => wfOps b
  | .amode _ b => if b.qm then (rankOf b.ta b.tb).isSome else b.ta == 0 && b.tb == 0
  | .preload _ b => decide (b.pt ≤ 2) && (b.pmode != 0 || (b.pt == 0 && b.pq == 0))
  | .ddesc _ d => wfDesc d
  | .drain _ b => decide (b.rdep ≤ 6) && decide (b.cdep ≤ 6)
  | .rx _ b => wfRx b
  | .rebase d _ _ => decide (d ≤ 6)
  | .qmove _ s d b => s != d && b != 0

/-- An Ovtuit instruction: every field fits its layout, the completion field and the values are as the body's rules say. -/
def wfOvt (o : Ovt) : Bool :=
  (match bodyLayout (ovtVals o).1 with
   | some l => fitsLayout l (ovtVals o).2
   | none => false) && wfCf (ovtCf o) && wfBody o

/-- A logical core. -/
def wfCore (c : Nat) : Bool := decide (c < 128)

/-- Uncorrectable groups name queues. -/
def wfErrs (l : List QErr) : Bool := l.all (fun e => decide (e.q < 16))

/-- A value of `n` bits. -/
def fits (n v : Nat) : Bool := decide (v < 2 ^ n)

/-- A packet's header fields fit (R414); HCRC, PCRC, the tag and the connection are checked by R416, not here. -/
def wfPkt (p : Pkt) : Bool :=
  fits 64 p.src && fits 32 p.conn && fits 8 p.ver && fits 8 p.keyId && fits 32 p.seq && fits 32 p.ackSeq && fits 32 p.credit &&
  fits 64 p.pctr && fits 128 p.addr && p.vid.all (fits 12)

/-- An owner request: a packet and its REQID (R427). -/
def wfReq (p : Pkt) (r : Nat) : Bool := wfPkt p && fits 32 r

/-- START and STEP fields fit (R428); values outside their limits are answered, not here. -/
def wfStep (b : StepB) : Bool :=
  fits 8 b.part && fits 32 b.exp && fits 64 b.instant && fits 64 b.sbdpa && decide (b.words.length ≤ 255)

/-- An epoch name fits (R439); one of a group or channel that does not exist meets R361 and R382, not this check. -/
def wfName (n : EpName) : Bool := fits 8 n.group && fits 8 n.rch && fits 8 n.ord && fits 32 n.step

/-- CAIRN_CTL fields fit (R474). -/
def wfCtl (b : CtlB) : Bool := fits 8 b.status && fits 8 b.part && fits 8 b.slot && fits 32 b.step && fits 64 b.length && fits 64 b.digest

/-- The answers of CAIRN_CTL hold a status that is not reserved and a slot that exists (R474). -/
def wfCtlAnswer (b : CtlB) : Bool := wfCtl b && decide (b.status ≤ 4) && decide (b.slot < 2)

/-- Ranks of a group (R358), ascending. -/
def wfRanks (l : List Nat) : Bool := l.all (fun r => decide (r < 32768)) && decide (l.Pairwise (· < ·))

/-- Groups of a 64-byte word (R280). -/
def wfGroups (l : List Nat) : Bool := l.all (fun g => decide (g < 8))

/-- A data area (R414). -/
def wfData (n : Nat) : Bool := decide (n ≤ 4096)

/-- A REG_WRITE of one register by a row of its own: the value fits. -/
def wfOwn (p : Pkt) (r v : Nat) : Bool := wfReq p r && fits 64 v

/-- A command is well formed. DESIGN CHOICE (log 62). -/
def Instr.wf (i : Instr) : Bool :=
  match i with
  | .nop c _ => wfCore c
  | .endStream c _ => wfCore c
  | .loop c _ b => wfCore c && wfOvt (.loop b)
  | .boundary c _ => wfCore c
  | .phase c _ e p => wfCore c && wfOvt (.phase e p)
  | .fadd c _ f k => wfCore c && wfOvt (.fadd f k)
  | .faddr c cf t f k => wfCore c && wfOvt (.faddr cf t f k)
  | .fwait c _ f k => wfCore c && wfOvt (.fwait f k)
  | .agbase c a r o => wfCore c && wfOvt (.agbase a r o)
  | .agstr c a g s0 s1 s2 => wfCore c && wfOvt (.agstr a g s0 s1 s2)
  | .cset c s v => wfCore c && wfOvt (.cset s v)
  | .cload c cf a s => wfCore c && wfOvt (.cload cf a s)
  | .move c cf b => wfCore c && wfOvt (.move cf b)
  | .qload c cf b => wfCore c && wfOvt (.qload cf b)
  | .qstore c cf b => wfCore c && wfOvt (.qstore cf b)
  | .sload c cf b => wfCore c && wfOvt (.sload cf b)
  | .gather c cf b => wfCore c && wfOvt (.gather cf b)
  | .pfetch c cf b => wfCore c && wfOvt (.pfetch cf b)
  | .repoch c cf r d n => wfCore c && wfOvt (.repoch cf r d n)
  | .racc c cf b => wfCore c && wfOvt (.racc cf b)
  | .rwait c cf r d t => wfCore c && wfOvt (.rwait cf r d t)
  | .ops c cf b => wfCore c && wfOvt (.ops cf b)
  | .amode c cf b => wfCore c && wfOvt (.amode cf b)
  | .preload c cf b => wfCore c && wfOvt (.preload cf b)
  | .ddesc c dd d => wfCore c && wfOvt (.ddesc dd d)
  | .drain c cf b => wfCore c && wfOvt (.drain cf b)
  | .rx c cf b => wfCore c && wfOvt (.rx cf b)
  | .rebase c d s e => wfCore c && wfOvt (.rebase d s e)
  | .qmove c cf s d b => wfCore c && wfOvt (.qmove cf s d b)
  | .modeChange c a => wfCore c && decide (a < 8)
  | .preloadRowWrite c a q e => wfCore c && decide (a < 8) && decide (q < 4) && wfErrs e
  | .drainRowRead c a q e => wfCore c && decide (a < 8) && decide (q < 4) && wfErrs e
  | .drainPush c a q => wfCore c && decide (a < 8) && decide (q < 16)
  | .topkPush c a q => wfCore c && decide (a < 8) && decide (q < 16)
  | .columnBlockEmit c a q => wfCore c && decide (a < 8) && decide (q < 16)
  | .rxGroup c e => wfCore c && wfErrs e
  | .claimGrant c _ r => wfCore c && decide (r < 256)
  | .completionFlagAdd c f => wfCore c && decide (f < 64)
  | .loopEntryLatch c _ => wfCore c
  | .countSlotWrite c s => wfCore c && decide (s < 16)
  | .queuePush c q => wfCore c && decide (q < 16)
  | .queuePop c q e => wfCore c && decide (q < 16) && wfErrs e
  | .requestSend c => wfCore c
  | .hamperAccess c _ _ => wfCore c
  | .arrayStepEntry c a q e _ _ => wfCore c && decide (a < 8) && decide (q < 4) && wfErrs e
  | .strollGapExpiry c a => wfCore c && decide (a < 8)
  | .rampStage c a => wfCore c && decide (a < 8)
  | .hwFault c => wfCore c
  | .streamStart p => decide (p < 8)
  | .stepClose p => decide (p < 8)
  | .stepOpen p => decide (p < 8)
  | .programEnd p => decide (p < 8)
  | .partitionRelease p => decide (p < 8)
  | .stallTimeout p => decide (p < 8)
  | .sliceRead _ ce ue => wfGroups ce && wfGroups ue
  | .sliceWrite _ => true
  | .sliceScrub n ce ue => decide (n < 512) && ce.all (fun g => decide (g < 256)) && ue.all (fun g => decide (g < 256))
  | .potluckContribution _ => true
  | .potluckRoundApply _ _ => true
  | .remoteFlagAdd _ => true
  | .readResponseLand _ => true
  | .writeAcknowledge _ => true
  | .bridgeBlockReceive d n q _ => decide (d < 4) && decide (n < 4) && fits 32 q
  | .bridgeNack d n q => decide (d < 4) && decide (n < 4) && fits 32 q
  | .bridgeAck d n q => decide (d < 4) && decide (n < 4) && fits 32 q
  | .linkRetrainEnd d n _ => decide (d < 4) && decide (n < 4)
  | .routerFailure d r => decide (d < 4) && decide (r < 38)
  | .marchComplete n b => decide (n < 512) && (b.fails ++ b.lost).all (fun w => decide (w < 131072))
  | .hmcRead _ _ _ _ => true
  | .hmcWrite _ => true
  | .refresh q b => decide (q < 256) && decide (b < 128)
  | .hmcScrub q _ _ => decide (q < 256)
  | .temperatureReadout q t => decide (q < 256) && decide (t < 256)
  | .channelRetraining q => decide (q < 256)
  | .retrainingEnd q _ _ _ => decide (q < 256)
  | .tallyAdd q b => decide (q < 256) && (b.ce ++ b.ue).all (fun i => decide (i < 6))
  | .digestSweepComplete n => decide (n < 16)
  | .tgRunComplete q e pc b r n => decide (q < 256) && decide (e ≤ 200) && decide (pc < 2) && decide (b < 64) && fits 15 r && fits 24 n
  | .refreshManagement q => decide (q < 256)
  | .interfaceError q => decide (q < 256)
  | .openConn p v c n i => wfPkt p && fits 8 v && decide (c < 2) && fits 32 n && fits 32 i
  | .openAck p st v n i => wfPkt p && decide (st < 4) && fits 8 v && fits 32 n && fits 32 i
  | .ack p b => wfPkt p && fits 64 b
  | .ackTimer n => fits 32 n
  | .resendTimer n q => fits 32 n && fits 32 q
  | .halfOpenTimeout n => fits 32 n
  | .regRead p r n a => wfReq p r && fits 16 n && fits 64 a
  | .regWrite p r a vs => wfReq p r && fits 64 a && vs.all (fits 64) && decide (vs.length ≤ 512)
  | .memRead p r n a => wfReq p r && fits 16 n && fits 64 a
  | .memWrite p r a d => wfReq p r && fits 64 a && wfData d.length
  | .image p r o d => wfReq p r && fits 64 o && wfData d.length
  | .imageAssemblyTimeout => true
  | .load p r n e =>
    wfReq p r && fits 64 n && (match e with | some x => fits 32 x.cstep && fits 8 x.mode && fits 64 x.token | none => true)
  | .start p r b => wfReq p r && wfStep b
  | .step p r b => wfReq p r && wfStep b
  | .partitionKill p r n => wfReq p r && fits 8 n
  | .groupSet p r g _ h sz k f es =>
    wfReq p r && fits 8 g && fits 16 h && fits 16 sz && fits 16 k && fits 16 f && decide (es.length ≤ 170) &&
    es.all (fun e => fits 64 e.1 && fits 128 e.2)
  | .runTestPack p r k n => wfReq p r && fits 64 k && fits 64 n
  | .testComplete u _ => fits 16 u
  | .testRunmaxExpiry u => fits 16 u
  | .startMarch p r n _ => wfReq p r && fits 64 n
  | .stopMarch p r n => wfReq p r && fits 64 n
  | .retrainChannel p r q => wfReq p r && fits 64 q
  | .digestSweep p r n => wfReq p r && fits 64 n
  | .clearUnitRecord p r n => wfReq p r && fits 64 n
  | .fenceUnit p r n => wfReq p r && fits 64 n
  | .deleteTestPack p r n => wfReq p r && fits 64 n
  | .setModuleConfiguration p r d => wfReq p r && wfData d.length
  | .warmReset p r => wfReq p r
  | .enterShade p r => wfReq p r
  | .leaveShade p r => wfReq p r
  | .installOwnerKey p r d => wfReq p r && wfData d.length
  | .installPeerKey p r d => wfReq p r && wfData d.length
  | .retireOwnerPrevious p r => wfReq p r
  | .retirePeerPrevious p r => wfReq p r
  | .release p r => wfReq p r
  | .fwImageData p r t o d => wfReq p r && fits 8 t && fits 64 o && wfData d.length
  | .fwImageFinish p r t => wfReq p r && fits 8 t
  | .fwImageActivate p r t => wfReq p r && fits 8 t
  | .fwImageCommit p r t o => wfReq p r && fits 8 t && fits 64 o
  | .fwImageAbort p r t => wfReq p r && fits 8 t
  | .attest p r o d => wfReq p r && fits 64 o && wfData d.length
  | .telemetryDropTimeout => true
  | .counterSnapshot => true
  | .roll p n d t rt => wfPkt p && wfName n && fits 64 d && fits 64 t && fits 64 rt
  | .rollResend ch => decide (ch < 64)
  | .answer p n d v k => wfPkt p && wfName n && fits 64 d && fits 8 v && fits 32 k
  | .rollCallDeadline ch => decide (ch < 64)
  | .roster p n t _ l => wfPkt p && wfName n && fits 64 t && wfRanks l
  | .rollCallTimeout ch => decide (ch < 64)
  | .contrib p n k f d => wfPkt p && wfName n && fits 32 k && fits 64 f && wfData d.length
  | .rack p n k st _ _ c f => wfPkt p && wfName n && fits 32 k && decide (st ≤ 4) && fits 16 c && fits 64 f
  | .done p n k _ _ => wfPkt p && wfName n && fits 32 k
  | .epochDeadline ch => decide (ch < 64)
  | .admitRanks p n t u l => wfPkt p && wfName n && fits 64 t && (match u with | some k => fits 32 k | none => true) && wfRanks l
  | .late p n k d => wfPkt p && wfName n && fits 32 k && fits 32 d
  | .close p n o d l => wfPkt p && wfName n && decide (o ≤ 5) && decide (d.length = 64) && wfRanks l
  | .holderResultSend ch => decide (ch < 64)
  | .result p n k _ _ _ f o d => wfPkt p && wfName n && fits 32 k && fits 8 f && fits 64 o && wfData d.length
  | .abandon p n r => wfPkt p && wfName n && fits 8 r
  | .lost p n k => wfPkt p && wfName n && fits 32 k
  | .rwaitTimeout c ch => wfCore c && decide (ch < 64)
  | .memberDeadline ch => decide (ch < 64)
  | .admitIntervalExpiry ch => decide (ch < 64)
  | .begin p b => wfPkt p && wfCtl b
  | .begun p b => wfPkt p && wfCtlAnswer b
  | .cairnData p o d => wfPkt p && fits 64 o && wfData d.length
  | .seal p b => wfPkt p && wfCtl b
  | .sealed p b => wfPkt p && wfCtlAnswer b
  | .cairnWriteTimeout => true
  | .fetch p b => wfPkt p && wfCtl b
  | .fetched p b => wfPkt p && wfCtlAnswer b
  | .restoreComplete => true
  | .unitEventCommit => true
  | .hourlyClassification => true
  | .powerOnReset b => (b.badChans ++ b.unrepaired).all (fun q => decide (q < 256))
  | .computePowerUp b => (b.check ++ b.fail).all (fun q => decide (q < 256))
  | .trialWatchdog => true
  | .supplySample v a => fits 16 v && fits 17 a
  | .limiterTick => true
  | .coolantSample i o f _ => decide (-32768 ≤ i ∧ i < 32768 ∧ -32768 ≤ o ∧ o < 32768) && fits 16 f
  | .facilityStatus => true
  | .valve q o => fits 8 q && fits 8 o
  | .shutdown q r => fits 8 q && fits 8 r
  | .hubDieTemperature t _ => decide (t < 256)
  | .facilityBadFrame _ => true
  | .linkAttemptTimeout => true
  | .linkLoss b => fits 32 b.fec
  | .linkUp b => b.failed.all (fun n => decide (n < 8))
  | .pauseFrame => true
  | .nonIpFrame => true
  | .neighborSolicitation a t => fits 128 a && fits 128 t
  | .echoRequest a i q d => fits 128 a && fits 16 i && fits 16 q && wfData d.length
  | .extensionHeaderPacket => true
  | .badUdpChecksum => true
  | .malformedPacket => true
  | .ptpSync o => decide (-(2 ^ 63 : Int) ≤ o ∧ o < 2 ^ 63)
  | .ptpHoldover => true
  | .stepNow p r v => wfOwn p r v && bits v 53 53 == 1
  | .leakClr p r v => wfOwn p r v && bits v 0 0 == 1
  | .arithFlagClear p r c v => wfOwn p r v && wfCore c
  | .talModeWrite p r q v => wfOwn p r v && decide (q < 256)
  | .digestRegionConfig p r n v => wfOwn p r v && decide (n < 16)
  | .storeConfig p r v => wfOwn p r v
  | .clientConfig p r v => wfOwn p r v
  | .tgOff p r q v => wfOwn p r v && decide (q < 256) && bits v 63 60 == 0
  | .tgReadCheck p r q v => wfOwn p r v && decide (q < 256) && bits v 63 60 == 1
  | .tgWriteCompare p r q v => wfOwn p r v && decide (q < 256) && bits v 63 60 == 2
  | .tgWriteOnly p r q v => wfOwn p r v && decide (q < 256) && bits v 63 60 == 3
  | .flashProgramComplete => true

end Sys2Proof
end

