-- ==== Sys2Proof/Machine/Control.lean ====
section
/-! DEFINITION. Control instructions, count slots, loops, flags, claims and address generators (04, 05 R176 to R192): NOP to CLOAD, and the events that let them go on. -/

namespace Sys2Proof.Machine

/-! ### Count slots (R154 to R156) -/

/-- A slot of a core. -/
def Core.slot (c : Core) (n : Nat) : Slot := Tab.get c.slots Slot.reset n

/-- Set a slot of a core. -/
def Core.setSlot (c : Core) (n : Nat) (v : Slot) : Core := { c with slots := Tab.put c.slots n v }

/-- Every reading stream has latched the value in the slot (R156). -/
def Slot.latched (v : Slot) : Bool := (!v.readA || v.latA == v.seq) && (!v.readX || v.latX == v.seq)

/-- The slot holds a value that the stream has not latched (R156). -/
def Slot.fresh (v : Slot) (st : Strm) : Bool :=
  match st with
  | .a => v.latA != v.seq
  | .x => v.latX != v.seq

/-- The slot's first waiting write takes effect once its value is known and every reader has latched the last one (R156): a CLOAD completes, a CSET's stream goes on. -/
def Core.slotWrite (c : Core) (n : Nat) : Core :=
  let v := c.slot n
  match v.writes with
  | ⟨op, some x⟩ :: r =>
    if v.latched then
      let c := c.setSlot n { v with value := x, seq := v.seq + 1, writes := r }
      match op with
      | some i => (match c.op i with | some o => c.finish o | none => c)
      | none => { c with a := { c.a with slotw := false }.advance }
    else c
  | _ => c

/-! ### Progress of a transfer -/

/-- The position of a transfer's destination bytes is complete: every destination request is acknowledged. -/
def Op.stored (o : Op) : Bool := decide (o.wdone = reqCount o.dst)

/-- Bytes of a landed table from a position, if all are there. -/
def landedAt (l : Tab PByte) (pos len : Nat) : Option (List PByte) := (List.range len).mapM (fun i => Tab.find l (pos + i))

/-- The landed table with bytes put at a position. -/
def putLanded (l : Tab PByte) (pos : Nat) : List PByte → Tab PByte
  | [] => l
  | b :: r => putLanded (Tab.put l pos b) (pos + 1) r

/-- The landed table without a range of positions. -/
def dropLanded (l : Tab PByte) (pos len : Nat) : Tab PByte := Tab.drop l (fun k => decide (pos ≤ k ∧ k < pos + len))

/-- Every source request has landed; a GATHER also has every row. -/
def Op.loaded (o : Op) : Bool :=
  decide (o.rland = reqCount o.src) &&
  (match o.ins with
   | .gather _ b => decide (o.src.length = b.nidx + 1)
   | _ => true)

/-- Claims that stay after the accesses made so far (R139): READ claims go with the last landing, a spread load's element and scale claims each with the last landing of its own, WRITE and ACC claims of a transfer with the last acknowledgement, a PFETCH's not before its guard latch (R192). -/
def Op.keeps (o : Op) : List Claim :=
  match o.ins with
  | .ops _ _ => o.claims
  | .rwait _ _ _ _ => o.claims
  | .sload _ b =>
    let ne := reqCount (o.src.take (32 * (b.tr + 1)))
    (if o.cnt = ne then [] else [⟨o.region.1, .read⟩]) ++
      (if o.rland - o.cnt = reqCount o.src - ne then [] else [⟨o.region.2, .read⟩]) ++
      (if o.loaded then [] else [⟨bankRegion b.pair b.bank, .write⟩])
  | .pfetch _ _ =>
    let l := if o.loaded then o.claims.filter (fun c => c.mode != .read) else o.claims
    if o.stored ∧ o.bound = .sure then l.filter (fun c => c.mode == .read) else l
  | .racc _ _ => if o.loaded then o.claims.filter (fun c => c.mode != .read) else o.claims
  | _ =>
    let l := if o.loaded then o.claims.filter (fun c => c.mode != .read) else o.claims
    if o.dst ≠ [] ∧ o.stored then l.filter (fun c => c.mode == .read) else l

/-- The transfer has made its last access (R147, R240). -/
def Op.over (o : Op) : Bool :=
  match o.ins with
  | .move _ _ => o.stored
  | .pfetch _ _ => o.stored && o.bound == .sure
  | .qload _ _ => decide (o.pushed = segBytes o.src)
  | .qstore _ _ => o.stored
  | .sload _ _ => o.loaded
  | .gather _ _ => o.loaded && decide (o.pushed = segBytes o.src)
  | _ => false

/-- Record a transfer's progress: claims released, and completion where it is over. -/
def Core.settle (c : Core) (o : Op) : Core :=
  let o := { o with claims := o.keeps }
  if o.over then c.finish o else c.setOp o

/-! ### Guards (R191, R192) -/

/-- Void or confirm one PFETCH (R192): a void cancels its unserved requests, releases its claims and makes its completion add; a confirmed one counts the poisoned words it has stored and completes if every byte has landed (R240). -/
def State.bindPfetch (s : State) (k c p n : Nat) (o : Op) : State :=
  if n = 0 then
    let s := { s with fab := s.fab.map (fun (r : FabReq) => if r.core = k ∧ r.op = o.id ∧ !r.served then { r with served := true, data := [] } else r) }
    (s.updCore k (fun x => x.finish o)).addFld (rMevt c) 31 0 1
  else
    let s := s.poisonStore p o.cnt c o.st o.pc
    let o' := { o with bound := .sure }
    s.updCore k (fun x => x.settle o')

/-- The A-stream's latch of a guard slot binds every PFETCH that waits on it (R191, R192). -/
def State.guardLatch (s : State) (k c p slot n : Nat) : State :=
  ((s.core k).ops.filter (fun o =>
      match o.ins with
      | .pfetch _ b => o.bound == .waiting && b.gslot == slot
      | _ => false)).foldl
    (fun s o => s.bindPfetch k c p n o) s

/-- A loop entry latches its slot's value (R156, R179): the stream enters the loop, and on the A-stream the guards are bound. -/
def State.latch (s : State) (k c p slot : Nat) (st : Strm) : State :=
  let x := s.core k
  let v := x.slot slot
  let v' := match st with
    | .a => { v with latA := v.seq }
    | .x => { v with latX := v.seq }
  let s := s.setCore k ((x.setSlot slot v').updStream st (fun t => { t with entry := none }.enter v.value))
  match st with
  | .a => s.guardLatch k c p slot v.value
  | .x => s

/-! ### The instructions -/

/-- NOP (R176). -/
def execNop (c : Nat) (st : Strm) (s : State) : Host.Outcome State Fault Refusal :=
  guardWf (Instr.wf (.nop c st)) s fun s => s.control c st .nop id

/-- END (R126): the stream stops issuing. -/
def execEndStream (c : Nat) (st : Strm) (s : State) : Host.Outcome State Fault Refusal :=
  guardWf (Instr.wf (.endStream c st)) s fun s =>
    match s.issuer c st .endS with
    | none => s
    | some (_, k) => s.updCore k (fun x => x.updStream st (fun t => { t with state := 4, stall := 0, obj := 0 }))

/-- LOOP (R150 to R153, R179): an immediate count enters at once; a slot's value is latched when the slot holds one this stream has not latched, else the entry waits (stall 0x5). -/
def execLoop (c : Nat) (st : Strm) (b : LoopB) (s : State) : Host.Outcome State Fault Refusal :=
  guardWf (Instr.wf (.loop c st b)) s fun s =>
    match s.issuer c st (.loop b) with
    | none => s
    | some (p, k) =>
      if b.csrc then
        if ((s.core k).slot b.slot).fresh st then s.latch k c p b.slot st
        else s.updCore k (fun x => x.updStream st (fun t => { t.stop 5 b.slot with entry := some b.slot }))
      else s.updCore k (fun x => x.updStream st (fun t => t.enter b.imm))

/-- BOUNDARY (R160): the stream stops at it. -/
def execBoundary (c : Nat) (st : Strm) (s : State) : Host.Outcome State Fault Refusal :=
  guardWf (Instr.wf (.boundary c st)) s fun s =>
    match s.issuer c st .boundary with
    | none => s
    | some (_, k) => s.stall k st 8 0

/-- The edges of a phase after one more (R273). -/
def Phase.mark (f : Phase) (edge : Bool) (st : Strm) : Phase :=
  let f := if edge then { f with ended := true } else { f with started := true, count := satN 32 (f.count + 1) }
  match st with
  | .a => { f with a := true }
  | .x => { f with x := true }

/-- PHASE (R180, R273, R274): the first start edge sets START, every end edge sets END, at the present cluster time. -/
def execPhase (c : Nat) (st : Strm) (edge : Bool) (pid : Nat) (s : State) : Host.Outcome State Fault Refusal :=
  guardWf (Instr.wf (.phase c st edge pid)) s fun s =>
    match s.issuer c st (.phase edge pid) with
    | none => s
    | some (_, k) =>
      let f := Tab.get (s.core k).phases ⟨0, false, false, false, false⟩ pid
      let s := if edge then s.setReg (rPhe k pid) s.now else if f.started then s else s.setReg (rPhs k pid) s.now
      s.control c st (.phase edge pid) (fun x => { x with phases := Tab.put x.phases pid (f.mark edge st) })

/-- FADD (R143, R148): adds k to a local flag; an overflow terminates and the flag keeps its value. -/
def execFadd (c : Nat) (st : Strm) (flag amount : Nat) (s : State) : Host.Outcome State Fault Refusal :=
  guardWf (Instr.wf (.fadd c st flag amount)) s fun s =>
    match s.issuer c st (.fadd flag amount) with
    | none => s
    | some (_, k) =>
      let pc := ((s.core k).stream st).pc
      let s := s.control c st (.fadd flag amount) id
      s.addFlag k flag amount c st pc

/-- FADDR (R146, R182): the add goes out over the fabric once the stream's earlier writes are complete (REQUEST_SEND). -/
def execFaddr (c : Nat) (cf : Cf) (tcore flag amount : Nat) (s : State) : Host.Outcome State Fault Refusal :=
  guardWf (Instr.wf (.faddr c cf tcore flag amount)) s fun s => s.request c .a (.faddr cf tcore flag amount)

/-- FWAIT (R143): passes once the flag has reached k, subtracting it; else the stream stalls (0x4). -/
def execFwait (c : Nat) (st : Strm) (flag amount : Nat) (s : State) : Host.Outcome State Fault Refusal :=
  guardWf (Instr.wf (.fwait c st flag amount)) s fun s =>
    match s.issuer c st (.fwait flag amount) with
    | none => s
    | some (_, k) =>
      let v := (s.core k).flag flag
      if amount ≤ v then s.control c st (.fwait flag amount) (fun x => x.setFlag flag (v - amount)) else s.stall k st 4 flag

/-- AGBASE (R184): region and offset of a generator. -/
def execAgbase (c : Nat) (ag region offset : Nat) (s : State) : Host.Outcome State Fault Refusal :=
  guardWf (Instr.wf (.agbase c ag region offset)) s fun s =>
    s.control c .a (.agbase ag region offset) (fun x => { x with ags := Tab.put x.ags ag { x.ag ag with region := some region, offset := offset } })

/-- The strides with those of one group replaced (R184, R186). -/
def setStrides (l : List Nat) (grp : Bool) (s0 s1 s2 : Nat) : List Nat :=
  if grp then l.take 3 ++ [s0, s1, s2] else [s0, s1, s2] ++ l.drop 3

/-- AGSTR (R184): the strides of depths 1 to 3 or 4 to 6. -/
def execAgstr (c : Nat) (ag : Nat) (grp : Bool) (s0 s1 s2 : Nat) (s : State) : Host.Outcome State Fault Refusal :=
  guardWf (Instr.wf (.agstr c ag grp s0 s1 s2)) s fun s =>
    s.control c .a (.agstr ag grp s0 s1 s2) (fun x => { x with ags := Tab.put x.ags ag { x.ag ag with strides := setStrides (x.ag ag).strides grp s0 s1 s2 } })

/-- CSET (R154 to R156, R183): writes the slot, or waits (stall 0x6) until every reader has latched the value in it. -/
def execCset (c : Nat) (slot val : Nat) (s : State) : Host.Outcome State Fault Refusal :=
  guardWf (Instr.wf (.cset c slot val)) s fun s =>
    match s.issuer c .a (.cset slot val) with
    | none => s
    | some (_, k) =>
      s.updCore k (fun x =>
        let v := x.slot slot
        let x := x.setSlot slot { v with writes := v.writes ++ [⟨none, some val⟩] }
        let x := { x with a := { x.a.stop 6 slot with slotw := true } }
        match v.writes with
        | [] => x.slotWrite slot
        | _ => x)

/-- CLOAD (R154, R155, R183): issues its four-byte read. -/
def execCload (c : Nat) (cf : Cf) (ag slot : Nat) (s : State) : Host.Outcome State Fault Refusal :=
  guardWf (Instr.wf (.cload c cf ag slot)) s fun s => s.request c .a (.cload cf ag slot)

/-! ### The events -/

/-- Grant a waiting claim of a stream (R138 to R140): once it conflicts with no held claim and no earlier waiting request and the scoreboard has room for all its instruction's claims; with its last claim the instruction issues. DEDUCED (log 16). -/
def State.grantClaim (s : State) (c : Nat) (st : Strm) (region : Nat) : State :=
  match s.partOf c, s.phys c with
  | some p, some k =>
    let x := s.core k
    match (x.stream st).hold with
    | none => s
    | some h =>
      match h.want.find? (fun w => w.region == region) with
      | none => s
      | some w =>
        if x.free st h.t [w] (x.heldBut st) && decide (x.held.length + h.want.length ≤ 64) then
          let h := { h with got := h.got ++ [w], want := h.want.erase w }
          let s := s.setCore k (x.updStream st (fun t => { t with hold := some h }))
          match h.want with
          | [] =>
            (s.updCore k (fun x => x.updStream st (fun t => { t with hold := none }))).issueOp k st (s.part p).step h.ins h.got
          | w' :: _ => s.updCore k (fun x => x.updStream st (fun t => t.stop 3 w'.region))
        else s
  | _, _ => s

/-- COMPLETION_FLAG_ADD (R147, R148, R182): the oldest completion that names the flag adds 1 to it. -/
def execCompletionFlagAdd (c flag : Nat) (s : State) : Host.Outcome State Fault Refusal :=
  guardWf (Instr.wf (.completionFlagAdd c flag)) s fun s =>
    match s.phys c with
    | none => s
    | some k =>
      match (s.core k).comps.find? (fun e => e.flag == flag) with
      | none => s
      | some e =>
        let s := s.updCore k (fun x => { x with comps := x.comps.erase e })
        s.addFlag k flag 1 c e.st e.pc

/-- LOOP_ENTRY_LATCH (R156, R179, R191): a waiting loop entry latches its slot once the slot holds a value the stream has not latched. DESIGN CHOICE (log 14). -/
def execLoopEntryLatch (c : Nat) (st : Strm) (s : State) : Host.Outcome State Fault Refusal :=
  guardWf (Instr.wf (.loopEntryLatch c st)) s fun s =>
    match s.partOf c, s.phys c with
    | some p, some k =>
      match ((s.core k).stream st).entry with
      | none => s
      | some slot => if ((s.core k).slot slot).fresh st then s.latch k c p slot st else s
    | _, _ => s

/-- COUNT_SLOT_WRITE (R156): the slot's first waiting write takes effect once every reading stream has latched the previous value. -/
def execCountSlotWrite (c slot : Nat) (s : State) : Host.Outcome State Fault Refusal :=
  guardWf (Instr.wf (.countSlotWrite c slot)) s fun s =>
    match s.phys c with
    | none => s
    | some k => s.updCore k (fun x => x.slotWrite slot)

end Sys2Proof.Machine
end

