-- ==== Sys2Proof/Machine/Transfers.lean ====
section
/-! DEFINITION. Transfers of the A-stream (05 R185 to R196), queue pushes and pops (04 R130), and the access unit's requests on the fabric and the hamper port (08 R283, R286, 09 R315 to R325). -/

namespace Sys2Proof.Machine

/-! ### The row engine's groups (R218) -/

/-- A row-engine operation or queue move. -/
def isRow (i : Ovt) : Bool :=
  match i with
  | .rx _ _ => true
  | .qmove _ _ _ _ => true
  | _ => false

/-- Groups of an RX: 128 lanes each; MERGEK has one. -/
def groupsIn (b : RxB) : Nat := if b.rop = 0x15 then 1 else ceilDiv b.len 128

/-- Groups of a row-engine operation or queue move. -/
def Op.groups (o : Op) : Nat :=
  match o.ins with
  | .rx _ b => groupsIn b
  | .qmove _ _ _ n => ceilDiv n 128
  | _ => 0

/-! ### Order of queue units (R130) -/

/-- The queues that a drain under a descriptor pushes to (R96, R209). -/
def descPushes (d : DescB) : List Nat :=
  d.oq :: ((if isMx d.otype then [d.osq] else []) ++ (if d.dmode = 2 then [d.sq] else []) ++ (if d.topk ≠ 0 then [d.kq] else []))

/-- An instruction still has data to read for queue `q` (R131); of a drain, rows not yet read. -/
def Op.pushesTo (o : Op) (q : Nat) : Bool :=
  match o.ins with
  | .qload _ b => b.f1 == q
  | .gather _ b => b.qd == q
  | .rx _ b => b.dst == q || (isMx b.td && b.sc == q)
  | .qmove _ _ d _ => d == q
  | .drain _ _ =>
    (match o.desc with
     | some d => decide (o.cnt < o.region.1) && (descPushes d).contains q
     | none => false)
  | _ => false

/-- An instruction still pops from queue `q`. -/
def Op.popsFrom (o : Op) (q : Nat) : Bool :=
  match o.ins with
  | .qstore _ b => b.f0 == q && decide (o.popped < segBytes o.dst)
  | .gather _ b => b.qi == q && decide (o.popped < 4 * (b.nidx + 1))
  | .ops _ b => (b.wsrc == q || (isMx b.ta && b.wsrc != 16 && b.wsq == q) || b.nsrc == q || (isMx b.tb && b.nsrc != 16 && b.nsq == q)) && decide (o.cnt < b.steps)
  | .preload _ b => b.pmode != 0 && b.pq == q
  | .drain _ _ =>
    (match o.desc with
     | some d => d.dmode == 1 && d.sq == q && decide (o.cnt < o.region.1)
     | none => false)
  | .rx _ b => (b.sa == q || (ropReadsB b.rop && b.sb == q) || (ropReadsC b.rop && b.sc == q)) && decide (o.cnt < o.groups)
  | .qmove _ s _ _ => s == q && decide (o.cnt < o.groups)
  | _ => false

/-- The queues a drained row's pending push enters (R106, R209). -/
def pushQueues (d : DescB) (p : Push) : List Nat :=
  match p.kind with
  | .row => p.q :: (if isMx d.otype then [d.osq] else [])
  | _ => [p.q]

/-- The queues that the pushes left in a column-block buffer enter (R107): scales first, then rows. -/
def bufQueues (d : DescB) (b : ColBuf) : List Nat :=
  if b.side then [d.sq] else if b.made = 0 then [d.osq, d.oq] else [d.oq]

/-- A drain has pushes to queue `q` in its drain path (R107, R111). -/
def Core.drainOwes (c : Core) (o : Op) (q : Nat) : Bool :=
  match o.ins, o.desc with
  | .drain _ b, some d =>
    ((c.arr b.arr).pushes.any (fun p => p.op == o.id && (pushQueues d p).contains q)) ||
    ((c.arr b.arr).bufs.any (fun f => f.op == o.id && (bufQueues d f).contains q))
  | _, _ => false

/-- No instruction that the same stream issued before still pushes to the queue (R130). -/
def Core.pushTurn (c : Core) (o : Op) (q : Nat) : Bool :=
  c.ops.all (fun x => !(decide (x.id < o.id) && x.st == o.st && (x.pushesTo q || c.drainOwes x q)))

/-- No instruction that the same stream issued before still pops from the queue; members of the same linked group pop together (R130, R208). -/
def Core.popTurn (c : Core) (o : Op) (q : Nat) : Bool :=
  c.ops.all (fun x => !(decide (x.id < o.id) && x.st == o.st && !o.group.contains x.id && x.popsFrom q))

/-! ### Landing (R315, R322) -/

/-- Write landed bytes of a spread load into its bank: elements from 0, scales from 32,768; the first landing replaces the tile (R113, R194). -/
def Core.fillSpread (c : Core) (o : Op) (b : SloadB) (pos : Nat) (bs : List PByte) : Core :=
  let key := 2 * b.pair + b.bank
  let sp := if o.rland = 0 then ⟨b.type, b.bax, 32 * (b.tr + 1), 32 * (b.tc + 1), [], [], none⟩ else Tab.get c.spreads Spread.reset key
  let off := if pos < tileBytes b then pos else 32768 + (pos - tileBytes b)
  let sp := bs.zipIdx.foldl
    (fun (t : Spread) e =>
      let t := { t with bytes := Tab.put t.bytes (off + e.2) e.1.1 }
      if e.1.2 then { t with poison := insertNat ((off + e.2) / 8) t.poison } else t) sp
  { c with spreads := Tab.put c.spreads key sp }

/-- A CLOAD's four bytes arrive (R155): a poisoned word or a value above the slot's maximum terminates the program and leaves the slot; else the value waits for, or takes, its turn. -/
def State.landCload (s : State) (k c : Nat) (o : Op) (slot : Nat) (bs : List PByte) : State :=
  let x := s.core k
  let v := x.slot slot
  let n := ofLe (bs.map (·.1))
  if bs.any (·.2) then s.abort c tPoison o.st o.pc
  else if v.max < n then s.abort c tCountBound o.st o.pc
  else
    let ws := v.writes.map (fun w => if w.op = some o.id then { w with value := some n } else w)
    let x := (x.setOp { o with rland := 1, claims := [] }).setSlot slot { v with writes := ws }
    s.setCore k (match ws with
      | w :: _ => if w.op = some o.id then x.slotWrite slot else x
      | [] => x)

/-- Bytes of one request land for an instruction of a core (R147, R322). -/
def State.land (s : State) (k c id pos : Nat) (bs : List PByte) : State :=
  match (s.core k).op id with
  | none => s
  | some o =>
    match o.ins with
    | .cload _ _ slot => s.landCload k c o slot bs
    | .sload _ b =>
      s.updCore k (fun x =>
        (x.fillSpread o b pos bs).settle
          { o with rland := o.rland + 1, cnt := if pos < tileBytes b then o.cnt + 1 else o.cnt })
    | _ => s.updCore k (fun x => x.settle { o with rland := o.rland + 1, landed := putLanded o.landed pos bs })

/-- A write of an instruction has taken effect (R147): poisoned words are counted, of an unbound PFETCH only when it is confirmed (R446). -/
def State.wrote (s : State) (k c id a : Nat) (bs : List PByte) : State :=
  match (s.core k).op id, s.partOf c with
  | some o, some p =>
    let n := badWords a bs
    if o.bound = .waiting then s.updCore k (fun x => x.setOp { o with cnt := o.cnt + n })
    else s.poisonStore p n c o.st o.pc
  | _, _ => s

/-- One more destination request of an instruction is complete. -/
def State.acked (s : State) (k id : Nat) : State :=
  match (s.core k).op id with
  | none => s
  | some o => s.updCore k (fun x => x.settle { o with wdone := o.wdone + 1 })

/-! ### Choosing and stamping requests (R318 to R321) -/

/-- What an instruction would send next: a read or a write of one 64-byte word, or its flag add. -/
structure Cand where
  op : Op
  kind : FKind
  req : Req
  deriving DecidableEq, Repr

/-- DLINE and NORUSH of a transfer; 0 where the body has no DLINE (R318). -/
def dlineOf (i : Ovt) : Nat × Bool :=
  match i with
  | .move _ b => (b.dline, b.norush)
  | .qload _ b => (b.dline, b.norush)
  | .qstore _ b => (b.dline, b.norush)
  | .pfetch _ b => (b.dline, b.norush)
  | .sload _ b => (b.dline, b.norush)
  | .gather _ b => (b.dline, b.norush)
  | _ => (0, false)

/-- A potluck transfer (R189). -/
def isPot (i : Ovt) : Bool :=
  match i with
  | .move _ b => b.pot
  | .qstore _ b => b.pot
  | _ => false

/-- The next requests of an instruction: a write whose bytes have landed, then a read; a FADDR's add waits for every earlier write of the stream, an RWAIT's status record among them (R146, R200, R286). -/
def Core.cands (c : Core) (o : Op) : List Cand :=
  let w := match nthReq o.dst 0 o.wsent with
    | some r => if (landedAt o.landed r.pos r.len).isSome then [⟨o, if isPot o.ins then .pot else .write, r⟩] else []
    | none => []
  let r := match nthReq o.src 0 o.rsent with
    | some r => [⟨o, .read, r⟩]
    | none => []
  match o.ins with
  | .rwait _ _ _ _ => []
  | .faddr _ t n k =>
    if o.wsent = 0 ∧ c.ops.all (fun x =>
        !(decide (x.id < o.id) && x.st == .a &&
          (match x.ins with
           | .move _ _ => true
           | .qstore _ _ => true
           | .pfetch _ _ => !x.stored
           | .racc _ _ => true
           | .rwait _ _ _ _ => true
           | _ => false)))
    then [⟨o, .flag t n k, ⟨0, 0, 0⟩⟩] else []
  | _ => w ++ r

/-- Bytes moved in a queue's history of the last 256 ECLK (R319). -/
def recent (l : List (Nat × Nat)) (t : Nat) : Nat := sumOf ((l.filter (fun e => decide (t < e.1 + 256))).map (·.2))

/-- An instruction requests bytes for a queue. -/
def Op.fills (o : Op) (q : Nat) : Bool :=
  match o.ins with
  | .qload _ b => b.f1 == q
  | .gather _ b => b.qd == q
  | _ => false

/-- Bytes of a core's requests to a queue that have not landed (R319). -/
def State.inFlight (s : State) (k q : Nat) : Nat :=
  sumOf ((s.fab.filter (fun r => r.core == k && r.kind == .read && ((s.core k).op r.op).any (fun o => o.fills q))).map FabReq.len)

/-- Time to empty or to full: TTEMAX without history, else the bytes over the rate, capped (R319). -/
def timeTo (maxT bytes moved : Nat) : Nat := if moved = 0 then maxT else min maxT (bytes * 256 / moved)

/-- The latest-service time of a request sent now (R318); none for NORUSH. -/
def State.stampOf (s : State) (k : Nat) (x : Cand) : Option Nat :=
  let c := s.core k
  let f := rFeedCtrl k
  let t := s.clock.eclk
  let lead := s.fld f 31 24
  let maxT := s.fld f 47 32
  let d := dlineOf x.op.ins
  if d.2 then none
  else if d.1 ≠ 0 then some (x.op.issued + 16 * d.1)
  else
    match x.op.ins with
    | .qload _ b => some (t + (timeTo maxT ((c.queue b.f1).bytes.length + s.inFlight k b.f1) (recent (c.queue b.f1).pops t) - lead))
    | .gather _ b => some (t + (timeTo maxT ((c.queue b.qd).bytes.length + s.inFlight k b.qd) (recent (c.queue b.qd).pops t) - lead))
    | .qstore _ b => some (t + (timeTo maxT ((c.queue b.f0).free - s.inFlight k b.f0) (recent (c.queue b.f0).pushes t) - lead))
    | .sload _ _ => some (x.op.issued + x.op.rsent / 2 + s.fld f 23 12)
    | .pfetch _ _ => some (x.op.issued + 4 * s.fld f 63 48)
    | _ => some (x.op.issued + s.fld f 63 48)

/-- Order of sending (R321): with a time before without, earliest time, older instruction, lower position. -/
def sendsBefore (a b : Cand × Option Nat) : Bool :=
  let older := decide (a.1.op.id < b.1.op.id) || (decide (a.1.op.id = b.1.op.id) && decide (a.1.req.pos < b.1.req.pos))
  match a.2, b.2 with
  | some x, some y => decide (x < y) || (decide (x = y) && older)
  | some _, none => true
  | none, some _ => false
  | none, none => older

/-- The first candidate in sending order. -/
def pickCand : List (Cand × Option Nat) → Option (Cand × Option Nat)
  | [] => none
  | a :: r =>
    match pickCand r with
    | none => some a
    | some b => some (if sendsBefore b a then b else a)

/-- The bank words in which a core has unapplied contributions (R298). -/
def State.openPot (s : State) (k : Nat) : List Nat :=
  ((s.fab.filter (fun r => r.core == k && r.kind == .pot && !r.left.isEmpty)).map (fun r => r.addr / 64)).dedup

/-- A candidate may be sent: trackers (R322, R324), and at most 16 open potluck bank words (R298). -/
def State.maySend (s : State) (k : Nat) (x : Cand × Option Nat) : Bool :=
  let opens := s.openPot k
  decide (s.trackers k < 1536) &&
  (x.2.isSome || decide (s.untimed k < 1536 - s.fld (rFeedCtrl k) 10 0)) &&
  (x.1.kind != .pot || opens.contains (x.1.req.addr / 64) || decide (opens.length < 16))

/-- The line or granule of a word for merging (R316). -/
def mergeLine (a : Nat) : Nat := if a < stackDpa then a / 2048 else a / 4096 + 2 ^ 48

/-- A word sent in ECLK `t` joins a burst (R316, R317): the line or granule, the direction and the timing are the burst's, the word is the next on either side, and the burst's first word was sent less than 8 ECLK ago, so that the 8 ECLK count from the first word's own. DEDUCED (log 70). -/
def Burst.takes (b : Burst) (t a : Nat) (wr timed : Bool) : Bool :=
  b.line == mergeLine a && b.wr == wr && b.timed == timed && decide (t < b.start + 8 ∧ b.words < 32) &&
  (decide (a / 64 = b.last + 1) || decide (a / 64 + b.words = b.last))

/-- The open bursts after one more word, the word's burst, and the words that join CORE_FEED_MERGE with it (R316, R328); `id` numbers a new burst. -/
def joinBurst (l : List Burst) (id t a : Nat) (wr timed : Bool) : List Burst × Nat × Nat :=
  let l := l.filter (fun b => decide (t < b.start + 8))
  match l.find? (fun b => b.takes t a wr timed) with
  | some b =>
    (l.map (fun x => if x.id = b.id then { b with last := max b.last (a / 64), words := b.words + 1 } else x), b.id, if b.words = 1 then 2 else 1)
  | none => (l ++ [⟨id, t, mergeLine a, wr, timed, a / 64, 1⟩], id, 0)

/-- With no tracker free a waiting A-stream instruction that makes fabric requests holds no claim, and stalls with 0x9 (R323). -/
def State.dropClaims (s : State) (k : Nat) : State :=
  let c := s.core k
  match c.a.hold with
  | some h => if 1536 ≤ s.trackers k ∧ fabricUser c h.ins then s.setCore k { c with a := { c.a.stop 9 0 with hold := none } } else s
  | none => s

/-- With a tracker free the A-stream waits for one no longer (R323). -/
def State.freeStream (s : State) (k : Nat) : State :=
  let c := s.core k
  if c.a.state = 3 ∧ c.a.stall = 9 ∧ s.trackers k < 1536 then s.setCore k { c with a := { c.a with state := 2, stall := 0 } } else s

/-- Send a request: it takes a tracker and enters the fabric (R322). -/
def State.send (s : State) (k : Nat) (x : Cand) (stamp : Option Nat) : State :=
  let o := x.op
  let data := match x.kind with
    | .read => []
    | .flag _ _ _ => []
    | _ => (landedAt o.landed x.req.pos x.req.len).getD []
  let left := match x.kind with
    | .pot => (List.range (x.req.len / 4)).map (fun i => x.req.addr + 4 * i)
    | _ => []
  let merges := match x.kind with
    | .pot => false
    | .flag _ _ _ => false
    | _ => true
  let j := joinBurst (s.core k).bursts (s.fabNext + 1) s.clock.eclk x.req.addr (decide (x.kind = FKind.write)) stamp.isSome
  let r : FabReq := ⟨s.fabNext, k, o.id, x.kind, x.req.addr, x.req.len, x.req.pos, data, s.clock.eclk, stamp, false, left, if merges then j.2.1 else 0⟩
  let o := match x.kind with
    | .read => { o with rsent := o.rsent + 1 }
    | .flag _ _ _ => { o with wsent := o.wsent + 1 }
    | _ => { o with wsent := o.wsent + 1, landed := dropLanded o.landed x.req.pos x.req.len }
  let s := { s with fab := s.fab ++ [r], fabNext := s.fabNext + 1 }
  let s := s.updCore k (fun c => c.setOp o)
  let s := if merges then (s.updCore k (fun c => { c with bursts := j.1 })).addFld (rFeedMerge k) 63 0 j.2.2 else s
  let n := s.trackers k
  ((s.setFld (rFeedStat k) 63 53 n).maxFld (rFeedStat k) 42 32 n).dropClaims k

/-- Release a request's tracker (R322). -/
def State.freeReq (s : State) (r : FabReq) : State :=
  let s := { s with fab := s.fab.filter (fun x => x.id != r.id) }
  (s.setFld (rFeedStat r.core) 63 53 (s.trackers r.core)).freeStream r.core

/-- Every candidate of a core whose memory lies in the core's hamper window (`true`) or outside it. -/
def Core.candsAt (c : Core) (hamper : Bool) : List Cand :=
  (c.ops.flatMap c.cands).filter (fun x =>
    match x.kind with
    | .flag _ _ _ => !hamper
    | _ => inHamper x.req.addr == hamper)

/-! ### The instructions -/

/-- MOVE (R187 to R190). -/
def execMove (c : Nat) (cf : Cf) (b : XferB) (s : State) : Host.Outcome State Fault Refusal :=
  guardWf (Instr.wf (.move c cf b)) s fun s => s.request c .a (.move cf b)

/-- QLOAD (R187, R188). -/
def execQload (c : Nat) (cf : Cf) (b : XferB) (s : State) : Host.Outcome State Fault Refusal :=
  guardWf (Instr.wf (.qload c cf b)) s fun s => s.request c .a (.qload cf b)

/-- QSTORE (R187 to R189). -/
def execQstore (c : Nat) (cf : Cf) (b : XferB) (s : State) : Host.Outcome State Fault Refusal :=
  guardWf (Instr.wf (.qstore c cf b)) s fun s => s.request c .a (.qstore cf b)

/-- SLOAD (R193, R194). -/
def execSload (c : Nat) (cf : Cf) (b : SloadB) (s : State) : Host.Outcome State Fault Refusal :=
  guardWf (Instr.wf (.sload c cf b)) s fun s => s.request c .a (.sload cf b)

/-- GATHER (R195, R196). -/
def execGather (c : Nat) (cf : Cf) (b : GatherB) (s : State) : Host.Outcome State Fault Refusal :=
  guardWf (Instr.wf (.gather c cf b)) s fun s => s.request c .a (.gather cf b)

/-- PFETCH (R191): runs speculatively until the A-stream's next latch of its guard slot. -/
def execPfetch (c : Nat) (cf : Cf) (b : XferB) (s : State) : Host.Outcome State Fault Refusal :=
  guardWf (Instr.wf (.pfetch c cf b)) s fun s => s.request c .a (.pfetch cf b)

/-! ### The events -/

/-- REQUEST_SEND (R318 to R324): the access unit sends its next fabric request. An address that is not mapped makes no access and terminates the program (R11). -/
def execRequestSend (c : Nat) (s : State) : Host.Outcome State Fault Refusal :=
  guardWf (Instr.wf (.requestSend c)) s fun s =>
    match s.phys c with
    | none => s
    | some k =>
      let all := ((s.core k).candsAt false).map (fun x => (x, s.stampOf k x))
      let timedWaits := all.any (fun x => x.2.isSome)
      let l := all.filter (fun x => s.maySend k x && (x.2.isSome || !timedWaits))
      match pickCand l with
      | none => s
      | some (x, stamp) =>
        match x.kind with
        | .flag _ _ _ => s.send k x stamp
        | _ => if (s.keyOf x.req.addr).isSome then s.send k x stamp else s.abort c tAddressFault x.op.st x.op.pc

/-- The next access to the core's own hamper window, in sending order (R315, R444). `ce` and `ue` are the 8-byte groups of the word that a read finds correctable and uncorrectable; an uncorrectable group not yet marked is marked and recorded once. -/
def State.hamperNext (s : State) (c : Nat) (ce ue : List Nat) : State :=
  match s.phys c with
  | none => s
  | some k =>
    let all := ((s.core k).candsAt true).map (fun x => (x, s.stampOf k x))
    match pickCand all with
    | none => s
    | some (x, _) =>
      match s.keyOf x.req.addr, x.kind with
      | some key, .read =>
        let base := key / 64 * 64
        let new := ((ue.filter (fun g => decide (g < 8))).filter (fun g => !s.mem.bad (base + 8 * g))).dedup
        let s := { s with mem := new.foldl (fun m g => m.setPoison (base + 8 * g) true) s.mem }
        let s := new.foldl (fun s _ => s.unitEvent (unitCore k) evUe 0) s
        let s := ce.foldl (fun s _ => s.unitEvent (unitCore k) evCe 0) s
        let bs := s.mem.readB key x.req.len
        (s.updCore k (fun y => y.setOp { x.op with rsent := x.op.rsent + 1 })).land k c x.op.id x.req.pos bs
      | some _, _ =>
        let bs := (landedAt x.op.landed x.req.pos x.req.len).getD []
        let s := s.updCore k (fun y => y.setOp { x.op with wsent := x.op.wsent + 1, landed := dropLanded x.op.landed x.req.pos x.req.len })
        ((s.writeMem x.req.addr bs).wrote k c x.op.id x.req.addr bs).acked k x.op.id
      | none, _ => s

/-- The next push unit of the oldest QLOAD or GATHER whose turn it is on a queue: instruction, unit, bytes. -/
def Core.nextPush (c : Core) (q : Nat) : Option (Op × Req × List PByte) :=
  (c.ops.filter (fun o =>
      match o.ins with
      | .qload _ b => b.f1 == q
      | .gather _ b => b.qd == q
      | _ => false)).head?.bind (fun o =>
    match nthUnit o.src 0 o.cnt with
    | none => none
    | some u =>
      if !c.pushTurn o q then none
      else (landedAt o.landed u.pos u.len).map (fun bs => (o, u, bs)))

/-- QUEUE_PUSH (R130, R188): the bytes of the next 64-byte request of a QLOAD or GATHER enter the queue once they have landed and there is room. -/
def execQueuePush (c q : Nat) (s : State) : Host.Outcome State Fault Refusal :=
  guardWf (Instr.wf (.queuePush c q)) s fun s =>
    match s.phys c with
    | none => s
    | some k =>
      let x := s.core k
      match x.nextPush q with
      | none => s
      | some (o, u, bs) =>
        if u.len ≤ (x.queue q).free then
          let x := x.setQueue q ((x.queue q).push bs s.clock.eclk)
          s.setCore k (x.settle { o with pushed := o.pushed + u.len, cnt := o.cnt + 1, landed := dropLanded o.landed u.pos u.len })
        else s

/-- A GATHER pops one index (R196): a poisoned index terminates with POISON_CONSUMED, the null index adds a row of zeros, an address outside the claimed region terminates with ADDRESS_FAULT before any access, any other adds the row. -/
def State.gatherIndex (s : State) (k c : Nat) (o : Op) (b : GatherB) (bs : List PByte) : State :=
  let x := s.core k
  let n := ofLe (bs.map (·.1))
  let o := { o with popped := o.popped + 4 }
  if bs.any (·.2) then s.abort c tPoison o.st o.pc
  else if n = 0xFFFFFFFF then
    let pos := segBytes o.src
    let zeros := List.replicate b.rbytes ((0, false) : PByte)
    s.setCore k (x.settle { o with src := o.src ++ [⟨none, b.rbytes⟩], landed := putLanded o.landed pos zeros })
  else
    let a := o.col0 + n * b.istr * 64
    if a < o.region.1 ∨ o.region.1 + o.region.2 < a + b.rbytes then s.abort c tAddressFault o.st o.pc
    else s.setCore k (x.settle { o with src := o.src ++ [⟨some a, b.rbytes⟩] })

/-- QUEUE_POP (R130, R132, R188, R196): the next pop unit of the oldest QSTORE or GATHER whose turn it is leaves the queue once its bytes are present. -/
def execQueuePop (c q : Nat) (qerr : List QErr) (s : State) : Host.Outcome State Fault Refusal :=
  guardWf (Instr.wf (.queuePop c q qerr)) s fun s =>
    match s.phys c with
    | none => s
    | some k =>
      let s := s.meetErrs k qerr
      let x := s.core k
      match (x.ops.filter (fun o => o.st == .a && o.popsFrom q)).head? with
      | none => s
      | some o =>
        match o.ins with
        | .qstore _ _ =>
          (match nthUnit o.dst 0 o.cnt with
           | none => s
           | some u =>
             if u.len ≤ (x.queue q).bytes.length then
               let bs := (x.queue q).front u.len
               let y := x.setQueue q ((x.queue q).pop u.len s.clock.eclk)
               s.setCore k (y.setOp { o with popped := o.popped + u.len, cnt := o.cnt + 1, landed := putLanded o.landed u.pos bs })
             else s)
        | .gather _ b =>
          if 4 ≤ (x.queue q).bytes.length then
            let bs := (x.queue q).front 4
            (s.setCore k (x.setQueue q ((x.queue q).pop 4 s.clock.eclk))).gatherIndex k c o b bs
          else s
        | _ => s

end Sys2Proof.Machine
end

