-- ==== Sys2Proof/Machine/Arrays.lean ====
section
/-! DEFINITION. The outer-product arrays (03): steps, preloads, mode changes, accumulator sets, the spread's read ports, strolls and ramps. -/

namespace Sys2Proof.Machine

/-! ### Accumulator sets -/

/-- A set of an array, by quadrant and set; unlisted sets of an array with undefined contents are undefined (R93, R549). -/
def Arr.set (a : Arr) (key : Nat) : AccSet := Tab.get a.sets { AccSet.reset with undef := a.undef } key

/-- Set a set of an array. -/
def Arr.putSet (a : Arr) (key : Nat) (v : AccSet) : Arr := { a with sets := Tab.put a.sets key v }

/-- The value of a cell: listed, or free where the set is undefined, or +0. -/
def AccSet.cell (v : AccSet) (i j : Nat) : Word32 :=
  match Tab.find v.cells (32 * i + j) with
  | some w => w
  | none =>
    match v.undef with
    | some t => Config.freeCell t (32 * i + j)
    | none => 0

/-- Set a cell's value and poison bit. -/
def AccSet.putCell (v : AccSet) (i j : Nat) (w : Word32) (p : Bool) : AccSet :=
  let n := 32 * i + j
  { v with cells := Tab.put v.cells n w, poison := if p then insertNat n v.poison else v.poison.filter (fun x => x != n) }

/-- A cell's poison bit. -/
def AccSet.bad (v : AccSet) (i j : Nat) : Bool := v.poison.contains (32 * i + j)

/-- The set an instruction names (R83): array and key. -/
def setOf (i : Ovt) : Option (Nat × Nat) :=
  match i with
  | .ops _ b => if b.steps = 0 then none else some (b.arr, setKey b.quad b.set)
  | .preload _ b => some (b.arr, setKey b.quad b.set)
  | .drain _ b => some (b.arr, setKey b.quad b.set)
  | _ => none

/-- An operation is finished with its set: a drain once it has read its last row, another with its completion. -/
def Op.setDone (x : Op) : Bool :=
  match x.ins with
  | .drain _ _ => decide (x.region.1 ≤ x.cnt)
  | _ => false

/-- Operations on one set take effect in issue order (R83): no earlier operation on the instruction's set is unfinished. -/
def Core.setTurn (c : Core) (o : Op) : Bool :=
  c.ops.all (fun x => !(decide (x.id < o.id) && setOf x.ins == setOf o.ins && !x.setDone))

/-- Rows a FULL preload has still to write, with the queue bytes of one. -/
def preloadLeft (x : Op) (b : PreloadB) : Nat × Nat := (b.m + 1 - x.cnt, (b.n + 1) * (widthOf b.pt / 8))

/-- A step may enter behind an operation on its set (R86, R87): a FULL preload that has written row 0 and whose other rows are present, a drain that has read row 0. -/
def Core.letsStep (c : Core) (x : Op) : Bool :=
  match x.ins with
  | .preload _ b =>
    b.pmode == 3 && x.cnt != 0 && c.popTurn x b.pq && decide ((preloadLeft x b).1 * (preloadLeft x b).2 ≤ (c.queue b.pq).bytes.length)
  | .drain _ _ => x.cnt != 0
  | _ => false

/-- The operations on its set leave a step free to enter (R83, R86, R87). -/
def Core.stepTurn (c : Core) (o : Op) : Bool :=
  c.ops.all (fun x => !(decide (x.id < o.id) && setOf x.ins == setOf o.ins && !x.setDone && !c.letsStep x))

/-- The operation in progress at a port (R565). -/
def Core.inPort (c : Core) (arr quad port : Nat) : Option Op := ((c.arr arr).port quad port).head?.bind c.op

/-- The X-stream waits for a port no longer, where the port of its next instruction has room (R565). -/
def Core.freePort (c : Core) : Core :=
  if c.x.stall = 9 ∧ c.x.next.any (fun i => portRoom c i && groupRoom c i) then { c with x := { c.x with state := 2, stall := 0 } } else c

/-- An operation leaves its port. -/
def Core.leavePort (c : Core) (o : Op) : Core :=
  match portOf o.ins with
  | some (a, q, p) => (c.updArr a (fun x => x.setPort q p ((x.port q p).filter (fun i => i != o.id)))).freePort
  | none => c

/-! ### Step operands (R76, R205, R112 to R116) -/

/-- An operand value with its poison mark. -/
abbrev PNum := Num × Bool

/-- Exact operand value of an element (R51); an MX element beyond the FP32 maximum is Inf with OVF. -/
def operand (code elem scale : Nat) : Num × Fl :=
  if isMx code then
    let w := widenMx code elem scale
    (val32 w.1, w.2)
  else (val32 (widenFp code elem), 0)

/-- The queue pulls of one step of an OPS, in order west elements, west scales, north elements, north scales (R205): queue and bytes. -/
def stepPulls (b : OpsB) (r k : Nat) : List (Nat × Nat) :=
  let sc := decide (r * k % 32 = 0)
  (if b.wsrc < 16 then [(b.wsrc, (b.m + 1) * r * widthOf b.ta / 8)] else []) ++
  (if b.wsrc < 16 ∧ isMx b.ta ∧ sc then [(b.wsq, b.m + 1)] else []) ++
  (if b.nsrc < 16 then [(b.nsrc, (b.n + 1) * r * widthOf b.tb / 8)] else []) ++
  (if b.nsrc < 16 ∧ isMx b.tb ∧ sc then [(b.nsq, b.n + 1)] else [])

/-- Bytes a list of pulls takes from one queue. -/
def pullBytes (l : List (Nat × Nat)) (q : Nat) : Nat := sumOf ((l.filter (fun p => p.1 == q)).map (·.2))

/-- The data of each pull, one after another from the front of its queue. -/
def pullData (c : Core) : List (Nat × Nat) → List (Nat × Nat) → List (List PByte)
  | _, [] => []
  | done, p :: r => ((c.queue p.1).front (pullBytes done p.1 + p.2)).drop (pullBytes done p.1) :: pullData c (done ++ [p]) r

/-- The lanes of a queue operand: `n` lanes of `r` contiguous elements, each with its lane's scale. -/
def queueLanes (code r n : Nat) (bs sc : List PByte) : List (List (PNum × Fl)) :=
  let es := unpackElems code (n * r) (bs.map (·.1))
  let w := widthOf code
  (List.range n).map (fun i =>
    let s := sc.getD i (0, false)
    (List.range r).map (fun j =>
      let e := i * r + j
      let bad := ((bs.drop (w * e / 8)).take ((w * e + w - 1) / 8 + 1 - w * e / 8)).any (·.2)
      let v := operand code (es.getD e 0) s.1.toNat
      ((v.1, bad || (isMx code && s.2)), v.2)))

/-- One byte of a spread bank with its mark; free where the bank is undefined. -/
def Spread.byte (t : Spread) (k : Nat) : PByte :=
  let v := match Tab.find t.bytes k with
    | some x => x
    | none =>
      match t.undef with
      | some tag => Config.freeByte tag k
      | none => 0
  (v, t.poison.contains (k / 8))

/-- The tile element at a row and column of a spread bank, with its scale (R43, R194). -/
def Spread.elem (t : Spread) (row col : Nat) : PNum × Fl :=
  let w := widthOf t.type
  let base := row * packedLen t.type t.cols
  let lo := w * col / 8
  let hi := (w * col + w - 1) / 8
  let bs := (List.range (hi + 1 - lo)).map (fun i => t.byte (base + lo + i))
  let e := ofLe (bs.map (·.1)) / 2 ^ (w * col % 8) % 2 ^ w
  let s := if !isMx t.type then (0, false)
    else if t.bax = 0 then t.byte (32768 + row * (t.cols / 32) + col / 32)
    else t.byte (32768 + row / 32 * t.cols + col)
  let v := operand t.type e s.1.toNat
  ((v.1, bs.any (·.2) || s.2), v.2)

/-- West lanes read through the column port: `r` consecutive columns of consecutive rows (R112, R203). -/
def columnPort (t : Spread) (b : OpsB) (r k : Nat) : List (List (PNum × Fl)) :=
  (List.range (b.m + 1)).map (fun i => (List.range r).map (fun j => t.elem (32 * b.soff + i) (b.sk + r * k + j)))

/-- North lanes read through the row port: `r` consecutive rows of consecutive columns. -/
def rowPort (t : Spread) (b : OpsB) (r k : Nat) : List (List (PNum × Fl)) :=
  (List.range (b.n + 1)).map (fun i => (List.range r).map (fun j => t.elem (b.sk + r * k + j) (32 * b.soff + i)))

/-- The scale bytes in force for a lane group of an OPS: kept by the instruction from one block to the next. West lanes are kept at positions 0 to 31, north lanes from 32. -/
def keptScales (o : Op) (base n : Nat) : List PByte := (List.range n).map (fun i => Tab.get o.landed (0, false) (base + i))

/-- West lanes, north lanes and the instruction with its scales renewed, for one step. -/
def stepLanes (c : Core) (o : Op) (b : OpsB) (r : Nat) : List (List (PNum × Fl)) × List (List (PNum × Fl)) × Op :=
  let pulls := stepPulls b r o.cnt
  let data := pullData c [] pulls
  let sc := decide (r * o.cnt % 32 = 0)
  let wq := decide (b.wsrc < 16)
  let nq := decide (b.nsrc < 16)
  let wi := 0
  let wsi := wi + bit wq
  let ni := wsi + bit (wq && isMx b.ta && sc)
  let nsi := ni + bit nq
  let o := if wq && isMx b.ta && sc then { o with landed := putLanded o.landed 0 (data.getD wsi []) } else o
  let o := if nq && isMx b.tb && sc then { o with landed := putLanded o.landed 32 (data.getD nsi []) } else o
  let bank := Tab.get c.spreads Spread.reset (2 * (b.arr / 2) + b.sbank)
  let w := if wq then queueLanes b.ta r (b.m + 1) (data.getD wi []) (keptScales o 0 (b.m + 1)) else columnPort bank b r o.cnt
  let n := if nq then queueLanes b.tb r (b.n + 1) (data.getD ni []) (keptScales o 32 (b.n + 1)) else rowPort bank b r o.cnt
  (w, n, o)

/-- One K-step of a cell (R62, R63, R90): the exact sum of the accumulator and the products of the real positions, rounded once; a poisoned operand poisons the cell. -/
def cellStep (a : Word32) (p : Bool) (west north : List (PNum × Fl)) (real : Nat) : Word32 × Bool × Fl :=
  let w := west.take real
  let n := north.take real
  let prods := (w.zip n).map (fun e => mulExact e.1.1.1 e.2.1.1)
  let s := sumExact (val32 a :: prods.map (·.1))
  let r := finish32 s
  let fl := prods.foldl (fun f x => f ||| x.2) r.2
  let nan := if (w ++ n).any (fun e => e.1.1.isNan) then Fl.nanIn else 0
  let ov := (w ++ n).foldl (fun f e => f ||| e.2) 0
  (r.1, p || (w ++ n).any (fun e => e.1.2), fl ||| nan ||| ov)

/-- One K-step of a set's active region, with the K-step count (R65, R75, R94); LONG_K where the count would pass 2^24 (R245). -/
def AccSet.step (v : AccSet) (west north : List (List (PNum × Fl))) (real : Nat) : AccSet × Fl :=
  let cells := west.zipIdx.flatMap (fun wi => north.zipIdx.map (fun nj => (wi.2, nj.2, cellStep (v.cell wi.2 nj.2) (v.bad wi.2 nj.2) wi.1 nj.1 real)))
  let v' := cells.foldl (fun (t : AccSet) e => t.putCell e.1 e.2.1 e.2.2.1 e.2.2.2.1) v
  let kc := min (2 ^ 24) (v.kc + 1)
  let fl := cells.foldl (fun f e => f ||| e.2.2.2.2) (0 : Fl)
  ({ v' with kc := kc, region := some (west.length, north.length) }, if v.kc = 2 ^ 24 then fl ||| Fl.longK else fl)

/-- The ramp of an array that takes a step (R119): from idle a ramp-up starts at its first stage, from a ramp-down at the stage reached, of 0/8 at 1/8, the least that admits a step. DEDUCED (log 69). -/
def Arr.stepRamp (a : Arr) (t : Nat) : Arr :=
  match a.ramp with
  | .rest => { a with ramp := .up 1, lastStep := t, stageAt := t, gap := 0 }
  | .idle => { a with ramp := .up 1, lastStep := t, stageAt := t, gap := 0 }
  | .down n => { a with ramp := .up (max 1 n), lastStep := t, stageAt := t, gap := 0 }
  | _ => { a with lastStep := t, gap := 0 }

/-- A step may enter a quadrant in ECLK `t`: none has entered before it that occupies the array still (R77), and the stage of a ramp-up admits it (R119). -/
def Arr.admits (a : Arr) (quad t : Nat) : Bool :=
  decide (Tab.get a.nextAt 0 quad ≤ t) &&
  (match a.ramp with
   | .up n => decide ((t - a.stageAt) % 8 < n)
   | _ => true)

/-- ECLK for which one step occupies the array: 2 at FP32 (R77). -/
def stepTime (b : OpsB) : Nat := if b.ta = 0 ∨ b.tb = 0 then 2 else 1

/-- The spread ports that an OPS reads (R112, R115): 2 × pair, plus 0 for the column port, 1 for the row port. -/
def spreadPorts (b : OpsB) : List Nat :=
  (if b.wsrc = 16 then [2 * (b.arr / 2)] else []) ++ (if b.nsrc = 16 then [2 * (b.arr / 2) + 1] else [])

/-- Products of the step: KTAIL in the last step where it is not 0, else the rank (R76). -/
def realK (b : OpsB) (r k : Nat) : Nat := if k + 1 = b.steps ∧ b.ktail ≠ 0 then b.ktail else r

/-- One step of one OPS (R75, R76, R205): its set, its flags, its step count; after the last step it leaves the port and completes. The queues are popped by the caller. -/
def State.stepOne (s : State) (k : Nat) (o : Op) (c0 : Core) : State :=
  match o.ins with
  | .ops _ b =>
    match rankOf b.ta b.tb with
    | none => s
    | some r =>
      let (w, n, o') := stepLanes c0 o b r
      let c := s.core k
      let a := c.arr b.arr
      let key := setKey b.quad b.set
      let (v, fl) := (a.set key).step w n (realK b r o.cnt)
      let t := s.clock.eclk
      let a := { (a.putSet key v).stepRamp t with nextAt := Tab.put a.nextAt b.quad (t + stepTime b) }
      let o' := { o' with cnt := o.cnt + 1 }
      let c := { c with portUse := (spreadPorts b).foldl (fun u p => Tab.put u p (t, b.arr)) c.portUse }
      let c := (c.setArr b.arr a).setOp o'
      let c := if o'.cnt = b.steps then (c.leavePort o').finish o' else c
      ((s.setCore k c).raise k fl).addFld (rAstep k b.arr) 63 0 (if a.qm then 1 else 4)
  | _ => s

/-- Queues an OPS names on an edge: west (`true`) or north, with their scale queues. -/
def edgeQueues (i : Ovt) (west : Bool) : List Nat :=
  match i with
  | .ops _ b =>
    if west then (if b.wsrc < 16 then b.wsrc :: (if isMx b.ta then [b.wsq] else []) else [])
    else (if b.nsrc < 16 then b.nsrc :: (if isMx b.tb then [b.nsq] else []) else [])
  | _ => []

/-- Two members of a linked group share an edge queue (R81, R208). -/
def sharesQueue (a b : Op) : Bool :=
  (edgeQueues a.ins true).any (fun q => (edgeQueues b.ins true).contains q) ||
  (edgeQueues a.ins false).any (fun q => (edgeQueues b.ins false).contains q)

/-- The members that advance together: closed under sharing, `fuel` times. -/
def together (all : List Op) : Nat → List Op → List Op
  | 0, l => l
  | f + 1, l => together all f (all.filter (fun o => l.any (fun x => x.id == o.id || sharesQueue x o)))

/-- The pulls of a member's next step. -/
def memberPulls (o : Op) : List (Nat × Nat) :=
  match o.ins with
  | .ops _ b =>
    match rankOf b.ta b.tb with
    | some r => stepPulls b r o.cnt
    | none => []
  | _ => []

/-- A member may step but for the spread's ports: it is in progress at its port, the array admits it, its group is closed, its set is free, its queues hold the step and it is its turn to pop them (R77, R79, R83, R119, R130, R208). -/
def Core.stepHeld (c : Core) (t : Nat) (o : Op) : Bool :=
  (match o.ins with
   | .ops _ b => ((c.inPort b.arr b.quad 0).map Op.id) == some o.id && (c.arr b.arr).admits b.quad t
   | _ => false) &&
  !o.group.isEmpty && c.stepTurn o &&
  (memberPulls o).all (fun p => decide (pullBytes (memberPulls o) p.1 ≤ (c.queue p.1).bytes.length) && c.popTurn o p.1)

/-- The members that step with an operation. -/
def Core.members (c : Core) (o : Op) : List Op :=
  let g := o.group.filterMap c.op
  together g g.length [o]

/-- A port of a spread serves an array in ECLK `t` (R115): it serves no other array in that ECLK, and an odd array yields it to a step of the even one. -/
def Core.portFree (c : Core) (t arr port : Nat) : Bool :=
  (match Tab.find c.portUse port with
   | some e => e.1 != t || e.2 == arr
   | none => true) &&
  (arr % 2 == 0 ||
    (List.range 4).all (fun q =>
      match c.inPort (arr - 1) q 0 with
      | some x =>
        (match x.ins with
         | .ops _ b => !((spreadPorts b).contains port && (c.members x).all (c.stepHeld t))
         | _ => true)
      | none => true))

/-- A member may step in ECLK `t`. -/
def Core.stepReady (c : Core) (t : Nat) (o : Op) : Bool :=
  c.stepHeld t o &&
  (match o.ins with
   | .ops _ b => (spreadPorts b).all (c.portFree t b.arr)
   | _ => false)

/-- Pop the shared queues once: each by the most that a member takes from it (R81). -/
def Core.popShared (c : Core) (l : List Op) (t : Nat) : Core :=
  let qs := (l.flatMap (fun o => (memberPulls o).map (·.1))).dedup
  qs.foldl (fun c q => c.setQueue q ((c.queue q).pop (maxOf (l.map (fun o => pullBytes (memberPulls o) q))) t)) c

/-- A parity error in an accumulator element sets the poison bit of that cell's set (R444) and is an event of the array. -/
def State.parity (s : State) (k arr quad : Nat) (o : Op) (errs : List Nat) : State :=
  match o.ins with
  | .ops _ b =>
    let key := setKey quad b.set
    errs.foldl (fun s n =>
      (s.updCore k (fun c => c.updArr arr (fun a => let v := a.set key; a.putSet key { v with poison := insertNat n v.poison }))).unitEvent
        (unitArray k arr) evUe 0) s
  | _ => s

/-- Groups in error of the spread bank that a step reads (R444, R454): a correction is an event of the core; an uncorrectable group is marked and recorded once. -/
def State.spreadErrs (s : State) (k : Nat) (o : Op) (errs : List (Nat × Bool)) : State :=
  match o.ins with
  | .ops _ b =>
    let key := 2 * (b.arr / 2) + b.sbank
    if b.wsrc = 16 ∨ b.nsrc = 16 then
      errs.foldl (fun s g =>
        let t := Tab.get (s.core k).spreads Spread.reset key
        if t.poison.contains g.1 then s
        else if g.2 then s.unitEvent (unitCore k) evCe 0
        else (s.updCore k (fun c => { c with spreads := Tab.put c.spreads key { t with poison := insertNat g.1 t.poison } })).unitEvent
          (unitCore k) evUe 0) s
    else s
  | _ => s

/-! ### The instructions -/

/-- OPS (R203 to R208, R565). -/
def execOps (c : Nat) (cf : Cf) (b : OpsB) (s : State) : Host.Outcome State Fault Refusal :=
  guardWf (Instr.wf (.ops c cf b)) s fun s => s.request c .x (.ops cf b)

/-- AMODE (R93, R201, R565): accepted where no port of the array holds more than one operation; the mode changes by MODE_CHANGE. -/
def execAmode (c : Nat) (cf : Cf) (b : AmodeB) (s : State) : Host.Outcome State Fault Refusal :=
  guardWf (Instr.wf (.amode c cf b)) s fun s => s.request c .x (.amode cf b)

/-- PRELOAD (R86, R202, R565). -/
def execPreload (c : Nat) (cf : Cf) (b : PreloadB) (s : State) : Host.Outcome State Fault Refusal :=
  guardWf (Instr.wf (.preload c cf b)) s fun s => s.request c .x (.preload cf b)

/-! ### The events -/

/-- MODE_CHANGE (R91 to R93, R201): once every earlier operation on the array has finished, the array changes mode; every set is undefined, its poison bits clear and its count 0, and the AMODE completes. DESIGN CHOICE (log 5). -/
def execModeChange (c arr : Nat) (s : State) : Host.Outcome State Fault Refusal :=
  guardWf (Instr.wf (.modeChange c arr)) s fun s =>
    match s.phys c with
    | none => s
    | some k =>
      let x := s.core k
      match (x.arr arr).amode.bind x.op with
      | none => s
      | some o =>
        match o.ins with
        | .amode _ b =>
          if (x.ops.all (fun y => !((setOf y.ins).map (·.1) == some arr))) then
            let (tag, s) := s.fresh
            let a := { (x.arr arr) with qm := b.qm, ta := b.ta, tb := b.tb, sets := [], named := [], amode := none, undef := some tag }
            s.setCore k ((x.setArr arr a).finish o)
          else s
        | _ => s

/-- A preload's set before its first row: every cell of the array or quadrant +0, poison clear, count 0, the region named (R90, R202). -/
def preloadBase (b : PreloadB) : AccSet := ⟨some (b.m + 1, b.n + 1), 0, [], [], none⟩

/-- Write a row of values into a set. -/
def AccSet.putRow (v : AccSet) (i : Nat) (l : List PWord) : AccSet :=
  l.zipIdx.foldl (fun (t : AccSet) e => t.putCell i e.2 e.1.1 e.1.2) v

/-- Values of a preload's vector or row (R85). -/
def preloadCount (b : PreloadB) : Nat :=
  match b.pmode with
  | 0 => 0
  | 2 => b.m + 1
  | _ => b.n + 1

/-- One effect of a preload: ZERO, ROWB or COLB whole, FULL its next row (R86); a NaN that enters a cell raises NAN_IN (R73). -/
def State.preloadRow (s : State) (k arr quad : Nat) (o : Op) (b : PreloadB) : State :=
  let x := s.core k
  let len := preloadCount b * (widthOf b.pt / 8)
  let es := if b.pmode = 0 then [] else elemsOf b.pt (preloadCount b) ((x.queue b.pq).front len)
  let x := if b.pmode = 0 then x else x.setQueue b.pq ((x.queue b.pq).pop len s.clock.eclk)
  let key := setKey quad b.set
  let v := if o.cnt = 0 then preloadBase b else (x.arr arr).set key
  let v := match b.pmode with
    | 0 => v
    | 1 => (List.range (b.m + 1)).foldl (fun v i => v.putRow i es) v
    | 2 => (List.range (b.m + 1)).foldl (fun v i => v.putRow i (List.replicate (b.n + 1) (es.getD i (0, false)))) v
    | _ => v.putRow o.cnt es
  let o := { o with cnt := o.cnt + 1 }
  let x := x.updArr arr (fun a => a.putSet key v)
  let last := b.pmode != 3 || decide (o.cnt = b.m + 1)
  (s.setCore k (if last then (x.leavePort o).finish o else x.setOp o)).raise k (nanIn (es.map (·.1)))

/-- The rows that a FULL preload has still to write, one after another (R86). -/
def State.preloadRest (k arr quad id : Nat) (b : PreloadB) : Nat → State → State
  | 0, s => s
  | n + 1, s =>
    match (s.core k).op id with
    | some o => State.preloadRest k arr quad id b n (s.preloadRow k arr quad o b)
    | none => s

/-- A cleared row: +0 and no poison in every cell of it (R87, R90). -/
def AccSet.clearRow (v : AccSet) (i : Nat) : AccSet := (List.range 32).foldl (fun t j => t.putCell i j 0 false) v

/-- A set as a drain of `m` rows that clears leaves it: those rows cleared, count 0 (R65, R87). -/
def AccSet.cleared (v : AccSet) (m : Nat) : AccSet := { (List.range m).foldl AccSet.clearRow v with kc := 0 }

/-- A step enters a set behind an operation that has not finished with it (R86, R87): a FULL preload's rows are written before it, and a drain reads on from what the set held. DEDUCED (log 69). -/
def State.settleSet (s : State) (k : Nat) (o : Op) : State :=
  ((s.core k).ops.filter (fun x => decide (x.id < o.id) && setOf x.ins == setOf o.ins && !x.setDone)).foldl
    (fun s x =>
      match x.ins with
      | .preload _ b => State.preloadRest k b.arr b.quad x.id b (preloadLeft x b).1 s
      | .drain _ b =>
        let key := setKey b.quad b.set
        if x.snap.isSome then s
        else
          s.updCore k (fun c =>
            let v := (c.arr b.arr).set key
            let c := c.setOp { x with snap := some v }
            if b.clr then c.updArr b.arr (fun a => a.putSet key (v.cleared x.region.1)) else c)
      | _ => s) s

/-- PRELOAD_ROW_WRITE (R85, R86, R202): ZERO at once; ROWB and COLB once the vector is present; FULL one row when it is present. -/
def execPreloadRowWrite (c arr quad : Nat) (qerr : List QErr) (s : State) : Host.Outcome State Fault Refusal :=
  guardWf (Instr.wf (.preloadRowWrite c arr quad qerr)) s fun s =>
    match s.phys c with
    | none => s
    | some k =>
      let s := s.meetErrs k qerr
      let x := s.core k
      match x.inPort arr quad 1 with
      | none => s
      | some o =>
        match o.ins with
        | .preload _ b =>
          let len := preloadCount b * (widthOf b.pt / 8)
          if !x.setTurn o || (b.pmode != 0 && (!x.popTurn o b.pq || decide ((x.queue b.pq).bytes.length < len))) then s
          else s.preloadRow k arr quad o b
        | _ => s

/-- ARRAY_STEP_ENTRY (R62, R65, R75 to R82, R90, R92, R94, R205 to R208): the step of the OPS in progress enters whole, with every member of its linked group that shares a queue with it, once every edge queue holds it. `serr` are spread groups found in error, each with whether it was corrected, and `perr` accumulator cells with a parity error (R444). -/
def execArrayStepEntry (c arr quad : Nat) (qerr : List QErr) (serr : List (Nat × Bool)) (perr : List Nat) (s : State) : Host.Outcome State Fault Refusal :=
  guardWf (Instr.wf (.arrayStepEntry c arr quad qerr serr perr)) s fun s =>
    match s.phys c with
    | none => s
    | some k =>
      let s := s.meetErrs k qerr
      let x := s.core k
      match x.inPort arr quad 0 with
      | none => s
      | some o =>
        let l := x.members o
        if l.all (x.stepReady s.clock.eclk) then
          let s := (l.foldl (fun s m => s.settleSet k m) s).spreadErrs k o serr
          let c0 := s.core k
          let s := s.setCore k (c0.popShared l s.clock.eclk)
          let s := l.foldl (fun s m => s.stepOne k m c0) s
          s.parity k arr quad o perr
        else s

/-- The array has a step to enter or takes one in ECLK `t`: some quadrant's step port holds an operation, or a step occupies the array. -/
def Arr.stepping (a : Arr) (t : Nat) : Bool :=
  (List.range 4).any (fun q => !(a.port q 0).isEmpty) || a.nextAt.any (fun e => decide (t < e.2))

/-- STROLL_GAP_EXPIRY (R118, R120, R121): an array that has no step to enter and has strolled for GAP ECLK starts its ramp-down at 7/8. DEDUCED (log 69). -/
def execStrollGapExpiry (c arr : Nat) (s : State) : Host.Outcome State Fault Refusal :=
  guardWf (Instr.wf (.strollGapExpiry c arr)) s fun s =>
    match s.phys c with
    | none => s
    | some k =>
      let a := (s.core k).arr arr
      match a.ramp with
      | .rest => s
      | .idle => s
      | .down _ => s
      | _ =>
        if a.stepping s.clock.eclk ∨ a.gap < a.gapLimit (s.fld (rStroll k) 6 0) then s
        else s.updCore k (fun x => x.setArr arr { a with ramp := .down 7, stageAt := s.clock.eclk, gap := 0 })

/-- RAMP_STAGE (R118, R119): a stage's 32 ECLK are over; a ramp-down falls by one eighth to idle, a ramp-up rises by one eighth to full rate. -/
def execRampStage (c arr : Nat) (s : State) : Host.Outcome State Fault Refusal :=
  guardWf (Instr.wf (.rampStage c arr)) s fun s =>
    match s.phys c with
    | none => s
    | some k =>
      let a := (s.core k).arr arr
      let r := match a.ramp with
        | .down 0 => Ramp.idle
        | .down (n + 1) => Ramp.down n
        | .up n => if 8 ≤ n then Ramp.full else Ramp.up (n + 1)
        | x => x
      if r = a.ramp ∨ s.clock.eclk < a.stageAt + 32 then s
      else s.updCore k (fun x => x.setArr arr { a with ramp := r, stageAt := a.stageAt + 32 })

end Sys2Proof.Machine
end

