-- ==== Sys2Proof/Machine/Approx.lean ====
section
/-! DEFINITION. The functions of the row engine and the drain that the manual bounds to 1 or 2 ulp (02 R48, R49, R70, R71, 03 R98): each value is enclosed in fixed point, and the result is any FP32 value that the bound allows, the same on every device. -/

namespace Sys2Proof.Machine

/-! ### Fixed point: an integer `x` stands for x × 2^(−512), products and quotients rounded down -/

/-- Product. -/
def fxMul (a b : Int) : Int := a * b / 2 ^ 512

/-- Quotient. -/
def fxDiv (a b : Int) : Int := a * 2 ^ 512 / b

/-- One. -/
def fxOne : Int := 2 ^ 512

/-- A finite value. -/
def Num.fx (x : Num) : Int := x.toInt (-512)

/-- x + x³/3 + x⁵/5 + … from the term `t` = x^d, `q` = x². -/
def atanhTerms (q : Int) : Nat → Int → Nat → Int
  | 0, _, _ => 0
  | n + 1, t, d => t / d + atanhTerms q n (fxMul t q) (d + 2)

/-- ln of a ratio in [1, 2]: 2 × artanh((x − 1) / (x + 1)). -/
def fxLnSmall (x : Int) : Int :=
  let y := fxDiv (x - fxOne) (x + fxOne)
  2 * atanhTerms (fxMul y y) 170 y 1

/-- ln 2. -/
def fxLn2 : Int := fxLnSmall (2 * fxOne)

/-- ln of a positive value. -/
def fxLn (x : Int) : Int :=
  let k : Int := (bitLen x.natAbs : Int) - 513
  let m := if 0 ≤ k then x / 2 ^ k.toNat else x * 2 ^ (-k).toNat
  k * fxLn2 + fxLnSmall m

/-- e^x from its series: `t` is the term of degree d − 1. -/
def expTerms (x : Int) : Nat → Int → Nat → Int
  | 0, _, _ => 0
  | n + 1, t, d => t + expTerms x n (fxMul t x / d) (d + 1)

/-- e^(−y) for y ≥ 0; 0 past y = 400, where it is below 2^(−512). -/
def fxExpNeg (y : Int) : Int :=
  if 400 * fxOne < y then 0
  else
    let k := (y / fxLn2).toNat
    expTerms (k * fxLn2 - y) 110 fxOne 1 / 2 ^ k

/-- e^x; past x = 200 a value above every FP32 number. -/
def fxExp (x : Int) : Int := if x ≤ 0 then fxExpNeg (-x) else fxDiv fxOne (fxExpNeg (min x (200 * fxOne)))

/-- σ(x) = 1 / (1 + e^(−x)). -/
def fxSigm (x : Int) : Int :=
  let e := fxExpNeg (Int.ofNat x.natAbs)
  if 0 ≤ x then fxDiv fxOne (fxOne + e) else fxDiv e (fxOne + e)

/-- tanh x = 2σ(2x) − 1. -/
def fxTanh (x : Int) : Int := 2 * fxSigm (2 * x) - fxOne

/-- arctan(1/n) from its series: `t` is the power of 1/n, the signs alternate. -/
def atanTerms (n : Int) : Nat → Int → Nat → Int
  | 0, _, _ => 0
  | k + 1, t, d => t / d - atanTerms n k (t / (n * n)) (d + 2)

/-- π = 16 arctan(1/5) − 4 arctan(1/239). -/
def fxPi : Int := 16 * atanTerms 5 120 (fxOne / 5) 1 - 4 * atanTerms 239 40 (fxOne / 239) 1

/-- √x of a value that is not negative. -/
def fxSqrt (x : Int) : Int := Int.ofNat (isqrt (x.natAbs * 2 ^ 512))

/-- x + x q/3 + x q²/(3 × 5) + … -/
def oddTerms (q : Int) : Nat → Int → Nat → Int
  | 0, _, _ => 0
  | n + 1, t, d => t + oddTerms q n (fxMul t q / d) (d + 2)

/-- erf x = 2/√π × e^(−x²) × (x + 2x³/3 + 4x⁵/15 + …); ±1 past 10.5, where it is nearer than 2^(−160). -/
def fxErf (x : Int) : Int :=
  if 21 * fxOne < 2 * Int.ofNat x.natAbs then (if x < 0 then -fxOne else fxOne)
  else
    let q := fxMul x x
    fxDiv (2 * fxMul (fxExpNeg q) (oddTerms (2 * q) 600 x 3)) (fxSqrt fxPi)

/-- The normal density φ(z) = e^(−z²/2) / √(2π). -/
def fxPhi (z : Int) : Int := fxDiv (fxExpNeg (fxMul z z / 2)) (fxSqrt (2 * fxPi))

/-- Its integral Φ(z) = ½ + φ(z) × (z + z³/3 + z⁵/15 + …); 0 or 1 past ±14.75, where it is nearer than 2^(−160). -/
def fxCdf (z : Int) : Int :=
  if 59 * fxOne < 4 * Int.ofNat z.natAbs then (if z < 0 then 0 else fxOne)
  else fxOne / 2 + fxMul (fxPhi z) (oddTerms (fxMul z z) 600 z 3)

/-- 2s of the tanh form of GELU: s = 0.7978846 (z + 0.044715 z³), and ½(1 + tanh s) = σ(2s). -/
def fxTwoS (z : Int) : Int := 2 * (7978846 * (z + 44715 * fxMul z (fxMul z z) / 1000000)) / 10000000

/-- The derivative of 2s. -/
def fxTwoSd (z : Int) : Int := 2 * (7978846 * (fxOne + 3 * 44715 * fxMul z z / 1000000)) / 10000000

/-- The value of an approximate function at a finite operand (R70, R98). -/
def fxValue (f : Config.Approx) (z : Int) : Int :=
  match f with
  | .rsqrt => fxSqrt (fxDiv fxOne z)
  | .exp => fxExp z
  | .log => fxLn z
  | .tanh => fxTanh z
  | .sigm => fxSigm z
  | .erf => fxErf z
  | .act 2 => fxMul z (fxCdf z)
  | .act 3 => fxMul z (fxSigm (fxTwoS z))
  | .act 4 => fxMul z (fxSigm z)
  | .act 5 => fxSigm z
  | .act _ => fxTanh z
  | .dact 2 => fxCdf z + fxMul z (fxPhi z)
  | .dact 3 => let g := fxTwoS z; fxSigm g + fxMul (fxMul z (fxTwoSd z)) (fxMul (fxSigm g) (fxSigm (-g)))
  | .dact 4 => fxMul (fxSigm z) (fxOne + fxMul z (fxSigm (-z)))
  | .dact 5 => fxMul (fxSigm z) (fxSigm (-z))
  | .dact _ => 4 * fxMul (fxSigm (2 * z)) (fxSigm (-2 * z))

/-! ### The FP32 values that a bound allows -/

/-- FP32 words in ascending order of value as integers, the exponent unbounded above: +Inf is 0x7F800000, −x is minus x. -/
def fxFloor (v : Int) : Int :=
  let c : Int := fp32.roundMag .rtz v.natAbs (-512)
  if 0 ≤ v then c else -(c + 1)

/-- The next FP32 value above. -/
def fxCeil (v : Int) : Int := -fxFloor (-v)

/-- Margin of the fixed-point value: its series are cut far below a relative error of 2^(−128) and an absolute error of 2^(−160). -/
def fxMargin (v : Int) : Int := Int.ofNat (v.natAbs / 2 ^ 128 + 2 ^ 352)

/-- An FP32 word by its place in the order; a zero takes the sign `neg`. -/
def placeWord (n : Int) (neg : Bool) : Word32 :=
  if n < 0 ∨ (n = 0 ∧ neg) then BitVec.ofNat 32 (0x80000000 + n.natAbs) else BitVec.ofNat 32 n.natAbs

/-- The lowest and highest place within `ulps` of a value: the FP32 numbers on its two sides and `ulps − 1` beyond each; past the maximum only where the value is (R49). DESIGN CHOICE (log 7). -/
def places (ulps : Nat) (v : Int) : Int × Int :=
  let top : Int := 0x7F800000
  let lo := fxFloor (v - fxMargin v)
  let hi := fxCeil (v + fxMargin v)
  (min (lo - (ulps - 1)) top, if v ≤ (2 ^ 24 - 1) * 2 ^ (104 + 512) then min (hi + (ulps - 1)) (top - 1) else top)

/-- The result of an approximate function at a finite operand: one of the values its bound allows, free which (R70); +Inf raises OVF (R49). DESIGN CHOICE (log 7). -/
def approx32 (f : Config.Approx) (ulps : Nat) (a : Word32) : Word32 × Fl :=
  let w := Config.approx f a
  let r := places ulps (fxValue f (val32 a).fx)
  let n := r.1 + Int.ofNat (w.toNat % ((r.2 - r.1).toNat + 1))
  (placeWord n (w.toNat / 2 ^ 31 == 1), if n = 0x7F800000 then Fl.ovf else 0)

end Sys2Proof.Machine
end

