-- ==== Sys2Proof/Machine/Drain.lean ====
section
/-! DEFINITION. The drain path (03 R96 to R111, R563, 05 R209 to R211, 06 R238): descriptors, row reads, activation and fused derivative, the top-k tap, narrowing and column blocks. -/

namespace Sys2Proof.Machine

/-! ### Activations (R98, R563) -/

/-- FP32 words the drain and the row engine write. -/
def wOne : Word32 := 0x3F800000
def wNegOne : Word32 := 0xBF800000
def wPosInf : Word32 := 0x7F800000
def wNegInf : Word32 := 0xFF800000
def wNegZero : Word32 := 0x80000000
def wNan : Word32 := 0x7FC00000

/-- The limit at an infinity: the first value at +Inf, the second at −Inf. -/
def limit (neg : Bool) (pos ng : Word32) : Word32 := if neg then ng else pos

/-- f at a value (R98, R563); approximate functions on finite values are open to the bit (R70, log 7). -/
def actF (code : Nat) (z : Word32) : Word32 × Fl :=
  match val32 z with
  | .nan => (wNan, 0)
  | .inf n =>
    (match code with
     | 0 => limit n wPosInf wNegInf
     | 1 => limit n wPosInf 0
     | 5 => limit n wOne 0
     | 6 => limit n wOne wNegOne
     | 7 => limit n wPosInf 0
     | _ => limit n wPosInf wNegZero, 0)
  | .fin n m _ =>
    match code with
    | 0 => (z, 0)
    | 1 => (if m ≠ 0 ∧ !n then z else 0, 0)
    | 7 => if m ≠ 0 ∧ !n then mul32 z z else (0, 0)
    | _ => approx32 (.act code) 2 z

/-- f′ at a value (R98, R100, R563). DESIGN CHOICE (log 7). -/
def actD (code : Nat) (z : Word32) : Word32 × Fl :=
  match val32 z with
  | .nan => (wNan, 0)
  | .inf n =>
    (match code with
     | 0 => wOne
     | 1 => limit n wOne 0
     | 5 => 0
     | 6 => 0
     | 7 => limit n wPosInf 0
     | _ => limit n wOne wNegZero, 0)
  | .fin n m _ =>
    match code with
    | 0 => (wOne, 0)
    | 1 => (if m ≠ 0 ∧ !n then wOne else 0, 0)
    | 7 => if m ≠ 0 ∧ !n then add32 z z else (0, 0)
    | _ => approx32 (.dact code) 2 z

/-! ### Narrowing a row (R41, R56, R58 to R60, R97, R106, R109, R214) -/

/-- Blocks of 32 of a list. -/
def chunks32 {α : Type} (l : List α) : List (List α) := (List.range (ceilDiv l.length 32)).map (fun i => (l.drop (32 * i)).take 32)

/-- Each value with its rounding mode: under SR the draw of the value's element index. -/
def withModes (rmode key step stream : Nat) (xs : List PWord) (ix : List Nat) : List (PWord × RMode) :=
  xs.zipIdx.map (fun e => (e.1, rmodeOf rmode (if rmode = 1 then drawOf key step stream (ix.getD e.2 0) else 0)))

/-- A row narrowed to a type: elements with poison, one scale with poison for each block of an MX type, and the flags. -/
def narrowRow (code rmode key step stream : Nat) (xs : List PWord) (ix : List Nat) : List (Nat × Bool) × List PByte × Fl :=
  let ms := withModes rmode key step stream xs ix
  if isMx code then
    let bs := (chunks32 ms).map (fun b =>
      let r := narrowBlock code (b.map (fun e => (e.1.1, e.2)))
      let bad := b.any (fun e => e.1.2)
      (r.2.1.map (fun e => (e, bad)), ((BitVec.ofNat 8 r.1, bad) : PByte), r.2.2))
    (bs.flatMap (·.1), bs.map (fun b => b.2.1), bs.foldl (fun f b => f ||| b.2.2) 0)
  else
    let es := ms.map (fun e => ((if code = 8 then narrowI8 e.2 e.1.1 else narrowFp code e.2 e.1.1), e.1.2))
    (es.map (fun e => (e.1.1, e.2)), [], es.foldl (fun f e => f ||| e.1.2) 0)

/-- The element indices of a drained row (R97). -/
def rowIndex (o : Op) (d : DescB) (i n : Nat) : List Nat := (List.range n).map (fun j => ((o.row0 + i) * d.ld + o.col0 + j) % 2 ^ 48)

/-! ### Top-k (R102 to R104, R238) -/

/-- `a` ranks above `b`: descending value, −0 equal to +0, NaN last. -/
def outranks (a b : Word32) : Bool :=
  match val32 a, val32 b with
  | .nan, _ => false
  | _, .nan => true
  | x, y => if x.isZero && y.isZero then false else numLt y x

/-- Put an entry after every entry that ranks no lower: equal entries keep their order. -/
def rankIn (f : Nat × Word32 → Nat × Word32 → Bool) (e : Nat × Word32) : List (Nat × Word32) → List (Nat × Word32)
  | [] => [e]
  | x :: r => if f e x then e :: x :: r else x :: rankIn f e r

/-- Columns of a row in top-k order. -/
def ranked (ws : List Word32) : List (Nat × Word32) :=
  ws.zipIdx.foldl (fun l e => rankIn (fun a b => outranks a.2 b.2) (e.2, e.1) l) []

/-- An entry's 64 bits (R103). -/
def topEntry (valid bad : Bool) (row pos value : Nat) : Nat :=
  bit valid * 2 ^ 63 + bit bad * 2 ^ 62 + row % 256 * 2 ^ 48 + pos % 65536 * 2 ^ 32 + value % 2 ^ 32

/-- The k entries of a drained row. -/
def topEntries (k row col0 : Nat) (xs : List PWord) : List Nat :=
  let bad := xs.any (·.2)
  let es := ((ranked (xs.map (·.1))).take k).map (fun e => topEntry true bad row (col0 + e.1) e.2.toNat)
  es ++ List.replicate (k - es.length) (topEntry false bad row 0 0)

/-- Entries as bytes; an entry with POISON = 1 has both words marked (R238). -/
def entryBytes (es : List Nat) : List PByte := es.flatMap (fun e => (toLe 8 e).map (fun b => (b, bits e 62 62 == 1)))

/-! ### Sizes and room -/

/-- Bytes of a row of `n` elements, its scale byte included where `withScale`. -/
def rowBytes (code n : Nat) (withScale : Bool) : Nat := packedLen code n + bit (withScale && isMx code)

/-- The row output is column-blocked (R107). -/
def rowBuffered (d : DescB) : Bool := isMx d.otype && d.baxis == 1

/-- The side output is column-blocked. -/
def sideBuffered (d : DescB) : Bool := d.dmode == 2 && isMx d.stype && d.sbaxis == 1

/-- Queue bytes of a pending push. -/
def pushLoad (d : DescB) (p : Push) : List (Nat × Nat) :=
  match p.kind with
  | .row => (p.q, packedLen d.otype p.vals.length) :: (if isMx d.otype then [(d.osq, 1)] else [])
  | .side => [(p.q, rowBytes d.stype p.vals.length true)]
  | .topk => [(p.q, 8 * d.topk)]

/-- Queue bytes of every pending row, side and top-k push of a core. -/
def Core.pushLoads (c : Core) : List (Nat × Nat) :=
  (List.range 8).flatMap (fun a => (c.arr a).pushes.flatMap (fun p =>
    match (c.op p.op).bind Op.desc with
    | some d => pushLoad d p
    | none => []))

/-- A full column-block buffer of an earlier drain of the array has pushes left to a queue: a later drain's rows are read on behind it (R107). -/
def Arr.bufferedBefore (x : Arr) (c : Core) (o : Op) (q : Nat) : Bool :=
  x.bufs.any (fun b => b.full && decide (b.op < o.id) &&
    (match (c.op b.op).bind Op.desc with
     | some d => (bufQueues d b).contains q
     | none => false))

/-- Every queue has room for the pending pushes and those of one more row (R111). -/
def Core.roomFor (c : Core) (l : List (Nat × Nat)) : Bool :=
  let all := c.pushLoads ++ l
  l.all (fun e => decide (pullBytes all e.1 ≤ (c.queue e.1).free))

/-! ### Reading a row -/

/-- The side row z of a fused drain (R100, R101): its values with poison, and the flags of their widening. -/
def sideRow (d : DescB) (n : Nat) (bs : List PByte) : List PWord × Fl :=
  if isMx d.stype then
    let sc := bs.getD (packedLen d.stype n) (0, false)
    let es := unpackElems d.stype n (bs.map (·.1))
    let w := widthOf d.stype
    let ws := es.map (fun e => widenMx d.stype e sc.1.toNat)
    (ws.zipIdx.map (fun e => (e.1.1, sc.2 || ((bs.drop (w * e.2 / 8)).take ((w * e.2 + w - 1) / 8 + 1 - w * e.2 / 8)).any (·.2))),
     ws.foldl (fun f e => f ||| e.2) 0)
  else (elemsOf d.stype n bs, 0)

/-- The drained row: f(a), or a × f′(z) rounded to FP32 (R99, R100). -/
def drainRow (d : DescB) (a z : List PWord) : List PWord × Fl :=
  let rs := a.zipIdx.map (fun e =>
    if d.dmode = 1 then
      let zj := z.getD e.2 (0, false)
      let g := actD d.act zj.1
      let r := mul32 e.1.1 g.1
      (((r.1, e.1.2 || zj.2) : PWord), g.2 ||| r.2)
    else
      let r := actF d.act e.1.1
      (((r.1, e.1.2) : PWord), r.2))
  (rs.map (·.1), rs.foldl (fun f e => f ||| e.2) 0)

/-- The pushes of one row that do not pass a column-block buffer, in the order of R211. -/
def rowPushes (o : Op) (d : DescB) (i : Nat) (a y : List PWord) : List Push :=
  (if d.dmode = 2 ∧ !sideBuffered d then [⟨o.id, .side, d.sq, i, a⟩] else []) ++
  (if d.topk ≠ 0 then [⟨o.id, .topk, d.kq, i, y⟩] else []) ++
  (if rowBuffered d then [] else [⟨o.id, .row, d.oq, i, y⟩])

/-- Store a row in the drain's column-block buffers; the last row makes them full. -/
def Arr.store (x : Arr) (o : Op) (a y : List PWord) (last : Bool) : Arr :=
  { x with bufs := x.bufs.map (fun b =>
      if b.op = o.id then { b with rows := b.rows ++ [if b.side then a else y], full := last } else b) }

/-- A drain finishes once it has read every row and pushed everything (R111, R147). -/
def Core.drainEnd (c : Core) (arr : Nat) (o : Op) : Core :=
  if o.region.1 ≤ o.cnt ∧ (c.arr arr).pushes.all (fun p => p.op != o.id) ∧ (c.arr arr).bufs.all (fun b => b.op != o.id) then c.finish o
  else c.setOp o

/-- Column-block buffers a drain takes before its first row (R107). -/
def newBufs (o : Op) (d : DescB) : List ColBuf :=
  (if rowBuffered d then [⟨o.id, false, [], false, 0⟩] else []) ++ (if sideBuffered d then [⟨o.id, true, [], false, 0⟩] else [])

/-- The conditions of a row read that do not concern the array's set (R101, R107, R111). -/
def Core.readReady (c : Core) (arr : Nat) (o : Op) (d : DescB) (n : Nat) : Bool :=
  (o.cnt != 0 || decide ((c.arr arr).bufs.length + (newBufs o d).length ≤ 2)) &&
  (d.dmode != 1 || (c.popTurn o d.sq && decide (rowBytes d.stype n true ≤ (c.queue d.sq).bytes.length))) &&
  c.roomFor (((rowPushes o d o.cnt (List.replicate n (0, false)) (List.replicate n (0, false))).flatMap (pushLoad d)).filter
    (fun e => !(c.arr arr).bufferedBefore c o e.1))

/-- Read row `o.cnt` of a drain under its descriptor, from the contents the set had before a later step entered it (R87). -/
def State.readRow (s : State) (k arr quad : Nat) (o : Op) (b : DrainB) (d : DescB) : State :=
  let c := s.core k
  let n := o.region.2
  let i := o.cnt
  let key := setKey quad b.set
  let now := (c.arr arr).set key
  let v := o.snap.getD now
  let a : List PWord := (List.range n).map (fun j => (v.cell i j, v.bad i j))
  let side := rowBytes d.stype n true
  let z := if d.dmode = 1 then sideRow d n ((c.queue d.sq).front side) else ([], 0)
  let c := if d.dmode = 1 then c.setQueue d.sq ((c.queue d.sq).pop side s.clock.eclk) else c
  let y := drainRow d a z.1
  let last := decide (i + 1 = o.region.1)
  let v := if b.clr ∧ o.snap = none then (let v' := now.clearRow i; if last then { v' with kc := 0 } else v') else now
  let c := c.updArr arr (fun x =>
    let x := { x.putSet key v with pushes := x.pushes ++ rowPushes o d i a y.1, bufs := x.bufs ++ (if i = 0 then newBufs o d else []) }
    x.store o a y.1 last)
  let o := { o with cnt := i + 1 }
  let c := if last then c.leavePort o else c
  (s.setCore k (c.drainEnd arr o)).raise k (z.2 ||| y.2)

/-! ### The instructions -/

/-- DDESC (R209, R210): loads a descriptor. -/
def execDdesc (c dd : Nat) (d : DescB) (s : State) : Host.Outcome State Fault Refusal :=
  guardWf (Instr.wf (.ddesc c dd d)) s fun s => s.control c .x (.ddesc dd d) (fun x => { x with dds := Tab.put x.dds dd d })

/-- DRAIN (R210, R211, R565): its descriptor, its region and its origin are taken at issue. -/
def execDrain (c : Nat) (cf : Cf) (b : DrainB) (s : State) : Host.Outcome State Fault Refusal :=
  guardWf (Instr.wf (.drain c cf b)) s fun s => s.request c .x (.drain cf b)

/-! ### The events -/

/-- DRAIN_ROW_READ (R83, R87, R94, R97 to R101, R107, R111, R211): reads one row of the draining set. A drain of a set that nothing has named reads no row (Pyist rejects it, R210). DESIGN CHOICE (log 17). -/
def execDrainRowRead (c arr quad : Nat) (qerr : List QErr) (s : State) : Host.Outcome State Fault Refusal :=
  guardWf (Instr.wf (.drainRowRead c arr quad qerr)) s fun s =>
    match s.phys c with
    | none => s
    | some k =>
      let s := s.meetErrs k qerr
      let x := s.core k
      match x.inPort arr quad 2 with
      | none => s
      | some o =>
        match o.ins, o.desc with
        | .drain _ b, some d =>
          if !x.setTurn o then s
          else if o.region.1 = 0 then s.setCore k ((x.leavePort o).finish o)
          else if x.readReady arr o d o.region.2 then s.readRow k arr quad o b d
          else s
        | _, _ => s.setCore k ((x.leavePort o).finish o)

/-- The program key of a logical core's partition (R56). -/
def State.genKey (s : State) (c : Nat) : Nat := ((s.partOf c).map (fun p => (s.part p).key)).getD 0

/-- The element and scale bytes of a pending row or side push, narrowed (R105, R106, R109). -/
def State.rowOut (s : State) (c : Nat) (o : Op) (d : DescB) (p : Push) : List PByte × List PByte × Fl :=
  let (code, rm) := match p.kind with
    | .side => (d.stype, d.srmode)
    | _ => (d.otype, d.rmode)
  let r := narrowRow code rm (s.genKey c) o.step d.stream p.vals (rowIndex o d p.row p.vals.length)
  (packMarked code r.1, r.2.1, r.2.2)

/-- It is the turn of an instruction's pushes on a queue (R107, R130). -/
def Core.turnOf (c : Core) (id q : Nat) : Bool := (c.op id).any (fun o => c.pushTurn o q)

/-- Remove one pending push. -/
def Arr.dropPush (x : Arr) (p : Push) : Arr := { x with pushes := x.pushes.erase p }

/-- DRAIN_PUSH (R105, R106, R109, R111): the first drained or side row waiting for the queue is narrowed and pushed, its MX scale byte with it (a side row's behind its elements); it holds while a queue has no room. -/
def execDrainPush (c arr q : Nat) (s : State) : Host.Outcome State Fault Refusal :=
  guardWf (Instr.wf (.drainPush c arr q)) s fun s =>
    match s.phys c with
    | none => s
    | some k =>
      let x := s.core k
      match (x.arr arr).pushes.find? (fun p => p.kind != .topk && p.q == q && x.turnOf p.op q) with
      | none => s
      | some p =>
        match x.op p.op with
        | none => s
        | some o =>
          match o.desc with
          | none => s
          | some d =>
            let load := pushLoad d p
            if load.all (fun e => x.pushTurn o e.1 && decide (pullBytes load e.1 ≤ (x.queue e.1).free)) then
              let r := s.rowOut c o d p
              let t := s.clock.eclk
              let y := match p.kind with
                | .side => x.setQueue q ((x.queue q).push (r.1 ++ r.2.1) t)
                | _ =>
                  let y := x.setQueue q ((x.queue q).push r.1 t)
                  if isMx d.otype then y.setQueue d.osq ((y.queue d.osq).push r.2.1 t) else y
              (s.setCore k ((y.updArr arr (fun a => a.dropPush p)).drainEnd arr o)).raise k r.2.2
            else s

/-- TOPK_PUSH (R102 to R104, R111, R238): the k entries of the first row waiting are pushed once the queue has room. -/
def execTopkPush (c arr q : Nat) (s : State) : Host.Outcome State Fault Refusal :=
  guardWf (Instr.wf (.topkPush c arr q)) s fun s =>
    match s.phys c with
    | none => s
    | some k =>
      let x := s.core k
      match (x.arr arr).pushes.find? (fun p => p.kind == .topk && p.q == q && x.turnOf p.op q) with
      | none => s
      | some p =>
        match x.op p.op with
        | none => s
        | some o =>
          match o.desc with
          | none => s
          | some d =>
            if 8 * d.topk ≤ (x.queue q).free then
              let bs := entryBytes (topEntries d.topk p.row o.col0 p.vals)
              let y := x.setQueue q ((x.queue q).push bs s.clock.eclk)
              s.setCore k ((y.updArr arr (fun a => a.dropPush p)).drainEnd arr o)
            else s

/-- One column block of a full buffer: the column's values over 32 rows, padded with +0 (R44, R107). -/
def colBlock (b : ColBuf) (j : Nat) : List PWord := (List.range 32).map (fun i => (b.rows.getD i []).getD j (0, false))

/-- The element indices of a column (R97). -/
def colIndex (o : Op) (d : DescB) (j : Nat) : List Nat := (List.range 32).map (fun i => ((o.row0 + i) * d.ld + o.col0 + j) % 2 ^ 48)

/-- The blocks of a full buffer, one for each active column: 32 elements, scale, flags. -/
def State.colBlocks (s : State) (c : Nat) (o : Op) (d : DescB) (b : ColBuf) : List (List (Nat × Bool) × List PByte × Fl) :=
  let (code, rm) := if b.side then (d.stype, d.srmode) else (d.otype, d.rmode)
  (List.range o.region.2).map (fun j => narrowRow code rm (s.genKey c) o.step d.stream (colBlock b j) (colIndex o d j))

/-- The queue of a buffer's next push. -/
def bufNext (d : DescB) (b : ColBuf) : Nat := if b.side then d.sq else if b.made = 0 then d.osq else d.oq

/-- Where row `i` of a column-blocked output begins in its bytes: the rows of `n` elements follow one another without padding (R45, R251). -/
def rowStart (code n i : Nat) : Nat := i * n * widthOf code / 8

/-- COLUMN_BLOCK_EMIT (R107, R109, R111): a full buffer's next push, its scale bytes and then its 32 narrowed rows; the buffer is free once its last row is pushed. -/
def execColumnBlockEmit (c arr q : Nat) (s : State) : Host.Outcome State Fault Refusal :=
  guardWf (Instr.wf (.columnBlockEmit c arr q)) s fun s =>
    match s.phys c with
    | none => s
    | some k =>
      let x := s.core k
      let next := (x.arr arr).bufs.filterMap (fun b =>
        match (x.op b.op).bind (fun o => o.desc.map (fun d => (o, d))) with
        | some (o, d) => if b.full && bufNext d b == q && x.pushTurn o q then some (b, o, d) else none
        | none => none)
      match next.head? with
      | none => s
      | some (b, o, d) =>
        let blocks := s.colBlocks c o d b
        let code := if b.side then d.stype else d.otype
        let bs := if b.made = 0 then blocks.flatMap (fun e => e.2.1)
          else
            let all := packMarked code ((List.range 32).flatMap (fun i => blocks.map (fun e => e.1.getD i (0, false))))
            (all.drop (rowStart code o.region.2 (b.made - 1))).take (rowStart code o.region.2 b.made - rowStart code o.region.2 (b.made - 1))
        if bs.length ≤ (x.queue q).free then
          let y := x.setQueue q ((x.queue q).push bs s.clock.eclk)
          let b' := { b with made := b.made + 1 }
          let y := y.updArr arr (fun a =>
            { a with bufs := if b'.made = 33 then a.bufs.erase b else a.bufs.map (fun f => if f = b then b' else f) })
          let s := s.setCore k (y.drainEnd arr o)
          if b.made = 0 then s.raise k (blocks.foldl (fun f e => f ||| e.2.2) 0) else s
        else s

end Sys2Proof.Machine
end

