-- ==== Sys2Proof/Machine/Store.lean ====
section
/-! DEFINITION. Reads and writes of mapped memory by the fabric and the hub: faulty channels (10 R346), digest windows and sweeps (10 R351 to R354), the buddy store and its seals (13 R468 to R471, 16 R559). -/

namespace Sys2Proof.Machine

/-! ### Address ranges (R430, R471) -/

/-- First DPA after mapped stacked memory (R333). -/
def State.stackEnd (s : State) : Nat := stackTop - s.fld rMap 35 32 * 0x90000000

/-- `n` bytes from `a` lie wholly in the scratchpad or wholly in mapped stacked memory. -/
def State.mapped (s : State) (a n : Nat) : Bool :=
  decide (a + n ≤ hamperDpa) || decide (stackDpa ≤ a ∧ a + n ≤ s.stackEnd)

/-- Two byte ranges overlap. -/
def overlaps (a n b m : Nat) : Bool := decide (a < b + m ∧ b < a + n ∧ n ≠ 0 ∧ m ≠ 0)

/-- A range overlaps an extent of a running partition that `f` holds of. -/
def State.touchesExtent (s : State) (a n : Nat) (f : Extent → Bool) : Bool :=
  s.parts.any (fun (e : Nat × Part) => e.2.busy && e.2.extents.any (fun x => f x && overlaps a n x.base x.len))

/-! ### The buddy store (R468 to R471, R559) -/

/-- Base of the store and bytes of one slot. -/
def State.storeRange (s : State) : Nat × Nat := (stackDpa + s.fld rCstore 63 40 * 2 ^ 20, s.fld rCstore 39 16 * 2 ^ 20 / 2)

/-- First DPA of a slot. -/
def State.slotBase (s : State) (i : Nat) : Nat := s.storeRange.1 + i * s.storeRange.2

/-- MAGIC of a seal. -/
def sealMagic : List Byte := [0x4C, 0x58, 0x53, 0x4C]

/-- The seal of a slot: its 64 bytes. -/
def State.sealBytes (s : State) (i : Nat) : List Byte := (s.loadBytes (s.slotBase i) 64).map (·.1)

/-- A seal is present. DEDUCED (log 45). -/
def State.sealed (s : State) (i : Nat) : Bool := s.fld rCstore 39 16 != 0 && (s.sealBytes i).take 4 == sealMagic

/-- Fields of a seal: STEP, PART, LENGTH, DIGEST, SEALTIME. -/
def State.sealStep (s : State) (i : Nat) : Nat := fieldLe (s.sealBytes i) 4 4
def State.sealPart (s : State) (i : Nat) : Nat := fieldLe (s.sealBytes i) 8 1
def State.sealLen (s : State) (i : Nat) : Nat := fieldLe (s.sealBytes i) 16 8
def State.sealDigest (s : State) (i : Nat) : Nat := fieldLe (s.sealBytes i) 24 8
def State.sealTime (s : State) (i : Nat) : Nat := fieldLe (s.sealBytes i) 40 8

/-- The slot that holds the newest sealed cairn, by SEALTIME, among the sealed slots that `f` holds of. DEDUCED (log 45). -/
def State.newestSeal (s : State) (f : Nat → Bool) : Option Nat :=
  match (List.range 2).filter (fun i => s.sealed i && f i) with
  | [] => none
  | [i] => some i
  | _ => some (if s.sealTime 0 < s.sealTime 1 then 1 else 0)

/-- The cairn bytes of a slot. -/
def State.slotCairn (s : State) (i : Nat) : List Byte := (s.loadBytes (s.slotBase i + 4096) (s.sealLen i)).map (·.1)

/-- A slot passes the check of R559: sealed, its cairn fits the slot, and the cairn's digest is the seal's. DEDUCED (log 45). -/
def State.slotGood (s : State) (i : Nat) : Bool :=
  s.sealed i && decide (s.sealLen i + 4096 ≤ s.storeRange.2) && (cairnDigest (s.slotCairn i)).toNat == s.sealDigest i

/-- V bit of a slot: V0 is bit 63, V1 bit 62. -/
def State.setV (s : State) (i : Nat) (v : Bool) : State := s.setFld rStoreSt (63 - i) (63 - i) (bit v)

/-- V bit of a slot as it reads. -/
def State.slotV (s : State) (i : Nat) : Bool := s.fld rStoreSt (63 - i) (63 - i) == 1

/-- STEP of a slot's seal as MNT_SLOTSTEP shows it. -/
def State.slotStep (s : State) (i : Nat) : Nat := if i = 0 then s.fld rSlotStep 31 0 else s.fld rSlotStep 63 32

/-- Check a slot and set V and STEP (R559). DEDUCED (log 45). -/
def State.checkSlot (s : State) (i : Nat) : State :=
  if s.slotGood i then (s.setV i true).setFld rSlotStep (32 * i + 31) (32 * i) (s.sealStep i) else s.setV i false

/-- A cairn write or fetch is open on the store. -/
def State.storeOpen (s : State) : Bool := s.storeOp.isSome

/-- A MEM_WRITE of `n` bytes at `a` has landed: a slot it touched loses V, and is checked where its seal area was written and a seal is present (R468). -/
def State.storeTouched (s : State) (a n : Nat) : State :=
  (List.range 2).foldl
    (fun s i =>
      if s.fld rCstore 39 16 != 0 && overlaps a n (s.slotBase i) s.storeRange.2 then
        let s := s.setV i false
        if overlaps a n (s.slotBase i) 4096 && s.sealed i then s.checkSlot i else s
      else s) s

end Sys2Proof.Machine
end

