-- ==== Sys2Proof/Machine/Arbiter.lean ====
section
/-! DEFINITION. Arbitration (08 R291, R300 to R304, 09 R317): which waiting request a slice or a pseudo-channel serves next, the class credits, the routes over bridge links, and the banks. A request waits at its destination from the ECLK in which it is sent. DESIGN CHOICE (log 20). -/

namespace Sys2Proof.Machine

/-! ### Requests -/

/-- The logical core that a physical core hosts. -/
def State.logicalOf (s : State) (k : Nat) : Option Nat := (List.range 128).find? (fun n => s.phys n == some k)

/-- Master number of a core's request (R301). -/
def State.masterOf (s : State) (r : FabReq) : Nat := (s.logicalOf r.core).getD r.core

/-- The earlier of two latest-service times; a request without one ranks last. -/
def minTime (a b : Option Nat) : Option Nat :=
  match a, b with
  | some x, some y => some (min x y)
  | some x, none => some x
  | none, y => y

/-- The time that a request is arbitrated by: the earliest of its burst (R317). -/
def State.timeOf (s : State) (r : FabReq) : Option Nat :=
  if r.burst = 0 then r.stamp else (s.fab.filter (fun x => x.burst == r.burst)).foldl (fun t x => minTime t x.stamp) r.stamp

/-- DEADLINE order (R301): with a time before without, earlier time, lower master, older request. -/
def State.deadlineFirst (s : State) (a b : FabReq) : Bool :=
  let older := decide (s.masterOf a < s.masterOf b) || (decide (s.masterOf a = s.masterOf b) && decide (a.id < b.id))
  match s.timeOf a, s.timeOf b with
  | some x, some y => decide (x < y) || (decide (x = y) && older)
  | some _, none => true
  | none, some _ => false
  | none, none => older

/-- CREDIT order within a class (R302): masters in turn, ascending after the one served last, each with its oldest request. -/
def State.creditFirst (s : State) (turn : Nat) (a b : FabReq) : Bool :=
  let rank := fun r => (s.masterOf r + 136 - (turn + 1)) % 136
  decide (rank a < rank b) || (decide (rank a = rank b) && decide (a.id < b.id))

/-- The first of a list by an order. -/
def firstBy (f : FabReq → FabReq → Bool) : List FabReq → Option FabReq
  | [] => none
  | a :: r =>
    match firstBy f r with
    | none => some a
    | some b => some (if f b a then b else a)

/-- The arbiters of a die run in DEADLINE mode (R300). -/
def State.deadline (s : State) (d : Nat) : Bool := s.fld (rArbCtrl d) 63 62 == 0

/-- A waiting request's time is earlier than the burst's by at least PMARGIN, or the burst has none (R301, R303). -/
def State.overtakes (s : State) (d : Nat) (b held : FabReq) : Bool :=
  b.burst != held.burst &&
  (match s.timeOf b, s.timeOf held with
   | some x, some y => decide (x + s.fld (rArbCtrl d) 15 4 ≤ y)
   | some _, none => true
   | _, _ => false)

/-- The burst that holds the grant of a point, among the requests that wait there (R303). -/
def State.holder (s : State) (point : Nat) (l : List FabReq) : Option FabReq :=
  let g := Tab.get s.grants 0 point
  (l.filter (fun r => g != 0 && r.burst == g)).head?

/-- The request that an arbitration point on die `d` serves next among those that wait there (R301 to R303): the burst that holds the grant goes on, but where a request overtakes it in DEADLINE mode. -/
def State.pick (s : State) (point d : Nat) (l : List FabReq) : Option FabReq :=
  let best := if s.deadline d then firstBy s.deadlineFirst l else firstBy (s.creditFirst (Tab.get s.turns 135 point)) l
  match best, s.holder point l with
  | some b, some h => some (if s.deadline d && s.overtakes d b h then b else h)
  | b, _ => b

/-! ### Class credits (R302) -/

/-- Weight of a class: CORE 0, XPORT 1, SUP 2. -/
def State.weightOf (s : State) (d cls : Nat) : Nat := bits (s.reg (rArbWeight d)) (8 * cls + 7) (8 * cls)

/-- A class spends one credit for a word; without credit it first earns its weight. Only in CREDIT mode. DEDUCED (log 20). -/
def State.spend (s : State) (d cls : Nat) : State :=
  if s.deadline d then s
  else
    let have' := Tab.get s.deficit 0 (3 * d + cls)
    let have' := if have' = 0 then s.weightOf d cls else have'
    { s with deficit := Tab.put s.deficit (3 * d + cls) (have' - 1) }

/-- A point grants one word of a request: the grant's burst and master are noted, a burst that loses the grant counts PREEMPT for its master, and in CREDIT mode its class pays (R302, R303). -/
def State.grant (s : State) (point d : Nat) (l : List FabReq) (r : FabReq) : State :=
  let s := match s.holder point l with
    | some h => if h.burst = r.burst then s else s.addFld (rMevt (s.masterOf h)) 63 32 1
    | none => s
  { s with grants := Tab.put s.grants point r.burst, turns := Tab.put s.turns point (s.masterOf r) }.spend d 0

/-! ### Waits (R304) -/

/-- FAB_MSTARVE of a master after one of its requests waited `n` ECLK at a point of die `d`. -/
def State.waited (s : State) (m d n : Nat) : State :=
  let s := s.maxFld (rMstarve m) 63 32 n
  if s.fld (rArbCtrl d) 47 16 < n then s.addFld (rMstarve m) 31 0 1 else s

/-! ### Banks (R277, R284) -/

/-- Key of a bank. DESIGN CHOICE (log 20). -/
def bankKey (a : Nat) : Nat := 32 * sliceOf a + bankOf a

/-- The bank of a word is busy. -/
def State.bankBusy (s : State) (a : Nat) : Bool := decide (s.clock.eclk < Tab.get s.busy 0 (bankKey a))

/-- ECLK until a preserving march has restored a word, where it is the word under test (R309): word k of bank order is under test for the 76 ECLK from 76 × k after the march's start. DEDUCED (log 22). -/
def State.marchWait (s : State) (a : Nat) : Nat :=
  let n := sliceOf a
  if s.fld (rSlcMarch n) 63 60 = 1 then
    let t := s.clock.eclk - Tab.get s.marchAt 0 n
    if t / 76 = 4096 * bankOf a + rowOf a then 76 - t % 76 else 0
  else 0

/-- One access of a master to a bank (R284): it waits while the bank is busy or the word is under test (R309), the wait enters FAB_MBCONF, and the bank is busy for 2 ECLK (R277). The wait is the second result. DESIGN CHOICE (log 20). -/
def State.bankAccess (s : State) (m a : Nat) : State × Nat :=
  let t := max (s.clock.eclk + s.marchWait a) (Tab.get s.busy 0 (bankKey a))
  let w := t - s.clock.eclk
  (({ s with busy := Tab.put s.busy (bankKey a) (t + 2) } : State).addFld (rMbconf m) 63 0 w, w)

/-! ### Routes (R22, R291) -/

/-- STATE of the bridge link that joins two dies. -/
def State.linkState (s : State) (d e : Nat) : Nat := s.fld (rLink d (if e < d then e else e - 1)) 63 62

/-- Requests pass between two dies: over their link, or over another die where it is down; they wait while a link of the route retrains (R291). -/
def State.route (s : State) (d e : Nat) : Bool :=
  d == e ||
  (match s.linkState d e with
   | 0 => true
   | 1 => false
   | _ => (List.range 4).any (fun x => x != d && x != e && s.linkState d x == 0 && s.linkState x e == 0))

/-- The hub bridge by which transport traffic reaches a die (R22): the die's own, or the lowest that is up and has a route. -/
def State.hubBridge (s : State) (d : Nat) : Option Nat :=
  (d :: List.range 4).find? (fun e => s.fld (rLink e 3) 63 62 == 0 && s.route e d)

/-! ### Waiting at a destination (R279, R285, R336) -/

/-- A request is the first of its core to its word among those not served: accesses of a core to one word keep their order (R279, R317). -/
def State.wordTurn (s : State) (r : FabReq) : Bool :=
  s.fab.all (fun x => !(decide (x.id < r.id) && x.core == r.core && !x.served && decide (x.addr / 64 = r.addr / 64) && !x.flags))

/-- Die of a physical core. -/
def coreDie (k : Nat) : Nat := k / 34

/-- Die of the slice or channel that holds an address; that of core `k` for its hamper and unmapped addresses. -/
def State.dieOf (s : State) (k a : Nat) : Nat := if a < hamperDpa then sliceOf a / 128 else ((s.chanAt a).map (· / 64)).getD (coreDie k)

/-- Reads, writes and contributions that wait at a slice (R284): those whose bank is free pass those whose bank is busy. -/
def State.atSlice (s : State) (n : Nat) : List FabReq :=
  let l := s.fab.filter (fun r => !r.served && !r.flags && decide (r.addr < hamperDpa) && sliceOf r.addr == n && s.wordTurn r && s.route (coreDie r.core) (n / 128))
  let free := l.filter (fun r => !s.bankBusy r.addr)
  if free.isEmpty then l else free

/-- A request is the one that its slice serves next. -/
def State.sliceTurn (s : State) (r : FabReq) : Bool :=
  ((s.pick (sliceOf r.addr) (sliceOf r.addr / 128) (s.atSlice (sliceOf r.addr))).map FabReq.id) == some r.id

/-- The slice grants a request's word, and its wait since it was sent is counted. -/
def State.sliceGrant (s : State) (r : FabReq) (wait : Nat) : State :=
  let n := sliceOf r.addr
  (s.grant n (n / 128) (s.atSlice n) r).waited (s.masterOf r) (n / 128) (s.clock.eclk + wait - r.sent)

/-! ### Channels and pseudo-channels (R336, R337, R356) -/

/-- Reads and writes of cores that wait at a pseudo-channel (R336). -/
def State.atPseudo (s : State) (q pc : Nat) : List FabReq :=
  s.fab.filter (fun r => !r.served && (r.kind == .read || r.kind == .write) && ((s.homeOf r.addr).any (fun h => h.chan == q && h.pc == pc)) &&
    s.wordTurn r && s.route (coreDie r.core) (q / 64))

/-- The requests that a pseudo-channel serves from (R337): those of its direction, or of the other where the batch is full, none of its own waits, or one of the other is past its time. -/
def State.direction (s : State) (q pc : Nat) : List FabReq :=
  let p := s.pseudo q pc
  let l := s.atPseudo q pc
  let mine := l.filter (fun r => decide (r.kind = FKind.write) == p.wr)
  let other := l.filter (fun r => decide (r.kind = FKind.write) != p.wr)
  let late := s.deadline (q / 64) && other.any (fun r => match s.timeOf r with | some t => decide (t < s.clock.eclk) | none => false)
  if !other.isEmpty && (mine.isEmpty || decide (s.batchOf q p ≤ p.batch) || late) then other else mine

/-- Arbitration point of a pseudo-channel. -/
def pointOf (q pc : Nat) : Nat := 512 + 2 * q + pc

/-- A request is the one that its pseudo-channel serves next (R301, R302, R337). -/
def State.chanTurn (s : State) (r : FabReq) : Bool :=
  match s.homeOf r.addr with
  | some h => ((s.pick (pointOf h.chan h.pc) (h.chan / 64) (s.direction h.chan h.pc)).map FabReq.id) == some r.id
  | none => false

/-- The pseudo-channel grants a request's word, and its wait since it was sent is counted. -/
def State.chanGrant (s : State) (r : FabReq) : State :=
  match s.homeOf r.addr with
  | some h => (s.grant (pointOf h.chan h.pc) (h.chan / 64) (s.direction h.chan h.pc) r).waited (s.masterOf r) (h.chan / 64) (s.clock.eclk - r.sent)
  | none => s

/-! ### Merged reads (R299) -/

/-- A merge window of the word is open. DESIGN CHOICE (log 20). -/
def State.mergeOpen (s : State) (a : Nat) : Bool :=
  match Tab.find s.merge (a / 64) with
  | some t => decide (s.clock.eclk < t + 16)
  | none => false

/-- A write to a word closes its merge window. -/
def State.closeMerge (s : State) (a : Nat) : State := { s with merge := Tab.del s.merge (a / 64) }

/-- Serve a master's read of one scratchpad word: within the merge window it takes no bank access. The second result tells whether it took one, the third its wait. -/
def State.sliceRead (s : State) (m a : Nat) : State × Bool × Nat :=
  if s.mergeOpen a then (s.addFld (rSlcMerge (sliceOf a)) 63 0 1, false, 0)
  else
    let r := s.bankAccess m a
    ({ r.1 with merge := Tab.put r.1.merge (a / 64) r.1.clock.eclk }, true, r.2)

/-! ### The transport's words (R22, R301, R318, R326, R329) -/

/-- All four hub bridges are down: transport traffic reaches no memory until the next reset (R22, R291). DEDUCED (log 71). -/
def State.hubCut (s : State) : Bool := (List.range 4).all (fun d => s.fld (rLink d 3) 63 62 == 2)

/-- One word that the transport reads or writes: at a slice as master 128 to 131 of the hub bridge it crosses, at a controller one access. DESIGN CHOICE (log 20). -/
def State.hubWord (s : State) (a : Nat) (wr : Bool) : State :=
  if a < hamperDpa then
    let d := sliceOf a / 128
    let m := 128 + (s.hubBridge d).getD d
    let r := if wr then (let r := s.bankAccess m a; (r.1.closeMerge a, r.2)) else (let r := s.sliceRead m a; (r.1, r.2.2))
    (r.1.waited m d r.2).spend d 1
  else
    match s.chanAt a with
    | some q => (s.countAccess a wr).spend (q / 64) 1
    | none => s

/-- The words of one transport operation, each with a tracker (R326). -/
def State.hubOp (s : State) (a n : Nat) (wr : Bool) : State :=
  let s := (List.range (wordsOf a n)).foldl (fun s i => s.hubWord ((a / 64 + i) * 64) wr) s
  s.maxFld rXtrk 33 17 (min 65536 (wordsOf a n))

/-- The transport writes bytes to memory. -/
def State.hubWrite (s : State) (a : Nat) (bs : List PByte) : State :=
  if s.hubCut then s else (s.hubOp a bs.length true).storeBytes a bs

/-- FAB_MBCONF of requests that wait for a busy bank in this ECLK (R284). -/
def State.tickBanks (s : State) : State :=
  (s.fab.filter (fun r => !r.served && (r.kind == .read || r.kind == .write) && decide (r.addr < hamperDpa) && s.bankBusy r.addr)).foldl
    (fun s r => s.addFld (rMbconf (s.masterOf r)) 63 0 1) s

end Sys2Proof.Machine
end

