-- ==== Sys2Proof/Machine/Cairn.lean ====
section
/-! DEFINITION. Cairns: their layout (13 R464 to R467), the securing governor (R478), starting a cairn write (R472), and applying a cairn to a partition (R476). -/

namespace Sys2Proof.Machine

/-! ### Control state of a core (R467) -/

/-- A loop of a stream at a depth: 16 bytes. -/
def loopBytes (l : Option Loop) : List Byte :=
  match l with
  | some l => toLe 4 l.count ++ toLe 4 l.index ++ toLe 2 l.body ++ toLe 2 l.tail ++ zeroBytes 4
  | none => zeroBytes 16

/-- The loops of a stream, depth 1 to 6. -/
def loopsBytes (l : List Loop) : List Byte := (List.range 6).flatMap (fun i => loopBytes (l.reverse[i]?))

/-- A generator: 40 bytes. -/
def agBytes (g : AddrGen) : List Byte :=
  toLe 1 (g.region.getD 0) ++ toLe 1 (bit g.region.isSome) ++ zeroBytes 6 ++ toLe 8 g.offset ++
    (List.range 6).flatMap (fun i => toLe 4 (g.strides.getD i 0))

/-- A drain descriptor: 16 bytes, DDESC body bits [111:0] first. -/
def ddBytes (n : Nat) (d : Option DescB) : List Byte :=
  match d with
  | some d => toLe 14 (ovtEncode (.ddesc n d) % 2 ^ 112) ++ toLe 1 1 ++ zeroBytes 1
  | none => zeroBytes 16

/-- REBASE: 16 bytes. -/
def rebaseBytes (r : Option (Nat × Nat × Nat)) : List Byte :=
  match r with
  | some (d, st, e) => toLe 1 d ++ zeroBytes 3 ++ toLe 4 st ++ toLe 8 e
  | none => zeroBytes 16

/-- The 4 KiB of a core's control state. -/
def Core.controlBytes (c : Core) : List Byte :=
  padTo 4096
    (toLe 2 c.a.pc ++ toLe 2 c.x.pc ++ toLe 1 c.a.loops.length ++ toLe 1 c.x.loops.length ++ zeroBytes 10 ++
      loopsBytes c.a.loops ++ loopsBytes c.x.loops ++ zeroBytes 48 ++
      (List.range 16).flatMap (fun i =>
        let v := Tab.get c.slots Slot.reset i
        toLe 4 v.value ++ toLe 4 v.seq ++ toLe 4 v.latA ++ toLe 4 v.latX) ++
      (List.range 64).flatMap (fun i => toLe 4 (c.flag i)) ++
      (List.range 16).flatMap (fun i => agBytes (c.ag i)) ++
      (List.range 8).flatMap (fun i => ddBytes i (Tab.find c.dds i)) ++
      rebaseBytes c.rebase ++
      (List.range 8).flatMap (fun i => let a := c.arr i; toLe 1 (bit a.qm) ++ toLe 1 (a.ta * 16 + a.tb)))

/-- The loops of a control state at `off`, innermost first. -/
def parseLoops (l : List Byte) (off depth : Nat) : List Loop :=
  ((List.range depth).map (fun i =>
    let o := off + 16 * i
    (⟨fieldLe l o 4, fieldLe l (o + 4) 4, fieldLe l (o + 8) 2, fieldLe l (o + 10) 2⟩ : Loop))).reverse

/-- A stream that waits at a BOUNDARY with restored position and loops. -/
def Stream.restored (t : Stream) (pc : Nat) (loops : List Loop) : Stream :=
  { t with state := 3, stall := 8, obj := 0, pc := pc, loops := loops, hold := none, entry := none, slotw := false, link := [] }

/-- A descriptor of a control state. -/
def parseDd (l : List Byte) (i : Nat) : Option DescB :=
  let o := 0x580 + 16 * i
  if fieldLe l (o + 14) 1 = 1 then
    match ovtOfWord (0x43 * 2 ^ 120 + fieldLe l o 14) with
    | some (.ddesc _ d) => some d
    | _ => none
  else none

/-- A core with the control state of a cairn: its streams wait at BOUNDARY, its slots keep the maxima and readers that the image declares. Every set holds +0, and spread contents are undefined, free values of `tag` (R465). -/
def Core.restoreControl (c : Core) (l : List Byte) (tag : Nat) : Core :=
  { c with
    a := c.a.restored (fieldLe l 0 2) (parseLoops l 0x10 (fieldLe l 4 1))
    x := c.x.restored (fieldLe l 2 2) (parseLoops l 0x70 (fieldLe l 5 1))
    slots := (List.range 16).map (fun i =>
      let o := 0x100 + 16 * i
      (i, { Tab.get c.slots Slot.reset i with
        value := fieldLe l o 4, seq := fieldLe l (o + 4) 4, latA := fieldLe l (o + 8) 4, latX := fieldLe l (o + 12) 4, writes := [] }))
    flags := ((List.range 64).map (fun i => (i, fieldLe l (0x200 + 4 * i) 4))).filter (fun e => e.2 != 0)
    ags := (List.range 16).map (fun i =>
      let o := 0x300 + 40 * i
      (i, ⟨if fieldLe l (o + 1) 1 = 1 then some (fieldLe l o 1) else none, fieldLe l (o + 8) 8,
        (List.range 6).map (fun d => fieldLe l (o + 16 + 4 * d) 4)⟩))
    dds := (List.range 8).filterMap (fun i => (parseDd l i).map (fun d => (i, d)))
    rebase := some (fieldLe l 0x600 1, fieldLe l 0x604 4, fieldLe l 0x608 8)
    arrays := (List.range 8).map (fun i =>
      let o := 0x610 + 2 * i
      (i, { Arr.reset with qm := fieldLe l o 1 == 1, ta := fieldLe l (o + 1) 1 / 16, tb := fieldLe l (o + 1) 1 % 16 }))
    spreads := (List.range 8).map (fun i => (i, { Spread.reset with undef := some tag }))
    scalars := [] }

/-! ### Layout (R466) -/

/-- The extents a cairn holds: every WRITE and ACC extent, in directory order. -/
def Part.cairnExtents (p : Part) : List Extent := p.extents.filter (fun e => e.mode != 1)

/-- A stretch of a cairn that is a copy of memory: cairn offset, DPA, bytes. -/
structure CairnSeg where
  off : Nat
  dpa : Nat
  len : Nat
  deriving DecidableEq, Repr

/-- Offset of the `i`-th core record. -/
def coreRecord (i : Nat) : Nat := 0x7000 + i * 0x201000

/-- Extent contents from an offset, each at the next 4 KiB boundary. -/
def extentSegs (off : Nat) : List Extent → List CairnSeg
  | [] => []
  | e :: r => ⟨off, e.base, e.len⟩ :: extentSegs (off + ceilDiv e.len 4096 * 4096) r

/-- Every copy of memory in a partition's cairn. -/
def Part.cairnSegs (p : Part) : List CairnSeg :=
  (List.range p.num).map (fun i => ⟨coreRecord i + 4096, hamperDpa + (p.first + i) * hamperSize, hamperSize⟩) ++
    extentSegs (coreRecord p.num) p.cairnExtents

/-- Offset of the poison list. -/
def Part.poisonAt (p : Part) : Nat := p.cairnExtents.foldl (fun o e => o + ceilDiv e.len 4096 * 4096) (coreRecord p.num)

/-- One directory entry: a whole EXTENT record (R220). -/
def extentRecord (e : Extent) : List Byte :=
  toLe 2 6 ++ toLe 2 24 ++ toLe 1 e.mode ++ zeroBytes 3 ++ toLe 8 e.base ++ toLe 8 e.len

/-- Cairn offsets of the poison-marked 4-byte words of a stretch. -/
def State.segPoison (s : State) (g : CairnSeg) : List Nat := (markWords g.off (s.loadBytes g.dpa g.len) []).map (· * 4)

/-- The control state of the partition's `i`-th logical core. -/
def State.controlOf (s : State) (p i : Nat) : List Byte :=
  match s.phys ((s.part p).first + i) with
  | some k => (s.core k).controlBytes
  | none => zeroBytes 4096

/-- The arbiter state of the four dies: 160 bytes. -/
def State.arbBytes (s : State) : List Byte :=
  (List.range 4).flatMap (fun d =>
    toLe 8 (s.reg (rArbCtrl d)) ++ toLe 8 (s.reg (rArbWeight d)) ++ (List.range 3).flatMap (fun k => toLe 8 (Tab.get s.deficit 0 (3 * d + k))))

/-- The header of a cairn of `len` bytes with `plist` poison-list entries. -/
def State.cairnHeader (s : State) (p len plist : Nat) : List Byte :=
  let q := s.part p
  padTo 4096
    ([0x4C, 0x58, 0x43, 0x4E] ++ toLe 2 1 ++ toLe 1 p ++ toLe 1 0 ++ toLe 4 q.step ++ toLe 4 (s.fld rGovSt 31 0) ++ toLe 8 q.token ++
      toLe 8 len ++ slice q.hash 0 32 ++ toLe 8 q.key ++ toLe 1 q.first ++ toLe 1 q.num ++ toLe 2 q.cairnExtents.length ++ toLe 4 plist ++
      toLe 8 (q.opens.headD 0) ++ toLe 8 q.closeAt ++ toLe 8 deviceId ++ s.arbBytes)

/-- The cairn of a partition's closed step: every byte. -/
def State.cairnBytes (s : State) (p : Nat) : List Byte :=
  let q := s.part p
  let pl := q.cairnSegs.flatMap s.segPoison
  let len := q.poisonAt + ceilDiv (8 * pl.length) 4096 * 4096
  s.cairnHeader p len pl.length ++ padTo 0x6000 (slice (q.cairnExtents.flatMap extentRecord) 0 0x6000) ++
    (List.range q.num).flatMap (fun i =>
      s.controlOf p i ++ (s.loadBytes (hamperDpa + (q.first + i) * hamperSize) hamperSize).map (·.1)) ++
    q.cairnExtents.flatMap (fun e => padTo 4096 ((s.loadBytes e.base e.len).map (·.1))) ++
    padTo 4096 (pl.flatMap (toLe 8))

/-! ### The governor (R478) and the start of a write (R472) -/

/-- NPROP of R478 from C and the time of 15 steps, in ns, the failure count, the step and PRIOR; LOSTMAX bounds it. DEDUCED (log 24). -/
def nprop (cost span fails step prior lost : Nat) : Nat :=
  if span = 0 then lost else max 1 (min lost (Nat.sqrt (2 * cost * 15 * (step + prior) / (span * (fails + 1)))))

/-- Time from the oldest to the newest of the last 16 step opens, once 16 have been seen. DEDUCED (log 24). -/
def Part.span (p : Part) : Option Nat := if 16 ≤ p.opens.length then some (p.opens.headD 0 - p.opens.getD 15 0) else none

/-- The governor's registers at the close of a step (R478, R482); DELTA is the mean of the last 15 intervals. DEDUCED (log 24). -/
def State.govern (s : State) (p : Nat) : State :=
  if s.fld rGov 63 63 = 1 ∧ s.fld rGov 62 60 = p then
    let q := s.part p
    let lost := s.fld rGov 47 32
    let np := match s.sealCost, q.span with
      | some c, some d => nprop c d (s.fld rGovSt 31 0) q.step (s.fld rGov 15 0) lost
      | _, _ => lost
    let nset := s.fld rGov 31 16
    let n := if nset ≠ 0 then min nset lost else np
    let s := (s.setFld rGovSt 63 48 np).setFld rGovSt 47 32 n
    s.setFld rGovT 31 0 (satN 32 ((q.span.getD 0) / 15000))
  else s

/-- The governor secures this step. DEDUCED (log 24). -/
def State.secureDue (s : State) (p : Nat) : Bool :=
  s.fld rGov 63 63 == 1 && s.fld rGov 62 60 == p && (s.part p).step % max 1 (s.fld rGovSt 47 32) == 0

/-- MNT_CSTAT after an event of a write or restore. -/
def State.cstat (s : State) (state reason step : Nat) : State :=
  ((s.setFld rCstat 63 60 state).setFld rCstat 59 56 reason).setFld rCstat 31 0 step

/-- The buddy's identity and address (R484). -/
def State.buddy (s : State) : Nat × Nat := (s.reg rBuddy, s.reg rBuddyH * 2 ^ 64 + s.reg rBuddyL)

/-- Start to secure the closed step of a partition (R472): BEGIN to the buddy, or failure where none is set. A write under way goes on, and this step is not secured. DEDUCED (log 27). -/
def State.secure (s : State) (p : Nat) : State :=
  let q := s.part p
  let b := s.buddy
  if s.cairnOut.isSome then s
  else if b.1 = 0 then s.cstat 5 8 q.step
  else
    let bytes := s.cairnBytes p
    let s := q.cairnExtents.foldl (fun s e => s.hubOp e.base e.len false) s
    let s := s.sendTo 1 b.1 b.2 (.cairnCtl 1 ⟨0, p, 0, q.step, bytes.length, 0⟩)
    let conn := ((s.conns.find? (fun e => e.2.id == b.1 && e.2.cls == 1)).map (·.1)).getD 0
    ({ s with cairnOut := some ⟨p, q.step, conn, bytes, false, false, 0, s.now⟩ }).cstat 1 0 q.step

/-- A cairn write ends in failure (R473): the next cairn falls due at the next securing step. DEDUCED (log 27). -/
def State.failWrite (s : State) (reason : Nat) : State :=
  match s.cairnOut with
  | some w => ({ s with cairnOut := none }).cstat 5 reason w.step
  | none => s

/-! ### Applying a cairn (R476) -/

/-- Write one received block into the memory that it is a copy of. -/
def State.putBlock (s : State) (p off : Nat) (data : List Byte) : State :=
  (s.part p).cairnSegs.foldl
    (fun s g =>
      let lo := max off g.off
      let hi := min (off + data.length) (g.off + g.len)
      if lo < hi then s.hubWrite (g.dpa + (lo - g.off)) (clean ((data.drop (lo - off)).take (hi - lo))) else s) s

/-- Received blocks as one string of bytes; zero where none was received. -/
def assemble (blocks : List (Nat × List Byte)) (len : Nat) : List Byte :=
  (List.range (ceilDiv len 4096)).flatMap (fun i =>
    match blocks.find? (fun b => b.1 == 4096 * i) with
    | some b => slice b.2 0 (min 4096 (len - 4096 * i))
    | none => zeroBytes (min 4096 (len - 4096 * i)))

/-- Mark the word at a cairn offset poisoned. -/
def State.markOffset (s : State) (p off : Nat) : State :=
  match (s.part p).cairnSegs.find? (fun g => decide (g.off ≤ off ∧ off < g.off + g.len)) with
  | some g =>
    match s.keyOf (g.dpa + (off - g.off)) with
    | some k => { s with mem := s.mem.setPoison (groupOf k) true }
    | none => s
  | none => s

/-- The arbiter state of a cairn's header, applied only while no other partition runs. -/
def State.restoreArb (s : State) (p : Nat) (l : List Byte) : State :=
  if s.parts.any (fun (e : Nat × Part) => e.1 != p && e.2.busy) then s
  else
    (List.range 4).foldl
      (fun s d =>
        let o := 104 + 40 * d
        let s := (s.setReg (rArbCtrl d) (fieldLe l o 8)).setReg (rArbWeight d) (fieldLe l (o + 8) 8)
        { s with deficit := (List.range 3).foldl (fun t k => Tab.put t (3 * d + k) (fieldLe l (o + 16 + 8 * k) 8)) s.deficit }) s

/-- The rest of a restore once every block is written: poison marks, arbiter state, control state of every core, step counter, failure count, token and times. -/
def State.applyCairn (s : State) (p : Nat) (l : List Byte) : State :=
  let q := s.part p
  let pl := (List.range (fieldLe l 76 4)).map (fun i => fieldLe l (q.poisonAt + 8 * i) 8)
  let s := (pl.foldl (fun s o => s.markOffset p o) s).restoreArb p l
  let (t, s) := s.fresh
  let s := (List.range q.num).foldl
    (fun s i =>
      match s.phys (q.first + i) with
      | some k => s.updCore k (fun c => c.restoreControl (slice l (coreRecord i) 4096) t)
      | none => s) s
  let s := s.updPart p (fun x => { x with
    step := fieldLe l 8 4, token := fieldLe l 16 8, opens := [fieldLe l 80 8], closeAt := fieldLe l 88 8 })
  s.setFld rGovSt 31 0 (satN 32 (fieldLe l 12 4 + 1))

end Sys2Proof.Machine
end

