-- ==== Sys2Proof/Machine/Steps.lean ====
section
/-! DEFINITION. Steps and partitions: closing and opening steps (04 R160, R161, 07 R247 to R249, R274, R275, 12 R432, 13 R447), starting and ending programs (04 R126, R149, R171, 16 R551). -/

namespace Sys2Proof.Machine

/-! ### Streams of a partition -/

/-- Physical cores of a partition's logical cores. -/
def State.coresOf (s : State) (p : Nat) : List Nat := (s.part p).cores.filterMap s.phys

/-- A stream waits at a BOUNDARY (R160, R172). -/
def Stream.atBoundary (t : Stream) : Bool := t.state == 3 && t.stall == 8

/-- A stream is at END. -/
def Stream.atEnd (t : Stream) : Bool := t.state == 4

/-- Nothing that a core has issued is left to complete (R126, R160). -/
def Core.quiet (c : Core) : Bool := c.ops.isEmpty && c.comps.isEmpty

/-- Every stream of the partition is where `f` says and every issued instruction has completed. -/
def State.allAt (s : State) (p : Nat) (f : Stream → Bool) : Bool :=
  (s.part p).cores.all (fun c =>
    match s.phys c with
    | some k => let x := s.core k; f x.a && f x.x && x.quiet
    | none => false)

/-- Change every core of a partition. -/
def State.updCores (s : State) (p : Nat) (f : Core → Core) : State := (s.coresOf p).foldl (fun s k => s.updCore k f) s

/-! ### Poisoned stores (R447) -/

/-- The location of the first poisoned store of the step. -/
def State.poisonLoc (s : State) (p : Nat) : Loc :=
  let r := rPoison p
  .at (s.fld r 42 36) (if s.fld r 46 46 = 1 then .x else .a) (s.fld r 11 0)

/-- The step or program has made poisoned stores. -/
def State.poisoned (s : State) (p : Nat) : Bool := s.fld (rPoison p) 63 48 != 0

/-! ### Digest windows (R352, R353) -/

/-- Channels of the map in force. -/
def State.mappedChans (s : State) : List Nat := (List.range 256).filter (fun q => !s.removed.contains (slotOf q))

/-- Close the window of one region: digest, status, accumulators cleared. -/
def State.closeWindow (s : State) (n step : Nat) : State :=
  let d := s.mappedChans.foldl (fun (d : Word64) q => d ^^^ BitVec.ofNat 64 (s.reg (rDgwacc q n))) 0
  let m := Tab.get s.win 0 n
  let s := (s.setReg (rDgwin n) d.toNat).setFld (rDgst n) 63 32 step
  let s := ((s.setFld (rDgst n) 2 2 (bits m 1 1)).setFld (rDgst n) 1 1 (bits m 0 0)).setFld (rDgst n) 0 0 1
  let s := { s with win := Tab.put s.win n 0 }
  (List.range 256).foldl (fun s q => s.setReg (rDgwacc q n) 0) s

/-- A region bound to a partition. -/
def State.boundTo (s : State) (n p : Nat) : Bool := s.fld (rDgcfg n) 63 63 == 1 && s.fld (rDgcfg n) 62 60 == p

/-- Close the windows of a partition's regions. -/
def State.closeWindows (s : State) (p step : Nat) : State :=
  (List.range 16).foldl (fun s n => if s.boundTo n p then s.closeWindow n step else s) s

/-- Clear the window accumulators of a partition's regions (R463). -/
def State.clearWindows (s : State) (p : Nat) : State :=
  (List.range 16).foldl
    (fun s n =>
      if s.boundTo n p then
        (List.range 256).foldl (fun s q => s.setReg (rDgwacc q n) 0) { s with win := Tab.put s.win n 0 }
      else s) s

/-! ### Step commands (R247 to R249, R432) -/

/-- A step block's DPA obeys R249. DEDUCED (log 53). -/
def Part.blockOk (q : Part) (b : StepB) : Bool :=
  !b.block || (b.sbdpa % 64 == 0 && q.extents.any (fun e => e.mode == 2 && decide (e.base ≤ b.sbdpa ∧ b.sbdpa + 64 ≤ e.base + e.len)))

/-- The 64 bytes of a step block (R248). -/
def stepBlock (step : Nat) (words : List Byte) : List Byte := toLe 4 step ++ toLe 4 1 ++ slice words 0 56

/-- Check the pending STEP of a partition at BOUNDARY: EXPSTEP, then SBDPA (R432). DEDUCED (log 25). DEDUCED (log 53). -/
def State.checkStep (s : State) (p : Nat) : State :=
  let q := s.part p
  match q.cmd with
  | none => s
  | some c =>
    if c.start then s
    else
      let drop := s.updPart p (fun x => { x with cmd := none })
      if c.body.exp ≠ q.step + 1 then drop.say c.ask stWrongStep
      else if q.blockOk c.body then s
      else drop.say c.ask stBadStepBlock

/-- STEP_WRAP at the lowest core's BOUNDARY of the A-stream (R161, R223). DEDUCED (log 25). -/
def State.stepWrap (s : State) (p : Nat) : State :=
  let c := (s.part p).first
  let pc := match s.phys c with
    | some k => (s.core k).a.pc
    | none => 0
  s.terminate p tStepWrap (.at c .a pc)

/-- A stream that waits at a BOUNDARY goes on; any other is as it was. -/
def Stream.resume (t : Stream) : Stream := if t.atBoundary then t.advance else t

/-- REPOCHs of a partition's cores count from 0 again in a new step (R375), and records of the last step's epochs are forgotten. -/
def State.clearOrdinals (s : State) (p : Nat) : State :=
  let s := s.updCores p (fun c => { c with ords := [] })
  { s with past := s.past.filter (fun e => e.1 != p) }

/-- Open the next step with an accepted command (R160, R247, R274, R432, R485): at its instant, or at once and late where that has passed. DEDUCED (log 25). -/
def State.openStep (s : State) (p : Nat) (c : StepCmd) : State :=
  let q := s.part p
  if 2 ^ 32 ≤ q.step + 1 then s.stepWrap p
  else
    let late := c.body.instant != 0 && decide (c.body.instant < s.now)
    let s := s.reach c.body.instant
    let step := q.step + 1
    let s := s.updPart p (fun x => { x with
      cmd := none, step := step, st := .running, opens := (s.now :: x.opens).take 16, token := fieldLe (slice c.body.words 0 8) 0 8 })
    let s := if c.body.block then s.hubWrite c.body.sbdpa (clean (stepBlock step c.body.words)) else s
    let s := ((s.clearPhases p).setReg (rPoison p) 0).clearOrdinals p
    let s := if c.start then s else s.updCores p (fun x => { x with a := x.a.resume, x := x.x.resume })
    s.answer c.ask stOk late false (toLe 4 step)

/-! ### Ending a program (R126, R551) -/

/-- Trackers of a partition's cores are free and its holder duties done (R551). DEDUCED (log 67). -/
def State.canRelease (s : State) (p : Nat) : Bool :=
  (s.coresOf p).all (fun k => s.trackers k == 0) &&
  s.epochs.all (fun (e : Nat × Epoch) => e.2.part != p || !s.duty e.2)

/-- The partition gives up its cores, regions, extents and staging entries; its epochs are over here, and belong to no program of the partition any more (8 names none). DEDUCED (log 67). -/
def State.release (s : State) (p : Nat) : State :=
  let s := s.epochs.foldl (fun s (e : Nat × Epoch) => if e.2.part = p then s.shutEpoch e.1 else s) s
  { s with
    parts := Tab.del s.parts p
    epochs := s.epochs.map (fun (e : Nat × Epoch) => if e.2.part = p then (e.1, { e.2 with part := 8 }) else e)
    past := s.past.filter (fun e => e.1 != p) }

/-- A program that has reached its end is reported, and its partition is released as soon as it may be (R126, R275, R551). DEDUCED (log 67). -/
def State.endProgram (s : State) (p : Nat) : State :=
  let w := termWord tEnded (s.part p).step .none
  let s := ((s.setReg (rTerm p) w).exportPhases p false).updPart p (fun x => { x with st := .ending })
  let s := (s.sendTermination p w).dropCmd p
  if s.canRelease p then s.release p else s

/-! ### The events -/

/-- STREAM_START (R171): every stream of a partition whose first step is open starts issuing. -/
def execStreamStart (p : Nat) (s : State) : Host.Outcome State Fault Refusal :=
  guardWf (Instr.wf (.streamStart p)) s fun s =>
    if (s.part p).st = .running then
      let go := fun (t : Stream) => if t.state = 1 then { t with state := 2 } else t
      ({ s.updCores p (fun c => { c with a := go c.a, x := go c.x }) with started := true }).setArb
    else s

/-- STEP_CLOSE (R160, R161, R275, R352, R432, R447, R478): with every stream at a BOUNDARY and all earlier work complete, the step closes: governor registers, digest windows and phase records first, then the poison check, STEP_WRAP, the pending STEP, and the cairn if one is due. DESIGN CHOICE (log 14). DEDUCED (log 25). -/
def execStepClose (p : Nat) (s : State) : Host.Outcome State Fault Refusal :=
  guardWf (Instr.wf (.stepClose p)) s fun s =>
    if (s.part p).st = .running ∧ s.allAt p Stream.atBoundary then
      let step := (s.part p).step
      let s := (((s.govern p).closeWindows p step).exportPhases p false).updPart p (fun x => { x with st := .closed, closeAt := s.now })
      if s.poisoned p then s.terminate p tPoison (s.poisonLoc p)
      else if 2 ^ 32 ≤ step + 1 then s.stepWrap p
      else
        let s := s.checkStep p
        if s.secureDue p then s.secure p else s
    else s

/-- PROGRAM_END (R126, R447): every stream is at END and all work has completed: the program ends, or ends with POISON_CONSUMED after a poisoned store. -/
def execProgramEnd (p : Nat) (s : State) : Host.Outcome State Fault Refusal :=
  guardWf (Instr.wf (.programEnd p)) s fun s =>
    if (s.part p).st = .running ∧ s.allAt p Stream.atEnd then
      if s.poisoned p then s.terminate p tPoison (s.poisonLoc p) else s.endProgram p
    else s

/-- PARTITION_RELEASE (R551): an ended program stops counting as running. -/
def execPartitionRelease (p : Nat) (s : State) : Host.Outcome State Fault Refusal :=
  guardWf (Instr.wf (.partitionRelease p)) s fun s =>
    if (s.part p).st = .ending ∧ s.canRelease p then s.release p else s

/-- STALL_TIMEOUT (R149, R433): no stream of the partition has issued for HUB_WDOG_PTp.LIMIT. Securing and restoring are the hub's own work, and no stall. DESIGN CHOICE (log 4). DEDUCED (log 23). -/
def execStallTimeout (p : Nat) (s : State) : Host.Outcome State Fault Refusal :=
  guardWf (Instr.wf (.stallTimeout p)) s fun s =>
    match (s.part p).st with
    | .loaded => s.terminate p tStall .none
    | .running => s.terminate p tStall .none
    | .closed => if s.cairnOut.any (fun w => w.part == p) then s else s.terminate p tStall .none
    | _ => s

end Sys2Proof.Machine
end

