-- ==== Sys2Proof/Machine/CoreMap.lean ====
section
/-! DEFINITION. The core map (01 R29 to R39), fencing a core (13 R456, R461, 01 R34), a failed device (14 R496), and a channel becoming faulty (10 R335, R346). -/

namespace Sys2Proof.Machine

/-! ### Building the map (R31) -/

/-- Healthy physical cores of a die, ascending. -/
def State.healthyOf (s : State) (d : Nat) : List Nat := ((List.range 34).map (fun p => 34 * d + p)).filter (fun k => !s.fenced k)

/-- Unfenced physical cores. -/
def State.healthy (s : State) : Nat := sumOf ((List.range 4).map (fun d => (s.healthyOf d).length))

/-- Logical cores in order take their die's core, or the pool's next; none where the pool runs out. -/
def fillMap : List (Option Nat) → List Nat → Option (List Nat)
  | [], _ => some []
  | some k :: r, pool => (fillMap r pool).map (fun l => k :: l)
  | none :: _, [] => none
  | none :: r, k :: pool => (fillMap r pool).map (fun l => k :: l)

/-- The map of R31: the physical core of each logical core. DEDUCED (log 57). -/
def State.buildMap (s : State) : Option (List Nat) :=
  fillMap ((List.range 128).map (fun n => (s.healthyOf (n / 32))[n % 32]?)) ((List.range 4).flatMap (fun d => (s.healthyOf d).drop 32))

/-! ### The map registers (R38, R39) -/

/-- The physical core an entry names, valid or not. -/
def State.entry (s : State) (n : Nat) : Nat := 34 * s.fld (rCmap n) 9 8 + s.fld (rCmap n) 5 0

/-- HEALTHY and SPARE follow the fences and the map in force; SPARE keeps its reset value 0 until a build since reset (LAST). DEDUCED (log 57). -/
def State.countHealth (s : State) : State :=
  let mapped := (List.range 128).filterMap s.phys
  let spare := if s.fld rCmapSum 11 8 = 0 then 0 else ((List.range 136).filter (fun k => !s.fenced k && !mapped.contains k)).length
  (s.setFld rCmapSum 39 32 s.healthy).setFld rCmapSum 7 0 spare

/-- The word of a map entry. -/
def cmapWord (n k : Nat) : Nat := 2 ^ 63 + bit (k / 34 != n / 32) * 2 ^ 23 + k / 34 * 2 ^ 8 + k % 34

/-- The physical core whose CORE_ or ENG_ block holds a register. -/
def coreOfReg (a : Nat) : Option Nat :=
  if coreB ≤ a ∧ a < coreB + 136 * 0x10000 then some ((a - coreB) / 0x10000)
  else if engB ≤ a ∧ a < engB + 136 * 0x10000 then some ((a - engB) / 0x10000)
  else none

/-- Idle spares, the healthy physical cores outside the list `m` of mapped ones, are held in reset, their CORE_ and ENG_ registers with them (R37, R536); a fence is not a reset. -/
def State.restSpares (s : State) (m : List Nat) : State :=
  let spare := fun k => !m.contains k && !s.fenced k
  { s with cores := Tab.drop s.cores spare, regs := Tab.drop s.regs (fun a => (coreOfReg a).any spare) }

/-- Put a map in force; a physical core outside it is an idle spare, held in reset (R37). DEDUCED (log 57). -/
def State.putMap (s : State) (m : List Nat) : State :=
  let s := s.restSpares m
  let new := m.zipIdx.map (fun e => (e.2, cmapWord e.2 e.1))
  let changed := new.any (fun e => s.reg (rCmap e.1) != e.2)
  let s := new.foldl (fun s e => s.setReg (rCmap e.1) e.2) s
  let s := if changed then s.setFld rCmapSum 63 48 ((s.fld rCmapSum 63 48 + 1) % 65536) else s
  let s := s.setFld rCmapSum 23 16 (m.zipIdx.filter (fun e => e.1 / 34 != e.2 / 32)).length
  (s.setFld rCmapSum 11 8 1).countHealth

/-- Logical cores of every running partition but those of `free`. DEDUCED (log 57). -/
def State.keptCores (s : State) (free : List Nat) : List Nat :=
  s.parts.flatMap (fun (e : Nat × Part) => if e.2.busy && !free.contains e.1 then e.2.cores else [])

/-- What a map build answers. -/
inductive MapPlan where
  | ok (m : List Nat)
  | few
  | busy
  deriving DecidableEq, Repr

/-- A build beside the partitions that run, other than those of `free` (R32, R164). DEDUCED (log 57). -/
def State.planMap (s : State) (free : List Nat) : MapPlan :=
  match s.buildMap with
  | none => .few
  | some m => if (s.keptCores free).any (fun n => m[n]? != some (s.entry n)) then .busy else .ok m

/-- The registers after a refused build (R39): HEALTHY and SPARE are counted again, and XDIE keeps the count of the last map built, of which R39 does not speak. A physical core whose entry loses VALID is an idle spare (R37). DEDUCED (log 57). -/
def State.refuseMap (s : State) (few : Bool) : State :=
  if few then
    let keep := s.keptCores []
    let s := (List.range 128).foldl (fun s n => if keep.contains n then s else s.setFld (rCmap n) 63 63 0) s
    ((s.restSpares ((List.range 128).filterMap s.phys)).setFld rCmapSum 11 8 2).countHealth
  else (s.setFld rCmapSum 11 8 3).countHealth

/-! ### Fencing -/

/-- Partitions whose program has been mapped and has not started (R34, R461). -/
def State.waitingParts (s : State) : List Nat := (List.range 8).filter (fun p => (s.part p).st == .loaded || (s.part p).st == .restoring)

/-- The registers of a core that a load clears (R73, R123, R171, R274, R311, R328): `k` its physical core, `c` the logical core it hosts. -/
def State.clearCore (s : State) (k c : Nat) : State :=
  let s := ((s.setReg (rArith k) 0).clearRegs (rPhs k 0) (rPhe k 64)).setReg (rFeedStat k) 0
  let s := (((s.setReg (rFeedMerge k) 0).setReg (rMbconf c) 0).setReg (rMstarve c) 0).setReg (rMevt c) 0
  s.clearRegs (rAstep k 0) (rAstroll k 8)

/-- A core whose entry a new map changed takes its loaded program to its new host, and the clears of R171 are repeated there (R34); arrays and spreads are those of the new host. DEDUCED (log 57). -/
def State.rehost (s : State) (n k : Nat) (x : Core) : State :=
  match s.phys n with
  | some j => if j = k then s else (s.setCore j { x with arrays := (s.core j).arrays, spreads := (s.core j).spreads }).clearCore j n
  | none => s

/-- Move the loaded cores of the partitions that have not started to the hosts of a new map (R34). DEDUCED (log 57). -/
def State.moveCores (s : State) (m : List Nat) : State :=
  let old := s.waitingParts.flatMap (fun p => (s.part p).cores.filterMap (fun n => (s.phys n).map (fun k => (n, k, s.core k))))
  old.foldl (fun s e => s.rehost e.1 e.2.1 e.2.2) (s.putMap m)

/-- Start a restore again from the start of the cairn (R461). -/
def State.restartRestore (s : State) : State :=
  match s.restore with
  | none => s
  | some r =>
    let s := { s with restore := some { r with checked := r.mode == 1 && r.checked, blocks := [] } }
    if r.mode = 0 then s.sendTo 1 s.buddy.1 s.buddy.2 (.cairnCtl 5 ⟨0, r.part, 0, r.cstep, 0, 0⟩) else s

/-- The rebuild for programs that have not started (R34, R461): their cores move, and a restore starts again. A refused one shows in the map registers (R39), and the programs of `doomed` that still wait end with CORE_FENCED at logical core `c`. DEDUCED (log 57). -/
def State.remap (s : State) (doomed : List Nat) (c : Nat) : State :=
  match s.planMap s.waitingParts with
  | .ok m => (s.moveCores m).restartRestore
  | .few => (doomed.foldl (fun s p => s.terminate p tFenced (.core c)) s).refuseMap true
  | .busy => (doomed.foldl (fun s p => s.terminate p tFenced (.core c)) s).refuseMap false

/-- What the fence of a mapped core does to programs (R33, R34, R456, R461): a program that runs on it ends, and where programs wait to start the map is built again; without 128 healthy cores none of them can start. DEDUCED (log 57). -/
def State.fenceProgram (s : State) (c : Nat) : State :=
  let hit := s.partOf c
  let waits := s.waitingParts
  let s := match hit with
    | some p => if waits.contains p then s else s.terminate p tFenced (.core c)
    | none => s
  if waits.isEmpty then s
  else s.remap (if s.buildMap.isNone then waits else waits.filter (fun p => some p == hit)) c

/-- Fence a physical core (R456, R515). -/
def State.fenceCore (s : State) (k : Nat) : State :=
  if s.fenced k then s
  else
    let s := (s.setFld (rDsup (k / 34)) (k % 34) (k % 34) 1).countHealth
    match s.logicalOf k with
    | none => s
    | some c => s.fenceProgram c

/-- A logical core that the map in force hosts on a fenced physical core, the lowest. -/
def State.fencedEntry (s : State) : Option Nat := (List.range 128).find? (fun n => (s.phys n).any s.fenced)

/-- No program starts on a map that contains a fenced core (R34): at the start of partition `p` such a map is built again, and where it cannot be the program ends with CORE_FENCED. DEDUCED (log 57). -/
def State.remapAtStart (s : State) (p : Nat) : State :=
  match s.fencedEntry with
  | some c => s.remap [p] c
  | none => s

/-- The fences that unit history keeps, as boot reads them and a start of the dies shows them, and the count of healthy cores (R38, R456, R515). -/
def State.readFences (s : State) (lasting : Nat → Bool) : State :=
  ((List.range 136).foldl (fun s k => s.setFld (rDsup (k / 34)) (k % 34) (k % 34) (bit (lasting k))) s).countHealth

/-- The hub records the device as failed (R496): every physical core is fenced. -/
def State.failDevice (s : State) : State := (List.range 136).foldl State.fenceCore (s.setFld rBoot 63 60 4)

/-! ### The start of a step (R34, R160) -/

/-- STEP_OPEN (R34, R160, R247, R432): an accepted command opens the next step once any cairn write of the partition has ended; the first step of a program opens on a map without fenced cores. -/
def execStepOpen (p : Nat) (s : State) : Host.Outcome State Fault Refusal :=
  guardWf (Instr.wf (.stepOpen p)) s fun s =>
    match (s.part p).cmd with
    | none => s
    | some c =>
      match (s.part p).st with
      | .loaded =>
        if c.start then
          let s := s.remapAtStart p
          if (s.part p).st = .loaded then s.openStep p c else s
        else s
      | .closed => if c.start ∨ s.cairnOut.any (fun w => w.part == p) then s else s.openStep p c
      | _ => s

/-! ### Faulty channels (R335, R346) -/

/-- Faulty slots still in the map. -/
def State.faultySlots (s : State) : List Nat := (List.range 256).filter (fun t => s.chanFaulty (chanOf t))

/-- A channel becomes faulty: an event of unit history, and a failed device past 8. -/
def State.faultChannel (s : State) (q : Nat) : State :=
  if s.fld (rHmcStat q) 63 60 = 5 ∨ s.fld (rHmcStat q) 63 60 = 6 then s
  else
    let s := (s.setFld (rHmcStat q) 63 60 5).unitEvent (unitChan q) evDirect 0
    if 8 < s.faultySlots.length + s.fld rMap 35 32 then s.failDevice else s

end Sys2Proof.Machine
end

