-- ==== Sys2Proof/Machine/Hmc.lean ====
section
/-! DEFINITION. Stacked-memory channels (10): reads, writes and scrubs with their check code (R336, R340, R341), refresh (R331), interface errors (R345), digest sweeps (R354) and the traffic generator (R355). -/

namespace Sys2Proof.Machine

/-! ### Counters and errors -/

/-- Where a DPA's burst lies, for DETAIL (R453): pseudo-channel, bank, row. -/
def State.burstAt (s : State) (a : Nat) : List Nat :=
  match s.homeOf a with
  | some h => [h.pc, h.bank, h.row]
  | none => []

/-- A corrected burst; one already marked poisoned counts nothing (R340). -/
def State.burstCorrected (s : State) (q a : Nat) : State :=
  let l := s.burstAt a
  if s.mem.bad a then s
  else ((s.addFld (rHmcEcc q) 47 24 1).setFld (rHmcEcc q) 0 0 (l.headD 0)).unitEvent (unitChan q) evCe (detailOf l)

/-- An uncorrectable burst: counted and marked when it is first met (R340), its row listed as failing (R342). DEDUCED (log 72). -/
def State.burstLost (s : State) (q a : Nat) : State :=
  if s.mem.bad a then s
  else
    let l := s.burstAt a
    let rows := match s.homeOf a with
      | some h => [(q, h.pc, h.bank, h.row)]
      | none => []
    let s := { s with mem := s.mem.setPoison (groupOf a) true, flash := { s.flash with chanRows := (s.flash.chanRows ++ rows).dedup } }
    ((s.addFld (rHmcEcc q) 63 48 1).setFld (rHmcEcc q) 0 0 (l.headD 0)).unitEvent (unitChan q) evUe (detailOf l)

/-- What reading one burst meets. -/
def State.burstErr (s : State) (q a : Nat) (e : Ecc) : State :=
  match e with
  | .good => s
  | .corrected => s.burstCorrected q a
  | .bad => s.burstLost q a

/-- An on-die report of correction in reading the burst at `a` (R341), the most recent event of its pseudo-channel (R356). -/
def State.onDie (s : State) (q a : Nat) (odc : Bool) : State :=
  if odc then ((s.addFld (rHmcEcc q) 23 8 1).setFld (rHmcEcc q) 0 0 ((s.burstAt a).headD 0)).unitEvent (unitChan q) evCe (detailOf (s.burstAt a)) else s

/-! ### Requests -/

/-- A request that holds a tracker, by its number. -/
def State.fabReq (s : State) (id : Nat) : Option FabReq := s.fab.find? (fun r => r.id == id)

/-- Change a request. -/
def State.setReq (s : State) (r : FabReq) : State := { s with fab := s.fab.map (fun x => if x.id = r.id then r else x) }

/-- A request waits at its destination: a read, write or contribution to scratchpad (`stack` false) or stacked memory. -/
def State.waits (s : State) (id : Nat) (kind : FKind) (stack : Bool) : Option FabReq :=
  (s.fabReq id).bind (fun r => if r.kind = kind ∧ !r.served ∧ decide (stackDpa ≤ r.addr) = stack then some r else none)

/-- A request has been served with data. -/
def State.serve (s : State) (r : FabReq) (data : List PByte) : State := s.setReq { r with served := true, data := data }

/-- The memory effect of a write request at its destination, with its poisoned stores counted (R446). -/
def State.writeReq (s : State) (r : FabReq) : State :=
  let s := (s.storeWord r.addr r.data).serve r r.data
  match s.logicalOf r.core with
  | some c => s.wrote r.core c r.op r.addr r.data
  | none => s

/-- HMC_READ (R336, R337, R340, R346): a controller serves a read where it is the next of its pseudo-channel; `e0` and `e1` are what the word's two bursts meet, `odc` an on-die report. A faulty channel returns poison without access to the stack. DESIGN CHOICE (log 20). DEDUCED (log 55). -/
def execHmcRead (id : Nat) (e0 e1 : Ecc) (odc : Bool) (s : State) : Host.Outcome State Fault Refusal :=
  guardWf (Instr.wf (.hmcRead id e0 e1 odc)) s fun s =>
    match s.waits id .read true with
    | none => s
    | some r =>
      match s.chanAt r.addr with
      | none => s
      | some q =>
        let w := r.addr / 64 * 64
        if s.chanState q = 5 then s.serve r (s.loadWord r.addr r.len)
        else if s.chanState q = 2 ∧ s.chanTurn r then
          let s := ((((s.chanGrant r).countAccess w false).burstErr q w e0).burstErr q (w + 32) e1).onDie q w odc
          s.serve r (s.loadWord r.addr r.len)
        else s

/-- HMC_WRITE (R336, R337, R346): a controller takes a write where it is the next of its pseudo-channel; a faulty channel discards it. DESIGN CHOICE (log 20). -/
def execHmcWrite (id : Nat) (s : State) : Host.Outcome State Fault Refusal :=
  guardWf (Instr.wf (.hmcWrite id)) s fun s =>
    match s.waits id .write true with
    | none => s
    | some r =>
      match s.chanAt r.addr with
      | none => s
      | some q => if s.chanState q = 5 then s.writeReq r else if s.chanState q = 2 ∧ s.chanTurn r then ((s.chanGrant r).countAccess r.addr true).writeReq r else s

/-- REFRESH (R331, R338): a per-bank refresh costs time and changes no contents. -/
def execRefresh (q bank : Nat) (s : State) : Host.Outcome State Fault Refusal :=
  guardWf (Instr.wf (.refresh q bank)) s fun s => s

/-- REFRESH_MANAGEMENT (R331, R338): refresh management costs time and changes no contents. -/
def execRefreshManagement (q : Nat) (s : State) : Host.Outcome State Fault Refusal :=
  guardWf (Instr.wf (.refreshManagement q)) s fun s => s

/-- Bursts of one channel (R332). -/
def chanBursts : Nat := 0x90000000 / 32

/-- HMC_SCRUB (R341, R343): the scrub reads the channel's next burst, below level HOT. DESIGN CHOICE (log 33). -/
def execHmcScrub (q : Nat) (err : Ecc) (odc : Bool) (s : State) : Host.Outcome State Fault Refusal :=
  guardWf (Instr.wf (.hmcScrub q err odc)) s fun s =>
    if s.chanState q = 2 ∧ s.level q < 2 then
      let b := (s.chan q).scrub
      let s := s.updChan q (fun c => { c with scrub := (b + 1) % chanBursts })
      match granuleDpa s.removed q (b / 128) with
      | some a => (s.burstErr q (a + b % 128 * 32) err).onDie q (a + b % 128 * 32) odc
      | none => s.onDie q 0 odc
    else s

/-- INTERFACE_ERROR (R345): 16 errors within 1 s make a retraining fall due. -/
def execInterfaceError (q : Nat) (s : State) : Host.Outcome State Fault Refusal :=
  guardWf (Instr.wf (.interfaceError q)) s fun s =>
    s.updChan q (fun c =>
      let l := (s.now :: c.errs).filter (fun t => decide (s.now < t + 1000000000))
      { c with errs := l, due := c.due || decide (16 ≤ l.length) })

/-! ### Digest sweeps (R354) -/

/-- One word's part of a sweep, in the accumulator of its channel. DESIGN CHOICE (log 28). -/
def State.sweepWord (s : State) (n a : Nat) : State :=
  match s.chanAt a with
  | some q =>
    let s := s.countAccess a false
    s.setReg (rDgsacc q n) (BitVec.ofNat 64 (s.reg (rDgsacc q n)) ^^^ contribution ((s.loadWord a 64).map (·.1)) a).toNat
  | none => s

/-- DIGEST_SWEEP_COMPLETE (R347, R354): every channel has read its words of the region, none of them retraining; the sweep's digest is set, with DIRTY where a write was seen. DESIGN CHOICE (log 28). -/
def execDigestSweepComplete (n : Nat) (s : State) : Host.Outcome State Fault Refusal :=
  guardWf (Instr.wf (.digestSweepComplete n)) s fun s =>
    if s.sweeps.contains n ∧ s.retraining.isNone then
      let r := s.dgRange n
      let s := (List.range ((r.2 - r.1) / 64)).foldl (fun s i => s.sweepWord n (r.1 + 64 * i)) s
      let d := s.mappedChans.foldl (fun (d : Word64) q => d ^^^ BitVec.ofNat 64 (s.reg (rDgsacc q n))) 0
      { (s.setReg (rDgswp n) d.toNat).setFld (rDgst n) 3 3 1 with sweeps := s.sweeps.erase n }
    else s

/-! ### The traffic generator (R355) -/

/-- The generator of a channel runs; a write of MODE 0 lets the operations issued complete (R552). -/
def State.tgRuns (s : State) (q : Nat) : Bool := (s.chan q).tg.isSome

/-- Modes 2 and 3 destroy the contents of the pseudo-channels, banks and rows they address (R355): undefined from now on. DEDUCED (log 37). -/
def State.tgDestroy (s : State) (q w : Nat) : State :=
  if bits w 63 60 = 2 ∨ bits w 63 60 = 3 then
    let (t, s) := s.fresh
    { s with mem := s.mem.lay ⟨stackDpa, stackTop, .chan s.removed q (bits w 47 46) (bits w 35 30) (bits w 14 0), some t⟩ }
  else s

/-- TG_RUN_COMPLETE (R355, R356): a run finishes and sets HMC_TGSTAT; at HOT and during a retraining it is paused. DEDUCED (log 37). -/
def execTgRunComplete (q eff fpc fbank frow errs : Nat) (s : State) : Host.Outcome State Fault Refusal :=
  guardWf (Instr.wf (.tgRunComplete q eff fpc fbank frow errs)) s fun s =>
    match (s.chan q).tg with
    | none => s
    | some w =>
      if s.chanState q = 2 ∧ s.level q < 2 then
        ((s.updChan q (fun c => { c with tg := none })).tgDestroy q w).setReg (rTgstat q)
          (2 ^ 63 + eff * 2 ^ 48 + fpc * 2 ^ 47 + fbank * 2 ^ 41 + frow * 2 ^ 26 + errs)
      else s

end Sys2Proof.Machine
end

