-- ==== Sys2Proof/Machine/Fabric.lean ====
section
/-! DEFINITION. The Vezel fabric and the scratchpad slices (08): slice accesses, scrubs and merged reads, potluck rounds, remote flag adds, responses, bridge links, router failures and marches. -/

namespace Sys2Proof.Machine

/-! ### Errors (R280) -/

/-- SLC_ECC after an event of a bank (R313). -/
def State.sliceEcc (s : State) (slice bank : Nat) (ue : Bool) : State :=
  let r := rSlcEcc slice
  let s := if ue then s.addFld r 63 48 1 else s.addFld r 47 16 1
  (s.setFld r 12 8 bank).setFld r 0 0 (bit ue)

/-- One correctable group `g` of the word of `a`; a group already marked poisoned counts nothing (R280). -/
def State.groupCorrected (s : State) (a g : Nat) : State :=
  if s.mem.bad g then s
  else (s.sliceEcc (sliceOf a) (bankOf a) false).unitEvent (unitSlice (sliceOf a)) evCe (detailOf [bankOf a, rowOf a])

/-- One uncorrectable group: counted and marked when it is first met (R280). -/
def State.groupLost (s : State) (a g : Nat) : State :=
  if s.mem.bad g then s
  else
    let s := { s with mem := s.mem.setPoison g true }
    (s.sliceEcc (sliceOf a) (bankOf a) true).unitEvent (unitSlice (sliceOf a)) evUe (detailOf [bankOf a, rowOf a])

/-- The errors a read or scrub of the word of `a` meets: groups 0 to 7 (R280). -/
def State.wordErrors (s : State) (a : Nat) (ce ue : List Nat) : State :=
  let base := a / 64 * 64
  let s := ce.foldl (fun s g => s.groupCorrected base (base + 8 * g)) s
  ue.foldl (fun s g => s.groupLost base (base + 8 * g)) s

/-! ### Potluck rounds (R292 to R298) -/

/-- The potluck set of a word: that of the live ACC extent that holds it, with its partition (R292). -/
def State.potSet (s : State) (p a : Nat) : List Nat :=
  (((s.part p).extents.find? (fun e => e.mode == 3 && decide (e.base ≤ a ∧ a < e.base + e.len))).map Extent.pot).getD []

/-- Enter one contribution of a request into the rounds of its word. -/
def State.contribute (s : State) (p c : Nat) (r : FabReq) (o : Op) (a : Nat) : State :=
  let bs := (r.data.drop (a - r.addr)).take 4
  let x : Contrib := ⟨c, r.id, o.id, (BitVec.ofNat 32 (ofLe (bs.map (·.1))), bs.any (·.2)), o.st, o.pc⟩
  let w := Tab.get s.pot ⟨p, s.potSet p a, []⟩ a
  { s with pot := Tab.put s.pot a { w with contribs := w.contribs ++ [x] } }

/-- A core still owes a contribution to a word that it issued before instruction `op`, request `req` (R293). DEDUCED (log 19). -/
def State.owesPot (s : State) (k a op req : Nat) : Bool :=
  (s.core k).ops.any (fun x => decide (x.id < op) && isPot x.ins &&
    (List.range (reqCount x.dst)).any (fun i => decide (x.wsent ≤ i) &&
      (match nthReq x.dst 0 i with
       | some q => decide (q.addr ≤ a ∧ a < q.addr + q.len)
       | none => false))) ||
  s.fab.any (fun r => r.core == k && r.kind == .pot && !r.served && decide (r.op < op ∨ r.op = op ∧ r.id < req) && decide (r.addr ≤ a ∧ a < r.addr + r.len))

/-- Issue order of two contributions of one core. -/
def Contrib.before (a b : Contrib) : Bool := decide (a.op < b.op ∨ a.op = b.op ∧ a.req < b.req)

/-- The earliest contribution of a list in issue order. -/
def firstContrib : List Contrib → Option Contrib
  | [] => none
  | a :: r =>
    match firstContrib r with
    | some b => some (if b.before a then b else a)
    | none => some a

/-- A member's contribution to the next round of a word: its first in issue order, once it owes none before it (R293). DEDUCED (log 19). -/
def State.nextContrib (s : State) (a : Nat) (w : PotWord) (c : Nat) : Option Contrib :=
  match firstContrib (w.contribs.filter (fun x => x.core == c)), s.phys c with
  | some x, some k => if s.owesPot k a x.op x.req then none else some x
  | _, _ => none

/-- One level of the canonical tree: neighbours are added, a last member without a partner passes up (R293). -/
def treeLevel : List (Word32 × Fl) → List (Word32 × Fl)
  | a :: b :: r => let v := add32 a.1 b.1; (v.1, a.2 ||| b.2 ||| v.2) :: treeLevel r
  | l => l

/-- The canonical tree over the members' values, in `n` levels at most, with the flags its additions raise. DEDUCED (log 19). -/
def treeSum : Nat → List (Word32 × Fl) → Word32 × Fl
  | 0, l => l.headD (0, 0)
  | n + 1, l => if l.length ≤ 1 then l.headD (0, 0) else treeSum n (treeLevel l)

/-- The poisoned store that a round makes (R295, R446): counted once for the word, at the instruction of its lowest member. DEDUCED (log 19). -/
def State.potPoison (s : State) (p : Nat) (xs : List Contrib) : State :=
  match xs with
  | x :: _ => s.poisonStore p 1 x.core x.st x.pc
  | [] => s

/-- A round is applied: the word becomes RNE(old + tree sum) (R293), written in stacked memory with the whole of its 64-byte word (R336), poisoned where a contribution or the word is (R295), with NAN_GEN and OVF raised at the lowest member (R566). DEDUCED (log 19). -/
def State.applyRound (s : State) (a : Nat) (w : PotWord) (xs : List Contrib) : State :=
  let old := s.loadWord a 4
  let base := a / 64 * 64
  let sum := treeSum 8 (xs.map (fun x => (x.val.1, 0)))
  let r := add32 (BitVec.ofNat 32 (ofLe (old.map (·.1)))) sum.1
  let bad := xs.any (fun x => x.val.2) || old.any (·.2)
  let new := (toLe 4 r.1.toNat).map (fun b => ((b, bad) : PByte))
  let s := if stackDpa ≤ a then
      let l := s.loadWord base 64
      s.storeWord base (l.take (a - base) ++ new ++ l.drop (a - base + 4))
    else (s.storeWord a new).closeMerge a
  let s := match (w.members.head?).bind s.phys with
    | some k => s.raise k ((sum.2 ||| r.2) &&& (Fl.nanGen ||| Fl.ovf))
    | none => s
  let s := if bad then s.potPoison w.part xs else s
  let ids := xs.map Contrib.req
  let rest := w.contribs.filter (fun x => !ids.contains x.req)
  let s := { s with
    pot := if rest.isEmpty then Tab.del s.pot a else Tab.put s.pot a { w with contribs := rest }
    fab := s.fab.map (fun (r : FabReq) => if ids.contains r.id then { r with left := r.left.erase a } else r) }
  s.countPot a

/-- The read and the write of a round at its destination, for the master of its lowest member `m`, and what the group or burst that it reads meets (R277, R280, R284, R336, R340). DEDUCED (log 19). -/
def State.roundRead (s : State) (m a : Nat) (err : Ecc) : State :=
  match s.chanAt a with
  | some q => if s.chanState q = 2 then ((s.countAccess a false).countAccess a true).burstErr q (groupOf a) err else s
  | none =>
    let r := s.bankAccess m a
    let w := r.1.bankAccess m a
    let s := w.1
    match err with
    | .good => s
    | .corrected => s.wordErrors a [a % 64 / 8] []
    | .bad => s.wordErrors a [] [a % 64 / 8]

/-! ### The events -/

/-- SLICE_READ (R279, R280, R284, R299, R301 to R304): the slice serves a read of one word where its arbiter picks it. Within the merge window it takes no bank access; else `ce` and `ue` are the groups found correctable and uncorrectable. DESIGN CHOICE (log 20). DEDUCED (log 55). -/
def execSliceRead (id : Nat) (ce ue : List Nat) (s : State) : Host.Outcome State Fault Refusal :=
  guardWf (Instr.wf (.sliceRead id ce ue)) s fun s =>
    match s.waits id .read false with
    | none => s
    | some r =>
      if !s.sliceTurn r then s
      else
        let x := s.sliceRead (s.masterOf r) r.addr
        let s := x.1.sliceGrant r x.2.2
        let s := if x.2.1 then s.wordErrors r.addr ce ue else s
        s.serve r (s.loadWord r.addr r.len)

/-- SLICE_WRITE (R277, R280, R284, R286, R301 to R304): the slice performs a masked write where its arbiter picks it. DESIGN CHOICE (log 20). -/
def execSliceWrite (id : Nat) (s : State) : Host.Outcome State Fault Refusal :=
  guardWf (Instr.wf (.sliceWrite id)) s fun s =>
    match s.waits id .write false with
    | none => s
    | some r =>
      if !s.sliceTurn r then s
      else
        let x := s.bankAccess (s.masterOf r) r.addr
        ((x.1.sliceGrant r x.2).closeMerge r.addr).writeReq r

/-- SLICE_SCRUB (R277, R280, R284): the next row's word of all 32 banks is read, by the die supervisor (R301); group 8 × bank + g of the row. -/
def execSliceScrub (slice : Nat) (ce ue : List Nat) (s : State) : Host.Outcome State Fault Refusal :=
  guardWf (Instr.wf (.sliceScrub slice ce ue)) s fun s =>
    let row := Tab.get s.scrubRow 0 slice % 4096
    let d := slice / 128
    let s := (List.range 32).foldl
      (fun s b => let x := s.bankAccess (132 + d) (sliceDpa slice b row); (x.1.waited (132 + d) d x.2).spend d 2) s
    let s := ce.foldl (fun s g => s.groupCorrected (sliceDpa slice (g / 8) row) (sliceDpa slice (g / 8) row + g % 8 * 8)) s
    let s := ue.foldl (fun s g => s.groupLost (sliceDpa slice (g / 8) row) (sliceDpa slice (g / 8) row + g % 8 * 8)) s
    { s with scrubRow := Tab.put s.scrubRow slice ((row + 1) % 4096) }

/-- POTLUCK_CONTRIBUTION (R293, R297, R298): a contribution reaches its destination and joins the rounds of its words; one of a program that has ended is discarded. -/
def execPotluckContribution (id : Nat) (s : State) : Host.Outcome State Fault Refusal :=
  guardWf (Instr.wf (.potluckContribution id)) s fun s =>
    match s.fabReq id with
    | none => s
    | some r =>
      if r.kind ≠ .pot ∨ r.served ∨ !s.route (coreDie r.core) (s.dieOf r.core r.addr) ∨ (r.addr < hamperDpa ∧ !s.sliceTurn r) then s
      else
        let s := if r.addr < hamperDpa then s.sliceGrant r 0 else s
        let gone := s.setReq { r with served := true, left := [] }
        match s.logicalOf r.core, (s.core r.core).op r.op with
        | some c, some o =>
          (match s.partOf c with
           | some p => (r.left.foldl (fun s a => s.contribute p c r o a) (s.setReq { r with served := true })).countPot r.addr
           | none => gone)
        | _, _ => gone

/-- POTLUCK_ROUND_APPLY (R293 to R298, R566): the next round of a word is applied once every member of its set has contributed. `err` is what reading the word's group meets. -/
def execPotluckRoundApply (a : Nat) (err : Ecc) (s : State) : Host.Outcome State Fault Refusal :=
  guardWf (Instr.wf (.potluckRoundApply a err)) s fun s =>
    match Tab.find s.pot a with
    | none => s
    | some w =>
      match w.members.mapM (s.nextContrib a w) with
      | none => s
      | some xs =>
        if xs.isEmpty ∨ !(s.chanAt a).all s.serves then s
        else (s.roundRead ((w.members.head?).getD 0) a err).applyRound a w xs

/-- REMOTE_FLAG_ADD (R143, R148, R182, R450): the add takes effect at its target flag, and is acknowledged; at a fenced core it is discarded. -/
def execRemoteFlagAdd (id : Nat) (s : State) : Host.Outcome State Fault Refusal :=
  guardWf (Instr.wf (.remoteFlagAdd id)) s fun s =>
    match s.fabReq id with
    | none => s
    | some r =>
      match r.kind with
      | .flag t n amount =>
        if !s.route (coreDie r.core) (coreDie ((s.phys t).getD r.core)) then s
        else
        let o := (s.core r.core).op r.op
        let s := match o with
          | some o => s.updCore r.core (fun c => c.finish o)
          | none => s
        let s := s.freeReq r
        (match s.phys t, s.logicalOf r.core, o with
         | some k, some c, some o => if s.fenced k then s else s.addFlag k n amount c o.st o.pc
         | _, _, _ => s)
      | _ => s

/-- The read's data enters the core and its tracker is freed (R322); data of a voided or ended instruction is discarded. -/
def State.landResponse (s : State) (id : Nat) : State :=
  match s.fabReq id with
  | none => s
  | some r =>
    if r.kind = .read ∧ r.served ∧ s.route (s.dieOf r.core r.addr) (coreDie r.core) then
      let s := s.freeReq r
      match s.logicalOf r.core with
      | some c => if r.data.isEmpty then s else s.land r.core c r.op r.pos r.data
      | none => s
    else s

/-- WRITE_ACKNOWLEDGE (R286, R296, R322): a write, or a potluck contribution whose rounds are applied, is complete. DESIGN CHOICE (log 14). -/
def execWriteAcknowledge (id : Nat) (s : State) : Host.Outcome State Fault Refusal :=
  guardWf (Instr.wf (.writeAcknowledge id)) s fun s =>
    match s.fabReq id with
    | none => s
    | some r =>
      if (r.kind = .write ∨ r.kind = .pot) ∧ r.served ∧ r.left.isEmpty ∧ s.route (s.dieOf r.core r.addr) (coreDie r.core) then (s.freeReq r).acked r.core r.op else s

/-! ### Bridge links (R290, R291) -/

/-- The other end of a link: of a bridge link the other die's end, of a hub bridge (n = 3) the hub's. -/
def farEnd (d n : Nat) : Nat :=
  if n = 3 then 16 + d
  else
    let o := if n < d then n else n + 1
    4 * o + (if d < o then d else d - 1)

/-- The end whose replay buffer an ACK or NACK at end n of die d names: that end, of a hub bridge the hub's, whose blocks arrive at the die. DEDUCED (log 21). -/
def senderEnd (d n : Nat) : Nat := if n = 3 then 16 + d else 4 * d + n

/-- The ends of a link that have a register: die and n. -/
def linkRegs (d n : Nat) : List Nat := if n = 3 then [rLink d 3] else [rLink d n, rLink (farEnd d n / 4) (farEnd d n % 4)]

/-- A link end. -/
def State.link (s : State) (e : Nat) : Link := Tab.get s.links Link.reset e

/-- Change a link end. -/
def State.updLink (s : State) (e : Nat) (f : Link → Link) : State := { s with links := Tab.put s.links e (f (s.link e)) }

/-- Deliver held blocks in sequence order. -/
def Link.deliver : Nat → Link → Link
  | 0, l => l
  | n + 1, l => if l.held.contains l.recvSeq then Link.deliver n { l with held := l.held.erase l.recvSeq, recvSeq := (l.recvSeq + 1) % 2 ^ 32 } else l

/-- A link's STATE in both its registers. -/
def State.setLink (s : State) (d n st : Nat) : State := (linkRegs d n).foldl (fun s a => s.setFld a 63 62 st) s

/-- A link starts to retrain (R291). DEDUCED (log 21). -/
def State.retrainLink (s : State) (d n : Nat) : State :=
  let s := (linkRegs d n).foldl (fun s a => s.addFld a 47 32 1) (s.setLink d n 1)
  let s := s.updLink (4 * d + n) (fun l => { l with fails := [], retrains := (s.now :: l.retrains).filter (fun t => decide (s.now < t + 1000000000)) })
  s.unitEvent (unitLink d n) evCe 0

/-- BRIDGE_BLOCK_RECEIVE (R290, R291): a block arrives at end n of die d. A good one is acknowledged and delivered in sequence order; a damaged one is answered by a NACK, and its fourth failure in a row retrains the link. A new block is in the sender's replay buffer, which holds 64. DEDUCED (log 21). -/
def execBridgeBlockReceive (d n seq : Nat) (good : Bool) (s : State) : Host.Outcome State Fault Refusal :=
  guardWf (Instr.wf (.bridgeBlockReceive d n seq good)) s fun s =>
    let l := s.link (4 * d + n)
    let ahead := (seq + 2 ^ 32 - l.recvSeq) % 2 ^ 32
    let known := (s.link (farEnd d n)).replay.contains seq
    if s.fld (rLink d n) 63 62 ≠ 0 ∨ 64 ≤ ahead ∨ (!known ∧ 64 ≤ (s.link (farEnd d n)).replay.length) then s
    else
      let s := s.updLink (farEnd d n) (fun x => if known then x else { x with replay := x.replay ++ [seq], sendSeq := (seq + 1) % 2 ^ 32 })
      if good then
        (s.updLink (4 * d + n) (fun x => Link.deliver 64 { x with held := insertNat seq x.held, fails := Tab.del x.fails seq })).emit (.bridgeAck d n seq)
      else
        let f := Tab.get l.fails 0 seq + 1
        let s := (s.updLink (4 * d + n) (fun x => { x with fails := Tab.put x.fails seq f })).emit (.bridgeNack d n seq)
        if 4 ≤ f then s.retrainLink d n else s

/-- BRIDGE_NACK (R290): the sender resends the named block from its replay buffer. DEDUCED (log 21). -/
def execBridgeNack (d n seq : Nat) (s : State) : Host.Outcome State Fault Refusal :=
  guardWf (Instr.wf (.bridgeNack d n seq)) s fun s =>
    if (s.link (senderEnd d n)).replay.contains seq then (linkRegs d n).foldl (fun s a => s.addFld a 31 0 1) s else s

/-- BRIDGE_ACK (R290): the acknowledged block leaves the sender's replay buffer. -/
def execBridgeAck (d n seq : Nat) (s : State) : Host.Outcome State Fault Refusal :=
  guardWf (Instr.wf (.bridgeAck d n seq)) s fun s => s.updLink (senderEnd d n) (fun l => { l with replay := l.replay.erase seq })

/-- The blocks of an end's replay buffer are resent over the detour and delivered at the other end (R291). DEDUCED (log 21). -/
def State.detour (s : State) (d n e f : Nat) : State :=
  let l := (s.link e).replay
  let s := (linkRegs d n).foldl (fun s a => s.addFld a 31 0 l.length) s
  (s.updLink e (fun x => { x with replay := [] })).updLink f
    (fun x => Link.deliver 64 { x with held := l.foldl (fun h q => if (q + 2 ^ 32 - x.recvSeq) % 2 ^ 32 < 64 then insertNat q h else h) x.held })

/-- A link goes down (R291): the blocks in its replay buffers are resent over the detour, and it stays down until the next reset. DEDUCED (log 21). -/
def State.downLink (s : State) (d n : Nat) : State :=
  let s := (s.detour d n (4 * d + n) (farEnd d n)).detour d n (farEnd d n) (4 * d + n)
  (s.setLink d n 2).unitEvent (unitLink d n) evUe 0

/-- LINK_RETRAIN_END (R291): the link is up again, or down where retraining failed or this was its third within 1 s. DEDUCED (log 21). -/
def execLinkRetrainEnd (d n : Nat) (ok : Bool) (s : State) : Host.Outcome State Fault Refusal :=
  guardWf (Instr.wf (.linkRetrainEnd d n ok)) s fun s =>
    if s.fld (rLink d n) 63 62 = 1 then
      let l := s.link (4 * d + n)
      let recent := (l.retrains ++ (if n = 3 then [] else (s.link (farEnd d n)).retrains)).filter (fun t => decide (s.now < t + 1000000000))
      if ok ∧ recent.length < 3 then s.setLink d n 0 else s.downLink d n
    else s

/-! ### Routers (R306, R307) -/

/-- Both attachments of some slice of a die have failed. -/
def State.slicesLost (s : State) (d : Nat) : Bool :=
  let f := s.fld (rRtr d) 37 0
  (List.range 32).any (fun r => bits f r r == 1 && bits f (r ^^^ 1) (r ^^^ 1) == 1)

/-- Every program ends with HW_FAULT and the device is recorded as failed (R307). -/
def State.loseSlices (s : State) : State :=
  let s := (List.range 8).foldl (fun s p => s.terminate p tHwFault .none) s
  s.setArb.failDevice

/-- A router has failed: recorded, and a die whose slices cannot be reached fails the device (R306, R307). -/
def State.failRouter (s : State) (d r : Nat) : State :=
  let s := s.setFld (rRtr d) r r 1
  let s := if r < 34 then s.fenceCore (34 * d + r) else s
  if s.slicesLost d then s.loseSlices else s

/-- ROUTER_FAILURE (R306, R307, R454): the router is recorded as failed, with direct faults of the router and, for a core router, of its core, which is fenced. -/
def execRouterFailure (d r : Nat) (s : State) : Host.Outcome State Fault Refusal :=
  guardWf (Instr.wf (.routerFailure d r)) s fun s =>
    if s.fld (rRtr d) r r = 1 then s
    else
      let s :=
        if r < 34 then (s.unitEvent (unitRouter (34 * d + r)) evDirect 0).unitEvent (unitCore (34 * d + r)) evDirect 0
        else s.unitEvent (unitRouter (136 + 4 * d + (r - 34))) evDirect 0
      s.failRouter d r

/-! ### Marches (R308 to R310) -/

/-- The memory of one slice takes new contents, zero or undefined; its merge windows close (R299). -/
def State.laySlice (s : State) (slice : Nat) (tag : Option Nat) : State :=
  { s with mem := s.mem.lay ⟨0, hamperDpa, .slice slice, tag⟩, merge := s.merge.filter (fun e => sliceOf (64 * e.1) != slice) }

/-- Failing words of a march, numbered 4,096 × bank + row in the order found (R310, R454): SLC_MARCH holds their number and the first one's place, each is an event of the slice and falls due for a spare row. Without one, FBANK and FROW keep what an earlier march found. DEDUCED (log 22). -/
def State.recordFails (s : State) (slice : Nat) (fails : List Nat) : State :=
  let r := rSlcMarch slice
  let s := s.setFld r 49 32 fails.length
  let s := match fails with
    | [] => s
    | w :: _ => (s.setFld r 28 24 (w / 4096)).setFld r 23 12 (w % 4096)
  let rows := fails.map (fun w => (slice, w / 4096, w % 4096))
  fails.foldl (fun s w => s.unitEvent (unitSlice slice) evTestFail (detailOf [w / 4096, w % 4096]))
    { s with flash := { s.flash with badRows := (s.flash.badRows ++ rows).dedup } }

/-- A word that held an uncorrectable error is written back poison-marked by a preserving march (R309): counted once where it was not marked (R280). DEDUCED (log 22). -/
def State.markWord (s : State) (slice w : Nat) : State :=
  let a := sliceDpa slice (w / 4096) (w % 4096)
  let s := s.groupLost a a
  { s with mem := (List.range 8).foldl (fun m g => m.setPoison (a + 8 * g) true) s.mem }

/-- MARCH_COMPLETE (R308 to R310, R454). A destructive march leaves every word zero, a preserving one what it held. DEDUCED (log 22). -/
def execMarchComplete (slice : Nat) (b : MarchB) (s : State) : Host.Outcome State Fault Refusal :=
  guardWf (Instr.wf (.marchComplete slice b)) s fun s =>
    let r := rSlcMarch slice
    let st := s.fld r 63 60
    if st ≠ 1 ∧ st ≠ 2 then s
    else
      let s := if st = 2 then s.laySlice slice none else b.lost.foldl (fun s w => s.markWord slice w) s
      ((s.setFld r 63 60 (if b.fails.isEmpty then 3 else 4)).recordFails slice b.fails).setArb

end Sys2Proof.Machine
end

