-- ==== Sys2Proof/Machine/Epochs.lean ====
section
/-! DEFINITION. Reduction epochs (11): descriptors and shards, the holder's staging, credit and additions, the member's blocks and results, the host's roll call, admission and close, and the reduction messages of each role. -/

namespace Sys2Proof.Machine

/-- The descriptor digest (R369). -/
def Desc.digest (d : Desc) (g host : Nat) : Nat :=
  fieldLe (sha256 (slice d.bytes 0 24 ++ zeroBytes 12 ++ slice d.bytes 36 8 ++ toLe 4 g ++ toLe 4 host ++ toLe 4 1 ++ slice d.bytes 56 8)) 0 8

/-! ### Epochs by name (R375) -/

/-- The epoch of a name, if it is this device's current one on its channel. -/
def State.named (s : State) (n : EpName) : Option Epoch := (s.epoch n.rch).bind (fun e => if e.name = n then some e else none)

/-- Change the member's part of a channel's epoch. -/
def State.updMember (s : State) (ch : Nat) (f : MemberSide → MemberSide) : State :=
  s.updEpoch ch (fun e => { e with member := f e.member })

/-- Change the host's part of a channel's epoch. -/
def State.updHost (s : State) (ch : Nat) (f : HostSide → HostSide) : State :=
  s.updEpoch ch (fun e => { e with host := e.host.map f })

/-- A name lies below another on its channel. -/
def nameBelow (a b : EpName) : Bool := decide (a.step < b.step ∨ a.step = b.step ∧ a.ord < b.ord)

/-- NWT_RDROP.STALE (R405). -/
def State.stale (s : State) : State := s.addFld rRdrop 63 48 1

/-- Ranks of a group. -/
def State.allRanks (s : State) (g : Nat) : List Nat := List.range (((s.group g).map Group.size).getD 0)

/-- Size and host rank of a group. -/
def State.groupSize (s : State) (g : Nat) : Nat := ((s.group g).map Group.size).getD 0
def State.hostRank (s : State) (g : Nat) : Nat := ((s.group g).map Group.host).getD 0

/-! ### The status record (R389) -/

/-- Ranks resolved as `x`. -/
def HostSide.ranksOf (h : HostSide) (x : Resolved) : List Nat := (h.resolved.filter (fun r => r.2 == x)).map (·.1)

/-- Ranks counted missing so far (R389): not admitted, or excluded. -/
def HostSide.missing (h : HostSide) (g : Nat) : Nat := g - h.adm.length + (h.ranksOf .excluded).length

/-- A record's bytes. -/
def recordOf (n : EpName) (outcome flags head g : Nat) (divisor recip : Word32) (nans missing first time host ext : Nat) : List Byte :=
  toLe 4 n.step ++ toLe 1 n.ord ++ toLe 1 n.rch ++ toLe 1 outcome ++ toLe 1 flags ++ toLe 4 (bit (outcome == 0)) ++ toLe 4 head ++ toLe 4 g ++
    toLe 4 divisor.toNat ++ toLe 4 recip.toNat ++ toLe 4 nans ++ toLe 4 missing ++ toLe 4 first ++ toLe 8 time ++ toLe 4 host ++ toLe 4 ext ++ zeroBytes 8

/-- The record of an outcome found here. After a CLOSE, OUTCOME, APPLY, DIVISOR and RECIP change. Without one, the host gives what it knows, and what this device cannot know is free (log 5). -/
def State.ownRecord (s : State) (e : Epoch) (outcome : Nat) : List Byte × State :=
  let g := s.groupSize e.name.group
  let w := fun i => (Config.freeWord (s.free + i)).toNat
  let spent : State := { s with free := s.free + 8 }
  let host := s.hostRank e.name.group
  let time := w 5 * 2 ^ 32 + w 6
  if e.record ≠ [] then
    (e.record.take 6 ++ toLe 1 outcome ++ slice e.record 7 1 ++ zeroBytes 4 ++ slice e.record 12 8 ++ zeroBytes 8 ++ e.record.drop 28, s)
  else
    match e.host with
    | some h =>
      (recordOf e.name outcome (16 * bit (h.ext != 0)) (h.ranksOf .included).length g 0 0 h.census.length (h.missing g) (h.census.headD 0xFFFFFFFF) time host h.ext, spent)
    | none => (recordOf e.name outcome (w 0 % 2 * 16) (w 1) g 0 0 (w 2) (w 3) (w 4) time host (w 7), spent)

/-- The record as an RWAIT writes it: FLAGS bits 0 to 2 from the results, bit 3 of a listener. -/
def Epoch.finalRecord (e : Epoch) : List Byte :=
  e.record.take 7 ++ toLe 1 (fieldLe e.record 7 1 / 16 % 2 * 16 + 8 * bit e.listener + e.member.flags % 8) ++ e.record.drop 8

/-- The epoch ends on this device with an outcome (R388, R390). -/
def State.endEpoch (s : State) (ch outcome : Nat) : State :=
  match s.epoch ch with
  | none => s
  | some e =>
    if e.closed then s
    else if e.outcome = some outcome ∧ e.record ≠ [] then s.closeEpoch ch outcome
    else
      let (r, s) := s.ownRecord e outcome
      (s.putEpoch { e with record := r }).closeEpoch ch outcome

/-! ### The holder: staging and credit (R382, R396, R397) -/

/-- Blocks granted to the senders of a list and not arrived. -/
def HolderSide.outstanding (h : HolderSide) (ranks : List Nat) : Nat :=
  sumOf (ranks.map (fun r => Tab.get h.granted 0 r - (h.accepted.filter (fun a => a.rank == r)).length))

/-- Grant one rank what it may have of `room` blocks; the room left. DEDUCED (log 30). -/
def State.grantRank (s : State) (ch total room rank : Nat) : Nat × State :=
  match s.epoch ch with
  | none => (room, s)
  | some e =>
    let have' := Tab.get e.holder.granted 0 rank
    let n := min (total - have') room
    if n = 0 then (room, s)
    else
      let s := s.updHolder ch (fun h => { h with granted := Tab.put h.granted rank (have' + n) })
      (room - n, s.toRank e.name.group rank (.rack e.name e.rank 4 false false n 0))

/-- Count the blocks of a rank whose credit is withheld, once for each rank (R397). DEDUCED (log 30). -/
def State.withhold (s : State) (ch total rank : Nat) : State :=
  match s.epoch ch with
  | none => s
  | some e =>
    let left := total - Tab.get e.holder.granted 0 rank
    if left = 0 ∨ e.holder.waited.contains rank then s
    else (s.updHolder ch (fun h => { h with waited := rank :: h.waited })).addFld rRstage 15 0 left

/-- The roll call closed the epoch at once (R380): too few ranks admitted, or one missing under REPEAT. -/
def Desc.short (d : Desc) (g : Nat) (adm : List Nat) : Bool := decide (adm.length < d.hmin) || (d.policy == 0 && decide (adm.length < g))

/-- Staging credit (R397), none where the roll call closed the epoch (R380): the lowest admitted rank that the host has not admitted gets what fits its shard; the others, in ascending rank, what that leaves free. DEDUCED (log 30). -/
def State.grantCredit (s : State) (ch : Nat) : State :=
  match s.epoch ch with
  | none => s
  | some e =>
    match e.admitted with
    | some adm =>
      let d := e.desc
      let total := (d.shardBlocks d.wireCode adm e.rank).length
      let wait := adm.filter (fun r => match e.holder.upTo with
        | some u => decide (u < r)
        | none => true)
      if e.holder.ended ∨ total = 0 ∨ d.short (s.groupSize e.name.group) adm then s
      else
        let room := d.blocks - e.holder.staged.length - e.holder.outstanding wait
        let x := wait.foldl (fun (x : Nat × State) r => x.2.grantRank ch total x.1 r) (room, s)
        (wait.drop 1).foldl (fun s r => s.withhold ch total r) x.2
    | none => s

/-- Staged blocks of a rank leave staging. -/
def State.unstage (s : State) (ch rank : Nat) : State :=
  (s.updHolder ch (fun h => { h with staged := h.staged.filter (fun b => b.fed || b.rank != rank) })).countStage

/-- A holder that cannot go on (R386): INCONSISTENT to every rank of the group, and no result. DEDUCED (log 29). -/
def State.inconsistent (s : State) (ch : Nat) : State :=
  match s.epoch ch with
  | none => s
  | some e =>
    if e.holder.ended then s
    else
      let s := s.dropHolder ch
      let (r, s) := s.ownRecord e 5
      let s := s.toRanks e.name.group ((s.allRanks e.name.group).filter (fun x => x != e.rank)) (.close e.name 5 r [])
      s.endEpoch ch 5

/-- A holder that is lost (R400): LOST to every other rank of the group, and to itself by the local path. DEDUCED (log 29). -/
def State.holderLost (s : State) (ch : Nat) : State :=
  match s.epoch ch with
  | none => s
  | some e =>
    if e.holder.ended ∨ !s.duty e then s
    else
      (s.dropHolder ch).toRanks e.name.group (s.allRanks e.name.group) (.lost e.name e.rank)

/-! ### The holder: additions (R385, R350) -/

/-- The additions of one staged block, one batch for each tally word. -/
def State.batchesOf (s : State) (e : Epoch) (b : Staged) : List Batch :=
  let d := e.desc
  let n := d.blockLen d.wireCode b.first
  (List.range (ceilDiv n 16)).map (fun i =>
    let a := d.tally + 4 * b.first + 64 * i
    { chan := (s.chanAt a).getD 0
      addr := a
      comp := d.comp.map (fun c => c + 4 * b.first + 64 * i)
      rch := e.name.rch
      rank := b.rank
      first := b.first
      src := s.entryAt e.part b.entry + packedLen d.wireCode 16 * i
      len := min 16 (n - 16 * i) })

/-- Feed the staged blocks of an included rank to the tally units; a missing block is INCONSISTENT (R385, R386). DEDUCED (log 30). -/
def State.feedRank (s : State) (ch rank : Nat) : State :=
  match s.epoch ch with
  | none => s
  | some e =>
    match e.admitted with
    | some adm =>
      let need := e.desc.shardBlocks e.desc.wireCode adm e.rank
      (match need.mapM (fun f => e.holder.staged.find? (fun b => b.rank == rank && b.first == f)) with
       | none => s.inconsistent ch
       | some bs =>
         ({ s with tally := s.tally ++ bs.flatMap (s.batchesOf e) } : State).updHolder ch (fun h => { h with
           staged := h.staged.map (fun b => if b.rank = rank then { b with fed := true } else b) }))
    | none => s

/-- The admitted prefix reaches `upTo`: each further admitted rank, ascending, is added or discarded (R385). -/
def State.catchUp (s : State) (ch upTo : Nat) (excluded : List Nat) : State :=
  match s.epoch ch with
  | none => s
  | some e =>
    let todo := (e.admitted.getD []).filter (fun r => decide (r ≤ upTo) && !e.holder.added.contains r)
    let s := todo.foldl
      (fun s r =>
        if (s.epoch ch).all (fun x => x.holder.ended) then s
        else
          let s := s.updHolder ch (fun h => { h with added := r :: h.added, upTo := some (max r (h.upTo.getD 0)) })
          if excluded.contains r then s.unstage ch r else s.feedRank ch r) s
    s.grantCredit ch

/-! ### The member: results (R387, R388) -/

/-- The RWAIT of a channel in a partition: an issued one, else the first in the tables of its cores (R447). DEDUCED (log 31). -/
def State.rwaitAt (s : State) (p ch : Nat) : Nat × Nat :=
  let issued := (s.part p).cores.filterMap (fun c =>
    (s.phys c).bind (fun k => ((s.core k).ops.find? (fun o => match o.ins with
      | .rwait _ r _ _ => r == ch
      | _ => false)).map (fun o => (c, o.pc))))
  let listed := (s.part p).cores.filterMap (fun c =>
    (s.phys c).bind (fun k => ((s.core k).a.table.findIdx? (fun w => match ovtOfWord w.toNat with
      | some (.rwait _ r _ _) => r == ch
      | _ => false)).map (fun i => (c, i))))
  (issued ++ listed).headD ((s.part p).first, 0)

/-- Write result words into the tally area, count their poison, and note the block landed with its flags (R387, R395, R446). DEDUCED (log 31). -/
def State.landResult (s : State) (e : Epoch) (d : Desc) (first flags : Nat) (ws : List PWord) : State :=
  let bad := (ws.filter (·.2)).length
  let s := s.hubWrite (d.tally + 4 * first) (ws.flatMap (fun w => (toLe 4 w.1.toNat).map (fun b => (b, w.2))))
  let at' := s.rwaitAt e.part e.name.rch
  let s := if (s.part e.part).live then s.poisonStore e.part bad at'.1 .a at'.2 else s
  s.updMember e.name.rch (fun m => { m with landed := insertNat first m.landed, flags := m.flags ||| flags })

/-- Close FINAL once the last result span has landed (R388). -/
def State.checkLanded (s : State) (ch : Nat) : State :=
  match s.epoch ch with
  | none => s
  | some e =>
    let d := e.desc
    let per := perBlock d.resultCode
    if e.outcome = some 0 ∧ (List.range (ceilDiv d.elems per)).all (fun i => e.member.landed.contains (per * i)) then s.endEpoch ch 0 else s

/-! ### The member: contributions (R199, R382, R383) -/

/-- Send a block for which its holder has granted credit (R440). -/
def State.sendBlock (s : State) (ch first : Nat) : State :=
  match s.epoch ch with
  | none => s
  | some e =>
    let d := e.desc
    match e.member.blocks.find? (fun b => b.first == first) with
    | some b =>
      let cr := Tab.get e.member.cred 0 b.holder
      if b.sent ∨ cr = 0 then s
      else
        let s := s.updMember ch (fun m => { m with
          cred := Tab.put m.cred b.holder (cr - 1)
          blocks := m.blocks.map (fun x => if x.first = first then { x with sent := true } else x) })
        s.toRank e.name.group b.holder (.contrib e.name e.rank first (packMarked d.wireCode b.words))
    | none => s

/-- Send every block that may go, in ascending element order. -/
def State.sendBlocks (s : State) (ch : Nat) : State :=
  match s.epoch ch with
  | some e => (e.member.blocks.map (·.first)).foldl (fun s f => s.sendBlock ch f) s
  | none => s

/-- DONE once every element is emitted and every block acknowledged (R383). -/
def State.checkDone (s : State) (ch : Nat) : State :=
  match s.epoch ch with
  | none => s
  | some e =>
    if !e.member.doneSent ∧ e.member.blocks.all (·.acked) ∧ e.member.blocks.length = ceilDiv e.desc.elems (perBlock e.desc.wireCode) then
      (s.updMember ch (fun m => { m with doneSent := true })).toRank e.name.group (s.hostRank e.name.group)
        (.done e.name e.rank e.member.nan e.member.poison)
    else s

/-- A block whose every element is emitted is formed (R199, R371). -/
def State.formBlock (s : State) (ch first : Nat) : State :=
  match s.epoch ch with
  | none => s
  | some e =>
    let d := e.desc
    let n := d.blockLen d.wireCode first
    match (List.range n).mapM (fun i => Tab.find e.member.emitted (first + i)), d.holderOf (e.admitted.getD []) first with
    | some ws, some h =>
      if e.member.blocks.any (fun b => b.first == first) then s
      else
        s.updMember ch (fun m => { m with
          emitted := Tab.drop m.emitted (fun k => decide (first ≤ k ∧ k < first + n))
          blocks := m.blocks ++ [⟨first, ws, h, false, false⟩] })
    | _, _ => s

/-- Enter emitted words from element `first` on (R199), form the blocks they fill and send what may go. -/
def State.emitWords (s : State) (ch first : Nat) (ws : List (Nat × Bool)) : State :=
  match s.epoch ch with
  | none => s
  | some e =>
    let per := perBlock e.desc.wireCode
    let s := s.updMember ch (fun m => { m with emitted := ws.zipIdx.foldl (fun t w => Tab.put t (first + w.2) w.1) m.emitted })
    let s := (List.range ((first + ws.length - 1) / per - first / per + 1)).foldl (fun s i => s.formBlock ch ((first / per + i) * per)) s
    (s.sendBlocks ch).checkDone ch

/-! ### The host: close (R387, R391 to R393) -/

/-- FP32 value of a count. -/
def fpOfNat (n : Nat) : Word32 := (rnd32 (.fin false n 0)).1

/-- The outcome of a policy (R391): 0 FINAL, 1 REPEAT. -/
def Desc.outcomeOf (d : Desc) (g head : Nat) : Nat :=
  if head = 0 then 1
  else if head = g then 0
  else if d.policy = 0 then 1
  else if d.policy = 1 then 0
  else if d.quorum ≤ head then 0 else 1

/-- Export the NaN census, 1,020 ranks to a packet (R393, R509). -/
def State.exportCensus (s : State) (e : Epoch) (ranks : List Nat) : State :=
  (List.range (ceilDiv ranks.length 1020)).foldl
    (fun s i =>
      s.telemetry 2 e.part e.name.step
        (toLe 1 e.name.group ++ toLe 1 e.name.rch ++ toLe 1 e.name.ord ++ toLe 1 0 ++ toLe 4 e.name.step ++ toLe 4 ranks.length ++ toLe 4 (1020 * i) ++
          ((ranks.drop (1020 * i)).take 1020).flatMap (toLe 4))) s

/-- The admitted prefix (R384): the highest admitted rank such that every admitted rank up to it is resolved. -/
def admittedPrefix (h : HostSide) : List Nat → Option Nat
  | [] => none
  | r :: l => if (Tab.find h.resolved r).isSome then some ((admittedPrefix h l).getD r) else none

/-- Send ADMIT to every holder now (R384). -/
def State.sendAdmit (s : State) (ch : Nat) : State :=
  match s.epoch ch with
  | none => s
  | some e =>
    match e.host with
    | none => s
    | some h =>
      let up := admittedPrefix h h.adm
      let s := { s.updHost ch (fun h => { h with announced := up, admitHeld := false }) with admitAt := Tab.put s.admitAt ch s.now }
      s.toRanks e.name.group h.adm (.admitRanks e.name e.deadline up (h.ranksOf .excluded))

/-- The admitted prefix has grown or the deadline has changed: ADMIT goes now, or after 10 µs from the channel's last one (R384). -/
def State.wantAdmit (s : State) (ch : Nat) : State :=
  if (Tab.find s.admitAt ch).all (fun t => decide (t + 10000 ≤ s.now)) then s.sendAdmit ch else s.updHost ch (fun h => { h with admitHeld := true })

/-- The host closes the epoch (R387): a last ADMIT if one is due, then CLOSE to every member and listener. `forced` is the outcome of R380. -/
def State.hostClose (s : State) (ch : Nat) (forced : Option Nat) : State :=
  match s.epoch ch with
  | none => s
  | some e =>
    match e.host with
    | some h =>
      if h.outcome.isSome then s
      else
        let d := e.desc
        let g := s.groupSize e.name.group
        let inc := h.ranksOf .included
        let out := forced.getD (d.outcomeOf g inc.length)
        let s := if h.admitHeld ∨ h.announced ≠ admittedPrefix h h.adm then s.sendAdmit ch else s
        let div := if out = 0 then fpOfNat (if d.policy = 0 then g else inc.length) else 0
        let recip := if out = 0 then (div32 0x3F800000 div).1 else 0
        let r := recordOf e.name out (16 * bit (h.ext != 0)) inc.length g div recip h.census.length (h.missing g) (h.census.headD 0xFFFFFFFF) s.now
          (s.hostRank e.name.group) h.ext
        let s := s.updHost ch (fun h => { h with outcome := some out, closeAt := s.now, admitHeld := false })
        let s := if h.census.isEmpty then s else s.exportCensus e h.census
        (s.toRanks e.name.group h.audience (.close e.name out r inc)).applyGroup e.name.group
    | none => s

/-- Every admitted rank is resolved: the host closes (R387). -/
def State.checkResolved (s : State) (ch : Nat) : State :=
  match (s.epoch ch).bind Epoch.host with
  | none => s
  | some h => if h.rollClosed ∧ h.adm.all (fun r => (Tab.find h.resolved r).isSome) then s.hostClose ch none else s

/-- Every admitted rank still unresolved is excluded (R384), and the host closes. -/
def State.excludeRest (s : State) (ch : Nat) : State :=
  (s.updHost ch (fun h => { h with
    resolved := h.adm.foldl (fun t r => if (Tab.find t r).isSome then t else Tab.put t r .excluded) h.resolved })).hostClose ch none

/-! ### The host: roll call (R377 to R380) -/

/-- Versions N and N − 1 agree (R379, R561). DEDUCED (log 34). -/
def verAgrees (mine v : Nat) : Bool := decide (v ≤ mine + 1 ∧ mine ≤ v + 1)

/-- An answer that matches the host's descriptor and version. -/
def Epoch.accepts (e : Epoch) (mine : Nat) (a : Nat × Nat) : Bool := a.1 == e.digest && verAgrees mine a.2

/-- The roll call closes (R379, R380): the ranks that answered with a match are admitted, and get their ROSTER; too few, a missing rank under REPEAT, or a deadline already passed (R377) closes the epoch at once. Too few ranks decide the outcome also where the deadline has passed. DEDUCED (log 29). -/
def State.closeRoll (s : State) (ch : Nat) : State :=
  match s.epoch ch with
  | none => s
  | some e =>
    match e.host with
    | some h =>
      let d := e.desc
      if h.rollClosed ∨ h.outcome.isSome then s
      else
        let adm := (h.answers.filter (fun a => e.accepts s.nwtVersion a.2)).map (·.1)
        let s := s.updHost ch (fun h => { h with rollClosed := true, adm := adm })
        let s := s.toRanks e.name.group adm (.roster e.name e.deadline false adm)
        if adm.length < d.hmin then s.hostClose ch (some 3)
        else if d.policy = 0 ∧ adm.length < s.groupSize e.name.group then s.hostClose ch (some 1)
        else if e.deadline ≤ s.now then s.excludeRest ch
        else s
    | none => s

/-- ANSWER (R375, R378, R379): of the host's open epoch it is recorded, and the last closes the roll call; a match after that is a listener. One of an epoch below is refused, one above waits. -/
def State.gotAnswer (s : State) (n : EpName) (digest ver rank : Nat) : State :=
  let wait := { s with early := s.early ++ [.answer n digest ver rank] }
  match s.epoch n.rch with
  | none => wait
  | some e =>
    if e.name = n then
      match e.host with
      | none => s.stale
      | some h =>
        if h.outcome.isSome then s.stale
        else if (Tab.find h.answers rank).isSome then s
        else
          let s := s.updHost n.rch (fun h => { h with answers := Tab.put h.answers rank (digest, ver) })
          if h.rollClosed then
            if e.accepts s.nwtVersion (digest, ver) then
              (s.updHost n.rch (fun h => { h with lis := insertNat rank h.lis })).toRank n.group rank (.roster n e.deadline true h.adm)
            else s
          else if h.answers.length + 1 = s.groupSize n.group then s.closeRoll n.rch
          else s
    else if nameBelow n e.name then s.stale
    else wait

/-- DONE (R383, R384, R393): the rank is resolved, enters the census with a NaN, and the prefix may grow. -/
def State.gotDone (s : State) (n : EpName) (rank : Nat) (nan poison : Bool) : State :=
  match s.named n with
  | none => s.stale
  | some e =>
    match e.host with
    | some h =>
      if h.outcome.isSome ∨ !h.adm.contains rank ∨ (Tab.find h.resolved rank).isSome then s
      else
        let d := e.desc
        let r : Resolved := if poison || (nan && d.exclNan && (d.policy == 1 || d.policy == 2)) then .excluded else .included
        let s := s.updHost n.rch (fun h => { h with
          resolved := Tab.put h.resolved rank r
          census := if nan then insertNat rank h.census else h.census })
        let grown := ((s.epoch n.rch).bind Epoch.host).any (fun h => h.announced != admittedPrefix h h.adm)
        let s := if h.adm.all (fun r => r == rank || (Tab.find h.resolved r).isSome) then s else if grown then s.wantAdmit n.rch else s
        s.checkResolved n.rch
    | none => s.stale

/-- LATE (R399, R404): counted at the host; before the deadline, this is extended by the delay or by what remains of LATEX. -/
def State.gotLate (s : State) (n : EpName) (delay : Nat) : State :=
  match s.named n with
  | none => s.stale
  | some e =>
    match e.host with
    | some h =>
      let s := s.addFld (rRchCnt n.rch) 15 0 1
      if h.outcome.isSome ∨ e.deadline ≤ s.now then s
      else
        let x := min delay (e.desc.latex - h.ext)
        if x = 0 then s
        else ((s.updEpoch n.rch (fun e => { e with deadline := e.deadline + 1000 * x })).updHost n.rch (fun h => { h with ext := h.ext + x })).wantAdmit n.rch
    | none => s.stale

/-! ### Messages to members, listeners and holders -/

/-- Location of the REPOCH of an epoch: its lowest core's. -/
def State.repochLoc (s : State) (e : Epoch) : Loc :=
  ((s.part e.part).cores.findSome? (fun c =>
    (s.phys c).bind (fun k => ((s.core k).ops.find? (fun o => o.rch == e.name.rch && (match o.ins with
      | .repoch _ _ _ _ => true
      | _ => false))).map (fun o => Loc.at c .a o.pc)))).getD .none

/-- ROLL (R375, R378, R198): the member whose REPOCH has issued answers; a descriptor that differs ends its program with VERSION_MISMATCH, as soon as ROLL brings the host's digest. One of an epoch not open yet waits. DEDUCED (log 31). -/
def State.gotRoll (s : State) (n : EpName) (digest deadline rcDeadline : Nat) : State :=
  let wait := { s with early := s.early.filter (fun w => match w with
    | .roll m _ _ _ => !(m.group == n.group && m.rch == n.rch)
    | _ => true) ++ [.roll n digest deadline rcDeadline] }
  match s.epoch n.rch with
  | none => wait
  | some e =>
    if e.name = n then
      if e.closed then s.stale
      else if e.rolled then s
      else
        let s := s.putEpoch { e with rolled := true, answered := true, deadline := deadline, rcDeadline := rcDeadline }
        let s := s.toRank n.group (s.hostRank n.group) (.answer n e.digest s.nwtVersion e.rank)
        if digest = e.digest then s
        else (s.terminate e.part tVersion (s.repochLoc e)).shutEpoch n.rch
    else if nameBelow n e.name then s.stale
    else wait

/-- Announced counts of NWT_RCHCNT (R404): HEAD and MISS. -/
def State.announce (s : State) (ch head miss : Nat) : State := (s.setFld (rRchCnt ch) 63 48 head).setFld (rRchCnt ch) 47 32 miss

/-- ROSTER (R374, R379, R381, R404): the roles are fixed; the tally area becomes undefined, and a holder grants credit. A member that its ROSTER leaves out ends with VERSION_MISMATCH. -/
def State.gotRoster (s : State) (n : EpName) (deadline : Nat) (listener : Bool) (adm : List Nat) : State :=
  match s.named n with
  | none => s.stale
  | some e =>
    if e.closed ∨ e.admitted.isSome then s.stale
    else if !listener ∧ !adm.contains e.rank then (s.terminate e.part tVersion (s.repochLoc e)).shutEpoch n.rch
    else
      let s := s.putEpoch { e with rolled := true, deadline := deadline, admitted := some adm, listener := listener }
      let s := s.announce n.rch 0 (s.groupSize n.group - adm.length)
      let (t, s) := s.fresh
      ({ s with mem := s.mem.undefine e.desc.tally (e.desc.tally + 4 * e.desc.elems) t } : State).grantCredit n.rch

/-- A 16-bit or FP32 encoding is a NaN. -/
def nanWord (code w : Nat) : Bool := (val32 (widenFp code w)).isNan

/-- CONTRIB (R382): the holder checks the tag, stages the block in whole words and answers RACK. DEDUCED (log 30). -/
def State.gotContrib (s : State) (n : EpName) (rank first : Nat) (data : List PByte) : State :=
  let myRank := s.myRank n.group
  let rack := fun (s : State) st nan poison => s.toRank n.group rank (.rack n myRank st nan poison 0 first)
  match s.named n with
  | none => rack s.stale 3 false false
  | some e =>
    match e.admitted with
    | some adm =>
      let d := e.desc
      let code := d.wireCode
      let k := d.blockLen code first
      let bad := s.addFld rRdrop 31 16 1
      match e.holder.accepted.find? (fun a => a.rank == rank && a.first == first) with
      | some a => rack (s.addFld rRdrop 47 32 1) 0 a.nan a.poison
      | none =>
        if e.holder.ended ∨ e.holder.final then rack s.stale 3 false false
        else if !adm.contains rank then rack bad 2 false false
        else if !(d.shardBlocks code adm e.rank).contains first ∨ data.length ≠ packedLen code k ∨ d.blocks ≤ e.holder.staged.length then
          rack bad 1 false false
        else
          let nan := (unpackElems code k (data.map (·.1))).any (nanWord code)
          let poison := data.any (·.2)
          let i := s.freeEntry e.part
          let s := if e.holder.added.contains rank then s
            else (s.hubWrite (s.entryAt e.part i) (data ++ clean (zeroBytes ((64 - data.length % 64) % 64)))).updHolder n.rch (fun h => { h with staged := h.staged ++ [⟨rank, first, i, false⟩] })
          let s := (s.updHolder n.rch (fun h => { h with accepted := h.accepted ++ [⟨rank, first, nan, poison⟩] })).countStage
          (rack s 0 nan poison).grantCredit n.rch
    | none => rack s.stale 3 false false

/-- RACK (R382, R383, R440): a block is acknowledged with its flags, or refused; CRED adds credit. Once the program has terminated, its contributions stay unacknowledged (R401). DEDUCED (log 30). -/
def State.gotRack (s : State) (n : EpName) (rank status : Nat) (nan poison : Bool) (cred first : Nat) : State :=
  match s.named n with
  | none => s.stale
  | some e =>
    if e.closed then s.stale
    else if !(s.part e.part).live then s
    else
      let s := s.updMember n.rch (fun m => { m with cred := if cred = 0 then m.cred else Tab.upd m.cred 0 rank (· + cred) })
      let hit : Bool := status == 0 && e.member.blocks.any (fun b => b.first == first && b.holder == rank && b.sent && !b.acked)
      let s := if hit then
          s.updMember n.rch (fun m => { m with
            nan := m.nan || nan
            poison := m.poison || poison
            blocks := m.blocks.map (fun b => if b.first = first then { b with acked := true } else b) })
        else s
      (s.sendBlocks n.rch).checkDone n.rch

/-- ADMIT (R384, R385, R404): the current deadline, the counts so far, and the ranks that the holder may now add. -/
def State.gotAdmit (s : State) (n : EpName) (deadline : Nat) (upTo : Option Nat) (excluded : List Nat) : State :=
  match s.named n with
  | none => s.stale
  | some e =>
    if e.holder.ended ∧ e.closed then s.stale
    else
      let s := s.updEpoch n.rch (fun e => { e with deadline := deadline })
      match upTo with
      | some u =>
        let adm := e.admitted.getD []
        let head := (adm.filter (fun r => decide (r ≤ u) && !excluded.contains r)).length
        (s.announce n.rch head (s.groupSize n.group - adm.length + excluded.length)).catchUp n.rch u excluded
      | none => s

/-- NWT_RCHCNT as CLOSE reports it (R404). -/
def State.countClose (s : State) (ch : Nat) (r : List Byte) : State :=
  ((s.setFld (rRchCnt ch) 63 48 (fieldLe r 12 4)).setFld (rRchCnt ch) 47 32 (fieldLe r 32 4)).setFld (rRchCnt ch) 31 16 (fieldLe r 28 4)

/-- The holder's part of a CLOSE (R387): its additions are completed, and with any outcome but FINAL its duty ends. A holder's INCONSISTENT names no included ranks, and nothing more is added. -/
def State.closeHolder (s : State) (ch outcome : Nat) (included : List Nat) : State :=
  match s.epoch ch with
  | none => s
  | some e =>
    if e.holder.ended then s
    else
      let adm := e.admitted.getD []
      let s := if outcome = 5 then s else s.catchUp ch (maxOf adm) (adm.filter (fun r => !included.contains r))
      if outcome = 0 ∧ e.holds then s.updHolder ch (fun h => { h with final := true }) else s.dropHolder ch

/-- CLOSE (R386 to R388, R404): the host's counts are entered, the holder completes its additions; a member's or listener's epoch closes unless the outcome is FINAL. DEDUCED (log 29). -/
def State.gotClose (s : State) (n : EpName) (outcome : Nat) (record : List Byte) (included : List Nat) : State :=
  match s.named n with
  | none => s.stale
  | some e =>
    let s := if outcome = 5 then s else s.countClose n.rch record
    if e.closed ∧ e.holder.ended then s.stale
    else
      let s := s.closeHolder n.rch outcome included
      if e.closed then s
      else if e.outcome.isSome then (if outcome = 0 then s else s.endEpoch n.rch outcome)
      else
        let s := s.updEpoch n.rch (fun e => if e.closed then e else { e with outcome := some outcome, record := record, included := included })
        if outcome = 0 then s.checkLanded n.rch else s.endEpoch n.rch outcome

/-- RESULT (R387, R388): an arriving result block is written into the tally area, widened exactly. Results for a program that has ended, and blocks that do not fit, are dropped. DEDUCED (log 31). -/
def State.gotResult (s : State) (n : EpName) (rank : Nat) (longSum sumNan poison : Bool) (rfmt first : Nat) (data : List PByte) : State :=
  match s.named n with
  | none => s.stale
  | some e =>
    match e.admitted with
    | some adm =>
      let d := e.desc
      let code := d.resultCode
      let k := d.blockLen code first
      if e.closed ∨ !(s.part e.part).live then s.stale
      else if rfmt ≠ d.rfmt ∨ !(d.shardBlocks code adm rank).contains first ∨ data.length ≠ packedLen code k then s
      else
        let flags := bit longSum + 2 * bit sumNan + 4 * bit poison
        (s.landResult e d first flags (elemsOf code k data)).checkLanded n.rch
    | none => s.stale

/-- ABANDON (R388, R400). -/
def State.gotAbandon (s : State) (n : EpName) : State :=
  match s.named n with
  | none => s.stale
  | some e => if e.closed ∧ e.holder.ended then s.stale else (s.dropHolder n.rch).endEpoch n.rch 2

/-- LOST (R390): an epoch that still needs part of that holder's shard closes HOLDER_LOST; a holder that has had no CLOSE then has nothing left to sum (R374). DEDUCED (log 29). -/
def State.gotLost (s : State) (n : EpName) (rank : Nat) : State :=
  match s.named n with
  | none => s.stale
  | some e =>
    match e.admitted with
    | some adm =>
      if e.closed then s.stale
      else if (e.desc.shardBlocks e.desc.resultCode adm rank).all (fun f => e.member.landed.contains f) then s
      else (if e.holder.final then s else s.dropHolder n.rch).endEpoch n.rch 4
    | none => s.stale

/-- A reduction message that has passed R361, from the network or by the local path. -/
def State.gotMsg (s : State) (m : Msg) : State :=
  match m with
  | .roll n d t rt => s.gotRoll n d t rt
  | .answer n d v r => s.gotAnswer n d v r
  | .roster n t l adm => s.gotRoster n t l adm
  | .contrib n r f d => s.gotContrib n r f d
  | .rack n r st a p c f => s.gotRack n r st a p c f
  | .done n r a p => s.gotDone n r a p
  | .admitRanks n t u x => s.gotAdmit n t u x
  | .late n _ d => s.gotLate n d
  | .close n o r i => s.gotClose n o r i
  | .result n r l a p rf f d => s.gotResult n r l a p rf f d
  | .abandon n _ => s.gotAbandon n
  | .lost n r => s.gotLost n r
  | .reply _ _ _ _ _ => s
  | .telemetry _ _ _ _ => s
  | .termination _ _ _ => s
  | .cairnCtl _ _ => s
  | .cairnData _ _ => s
  | .opening _ => s
  | .opened _ _ => s

end Sys2Proof.Machine
end

