-- ==== Sys2Proof/Machine/Reduction.lean ====
section
/-! DEFINITION. Reductions as programs and events drive them: REPOCH, RACC and RWAIT (05 R197 to R200), the timers of 11 and 12 R434, the tally units (10 R350, 11 R406), late and lost holders (10 R344, 11 R399, R400). -/

namespace Sys2Proof.Machine

/-! ### Reduction instructions in progress -/

/-- An issued reduction instruction: partition, logical and physical core. -/
structure RedOp where
  p : Nat
  c : Nat
  k : Nat
  op : Op
  deriving DecidableEq, Repr

/-- A reduction instruction. -/
def isRed (i : Ovt) : Bool :=
  match i with
  | .repoch _ _ _ _ => true
  | .racc _ _ => true
  | .rwait _ _ _ _ => true
  | _ => false

/-- Every issued reduction instruction of live programs, in core order. -/
def State.redOps (s : State) : List RedOp :=
  (List.range 8).flatMap (fun p =>
    if (s.part p).live then
      (s.part p).cores.flatMap (fun c =>
        match s.phys c with
        | some k => ((s.core k).ops.filter (fun o => isRed o.ins)).map (fun o => ⟨p, c, k, o⟩)
        | none => [])
    else [])

/-- The epoch that an instruction names, if it is the current one of its channel (R375). -/
def State.epochOf (s : State) (x : RedOp) : Option Epoch :=
  (s.epoch x.op.rch).bind (fun e => if e.part = x.p ∧ e.name.step = x.op.step ∧ e.name.ord = x.op.row0 then some e else none)

/-- The status record of an earlier epoch of the step that an instruction names. -/
def State.pastOf (s : State) (x : RedOp) : Option (List Byte) :=
  (s.past.find? (fun r => r.1 == x.p && r.2.1.rch == x.op.rch && r.2.1.step == x.op.step && r.2.1.ord == x.op.row0)).map (fun r => r.2.2)

/-- An instruction completes. -/
def State.finishOp (s : State) (x : RedOp) : State := s.updCore x.k (fun c => c.finish x.op)

/-- Emit the elements of an RACC whose source has landed (R58, R199): FP32 on the wire is a widening, a 16-bit WIRE a narrowing by RMODE, whose flags are raised. -/
def State.emitRacc (s : State) (x : RedOp) (b : RaccB) : State :=
  let n := b.elems
  let bs := (landedAt x.op.landed 0 (n * widthOf b.srct / 8)).getD []
  let code := if b.wire = 2 then 0 else b.wire + 1
  let ws := (elemsOf b.srct n bs).map (fun v => (narrowFp code (rmodeOf b.rmode 0) v.1, v.2))
  let s := s.raise x.k (ws.foldl (fun f w => f ||| w.1.2) 0)
  let s := s.updCore x.k (fun c => c.setOp { x.op with cnt := 1, landed := [] })
  s.emitWords x.op.rch b.toff (ws.map (fun w => (w.1.1, w.2)))

/-- Every block that holds an element of an RACC is acknowledged. DEDUCED (log 31). -/
def Epoch.raccAcked (e : Epoch) (per : Nat) (b : RaccB) : Bool :=
  (List.range ((b.toff + b.elems - 1) / per - b.toff / per + 1)).all (fun i =>
    e.member.blocks.any (fun x => x.first == (b.toff / per + i) * per && x.acked))

/-- An RACC's progress (R199, R381): it completes on a listener, once its blocks are acknowledged, at the deadline, or when the epoch has closed. DEDUCED (log 31). -/
def State.pokeRacc (s : State) (x : RedOp) (b : RaccB) : State :=
  match s.epochOf x with
  | none => if (s.pastOf x).isSome then s.finishOp x else s
  | some e =>
    if e.closed ∨ e.deadlinePassed ∨ e.listener then s.finishOp x
    else if e.admitted.isSome ∧ x.op.cnt = 0 ∧ x.op.loaded then s.emitRacc x b
    else if x.op.cnt = 1 ∧ e.raccAcked (perBlock (if b.wire = 2 then 0 else b.wire + 1)) b then s.finishOp x
    else s

/-- An RWAIT whose epoch has closed writes the status record and completes (R200, R389). -/
def State.writeRecord (s : State) (x : RedOp) (r : List Byte) : State :=
  match (x.op.dst.head?).bind Seg.addr with
  | none => s.finishOp x
  | some a => if (s.keyOf a).isSome then (s.hubWrite a (clean r)).finishOp x else s.abort x.c tAddressFault x.op.st x.op.pc

/-- One instruction's progress. -/
def State.pokeOp (s : State) (x : RedOp) : State :=
  match (s.core x.k).op x.op.id with
  | none => s
  | some o =>
    let x := { x with op := o }
    match o.ins with
    | .repoch _ _ _ _ =>
      (match s.epochOf x with
       | some e => if e.admitted.isSome ∨ e.closed then s.finishOp x else s
       | none => if (s.pastOf x).isSome then s.finishOp x else s)
    | .racc _ b => s.pokeRacc x b
    | .rwait _ _ _ _ =>
      (match s.epochOf x with
       | some e => if e.closed then s.writeRecord x e.finalRecord else s
       | none =>
         match s.pastOf x with
         | some r => s.writeRecord x r
         | none => s)
    | _ => s

/-! ### Opening an epoch (R198, R375 to R378) -/

/-- A member's part with nothing emitted, and a holder's with nothing staged. -/
def MemberSide.empty : MemberSide := ⟨[], [], [], false, false, false, [], 0⟩
def HolderSide.empty : HolderSide := ⟨[], [], [], none, [], [], [], false, false, false, false⟩

/-- The channel can take a new epoch: the last has closed here, with its holder duty done and its host part closed. -/
def State.channelFree (s : State) (ch : Nat) : Bool :=
  match s.epoch ch with
  | none => true
  | some e => e.closed && !s.duty e && e.host.all (fun h => h.outcome.isSome)

/-- Messages that waited for the epoch that has opened are taken up; those of an epoch below it are refused. -/
def State.takeEarly (s : State) (n : EpName) : State :=
  let nameOf := fun (w : Waiting) => match w with
    | .roll m _ _ _ => m
    | .answer m _ _ _ => m
  let mine := s.early.filter (fun w => nameOf w == n)
  let old := s.early.filter (fun w => (nameOf w).group == n.group && (nameOf w).rch == n.rch && nameBelow (nameOf w) n)
  let s := { s with early := s.early.filter (fun w => !mine.contains w && !old.contains w) }
  let s := old.foldl (fun s _ => s.stale) s
  mine.foldl (fun s w => match w with
    | .roll m d t rt => s.gotRoll m d t rt
    | .answer m d v r => s.gotAnswer m d v r) s

/-- A REPOCH opens its epoch (R376, R377, R378): on the host rank it starts the roll call, and closes it at once where the roll-call deadline has passed. A member learns the deadlines from the host. -/
def State.openEpoch (s : State) (x : RedOp) (dsc dlns : Nat) (d : Desc) : State :=
  let ch := x.op.rch
  let n : EpName := ⟨d.group, ch, x.op.row0, x.op.step⟩
  let opened := (s.part x.p).opens.headD 0
  let rank := s.myRank d.group
  let g := s.groupSize d.group
  let dig := d.digest g (s.hostRank d.group)
  let hosts : Bool := (s.group d.group).isSome && rank == s.hostRank d.group
  let h : HostSide := ⟨[(rank, (dig, s.nwtVersion))], [], [], [], [], 0, none, false, false, none, 0⟩
  let e : Epoch := ⟨n, dsc, d, x.p, rank, dig, if hosts then opened + dlns else 0, if hosts then opened + d.rcdl else 0, hosts, hosts, none, false, false, none, [], [], false,
    if hosts then some h else none, MemberSide.empty, HolderSide.empty⟩
  let s := match s.epoch ch with
    | some o => if o.part = x.p then { s with past := s.past ++ [(x.p, o.name, o.finalRecord)] } else s
    | none => s
  let s := (s.putEpoch e).setReg (rRchCnt ch) 0
  let s :=
    if hosts then
      let s := s.toRanks d.group ((s.allRanks d.group).filter (fun r => r != rank)) (.roll n dig e.deadline e.rcDeadline)
      if e.rcDeadline ≤ s.now ∨ g = 1 then s.closeRoll ch else s
    else s
  s.takeEarly n

/-- Open the epoch of the first REPOCH on a channel that waits for one. -/
def State.openWaiting (s : State) (x : RedOp) : State :=
  match x.op.ins with
  | .repoch _ ch dsc dlns =>
    if (s.epochOf x).isNone ∧ (s.pastOf x).isNone ∧ s.channelFree ch then
      match (s.part x.p).descs[dsc]? with
      | some d => s.openEpoch x dsc dlns d
      | none => s
    else s
  | _ => s

/-! ### The local path and progress -/

/-- One round of progress of every reduction instruction: those that can go on, then epochs that can open, then what those let go on. -/
def State.pokeAll (s : State) : State :=
  let s := s.redOps.foldl State.pokeOp s
  let s := s.redOps.foldl State.openWaiting s
  s.redOps.foldl State.pokeOp s

/-- Deliver the messages of the local path in order, and let the instructions go on, until nothing is left. -/
def State.settleFrom : Nat → State → State
  | 0, s => s
  | n + 1, s =>
    match s.localQ with
    | m :: r => State.settleFrom n (State.gotMsg { s with localQ := r } m)
    | [] =>
      let t := s.pokeAll
      if t.localQ = [] then t else State.settleFrom n t

/-- Reductions settle after a command. DEDUCED (log 31). -/
def State.settleRed (s : State) : State := if s.redOps.isEmpty && s.localQ.isEmpty then s else State.settleFrom (2 ^ 40) s

/-! ### Late and lost holders (R344, R399, R400) -/

/-- Some byte of a range lies on a channel: every 1 MiB block reaches every channel. -/
def State.onChan (s : State) (a n q : Nat) : Bool :=
  (List.range (min 512 (ceilDiv n 4096 + 1))).any (fun i => decide (a / 4096 * 4096 + 4096 * i < a + n) && s.chanAt (a / 4096 * 4096 + 4096 * i) == some q)

/-- The tally area of an epoch reaches a channel, and so does its partition's staging. -/
def State.tallyOn (s : State) (q : Nat) (e : Epoch) : Bool := s.onChan e.desc.tally (4 * e.desc.elems) q
def State.stageOn (s : State) (q : Nat) (e : Epoch) : Bool := s.onChan (s.part e.part).stageBase (4096 * (s.part e.part).staging) q

/-- Epochs in which this holder's duty is not done. -/
def State.held (s : State) : List Epoch := (s.epochs.map (·.2)).filter s.duty

/-- LATE to the host of every epoch held with tally area or staging on a channel (R344, R399): none for a delay of 0. DEDUCED (log 32). -/
def State.channelLate (s : State) (q delay : Nat) : State :=
  if delay = 0 then s
  else
    (s.held.filter (fun e => s.tallyOn q e || s.stageOn q e)).foldl
      (fun s e =>
        (s.toRank e.name.group (s.hostRank e.name.group) (.late e.name e.rank delay)).addFld (rRchCnt e.name.rch) 15 0 1) s

/-- Accumulate bytes that wait on a channel (R344, R356). DEDUCED (log 32). -/
def State.pendAcc (s : State) (q : Nat) : Nat := sumOf ((s.tally.filter (fun b => b.chan == q)).map (fun b => 4 * b.len))

/-- A channel becomes faulty (R346, R400): its waiting accumulates are acknowledged and discarded (R346, R347), and holders with tally area on it are lost. -/
def State.loseChannel (s : State) (q : Nat) : State :=
  let lost := s.held.filter (s.tallyOn q)
  let s := s.faultChannel q
  let s := (s.tally.filter (fun b => b.chan == q)).foldl State.takeBatch s
  lost.foldl (fun s e => s.holderLost e.name.rch) s

/-! ### The instructions -/

/-- REPOCH (R197, R198): opens the step's epoch on its channel once the last one has closed here. -/
def execRepoch (c : Nat) (cf : Cf) (rch dsc dlns : Nat) (s : State) : Host.Outcome State Fault Refusal :=
  guardWf (Instr.wf (.repoch c cf rch dsc dlns)) s fun s => (s.request c .a (.repoch cf rch dsc dlns)).settleRed

/-- RACC (R197, R199, R381): contributes elements to the open epoch of its channel. -/
def execRacc (c : Nat) (cf : Cf) (b : RaccB) (s : State) : Host.Outcome State Fault Refusal :=
  guardWf (Instr.wf (.racc c cf b)) s fun s => (s.request c .a (.racc cf b)).settleRed

/-- RWAIT (R197, R200, R389): waits for the epoch to close and writes its status record. -/
def execRwait (c : Nat) (cf : Cf) (rch dag tout : Nat) (s : State) : Host.Outcome State Fault Refusal :=
  guardWf (Instr.wf (.rwait c cf rch dag tout)) s fun s => (s.request c .a (.rwait cf rch dag tout)).settleRed

/-! ### Events that let reduction instructions issue or land -/

/-- CLAIM_GRANT (R138 to R140): a waiting claim is granted once it conflicts with nothing before it; with its last claim the instruction issues. -/
def execClaimGrant (c : Nat) (st : Strm) (region : Nat) (s : State) : Host.Outcome State Fault Refusal :=
  guardWf (Instr.wf (.claimGrant c st region)) s fun s => (s.grantClaim c st region).settleRed

/-- HAMPER_ACCESS (R315, R444): the next access to the core's own hamper window, in sending order. -/
def execHamperAccess (c : Nat) (ce ue : List Nat) (s : State) : Host.Outcome State Fault Refusal :=
  guardWf (Instr.wf (.hamperAccess c ce ue)) s fun s => (s.hamperNext c ce ue).settleRed

/-- READ_RESPONSE_LAND (R147, R322): read data enters the core and its tracker is freed. -/
def execReadResponseLand (id : Nat) (s : State) : Host.Outcome State Fault Refusal :=
  guardWf (Instr.wf (.readResponseLand id)) s fun s => (s.landResponse id).settleRed

/-! ### Timers of the host (R377 to R387) -/

/-- The open epoch that this device hosts on a channel, with its host part. -/
def State.hosted (s : State) (ch : Nat) : Option (Epoch × HostSide) :=
  (s.epoch ch).bind (fun e => e.host.bind (fun h => if h.outcome.isNone then some (e, h) else none))

/-- ROLL_RESEND (R378): ROLL again to the ranks that have not answered. -/
def execRollResend (ch : Nat) (s : State) : Host.Outcome State Fault Refusal :=
  guardWf (Instr.wf (.rollResend ch)) s fun s =>
    match s.hosted ch with
    | none => s
    | some (e, h) =>
      if h.rollClosed then s
      else
        s.toRanks e.name.group ((s.allRanks e.name.group).filter (fun r => !(Tab.find h.answers r).isSome))
          (.roll e.name e.digest e.deadline e.rcDeadline)

/-- ROLL_CALL_DEADLINE (R378 to R380): the roll call closes with the ranks that have answered. -/
def execRollCallDeadline (ch : Nat) (s : State) : Host.Outcome State Fault Refusal :=
  guardWf (Instr.wf (.rollCallDeadline ch)) s fun s =>
    match s.hosted ch with
    | none => s
    | some (e, h) => if h.rollClosed then s else ((s.reach e.rcDeadline).closeRoll ch).settleRed

/-- EPOCH_DEADLINE (R384, R387): ranks still unresolved are excluded, and the host closes the epoch. -/
def execEpochDeadline (ch : Nat) (s : State) : Host.Outcome State Fault Refusal :=
  guardWf (Instr.wf (.epochDeadline ch)) s fun s =>
    match s.hosted ch with
    | none => s
    | some (e, h) => if h.rollClosed then ((s.reach e.deadline).excludeRest ch).settleRed else s

/-- ADMIT_INTERVAL_EXPIRY (R384): 10 µs after the last ADMIT, the one held back goes out. -/
def execAdmitIntervalExpiry (ch : Nat) (s : State) : Host.Outcome State Fault Refusal :=
  guardWf (Instr.wf (.admitIntervalExpiry ch)) s fun s =>
    match s.hosted ch with
    | none => s
    | some (_, h) => if h.admitHeld then ((s.reach (Tab.get s.admitAt 0 ch + 10000)).sendAdmit ch).settleRed else s

/-! ### Timers of the member (R198, R199, R200, R388, R434) -/

/-- MEMBER_DEADLINE (R199): the deadline passes here, and the RACCs of the epoch complete; unacknowledged blocks are missing. -/
def execMemberDeadline (ch : Nat) (s : State) : Host.Outcome State Fault Refusal :=
  guardWf (Instr.wf (.memberDeadline ch)) s fun s =>
    match s.epoch ch with
    | none => s
    | some e =>
      if e.closed ∨ e.admitted.isNone then s
      else ((s.reach e.deadline).updEpoch ch (fun e => { e with deadlinePassed := true })).settleRed

/-- ROLL_CALL_TIMEOUT (R434): no ROSTER has come RCTOUT µs after this member's step-open time plus RCDL: its REPOCH terminates with REMOTE_TIMEOUT. -/
def execRollCallTimeout (ch : Nat) (s : State) : Host.Outcome State Fault Refusal :=
  guardWf (Instr.wf (.rollCallTimeout ch)) s fun s =>
    match s.epoch ch with
    | none => s
    | some e =>
      if e.closed ∨ e.admitted.isSome ∨ !(s.part e.part).live then s
      else
        let s := s.reach ((s.part e.part).opens.headD 0 + e.desc.rcdl + 1000 * s.fld rNwtTout 63 32)
        ((s.terminate e.part tRemoteTimeout (s.repochLoc e)).shutEpoch ch).settleRed

/-- RWAIT_TIMEOUT (R200, R376, R388): the epoch has not closed TOUT µs after its deadline, which a member knows once the host has told it: the program terminates with REMOTE_TIMEOUT, and a holder that has had no CLOSE waits no longer; nor does that of a program that has ended. DEDUCED (log 31). -/
def execRwaitTimeout (c ch : Nat) (s : State) : Host.Outcome State Fault Refusal :=
  guardWf (Instr.wf (.rwaitTimeout c ch)) s fun s =>
    match s.epoch ch with
    | none => s
    | some e =>
      let give := fun (s : State) =>
        let s := if e.outcome.isNone then s.dropHolder ch else s
        (s.shutEpoch ch).settleRed
      if (s.part e.part).live then
        match (s.redOps.find? (fun x => x.c == c && x.op.rch == ch && (match x.op.ins with
          | .rwait _ _ _ _ => true
          | _ => false))) with
        | none => s
        | some x =>
          if e.closed ∨ !e.rolled ∨ s.epochOf x ≠ some e then s
          else
            let tout := match x.op.ins with
              | .rwait _ _ _ t => t
              | _ => 0
            give ((s.reach (e.deadline + 1000 * tout)).terminate e.part tRemoteTimeout (.at c .a x.op.pc))
      else if (s.part e.part).st = .ending ∧ (s.part e.part).cores.contains c ∧ e.outcome.isNone then give (s.reach e.deadline)
      else s

/-! ### Results (R387) -/

/-- The value that a read of a sum returns (R68): with a companion, in long-sum mode, the rounded total of both; and whether that addition made a NaN (R394). -/
def State.sumOfElem (s : State) (e : Epoch) (elem : Nat) : PWord × Bool :=
  let at' := fun (a : Nat) => let v := s.loadWord a 4; ((BitVec.ofNat 32 (ofLe (v.map (·.1))), v.any (·.2)) : PWord)
  let w := at' (e.desc.tally + 4 * elem)
  match e.desc.comp with
  | some c =>
    if 4096 < Tab.get e.holder.counts 0 elem then
      let x := at' (c + 4 * elem)
      let r := add32 w.1 x.1
      ((r.1, w.2 || x.2), r.2 &&& Fl.nanGen != 0)
    else (w, false)
  | none => (w, false)

/-- The sums of one block of a holder's shard, read (R387). -/
def State.sumsOf (s : State) (e : Epoch) (first : Nat) : List (PWord × Bool) :=
  (List.range (e.desc.blockLen e.desc.resultCode first)).map (fun i => s.sumOfElem e (first + i))

/-- One block of a holder's results (R387): its shard takes the bits that it sends, but where the epoch has closed here without FINAL (R374), and RESULT goes to every other rank of the group. DEDUCED (log 29). -/
def State.sendResult (s : State) (ch first : Nat) : State :=
  match s.epoch ch with
  | none => s
  | some e =>
    let d := e.desc
    let code := d.resultCode
    let s := s.hubOp (d.tally + 4 * first) (4 * d.blockLen code first) false
    let ws := (s.sumsOf e first).map (fun w => ((narrowFp code .rne w.1.1).1, w.1.2))
    let poison := ws.any (·.2)
    let flags := bit e.holder.longSum + 2 * bit e.holder.sumNan + 4 * bit poison
    let s := if e.closed && e.outcome.any (· != 0) then s else s.landResult e d first flags (ws.map (fun w => (widenFp code w.1, w.2)))
    s.toRanks e.name.group ((s.allRanks e.name.group).filter (fun r => r != e.rank))
      (.result e.name e.rank e.holder.longSum e.holder.sumNan poison d.rfmt first (packMarked code ws))

/-- HOLDER_RESULT_SEND (R387): after a CLOSE with FINAL, once no addition waits, the holder writes its shard and sends it. A NaN that the reading of a sum makes is noted first (R394). -/
def execHolderResultSend (ch : Nat) (s : State) : Host.Outcome State Fault Refusal :=
  guardWf (Instr.wf (.holderResultSend ch)) s fun s =>
    match s.epoch ch with
    | none => s
    | some e =>
      match e.admitted with
      | some adm =>
        if !e.holder.final ∨ e.holder.ended ∨ s.tally.any (fun b => b.rch == ch) then s
        else
          let fs := e.desc.shardBlocks e.desc.resultCode adm e.rank
          let arose := fs.any (fun f => (s.sumsOf e f).any (·.2))
          let s := s.updHolder ch (fun h => { h with sumNan := h.sumNan || arose })
          ((fs.foldl (fun s f => s.sendResult ch f) s).dropHolder ch |>.checkLanded ch).settleRed
      | none => s

/-! ### Tally units (R66 to R69, R350, R370, R406) -/

/-- The six 32-byte bursts that a batch reads: two of staged words, two of the tally word, two of the companion word. -/
def Batch.bursts (b : Batch) : List (Option Nat) :=
  [some b.src, some (b.src + 32), some b.addr, some (b.addr + 32), b.comp, b.comp.map (· + 32)]

/-- What reading a batch's bursts meets (R340): `ce` corrected, `ue` lost. -/
def State.batchErrs (s : State) (b : Batch) (ce ue : List Nat) : State :=
  b.bursts.zipIdx.foldl (fun s x =>
    match x.1, x.1.bind s.chanAt with
    | some a, some q => if ue.contains x.2 then s.burstLost q a else if ce.contains x.2 then s.burstCorrected q a else s
    | _, _ => s) s

/-- A batch can be taken (R345): its channel, and its companion's, do not retrain. -/
def State.batchReady (s : State) (b : Batch) : Bool := s.serves b.chan && (b.comp.bind s.chanAt).all s.serves

/-- TALLY_ADD (R336, R340, R346, R350, R386, R395, R397, R406): a channel's tally unit applies its oldest batch, whose block then frees its staging entry. A mismatch in dual-checked mode is counted, recorded, and makes the epoch INCONSISTENT. A faulty channel discards the batch, and its holder is lost (R400). -/
def execTallyAdd (q : Nat) (x : AddB) (s : State) : Host.Outcome State Fault Refusal :=
  guardWf (Instr.wf (.tallyAdd q x)) s fun s =>
    match s.tally.find? (fun b => b.chan == q) with
    | none => s
    | some b =>
      if s.batchReady b then
        let faulty := s.chanFaulty q
        let s := ((if faulty then s else s.batchErrs b x.ce x.ue).takeBatch b).grantCredit b.rch
        let s := if faulty then s.holderLost b.rch
          else if x.miscmp ∧ s.fld (rTalCtrl q) 1 0 = 1 then ((s.addFld (rTalStat q) 31 16 1).unitEvent (unitChan q) evUe 0).inconsistent b.rch
          else s
        s.settleRed
      else s

/-! ### Retraining (R345, R347) -/

/-- CHANNEL_RETRAINING (R300, R344, R345, R555): a retraining that has fallen due starts once no other and no test of the channel runs; holders on the channel report 2,000 µs. -/
def execChannelRetraining (q : Nat) (s : State) : Host.Outcome State Fault Refusal :=
  guardWf (Instr.wf (.channelRetraining q)) s fun s =>
    if (s.chan q).due ∧ s.chanState q = 2 ∧ s.retraining.isNone ∧ !s.runs.any (fun r => r.unit == unitChan q) then
      let s := (s.updChan q (fun c => { c with due := false })).setFld (rHmcStat q) 63 60 3
      ((s.channelLate q 2000).setArb).settleRed
    else s

/-- RETRAINING_END (R345, R346): the channel is up again with its spare lanes and an empty window of interface errors, or faulty where retraining failed or more than two are needed on a pseudo-channel. DEDUCED (log 32). -/
def execRetrainingEnd (q : Nat) (ok : Bool) (lanes0 lanes1 : Nat) (s : State) : Host.Outcome State Fault Refusal :=
  guardWf (Instr.wf (.retrainingEnd q ok lanes0 lanes1)) s fun s =>
    if s.chanState q = 3 then
      if ok ∧ lanes0 ≤ 2 ∧ lanes1 ≤ 2 then
        let s := ((s.setFld (rHmcStat q) 63 60 2).setFld (rHmcStat q) 49 48 lanes0).setFld (rHmcStat q) 47 46 lanes1
        (s.updChan q (fun c => { c with trained := some (s.fld (rHmcStat q) 57 50), errs := [] })).setArb
      else ((s.loseChannel q).setArb).settleRed
    else s

end Sys2Proof.Machine
end

