-- ==== Sys2Proof/Machine/Image.lean ====
section
/-! DEFINITION. The program image as Pyist reads it (04 R166 to R168, 05 R220, 11 R362 to R365): Pyist's checks 1 and 2 (R169), which answer the program or a rejection reason of R221. -/

namespace Sys2Proof.Machine

/-- A QUEUE record: depth in slabs, producing and consuming stream. -/
structure QDecl where
  core : Nat
  q : Nat
  depth : Nat
  prod : Strm
  cons : Strm
  deriving DecidableEq, Repr

/-- A REGION record. -/
structure RDecl where
  core : Nat
  region : Nat
  base : Nat
  len : Nat
  deriving DecidableEq, Repr

/-- A SLOT record. -/
structure SDecl where
  core : Nat
  slot : Nat
  max : Nat
  readA : Bool
  readX : Bool
  deriving DecidableEq, Repr

/-- A FLAG record: the stream that may wait, if any. -/
structure FDecl where
  core : Nat
  flag : Nat
  waiter : Option Strm
  deriving DecidableEq, Repr

/-- A program: its partition and cores, key, declarations, extents (without potluck sets), staging region and descriptors, tables by core, data segments, hash and length. -/
structure Prog where
  part : Nat
  first : Nat
  num : Nat
  key : Nat
  queues : List QDecl
  regions : List RDecl
  slots : List SDecl
  flags : List FDecl
  extents : List Extent
  stageBase : Nat
  stageLen : Nat
  descs : List Desc
  tables : List (List Word128 × List Word128)
  segs : List (Nat × List Byte)
  hash : List Byte
  deriving DecidableEq, Repr

/-- What Pyist reports of a rejected image (R169, R221): the reason, with the logical core, the stream and the instruction index where they apply. The reply to LOAD carries the reason (R429). -/
structure Reject where
  reason : Nat
  core : Option Nat
  st : Option Strm
  pc : Option Nat
  deriving DecidableEq, Repr

/-- Pyist's answer: the program, or what it reports. -/
abbrev Check (α : Type) := Except Reject α

/-- A rejection that names no place. -/
def reject {α : Type} (reason : Nat) : Check α := .error ⟨reason, none, none, none⟩

/-- A condition that must hold, or its reason. -/
def need (b : Bool) (reason : Nat) : Check Unit := if b then .ok () else reject reason

/-- The place that a check looks at, reported where the check rejects. -/
def Check.at {α : Type} (x : Check α) (core : Nat) (st : Option Strm) (pc : Option Nat) : Check α :=
  match x with
  | .ok a => .ok a
  | .error r => .error ⟨r.reason, r.core.orElse (fun _ => some core), r.st.orElse (fun _ => st), r.pc.orElse (fun _ => pc)⟩

/-- Check every element, in order; the first rejection found is the answer. -/
def checkAll {α : Type} (f : α → Check Unit) : List α → Check Unit
  | [] => .ok ()
  | a :: r =>
    match f a with
    | .ok _ => checkAll f r
    | .error e => .error e

/-- A condition that must hold before a further check. -/
def Check.andThen {α β : Type} (c : Check α) (f : α → Check β) : Check β :=
  match c with
  | .ok a => f a
  | .error r => .error r

/-- Every reserved byte is zero. -/
def allZero (l : List Byte) : Bool := l.all (fun b => b == 0)

/-! ### Check 1: the header and the sections (R167, R169) -/

/-- Offset and length of a section: 0 packing list, 1 instruction tables, 2 data segments. -/
def sectionAt (m : List Byte) (i : Nat) : Nat × Nat := (fieldLe m (0x18 + 16 * i) 8, fieldLe m (0x20 + 16 * i) 8)

/-- A section starts on a 4 KiB boundary, after the one before it, inside the image (R166). -/
def sectionOk (m : List Byte) (lo i : Nat) : Bool :=
  let x := sectionAt m i
  x.1 % 4096 == 0 && decide (lo ≤ x.1 ∧ x.1 + x.2 ≤ m.length)

/-- The image with its hash field zero. -/
def unhashed (m : List Byte) : List Byte := m.take 0x48 ++ zeroBytes 32 ++ m.drop 0x68

/-- One instruction table at `pos`: its entries and where it ends. -/
def tableAt (m : List Byte) (pos hi : Nat) : Check (List Word128 × Nat) :=
  let n := fieldLe m pos 4
  if pos + 4 ≤ hi ∧ pos + 4 + 16 * n ≤ hi then
    .ok ((List.range n).map (fun i => BitVec.ofNat 128 (fieldLe m (pos + 4 + 16 * i) 16)), pos + 4 + 16 * n)
  else reject 0x0103

/-- The tables of `n` cores from `pos`, which fill the section. -/
def tablesAt (m : List Byte) (hi : Nat) : Nat → Nat → Check (List (List Word128 × List Word128))
  | 0, pos => if pos = hi then .ok [] else reject 0x0103
  | n + 1, pos =>
    (tableAt m pos hi).andThen fun a => (tableAt m a.2 hi).andThen fun x => (tablesAt m hi n x.2).andThen fun r => .ok ((a.1, x.1) :: r)

/-- The data segments from `pos`, each padded to 64 bytes, which fill the section. -/
def segsAt (m : List Byte) (hi : Nat) : Nat → Nat → Check (List (Nat × List Byte))
  | 0, pos => if pos = hi then .ok [] else reject 0x0103
  | n + 1, pos =>
    if pos = hi then .ok []
    else
      let len := fieldLe m (pos + 8) 8
      let next := pos + ceilDiv (16 + len) 64 * 64
      if pos + 16 ≤ hi ∧ next ≤ hi then
        (segsAt m hi n next).andThen fun r => .ok ((fieldLe m pos 8, (m.drop (pos + 16)).take len) :: r)
      else reject 0x0103

/-- Check 1 (R169), under the running firmware's version. DEDUCED (log 59). -/
def checkHeader (m : List Byte) (fw : Nat) : Check Prog :=
  let s0 := sectionAt m 0
  let s1 := sectionAt m 1
  let s2 := sectionAt m 2
  let first := fieldLe m 0xC 1
  let num := fieldLe m 0xD 1
  (need (m.take 4 == [0x4C, 0x58, 0x49, 0x4D]) 0x0101).andThen fun _ =>
  (need (fieldLe m 4 2 == 1 && fieldLe m 6 2 == 0 && fieldLe m 0xF 1 == 0 && allZero ((m.take 4096).drop 0x68)) 0x0102).andThen fun _ =>
  (need (fieldLe m 0x10 8 == m.length && decide (4096 ≤ m.length ∧ m.length ≤ 64 * 2 ^ 20) &&
      sectionOk m 4096 0 && sectionOk m (s0.1 + s0.2) 1 && sectionOk m (s1.1 + s1.2) 2) 0x0103).andThen fun _ =>
  (need (sha256 (unhashed m) == (m.drop 0x48).take 32) 0x0104).andThen fun _ =>
  (need (decide (fieldLe m 8 4 ≤ fw)) 0x0105).andThen fun _ =>
  (need (decide (first ≤ 127 ∧ 1 ≤ num ∧ num ≤ 128 ∧ first + num ≤ 128 ∧ fieldLe m 0xE 1 ≤ 7)) 0x0106).andThen fun _ =>
  (tablesAt m (s1.1 + s1.2) num s1.1).andThen fun ts =>
  (segsAt m (s2.1 + s2.2) m.length s2.1).andThen fun gs =>
  .ok ⟨fieldLe m 0xE 1, first, num, 0, [], [], [], [], [], 0, 0, [], ts, gs, (m.drop 0x48).take 32⟩

/-! ### Check 2: the packing list (R168, R220) -/

/-- The length a record of a type must have; none for a reserved type. -/
def recordLen (t : Nat) (r : List Byte) : Option Nat :=
  match t with
  | 1 => some 12
  | 2 => some 12
  | 3 => some 24
  | 4 => some 12
  | 5 => some 8
  | 6 => some 24
  | 7 => some (24 + 64 * fieldLe r 4 1)
  | 8 => some (8 + 24 * fieldLe r 4 1)
  | _ => none

/-- The records of the section: type and bytes. -/
def recordsAt : Nat → List Byte → Check (List (Nat × List Byte))
  | 0, _ => .ok []
  | n + 1, l =>
    if l = [] then .ok []
    else
      let t := fieldLe l 0 2
      let len := fieldLe l 2 2
      (need (decide (4 ≤ l.length)) 0x0202).andThen fun _ =>
      (need (recordLen t l).isSome 0x0201).andThen fun _ =>
      (need (decide (4 ≤ len ∧ len ≤ l.length) && recordLen t l == some len) 0x0202).andThen fun _ =>
      (recordsAt n (l.drop len)).andThen fun r => .ok ((t, l.take len) :: r)

/-- Records of one type. -/
def ofType (rs : List (Nat × List Byte)) (t : Nat) : List (List Byte) := (rs.filter (fun r => r.1 == t)).map (·.2)

/-- PACK_COUNT (R221, R362, R364). -/
def countsOk (rs : List (Nat × List Byte)) : Bool :=
  (ofType rs 1).length == 1 && decide ((ofType rs 6).length ≤ 1024) && decide ((ofType rs 7).length ≤ 1) && decide ((ofType rs 8).length ≤ 1) &&
    [2, 3, 4, 5].all (fun t => decide (((ofType rs t).map (fun r => (fieldLe r 4 1, fieldLe r 5 1))).Nodup))

/-- A stream of a record. -/
def strmOf (v : Nat) : Strm := if v = 1 then .x else .a

/-- A queue record within its limits (R128, R220). -/
def queueOf (lo hi : Nat) (r : List Byte) : Option QDecl :=
  let d : QDecl := ⟨fieldLe r 4 1, fieldLe r 5 1, fieldLe r 6 2, strmOf (fieldLe r 8 1), strmOf (fieldLe r 9 1)⟩
  if lo ≤ d.core ∧ d.core < hi ∧ d.q ≤ 15 ∧ (d.depth = 0 ∨ 2 ≤ d.depth ∧ d.depth ≤ 512) ∧ fieldLe r 8 1 ≤ 1 ∧ fieldLe r 9 1 ≤ 1 ∧ fieldLe r 10 2 = 0 then some d else none

/-- A region record within its limits (R134, R220); base and length are check 4's. -/
def regionOf (lo hi : Nat) (r : List Byte) : Option RDecl :=
  let d : RDecl := ⟨fieldLe r 4 1, fieldLe r 5 1, fieldLe r 8 8, fieldLe r 16 8⟩
  if lo ≤ d.core ∧ d.core < hi ∧ d.region ≤ 247 ∧ fieldLe r 6 2 = 0 then some d else none

/-- A slot record within its limits (R154, R220). -/
def slotDeclOf (lo hi : Nat) (r : List Byte) : Option SDecl :=
  let d : SDecl := ⟨fieldLe r 4 1, fieldLe r 5 1, fieldLe r 8 4, bits (fieldLe r 6 1) 0 0 == 1, bits (fieldLe r 6 1) 1 1 == 1⟩
  if lo ≤ d.core ∧ d.core < hi ∧ d.slot ≤ 15 ∧ 1 ≤ fieldLe r 6 1 ∧ fieldLe r 6 1 ≤ 3 ∧ fieldLe r 7 1 = 0 ∧ 1 ≤ d.max ∧ d.max ≤ 16777215 then some d else none

/-- A flag record within its limits (R144, R220). -/
def flagOf (lo hi : Nat) (r : List Byte) : Option FDecl :=
  let d : FDecl := ⟨fieldLe r 4 1, fieldLe r 5 1, if fieldLe r 6 1 = 0 then none else some (strmOf (fieldLe r 6 1 - 1))⟩
  if lo ≤ d.core ∧ d.core < hi ∧ d.flag ≤ 63 ∧ fieldLe r 6 1 ≤ 2 ∧ fieldLe r 7 1 = 0 then some d else none

/-- An extent record within its limits (R163, R220). -/
def extentOf (r : List Byte) : Option Extent :=
  let m := fieldLe r 4 1
  if 1 ≤ m ∧ m ≤ 3 ∧ fieldLe r 5 3 = 0 then some ⟨fieldLe r 8 8, fieldLe r 16 8, m, []⟩ else none

/-- Blocks of a descriptor's reserve: the largest shard of HMIN holders, in 4 KiB blocks (R365, R371, R372). -/
def Desc.reserve (d : Desc) (hmin : Nat) : Nat := (if d.wire = 2 then 2 else 1) * ceilDiv d.spans hmin

/-- A reduction descriptor within its limits (R363, R365). -/
def descOf (b : List Byte) : Option Desc :=
  let f := fieldLe b 3 1
  let d : Desc := ⟨fieldLe b 0 1, fieldLe b 1 1, fieldLe b 2 1, bits f 0 0 == 1, fieldLe b 4 1, fieldLe b 5 1, fieldLe b 8 4, fieldLe b 12 4,
    fieldLe b 16 8, fieldLe b 24 8, fieldLe b 32 4, fieldLe b 36 4, fieldLe b 40 4, none, b⟩
  if d.rch ≤ 63 ∧ d.group ≤ 15 ∧ d.policy ≤ 2 ∧ f ≤ 3 ∧ d.wire ≤ 2 ∧ d.rfmt ≤ 1 ∧ fieldLe b 6 2 = 0 ∧
      (if d.policy = 2 then 1 ≤ d.quorum ∧ d.quorum ≤ 32768 else d.quorum = 0) ∧ 1 ≤ d.hmin ∧ d.hmin ≤ 32768 ∧
      1 ≤ d.elems ∧ d.elems ≤ 2 ^ 34 ∧ stackDpa ≤ d.tally ∧ d.tally < stackTop ∧ d.tally % 64 = 0 ∧ 1 ≤ d.rcdl ∧ d.rcdl ≤ 10 ^ 9 ∧ d.latex ≤ 10 ^ 6 ∧
      allZero (b.drop 44) = true ∧ d.reserve d.hmin ≤ d.blocks then some d else none

/-- The REDUCE record: staging base and length, descriptors (R362, R365). -/
def reduceOf (r : List Byte) : Option (Nat × Nat × List Desc) :=
  let n := fieldLe r 4 1
  let base := fieldLe r 8 8
  let len := fieldLe r 16 8
  match (List.range n).mapM (fun i => descOf ((r.drop (24 + 64 * i)).take 64)) with
  | some ds =>
    if 1 ≤ n ∧ n ≤ 64 ∧ fieldLe r 5 3 = 0 ∧ stackDpa ≤ base ∧ base < stackTop ∧ base % 4096 = 0 ∧ len % 4096 = 0 ∧ len ≤ 512 * 2 ^ 20 ∧
        sumOf (ds.map Desc.blocks) ≤ len / 4096 then some (base, len, ds) else none
  | none => none

/-- Enter one COMPANION entry (R364). -/
def companionInto (ds : List Desc) (e : List Byte) : Option (List Desc) :=
  let i := fieldLe e 0 1
  match ds[i]? with
  | some d =>
    if fieldLe e 1 7 = 0 ∧ bits (fieldLe d.bytes 3 1) 1 1 = 1 ∧ d.comp.isNone ∧ stackDpa ≤ fieldLe e 8 8 ∧ fieldLe e 8 8 < stackTop ∧ fieldLe e 8 8 % 64 = 0 ∧
        fieldLe e 16 8 = ceilDiv (4 * d.elems) 64 * 64 then some (ds.set i { d with comp := some (fieldLe e 8 8) }) else none
  | none => none

/-- The COMPANION record's entries. -/
def companionsInto (r : List Byte) (ds : List Desc) : Option (List Desc) :=
  let n := fieldLe r 4 1
  if 1 ≤ n ∧ n ≤ 64 ∧ fieldLe r 5 3 = 0 then
    (List.range n).foldl (fun o i => o.bind (fun l => companionInto l ((r.drop (8 + 24 * i)).take 24))) (some ds)
  else none

/-- A descriptor has a companion exactly where it declares one. -/
def Desc.compOk (d : Desc) : Bool := d.comp.isSome == (bits (fieldLe d.bytes 3 1) 1 1 == 1)

/-- The declarations of a packing list within their limits (PACK_LIMIT, R221, R365). -/
def declare (p : Prog) (rs : List (Nat × List Byte)) : Option Prog :=
  let lo := p.first
  let hi := p.first + p.num
  match (ofType rs 2).mapM (queueOf lo hi), (ofType rs 3).mapM (regionOf lo hi), (ofType rs 4).mapM (slotDeclOf lo hi), (ofType rs 5).mapM (flagOf lo hi),
      (ofType rs 6).mapM extentOf, (ofType rs 7).mapM reduceOf with
  | some qs, some bs, some ss, some fs, some es, some red =>
    let r := red.headD (0, 0, [])
    match (ofType rs 8).foldl (fun o c => o.bind (companionsInto c)) (some r.2.2) with
    | some ds =>
      if ds.all Desc.compOk then
        some { p with
          key := fieldLe ((ofType rs 1).headD []) 4 8
          queues := qs, regions := bs, slots := ss, flags := fs, extents := es, stageBase := r.1, stageLen := r.2.1, descs := ds }
      else none
    | none => none
  | _, _, _, _, _, _ => none

/-- The logical cores of a program. -/
def Prog.cores (p : Prog) : List Nat := (List.range p.num).map (· + p.first)

/-- Queue depths of each core fit the pool (R128). -/
def Prog.poolOk (p : Prog) : Check Unit := checkAll (fun c => (need (decide (sumOf ((p.queues.filter (fun q => q.core == c)).map QDecl.depth) ≤ 1024)) 0x0205).at c none none) p.cores

/-- Check 2 (R169). DEDUCED (log 59). -/
def checkPacking (m : List Byte) (p : Prog) : Check Prog :=
  let x := sectionAt m 0
  (recordsAt x.2 ((m.drop x.1).take x.2)).andThen fun rs =>
  (need (countsOk rs) 0x0203).andThen fun _ =>
  match declare p rs with
  | none => reject 0x0204
  | some q => q.poolOk.andThen fun _ => .ok q

/-! ### Declarations of one core -/

/-- A queue's declaration; only a queue with a depth is used (R128). -/
def Prog.queue (p : Prog) (c q : Nat) : Option QDecl := p.queues.find? (fun d => d.core == c && d.q == q && d.depth != 0)

/-- A slot's declaration. -/
def Prog.slot (p : Prog) (c n : Nat) : Option SDecl := p.slots.find? (fun d => d.core == c && d.slot == n)

/-- A region's base and length. -/
def Prog.region (p : Prog) (c r : Nat) : Option (Nat × Nat) := (p.regions.find? (fun d => d.core == c && d.region == r)).map (fun d => (d.base, d.len))

/-- A logical core as a load leaves it (R133, R142, R171, R186, R210, R213): its tables, queues, regions and slots, and everything a load clears; both streams wait for the start. What the arrays and spreads of the physical core held stays, for no load clears it (log 8). -/
def Prog.loaded (p : Prog) (c : Nat) (old : Core) : Core :=
  let t := p.tables.getD (c - p.first) ([], [])
  let st : Stream := { Stream.reset with state := 1 }
  { Core.reset with
    a := { st with table := t.1 }
    x := { st with table := t.2 }
    arrays := old.arrays
    spreads := old.spreads
    queues := (p.queues.filter (fun d => d.core == c)).foldl (fun l d => Tab.put l d.q { Queue.reset with depth := d.depth }) []
    regions := (p.regions.filter (fun d => d.core == c)).foldl (fun l d => Tab.put l d.region (d.base, d.len)) []
    slots := (p.slots.filter (fun d => d.core == c)).foldl (fun l d => Tab.put l d.slot { Slot.reset with max := d.max, readA := d.readA, readX := d.readX }) [] }

end Sys2Proof.Machine
end

