-- ==== Sys2Proof/Machine/RowEngine.lean ====
section
/-! DEFINITION. The row engine (02 R70 to R73, 05 R213 to R219, 06 R238): RX, REBASE, QMOVE and their groups of 128 lanes. -/

namespace Sys2Proof.Machine

/-! ### Elementwise operations (R70, R216) -/

/-- The limits of EXP, LOG, TANH, SIGM and ERF at the infinities (R563), and RSQRT and LOG where R49 gives NaN. DESIGN CHOICE (log 7). -/
def approxOp (f : Config.Approx) (a : Word32) (pos ng : Word32) : Word32 × Fl :=
  match val32 a with
  | .nan => (wNan, 0)
  | .inf n => (limit n pos ng, 0)
  | .fin _ _ _ => approx32 f 2 a

/-- RSQRT: NaN with NAN_GEN for a negative operand other than −0 (R49: the square root in it), +0 at +Inf, within 1 ulp elsewhere (R70); no rule states its value at a zero (log 7). -/
def rsqrt32 (a : Word32) : Word32 × Fl :=
  match val32 a with
  | .nan => (wNan, 0)
  | .inf n => if n then (wNan, Fl.nanGen) else (0, 0)
  | .fin n m _ => if m = 0 then (canonical (Config.approx .rsqrt a), 0) else if n then (wNan, Fl.nanGen) else approx32 .rsqrt 1 a

/-- LOG: +Inf at +Inf, within 2 ulp of ln at positive operands (R70); no rule states its value at zero or below (log 7). -/
def log32 (a : Word32) : Word32 × Fl :=
  match val32 a with
  | .nan => (wNan, 0)
  | .inf false => (wPosInf, 0)
  | .fin false (_ + 1) _ => approx32 .log 2 a
  | _ => (canonical (Config.approx .log a), 0)

/-- The result of an elementwise operation on widened operands (R216); HI, LO and JOIN move raw bits. -/
def rxLane (rop : Nat) (a b c : Word32) : Word32 × Fl :=
  match rop with
  | 0x02 => add32 a b
  | 0x03 => sub32 a b
  | 0x04 => mul32 a b
  | 0x05 => fma32 a b c
  | 0x06 => div32 a b
  | 0x07 => sqrt32 a
  | 0x08 => rsqrt32 a
  | 0x09 => approxOp .exp a wPosInf 0
  | 0x0A => log32 a
  | 0x0B => approxOp .tanh a wOne wNegOne
  | 0x0C => approxOp .sigm a wOne 0
  | 0x0D => approxOp .erf a wOne wNegOne
  | 0x0E => (max32 a b, 0)
  | 0x0F => (min32 a b, 0)
  | _ => (if (val32 a).isNan then wNan else a, 0)

/-! ### Reductions (R72) -/

/-- One level of the pairwise tree: neighbours are added, a lone member passes up. -/
def pairLevel : List Word32 → List Word32 × Fl
  | a :: b :: r =>
    let s := add32 a b
    let t := pairLevel r
    (s.1 :: t.1, s.2 ||| t.2)
  | l => (l, 0)

/-- The tree's levels, seven for a chunk of 128 lanes. -/
def pairTree : Nat → List Word32 → List Word32 × Fl
  | 0, l => (l, 0)
  | n + 1, l =>
    let t := pairLevel l
    let u := pairTree n t.1
    (u.1, t.2 ||| u.2)

/-- A chunk's sum (R72). -/
def chunkSum (l : List Word32) : Word32 × Fl :=
  let t := pairTree 7 l
  (t.1.headD 0, t.2)

/-- The running value of RSUM or RMAX after one more chunk. -/
def reduceChunk (rop : Nat) (run : Option Word32) (l : List Word32) : Word32 × Fl :=
  let c := if rop = 0x10 then chunkSum l else ((l.drop 1).foldl max32 (l.headD 0), 0)
  match run with
  | none => c
  | some r =>
    let t := if rop = 0x10 then add32 r c.1 else (max32 r c.1, 0)
    (t.1, c.2 ||| t.2)

/-! ### MERGEK (R217) -/

/-- Entry `a` ranks above `b`: valid first, then descending value by R102, then lower POS. -/
def entryAbove (a b : Nat) : Bool :=
  let v := fun e => bits e 63 63 == 1
  let w := fun (e : Nat) => (BitVec.ofNat 32 e : Word32)
  if v a && v b then outranks (w a) (w b) || (!outranks (w b) (w a) && decide (bits a 47 32 < bits b 47 32))
  else v a && !v b

/-- Put an entry after every entry that ranks no lower. -/
def entryIn (e : Nat) : List Nat → List Nat
  | [] => [e]
  | x :: r => if entryAbove e x then e :: x :: r else x :: entryIn e r

/-- An entry whose value is NaN carries the canonical one (R48). -/
def entryCanon (e : Nat) : Nat := if bits e 63 63 = 1 then setBits e 31 0 (canonical (BitVec.ofNat 32 e)).toNat else e

/-- The `n` best of two lists of entries, POISON = 1 in each if any entry has it. -/
def mergeK (n : Nat) (a b : List Nat) : List Nat :=
  let l := a ++ b
  let bad := l.any (fun e => bits e 62 62 == 1)
  ((l.foldl (fun t e => entryIn e t) []).take n).map (fun e => setBits (entryCanon e) 62 62 (bit bad))

/-! ### Operands and results -/

/-- The sources an operation reads (R213). -/
def rxSources (b : RxB) : List Nat := b.sa :: ((if ropReadsB b.rop then [b.sb] else []) ++ (if ropReadsC b.rop then [b.sc] else []))

/-- Lanes of group `g`: up to 128 of LEN; MERGEK has one group of LEN entries (R218). -/
def groupLanes (b : RxB) (g : Nat) : Nat := if b.rop = 0x15 then b.len else min 128 (b.len - 128 * g)

/-- Bytes that one group pops from each queue source. -/
def rxPulls (b : RxB) (g : Nat) : List (Nat × Nat) :=
  ((rxSources b).filter (fun f => decide (f < 16))).map (fun f => (f, if b.rop = 0x15 then 8 * b.len else groupLanes b g * (widthOf b.ts / 8)))

/-- A scalar register of a core (R213); +0 where none is listed. -/
def Core.scalar (c : Core) (n : Nat) : PWord := Tab.get c.scalars (0, false) n

/-- Lane values of each source, in source order: data of the queue sources one after another, scalars broadcast. -/
def rxLanes (o : Op) (b : RxB) (n : Nat) : List Nat → List (List PByte) → List (List PWord)
  | [], _ => []
  | f :: r, ds =>
    if f < 16 then elemsOf b.ts n (ds.headD []) :: rxLanes o b n r ds.tail
    else List.replicate n (o.scal.getD (f - 16) (0, false)) :: rxLanes o b n r ds

/-- Raw 16-bit halves of each JOIN source: a scalar gives the high half of its FP32 word. -/
def rawHalves (o : Op) (n : Nat) : List Nat → List (List PByte) → List (List Nat)
  | [], _ => []
  | f :: r, ds =>
    if f < 16 then unpackElems 1 n ((ds.headD []).map (·.1)) :: rawHalves o n r ds.tail
    else List.replicate n ((o.scal.getD (f - 16) (0, false)).1.toNat / 65536) :: rawHalves o n r ds

/-- Top-k entries of a MERGEK source; an entry with a marked word carries POISON = 1. -/
def entriesOf (n : Nat) (bs : List PByte) : List Nat :=
  (List.range n).map (fun i =>
    let e := (bs.drop (8 * i)).take 8
    let v := ofLe (e.map (·.1))
    if e.any (·.2) then setBits v 62 62 1 else v)

/-- What one group delivers: destination bytes, scale bytes, the scalar value, flags. -/
structure RxOut where
  bytes : List PByte
  scales : List PByte
  scalar : Option PWord
  fl : Fl
  deriving DecidableEq, Repr

/-- Results narrowed for a queue or a scalar destination (R214): a scalar holds the narrowed value widened back. The padding of a short last MX block is not pushed. DESIGN CHOICE (log 75). -/
def rxDeliver (b : RxB) (key step base : Nat) (ys : List PWord) : RxOut :=
  let ix := (List.range ys.length).map (fun j => (base + j) % 2 ^ 48)
  let r := narrowRow b.td b.rmode key step b.stream ys ix
  if b.dst < 16 then ⟨packMarked b.td r.1, r.2.1, none, r.2.2⟩
  else
    let e := r.1.headD (0, false)
    let w := if isMx b.td then widenMx b.td e.1 ((r.2.1.headD (0, false)).1.toNat) else (widenFp b.td e.1, 0)
    ⟨[], r.2.1, some (w.1, e.2), r.2.2 ||| w.2⟩

/-- Raw 16-bit results of HI and LO. -/
def rxRaw (b : RxB) (xs : List (Nat × Bool)) (fl : Fl) : RxOut :=
  if b.dst < 16 then ⟨packMarked 1 xs, [], none, fl⟩
  else
    let e := xs.headD (0, false)
    ⟨[], [], some (widenFp 1 e.1, e.2), fl⟩

/-- The `j`-th value of a source list, or +0. -/
def laneAt (l : List (List PWord)) (src j : Nat) : PWord := (l.getD src []).getD j (0, false)

/-- The result lanes of an elementwise operation with poison (R214), and the flags. -/
def rxCompute (b : RxB) (n : Nat) (l : List (List PWord)) (raw : List (List Nat)) : List PWord × Fl :=
  let used := (rxSources b).length
  let rs := (List.range n).map (fun j =>
    let ops := (List.range used).map (fun i => laneAt l i j)
    let p := ops.any (·.2)
    if b.rop = 0x14 then
      let w : Word32 := BitVec.ofNat 32 ((raw.getD 0 []).getD j 0 * 65536 + (raw.getD 1 []).getD j 0)
      (((if (val32 w).isNan then wNan else w, p) : PWord), (0 : Fl))
    else
      let r := rxLane b.rop (laneAt l 0 j).1 (laneAt l 1 j).1 (laneAt l 2 j).1
      (((r.1, p) : PWord), r.2 ||| nanIn (ops.map (·.1))))
  (rs.map (·.1), rs.foldl (fun f e => f ||| e.2) 0)

/-- One group of an RX (R214 to R217): the instruction with its running value, and what the group delivers. -/
def rxGroup (o : Op) (b : RxB) (key : Nat) (data : List (List PByte)) : Op × RxOut :=
  let n := groupLanes b o.cnt
  let last := decide (o.cnt + 1 = groupsIn b)
  let none' : RxOut := ⟨[], [], none, 0⟩
  if b.rop = 0x15 then
    let l := entriesOf b.len (data.headD [])
    let r := entriesOf b.len (data.tail.headD [])
    (o, { none' with bytes := entryBytes (mergeK b.len l r), fl := nanIn (((l ++ r).filter (fun e => bits e 63 63 == 1)).map (fun e => BitVec.ofNat 32 e)) })
  else
    let l := rxLanes o b n (rxSources b) data
    if b.rop = 0x10 ∨ b.rop = 0x11 then
      let xs := l.headD []
      let r := reduceChunk b.rop (o.acc.map (·.1)) (xs.map (·.1))
      let p := (o.acc.any (·.2)) || xs.any (·.2)
      let fl := r.2 ||| nanIn (xs.map (·.1))
      if last then
        let out := rxDeliver b key o.step o.row0 [(r.1, p)]
        (o, { out with fl := out.fl ||| fl })
      else ({ o with acc := some (r.1, p) }, { none' with fl := fl })
    else if b.rop = 0x12 ∨ b.rop = 0x13 then
      let xs := l.headD []
      (o, rxRaw b (xs.map (fun x => (if b.rop = 0x12 then x.1.toNat / 65536 else x.1.toNat % 65536, x.2))) (nanIn (xs.map (·.1))))
    else
      let y := rxCompute b n l (rawHalves o n (rxSources b) data)
      let out := rxDeliver b key o.step (o.row0 + 128 * o.cnt) y.1
      (o, { out with fl := out.fl ||| y.2 })

/-! ### Groups -/

/-- The operations of the row engine, oldest first (R218). -/
def Core.rowOps (c : Core) : List Op := c.ops.filter (fun o => isRow o.ins)

/-- The operation whose next group may start (R218, R258): the oldest once its last group's results are pushed; while those of its final group hold, the first group of the one after it. DEDUCED (log 74). -/
def Core.rowNext (c : Core) : Option Op :=
  match c.rowOps with
  | o :: r => if o.cnt < o.groups then (if o.res = [] then some o else none) else (r.head?).filter (fun x => x.cnt == 0)
  | [] => none

/-- Pop the bytes of a list of pulls, each queue once (R130). -/
def Core.popPulls (c : Core) (l : List (Nat × Nat)) (t : Nat) : Core :=
  ((l.map (·.1)).dedup).foldl (fun c q => c.setQueue q ((c.queue q).pop (pullBytes l q) t)) c

/-- The queues hold a group's operands, in pop order (R130, R218). -/
def Core.pullsReady (c : Core) (o : Op) (l : List (Nat × Nat)) : Bool :=
  l.all (fun p => c.popTurn o p.1 && decide (pullBytes l p.1 ≤ (c.queue p.1).bytes.length))

/-- Push results that have something to push, in push order, with room for all (R130, R218); none where one holds. -/
def Core.pushAll (c : Core) (o : Op) (l : List (Nat × List PByte)) (t : Nat) : Option Core :=
  let l := l.filter (fun e => !e.2.isEmpty)
  let load := l.map (fun e => (e.1, e.2.length))
  if load.all (fun e => c.pushTurn o e.1 && decide (pullBytes load e.1 ≤ (c.queue e.1).free)) then
    some (l.foldl (fun c e => c.setQueue e.1 ((c.queue e.1).push e.2 t)) c)
  else none

/-- The oldest operation pushes what its last group holds, and completes after its final group (R218). -/
def Core.rowPush (c : Core) (t : Nat) : Core :=
  match c.rowOps.head? with
  | some o =>
    if o.cnt = 0 then c
    else
      match c.pushAll o o.res t with
      | none => c
      | some y => if o.cnt = o.groups then y.finish o else y.setOp { o with res := [] }
  | none => c

/-- A group of an operation has popped its operands and holds its results. -/
def Core.rowHold (c : Core) (o : Op) (pulls : List (Nat × Nat)) (res : List (Nat × List PByte)) (t : Nat) : Core :=
  (c.popPulls pulls t).setOp { o with cnt := o.cnt + 1, res := res.filter (fun e => !e.2.isEmpty) }

/-- One group of an RX on a core. -/
def State.rxStep (s : State) (k c : Nat) (o : Op) (b : RxB) : State :=
  let x := s.core k
  let pulls := rxPulls b o.cnt
  if !x.pullsReady o pulls then s
  else
    let o := if o.cnt = 0 then { o with scal := (List.range 16).map x.scalar } else o
    let r := rxGroup o b (s.genKey c) (pullData x [] pulls)
    let y := x.rowHold r.1 pulls [(b.dst, r.2.bytes), (b.sc, r.2.scales)] s.clock.eclk
    let y := match r.2.scalar with
      | some v => { y with scalars := Tab.put y.scalars (b.dst - 16) v }
      | none => y
    (s.setCore k y).raise k r.2.fl

/-- One group of a QMOVE: up to 128 bytes with their marks (R218, R219). -/
def State.qmoveStep (s : State) (k : Nat) (o : Op) (qs qd bytes : Nat) : State :=
  let x := s.core k
  let n := min 128 (bytes - 128 * o.cnt)
  if !x.pullsReady o [(qs, n)] then s
  else s.setCore k (x.rowHold o [(qs, n)] [(qd, (x.queue qs).front n)] s.clock.eclk)

/-! ### The instructions -/

/-- RX (R213 to R218): its element index base is taken at issue. -/
def execRx (c : Nat) (cf : Cf) (b : RxB) (s : State) : Host.Outcome State Fault Refusal :=
  guardWf (Instr.wf (.rx c cf b)) s fun s => s.request c .x (.rx cf b)

/-- REBASE (R215). -/
def execRebase (c dep stride ebase : Nat) (s : State) : Host.Outcome State Fault Refusal :=
  guardWf (Instr.wf (.rebase c dep stride ebase)) s fun s => s.control c .x (.rebase dep stride ebase) (fun x => { x with rebase := some (dep, stride, ebase) })

/-- QMOVE (R218, R219). -/
def execQmove (c : Nat) (cf : Cf) (qs qd bytes : Nat) (s : State) : Host.Outcome State Fault Refusal :=
  guardWf (Instr.wf (.qmove c cf qs qd bytes)) s fun s => s.request c .x (.qmove cf qs qd bytes)

/-! ### The events -/

/-- RX_GROUP (R218): results that hold are pushed where there is room, the next group of the row engine pops and computes, and its results are pushed where there is room. -/
def execRxGroup (c : Nat) (qerr : List QErr) (s : State) : Host.Outcome State Fault Refusal :=
  guardWf (Instr.wf (.rxGroup c qerr)) s fun s =>
    match s.phys c with
    | none => s
    | some k =>
      let t := s.clock.eclk
      let s := (s.meetErrs k qerr).updCore k (fun x => x.rowPush t)
      match (s.core k).rowNext with
      | none => s
      | some o =>
        let s := match o.ins with
          | .rx _ b => s.rxStep k c o b
          | .qmove _ qs qd bytes => s.qmoveStep k o qs qd bytes
          | _ => s
        s.setCore k ((s.core k).rowPush t)

/-- HW_FAULT (R223, R444): an uncorrectable error in a sequencer's instruction memory, loop state, scoreboard or count slots ends the program; it is an event of the core. -/
def execHwFault (c : Nat) (s : State) : Host.Outcome State Fault Refusal :=
  guardWf (Instr.wf (.hwFault c)) s fun s =>
    match s.partOf c, s.phys c with
    | some p, some k => (s.unitEvent (unitCore k) evUe 0).terminate p tHwFault (.core c)
    | _, _ => s

end Sys2Proof.Machine
end

