-- ==== Sys2Proof/Machine/Runs.lean ====
section
/-! DEFINITION. The runs that Pyist considers (04 R169, R170): what each stream of a core issues, in order, for every value that each count-slot write can take; and the paths of the other checks, whose counts are symbols bounded by the slot maxima alone. -/

namespace Sys2Proof.Machine

/-- One instruction that a run issues: logical core, stream, instruction, the core's declarations, generators, descriptors, modes, regions and loops as it issues (`ctx`), and the slot that it latches or writes with the ordinal of the value. -/
structure Inst where
  core : Nat
  st : Strm
  ins : Ovt
  ctx : Core
  slot : Option (Nat × Nat)
  deriving DecidableEq, Repr

/-- Table index. -/
def Inst.pc (i : Inst) : Nat := (i.ctx.stream i.st).pc

/-- The record that it issues with. -/
def Inst.op (i : Inst) : Op := mkOp State.reset i.ctx i.st 0 i.ins (claimsOf i.ctx i.ins)

/-- How a stream's part of a run ends: at END, past the table, at a latch that no value ever reaches, at a slot write whose value the run has not chosen (with the slot's maximum). -/
inductive Stop where
  | ended
  | ranOff
  | stuck
  | ask (max : Nat)
  deriving DecidableEq, Repr

/-- A walk of one stream: the core, values written to each slot in order, how many this stream has latched of each, values chosen for the slot writes to come, and what it has issued (newest first). -/
structure Walk where
  c : Core
  wr : Tab (List Nat)
  lat : Tab Nat
  choice : List Nat
  out : List Inst
  deriving DecidableEq, Repr

/-- The instruction a stream stands at. -/
def Stream.fetch (t : Stream) : Option Ovt := (t.table[t.pc]?).bind (fun w => ovtOfWord w.toNat)

/-- What an instruction leaves in a core's generators, descriptors, modes, set regions and epoch ordinals as it issues (R93, R94, R184, R209, R215, R375). -/
def Core.context (c : Core) (i : Ovt) : Core :=
  match i with
  | .agbase ag r o => { c with ags := Tab.put c.ags ag { c.ag ag with region := some r, offset := o } }
  | .agstr ag g s0 s1 s2 => { c with ags := Tab.put c.ags ag { c.ag ag with strides := setStrides (c.ag ag).strides g s0 s1 s2 } }
  | .rebase d st e => { c with rebase := some (d, st, e) }
  | .ddesc dd d => { c with dds := Tab.put c.dds dd d }
  | .amode _ b => c.updArr b.arr (fun x => { x with qm := b.qm, ta := b.ta, tb := b.tb, named := [] })
  | .repoch _ r _ _ => { c with ords := Tab.upd c.ords 0 r (· + 1) }
  | .boundary => { c with ords := [] }
  | i =>
    match namesRegion i with
    | some (a, k, m, n) => c.updArr a (fun x => { x with named := Tab.put x.named k (m, n) })
    | none => c

/-- Note an instruction as issued, and go on. -/
def Walk.note (w : Walk) (core : Nat) (st : Strm) (i : Ovt) (slot : Option (Nat × Nat)) : Walk := { w with out := ⟨core, st, i, w.c, slot⟩ :: w.out }

/-- The stream of a walk moves on. -/
def Walk.move (w : Walk) (st : Strm) (f : Stream → Stream) : Walk := { w with c := w.c.updStream st f }

/-- A value is written to a slot. -/
def Walk.write (w : Walk) (n v : Nat) : Walk := { w with wr := Tab.upd w.wr [] n (· ++ [v]) }

/-- A write to a slot whose value the run chooses; none while it has not chosen. DEDUCED (log 58). -/
def Walk.choose (w : Walk) (core : Nat) (i : Ovt) (sl : Nat) : Option Walk :=
  match w.choice with
  | [] => none
  | v :: r => some (((({ w with choice := r }.note core .a i (some (sl, (Tab.get w.wr [] sl).length))).write sl v)).move .a Stream.advance)

/-- Walk a stream to where it ends. With `free`, a CSET too takes any value up to its slot's maximum, as the counts of a path are symbols with that bound alone (R169); else it takes its own. DEDUCED (log 58). -/
def walk (free : Bool) (core : Nat) (st : Strm) : Nat → Walk → Walk × Stop
  | 0, w => (w, .stuck)
  | n + 1, w =>
    match (w.c.stream st).fetch with
    | none => (w, .ranOff)
    | some .endS => (w.note core st .endS none, .ended)
    | some (.loop b) =>
      if b.csrc then
        let k := Tab.get w.lat 0 b.slot
        let u := w.note core st (.loop b) (some (b.slot, k))
        match (Tab.get w.wr [] b.slot)[k]? with
        | none => (u, .stuck)
        | some v => walk free core st n ({ u with lat := Tab.put u.lat b.slot (k + 1) }.move st (fun t => t.enter v))
      else walk free core st n ((w.note core st (.loop b) none).move st (fun t => t.enter b.imm))
    | some (.cset sl v) =>
      if free then
        match w.choose core (.cset sl v) sl with
        | none => (w, .ask (Tab.get w.c.slots Slot.reset sl).max)
        | some u => walk free core st n u
      else walk free core st n (((w.note core st (.cset sl v) (some (sl, (Tab.get w.wr [] sl).length))).write sl v).move st Stream.advance)
    | some (.cload cf ag sl) =>
      (match w.choose core (.cload cf ag sl) sl with
       | none => (w, .ask (Tab.get w.c.slots Slot.reset sl).max)
       | some u => walk free core st n u)
    | some i => walk free core st n ({ w.note core st i none with c := w.c.context i }.move st Stream.advance)

/-- More instructions than any stream issues: six loops of 2^24 iterations over 4,096 entries. -/
def walkFuel : Nat := 2 ^ 160

/-- Every walk of an A-stream: a chosen value is each one up to its slot's maximum (R155, R170). DEDUCED (log 58). -/
def walksA (free : Bool) (core : Nat) : Nat → Walk → List (Walk × Stop)
  | 0, _ => []
  | n + 1, w =>
    match walk free core .a walkFuel w with
    | (u, .ask m) => (List.range (m + 1)).flatMap (fun v => walksA free core n { u with choice := [v] })
    | r => [r]

/-- One run of a core: what each stream issues, and how it ends. -/
structure CoreRun where
  core : Nat
  a : List Inst
  aStop : Stop
  x : List Inst
  xStop : Stop
  deriving DecidableEq, Repr

/-- The runs of a core, or with `free` its paths. -/
def Prog.coreRuns (p : Prog) (free : Bool) (core : Nat) : List CoreRun :=
  let c := p.loaded core Core.reset
  (walksA free core walkFuel ⟨c, [], [], [], []⟩).map (fun r =>
    let x := walk free core .x walkFuel ⟨c, r.1.wr, [], [], []⟩
    ⟨core, r.1.out.reverse, r.2, x.1.out.reverse, x.2⟩)

/-- One of each: a run of the program chooses a run of each core. -/
def choices {α : Type} : List (List α) → List (List α)
  | [] => [[]]
  | l :: r => l.flatMap (fun a => (choices r).map (fun t => a :: t))

/-- The runs of a program (R170). DEDUCED (log 58). -/
def Prog.runs (p : Prog) : List (List CoreRun) := choices (p.cores.map (p.coreRuns false))

/-- The paths of a program: runs whose counts are symbols bounded by the slot maxima (R169). DEDUCED (log 58). -/
def Prog.paths (p : Prog) : List (List CoreRun) := choices (p.cores.map (p.coreRuns true))

/-- A stream's part of a run. -/
def CoreRun.stream (r : CoreRun) (st : Strm) : List Inst :=
  match st with
  | .a => r.a
  | .x => r.x

/-! ### Loop nesting (R150, R178) -/

/-- LOOP and ENDLOOP match, nest six deep at most, and no body is empty; `d` loops are open, `fresh` tells that the last entry was a LOOP. DEDUCED (log 58). -/
def nestOk : List Word128 → Nat → Bool → Bool
  | [], d, _ => d == 0
  | w :: r, d, fresh =>
    let opc := bits w.toNat 127 120
    if opc = 2 then decide (d < 6) && nestOk r (d + 1) true
    else if opc = 3 then d != 0 && !fresh && nestOk r (d - 1) false
    else nestOk r d false

/-- A program's tables by core and stream. -/
def Prog.streams (p : Prog) : List (Nat × Strm × List Word128) :=
  p.cores.flatMap (fun c => let t := p.tables.getD (c - p.first) ([], []); [(c, .a, t.1), (c, .x, t.2)])

/-- Every table nests as R178 says; only then has a program runs. -/
def Prog.nests (p : Prog) : Bool := p.streams.all (fun e => nestOk e.2.2 0 false)

/-- The paths of each core, none while some table does not nest. DEDUCED (log 58). -/
def Prog.allRuns (p : Prog) : List CoreRun := if p.nests then p.cores.flatMap (p.coreRuns true) else []

/-! ### Queue traffic (R130, R131, R205) -/

/-- One round of an instruction's queue traffic: what it pops at once, then what it pushes, queue and bytes. -/
structure Round where
  pops : List (Nat × Nat)
  pushes : List (Nat × Nat)
  deriving DecidableEq, Repr

/-- Every unit of a transfer, 64-byte request by request. -/
def unitsOf (l : List Seg) : List Nat := l.flatMap (fun g => (List.range (wordsOf (g.addr.getD 0) g.len)).map (fun k => (partOfWord (g.addr.getD 0) g.len k 0).len))

/-- One pull for each queue (a queue that is pulled twice at once is pulled by the sum). -/
def merged (l : List (Nat × Nat)) : List (Nat × Nat) := ((l.map (·.1)).dedup).map (fun q => (q, pullBytes l q))

/-- Pushes of a column-blocked output: scales, then 32 rows, which follow one another without padding (R107, R251). -/
def blockPushes (code n q sq : Nat) : List (Nat × Nat) := (sq, n) :: (List.range 32).map (fun i => (q, rowStart code n (i + 1) - rowStart code n i))

/-- Pushes of one drained row that pass no column-block buffer (R106, R209). -/
def drainRowPushes (d : DescB) (n : Nat) : List (Nat × Nat) :=
  (if d.dmode = 2 ∧ !sideBuffered d then [(d.sq, rowBytes d.stype n true)] else []) ++
  (if d.topk ≠ 0 then [(d.kq, 8 * d.topk)] else []) ++
  (if rowBuffered d then [] else (d.oq, packedLen d.otype n) :: (if isMx d.otype then [(d.osq, 1)] else []))

/-- The rounds of a DRAIN: its rows, then the pushes of its column-block buffers. -/
def drainRounds (o : Op) : List Round :=
  match o.desc with
  | none => []
  | some d =>
    let n := o.region.2
    (List.replicate o.region.1 ⟨if d.dmode = 1 then [(d.sq, rowBytes d.stype n true)] else [], drainRowPushes d n⟩) ++
    (if sideBuffered d then (blockPushes d.stype n d.sq d.sq).map (fun e => ⟨[], [e]⟩) else []) ++
    (if rowBuffered d then (blockPushes d.otype n d.oq d.osq).map (fun e => ⟨[], [e]⟩) else [])

/-- What one group of an RX pushes: elements and, for an MX type, scales (R214, R216, R218). -/
def rxPushes (b : RxB) (g : Nat) : List (Nat × Nat) :=
  let one := decide (b.rop = 0x10 ∨ b.rop = 0x11)
  let last := decide (g + 1 = groupsIn b)
  let n := if one then (if last then 1 else 0) else groupLanes b g
  if n = 0 then []
  else
    (if b.dst < 16 then [(b.dst, if b.rop = 0x15 then 8 * b.len else packedLen b.td n)] else []) ++
    (if isMx b.td then [(b.sc, ceilDiv n 32)] else [])

/-- Bytes a PRELOAD's rounds pop (R130, R202): a row at a time under FULL, else the whole vector. -/
def preloadPops (b : PreloadB) : List Round :=
  let w := widthOf b.pt / 8
  match b.pmode with
  | 1 => [⟨[(b.pq, (b.n + 1) * w)], []⟩]
  | 2 => [⟨[(b.pq, (b.m + 1) * w)], []⟩]
  | 3 => List.replicate (b.m + 1) ⟨[(b.pq, (b.n + 1) * w)], []⟩
  | _ => []

/-- The rounds of an issued instruction, in order. -/
def Op.rounds (o : Op) : List Round :=
  match o.ins with
  | .qload _ b => (unitsOf o.src).map (fun n => ⟨[], [(b.f1, n)]⟩)
  | .qstore _ b => (unitsOf o.dst).map (fun n => ⟨[(b.f0, n)], []⟩)
  | .gather _ b =>
    (List.range (b.nidx + 1)).map (fun _ => (⟨[(b.qi, 4)], (unitsOf [⟨some (o.col0 % 64), b.rbytes⟩]).map (fun n => (b.qd, n))⟩ : Round))
  | .ops _ b =>
    (match rankOf b.ta b.tb with
     | some r => (List.range b.steps).map (fun k => ⟨merged (stepPulls b r k), []⟩)
     | none => [])
  | .preload _ b => preloadPops b
  | .drain _ _ => drainRounds o
  | .rx _ b => (List.range (groupsIn b)).map (fun g => ⟨merged (rxPulls b g), rxPushes b g⟩)
  | .qmove _ qs qd n => (List.range (ceilDiv n 128)).map (fun i => let u := min 128 (n - 128 * i); ⟨[(qs, u)], [(qd, u)]⟩)
  | _ => []

/-- Bytes pushed to, or popped from, a queue in all. -/
def Op.total (o : Op) (push : Bool) (q : Nat) : Nat := sumOf (o.rounds.map (fun r => pullBytes (if push then r.pushes else r.pops) q))

/-- The queues an instruction pushes or pops. -/
def Op.queues (o : Op) (push : Bool) : List Nat := ((o.rounds.flatMap (fun r => if push then r.pushes else r.pops)).map (·.1)).dedup

end Sys2Proof.Machine
end

