-- ==== Sys2Proof/Machine/Order.lean ====
section
/-! DEFINITION. The happens-before relation of Pyist (04 R141, R160, R170, 06 R242, 07 R258, 08 R296): the events of a run, what each waits for, and the events that can occur. One event precedes another where the second cannot occur without it. -/

namespace Sys2Proof.Machine

/-- An event of a run: an instruction issues, makes round `r` of its queue traffic, makes push `i` of that round, has completed; the n-th step closes. -/
inductive Ev where
  | issue (c : Nat) (st : Strm) (n : Nat)
  | round (c : Nat) (st : Strm) (n r : Nat)
  | push (c : Nat) (st : Strm) (n r i : Nat)
  | done (c : Nat) (st : Strm) (n : Nat)
  | close (n : Nat)
  deriving DecidableEq, Repr

/-- A running total that events wait for: adds to a flag, bytes pushed to and popped from a queue. -/
inductive Total where
  | flag (c n : Nat)
  | pushed (c q : Nat)
  | popped (c q : Nat)
  deriving DecidableEq, Repr

/-- An event with the events it waits for, the totals it needs and what it adds; `never` marks one that waits for what the run does not contain. -/
structure Rule where
  ev : Ev
  pre : List Ev
  need : List (Total × Nat)
  adds : List (Total × Nat)
  never : Bool
  deriving DecidableEq, Repr

/-! ### What can occur -/

/-- A total after a set of events. -/
def totalOf (l : List Rule) (t : Total) : Nat := sumOf ((l.flatMap Rule.adds).map (fun e => if e.1 = t then e.2 else 0))

/-- An event has occurred. -/
def hasEv (l : List Rule) (e : Ev) : Bool := l.any (fun r => decide (r.ev = e))

/-- An event may occur after a set of events. -/
def Rule.ready (r : Rule) (l : List Rule) : Bool := !r.never && r.pre.all (hasEv l) && r.need.all (fun n => decide (n.2 ≤ totalOf l n.1))

/-- Let every event that may occur do so, once through the list. -/
def pass (all l : List Rule) : List Rule := all.foldl (fun l r => if hasEv l r.ev then l else if r.ready l then r :: l else l) l

/-- The events that can occur: `n` passes. -/
def reachable (all : List Rule) : Nat → List Rule
  | 0 => []
  | n + 1 => pass all (reachable all n)

/-- Everything can occur: the relation has no cycle. -/
def allOccur (all : List Rule) : Bool := (reachable all all.length).length == all.length

/-- Event `a` precedes event `b`: without `a`, `b` does not occur. DEDUCED (log 60). -/
def precedes (all : List Rule) (a b : Ev) : Bool :=
  let l := all.filter (fun r => decide (r.ev ≠ a))
  !hasEv (reachable l l.length) b

/-! ### The instructions of a run -/

/-- An instruction of a run: core, stream, order in its stream, its record, and its rounds. -/
structure Node where
  core : Nat
  st : Strm
  n : Nat
  inst : Inst
  op : Op
  rounds : List Round
  deriving DecidableEq, Repr

/-- An OPS with LINK = 1. -/
def linked (i : Inst) : Bool :=
  match i.ins with
  | .ops _ b => b.link
  | _ => false

/-- Start of the linked group of instruction `n` (R208). -/
def groupStart (t : List Inst) : Nat → Nat
  | 0 => 0
  | n + 1 => if (t[n]?).any linked then groupStart t n else n + 1

/-- Members of a group from its first. -/
def groupLen : List Inst → Nat
  | [] => 0
  | i :: r => if linked i then groupLen r + 1 else 1

/-- Order numbers of the members of instruction `n`'s linked group. -/
def groupOfInst (t : List Inst) (n : Nat) : List Nat :=
  let s := groupStart t n
  (List.range (groupLen (t.drop s))).map (· + s)

/-- A member's record by its order number. -/
def opAt (t : List Inst) (n : Nat) : Option Op := (t[n]?).map (fun i => { i.op with id := n })

/-- The members of a group that advance with instruction `n`, because they share queues (R81, R208). -/
def cluster (t : List Inst) (n : Nat) : List Op :=
  match opAt t n with
  | some o => together ((groupOfInst t n).filterMap (opAt t)) 8 [o]
  | none => []

/-- The pops of one step of a cluster: each queue once, by the most a member takes. -/
def clusterPops (l : List Op) (k : Nat) : List (Nat × Nat) :=
  let all := l.map (fun o => memberPulls { o with cnt := k })
  ((all.flatten.map (·.1)).dedup).map (fun q => (q, maxOf (all.map (fun m => pullBytes m q))))

/-- The member that pops for its cluster. -/
def leaderOf (t : List Inst) (n : Nat) : Nat := ((cluster t n).map Op.id).foldl min n

/-- The rounds of instruction `n`: of a cluster, the leader pops. -/
def nodeRounds (t : List Inst) (n : Nat) (o : Op) : List Round :=
  match o.ins with
  | .ops _ b => (List.range b.steps).map (fun k => ⟨if leaderOf t n = n then clusterPops (cluster t n) k else [], []⟩)
  | _ => o.rounds

/-- The nodes of one stream. -/
def nodesOf (core : Nat) (st : Strm) (t : List Inst) : List Node :=
  t.zipIdx.map (fun e => let o := { e.1.op with id := e.2 }; ⟨core, st, e.2, e.1, o, nodeRounds t e.2 o⟩)

/-- The nodes of a run. -/
def runNodes (rs : List CoreRun) : List Node := rs.flatMap (fun r => nodesOf r.core .a r.a ++ nodesOf r.core .x r.x)

/-- Events of a node. -/
def Node.issue (x : Node) : Ev := .issue x.core x.st x.n
def Node.done (x : Node) : Ev := .done x.core x.st x.n
def Node.roundEv (x : Node) (r : Nat) : Ev := .round x.core x.st x.n r
def Node.pushEvs (x : Node) (r : Nat) : List Ev := (List.range ((x.rounds[r]?).map (fun o => o.pushes.length) |>.getD 0)).map (fun i => .push x.core x.st x.n r i)

/-- Nodes of the same stream before a node, in order. -/
def Node.before (x : Node) (l : List Node) : List Node := l.filter (fun y => y.core == x.core && y.st == x.st && decide (y.n < x.n))

/-- A node of a core and stream by a property, the first after order number `n`. -/
def firstAfter (l : List Node) (c : Nat) (st : Strm) (n : Nat) (f : Node → Bool) : Option Node :=
  l.find? (fun y => y.core == c && y.st == st && decide (n < y.n) && f y)

/-! ### Slots (R156) -/

/-- A LOOP that latches value `k` of a slot. -/
def Node.latches (x : Node) (sl k : Nat) : Bool :=
  match x.inst.ins with
  | .loop _ => x.inst.slot == some (sl, k)
  | _ => false

/-- The event that writes value `k` of a slot: a CSET's issue, a CLOAD's completion. -/
def writeEv (l : List Node) (c sl k : Nat) : Option Ev :=
  (l.find? (fun y => y.core == c && y.st == .a && y.inst.slot == some (sl, k) && !y.latches sl k)).map (fun y =>
    match y.inst.ins with
    | .cset _ _ => y.issue
    | _ => y.done)

/-- The events that latch value `k` of a slot, one for each reading stream; none where a reader never does. -/
def latchEvs (p : Prog) (l : List Node) (c sl k : Nat) : Option (List Ev) :=
  match p.slot c sl with
  | none => some []
  | some d =>
    ((if d.readA then [Strm.a] else []) ++ (if d.readX then [Strm.x] else [])).mapM (fun st =>
      (l.find? (fun y => y.core == c && y.st == st && y.latches sl k)).map Node.issue)

/-- What a slot write waits for (R156): the latches of the value before it. -/
def writeWaits (p : Prog) (l : List Node) (x : Node) : Option (List Ev) :=
  match x.inst.slot with
  | some (sl, k + 1) => latchEvs p l x.core sl k
  | _ => some []

/-! ### Arrays and the row engine (R79, R83, R93, R218) -/

/-- Rows that a drain reads from its set: its rounds that are no column-block push. -/
def Node.reads (x : Node) : Nat :=
  match x.inst.ins with
  | .drain _ _ => x.op.region.1
  | _ => x.rounds.length

/-- The node has left its port (its last round, or its last row read). -/
def Node.leaves (x : Node) : List Ev := if x.reads = 0 then [x.done] else [x.roundEv (x.reads - 1)]

/-- The node no longer holds its set. -/
def Node.freesSet (x : Node) : List Ev :=
  match x.inst.ins with
  | .drain _ _ => if x.reads = 0 then [x.done] else x.roundEv (x.reads - 1) :: x.pushEvs (x.reads - 1)
  | _ => [x.done]

/-- An AMODE of an array. -/
def Node.isAmode (x : Node) (arr : Nat) : Bool :=
  match x.inst.ins with
  | .amode _ b => b.arr == arr
  | _ => false

/-- What an array or row-engine operation waits for before its first round: earlier operations on its set, the one before it on its port, AMODE, the row operation before it. -/
def startWaits (l : List Node) (x : Node) : List Ev :=
  let bs := x.before l
  match x.inst.ins with
  | .amode _ b => (bs.filter (fun y => y.isAmode b.arr || (portOf y.inst.ins).any (fun e => e.1 == b.arr))).map Node.done
  | i =>
    if isRow i then
      (match (bs.filter (fun y => isRow y.inst.ins)).reverse with
       | y :: r => y.leaves ++ (r.head?.map Node.done).toList
       | [] => [])
    else
      match portOf i with
      | none => []
      | some (a, q, pt) =>
        (bs.filter (fun y => (setOf y.inst.ins).isSome && setOf y.inst.ins == setOf i)).flatMap Node.freesSet ++
        (bs.filter (fun y => portOf y.inst.ins == some (a, q, pt))).flatMap Node.leaves ++
        (bs.filter (fun y => y.isAmode a)).map Node.done

/-- What a row-engine operation waits for after its first group: the completion of the one before it (R218, R258). DEDUCED (log 74). -/
def rowWaits (l : List Node) (x : Node) : List Ev :=
  if isRow x.inst.ins then (((x.before l).filter (fun y => isRow y.inst.ins)).getLast?.map Node.done).toList else []

/-- Members of a node's linked group. -/
def members (l : List Node) (x : Node) : List Node :=
  let t := (l.filter (fun y => y.core == x.core && y.st == x.st)).map Node.inst
  match x.inst.ins with
  | .ops _ _ => l.filter (fun y => y.core == x.core && y.st == x.st && (groupOfInst t x.n).contains y.n)
  | _ => [x]

/-- The members that advance with a node. -/
def partners (l : List Node) (x : Node) : List Node :=
  let t := (l.filter (fun y => y.core == x.core && y.st == x.st)).map Node.inst
  match x.inst.ins with
  | .ops _ _ => (members l x).filter (fun y => ((cluster t x.n).map Op.id).contains y.n)
  | _ => [x]

/-! ### Claims (R137 to R139, R141) -/

/-- The claims of a node. -/
def Node.claims (x : Node) : List Claim := claimsOf x.inst.ctx x.inst.ins

/-- Two nodes have conflicting claims on one region. -/
def Node.conflicts (x y : Node) : Bool := x.claims.any (fun a => y.claims.any (fun b => a.conflicts b))

/-- Two nodes access one region, at least one of them with WRITE (R141). -/
def Node.mustOrder (x y : Node) : Bool :=
  x.claims.any (fun a => y.claims.any (fun b => a.region == b.region && (a.mode == .write || b.mode == .write)))

/-- The last access of a node to its regions: a QLOAD's reads follow its issue alone; an OPS, GATHER or QSTORE makes its last with its last round; a potluck store and a PFETCH with their completion. DEDUCED (log 60). -/
def Node.lastAccess (x : Node) : Ev :=
  match x.inst.ins with
  | .qload _ _ => x.issue
  | .qstore _ b => if b.pot ∨ x.rounds.isEmpty then x.done else x.roundEv (x.rounds.length - 1)
  | .gather _ _ => x.roundEv (x.rounds.length - 1)
  | .ops _ _ => if x.rounds.isEmpty then x.done else x.roundEv (x.rounds.length - 1)
  | _ => x.done

/-! ### Potluck completions (R292, R296) -/

/-- The 4-byte words that a node adds into. -/
def Node.potWords (x : Node) : List Nat :=
  if isPot x.inst.ins then x.op.dst.flatMap (fun g => (List.range (g.len / 4)).map (fun i => g.addr.getD 0 + 4 * i)) else []

/-- The logical cores whose potluck transfers can reach an extent (R292), in ascending order. -/
def potMembers (ns : List Node) (e : Extent) : List Nat :=
  ((ns.filter (fun x => x.potWords.any (fun a => decide (e.base ≤ a ∧ a < e.base + e.len)))).map Node.core).foldr insertNat []

/-- Contributions of a core to a word, in issue order: a transfer whose rows overlap contributes more than once. -/
def contribsTo (l : List Node) (c a : Nat) : List Node := (l.filter (fun y => y.core == c && y.st == .a)).flatMap (fun y => List.replicate (y.potWords.count a) y)

/-- When a node has contributed. -/
def Node.contributed (x : Node) : Ev :=
  match x.inst.ins with
  | .qstore _ _ => x.roundEv (x.rounds.length - 1)
  | _ => x.issue

/-- The edges of R296 into a potluck transfer's completion: of each word, every member's contribution to the rounds that it contributes to. A round that some member never completes stays open at run time (R297). -/
def potWaits (sets : List (Extent × List Nat)) (l : List Node) (x : Node) : List Ev :=
  x.potWords.dedup.flatMap (fun a =>
    let k := (contribsTo (x.before l) x.core a).length
    let ms := ((sets.find? (fun e => decide (e.1.base ≤ a ∧ a < e.1.base + e.1.len))).map (·.2)).getD []
    ms.flatMap (fun m => (((contribsTo l m a).drop k).take (x.potWords.count a)).map Node.contributed))

/-! ### The rules of a run (R170) -/

/-- Bytes that a stream's earlier nodes, and a node's earlier rounds, move on a queue. -/
def movedBefore (l : List Node) (x : Node) (r : Nat) (push : Bool) (q : Nat) : Nat :=
  let f := fun (o : Round) => pullBytes (if push then o.pushes else o.pops) q
  sumOf ((x.before l).map (fun y => sumOf (y.rounds.map f))) + sumOf ((x.rounds.take r).map f)

/-- The event that a stream's next instruction waits for. -/
def prevEv (l : List Node) (x : Node) : List Ev :=
  match (x.before l).getLast? with
  | none => []
  | some y =>
    match y.inst.ins with
    | .boundary => [.close ((x.before l).filter (fun z => z.inst.ins == .boundary)).length.pred]
    | _ => [y.issue]

/-- Adds awaited on a flag by a stream up to a node. -/
def awaited (l : List Node) (x : Node) (flag : Nat) : Nat :=
  sumOf ((x.before l).map (fun y => match y.inst.ins with | .fwait f k => if f = flag then k else 0 | _ => 0))

/-- Room of a queue in bytes. -/
def Prog.room (p : Prog) (c q : Nat) : Nat := 128 * ((p.queue c q).map QDecl.depth |>.getD 0)

/-- What the queues of a transfer ask of its issue (R125, R130): its first pop's bytes are there, and its first push has room beyond the bytes owed before it. DEDUCED (log 12). -/
def issueNeeds (p : Prog) (l : List Node) (x : Node) : List (Total × Nat) :=
  let pop := fun (q n : Nat) => let b := movedBefore l x 0 false q; [(Total.pushed x.core q, b + n), (Total.popped x.core q, b)]
  let push := fun (q n : Nat) => [(Total.popped x.core q, movedBefore l x 0 true q + n - p.room x.core q)]
  let first := fun (f : Round → List (Nat × Nat)) => ((x.rounds.head?.bind (fun r => (f r).head?)).map (·.2)).getD 0
  match x.inst.ins with
  | .qload _ b => push b.f1 (first Round.pushes)
  | .qstore _ b => pop b.f0 (first Round.pops)
  | .gather _ b => pop b.qi 4 ++ push b.qd (min 64 b.rbytes)
  | _ => []

/-- The issue of a node; `late` are the events that the order of cross-stream claims adds. DEDUCED (log 60). -/
def issueRule (p : Prog) (l : List Node) (late : List (Ev × Ev)) (x : Node) : Rule :=
  let own := ((x.before l).filter (fun y => y.conflicts x)).map Node.lastAccess
  let more := (late.filter (fun e => decide (e.2 = x.issue))).map (·.1)
  let base := prevEv l x ++ own ++ more
  match x.inst.ins with
  | .fwait f k => ⟨x.issue, base, [(.flag x.core f, awaited l x f + k)], [], false⟩
  | .fadd f k => ⟨x.issue, base, [], [(.flag x.core f, k)], false⟩
  | .loop b =>
    (match x.inst.slot with
     | some (sl, k) => let e := writeEv l x.core sl k; ⟨x.issue, base ++ e.toList, [], [], e.isNone && b.csrc⟩
     | none => ⟨x.issue, base, [], [], false⟩)
  | .cset _ _ => let e := writeWaits p l x; ⟨x.issue, base ++ e.getD [], [], [], e.isNone⟩
  | _ => ⟨x.issue, base, issueNeeds p l x, [], false⟩

/-- A round of a node. DEDUCED (log 60). -/
def roundRule (l : List Node) (x : Node) (r : Nat) : Rule :=
  let o := (x.rounds[r]?).getD ⟨[], []⟩
  let holds := match x.inst.ins with
    | .gather _ _ => false
    | .qload _ _ => false
    | _ => true
  let before := if r = 0 then (partners l x).flatMap (startWaits l) ++ (members l x).map Node.issue else x.roundEv (r - 1) :: (rowWaits l x ++ if holds then x.pushEvs (r - 1) else [])
  let lead := ((partners l x).map Node.n).foldl min x.n
  let follow := if lead = x.n then [] else [Ev.round x.core x.st lead r]
  ⟨x.roundEv r, x.issue :: before ++ follow,
   o.pops.flatMap (fun e =>
     let b := movedBefore l x r false e.1
     [(Total.pushed x.core e.1, b + e.2), (Total.popped x.core e.1, b)]),
   o.pops.map (fun e => (Total.popped x.core e.1, e.2)), false⟩

/-- A push of a round. DEDUCED (log 60). -/
def pushRule (p : Prog) (l : List Node) (x : Node) (r i : Nat) : Rule :=
  let o := (x.rounds[r]?).getD ⟨[], []⟩
  let e := (o.pushes[i]?).getD (0, 0)
  let b := movedBefore l x r true e.1 + pullBytes (o.pushes.take i) e.1
  let room := p.room x.core e.1
  ⟨.push x.core x.st x.n r i, x.roundEv r :: rowWaits l x, [(.popped x.core e.1, b + e.2 - room), (.pushed x.core e.1, b)], [(.pushed x.core e.1, e.2)], false⟩

/-- A write that a FADDR waits for (R146). -/
def isStore (i : Ovt) : Bool :=
  match i with
  | .move _ _ => true
  | .qstore _ _ => true
  | .pfetch _ _ => true
  | .racc _ _ => true
  | .rwait _ _ _ _ => true
  | _ => false

/-- The completion of a node, with its completion add (R147). DEDUCED (log 60). -/
def doneRule (p : Prog) (sets : List (Extent × List Nat)) (l : List Node) (x : Node) : Rule :=
  let cf := ovtCf x.inst.ins
  let flag := if cf.cfe then [(Total.flag x.core cf.cfn, 1)] else []
  let work := x.issue :: startWaits l x ++ rowWaits l x ++ (List.range x.rounds.length).flatMap (fun r => x.roundEv r :: x.pushEvs r)
  match x.inst.ins with
  | .cload _ _ _ => let e := writeWaits p l x; ⟨x.done, work ++ e.getD [], [], flag, e.isNone⟩
  | .faddr _ t f k => ⟨x.done, work ++ ((x.before l).filter (fun y => isStore y.inst.ins)).map Node.done, [], (.flag t f, k) :: flag, false⟩
  | .pfetch _ b =>
    let g := firstAfter l x.core .a x.n (fun y => match y.inst.ins with | .loop _ => (y.inst.slot.map (·.1)) == some b.gslot | _ => false)
    ⟨x.done, work ++ (g.map Node.issue).toList, [], flag, g.isNone⟩
  | _ => ⟨x.done, work ++ potWaits sets l x, [], flag, false⟩

/-- Every rule of a node. -/
def nodeRules (p : Prog) (sets : List (Extent × List Nat)) (l : List Node) (late : List (Ev × Ev)) (x : Node) : List Rule :=
  issueRule p l late x :: doneRule p sets l x ::
    (List.range x.rounds.length).flatMap (fun r => roundRule l x r :: (List.range (x.pushEvs r).length).map (fun i => pushRule p l x r i))

/-- The n-th BOUNDARY of a stream. -/
def boundaryAt (l : List Node) (c : Nat) (st : Strm) (n : Nat) : Option Node :=
  (l.filter (fun y => y.core == c && y.st == st && y.inst.ins == .boundary))[n]?

/-- The n-th step close (R160): every stream's n-th BOUNDARY, and everything issued before it complete; a stream without one leaves it unreachable. DEDUCED (log 60). -/
def closeRule (p : Prog) (l : List Node) (n : Nat) : Rule :=
  let bs := (p.cores.flatMap (fun c => [(c, Strm.a), (c, Strm.x)])).map (fun e => boundaryAt l e.1 e.2 n)
  ⟨.close n, bs.flatMap (fun b => match b with | some y => y.issue :: (y.before l).map Node.done | none => []), [], [], bs.any Option.isNone⟩

/-- Step closes that some stream waits for. -/
def closes (p : Prog) (l : List Node) : Nat :=
  maxOf (p.cores.flatMap (fun c => [Strm.a, .x].map (fun st => (l.filter (fun y => y.core == c && y.st == st && y.inst.ins == .boundary)).length)))

/-- The rules of a run. -/
def runRules (p : Prog) (sets : List (Extent × List Nat)) (l : List Node) (late : List (Ev × Ev)) : List Rule :=
  l.flatMap (nodeRules p sets l late) ++ (List.range (closes p l)).map (closeRule p l)

/-! ### The check (R141, R170) -/

/-- Pairs of one core's streams that R141 orders. DEDUCED (log 60). -/
def streamPairs (l : List Node) : List (Node × Node) :=
  (l.filter (fun x => x.st == .a)).flatMap (fun x => (l.filter (fun y => y.core == x.core && y.st == .x && x.mustOrder y)).map (fun y => (x, y)))

/-- Addresses of a node's claims, with their modes. -/
def Node.areas (x : Node) : List (Nat × Nat × CMode) := x.claims.filterMap (fun c => (x.inst.ctx.region c.region).map (fun r => (r.1, r.2, c.mode)))

/-- Pairs of different cores that R141 orders: overlapping regions, not all ACC or READ. DEDUCED (log 60). -/
def corePairs (l : List Node) : List (Node × Node) :=
  l.flatMap (fun x => (l.filter (fun y => decide (x.core < y.core) &&
    x.areas.any (fun a => y.areas.any (fun b => overlaps a.1 a.2.1 b.1 b.2.1 && (a.2.2 == .write || b.2.2 == .write))))).map (fun y => (x, y)))

/-- The edges of cross-stream claims, in the order that the relation gives them. DEDUCED (log 60). -/
def claimEdges (all : List Rule) (l : List Node) : List (Ev × Ev) :=
  (streamPairs l).filterMap (fun e =>
    if precedes all e.1.issue e.2.issue then some (e.1.lastAccess, e.2.issue)
    else if precedes all e.2.issue e.1.issue then some (e.2.lastAccess, e.1.issue)
    else none)

/-- Check 8 of one run: a cycle is HB_CYCLE, unordered accesses HB_UNORDERED. DEDUCED (log 60). -/
def checkOrder (p : Prog) (sets : List (Extent × List Nat)) (rs : List CoreRun) : Check Unit :=
  let l := runNodes rs
  let base := runRules p sets l []
  (need (allOccur base) 0x0801).andThen fun _ =>
  (checkAll (fun (e : Node × Node) => (need (precedes base e.1.issue e.2.issue || precedes base e.2.issue e.1.issue) 0x0802).at e.1.core e.1.st e.1.inst.pc) (streamPairs l)).andThen fun _ =>
  let full := runRules p sets l (claimEdges base l)
  (need (allOccur full) 0x0801).andThen fun _ =>
  checkAll (fun (e : Node × Node) => (need (precedes full e.1.done e.2.issue || precedes full e.2.done e.1.issue) 0x0802).at e.1.core e.1.st e.1.inst.pc) (corePairs l)

/-- The potluck set of every ACC extent (R292). -/
def Prog.potSets (p : Prog) : List (Extent × List Nat) :=
  let ns := p.allRuns.flatMap (fun r => nodesOf r.core .a r.a)
  (p.extents.filter (fun e => e.mode == 3)).map (fun e => (e, potMembers ns e))

/-! ### The latest spread loads (R564) -/

/-- An SLOAD into a bank, by its region. DEDUCED (log 56). -/
def loadsBank (i : Ovt) (bank : Nat) : Bool :=
  match i with
  | .sload _ b => bankRegion b.pair b.bank == bank
  | _ => false

/-- The latest SLOAD into a bank before a read of it on a path: the last one that need not follow the read (R141 orders each of them against it). DEDUCED (log 56). -/
def latestLoad (all : List Rule) (l : List Node) (x : Node) (bank : Nat) : Option Ovt :=
  ((l.filter (fun y => y.core == x.core && y.st == .a && loadsBank y.inst.ins bank && !precedes all x.issue y.issue)).getLast?).map (fun y => y.inst.ins)

/-- For each OPS of a run that reads a spread port: core, table index, the OPS, and the latest SLOAD. DEDUCED (log 56). -/
def spreadReads (p : Prog) (sets : List (Extent × List Nat)) (rs : List CoreRun) : List (Nat × Nat × OpsB × Option Ovt) :=
  let l := runNodes rs
  let all := runRules p sets l []
  l.filterMap (fun x =>
    match x.inst.ins with
    | .ops _ b =>
      if b.steps ≠ 0 ∧ (b.wsrc = 16 ∨ b.nsrc = 16) then some (x.core, x.inst.pc, b, latestLoad all l x (bankRegion (b.arr / 2) b.sbank)) else none
    | _ => none)

end Sys2Proof.Machine
end

