-- ==== Sys2Proof/Machine/Pyist.lean ====
section
/-! DEFINITION. Pyist's checks 3 to 7 and its verdict on an image (04 R169, 05 R221). -/

namespace Sys2Proof.Machine

/-! ### Check 3: encodings -/

/-- An opcode may stand in a stream (R176). -/
def opcodeIn (opc : Nat) (st : Strm) : Bool :=
  match st with
  | .a => decide (opc ∈ [0, 1, 2, 3, 4, 5, 8, 9, 0xA, 0x10, 0x11, 0x12, 0x13, 0x20, 0x22, 0x23, 0x24, 0x25, 0x26, 0x28, 0x29, 0x2A])
  | .x => decide (opc ∈ [0, 1, 2, 3, 4, 5, 8, 0xA, 0x40, 0x41, 0x42, 0x43, 0x44, 0x48, 0x49, 0x4A])

/-- An opcode has a completion (R175, R176). -/
def completes (opc : Nat) : Bool := decide (opc ∈ [9, 0x13, 0x20, 0x22, 0x23, 0x24, 0x25, 0x26, 0x28, 0x29, 0x2A, 0x40, 0x41, 0x42, 0x44, 0x48, 0x4A])

/-- A reserved type code (R17). -/
def reservedType (t : Nat) : Bool := decide (9 ≤ t)

/-- A queue that a drain uses is declared with the X-stream at its end (R212). -/
def Prog.drainQueue (p : Prog) (c q : Nat) (pop : Bool) : Bool := (p.queue c q).any (fun d => (if pop then d.cons else d.prod) == .x)

/-- The queues that a descriptor's mode uses: pushes and pops. -/
def descQueuesOk (p : Prog) (c : Nat) (d : DescB) : Bool :=
  (descPushes d).all (fun q => p.drainQueue c q false) && (d.dmode != 1 || p.drainQueue c d.sq true)

/-- A DDESC (R212). -/
def checkDesc (p : Prog) (c : Nat) (d : DescB) : Check Unit :=
  (need (!(reservedType d.otype || reservedType d.stype)) 0x0304).andThen fun _ =>
  (need (d.rmode != 3 && d.srmode != 3) 0x0306).andThen fun _ =>
  (need (decide (d.act ≤ 7 ∧ d.dmode ≠ 3 ∧ d.topk ≤ 16 ∧ d.otype ≠ 8 ∧ d.stype ≠ 8) && (d.dmode != 1 || decide (d.stype ≤ 4)) &&
    (d.topk == 0 || decide (d.ld ≤ 65536)) && descQueuesOk p c d) 0x0307).andThen fun _ =>
  need (wfDesc d) 0x0303

/-- A potluck transfer moves whole words (R189). -/
def potOk (b : XferB) : Bool := !b.pot || b.rbytes % 4 == 0

/-- The value rules of one instruction (R174 to R219), in the order of the reasons' codes where several could hold. DEDUCED (log 59). -/
def checkBody (p : Prog) (c : Nat) (i : Ovt) : Check Unit :=
  match i with
  | .agbase _ r _ => need (wfBody i && (p.region c r).isSome) 0x0303
  | .cset sl v => need ((p.slot c sl).all (fun d => decide (v ≤ d.max))) 0x0303
  | .move _ b => need (wfBody i && potOk b) 0x0303
  | .qstore _ b => need (wfBody i && potOk b) 0x0303
  | .sload _ b =>
    (need (!reservedType b.type) 0x0304).andThen fun _ => need (decide (b.type ≤ 7) && (isMx b.type || (b.kag == 0 && b.bax == 0))) 0x0303
  | .racc _ b =>
    (need (!reservedType b.srct) 0x0304).andThen fun _ => (need (b.rmode == 0 || b.rmode == 2) 0x0306).andThen fun _ => need (wfBody i) 0x0303
  | .ops _ b =>
    (need (decide (b.ta ≤ 7 ∧ b.tb ≤ 7)) 0x0304).andThen fun _ => (need (rankOf b.ta b.tb).isSome 0x0305).andThen fun _ => need (wfBody i) 0x0303
  | .amode _ b =>
    (need (!b.qm || decide (b.ta ≤ 7 ∧ b.tb ≤ 7)) 0x0304).andThen fun _ => (need (!b.qm || (rankOf b.ta b.tb).isSome) 0x0305).andThen fun _ => need (wfBody i) 0x0303
  | .preload _ b => (need (!reservedType b.pt) 0x0304).andThen fun _ => need (wfBody i) 0x0303
  | .ddesc _ d => checkDesc p c d
  | .rx _ b =>
    (need (!(reservedType b.ts || reservedType b.td)) 0x0304).andThen fun _ => (need (b.rmode != 3) 0x0306).andThen fun _ => need (wfBody i) 0x0303
  | i => need (wfBody i) 0x0303

/-- The fields of a transfer body that the instruction does not use are zero: they are reserved (R187). DEDUCED (log 59). -/
def unusedZero (i : Ovt) : Bool :=
  match i with
  | .move _ b => b.gslot == 0
  | .qload _ b => b.dstr == 0 && !b.pot && b.gslot == 0
  | .qstore _ b => b.sstr == 0 && b.gslot == 0
  | .pfetch _ b => !b.pot
  | _ => true

/-- An instruction word on its own (R174 to R176). DEDUCED (log 59). -/
def checkWord (p : Prog) (c : Nat) (st : Strm) (w : Nat) : Check Unit :=
  let opc := bits w 127 120
  (need (opcodeIn opc st) 0x0301).andThen fun _ =>
  match ovtOfWord w with
  | none => reject 0x0302
  | some i =>
    (need (unusedZero i) 0x0302).andThen fun _ =>
    (need (bits w 119 119 == 0 || completes opc) 0x030A).andThen fun _ =>
    (need (bits w 119 119 == 1 || bits w 118 113 == 0) 0x0303).andThen fun _ => checkBody p c i

/-- An instruction on one path that reaches it: R92, R96, R108, R189, R202 to R204, R210, R253. DEDUCED (log 59). -/
def checkPath (i : Inst) : Check Unit :=
  match i.ins with
  | .move _ b => need ((i.ctx.ag b.f0).region.isNone || (i.ctx.ag b.f0).region != (i.ctx.ag b.f1).region) 0x0303
  | .preload _ b =>
    let a := i.ctx.arr b.arr
    need (if a.qm then decide (b.m ≤ 15 ∧ b.n ≤ 15) else b.quad == 0) 0x0303
  | .ops _ b =>
    let a := i.ctx.arr b.arr
    need (if a.qm then decide (b.m ≤ 15 ∧ b.n ≤ 15) && b.ta == a.ta && b.tb == a.tb else b.quad == 0) 0x0303
  | .drain _ b =>
    let a := i.ctx.arr b.arr
    (need (a.qm || b.quad == 0) 0x0303).andThen fun _ =>
    (match Tab.find i.ctx.dds b.dd with
     | none => reject 0x0307
     | some d => need ((Tab.find a.named (setKey b.quad b.set)).isSome && !(a.qm && (isMx d.otype || (d.dmode == 1 && isMx d.stype)))) 0x0307)
  | _ => .ok ()

/-- An OPS against the tile of the latest SLOAD (R114, R564): type, then axis. DEDUCED (log 56). -/
def checkTile (b : OpsB) (ld : Option Ovt) : Check Unit :=
  match ld with
  | some (.sload _ t) =>
    (need ((b.wsrc != 16 || t.type == b.ta) && (b.nsrc != 16 || t.type == b.tb)) 0x0303).andThen fun _ =>
    need (!isMx t.type || ((b.wsrc != 16 || t.bax == 0) && (b.nsrc != 16 || t.bax == 1))) 0x0308
  | _ => .ok ()

/-- What an OPS names on an edge: queue, whether for scales, type and lanes. -/
def edgeOf (b : OpsB) (west : Bool) : List (Nat × Bool × Nat × Nat) :=
  let src := if west then b.wsrc else b.nsrc
  let t := if west then b.ta else b.tb
  let n := if west then b.m else b.n
  if src < 16 then (src, false, t, n) :: (if isMx t then [(if west then b.wsq else b.nsq, true, t, n)] else []) else []

/-- Two members of a linked group agree (R208). -/
def membersOk (a b : OpsB) : Bool :=
  a.arr != b.arr && a.steps == b.steps && rankOf a.ta a.tb == rankOf b.ta b.tb &&
  [true, false].all (fun w => (edgeOf a w).all (fun x => (edgeOf b w).all (fun y => x.1 != y.1 || x == y) && (edgeOf b !w).all (fun y => x.1 != y.1))) &&
  (a.arr / 2 != b.arr / 2 || !((a.wsrc == 16 && b.wsrc == 16) || (a.nsrc == 16 && b.nsrc == 16)))

/-- Every pair of a list agrees. -/
def pairsOk {α : Type} (f : α → α → Bool) : List α → Bool
  | [] => true
  | a :: r => r.all (f a) && pairsOk f r

/-- The OPS bodies of the group that starts a table; none where something else breaks it. -/
def groupBodies : List Word128 → Option (List OpsB)
  | [] => none
  | w :: r =>
    match ovtOfWord w.toNat with
    | some (.ops _ b) => if b.link then (groupBodies r).map (fun l => b :: l) else some [b]
    | _ => none

/-- The linked group whose first member stands at `i` (R208): LINK_GROUP where it breaks a rule. DEDUCED (log 59). -/
def checkGroup (t : List Word128) (i : Nat) : Check Unit :=
  let isLink := fun (j : Nat) => match (t[j]?).bind (fun w => ovtOfWord w.toNat) with
    | some (.ops _ b) => b.link
    | _ => false
  if isLink i && !(decide (0 < i) && isLink (i - 1)) then
    match groupBodies (t.drop i) with
    | some l => need (pairsOk membersOk l) 0x030B
    | none => reject 0x030B
  else .ok ()

/-- Runs of one core's stream. -/
def streamRuns (rs : List CoreRun) (c : Nat) (st : Strm) : List (List Inst × Stop) :=
  (rs.filter (fun r => r.core == c)).map (fun r => match st with | .a => (r.a, r.aStop) | .x => (r.x, r.xStop))

/-- Check 3 of one table: its size, each instruction in table order, then END on every path. DEDUCED (log 59). -/
def checkTable (p : Prog) (rs : List CoreRun) (reads : List (Nat × Nat × OpsB × Option Ovt)) (e : Nat × Strm × List Word128) : Check Unit :=
  let c := e.1
  let st := e.2.1
  let t := e.2.2
  let runs := streamRuns rs c st
  ((need (decide (t.length ≤ 4096) && t != []) 0x0309).andThen fun _ =>
  (checkAll (fun (x : Word128 × Nat) =>
    ((checkWord p c st x.1.toNat).andThen fun _ =>
    (checkAll checkPath ((runs.flatMap (·.1)).filter (fun i => i.pc == x.2))).andThen fun _ =>
    (if st = .x then checkAll (fun (r : Nat × Nat × OpsB × Option Ovt) => if r.1 = c ∧ r.2.1 = x.2 then checkTile r.2.2.1 r.2.2.2 else .ok ()) reads else .ok ()).andThen fun _ =>
    checkGroup t x.2).at c st x.2) t.zipIdx).andThen fun _ =>
  need (runs.all (fun r => r.2 != .ranOff)) 0x0309).at c st none

/-! ### Check 4: regions and extents -/

/-- Bytes lie in the scratchpad or in stacked memory below `hi` (R163, R333). -/
def inShared (hi base len : Nat) : Bool := decide (base + len ≤ hamperDpa) || decide (stackDpa ≤ base ∧ base + len ≤ hi)

/-- Bytes lie in a core's own hamper window (R9). -/
def inOwnHamper (c base len : Nat) : Bool := decide (hamperDpa + c * hamperSize ≤ base ∧ base + len ≤ hamperDpa + (c + 1) * hamperSize)

/-- Staging region, tally areas and companion regions: base and length (R366). -/
def Prog.redAreas (p : Prog) : List (Nat × Nat) :=
  (if p.descs.isEmpty then [] else [(p.stageBase, p.stageLen)]) ++ p.descs.map (fun d => (d.tally, 4 * d.elems)) ++
    p.descs.filterMap (fun d => d.comp.map (fun b => (b, ceilDiv (4 * d.elems) 64 * 64)))

/-- Two areas do not overlap. -/
def apart (a b : Nat × Nat) : Bool := !overlaps a.1 a.2 b.1 b.2

/-- An extent's mode allows a claim (R163). -/
def allows (mode : Nat) (m : CMode) : Bool :=
  match m with
  | .read => true
  | .write => decide (2 ≤ mode)
  | .acc => mode == 3

/-- A range lies inside one extent that allows every one of some accesses. -/
def Prog.covered (p : Prog) (base len : Nat) (ms : List CMode) : Bool :=
  p.extents.any (fun e => decide (e.base ≤ base ∧ base + len ≤ e.base + e.len) && ms.all (allows e.mode))

/-- An access of an instruction by a generator: its rows, mode, and whether its addresses are multiples of 4. -/
structure Access where
  ag : Nat
  stride : Int
  len : Nat
  rows : Nat
  words : Bool
  mode : CMode
  deriving DecidableEq, Repr

/-- The accesses of an instruction (R183, R187, R194, R195, R197); of a GATHER the table base alone (R136). -/
def accesses (i : Ovt) : List Access :=
  let src := fun (b : XferB) => (⟨b.f0, signed 20 b.sstr * 64, b.rbytes, b.rows + 1, b.pot, .read⟩ : Access)
  let dst := fun (b : XferB) => (⟨b.f1, signed 20 b.dstr * 64, b.rbytes, b.rows + 1, b.pot, dstMode b.pot⟩ : Access)
  match i with
  | .cload _ ag _ => [⟨ag, 0, 4, 1, true, .read⟩]
  | .move _ b => [src b, dst b]
  | .qload _ b => [src b]
  | .qstore _ b => [dst b]
  | .pfetch _ b => [src b, dst b]
  | .sload _ b =>
    ⟨b.sag, signed 20 b.sstr * 8, tileRow b, 32 * (b.tr + 1), false, .read⟩ ::
      (if isMx b.type then
        [if b.bax = 0 then ⟨b.kag, signed 20 b.kstr, b.tc + 1, 32 * (b.tr + 1), false, .read⟩ else ⟨b.kag, signed 20 b.kstr, 32 * (b.tc + 1), b.tr + 1, false, .read⟩]
       else [])
  | .gather _ b => [⟨b.sag, 0, 1, 1, false, .read⟩]
  | .racc _ b => [⟨b.sag, 0, b.elems * (widthOf b.srct / 8), 1, false, .read⟩]
  | .rwait _ _ dag _ => [⟨dag, 0, 64, 1, false, .write⟩]
  | _ => []

/-- Offset of a generator from its region's base as an instruction uses it (R185). -/
def genOffset (c : Core) (ag : Nat) : Int :=
  (List.range 6).foldl (fun (o : Int) d => o + (c.a.idx (d + 1) : Int) * signed 32 ((c.ag ag).strides.getD d 0)) ((c.ag ag).offset : Int)

/-- An access stays inside its region, word-aligned where it must be, and a potluck destination outside the hampers (R136, R183, R189). -/
def accessOk (p : Prog) (i : Inst) (a : Access) : Bool :=
  match (i.ctx.ag a.ag).region.bind (p.region i.core) with
  | none => false
  | some r =>
    (List.range a.rows).all (fun k =>
      let o := genOffset i.ctx a.ag + (k : Int) * a.stride
      decide (0 ≤ o ∧ o + (a.len : Int) ≤ (r.2 : Int)) && (!a.words || (o + (r.1 : Int)) % 4 == 0)) &&
    (a.mode != .acc || !inHamper r.1)

/-- An MX queue operand covers whole blocks (R205). -/
def wholeBlocks (b : OpsB) : Bool :=
  match rankOf b.ta b.tb with
  | some r => !((decide (b.wsrc < 16) && isMx b.ta) || (decide (b.nsrc < 16) && isMx b.tb)) || r * b.steps % 32 == 0
  | none => true

/-- A spread tile fits its bank (R112). -/
def tileFits (b : SloadB) : Bool := wfSload b

/-- A spread read lies inside the tile of the latest SLOAD (R564): K positions along the port's direction, the group across it. DEDUCED (log 56). -/
def tileRange (b : OpsB) (ld : Option Ovt) : Check Unit :=
  match ld with
  | some (.sload _ t) =>
    let r := (rankOf b.ta b.tb).getD 1
    let kEnd := b.sk + r * (b.steps - 1) + (if b.ktail = 0 then r else b.ktail)
    let rows := 32 * (t.tr + 1)
    let cols := 32 * (t.tc + 1)
    let fit := fun (k g : Nat) => decide (kEnd ≤ k ∧ 32 * b.soff + 32 ≤ g)
    need ((b.wsrc != 16 || fit cols rows) && (b.nsrc != 16 || fit rows cols)) 0x0405
  | _ => reject 0x0408

/-- Check 4 of one instruction on one path. -/
def checkAccess (p : Prog) (i : Inst) : Check Unit :=
  let as := accesses i.ins
  (need (as.all (fun a => (i.ctx.ag a.ag).region.isSome)) 0x0407).andThen fun _ =>
  (need (decide (((claimsOf i.ctx i.ins).map Claim.region).dedup.length ≤ 3)) 0x0406).andThen fun _ =>
  match i.ins with
  | .sload _ b => (need (tileFits b) 0x0408).andThen fun _ => need (as.all (accessOk p i)) 0x0405
  | .rx _ b => need (b.rmode != 1 || i.ctx.rebase.isSome) 0x0407
  | .ops _ b => need (b.steps == 0 || wholeBlocks b) 0x0405
  | _ => need (as.all (accessOk p i)) 0x0405

/-- Modes of the claims on a region of a core. -/
def claimModes (is : List Inst) (d : RDecl) : List CMode :=
  ((is.filter (fun i => i.core == d.core)).flatMap (fun i => (claimsOf i.ctx i.ins).filter (fun c => c.region == d.region))).map Claim.mode

/-- Check 4 (R169), with the end of mapped stacked memory (R333, R334). DEDUCED (log 59). -/
def checkRegions (p : Prog) (hi : Nat) (rs : List CoreRun) (reads : List (Nat × Nat × OpsB × Option Ovt)) : Check Unit :=
  let is := rs.flatMap (fun r => r.a ++ r.x)
  (need (p.regions.all (fun d => inShared hi d.base d.len || inOwnHamper d.core d.base d.len) && p.extents.all (fun e => inShared hi e.base e.len)) 0x0401).andThen fun _ =>
  (need (p.regions.all (fun d => d.base % 64 == 0 && d.len % 64 == 0) && p.extents.all (fun e => e.base % 64 == 0 && e.len % 64 == 0)) 0x0402).andThen fun _ =>
  (need (pairsOk (fun (a b : RDecl) => a.core != b.core || apart (a.base, a.len) (b.base, b.len)) p.regions &&
      pairsOk (fun (a b : Extent) => apart (a.base, a.len) (b.base, b.len)) (p.extents.filter (fun e => e.mode == 3)) && pairsOk apart p.redAreas) 0x0403).andThen fun _ =>
  (need (p.regions.all (fun d => inOwnHamper d.core d.base d.len || p.covered d.base d.len (claimModes is d)) &&
      p.segs.all (fun g => p.extents.any (fun e => e.mode == 2 && decide (e.base ≤ g.1 ∧ g.1 + g.2.length ≤ e.base + e.len))) &&
      p.redAreas.all (fun a => p.covered a.1 a.2 [.acc])) 0x0404).andThen fun _ =>
  checkAll (fun (e : Nat × Strm × List Word128) =>
    checkAll (fun pc =>
      ((checkAll (checkAccess p) (((streamRuns rs e.1 e.2.1).flatMap (·.1)).filter (fun i => i.pc == pc))).andThen fun _ =>
      if e.2.1 = .x then checkAll (fun (r : Nat × Nat × OpsB × Option Ovt) => if r.1 = e.1 ∧ r.2.1 = pc then tileRange r.2.2.1 r.2.2.2 else .ok ()) reads else .ok ()).at e.1 e.2.1 pc)
      (List.range e.2.2.length)) p.streams

/-! ### Check 5: loops, slots, guards and epochs -/

/-- Traffic of a table index on a queue, on every path that reaches it: bytes pushed or popped. -/
def trafficAt (is : List Inst) (c : Nat) (st : Strm) (push : Bool) (q pc : Nat) : List Nat :=
  ((is.filter (fun i => i.core == c && i.st == st && i.pc == pc)).map (fun i => (i.op.total push q))).dedup

/-- Bytes of a table index on a queue in one execution; of a linked group, a shared queue counts once (R81). -/
def bytesAt (is : List Inst) (t : List Word128) (c : Nat) (st : Strm) (push : Bool) (q pc : Nat) : Nat :=
  let isLink := fun (j : Nat) => match (t[j]?).bind (fun w => ovtOfWord w.toNat) with
    | some (.ops _ b) => b.link
    | _ => false
  let start := ((List.range pc).reverse.takeWhile isLink).length
  if st = .x ∧ (List.range start).any (fun k => (trafficAt is c st push q (pc - 1 - k)).any (fun b => decide (0 < b))) then 0
  else (trafficAt is c st push q pc).headD 0

/-- Top-level loops of table indices `lo` to `hi − 1`: LOOP and ENDLOOP. -/
def loopsIn (t : List Word128) : Nat → Nat → Nat → List (Nat × Nat)
  | 0, _, _ => []
  | n + 1, lo, hi =>
    if hi ≤ lo then []
    else if bits ((t[lo]?).getD 0).toNat 127 120 = 2 then
      let e := findEnd (t.drop (lo + 1)) 0 (lo + 1)
      (lo, e) :: loopsIn t n (e + 1) hi
    else loopsIn t n (lo + 1) hi

/-- The count source of a LOOP: slot or immediate (R178). -/
def countSource (t : List Word128) (i : Nat) : Option (Bool × Nat) :=
  match (t[i]?).bind (fun w => ovtOfWord w.toNat) with
  | some (.loop b) => some (b.csrc, if b.csrc then b.slot else b.imm)
  | _ => none

/-- One end of a queue: its table and the bytes that each index moves on it. -/
structure QEnd where
  t : List Word128
  f : Nat → Nat

/-- Some index of a range moves bytes. -/
def QEnd.moves (e : QEnd) (lo hi : Nat) : Bool := (List.range (hi - lo)).any (fun k => decide (0 < e.f (lo + k)))

/-- Loops of a range whose bodies move bytes. -/
def QEnd.loops (e : QEnd) (lo hi : Nat) : List (Nat × Nat) := (loopsIn e.t e.t.length lo hi).filter (fun l => e.moves l.1 l.2)

/-- Bytes of one iteration outside the loops of a range. -/
def QEnd.direct (e : QEnd) (lo hi : Nat) : Nat :=
  sumOf ((List.range (hi - lo)).map (fun k => if (loopsIn e.t e.t.length lo hi).any (fun l => decide (l.1 ≤ lo + k ∧ lo + k ≤ l.2)) then 0 else e.f (lo + k)))

/-- Loops of the two ends pair up with equal counts, level by level (R157). -/
def loopsMatch (a b : QEnd) : Nat → Nat × Nat → Nat × Nat → Bool
  | 0, _, _ => true
  | n + 1, x, y =>
    let la := a.loops x.1 x.2
    let lb := b.loops y.1 y.2
    la.length == lb.length && (la.zip lb).all (fun e => countSource a.t e.1.1 == countSource b.t e.2.1 && loopsMatch a b n (e.1.1 + 1, e.1.2) (e.2.1 + 1, e.2.2))

/-- Bytes of matching iterations are equal, level by level (R158). -/
def bytesMatch (a b : QEnd) : Nat → Nat × Nat → Nat × Nat → Bool
  | 0, _, _ => true
  | n + 1, x, y =>
    a.direct x.1 x.2 == b.direct y.1 y.2 &&
      ((a.loops x.1 x.2).zip (b.loops y.1 y.2)).all (fun e => bytesMatch a b n (e.1.1 + 1, e.1.2) (e.2.1 + 1, e.2.2))

/-- A program's table. -/
def Prog.table (p : Prog) (c : Nat) (st : Strm) : List Word128 :=
  let t := p.tables.getD (c - p.first) ([], [])
  match st with
  | .a => t.1
  | .x => t.2

/-- An end of a declared queue. -/
def queueEnd (p : Prog) (is : List Inst) (d : QDecl) (push : Bool) : QEnd :=
  let st := if push then d.prod else d.cons
  let t := p.table d.core st
  ⟨t, bytesAt is t d.core st push d.q⟩

/-- Matched loops of a queue (R157). -/
def loopMatchOk (p : Prog) (is : List Inst) (d : QDecl) : Bool :=
  d.prod == d.cons ||
    (let a := queueEnd p is d true; let b := queueEnd p is d false; loopsMatch a b 8 (0, a.t.length) (0, b.t.length))

/-- A LOOP reads a slot that its stream reads, and a write names a declared slot (R154, R183). -/
def slotOk (p : Prog) (c : Nat) (st : Strm) (w : Word128) : Bool :=
  match ovtOfWord w.toNat with
  | some (.loop b) => !b.csrc || (p.slot c b.slot).any (fun d => match st with | .a => d.readA | .x => d.readX)
  | some (.cset sl _) => (p.slot c sl).isSome
  | some (.cload _ _ sl) => (p.slot c sl).isSome
  | _ => true

/-- A PFETCH's regions, and its guard slot's latch before the A-stream's next BOUNDARY or END (R191, R241). -/
def guardsOk (p : Prog) (c : Nat) : List Inst → Check Unit
  | [] => .ok ()
  | i :: r =>
    ((need (match i.ins with
     | .pfetch _ b =>
       let base := fun (ag : Nat) => ((i.ctx.ag ag).region.bind (p.region c)).map (·.1)
       let until_ := r.takeWhile (fun j => j.ins != .boundary)
       (base b.f0).any (fun a => decide (stackDpa ≤ a)) && (base b.f1).any (fun a => decide (a < stackDpa)) &&
         until_.any (fun j => (match j.ins with | .loop _ => true | _ => false) && (j.slot.map (·.1)) == some b.gslot)
     | _ => true) 0x0504).at c i.st i.pc).andThen fun _ => guardsOk p c r

/-- A reduction instruction of a run: core, step of the run, channel, ordinal of its epoch, and the instruction. -/
structure RedInst where
  core : Nat
  step : Nat
  ch : Nat
  ord : Nat
  inst : Inst
  deriving DecidableEq, Repr

/-- The reduction instructions of an A-stream, the step counted from 0. -/
def redInsts (c : Nat) : Nat → List Inst → List RedInst
  | _, [] => []
  | s, i :: r =>
    match i.ins with
    | .boundary => redInsts c (s + 1) r
    | .repoch _ ch _ _ => ⟨c, s, ch, Tab.get i.ctx.ords 0 ch, i⟩ :: redInsts c s r
    | .racc _ b => ⟨c, s, b.rch, Tab.get i.ctx.ords 0 b.rch - 1, i⟩ :: redInsts c s r
    | .rwait _ ch _ _ => ⟨c, s, ch, Tab.get i.ctx.ords 0 ch - 1, i⟩ :: redInsts c s r
    | _ => redInsts c s r

/-- Descriptor index that a REPOCH names. -/
def RedInst.dsc (x : RedInst) : Option Nat :=
  match x.inst.ins with
  | .repoch _ _ d _ => some d
  | _ => none

/-- Two reduction instructions belong to one epoch. -/
def RedInst.same (x y : RedInst) : Bool := x.step == y.step && x.ch == y.ch && x.ord == y.ord

/-- A LOOP that encloses an instruction takes its count from a slot (R367). -/
def inSlotLoop (i : Inst) : Bool := (i.ctx.stream i.st).loops.any (fun l => (countSource (i.ctx.stream i.st).table (l.body - 1)).any (·.1))

/-- One reduction instruction (R197, R367, R377): `l` are those of all cores in the run. DEDUCED (log 60). -/
def redOk (p : Prog) (l : List RedInst) (x : RedInst) : Bool :=
  let desc := ((l.find? (fun y => y.core == x.core && y.same x && y.dsc.isSome)).bind RedInst.dsc).bind (fun n => p.descs[n]?)
  !inSlotLoop x.inst && p.descs.any (fun d => d.rch == x.ch) &&
  match x.inst.ins with
  | .repoch _ ch n dlns =>
    decide (x.ord < 256) && (p.descs[n]?).any (fun d => d.rch == ch && decide (d.rcdl < dlns)) &&
      (l.filter (fun y => y.same x && y.dsc.isSome)).all (fun y => y.dsc == some n) &&
      l.any (fun y => y.core == x.core && y.same x && (match y.inst.ins with | .rwait _ _ _ _ => true | _ => false))
  | .racc _ b =>
    decide (0 < Tab.get x.inst.ctx.ords 0 x.ch) && desc.any (fun d => d.wire == b.wire &&
      (p.region x.core b.treg).any (fun r => decide (r.1 ≤ d.tally ∧ d.tally + 4 * d.elems ≤ r.1 + r.2)))
  | _ => decide (0 < Tab.get x.inst.ctx.ords 0 x.ch)

/-- The RACC ranges of an epoch over all cores. -/
def raccRanges (l : List RedInst) (x : RedInst) : List (Nat × Nat) :=
  (l.filter (fun y => y.same x)).filterMap (fun y => match y.inst.ins with | .racc _ b => some (b.toff, b.elems) | _ => none)

/-- Ranges in ascending order cover `pos` to `hi − 1`, each element once. -/
def coversOnce : Nat → Nat → List (Nat × Nat) → Bool
  | pos, hi, [] => pos == hi
  | pos, hi, (o, n) :: r => o == pos && coversOnce (pos + n) hi r

/-- Every element of an epoch's tally area is covered once (R367). -/
def epochCovered (p : Prog) (l : List RedInst) (x : RedInst) : Bool :=
  match x.dsc.bind (fun n => p.descs[n]?) with
  | some d => coversOnce 0 d.elems ((raccRanges l x).insertionSort (fun a b => a.1 ≤ b.1))
  | none => true

/-- RED_EPOCH of one run. -/
def epochsOk (p : Prog) (rs : List CoreRun) : Check Unit :=
  let l := rs.flatMap (fun r => redInsts r.core 0 r.a)
  checkAll (fun (x : RedInst) => (need (redOk p l x && epochCovered p l x) 0x0505).at x.core x.inst.st x.inst.pc) l

/-- Every entry of every table, with its place. -/
def eachEntry (p : Prog) (f : Nat → Strm → Word128 → Bool) (reason : Nat) : Check Unit :=
  checkAll (fun (e : Nat × Strm × List Word128) => checkAll (fun (x : Word128 × Nat) => (need (f e.1 e.2.1 x.1) reason).at e.1 e.2.1 x.2) e.2.2.zipIdx) p.streams

/-- Check 5 (R169). DEDUCED (log 59). -/
def checkLoops (p : Prog) (rs : List CoreRun) : Check Unit :=
  let is := rs.flatMap (fun r => r.a ++ r.x)
  (checkAll (fun (e : Nat × Strm × List Word128) => (need (nestOk e.2.2 0 false) 0x0501).at e.1 e.2.1 none) p.streams).andThen fun _ =>
  (checkAll (fun (d : QDecl) => (need (loopMatchOk p is d) 0x0502).at d.core none none) (p.queues.filter (fun d => d.depth != 0))).andThen fun _ =>
  (eachEntry p (slotOk p) 0x0503).andThen fun _ =>
  (checkAll (fun (r : CoreRun) => guardsOk p r.core r.a) rs).andThen fun _ =>
  checkAll (epochsOk p) p.paths

/-! ### Check 6: queues -/

/-- An instruction's queues are declared with its stream at the end it uses (R129). -/
def queueEndsOk (p : Prog) (c : Nat) (st : Strm) (o : Op) : Bool :=
  (o.queues true).all (fun q => (p.queue c q).any (fun d => d.prod == st)) && (o.queues false).all (fun q => (p.queue c q).any (fun d => d.cons == st))

/-- No unit is larger than its queue (R130). -/
def unitsOk (p : Prog) (c : Nat) (o : Op) : Bool :=
  o.rounds.all (fun r => (r.pops ++ r.pushes).all (fun e => (p.queue c e.1).any (fun d => decide (e.2 ≤ 128 * d.depth))))

/-- A table entry with no path: its traffic by its encoding alone. -/
def bareOp (p : Prog) (c : Nat) (st : Strm) (w : Word128) : Option Op := (ovtOfWord w.toNat).map (fun i => mkOp State.reset (p.loaded c Core.reset) st 0 i [])

/-- An index moves the same bytes on every path (R158). -/
def sameBytes (is : List Inst) (d : QDecl) (push : Bool) (t : List Word128) : Bool :=
  (List.range t.length).all (fun pc => decide ((trafficAt is d.core (if push then d.prod else d.cons) push d.q pc).length ≤ 1))

/-- A queue whose ends are one stream is empty at the end of every run (R157, R158). DEDUCED (log 60). -/
def ownBalance (rs : List CoreRun) (d : QDecl) : Bool :=
  (rs.filter (fun r => r.core == d.core)).all (fun r =>
    let ns := nodesOf d.core d.prod (r.stream d.prod)
    let total := fun (push : Bool) => sumOf (ns.map (fun x => sumOf (x.rounds.map (fun o => pullBytes (if push then o.pushes else o.pops) d.q))))
    total true == total false)

/-- A queue balances (R158). -/
def balanceOk (p : Prog) (rs : List CoreRun) (is : List Inst) (d : QDecl) : Bool :=
  let a := queueEnd p is d true
  let b := queueEnd p is d false
  sameBytes is d true a.t && sameBytes is d false b.t && (if d.prod = d.cons then ownBalance rs d else bytesMatch a b 8 (0, a.t.length) (0, b.t.length))

/-- Check 6 (R169). DEDUCED (log 59). -/
def checkQueues (p : Prog) (rs : List CoreRun) : Check Unit :=
  let is := rs.flatMap (fun r => r.a ++ r.x)
  let bare := p.streams.flatMap (fun e => e.2.2.zipIdx.filterMap (fun (w : Word128 × Nat) => (bareOp p e.1 e.2.1 w.1).map (fun o => (e.1, e.2.1, w.2, o))))
  let all := bare ++ is.map (fun i => (i.core, i.st, i.pc, i.op))
  (checkAll (fun (e : Nat × Strm × Nat × Op) => (need (queueEndsOk p e.1 e.2.1 e.2.2.2) 0x0601).at e.1 e.2.1 e.2.2.1) all).andThen fun _ =>
  (checkAll (fun (e : Nat × Strm × Nat × Op) => (need (unitsOk p e.1 e.2.2.2) 0x0602).at e.1 e.2.1 e.2.2.1) all).andThen fun _ =>
  checkAll (fun (d : QDecl) => (need (balanceOk p rs is d) 0x0603).at d.core none none) (p.queues.filter (fun d => d.depth != 0))

/-! ### Check 7: flags -/

/-- A FWAIT stands in the flag's waiting stream (R144). -/
def waiterOk (p : Prog) (c : Nat) (st : Strm) (w : Word128) : Bool :=
  match ovtOfWord w.toNat with
  | some (.fwait f _) => p.flags.any (fun d => d.core == c && d.flag == f && d.waiter == some st)
  | _ => true

/-- A FADDR's target lies in the partition (R145). -/
def targetOk (p : Prog) (w : Word128) : Bool :=
  match ovtOfWord w.toNat with
  | some (.faddr _ t _ _) => decide (p.first ≤ t ∧ t < p.first + p.num)
  | _ => true

/-- Check 7 (R169). DEDUCED (log 59). -/
def checkFlags (p : Prog) : Check Unit :=
  (eachEntry p (waiterOk p) 0x0701).andThen fun _ => eachEntry p (fun _ _ => targetOk p) 0x0702

/-! ### The verdict -/

/-- A program of check 2 through checks 3 to 8. DEDUCED (log 59). -/
def checkProgram (p : Prog) (hi : Nat) : Check Unit :=
  let rs := p.allRuns
  let sets := p.potSets
  let reads := if p.nests then p.paths.flatMap (spreadReads p sets) else []
  (checkAll (checkTable p rs reads) p.streams).andThen fun _ =>
  (checkRegions p hi rs reads).andThen fun _ =>
  (checkLoops p rs).andThen fun _ =>
  (checkQueues p rs).andThen fun _ =>
  (checkFlags p).andThen fun _ => checkAll (checkOrder p sets) p.runs

/-- Pyist on an image (R169): the program with its extents' potluck sets (R292), or what it reports. `fw` is the running firmware, `hi` the end of mapped stacked memory. -/
def pyist (m : List Byte) (fw hi : Nat) : Check Prog :=
  (checkHeader m fw).andThen fun p0 =>
  (checkPacking m p0).andThen fun p =>
  (checkProgram p hi).andThen fun _ =>
  .ok { p with extents := p.extents.map (fun e => { e with pot := ((p.potSets.find? (fun x => x.1 == e)).map (·.2)).getD [] }) }

end Sys2Proof.Machine
end

