-- ==== Sys2Proof/Machine/History.lean ====
section
/-! DEFINITION. Unit history (13 R451 to R456): records, the event ring, classification and the action on a lasting unit. -/

namespace Sys2Proof.Machine

/-! ### Units (R451, R487) -/

/-- Units of a class; a reserved class has none. -/
def classSize (c : Nat) : Nat := [0, 136, 1088, 512, 256, 16, 152, 8].getD c 0

/-- A UNITID names a unit. -/
def unitOk (u : Nat) : Bool := decide (u % 4096 < classSize (u / 4096))

/-- The physical core that a lasting core, array or core router takes with it (R456). -/
def coreOfUnit (u : Nat) : Option Nat :=
  let i := u % 4096
  match u / 4096 with
  | 1 => some i
  | 2 => some (i / 8)
  | 6 => if i < 136 then some i else none
  | _ => none

/-! ### Records (R452) -/

/-- A unit's record. -/
def State.unitRec (s : State) (u : Nat) : UnitRec := Tab.get s.flash.units UnitRec.reset u

/-- Set a unit's record. -/
def State.setUnit (s : State) (u : Nat) (r : UnitRec) : State := { s with flash := { s.flash with units := Tab.put s.flash.units u r } }

/-- A record as its 64 bytes. -/
def UnitRec.bytes (r : UnitRec) (u : Nat) : List Byte :=
  let t := fun (l : List Nat) (n : Nat) => (List.range n).flatMap (fun i => toLe 4 (l.getD i 0))
  toLe 2 u ++ toLe 1 r.state ++ toLe 1 r.cause ++ toLe 4 r.ce ++ toLe 2 r.ue ++ toLe 2 r.tf ++ toLe 2 r.tp ++ toLe 2 0 ++
    t r.ceT 3 ++ t r.ueT 2 ++ t r.tfT 2 ++ toLe 4 r.stateT ++ zeroBytes 16

/-- A record with one more event: totals saturate. Times enough for the greatest threshold are kept (R455, R481). DEDUCED (log 35). -/
def UnitRec.note (r : UnitRec) (kind t : Nat) : UnitRec :=
  match kind with
  | 1 => { r with ce := satN 32 (r.ce + 1), ceT := (t :: r.ceT).take 255 }
  | 2 => { r with ue := satN 16 (r.ue + 1), ueT := (t :: r.ueT).take 255 }
  | 3 => { r with tf := satN 16 (r.tf + 1), tfT := (t :: r.tfT).take 255 }
  | 4 => { r with tp := satN 16 (r.tp + 1) }
  | 5 => { r with direct := true }
  | _ => r

/-! ### The ring (R453) -/

/-- An entry as its 32 bytes. -/
def UEvent.bytes (e : UEvent) : List Byte :=
  toLe 2 e.unit ++ toLe 1 e.kind ++ toLe 1 0 ++ toLe 4 e.time ++ toLe 8 e.detail ++ zeroBytes 16

/-- Append an entry to the ring and export it. -/
def State.logEvent (s : State) (e : UEvent) : State :=
  let f := s.flash
  ({ s with flash := { f with ring := Tab.put f.ring f.ringNext e, ringNext := (f.ringNext + 1) % 65536, lastTime := e.time } }).telemetry 4 0xFF 0 e.bytes

/-! ### Classification (R455) -/

/-- Thresholds of MNT_HCTL: the window in seconds, CETHR, UETHR, TFTHR. -/
structure Thresholds where
  window : Nat
  ce : Nat
  ue : Nat
  tf : Nat
  deriving DecidableEq, Repr

/-- MNT_HCTL as thresholds. -/
def State.thresholds (s : State) : Thresholds := ⟨3600 * s.fld rHctl 63 48, s.fld rHctl 47 40, s.fld rHctl 39 32, s.fld rHctl 31 24⟩

/-- Times of a list within the window that ends now. -/
def inWindow (l : List Nat) (now w : Nat) : Nat := (l.filter (fun t => decide (now < t + w))).length

/-- STATE and CAUSE of a record now; a unit does not leave LASTING here. DEDUCED (log 35). -/
def UnitRec.judge (r : UnitRec) (h : Thresholds) (now : Nat) : Nat × Nat :=
  let u := inWindow r.ueT now h.window
  let t := inWindow r.tfT now h.window
  let c := inWindow r.ceT now h.window
  if r.direct then (2, 4)
  else if h.ue ≤ u then (2, 2)
  else if h.tf ≤ t then (2, 3)
  else if r.state = 2 then (2, r.cause)
  else if 0 < u then (1, 2)
  else if 0 < t then (1, 3)
  else if h.ce ≤ c then (1, 1)
  else (0, 0)

/-! ### Lasting units (R456, R557) -/

/-- A test of a unit of a physical core. -/
def Run.onCore (r : Run) (k : Nat) : Bool := coreOfUnit r.unit == some k

/-- A fence stops the tests of its units (`f`), with no result (R557). DEDUCED (log 42). -/
def State.stopTests (s : State) (f : Run → Bool) : State :=
  let t := { s with runs := s.runs.filter (fun r => !f r) }
  if t.runs.length = s.runs.length then s else (t.setFld rTest 63 60 (if t.runs.isEmpty then 0 else 1)).setArb

/-- Fence a core, and stop its tests. -/
def State.fence (s : State) (k : Nat) : State := (s.fenceCore k).stopTests (fun r => r.onCore k)

/-- The action on a unit that has become LASTING. -/
def State.actLasting (s : State) (u : Nat) : State :=
  match coreOfUnit u with
  | some k => s.fence k
  | none =>
    let s := s.stopTests (fun r => r.unit == u)
    let i := u % 4096
    match u / 4096 with
    | 4 => s.loseChannel i
    | 6 => s.failRouter ((i - 136) / 4) (34 + (i - 136) % 4)
    | _ => s

/-- Classify one unit: CAUSE and STATE, a ring entry where STATE changes, and the action on a unit that becomes LASTING. DEDUCED (log 35). -/
def State.classify (s : State) (u : Nat) : State :=
  let r := s.unitRec u
  let now := s.eventSecond
  let j := r.judge s.thresholds now
  if j.1 = r.state then s.setUnit u { r with cause := j.2 }
  else
    let s := (s.setUnit u { r with state := j.1, cause := j.2, stateT := now }).logEvent ⟨u, 6, now, j.1 + 256 * j.2 + 65536 * r.state⟩
    if j.1 = 2 then s.actLasting u else s

/-- Classify every unit with a record. -/
def State.classifyAll (s : State) : State := s.flash.units.foldl (fun s (e : Nat × UnitRec) => s.classify e.1) s

/-- Commit one event: the record, the ring entry, and the classification of every unit (R455). -/
def State.commitEvent (s : State) (e : UEvent) : State :=
  ((s.setUnit e.unit ((s.unitRec e.unit).note e.kind e.time)).logEvent e).classifyAll

/-- Commit the first event that waits. -/
def State.commitFirst (s : State) : State :=
  match s.events with
  | [] => s
  | e :: r => ({ s with events := r } : State).commitEvent e

/-- Commit every event that waits now (R558). -/
def State.commitAll (s : State) : State := s.events.foldl (fun s _ => s.commitFirst) s

/-- A core that unit history still fences: its record, a record of its arrays or its router's is LASTING, or its router has failed. DEDUCED (log 35). -/
def State.coreLasting (s : State) (k : Nat) : Bool :=
  ([unitCore k, unitRouter k] ++ (List.range 8).map (unitArray k)).any (fun u => (s.unitRec u).state == 2) ||
    s.fld (rRtr (k / 34)) (k % 34) (k % 34) == 1

/-- A core returns to health once nothing fences it (R38, R455); a failed device keeps every core fenced (R496). DEDUCED (log 35). -/
def State.unfence (s : State) (k : Nat) : State :=
  if s.coreLasting k ∨ s.fld rBoot 63 60 = 4 then s else (s.setFld (rDsup (k / 34)) (k % 34) (k % 34) 0).countHealth

/-- The owner clears a record: window times are zeroed, totals stay, and the unit leaves LASTING. DEDUCED (log 35). -/
def State.clearUnit (s : State) (u : Nat) : State :=
  let r := s.unitRec u
  let now := s.eventSecond
  let s := (s.setUnit u { r with ceT := [], ueT := [], tfT := [], direct := false, state := 0, cause := 0, stateT := if r.state = 0 then r.stateT else now }).logEvent
    ⟨u, 7, now, r.state + 256 * r.cause⟩
  let s := if r.state = 0 then s else s.logEvent ⟨u, 6, now, 65536 * r.state⟩
  match coreOfUnit u with
  | some k => s.unfence k
  | none => s

end Sys2Proof.Machine
end

