-- ==== Sys2Proof/Machine/Ptp.lean ====
section
/-! DEFINITION. Cluster time (12 R435 to R437): Sync measurements, steps of the clock and the instants they fire, holdover. -/

namespace Sys2Proof.Machine

/-- The state after an outcome that is a next state. -/
def after (o : Host.Outcome State Fault Refusal) (s : State) : State :=
  match o with
  | .next t => t
  | _ => s

/-- A scheduled instant fires: a step opens, a deadline or a TOUT ends (R437). -/
def State.fire (s : State) (i : Instr) : State :=
  match i with
  | .stepOpen p => after (execStepOpen p s) s
  | .rollCallDeadline ch => after (execRollCallDeadline ch s) s
  | .epochDeadline ch => after (execEpochDeadline ch s) s
  | .memberDeadline ch => after (execMemberDeadline ch s) s
  | .rollCallTimeout ch => after (execRollCallTimeout ch s) s
  | .rwaitTimeout c ch => after (execRwaitTimeout c ch s) s
  | _ => s

/-- Instants of the partitions' pending commands. -/
def State.stepInstants (s : State) : List (Nat × Instr) :=
  s.parts.filterMap (fun (e : Nat × Part) => e.2.cmd.bind (fun c => if c.body.instant = 0 then none else some (c.body.instant, Instr.stepOpen e.1)))

/-- Instants of the epochs. -/
def State.epochInstants (s : State) : List (Nat × Instr) :=
  s.epochs.flatMap (fun (x : Nat × Epoch) =>
    let e := x.2
    (if e.host.any (fun h => h.outcome.isNone) then [(e.rcDeadline, Instr.rollCallDeadline x.1), (e.deadline, Instr.epochDeadline x.1)] else []) ++
      (if e.closed then []
       else if e.admitted.isNone then [((s.part e.part).opens.headD 0 + e.desc.rcdl + 1000 * s.fld rNwtTout 63 32, Instr.rollCallTimeout x.1)]
       else [(e.deadline, Instr.memberDeadline x.1)]))

/-- Ends of the RWAITs' TOUT. -/
def State.waitInstants (s : State) : List (Nat × Instr) :=
  s.redOps.filterMap (fun x =>
    match x.op.ins with
    | .rwait _ ch _ t => (s.epoch ch).bind (fun e => if e.rolled then some (e.deadline + 1000 * t, Instr.rwaitTimeout x.c ch) else none)
    | _ => none)

/-- Cluster time steps by a measured offset from the master, and every instant that the new time has passed fires, in the order of its time (R436, R437). DEDUCED (log 36). -/
def State.stepClock (s : State) (offset : Int) : State :=
  let t := ((s.clock.ns : Int) - offset).toNat
  let s : State := { s with clock := { s.clock with ns := t, frac := 0 } }
  let l := (s.stepInstants ++ s.epochInstants ++ s.waitInstants).filter (fun e => decide (e.1 ≤ t))
  (l.insertionSort (fun a b => a.1 ≤ b.1)).foldl (fun s e => s.fire e.2) s

/-- The measured offset that PTP_STAT holds. -/
def State.ptpOffset (s : State) : Int := signed 32 (s.fld rPtpStat 47 16)

/-- An offset as PTP_STAT.OFFSET holds it. DEDUCED (log 36). -/
def offsetField (o : Int) : Nat := unsigned 32 (max (-(2 ^ 31)) (min (2 ^ 31 - 1) o))

/-- PTP_SYNC (R436): a measurement of the offset. The first lock after reset steps cluster time; later ones slew it, at the clamp where the offset exceeds STEPTHR. DESIGN CHOICE (log 10). DEDUCED (log 36). -/
def execPtpSync (offset : Int) (s : State) : Host.Outcome State Fault Refusal :=
  guardWf (Instr.wf (.ptpSync offset)) s fun s =>
    let first := s.fld rPtpStat 61 61 == 0
    let big := decide ((s.fld rPtpCtrl 31 16 : Int) < offset ∨ offset < -(s.fld rPtpCtrl 31 16 : Int))
    let f := signed 16 (s.fld rPtpStat 15 0)
    let want := if big then (if 0 < offset then -10000 else 10000) else Config.servo f offset
    let g := max (-10000) (min 10000 want)
    let s := ((s.setFld rPtpStat 63 63 1).setFld rPtpStat 62 62 0).setFld rPtpStat 61 61 1
    let s := (s.setFld rPtpStat 60 60 (bit big)).setFld rPtpStat 47 16 (offsetField offset)
    if first then s.stepClock offset else s.setFld rPtpStat 15 0 (unsigned 16 g)

/-- PTP_HOLDOVER (R436): no Sync for 4 intervals: the clock runs on, and HOLD is set. DEDUCED (log 36). -/
def execPtpHoldover (s : State) : Host.Outcome State Fault Refusal :=
  guardWf (Instr.wf .ptpHoldover) s fun s => (s.setFld rPtpStat 63 63 0).setFld rPtpStat 62 62 1

end Sys2Proof.Machine
end

