-- ==== Sys2Proof/Machine/Registers.lean ====
section
/-! DEFINITION. Management registers as messages read and write them (14 R503 to R505): snapshots, reserved values, maintenance rules, and the registers whose write acts. -/

namespace Sys2Proof.Machine

/-! ### Addresses (R503, R504) -/

/-- The block and the first address of the instance that holds an address. -/
def instanceOf (a : Nat) : Option Nat :=
  (blocks.find? (fun b => decide (b.base ≤ a ∧ a < b.base + b.count * b.stride))).map (fun b => b.base + (a - b.base) / b.stride * b.stride)

/-- A CORE_ or ENG_ address. -/
def coreReg (a : Nat) : Bool := decide (coreB ≤ a ∧ a < coreB + 128 * 0x10000) || decide (engB ≤ a ∧ a < engB + 128 * 0x10000)

/-- Where the model keeps a register: CORE_ and ENG_ at the physical core that hosts the logical core; none while the map has no such entry. DEDUCED (log 39). DEDUCED (log 63). -/
def State.regKey (s : State) (a : Nat) : Option Nat :=
  if coreReg a then
    let b := if a < engB then coreB else engB
    (s.phys ((a - b) / 0x10000)).map (fun k => b + k * 0x10000 + (a - b) % 0x10000)
  else some a

/-- A register of a compute-die block (R526, R532). -/
def computeReg (a : Nat) : Bool := decide (dsupB ≤ a ∧ a < ethB)

/-- Index of an address among `n` registers `stride` apart from `base`. -/
def regIndex (a base stride n : Nat) : Option Nat :=
  if base ≤ a ∧ (a - base) % stride = 0 ∧ (a - base) / stride < n then some ((a - base) / stride) else none

/-! ### Snapshots -/

/-- CORE_SSTAT of a physical core (R172). -/
def Core.sstat (c : Core) : Nat :=
  c.x.pc % 4096 * 2 ^ 52 + c.a.pc % 4096 * 2 ^ 40 + c.x.obj % 256 * 2 ^ 32 + c.a.obj % 256 * 2 ^ 24 + c.x.stall % 16 * 2 ^ 12 +
    c.a.stall % 16 * 2 ^ 8 + c.x.state % 16 * 2 ^ 4 + c.a.state % 16

/-- State of a set: 0 idle, 1 preloading, 2 accumulating, 3 draining, by the operation in progress that names it, the earliest where several do (R83, R122). DEDUCED (log 38). -/
def Core.setState (c : Core) (arr key : Nat) : Nat :=
  let l := [(0, 2), (1, 1)].filterMap (fun (e : Nat × Nat) =>
    (c.inPort arr (key / 4) e.1).bind (fun o => if setOf o.ins = some (arr, key) then some (o.id, e.2) else none)) ++
    (c.ops.filter (fun o => setOf o.ins == some (arr, key) && (o.setDone || ((c.inPort arr (key / 4) 2).map Op.id) == some o.id) &&
      (match o.ins with | .drain _ _ => true | _ => false))).map (fun o => (o.id, 3))
  match l with
  | [] => 0
  | x :: r => (r.foldl (fun (m : Nat × Nat) (y : Nat × Nat) => if y.1 < m.1 then y else m) x).2

/-- ENG_ASTATn (R122). DEDUCED (log 38). -/
def Core.astat (c : Core) (n : Nat) : Nat :=
  let a := c.arr n
  bit (a.ramp != .full && a.ramp != .rest) * 2 ^ 34 + bit (a.sets.any (fun (e : Nat × AccSet) => !e.2.poison.isEmpty)) * 2 ^ 33 + bit a.qm * 2 ^ 32 +
    sumOf ((List.range (if a.qm then 16 else 4)).map (fun key => c.setState n key * 2 ^ (2 * key)))

/-- SEC_STAT (R514). -/
def State.secStat (s : State) : Nat :=
  bit s.flash.claimed * 2 ^ 63 + sumOf ((List.range 4).map (fun i => bit (s.keySlot i).isSome * 2 ^ (59 + i))) + s.flash.packs.length * 2 ^ 40 +
    s.flash.svnFloor * 2 ^ 32 + s.flash.kseq % 2 ^ 32

/-- SEC_KFPn (R514). -/
def State.kfp (s : State) (n : Nat) : Nat := ((s.keySlot n).map (fun k => fieldLe (sha256 (keyBytes k)) 0 8)).getD 0

/-- NWT_GRPn (R402). -/
def State.grpWord (s : State) (n : Nat) : Nat :=
  let pend := bit (Tab.find s.groupPend n).isSome * 2 ^ 62
  match s.group n with
  | some g => 2 ^ 63 + pend + g.size % 65536 * 2 ^ 32 + g.rank % 65536 * 2 ^ 16 + g.host % 65536
  | none => pend

/-- NWT_RCHSTATn (R403). -/
def State.rchWord (s : State) (n : Nat) : Nat :=
  let last := s.fld (rRchStat n) 59 56 * 2 ^ 56
  match s.epoch n with
  | none => last
  | some e =>
    let st := if e.closed then 4 else if e.admitted.isNone then 1 else if e.outcome.isSome then 3 else 2
    let holder := e.holds
    let nanc := e.host.any (fun h => !h.census.isEmpty) || fieldLe e.record 28 4 != 0
    st * 2 ^ 60 + last + bit e.host.isSome * 2 ^ 55 + bit holder * 2 ^ 54 + bit e.listener * 2 ^ 53 +
      bit (e.holder.longSum || bits e.member.flags 0 0 == 1) * 2 ^ 52 + bit nanc * 2 ^ 51 + bit (e.holder.sumNan || bits e.member.flags 1 1 == 1) * 2 ^ 50 +
      bit (!e.holder.waited.isEmpty) * 2 ^ 49 + e.name.ord % 256 * 2 ^ 40 + e.dsc % 64 * 2 ^ 32 + e.name.step % 2 ^ 32

/-- Unit records and ring entries as registers (R487). -/
def State.historyWord (s : State) (off : Nat) : Nat :=
  if 0x100000 ≤ off ∧ off < 0x500000 then
    let u := (off - 0x100000) / 64
    if unitOk u then fieldLe ((s.unitRec u).bytes u) (off % 64) 8 else 0
  else if 0x600000 ≤ off ∧ off < 0x800000 then
    match Tab.find s.flash.ring ((off - 0x600000) / 32) with
    | some e => fieldLe e.bytes (off % 32) 8
    | none => 0
  else s.reg (mntB + off)

/-- A register's value where the model keeps it: snapshots are taken when it is read. -/
def State.readAt (s : State) (a : Nat) : Nat :=
  if coreB ≤ a ∧ a < engB then (if (a - coreB) % 0x10000 = 0x100 then (s.core ((a - coreB) / 0x10000)).sstat else s.reg a)
  else if engB ≤ a ∧ a < slcB then
    let o := (a - engB) % 0x10000
    if 0x480 ≤ o ∧ o < 0x4C0 then (s.core ((a - engB) / 0x10000)).astat ((o - 0x480) / 8) else s.reg a
  else if hmcB ≤ a ∧ a < hmcGlobB ∧ (a - hmcB) % 0x1000 = 8 then setBits (s.reg a) 31 0 (satN 32 (s.pendAcc ((a - hmcB) / 0x1000)))
  else if mntB ≤ a ∧ a < pwrB then s.historyWord (a - mntB)
  else if a = rIdent then deviceId
  else if a = rPtpTime then s.clock.ns
  else if a = rSecStat then s.secStat
  else if a = rNwtConn then setBits (setBits (s.reg a) 63 47 s.conns.length) 44 32 s.halfOpen
  else
    match regIndex a (rKfp 0) 8 4, regIndex a (rGrp 0) 8 16, regIndex a (rRchStat 0) 8 64, regIndex a (rPhaseStat 0) 8 8 with
    | some n, _, _, _ => s.kfp n
    | _, some n, _, _ => s.grpWord n
    | _, _, some n, _ => s.rchWord n
    | _, _, _, some p => setBits (s.reg a) 30 30 (bit (bits (s.reg a) 29 16 != 0 && s.phasePend p))
    | _, _, _, _ => s.reg a

/-- A register as a message reads it. DEDUCED (log 39). -/
def State.readReg (s : State) (a : Nat) : Nat :=
  match s.regKey a with
  | some x => s.readAt x
  | none => 0

/-! ### Which writes are refused (R505) -/

/-- A partition has a program loaded (R525, R551). -/
def State.anyLoaded (s : State) : Bool := s.parts.any (fun (e : Nat × Part) => e.2.busy)

/-- A channel test runs (R454, R555): of one channel, or any test of code TO. -/
def State.channelTest (s : State) (q : Nat) : Bool := s.runs.any (fun r => r.unit == unitChan q)
def State.offTest (s : State) : Bool := s.runs.any (fun r => (coreOfUnit r.unit).isNone)

/-- Values that the manual reserves beyond one field's limits: PEAK below SUST (R541), THOT not below TCRIT (R357), VID with VLANEN (R441), an odd MNT_CSTORE.LEN (R484), a digest region of no length (R357), a snapshot address that is no multiple of 8 (R513). DEDUCED (log 39). -/
def crossOk (x v : Nat) : Bool :=
  if x = rPwrCtrl then decide (bits v 63 48 ≤ bits v 47 32)
  else if x = rTherm then decide (bits v 15 8 < bits v 23 16)
  else if x = rEthCtrl then bits v 60 60 == 0 || (decide (1 ≤ bits v 27 16) && decide (bits v 27 16 ≤ 4094))
  else if x = rCstore then bits v 39 16 % 2 == 0
  else if (regIndex x (rSnap 0) 8 256).isSome then v % 8 == 0
  else true

/-- A value holds no reserved encoding of a register's writable fields. DEDUCED (log 39). -/
def valueOk (x v : Nat) : Bool :=
  match wregAt x with
  | none => true
  | some r => r.flds.all (fun f => decide (f.min ≤ bits v f.hi f.lo) && decide (bits v f.hi f.lo ≤ f.max)) && crossOk x v

/-- A start of a traffic generator is refused (R355, R555, R556). DEDUCED (log 37). -/
def State.tgBusy (s : State) (q v : Nat) : Bool :=
  bits v 63 60 != 0 &&
    (s.tgRuns q ||
      (decide (2 ≤ bits v 63 60) &&
        (s.anyLoaded || s.fld rCstore 39 16 != 0 || s.channelTest q || !s.sweeps.isEmpty || s.restore.isSome)))

/-- A maintenance rule refuses the write: R355, R553, and MNT_CSTORE or MNT_CLIENT with the store open (R484). -/
def State.writeBusy (s : State) (x v : Nat) : Bool :=
  if x = rCstore ∨ x = rClient then s.storeOpen
  else
    match regIndex x (rTgctl 0) 0x1000 256, regIndex x (rDgcfg 0) 8 16 with
    | some q, _ => s.tgBusy q v
    | _, some n => s.sweeps.contains n
    | _, _ => false

/-- The store that a value of MNT_CSTORE asks for breaks R471. -/
def State.storeRangeBad (s : State) (v : Nat) : Bool :=
  let lo := stackDpa + bits v 63 40 * 2 ^ 20
  let n := bits v 39 16 * 2 ^ 20
  n != 0 && (s.touchesExtent lo n (fun _ => true) || decide (s.stackEnd < lo + n))

/-! ### Writes that take effect -/

/-- One field of a write (R505). -/
def State.writeFld (s : State) (x v : Nat) (f : WFld) : State :=
  match f.acc with
  | .rw => s.setFld x f.hi f.lo (bits v f.hi f.lo)
  | .w1c => s.setFld x f.hi f.lo (bits (s.fld x f.hi f.lo &&& (2 ^ 64 - 1 - bits v f.hi f.lo)) (f.hi - f.lo) 0)
  | .wo => s

/-- The fields of a write. -/
def State.writeFlds (s : State) (x v : Nat) : State :=
  match wregAt x with
  | some r => r.flds.foldl (fun s f => s.writeFld x v f) s
  | none => s

/-- HMC_TGCTL (R355): a mode other than off starts a run. DEDUCED (log 37). -/
def State.writeTg (s : State) (q v : Nat) : State :=
  let s := s.writeFlds (rTgctl q) v
  if s.fld (rTgctl q) 63 60 = 0 then s
  else
    let w := s.reg (rTgctl q)
    ((s.updChan q (fun c => { c with tg := some w })).setReg (rTgstat q) 0).tgDestroy q w

/-- TAL_CTRL.MODE (R406, R552): at once, or once no addition is pending. -/
def State.writeTal (s : State) (q v : Nat) : State :=
  (({ s with talPend := Tab.put s.talPend q (bits v 1 0) } : State).setFld (rTalStat q) 63 63 1).applyTalMode q

/-- HMC_DGCFGn (R357, R552): the status and accumulators of the region are cleared, and the window in progress is dropped. -/
def State.writeDigest (s : State) (n v : Nat) : State :=
  let s := (s.writeFlds (rDgcfg n) v).setReg (rDgst n) 0
  let s := { s with win := Tab.del s.win n }
  (List.range 256).foldl (fun s q => (s.setReg (rDgwacc q n) 0).setReg (rDgsacc q n) 0) s

/-- MNT_CSTORE (R471, R559): the seals in the new range are checked. -/
def State.writeStore (s : State) (v : Nat) : State := ((s.writeFlds rCstore v).checkSlot 0).checkSlot 1

/-- HMC_THERM (R357): TWARM ignores writes. -/
def State.writeTherm (s : State) (v : Nat) : State := (s.setFld rTherm 23 16 (bits v 23 16)).setFld rTherm 15 8 (bits v 15 8)

/-- PTP_CTRL (R436, R443): STEPNOW steps cluster time by the measured offset. DEDUCED (log 36). -/
def State.writePtp (s : State) (v : Nat) : State :=
  let s := s.writeFlds rPtpCtrl v
  if bits v 53 53 = 1 then s.stepClock s.ptpOffset else s

/-- FAC_CTRL.LEAKCLR (R530, R542): the latch clears if the sensor reads dry. -/
def State.writeLeak (s : State) (v : Nat) : State := if bits v 0 0 = 1 ∧ !s.power.wet then s.setFld rFacStat 15 15 0 else s

/-- A write of one register where the model keeps it. -/
def State.writeAt (s : State) (x v : Nat) : State :=
  if x = rCstore then s.writeStore v
  else if x = rTherm then s.writeTherm v
  else if x = rPtpCtrl then s.writePtp v
  else if x = rFacCtrl then s.writeLeak v
  else
    match regIndex x (rTgctl 0) 0x1000 256, regIndex x (rTalCtrl 0) 0x1000 256, regIndex x (rDgcfg 0) 8 16 with
    | some q, _, _ => s.writeTg q v
    | _, some q, _ => s.writeTal q v
    | _, _, some n => s.writeDigest n v
    | _, _, _ => s.writeFlds x v

/-- The status of a REG_WRITE of `vs` from `a` (R504, R505): every register is checked before any is written. DEDUCED (log 39). -/
def State.writeStatus (s : State) (a : Nat) (vs : List Nat) : Nat :=
  let l := vs.zipIdx.map (fun e => (a + 8 * e.2, e.1))
  if a % 8 ≠ 0 ∨ vs.isEmpty ∨ 512 < vs.length then stBadRequest
  else if (instanceOf a).isNone ∨ instanceOf a ≠ instanceOf (a + 8 * (vs.length - 1)) then stRange
  else if (s.regKey a).isNone then stRange
  else
    let l := l.filterMap (fun e => (s.regKey e.1).map (fun x => (x, e.2)))
    if l.any (fun e => !valueOk e.1 e.2) then stBadRequest
    else if l.any (fun e => s.writeBusy e.1 e.2) then stBusy
    else if l.any (fun e => e.1 == rCstore && s.storeRangeBad e.2) then stRange
    else stOk

/-- The registers of an accepted REG_WRITE, in ascending order. -/
def State.writeRegs (s : State) (a : Nat) (vs : List Nat) : State :=
  vs.zipIdx.foldl (fun s e => match s.regKey (a + 8 * e.2) with | some x => s.writeAt x e.1 | none => s) s

/-- The status of a REG_READ of `n` registers from `a` (R504). -/
def readStatus (a n : Nat) : Nat :=
  if a % 8 ≠ 0 ∨ n = 0 ∨ 512 < n then stBadRequest
  else if (instanceOf a).isNone ∨ instanceOf a ≠ instanceOf (a + 8 * (n - 1)) then stRange
  else stOk

/-- The data of a REG_READ. -/
def State.readRegs (s : State) (a n : Nat) : List Byte := (List.range n).flatMap (fun i => toLe 8 (s.readReg (a + 8 * i)))

end Sys2Proof.Machine
end

