-- ==== Sys2Proof/Machine/Load.lean ====
section
/-! DEFINITION. Loading a program (04 R163, R164, R171, 05 R222, 12 R431, 13 R458 to R463, R475 to R477): the image buffer, refusals, the rebuild of the channel map (10 R334), the load itself, tests before a load, and the start of a restore. -/

namespace Sys2Proof.Machine

/-! ### The image buffer (R431) -/

/-- Bytes of the image buffer (R431). -/
def imageMax : Nat := 64 * 2 ^ 20

/-- Bytes entered at an offset of a buffer; none where nothing was received. -/
def splice (l : List (Option Byte)) (off : Nat) (bs : List Byte) : List (Option Byte) :=
  (l ++ List.replicate (off - l.length) none).take off ++ bs.map some ++ l.drop (off + bs.length)

/-- The image held, if it is `len` bytes with none missing. -/
def Assembly.image (a : Assembly) (len : Nat) : Option (List Byte) :=
  let l := a.parts.foldl (fun l p => splice l p.1 p.2) []
  if l.length = len then l.mapM id else none

/-- IMAGE (R428, R431): bytes enter the assembly of their connection; another's, or one that a LOAD has taken, is BUSY. -/
def State.putImage (s : State) (a : Asker) (off : Nat) (data : List Byte) : State :=
  if imageMax < off + data.length then s.say a stBadRequest
  else if s.loadWait.isSome then s.say a stBusy
  else
    match s.assembly with
    | none => ({ s with assembly := some ⟨a.conn, [(off, data)]⟩ } : State).say a stOk
    | some x =>
      if x.conn = a.conn then ({ s with assembly := some { x with parts := x.parts ++ [(off, data)] } } : State).say a stOk else s.say a stBusy

/-- IMAGE_ASSEMBLY_TIMEOUT (R431): 10 s without IMAGE or LOAD from its connection discard an assembly that no LOAD has taken. -/
def execImageAssemblyTimeout (s : State) : Host.Outcome State Fault Refusal :=
  guardWf (Instr.wf .imageAssemblyTimeout) s fun s => if s.loadWait.isSome then s else { s with assembly := none }

/-! ### The rebuild of the channel map (R334, R357, R471) -/

/-- A rebuild takes effect at this load: no partition runs, a faulty slot is not removed yet, and no write or fetch is open on the store. DEDUCED (log 40). -/
def State.rebuildDue (s : State) : Bool := !s.anyLoaded && !s.faultySlots.isEmpty && !s.storeOpen

/-- The removed slots that a load's map has. -/
def State.nextRemoved (s : State) : List Nat :=
  if s.rebuildDue then (s.removed ++ s.faultySlots.take (8 - s.removed.length)).insertionSort (fun a b => a ≤ b) else s.removed

/-- End of mapped stacked memory under a load's map (R333). -/
def State.nextEnd (s : State) : Nat := stackTop - s.nextRemoved.length * 0x90000000

/-- Slot and block that hold block `l` of a removed slot (R332). -/
def displaced (removed : List Nat) (slot l : Nat) : Nat × Nat :=
  let lower := lowerBlocks removed.length
  let j := removed.idxOf slot * lower + l
  ((liveSlots removed).getD (j % (256 - removed.length)) 0, lower + j / (256 - removed.length))

/-- Granules still mapped whose home a rebuild changed (R334): every one of a newly removed slot, and those of an old one whose displaced home moved. DEDUCED (log 40). -/
def movedCount (old new : List Nat) : Nat :=
  let lower := lowerBlocks new.length
  (new.filter (fun x => !old.contains x)).length * lower +
    sumOf (old.map (fun x => ((List.range lower).filter (fun l => displaced old x l != displaced new x l)).length))

/-- A stretch of stacked memory holds a granule that a rebuild moved. -/
def movedIn (old new : List Nat) (a n : Nat) : Bool :=
  (List.range (ceilDiv n 4096 + 1)).any (fun i => decide (a / 4096 * 4096 + 4096 * i < a + n) && !sameHome old new (a / 4096 * 4096 + 4096 * i))

/-- The store after a rebuild (R471): none where its range is no longer wholly mapped, else each slot is checked, and one that holds a moved granule fails. DEDUCED (log 40). -/
def State.storeRebuilt (s : State) (old new : List Nat) : State :=
  let r := s.storeRange
  if r.2 = 0 then s
  else if s.stackEnd < r.1 + 2 * r.2 then ((s.setFld rCstore 39 16 0).setV 0 false).setV 1 false
  else
    (List.range 2).foldl (fun s i => if s.sealed i && movedIn old new (s.slotBase i) (4096 + min r.2 (s.sealLen i)) then s.setV i false else s.checkSlot i) s

/-- The map registers for a list of removed slots (R357), kept in unit history. DEDUCED (log 40). -/
def State.writeMap (s : State) (new : List Nat) (moved : Nat) : State :=
  let s := ((s.setFld rMap 63 48 ((s.fld rMap 63 48 + 1) % 65536)).setFld rMap 35 32 new.length).setFld rMap 31 0 moved
  let s := s.setReg rRmv (sumOf (new.zipIdx.map (fun e => e.1 * 256 ^ e.2)))
  { s with flash := { s.flash with mapWord := BitVec.ofNat 64 (s.reg rMap), removedWord := BitVec.ofNat 64 (s.reg rRmv) } }

/-- A rebuild that has fallen due takes effect (R334): removed channels leave the map, and every granule whose home changed is undefined. DEDUCED (log 40). -/
def State.rebuild (s : State) : State :=
  if s.rebuildDue then
    let old := s.removed
    let new := s.nextRemoved
    let (t, s) := s.fresh
    let s := { s with mem := s.mem.lay ⟨stackDpa, stackTop, .moved old new, some t⟩ }
    let s := (new.filter (fun x => !old.contains x)).foldl (fun s x => s.setFld (rHmcStat (chanOf x)) 63 60 6) s
    (s.writeMap new (movedCount old new)).storeRebuilt old new
  else s

/-! ### Refusals (R222, R308, R355, R368, R396, R458, R555) -/

/-- A destructive march runs on some slice. -/
def State.destroying (s : State) : Bool := (List.range 512).any (fun n => s.fld (rSlcMarch n) 63 60 == 2)

/-- A traffic generator runs in mode 2 or 3. -/
def State.tgWrites (s : State) : Bool := s.chans.any (fun (e : Nat × Chan) => e.2.tg.any (fun w => decide (2 ≤ bits w 63 60)))

/-- A load from a cairn. -/
def fromCairn (ext : Option LoadExt) : Bool := ext.any (fun x => decide (x.mode < 2))

/-- Activities that a load may not meet: those that run only while no program is loaded, and for a load from a cairn another such load and a sweep of a region bound to its partition. DEDUCED (log 41). -/
def State.loadBusy (s : State) (part : Nat) (ext : Option LoadExt) : Bool :=
  s.offTest || s.destroying || s.tgWrites ||
    (fromCairn ext && (s.restore.isSome || s.sweeps.any (fun n => s.boundTo n part)))

/-- The partition counts as running, or the core range meets that of a running one. -/
def State.partBusy (s : State) (p : Prog) : Bool :=
  (s.part p.part).busy || p.cores.any (fun c => (s.keptCores []).contains c)

/-- Two extents that may not be held by two programs at once (R163). -/
def clash (a b : Extent) : Bool := (a.mode != 1 || b.mode != 1) && overlaps a.base a.len b.base b.len

/-- EXTENT_BUSY: an extent, the buddy store (R468) or a reduction channel (R368) of a running partition. -/
def State.extentBusy (s : State) (p : Prog) : Bool :=
  let r := s.storeRange
  p.extents.any (fun e =>
    s.parts.any (fun (q : Nat × Part) => q.2.busy && q.2.extents.any (clash e)) || overlaps e.base e.len r.1 (2 * r.2)) ||
  p.descs.any (fun d => s.parts.any (fun (q : Nat × Part) => q.2.busy && q.2.descs.any (fun x => x.rch == d.rch)))

/-- Staging-directory entries that running partitions hold, of 131,072. -/
def State.stagingHeld (s : State) : Nat := sumOf (s.parts.map (fun (q : Nat × Part) => if q.2.busy then q.2.staging else 0))

/-- What a LOAD of `len` bytes on a connection comes to: the program and its core map, or the status that refuses it (R221, R222, R429). DEDUCED (log 41). -/
def State.loadPlan (s : State) (conn len : Nat) (ext : Option LoadExt) : Check (Prog × List Nat) :=
  match s.assembly.bind (fun a => if a.conn = conn then a.image len else none) with
  | none => reject 0x0103
  | some m =>
    (pyist m (s.fld rFwver 63 32) s.nextEnd).andThen fun p =>
    (need (!s.loadBusy p.part ext) stBusy).andThen fun _ =>
    (need (!s.partBusy p) 0x0904).andThen fun _ =>
    match s.planMap [p.part] with
    | .few => reject 0x0901
    | .busy => reject 0x0902
    | .ok m =>
      (need (!s.extentBusy p) 0x0903).andThen fun _ =>
      (need (decide (s.stagingHeld + p.stageLen / 4096 ≤ 131072)) 0x0905).andThen fun _ => .ok (p, m)

/-! ### The load (R171, R224, R274, R276, R311, R328, R485) -/

/-- One logical core is loaded; its counters that a load clears are cleared. -/
def State.loadCore (s : State) (p : Prog) (c : Nat) : State :=
  match s.phys c with
  | none => s
  | some k =>
    (s.updCore k (fun old => p.loaded c old)).clearCore k c

/-- The partition of a program that has been loaded. -/
def Prog.partition (p : Prog) (st : PState) (step : Nat) : Part :=
  { Part.reset with
    st := st, first := p.first, num := p.num, key := p.key, step := step, extents := p.extents, hash := p.hash, descs := p.descs
    staging := p.stageLen / 4096, stageBase := p.stageBase }

/-- The steps of R171 for an accepted program under a core map, in state `st` at a step counter. -/
def State.install (s : State) (p : Prog) (m : List Nat) (st : PState) (step : Nat) : State :=
  let s := s.rebuild.putMap m
  let s := p.cores.foldl (fun s c => s.loadCore p c) s
  let s := p.segs.foldl (fun s g => s.hubWrite g.1 (clean g.2)) s
  let s := s.updPart p.part (fun _ => p.partition st step)
  ((s.setReg (rTerm p.part) 0).setReg (rPhaseStat p.part) 0).setReg (rPoison p.part) 0

/-! ### The start of a restore (R476) -/

/-- A restore fails: MNT_CSTAT shows the reason, and the program ends with CAIRN_MISMATCH. DEDUCED (log 43). -/
def State.failRestore (s : State) (reason : Nat) : State :=
  match s.restore with
  | some r => (({ s with restore := none } : State).cstat 7 reason r.cstep).terminate r.part tCairn .none |>.setArb
  | none => s

/-- What a cairn's header fails (R476): STEP, IMAGE_HASH or TOKEN; 0 where nothing does. DEDUCED (log 43). -/
def State.headerReason (s : State) (r : Restore) (hd : List Byte) : Nat :=
  if fieldLe hd 8 4 ≠ r.cstep then 5
  else if slice hd 32 32 ≠ slice (s.part r.part).hash 0 32 then 6
  else if fieldLe hd 16 8 ≠ r.token then 7
  else 0

/-- The slot of this device's own store that holds the newest sealed cairn of a partition. -/
def State.ownSlot (s : State) (p : Nat) : Option Nat := s.newestSeal (fun i => s.sealPart i == p)

/-- FETCH to the buddy, and the connection it goes on. DEDUCED (log 43). -/
def State.sendFetch (s : State) (r : Restore) : State :=
  let b := s.buddy
  let s := s.sendTo 1 b.1 b.2 (.cairnCtl 5 ⟨0, r.part, 0, r.cstep, 0, 0⟩)
  let conn := ((s.conns.find? (fun e => e.2.id == b.1 && e.2.cls == 1)).map (·.1)).getD 0
  { s with restore := some { r with conn := conn } }

/-- Start or restart a restore: FETCH to the buddy, or a look at this device's own store. DEDUCED (log 43). -/
def State.openRestore (s : State) (r : Restore) : State :=
  let s : State := { s with restore := some r }
  if r.mode = 0 then (if s.buddy.1 = 0 then s.failRestore 8 else s.sendFetch r)
  else
    match s.ownSlot r.part with
    | none => s.failRestore 5
    | some i =>
      if s.sealStep i ≠ r.cstep then s.failRestore 5
      else
        let bad := s.headerReason r (s.slotCairn i)
        if bad ≠ 0 then s.failRestore bad
        else ({ s with restore := some { r with slot := i, length := s.sealLen i, digest := s.sealDigest i, checked := true } } : State).setFld rCstat 55 55 i

/-! ### LOAD -/

/-- The reply to a LOAD: the image buffer is freed, and a refused map build shows in the map registers (R39). -/
def State.endLoad (s : State) (a : Asker) (code : Nat) : State :=
  let s := if code = 0x0901 then s.refuseMap true else if code = 0x0902 then s.refuseMap false else s
  let s : State := { s with assembly := s.assembly.filter (fun x => x.conn != a.conn) }
  s.say a code

/-- An accepted LOAD takes effect: fresh, resume (R477) or from a cairn (R476). -/
def State.doLoad (s : State) (a : Asker) (p : Prog) (m : List Nat) (ext : Option LoadExt) : State :=
  match ext with
  | none => ((s.install p m .loaded 0).clearWindows p.part).endLoad a stOk
  | some x =>
    if x.mode = 2 then (((s.install p m .loaded (x.cstep - 1)).clearWindows p.part).addFld rGovSt 31 0 1).endLoad a stOk
    else
      let s := ((s.install p m .restoring 0).cstat 3 0 x.cstep).endLoad a stOk
      (s.openRestore ⟨p.part, x.cstep, x.token, x.mode, 0, 0, 0, 0, false, []⟩).setArb

/-- A LOAD with no test to wait for. DEDUCED (log 41). -/
def State.loadNow (s : State) (a : Asker) (len : Nat) (ext : Option LoadExt) : State :=
  match s.loadPlan a.conn len ext with
  | .error r => s.endLoad a r.reason
  | .ok (p, m) => s.doLoad a p m ext

/-! ### Tests before a load (R458, R460) -/

/-- A core, array or core router is under test. -/
def State.coreTesting (s : State) : Bool := s.runs.any (fun r => (coreOfUnit r.unit).isSome)

/-- A physical core is in the map of a running partition. -/
def State.inUse (s : State) (k : Nat) : Bool := (s.keptCores []).any (fun c => s.phys c == some k)

/-- A test starts: MNT_TEST shows it, and its die runs in CREDIT mode. DEDUCED (log 42). -/
def State.startTest (s : State) (pack unit : Nat) : State :=
  let s : State := { s with runs := s.runs ++ [⟨pack, unit, s.now⟩] }
  ((((s.setFld rTest 63 60 1).setFld rTest 47 32 pack).setFld rTest 31 16 unit).addFld rTest 15 0 1).setArb

/-- A stored pack tests a unit's class under the running firmware (R457, R562). -/
def State.packTests (s : State) (k : Pack) (unit : Nat) : Bool := bits k.classes (unit / 4096) (unit / 4096) == 1 && decide (k.minFw ≤ s.fld rFwver 63 32)

/-- The tests that a load runs first: every stored pack of its class on every SUSPECT core, array and core router outside running maps. DEDUCED (log 42). -/
def State.autoTests (s : State) : List (Nat × Nat) :=
  if s.fld rHctl 0 0 = 1 then
    s.flash.units.flatMap (fun (e : Nat × UnitRec) =>
      match coreOfUnit e.1 with
      | some k =>
        if e.2.state = 1 ∧ !s.inUse k then ((s.flash.packs.map (·.2)).filter (fun x => s.packTests x e.1)).map (fun x => (x.id, e.1)) else []
      | none => [])
  else []

/-- LOAD (R431, R475, R477): checked at once; then it waits for core tests, those that it starts among them. DEDUCED (log 41). -/
def State.load (s : State) (a : Asker) (len : Nat) (ext : Option LoadExt) : State :=
  if s.loadWait.isSome ∨ s.assembly.any (fun x => x.conn != a.conn) then s.say a stBusy
  else if ext.any (fun x => decide (3 ≤ x.mode) || (x.mode == 2 && x.cstep == 0)) then s.endLoad a stBadRequest
  else
    match s.loadPlan a.conn len ext with
    | .error r => s.endLoad a r.reason
    | .ok _ =>
      let s := s.autoTests.foldl (fun s t => if s.runs.any (fun r => r.unit == t.2 && r.pack == t.1) then s else s.startTest t.1 t.2) s
      if s.coreTesting then { s with loadWait := some ⟨a, len, ext⟩ } else s.loadNow a len ext

/-- A LOAD that waited goes on once no core test runs; the results of the tests are committed first. DEDUCED (log 41). -/
def State.resumeLoad (s : State) : State :=
  match s.loadWait with
  | none => s
  | some w => if s.coreTesting then s else (({ s with loadWait := none } : State).commitAll).loadNow w.ask w.len w.ext

end Sys2Proof.Machine
end

