-- ==== Sys2Proof/Machine/Maint.lean ====
section
/-! DEFINITION. Maintenance operations 0x01 to 0x09 (14 R506, R507; 08 R308 to R310; 10 R345, R354; 13 R453 to R460; 16 R551 to R557), the ends of tests, unit history's clockwork, and counter snapshots (14 R508). -/

namespace Sys2Proof.Machine

/-! ### Tests (R457 to R460, R486) -/

/-- The stored pack of a PACKID. -/
def State.packOf (s : State) (id : Nat) : Option Pack := (s.flash.packs.map (·.2)).find? (fun k => k.id == id)

/-- A test of a unit may not run now (R458, R555, R556): a core of a running map, any program loaded beside another unit, a march or sweep or restore beside such a unit, a channel that retrains, runs its generator in mode 2 or 3 or holds an open store. -/
def State.testBusy (s : State) (unit : Nat) : Bool :=
  s.runs.any (fun r => r.unit == unit) ||
    (match coreOfUnit unit with
     | some k => s.inUse k
     | none =>
       s.anyLoaded || !s.sweeps.isEmpty || s.restore.isSome ||
         (unit / 4096 == 4 &&
           (s.retraining == some (unit % 4096) || (s.chan (unit % 4096)).tg.any (fun w => decide (2 ≤ bits w 63 60)) || s.storeOpen)))

/-- A test is refused: MNT_TEST shows it unless a test runs. DEDUCED (log 42). -/
def State.refuseTest (s : State) (a : Asker) (status : Nat) : State :=
  (if s.runs.isEmpty then s.setFld rTest 63 60 4 else s).say a status

/-- MAINT 0x01, run test pack. DEDUCED (log 42). -/
def State.runPack (s : State) (a : Asker) (pack unit : Nat) : State :=
  match s.packOf pack with
  | none => s.refuseTest a stBadRequest
  | some k =>
    if !unitOk unit ∨ !s.packTests k unit then s.refuseTest a stBadRequest
    else if s.testBusy unit then s.refuseTest a stBusy
    else (s.startTest pack unit).say a stOk

/-- The first test of a unit ends, recorded as failed or passed (R459); a LOAD that waits for it may go on. DEDUCED (log 42). -/
def State.endTest (s : State) (unit : Nat) (fault : Bool) : State :=
  match s.runs.find? (fun r => r.unit == unit) with
  | none => s
  | some r =>
    let s := ({ s with runs := s.runs.erase r } : State).unitEvent unit (if fault then evTestFail else evTestPass) 0
    let s := s.setFld rTest 63 60 (if s.runs.isEmpty then (if fault then 3 else 2) else 1)
    (((s.setFld rTest 47 32 r.pack).setFld rTest 31 16 unit).setArb).resumeLoad

/-- TEST_COMPLETE (R459): a test reports. -/
def execTestComplete (unit : Nat) (fault : Bool) (s : State) : Host.Outcome State Fault Refusal :=
  guardWf (Instr.wf (.testComplete unit fault)) s fun s => s.endTest unit fault

/-- TEST_RUNMAX_EXPIRY (R457, R459): a test has run longer than its pack's RUNMAX, and is a failed test. -/
def execTestRunmaxExpiry (unit : Nat) (s : State) : Host.Outcome State Fault Refusal :=
  guardWf (Instr.wf (.testRunmaxExpiry unit)) s fun s =>
    match s.runs.find? (fun r => r.unit == unit) with
    | none => s
    | some r => (s.reach (r.began + 1000000 * ((s.packOf r.pack).map Pack.runmax).getD 0)).endTest unit true

/-! ### Marches (R308 to R310, R552) -/

/-- A march runs on a slice. -/
def State.marchOn (s : State) (slice : Nat) : Bool := s.fld (rSlcMarch slice) 63 60 == 1 || s.fld (rSlcMarch slice) 63 60 == 2

/-- MAINT 0x02, start march: a destructive one needs that no program is loaded, and leaves the slice undefined until it ends. DEDUCED (log 22). -/
def State.startMarch (s : State) (a : Asker) (slice : Nat) (destructive : Bool) : State :=
  if 512 ≤ slice then s.say a stBadRequest
  else if s.marchOn slice || (destructive && s.anyLoaded) then s.say a stBusy
  else
    let s := s.setFld (rSlcMarch slice) 63 60 (if destructive then 2 else 1)
    let s := { s with marchAt := Tab.put s.marchAt slice s.clock.eclk }
    let s := if destructive then (let (t, s) := s.fresh; s.laySlice slice (some t)) else s
    (s.setArb).say a stOk

/-- A free number below `n`, from the free counter. -/
def State.freeBelow (s : State) (n : Nat) : Nat × State :=
  let (t, s) := s.fresh
  ((Config.freeWord t).toNat % n, s)

/-- `n` free words of a slice. -/
def State.freeWords (s : State) : Nat → List Nat × State
  | 0 => ([], s)
  | n + 1 =>
    let (w, s) := s.freeBelow 131072
    let (l, s) := State.freeWords s n
    (w :: l, s)

/-- MAINT 0x03, stop march (R310): STATE is idle, and the failures found so far, which are free values, are recorded; a destructive march leaves the slice undefined. DESIGN CHOICE (log 5). DEDUCED (log 22). -/
def State.stopMarch (s : State) (a : Asker) (slice : Nat) : State :=
  if 512 ≤ slice then s.say a stBadRequest
  else if !s.marchOn slice then s.say a stOk
  else
    let s := if s.fld (rSlcMarch slice) 63 60 = 2 then (let (t, s) := s.fresh; s.laySlice slice (some t)) else s
    let (n, s) := (s.setFld (rSlcMarch slice) 63 60 0).freeBelow 131073
    let (l, s) := s.freeWords n
    ((s.recordFails slice l).setArb).say a stOk

/-! ### Retraining and sweeps (R345, R354, R553 to R556) -/

/-- MAINT 0x04, retrain channel. -/
def State.retrainNow (s : State) (a : Asker) (q : Nat) : State :=
  if 256 ≤ q ∨ s.chanState q ≠ 2 ∧ s.chanState q ≠ 3 then s.say a stBadRequest
  else if s.retraining.isSome ∨ s.channelTest q then s.say a stBusy
  else
    let s := s.updChan q (fun c => { c with due := true })
    (after (execChannelRetraining q s) s).say a stOk

/-- MAINT 0x05, digest sweep: its accumulators, SWEEPV and DIRTY start clear. DESIGN CHOICE (log 28). -/
def State.startSweep (s : State) (a : Asker) (n : Nat) : State :=
  if 16 ≤ n ∨ s.fld (rDgcfg n) 63 63 = 0 then s.say a stBadRequest
  else if s.sweeps.contains n ∨ s.offTest ∨ s.tgWrites ∨ s.restore.any (fun r => s.boundTo n r.part) then s.say a stBusy
  else
    let s := (List.range 256).foldl (fun s q => s.setReg (rDgsacc q n) 0) s
    let s := (s.setFld (rDgst n) 4 4 0).setFld (rDgst n) 3 3 0
    ({ s with sweeps := s.sweeps ++ [n] } : State).say a stOk

/-! ### Unit history, packs, configuration -/

/-- MAINT 0x06, clear unit record (R455). -/
def State.clearRecord (s : State) (a : Asker) (unit : Nat) : State := if unitOk unit then (s.clearUnit unit).say a stOk else s.say a stBadRequest

/-- MAINT 0x07, fence unit: a direct fault. -/
def State.fenceUnit (s : State) (a : Asker) (unit : Nat) : State := if unitOk unit then (s.unitEvent unit evDirect 0).say a stOk else s.say a stBadRequest

/-- MAINT 0x08, delete test pack; class FIRMWARE is busy during an update. -/
def State.deletePack (s : State) (a : Asker) (pack : Nat) : State :=
  if (s.packOf pack).isNone then s.say a stBadRequest
  else if s.update.isSome then s.say a stBusy
  else ({ s with flash := { s.flash with packs := s.flash.packs.filter (fun (e : Nat × Pack) => e.2.id != pack) } } : State).say a stOk

/-- A module configuration record obeys R507: 64 bytes, reserved bits zero, a VID of R441 where VLANEN is set, a PTP domain within R443. -/
def configOk (d : List Byte) : Bool :=
  d.length == 64 && decide (fieldLe d 36 1 < 4) && decide (fieldLe d 37 1 ≤ 127) && (d.drop 38).all (fun b => b == 0) && decide (fieldLe d 34 2 < 4096) &&
    (fieldLe d 36 1 % 2 == 0 || (decide (1 ≤ fieldLe d 34 2) && decide (fieldLe d 34 2 ≤ 4094)))

/-- MAINT 0x09, set module configuration: it applies at the next reset. -/
def State.setConfig (s : State) (a : Asker) (d : List Byte) : State :=
  if configOk d then ({ s with flash := { s.flash with stored := d } } : State).say a stOk else s.say a stBadRequest

/-- UNIT_EVENT_COMMIT (R453, R455, R456): the first event that waits enters its unit's record and the ring. -/
def execUnitEventCommit (s : State) : Host.Outcome State Fault Refusal :=
  guardWf (Instr.wf .unitEventCommit) s fun s => ((s.commitFirst).resumeLoad).settleRed

/-- HOURLY_CLASSIFICATION (R455). -/
def execHourlyClassification (s : State) : Host.Outcome State Fault Refusal :=
  guardWf (Instr.wf .hourlyClassification) s fun s => ((s.classifyAll).resumeLoad).settleRed

/-! ### Counter snapshots (R508, R513) -/

/-- One snapshot record. -/
def snapRecord (addr value : Nat) : List Byte := toLe 8 addr ++ toLe 8 value

/-- COUNTER_SNAPSHOT: a time record and up to 255 register records to a packet; the registers that HUB_SNAP names, in index order. With no collector one snapshot is dropped. DEDUCED (log 54). -/
def execCounterSnapshot (s : State) : Host.Outcome State Fault Refusal :=
  guardWf (Instr.wf .counterSnapshot) s fun s =>
    if s.fld rTelctl 63 48 = 0 then s
    else if s.collector.1 = 0 then s.countDrop 3 0xFF
    else
      let l := (List.range (s.fld rTelctl 40 32)).map (fun i => snapRecord (s.reg (rSnap i)) (s.readReg (s.reg (rSnap i))))
      let send := fun (s : State) (l : List (List Byte)) => s.telemetry 3 0xFF 0 (snapRecord 0 s.now ++ l.flatten)
      let s := send s (l.take 255)
      if l.length ≤ 255 then s else send s (l.drop 255)

end Sys2Proof.Machine
end

