-- ==== Sys2Proof/Machine/Keys.lean ====
section
/-! DEFINITION. Keys (14 R497 to R500) and attestation (14 R501, R502). -/

namespace Sys2Proof.Machine

/-! ### Activities (R554, R557) -/

/-- An activity of R554 runs: a test, a march, a retraining, a traffic generator in mode 2 or 3, a sweep, a cairn write or a fetch, a load from a cairn, an update. -/
def State.anyActivity (s : State) : Bool :=
  !s.runs.isEmpty || (List.range 512).any s.marchOn || s.retraining.isSome || s.tgWrites || !s.sweeps.isEmpty || s.cairnOut.isSome ||
    s.storeOp.isSome || s.restore.isSome || s.update.isSome

/-! ### KEY_SET (R499, R500) -/

/-- The key store written again under the next number. -/
def State.putKeys (s : State) (f : Tab Word256 → Tab Word256) (claimed : Bool) : State :=
  { s with flash := { s.flash with keys := f s.flash.keys, claimed := claimed, kseq := s.flash.kseq + 1 } }

/-- Slot `a` moves to slot `b`; an empty one leaves it empty. -/
def moveKey (a b : Nat) (t : Tab Word256) : Tab Word256 :=
  match Tab.find t a with
  | some k => Tab.put (Tab.del t a) b k
  | none => Tab.del t b

/-- The key that a KEY_SET's data area wraps: under slot 0, of 40 bytes. -/
def State.unwrap (s : State) (d : List Byte) : Option Word256 := if d.length = 40 then (s.keySlot 0).bind (fun k => Config.aesUnwrap k d) else none

/-- OP 0x01, install owner key: on a claimed device slot 0 moves to slot 1; an unclaimed one discards K_claim, and slot 1 stays empty (R498). -/
def State.installOwner (s : State) (a : Asker) (d : List Byte) : State :=
  match s.unwrap d with
  | none => s.say a stBadRequest
  | some k => (s.putKeys (fun t => Tab.put (if s.flash.claimed then moveKey 0 1 t else Tab.del t 1) 0 k) true).say a stOk

/-- OP 0x02, install peer key. -/
def State.installPeer (s : State) (a : Asker) (d : List Byte) : State :=
  match s.unwrap d with
  | none => s.say a stBadRequest
  | some k => (s.putKeys (fun t => Tab.put (moveKey 2 3 t) 2 k) s.flash.claimed).say a stOk

/-- OP 0x03 and 0x04: slot `n` is zeroed. -/
def State.retireKey (s : State) (a : Asker) (n : Nat) : State := (s.putKeys (fun t => Tab.del t n) s.flash.claimed).say a stOk

/-- Every partition's program ends with a code. -/
def State.killAll (s : State) (code : Nat) : State := ((List.range 8).foldl (fun s p => s.terminate p code .none) s).setArb

/-- OP 0x05, release: BUSY while an activity runs (R557). -/
def State.releaseDevice (s : State) (a : Asker) : State :=
  if s.anyActivity then s.say a stBusy
  else
    let s := (s.killAll tKill).putKeys (fun _ => []) false
    let s : State := { s with groups := [], groupPend := [], groupParts := [], mem := s.mem.zero stackDpa stackTop }
    let s := (((s.setReg rBuddy 0).setReg rBuddyH 0).setReg rBuddyL 0).setReg rClient 0
    (((s.setReg rCstore 0).setV 0 false).setV 1 false).say a stOk

/-! ### The report (R502) -/

/-- Bytes of a firmware bank: the shipped image's header, or what was programmed; an erased byte reads 0xFF. DESIGN CHOICE (log 9). -/
def Bank.read (b : Bank) (off n : Nat) : List Byte :=
  if b.shipped then slice (Config.factoryHeader.drop off) 0 n else (List.range n).map (fun i => Tab.get b.bytes 0xFF (off + i))

/-- SVN of a bank's image. -/
def Bank.svn (b : Bank) : Nat := fieldLe (b.read 8 4) 0 4

/-- STATE of a partition, as ASTATE of R172: none, waiting for start (a restore too), issuing, stalled at BOUNDARY, at END, terminated; after release, what HUB_TERM keeps. DEDUCED (log 52). -/
def State.partState (s : State) (p : Nat) : Nat :=
  let term := if s.fld (rTerm p) 55 55 = 0 then 0 else if s.fld (rTerm p) 63 56 = tEnded then 4 else 5
  match (s.part p).st with
  | .none => term
  | .loaded => 1
  | .restoring => 1
  | .running => 2
  | .closed => 3
  | .ending => term

/-- The 48 bytes of a partition. DEDUCED (log 52). -/
def State.partReport (s : State) (p : Nat) : List Byte :=
  let q := s.part p
  toLe 4 (s.partState p) ++ toLe 4 q.step ++ slice q.hash 0 32 ++ zeroBytes 8

/-- The 8 bytes of a pack slot. -/
def State.packReport (s : State) (i : Nat) : List Byte :=
  match Tab.find s.flash.packs i with
  | some k => toLe 2 k.id ++ toLe 2 k.ver ++ zeroBytes 4
  | none => zeroBytes 8

/-- Bytes 0 to 1,023 of a report for a nonce. DEDUCED (log 52). -/
def State.reportBody (s : State) (nonce : List Byte) : List Byte :=
  let bank := s.runBank
  let fl := s.fld rBoot 59 59 + 2 * s.fld rBoot 58 58 + 4 * s.fld rBoot 57 57 + 8 * bit (s.fld rBoot 63 60 == 4)
  [0x4C, 0x58, 0x41, 0x54] ++ toLe 2 1 ++ zeroBytes 2 ++ toLe 8 deviceId ++ slice nonce 0 32 ++
    toLe 8 (if s.fld rPtpStat 61 61 = 1 then s.now else 0) ++ toLe 4 (s.fld rBoot 31 0) ++ toLe 4 (s.fld rFwver 63 32) ++
    sha256 (bank.read 0 4096) ++ toLe 4 bank.svn ++ toLe 4 s.flash.svnFloor ++ toLe 4 fl ++ zeroBytes 4 ++
    (List.range 16).flatMap s.packReport ++ sha256 s.flash.config ++ (List.range 4).flatMap (fun i => toLe 8 (s.kfp i)) ++
    (List.range 8).flatMap s.partReport ++ toLe 1 (s.fld rCmapSum 39 32) ++ toLe 1 (s.fld rMap 35 32) ++ zeroBytes 6 ++ slice attestKey 0 32 ++
    zeroBytes 296

/-- A signed report of 18,112 bytes. -/
def State.report (s : State) (nonce : List Byte) : List Byte :=
  let b := s.reportBody nonce
  b ++ slice (Config.slhSign attestSeed b) 0 17088

/-- Bytes of an image from an offset, at most 4,096. -/
def window (l : List Byte) (off : Nat) : List Byte := (l.drop off).take 4096

/-- ATTEST (R501): at OFFSET 0 a fresh report, which joins the last four by nonce; from 32,768 the certificate; else the held report. A nonce of another length than 32 bytes is outside its limits. -/
def State.attest (s : State) (a : Asker) (off : Nat) (nonce : List Byte) : State :=
  if nonce.length ≠ 32 then s.say a stBadRequest
  else if off = 0 then
    let b := s.report nonce
    ({ s with reports := ((nonce, b) :: s.reports.filter (fun e => e.1 != nonce)).take 4 } : State).answer a stOk false false (window b 0)
  else if 32768 ≤ off then s.answer a stOk false false (window Config.certificate (off - 32768))
  else
    match s.reports.find? (fun e => e.1 == nonce) with
    | some e => if off < 18112 then s.answer a stOk false false (window e.2 off) else s.say a stBadRequest
    | none => s.say a stBadRequest

end Sys2Proof.Machine
end

