-- ==== Sys2Proof/Machine/Firmware.lean ====
section
/-! DEFINITION. Firmware images and test packs: FW_IMAGE (14 R488 to R490, R510 to R513; 13 R457; 16 R558). -/

namespace Sys2Proof.Machine

/-! ### Banks (R489, R490) -/

/-- The bank that does not run. -/
def State.idleBank (s : State) : Bank := if s.fld rBoot 59 59 = 1 then s.flash.bankA else s.flash.bankB

/-- Change the bank that does not run. -/
def State.setIdle (s : State) (b : Bank) : State :=
  { s with flash := if s.fld rBoot 59 59 = 1 then { s.flash with bankA := b } else { s.flash with bankB := b } }

/-- Every byte of a stretch has been programmed. -/
def hasBytes (t : Tab Byte) (off n : Nat) : Bool := (List.range n).all (fun i => (Tab.find t (off + i)).isSome)

/-- Bytes of an image before its body, and the most that an image has. -/
def fwBodyAt : Nat := 36768
def fwMax : Nat := 32 * 2 ^ 20
def packMax : Nat := 2 ^ 20
def sigLen : Nat := 29792

/-- What verifying a programmed bank finds (RESULT of R513; 0 where it passes R490). -/
def Bank.verify (b : Bank) (floor : Nat) : Nat :=
  let len := fieldLe (b.read 16 8) 0 8
  if !hasBytes b.bytes 0 4096 ∨ !hasBytes b.bytes 4096 sigLen then 7
  else if b.read 0 4 ≠ [0x4C, 0x58, 0x46, 0x57] ∨ fwMax < fwBodyAt + len then 1
  else if !hasBytes b.bytes fwBodyAt len then 7
  else if sha256 (b.read fwBodyAt len) ≠ b.read 24 32 then 2
  else if !Config.slhVerify (b.read 0 4096) (b.read 4096 sigLen) then 3
  else if b.svn < floor then 4
  else 0

/-- A bank is good (R490, R491); the shipped image is Ramindea's own, and fails only by its SVN. DESIGN CHOICE (log 9). -/
def Bank.good (b : Bank) (floor : Nat) : Bool := if b.shipped then decide (floor = 0 ∨ floor ≤ b.svn) else b.verify floor == 0

/-- FWVER of a bank's image. -/
def Bank.version (b : Bank) : Nat := fieldLe (b.read 4 4) 0 4

/-! ### Test packs (R457) -/

/-- What verifying a received pack finds: the RESULT of R513, 0 where it passes. -/
def State.verifyPack (s : State) (t : Tab Byte) : Nat :=
  let get := fun off n => (List.range n).map (fun i => Tab.get t 0 (off + i))
  let len := fieldLe (get 24 8) 0 8
  let all := 32 + len
  if !hasBytes t 0 32 then 7
  else if get 0 4 ≠ [0x4C, 0x58, 0x54, 0x50] ∨ packMax < all + sigLen then 1
  else if !hasBytes t 0 (all + sigLen) then 7
  else if !Config.slhVerify (get 0 all) (get all sigLen) then 3
  else if s.fld rFwver 63 32 < fieldLe (get 12 4) 0 4 then 5
  else if (s.packOf (fieldLe (get 4 2) 0 2)).any (fun k => decide (fieldLe (get 6 2) 0 2 ≤ k.ver)) then 6
  else 0

/-- A received pack's header fields. -/
def packFrom (t : Tab Byte) : Pack :=
  let get := fun off n => (List.range n).map (fun i => Tab.get t 0 (off + i))
  ⟨fieldLe (get 4 2) 0 2, fieldLe (get 6 2) 0 2, fieldLe (get 8 2) 0 2, fieldLe (get 12 4) 0 4, fieldLe (get 16 4) 0 4,
    get 0 (32 + fieldLe (get 24 8) 0 8 + sigLen)⟩

/-- The slot that a pack enters (R558): an empty one, or with none that of the pack it replaces. DEDUCED (log 49). -/
def State.packSlot (s : State) (id : Nat) : Option Nat :=
  match (List.range 16).find? (fun i => (Tab.find s.flash.packs i).isNone) with
  | some i => some i
  | none => (s.flash.packs.find? (fun (e : Nat × Pack) => e.2.id == id)).map (·.1)

/-- Store a pack; the slot of the one that it replaces is erased. -/
def State.storePack (s : State) (slot : Nat) (k : Pack) : State :=
  { s with flash := { s.flash with packs := Tab.put (s.flash.packs.filter (fun (e : Nat × Pack) => e.2.id != k.id)) slot k } }

/-! ### FW_IMAGE (R510, R511) -/

/-- HUB_FWSTAT.STATE and RESULT. -/
def State.fwStat (s : State) (st result : Nat) : State := (s.setFld rFwstat 63 60 st).setFld rFwstat 47 40 result

/-- An update of another connection is in progress. -/
def State.updateElse (s : State) (conn : Nat) : Bool := s.update.any (fun u => u.conn != conn)

/-- The status that refuses a data operation: an update in progress, a trial that runs, an image's limits. DEDUCED (log 49). -/
def State.fwRefusal (s : State) (conn target off len : Nat) : Option Nat :=
  if s.updateElse conn ∨ s.update.any (fun u => u.target != target) ∨ target = 0 ∧ s.fld rBoot 58 58 = 1 then some stBusy
  else if (if target = 0 then fwMax else packMax) < off + len then some stBadRequest
  else none

/-- The update that a data operation belongs to; the first starts one. -/
def State.openUpdate (s : State) (conn target : Nat) : State :=
  match s.update with
  | some _ => s.fwStat 1 0
  | none => (({ s with update := some ⟨conn, target, false, [], [], 0⟩ } : State).setReg rFwstat (target * 2 ^ 56)).fwStat 1 0

/-- Received bytes are counted. -/
def State.countFw (s : State) (n : Nat) : State :=
  ({ s with update := s.update.map (fun u => { u with received := u.received + n }) } : State).addFld rFwstat 31 0 n

/-- Enter bytes at an offset. -/
def putBytes (t : Tab Byte) (off : Nat) : List Byte → Tab Byte
  | [] => t
  | b :: r => putBytes (Tab.put t off b) (off + 1) r

/-- Data of a test pack: into the hub's buffer. -/
def State.packData (s : State) (a : Asker) (off : Nat) (data : List Byte) : State :=
  let s := (s.openUpdate a.conn 1).countFw data.length
  ({ s with update := s.update.map (fun u => { u with buffer := putBytes u.buffer off data }) } : State).say a stOk

/-- Data of a firmware image: it waits to be programmed; OFFSET 0 first erases the inactive bank. DEDUCED (log 49). DEDUCED (log 68). -/
def State.queueFw (s : State) (a : Asker) (seq off : Nat) (data : List Byte) : State :=
  let s := (s.openUpdate a.conn 0).countFw data.length
  let s := if off = 0 then (s.setIdle ⟨false, []⟩).setFld rFwver 31 0 0 else s
  { s with update := s.update.map (fun u => { u with erase := u.erase || off == 0, queue := u.queue ++ [⟨seq, off, data, a⟩] }) }

/-- Finish: verify a firmware image or a pack; a pack that passes is stored. DESIGN CHOICE (log 5). DEDUCED (log 49). -/
def State.finishFw (s : State) (a : Asker) (target : Nat) : State :=
  match s.update with
  | none => (s.fwStat 5 7).say a stBadRequest
  | some u =>
    if u.conn ≠ a.conn ∨ u.target ≠ target then s.say a stBusy
    else if target = 0 then
      let r := s.idleBank.verify s.flash.svnFloor
      if r ≠ 0 then (s.fwStat 5 r).say a stBadRequest
      else ((({ s with update := none } : State).fwStat 3 0).setFld rFwver 31 0 s.idleBank.version).say a stOk
    else
      let r := s.verifyPack u.buffer
      if r ≠ 0 then (s.fwStat 5 r).say a stBadRequest
      else
        let k := packFrom u.buffer
        match s.packSlot k.id with
        | some i => ((({ s with update := none } : State).storePack i k).fwStat 3 0).say a stOk
        | none =>
          let (t, s) := s.fresh
          (s.fwStat 5 ((Config.freeWord t).toNat % 256)).say a stBadRequest

/-- Activate: the verified bank boots at the next reset. DEDUCED (log 49). -/
def State.activateFw (s : State) (a : Asker) (target : Nat) : State :=
  if s.updateElse a.conn then s.say a stBusy
  else if target = 0 ∧ s.fld rFwstat 63 60 = 3 ∧ s.fld rFwstat 59 56 = 0 then
    (({ s with flash := { s.flash with trial := .pending } } : State).fwStat 4 0).say a stOk
  else (s.setFld rFwstat 47 40 8).say a stBadRequest

/-- Commit: the trial bank becomes active; OFFSET bit 0 raises the SVN floor to the running SVN. DEDUCED (log 49). -/
def State.commitFw (s : State) (a : Asker) (off : Nat) : State :=
  if s.updateElse a.conn then s.say a stBusy
  else if s.fld rBoot 58 58 = 0 then (s.setFld rFwstat 47 40 9).say a stBadRequest
  else
    let f := s.flash
    let floor := if off % 2 = 1 then max f.svnFloor (min 64 s.runBank.svn) else f.svnFloor
    (({ s with flash := { f with active := s.fld rBoot 59 59 == 1, trial := .none, svnFloor := floor } } : State).setFld rBoot 58 58 0).say a stOk

/-- Abort: the update ends, and a PENDING mark is removed. DEDUCED (log 49). -/
def State.abortFw (s : State) (a : Asker) : State :=
  if s.updateElse a.conn then s.say a stBusy
  else
    let f := s.flash
    (({ s with update := none, flash := { f with trial := if f.trial = .pending then .none else f.trial } } : State).setFld rFwstat 63 60 0).say a stOk

end Sys2Proof.Machine
end

