-- ==== Sys2Proof/Machine/Power.lean ====
section
/-! DEFINITION. Boot (14 R491 to R496), power, the limiter, Shade, shutdowns, resets, coolant and the facility port (15), stack temperatures (10 R343 to R345). -/

namespace Sys2Proof.Machine

/-! ### Boot (R491, R492, R507, R513) -/

/-- What the boot ROM's procedure comes to: the bank to boot, if any (true for B), the trial mark it leaves, and FALLBACK. DEDUCED (log 66). -/
def Flash.pick (f : Flash) : Option Bool × Trial × Bool :=
  let good := fun (b : Bool) => (if b then f.bankB else f.bankA).good f.svnFloor
  let plain : Option Bool × Trial × Bool :=
    if good f.active then (some f.active, .none, false) else if good (!f.active) then (some (!f.active), .none, true) else (none, .none, false)
  match f.trial with
  | .pending => if good (!f.active) then (some (!f.active), .running, false) else plain
  | _ => plain

/-- The module configuration in force, as the registers it sets show it. -/
def State.applyConfig (s : State) : State :=
  let d := s.flash.config
  let s := (s.setFld rNwtCtrl 63 48 (fieldLe d 32 2)).setFld rEthCtrl 27 16 (fieldLe d 34 2)
  let s := (s.setFld rEthCtrl 60 60 (fieldLe d 36 1 % 2)).setFld rEthCtrl 61 61 (fieldLe d 36 1 / 2 % 2)
  s.setFld rPtpCtrl 63 56 (fieldLe d 37 1)

/-- The boot that every reset runs: a bank or recovery, the configuration, the first attempt to bring the link up. CAUSE as HUB_BOOT gives it. DEDUCED (log 66). -/
def State.boot (s : State) (cause : Nat) : State :=
  let f := s.flash
  let (bank, trial, fallback) := f.pick
  let s : State := { s with flash := { f with trial := trial, boots := satN 32 (f.boots + 1), config := f.stored }, attempt := 0, power := { s.power with histBase := f.lastTime } }
  let s := ((s.setFld rBoot 47 44 cause).setFld rBoot 31 0 s.flash.boots).setFld rEthStat 63 61 1
  let s := match bank with
    | none => s.setFld rBoot 63 60 5
    | some b =>
      let s := ((s.setFld rBoot 63 60 2).setFld rBoot 59 59 (bit b)).setFld rBoot 58 58 (bit (trial == Trial.running))
      let s := (s.setFld rBoot 57 57 (bit fallback)).setFld rFwver 63 32 s.runBank.version
      s.setFld rFwver 31 0 (if s.idleBank.good f.svnFloor then s.idleBank.version else 0)
  (s.readFences s.coreLasting).applyConfig

/-! ### Compute power (R282, R348, R349, R357, R491, R527) -/

/-- The sequencer may power the compute dies: the supply within 32 to 40 V, the interlock satisfied, no leak latched. DEDUCED (log 46). -/
def State.canWake (s : State) : Bool := s.fld rPwrStat 59 58 == 0 && s.fld rFacStat 13 13 == 1 && s.fld rFacStat 15 15 == 0

/-- The compute dies have power. -/
def State.computeOn (s : State) : Bool := s.fld rPwrStat 57 56 == 2

/-- A unit's record is LASTING. -/
def State.lasting (s : State) (u : Nat) : Bool := (s.unitRec u).state == 2

/-- Stacks that have lost their contents are trained and zeroed (R348). DEDUCED (log 66). -/
def State.startStacks (s : State) : State :=
  if s.power.stacksOn then s
  else { s with mem := s.mem.zero stackDpa stackTop, chans := [], power := { s.power with stacksOn := true } }

/-- STATE of every channel at a start of the compute dies: removed, faulty where it failed training or unit history says so, else up. DEDUCED (log 66). -/
def State.startChannels (s : State) : State :=
  let out := s.removed.map chanOf
  (List.range 256).foldl
    (fun s q => s.setFld (rHmcStat q) 63 60 (if out.contains q then 6 else if s.fld (rHmcStat q) 63 60 = 5 ∨ s.lasting (unitChan q) then 5 else 2)) s

/-- Links train: up, or down where the link is LASTING (R456). -/
def State.startLinks (s : State) : State :=
  let all := (List.range 4).flatMap (fun d => (List.range 4).map (fun n => (d, n)))
  let s := all.foldl (fun s (e : Nat × Nat) => s.setFld (rLink e.1 e.2) 63 62 0) s
  all.foldl (fun s (e : Nat × Nat) => if s.lasting (unitLink e.1 e.2) then s.setLink e.1 e.2 2 else s) s

/-- Routers that unit history records as failed. -/
def State.startRouters (s : State) : State :=
  (List.range 152).foldl
    (fun s r =>
      if s.lasting (unitRouter r) then (if r < 136 then s.setFld (rRtr (r / 34)) (r % 34) (r % 34) 1 else s.setFld (rRtr ((r - 136) / 4)) (34 + (r - 136) % 4) (34 + (r - 136) % 4) 1)
      else s) s

/-- DSUP_STAT.STATE of every die (R515): 0 off, 1 powering, 2 up, 3 Shade. -/
def State.dieStates (s : State) (v : Nat) : State := (List.range 4).foldl (fun s d => s.setFld (rDsup d) 63 60 v) s

/-- The dies are up, with the fences that unit history keeps. -/
def State.startDies (s : State) : State :=
  let s := s.dieStates 2
  s.readFences s.coreLasting

/-- A cause of R496 is present: a bank with more than 16 failing rows, a slice out of reach, more than 8 faulty channels. DEDUCED (log 22). -/
def State.unfit (s : State) : Bool :=
  s.flash.badRows.any (fun r => decide (16 < (s.flash.badRows.filter (fun x => x.1 == r.1 && x.2.1 == r.2.1)).length)) ||
    (List.range 4).any s.slicesLost || decide (8 < s.faultySlots.length + s.fld rMap 35 32)

/-- Power of the compute dies, with the stacks' contents forgotten where they were off, and scratchpad and hampers zero. DEDUCED (log 66). -/
def State.powerDies (s : State) : State :=
  let s := s.startStacks
  { s with started := false, clock := { s.clock with eclk := 0 }, mem := s.mem.zero 0 stackDpa, power := { s.power with stageAt := 0 } }

/-- The compute dies start (R282, R348, R357, R491, R527): the channel map in force is the stored one, and channels, links, routers and dies come up. DEDUCED (log 63). -/
def State.startCompute (s : State) : State :=
  let s := (s.powerDies.setReg rMap s.flash.mapWord.toNat).setReg rRmv s.flash.removedWord.toNat
  let s := s.startChannels.startLinks.startRouters.startDies
  (((s.setFld rPwrStat 57 56 2).setFld rPwrStat 63 60 8).setFld rBoot 63 60 3).setArb

/-- Channels whose saved training is found bad, by the 4 KiB check or for want of one, are trained in full (R349); of these, and of all where the stacks had no power (R348), those of `fail` become faulty. DEDUCED (log 66). -/
def State.trainFull (s : State) (cold : Bool) (check fail : List Nat) : State :=
  let all := (List.range 256).filter (fun q => cold || check.contains q || (s.chan q).trained.isNone)
  let s := check.foldl (fun s q => s.updChan q (fun c => { c with trained := none })) s
  (fail.filter all.contains).foldl (fun s q => if s.chanState q = 2 then (s.setFld (rHmcStat q) 63 60 5).unitEvent (unitChan q) evDirect 0 else s) s

/-- COMPUTE_POWER_UP (R282, R348, R349, R357, R491, R496, R527): at STATE 0x2 and with the interlock satisfied the compute dies start, with scratchpad and hampers zero; a die that does not power up makes the device failed. DEDUCED (log 66). -/
def execComputePowerUp (b : WakeB) (s : State) : Host.Outcome State Fault Refusal :=
  guardWf (Instr.wf (.computePowerUp b)) s fun s =>
    if s.fld rBoot 63 60 ≠ 2 ∨ !s.canWake then s
    else if b.dieFails then ((s.setFld rPwrStat 57 56 0).dieStates 0).failDevice
    else
      let t := s.startCompute.trainFull (!s.power.stacksOn) b.check b.fail
      if t.unfit then t.failDevice else t

/-! ### Turning compute off (R349, R400, R526, R529, R532, R558) -/

/-- A channel's controller across self-refresh; one cut in a retraining is trained in full at the next start (R347). -/
def State.restChannels (s : State) : State :=
  { s with chans := s.chans.map (fun (e : Nat × Chan) => (e.1, { Chan.reset with trained := if s.chanState e.1 = 3 then none else e.2.trained })) }

/-- Accumulates that the controllers have acknowledged complete (R349). -/
def State.completeTally (s : State) : State := s.tally.foldl State.takeBatch s

/-- Hosted epochs are abandoned, with the reason of the code (R439), acknowledged accumulates complete, every program ends with a code, and holders that cannot complete send LOST (R349, R400). DEDUCED (log 48). -/
def State.endPrograms (s : State) (code : Nat) : State :=
  let s := ((s.commitAll).abandonAll none (if code = tReset then 2 else 0)).completeTally
  let s := s.killAll code
  s.epochs.foldl (fun s (e : Nat × Epoch) => s.holderLost e.1) s

/-- Every epoch ends here in silence: no ABANDON and no LOST leaves (R558). -/
def State.muteEpochs (s : State) : State :=
  s.epochs.foldl (fun s (e : Nat × Epoch) => ((s.updEpoch e.1 (fun x => { x with host := none })).dropHolder e.1).shutEpoch e.1) s

/-- The compute dies lose power: their registers take reset values but for the channel map and the fences, which the hub keeps (R38, R515), scratchpad and hampers are lost, and no core, program, request or maintenance activity on them is left. DEDUCED (log 48). DEDUCED (log 63). -/
def State.computeOff (s : State) : State :=
  let fences := s
  let s := s.restChannels
  let s := (List.range 8).foldl State.release s
  let s := ((s.clearRegs dsupB rMap).clearRegs (rRmv + 8) ethB)
  let s : State := { s with
    mem := s.mem.zero 0 stackDpa, cores := [], fab := [], busy := [], merge := [], pot := [], tally := [], links := [], scrubRow := []
    talPend := [], runs := [], sweeps := [], restore := none, win := [], deficit := [], started := false }
  let s := (List.range 4).foldl (fun s d => (s.setFld (rDsup d) 63 60 3).setFld (rDsup d) 33 0 (fences.fld (rDsup d) 33 0)) s
  let s := (s.setFld rPwrStat 57 56 0).setFld rPwrStat 63 60 0
  let s := if s.fld rTest 63 60 = 1 then s.setFld rTest 63 60 0 else s
  if s.fld rBoot 63 60 = 4 then s else s.setFld rBoot 63 60 6

/-- Work of the hub on stacked memory and flash that a shutdown cuts (R558); a LOAD that waits is answered BUSY (R526). DEDUCED (log 41). DEDUCED (log 48). -/
def State.cutWork (s : State) : State :=
  let s := match s.loadWait with
    | some w => ({ s with loadWait := none } : State).endLoad w.ask stBusy
    | none => s
  let s := if s.cairnOut.isSome then s.failWrite 0 else s
  { s with storeOp := none, update := none }

/-- An orderly shutdown (R529) with its cause, or a leak shutdown, cause 3, in which epochs end in silence (R558); with the compute dies off there is nothing to shut down. DEDUCED (log 48). -/
def State.shutDown (s : State) (cause : Nat) : State :=
  if s.computeOn then
    let s := if cause = 3 then s.muteEpochs else s
    ((s.endPrograms tShutdown).cutWork.computeOff).setFld rPwrStat 55 52 cause
  else s

/-- Stack power goes: contents are lost (R530, R531), the cairns of both store slots with them (R558). -/
def State.dropStacks (s : State) : State :=
  (({ s with mem := s.mem.zero stackDpa stackTop, chans := [], power := { s.power with stacksOn := false } } : State).setV 0 false).setV 1 false

/-- A leak (R530, R537): it is latched; with compute on, a leak shutdown, which also removes stack power and closes the valve. DEDUCED (log 46). -/
def State.leakSeen (s : State) : State :=
  let on := s.computeOn
  let s := (s.shutDown 3).setFld rFacStat 15 15 1
  if on then (s.dropStacks).setFld rFacStat 14 14 0 else s

/-- Every rail is off: only flash and the leak latch remain (R516, R530, R531). DEDUCED (log 46). -/
def State.dark (s : State) : State :=
  let leak := s.fld rFacStat 15 15
  ({ State.reset with
    pending := s.pending, free := s.free, outbox := s.outbox, flash := s.flash
    power := { Power.reset with railsOff := true, wet := s.power.wet, lockOut := s.power.lockOut } } : State).setFld rFacStat 15 15 leak

/-! ### Resets (R532, R536) -/

/-- Channels with a failing row that no spare row is left for (R342): those of `unrepaired` in which unit history lists one. -/
def State.beyondRepair (s : State) (unrepaired : List Nat) : List Nat := unrepaired.filter (fun q => s.flash.chanRows.any (fun r => r.1 == q))

/-- POWER_ON_RESET (R342, R348, R517, R532): everything takes its reset value but flash and the leak latch; the failing rows that unit history lists are repaired, but in the channels that are not repaired; channels that fail training or keep a failing row are faulty. After every rail has gone off it needs 100 ms of input within 32 to 40 V, and after R531 that the input power has been removed. DEDUCED (log 46). DEDUCED (log 72). -/
def execPowerOnReset (b : PowerB) (s : State) : Host.Outcome State Fault Refusal :=
  guardWf (Instr.wf (.powerOnReset b)) s fun s =>
    if s.power.lockOut ∨ (s.power.railsOff ∧ s.power.okIn < 10000) then s
    else
      let t := s.dark
      let t : State := { t with power := { t.power with railsOff := false } }
      let t := t.boot 0
      let bad := (b.badChans ++ t.beyondRepair b.unrepaired).dedup
      let t : State := { t with flash := { t.flash with chanRows := t.flash.chanRows.filter (fun r => b.unrepaired.contains r.1) } }
      bad.foldl (fun s q => (s.setFld (rHmcStat q) 63 60 5).unitEvent (unitChan q) evDirect 0) t

/-- A warm reset (R349, R400, R532): programs end with RESET, and everything but stacked memory, flash, the power side and the coolant latches takes its reset value. DEDUCED (log 67). -/
def State.warmReset (s : State) (cause : Nat) : State :=
  let s := (s.endPrograms tReset).restChannels
  let fac := s.reg rFacStat
  let t : State := { State.reset with
    pending := s.pending, free := s.free, outbox := s.outbox, flash := s.flash, mem := s.mem.zero 0 stackDpa
    chans := s.chans, power := { s.power with stageAt := 0, heldLow := false, throttled := 0, reason := 0 } }
  let t := (t.setFld rFacStat 15 15 (bits fac 15 15)).setFld rFacStat 14 14 (bits fac 14 14)
  t.boot cause

/-- TRIAL_WATCHDOG (R492): a trial that has not reached READY within 120 s is reset. -/
def execTrialWatchdog (s : State) : Host.Outcome State Fault Refusal :=
  guardWf (Instr.wf .trialWatchdog) s fun s =>
    if s.fld rBoot 58 58 = 1 ∧ s.fld rBoot 63 60 ≠ 3 ∧ s.fld rBoot 63 60 ≠ 6 then s.warmReset 2 else s

/-! ### Shade (R525 to R528) -/

/-- MAINT 0x0B, enter Shade. -/
def State.enterShade (s : State) (a : Asker) : State :=
  if s.fld rBoot 63 60 = 6 then s.say a stOk
  else if s.anyLoaded ∨ s.anyActivity then s.say a stBusy
  else (s.completeTally.computeOff).say a stOk

/-- MAINT 0x0C, leave Shade: the compute dies are powered again (COMPUTE_POWER_UP). -/
def State.leaveShade (s : State) (a : Asker) : State :=
  if s.fld rBoot 63 60 ≠ 6 then s.say a stOk
  else if !s.canWake then s.say a stBusy
  else (((s.setFld rBoot 63 60 2).setFld rPwrStat 57 56 1).dieStates 1).say a stOk

/-! ### Supply and limiter (R516 to R522, R541) -/

/-- Power of a sample in µW. DEDUCED (log 47). -/
def microWatts (x : Nat × Nat) : Nat := x.1 * x.2

/-- Mean power of the last `n` samples in W, rounded down. DEDUCED (log 47). -/
def meanWatts (l : List (Nat × Nat)) (n : Nat) : Nat := sumOf ((l.take n).map microWatts) / max 1 (l.take n).length / 1000000

/-- VRANGE of a voltage; outside 30 to 42 V the manual states none. DESIGN CHOICE (log 5). -/
def State.vrange (s : State) (mv : Nat) : Nat × State :=
  if 32000 ≤ mv ∧ mv ≤ 40000 then (0, s)
  else if 30000 ≤ mv ∧ mv < 32000 then (1, s)
  else if 40000 < mv ∧ mv ≤ 42000 then (2, s)
  else
    let (t, s) := s.fresh
    ((Config.freeWord t).toNat % 4, s)

/-- A count of samples in a row. -/
def run (hit : Bool) (n : Nat) : Nat := if hit then n + 1 else 0

/-- SUPPLY_SAMPLE (R516, R517, R519, R541): voltage and current at J1, every 10 µs. DEDUCED (log 47). -/
def execSupplySample (mv ma : Nat) (s : State) : Host.Outcome State Fault Refusal :=
  guardWf (Instr.wf (.supplySample mv ma)) s fun s =>
    let s := if mv = 0 then ({ s with power := { s.power with lockOut := false } } : State).setFld rFacStat 15 15 0 else s
    if s.power.railsOff then { s with power := { s.power with okIn := run (decide (32000 ≤ mv ∧ mv ≤ 40000)) s.power.okIn } }
    else
      let w := s.power
      let w := { w with
        samples := ((mv, ma) :: w.samples).take 100000
        under30 := run (decide (mv < 30000)) w.under30, under24 := run (decide (mv < 24000)) w.under24, over42 := run (decide (42000 < mv)) w.over42 }
      let s : State := { s with power := w }
      let (v, s) := s.vrange mv
      let s := (s.setFld rPwrStat 59 58 v).setReg rPwrSense
        (satN 16 mv * 2 ^ 48 + satN 16 (ma / 10) * 2 ^ 32 + satN 16 (meanWatts w.samples 1000) * 2 ^ 16 + satN 16 (meanWatts w.samples 100000))
      if 1 ≤ w.over42 ∨ 100 ≤ w.under24 then s.dark else if 10 ≤ w.under30 then s.shutDown 1 else s

/-- What the limiter compares at a tick: each quantity and its limit, over a common scale. DEDUCED (log 47). -/
def State.limits (s : State) : List (Nat × Nat) :=
  let l := s.power.samples
  let ten := l.take 1000
  let m := ten.length
  let volts := sumOf (ten.map (·.1))
  let held := fun n => if s.power.heldLow then min n 2400 else n
  let cap := fun n => min (held n * 1000000 * m) (volts * 100000)
  [(sumOf (ten.map microWatts), cap (s.fld rPwrCtrl 47 32)), (sumOf (l.map microWatts) * m, cap (s.fld rPwrCtrl 63 48) * l.length),
    (sumOf ((l.take 10).map (·.2)), 100000 * (l.take 10).length)]

/-- LIMITER_TICK (R519, R520): every 100 µs the admission stage falls by one above 0.98 of a limit, and rises by one below 0.95 of each, 1 ms after its last change. DESIGN CHOICE (log 2). DEDUCED (log 47). -/
def execLimiterTick (s : State) : Host.Outcome State Fault Refusal :=
  guardWf (Instr.wf .limiterTick) s fun s =>
    if !s.computeOn then s
    else
      let g := s.fld rPwrStat 63 60
      let w := s.power
      let t := if g < 8 then w.throttled + 1 else w.throttled
      let l := s.limits
      let g' := if l.any (fun e => decide (98 * e.2 < 100 * e.1)) then max 1 (g - 1)
        else if l.all (fun e => decide (100 * e.1 < 95 * e.2)) && decide (10 ≤ w.stageAt + 1) then min 8 (g + 1)
        else g
      let s : State := { s with power := { w with throttled := t, stageAt := if g' = g then w.stageAt + 1 else 0 } }
      (s.setFld rPwrStat 63 60 g').setFld rPwrStat 31 0 (satN 32 (t / 10))

/-! ### Coolant (R537) -/

/-- COOLANT_SAMPLE (R530, R537, R542): temperatures in 0.01 °C, flow in 0.01 L/min, the leak sensor, every 1 ms. -/
def execCoolantSample (tin tout : Int) (flow : Nat) (leak : Bool) (s : State) : Host.Outcome State Fault Refusal :=
  guardWf (Instr.wf (.coolantSample tin tout flow leak)) s fun s =>
    if s.power.railsOff then s
    else
      let w := s.power
      let low := decide (flow < 450 ∨ 4000 < tin)
      let bad := decide (flow < 300 ∨ 4500 < tin ∨ 6000 < tout)
      let w := { w with okMs := run (!low && !leak) w.okMs, lowMs := run low w.lowMs, badMs := run bad w.badMs, wet := leak }
      let s : State := { s with power := { w with heldLow := decide (1000 ≤ w.lowMs) } }
      let s := ((s.setFld rFacStat 63 48 (unsigned 16 tin)).setFld rFacStat 47 32 (unsigned 16 tout)).setFld rFacStat 31 16 flow
      let s := s.setFld rFacStat 13 13 (bit (decide (100 ≤ w.okMs)))
      if leak then s.leakSeen else if 100 ≤ w.badMs then s.shutDown 2 else s

/-! ### The facility port (R538 to R540, R542) -/

/-- FACILITY_STATUS (R539): every 100 ms. -/
def execFacilityStatus (s : State) : Host.Outcome State Fault Refusal :=
  guardWf (Instr.wf .facilityStatus) s fun s =>
    if s.power.railsOff then s
    else
      let f := fun hi lo => s.fld rFacStat hi lo
      s.emit (.facStatus (f 63 48) (f 47 32) (f 31 16) (f 15 15) (f 14 14) (s.fld rPwrStat 57 56) (s.fld rPwrSense 31 16))

/-- VALVE (R539, R540): a close is honoured always, with compute powered after an orderly shutdown; an open is refused while a leak is latched. DEDUCED (log 46). -/
def execValve (seq op : Nat) (s : State) : Host.Outcome State Fault Refusal :=
  guardWf (Instr.wf (.valve seq op)) s fun s =>
    if s.power.railsOff then s
    else
      let s := s.addFld rFacCnt 63 48 1
      if op = 0 then (((s.shutDown 4).setFld rFacStat 14 14 0).addFld rFacCnt 15 0 1).emit (.facAck seq 0)
      else if op = 1 ∧ s.fld rFacStat 15 15 = 0 then (s.setFld rFacStat 14 14 1).emit (.facAck seq 0)
      else s.emit (.facAck seq 1)

/-- SHUTDOWN (R529, R539, R540): honoured whatever the device's state; its REASON is recorded. DEDUCED (log 48). -/
def execShutdown (seq reason : Nat) (s : State) : Host.Outcome State Fault Refusal :=
  guardWf (Instr.wf (.shutdown seq reason)) s fun s =>
    if s.power.railsOff then s
    else
      let s := ((s.addFld rFacCnt 63 48 1).addFld rFacCnt 15 0 1).shutDown 4
      ({ s with power := { s.power with reason := reason } } : State).emit (.facAck seq 0)

/-- FACILITY_BAD_FRAME (R538): a frame with a bad CRC or length, or of an unknown TYPE, is counted. -/
def execFacilityBadFrame (unknown : Bool) (s : State) : Host.Outcome State Fault Refusal :=
  guardWf (Instr.wf (.facilityBadFrame unknown)) s fun s =>
    if s.power.railsOff then s else if unknown then s.addFld rFacCnt 31 16 1 else s.addFld rFacCnt 47 32 1

/-! ### Temperatures (R343 to R347, R531) -/

/-- HUB_DIE_TEMPERATURE (R531): in Shade a hub die at 110 °C or a stack at CRIT costs stack power, 115 °C every rail until the input power is removed. -/
def execHubDieTemperature (temp : Nat) (stackCrit : Bool) (s : State) : Host.Outcome State Fault Refusal :=
  guardWf (Instr.wf (.hubDieTemperature temp stackCrit)) s fun s =>
    if s.fld rBoot 63 60 ≠ 6 then s
    else if 115 ≤ temp then ({ s with power := { s.power with lockOut := true } } : State).dark
    else if 110 ≤ temp ∨ stackCrit then s.dropStacks
    else s

/-- The threshold of a level (R357). -/
def State.threshold (s : State) (l : Nat) : Nat := if l = 1 then s.fld rTherm 7 0 else if l = 2 then s.fld rTherm 15 8 else s.fld rTherm 23 16

/-- The level after a readout at `temp`, from level `now`: it rises at a threshold, and falls 3 °C below it. -/
def State.levelAt (s : State) (now temp : Nat) : Nat :=
  maxOf ((List.range 4).filter (fun l => l != 0 && (decide (s.threshold l ≤ temp) || (decide (l ≤ now) && decide (s.threshold l < temp + 3)))))

/-- The late notice of a channel that enters HOT (R344): its waiting accumulate bytes at 32,912 B/µs. DEDUCED (log 32). -/
def State.hotNotice (s : State) (q : Nat) : State := if s.pendAcc q = 0 then s else s.channelLate q (ceilDiv (s.pendAcc q) 32912)

/-- TEMPERATURE_READOUT (R331, R343 to R345): a channel's stack temperature, every 1 ms; 20 °C of drift since training makes a retraining fall due, a readout that finds HOT counts 1 ms at HOT, CRIT removes compute power. DEDUCED (log 32). -/
def execTemperatureReadout (q temp : Nat) (s : State) : Host.Outcome State Fault Refusal :=
  guardWf (Instr.wf (.temperatureReadout q temp)) s fun s =>
    if !s.computeOn then s
    else
      let l := s.level q
      let l' := s.levelAt l temp
      let s := (s.setFld (rHmcStat q) 57 50 temp).setFld (rHmcStat q) 59 58 l'
      let s := if l' = 2 then s.setReg (rHmcThr q) (satN 64 (s.reg (rHmcThr q) + 1000000)) else s
      let s := s.updChan q (fun c =>
        match c.trained with
        | none => { c with trained := some temp }
        | some t => { c with due := c.due || decide (t + 20 ≤ temp ∨ temp + 20 ≤ t) })
      if l' = 3 then s.shutDown 5 else if l' = 2 ∧ l < 2 then (s.hotNotice q).settleRed else s

end Sys2Proof.Machine
end

