-- ==== Sys2Proof/Machine/Secure.lean ====
section
/-! DEFINITION. Cairn messages and what they do (13 R468 to R476, R483, R484; 16 R556, R559): the buddy's store, the writer, the restoring device. `n` is the connection a message came on. -/

namespace Sys2Proof.Machine

/-- A CAIRN_DATA block among the messages of a connection. -/
def isBlock (m : Msg) : Bool :=
  match m with
  | .cairnData _ _ => true
  | _ => false

/-- Offsets of the blocks of a cairn. -/
def blockOffs (len : Nat) : List Nat := (List.range (ceilDiv len 4096)).map (· * 4096)

/-- Send a cairn on a connection, one block at a time. -/
def State.sendCairn (s : State) (n : Nat) (bytes : List Byte) : State :=
  (blockOffs bytes.length).foldl (fun s o => s.sendOn n (.cairnData o ((bytes.drop o).take 4096))) s

/-! ### The buddy (R468 to R474, R556) -/

/-- The store takes a message only from the identity in MNT_CLIENT; others are counted. -/
def State.fromClient (s : State) (src : Nat) (f : State → State) : State :=
  if s.reg rClient ≠ 0 ∧ s.reg rClient = src then f s else s.addFld rStoreSt 15 0 1

/-- A BEGIN or FETCH is answered BUSY: a write or fetch is open, a channel test runs, or the stacks are out of reach. -/
def State.storeBusy (s : State) : Bool := s.storeOpen || !s.computeOn || s.runs.any (fun r => r.unit / 4096 == 4)

/-- BEGIN (R470, R472): the slot that does not hold the newest sealed cairn loses its seal; a cairn that does not fit is answered SPACE. DEDUCED (log 45). -/
def State.gotBegin (s : State) (n src : Nat) (b : CtlB) : State :=
  s.fromClient src fun s =>
    if s.storeBusy then s.sendOn n (.cairnCtl 2 { b with status := 2 })
    else
      let i := match s.newestSeal (fun _ => true) with
        | some j => 1 - j
        | none => 0
      let s := if s.storeRange.2 = 0 then s else (s.hubWrite (s.slotBase i) (clean (zeroBytes 64))).setV i false
      if s.storeRange.2 < b.length + 4096 then s.sendOn n (.cairnCtl 2 { b with status := 1, slot := i })
      else ({ s with storeOp := some ⟨n, true, i, b.step, b.part, b.length, 0⟩ } : State).sendOn n (.cairnCtl 2 { b with status := 0, slot := i })

/-- A block at the buddy: it lands in the slot, and its term enters the digest. -/
def State.storeBlock (s : State) (o : StoreOp) (off : Nat) (data : List Byte) : State :=
  if off % 4096 = 0 ∧ off + data.length ≤ o.length then
    let s := s.hubWrite (s.slotBase o.slot + 4096 + off) (clean data)
    { s with storeOp := some { o with digest := o.digest ^^^ cairnTerm data off } }
  else s

/-- The 64 bytes of a seal. -/
def sealOf (o : StoreOp) (src now : Nat) : List Byte :=
  sealMagic ++ toLe 4 o.step ++ toLe 1 o.part ++ zeroBytes 7 ++ toLe 8 o.length ++ toLe 8 o.digest.toNat ++ toLe 8 src ++ toLe 8 now ++ zeroBytes 16

/-- SEAL (R472): the digests are compared, and the seal is written last. DEDUCED (log 45). -/
def State.gotSeal (s : State) (n src : Nat) (b : CtlB) : State :=
  s.fromClient src fun s =>
    match s.storeOp with
    | none => s
    | some o =>
      if o.conn ≠ n ∨ !o.write then s
      else
        let s : State := { s with storeOp := none }
        if o.digest.toNat = b.digest then
          let s := (s.hubWrite (s.slotBase o.slot) (clean (sealOf o src s.now))).setV o.slot true
          (s.setFld rSlotStep (32 * o.slot + 31) (32 * o.slot) o.step).sendOn n (.cairnCtl 4 { b with status := 0, slot := o.slot })
        else s.sendOn n (.cairnCtl 4 { b with status := 3, slot := o.slot })

/-- FETCH (R474, R476): the newest sealed cairn of the partition, then its blocks. DEDUCED (log 45). -/
def State.gotFetch (s : State) (n src : Nat) (b : CtlB) : State :=
  s.fromClient src fun s =>
    if s.storeBusy then s.sendOn n (.cairnCtl 6 { b with status := 2 })
    else
      match s.newestSeal (fun i => s.sealPart i == b.part) with
      | none => s.sendOn n (.cairnCtl 6 { b with status := 4 })
      | some i =>
        let len := s.sealLen i
        let s : State := { s with storeOp := some ⟨n, false, i, s.sealStep i, b.part, len, 0⟩ }
        (s.sendOn n (.cairnCtl 6 ⟨0, b.part, i, s.sealStep i, len, s.sealDigest i⟩)).sendCairn n (s.slotCairn i)

/-! ### The writer (R472, R473, R478, R482) -/

/-- The write of this device that goes over a connection. -/
def State.writeOn (s : State) (n : Nat) : Option CairnOut := s.cairnOut.filter (fun w => w.conn == n)

/-- BEGUN (R472 to R474): the blocks go; SPACE fails the write; at BUSY, BEGIN is sent again. With no write on the connection the device is a buddy, which takes the type from its client alone. DEDUCED (log 43). DEDUCED (log 45). -/
def State.gotBegun (s : State) (n src : Nat) (b : CtlB) : State :=
  match s.writeOn n with
  | none => s.fromClient src (fun s => s)
  | some w =>
    if w.begun then s
    else
      match b.status with
      | 0 => (({ s with cairnOut := some { w with begun := true, slot := b.slot } } : State).setFld rCstat 55 55 b.slot).sendCairn n w.bytes
      | 2 => s.sendOn n (.cairnCtl 1 ⟨0, w.part, 0, w.step, w.bytes.length, 0⟩)
      | _ => s.failWrite 3

/-- SEALED (R472, R473, R478): the write is sealed, and its duration is the governor's C; BAD_DIGEST fails it. DEDUCED (log 45). -/
def State.gotSealed (s : State) (n src : Nat) (b : CtlB) : State :=
  match s.writeOn n with
  | none => s.fromClient src (fun s => s)
  | some w =>
    if !w.sealing then s
    else if b.status = 0 then
      let cost := s.now - w.began
      ((({ s with cairnOut := none, sealCost := some cost } : State).setFld rGovT 63 32 (satN 32 (cost / 1000))).cstat 4 0 w.step).setFld rCstat 55 55 w.slot
    else s.failWrite 4

/-- CAIRN_WRITE_TIMEOUT (R473): a write that has not sealed within CTOUT seconds of BEGIN fails. -/
def execCairnWriteTimeout (s : State) : Host.Outcome State Fault Refusal :=
  guardWf (Instr.wf .cairnWriteTimeout) s fun s =>
    match s.cairnOut with
    | none => s
    | some w => (s.reach (w.began + 1000000000 * s.fld rGov 59 52)).failWrite 2

/-! ### The restoring device (R476) -/

/-- The restore of this device that comes over a connection. -/
def State.restoreOn (s : State) (n : Nat) : Option Restore := s.restore.filter (fun r => r.mode == 0 && r.conn == n)

/-- FETCHED (R474, R476): the seal's fields; no cairn, or another STEP, ends the program; at BUSY, FETCH is sent again. DEDUCED (log 43). DEDUCED (log 45). -/
def State.gotFetched (s : State) (n src : Nat) (b : CtlB) : State :=
  match s.restoreOn n with
  | none => s.fromClient src (fun s => s)
  | some r =>
    match b.status with
    | 0 =>
      if b.step ≠ r.cstep then s.failRestore 5
      else ({ s with restore := some { r with slot := b.slot, length := b.length, digest := b.digest } } : State).setFld rCstat 55 55 b.slot
    | 2 => s.sendOn n (.cairnCtl 5 ⟨0, r.part, 0, r.cstep, 0, 0⟩)
    | _ => s.failRestore 5

/-- Write the blocks that a restore has received into memory. -/
def State.putBlocks (s : State) (p : Nat) (l : List (Nat × List Byte)) : State := l.foldl (fun s b => s.putBlock p b.1 b.2) s

/-- A block at the restoring device: content is written once the header has passed its checks. DEDUCED (log 43). -/
def State.restoreBlock (s : State) (r : Restore) (off : Nat) (data : List Byte) : State :=
  let r' := { r with blocks := r.blocks.filter (fun b => b.1 != off) ++ [(off, data)] }
  let s : State := { s with restore := some r' }
  if r.checked then s.putBlock r.part off data
  else if off = 0 then
    (if s.headerReason r data ≠ 0 then s.failRestore (s.headerReason r data)
     else ({ s with restore := some { r' with checked := true } } : State).putBlocks r.part r'.blocks)
  else s

/-- CAIRN_DATA (R423, R472, R474, R476): at the buddy from its client, at a restoring device from its buddy. -/
def State.gotBlock (s : State) (n src off : Nat) (data : List Byte) : State :=
  match s.restoreOn n with
  | some r => s.restoreBlock r off data
  | none =>
    s.fromClient src fun s =>
      match s.storeOp with
      | some o => if o.conn = n ∧ o.write then s.storeBlock o off data else s
      | none => s

/-- Every byte of a fetched cairn has been received. -/
def Restore.whole (r : Restore) : Bool := r.length != 0 && (blockOffs r.length).all (fun o => r.blocks.any (fun b => b.1 == o))

/-- RESTORE_COMPLETE (R476): the digest is checked, and the program waits at BOUNDARY; a mismatch ends it. DEDUCED (log 43). -/
def execRestoreComplete (s : State) : Host.Outcome State Fault Refusal :=
  guardWf (Instr.wf .restoreComplete) s fun s =>
    match s.restore with
    | none => s
    | some r =>
      if !r.checked ∨ (r.mode = 0 ∧ !r.whole) then s
      else
        let bytes := if r.mode = 0 then assemble r.blocks r.length else s.slotCairn r.slot
        let s := if r.mode = 0 then s else s.putBlock r.part 0 bytes
        if (cairnDigest bytes).toNat ≠ r.digest then s.failRestore 4
        else
          let s := ({ (s.applyCairn r.part bytes) with restore := none } : State).clearWindows r.part
          let s := (s.updPart r.part (fun q => { q with st := .closed })).cstat 6 0 r.cstep
          (s.setArb).checkStep r.part

/-! ### Acknowledged and lost (R472, R473, R476) -/

/-- Blocks acknowledged on a connection: a fetch with none left is over, and a writer sends SEAL. DEDUCED (log 45). -/
def State.cairnAcked (s : State) (n : Nat) : State :=
  if (Tab.find s.conns n).any (fun c => (c.sent.map Sent.msg ++ c.unsent).any isBlock) then s
  else
    let s : State := { s with storeOp := s.storeOp.filter (fun o => o.write || o.conn != n) }
    match s.writeOn n with
    | none => s
    | some w =>
      if w.begun ∧ !w.sealing then
        (({ s with cairnOut := some { w with sealing := true } } : State).setFld rCstat 63 60 2).sendOn n
          (.cairnCtl 3 ⟨0, w.part, w.slot, w.step, w.bytes.length, (cairnDigest w.bytes).toNat⟩)
      else s

/-- A connection closes: a cairn write or a fetch over it fails. -/
def State.loseConn (s : State) (n : Nat) : State :=
  let s := s.closeConn n
  let s := if (s.writeOn n).isSome then s.failWrite 1 else s
  if (s.restoreOn n).isSome then s.failRestore 1 else s

end Sys2Proof.Machine
end

