-- ==== Sys2Proof/Machine/Transport.lean ====
section
/-! DEFINITION. The Nalmiwin transport (12): the checks of a received packet (R416 to R419), acknowledgement, credit and window (R421 to R426), opening connections (R420), timers. -/

namespace Sys2Proof.Machine

/-- Change a connection. -/
def State.updConn (s : State) (n : Nat) (f : Conn → Conn) : State :=
  match Tab.find s.conns n with
  | some c => { s with conns := Tab.put s.conns n (f c) }
  | none => s

/-! ### Acknowledgements received (R421, R422, R424, R426) -/

/-- Entries not acknowledged by a cumulative ACKSEQ and a bitmap. -/
def unacked (l : List Sent) (ackSeq bitmap : Nat) : List Sent :=
  l.filter (fun e => !seqBefore e.seq ackSeq &&
    !(let d := (e.seq + 2 ^ 32 - (ackSeq + 1)) % 2 ^ 32; decide (d < 64) && bits bitmap d d == 1))

/-- What the header of an accepted packet says: acknowledgement, credit, and a CE echo, which halves the window (R426). The window grows by 1 for each round trip. DEDUCED (log 34). -/
def Conn.heard (c : Conn) (p : Pkt) (bitmap : Nat) : Conn :=
  let trip := seqBefore c.grow p.ackSeq
  let w := if p.echo then max 1 (c.window / 2) else if trip then c.window + 1 else c.window
  { c with
    sent := unacked c.sent p.ackSeq bitmap
    credit := if seqBefore c.credit p.credit then p.credit else c.credit
    window := w
    grow := if trip then c.nextSeq else c.grow }

/-- Resend one block (R415, R422): the same SEQ under a new PCTR, with the acknowledgement, credit and CE echo of any packet; after RETRY resends, as the running timer took it (R552), the connection is dead instead. While the link is down nothing leaves (R410). -/
def State.resend (s : State) (n : Nat) (e : Sent) (hole : Bool) : State :=
  match Tab.find s.conns n with
  | none => s
  | some c =>
    if e.retry ≤ e.resends then (s.addFld rNwtConn 31 16 1).loseConn n
    else
      let e := { e with resends := e.resends + 1, holed := hole, retry := s.fld rNwtCtrl 39 36 }
      let s := s.updConn n (fun c => { c with
        pctrOut := c.pctrOut + 1, since := 0, echo := false, sent := c.sent.map (fun x => if x.seq = e.seq then e else x) })
      if s.linkUp then (s.addFld rNwtConn 15 0 1).emit (s.packetOf c e.seq (c.pctrOut + 1) e.msg) else s

/-- Blocks that lie below three blocks that the bitmap acknowledges (R422), not yet resent for their hole. DEDUCED (log 34). -/
def holes (l : List Sent) (ackSeq bitmap : Nat) : List Sent :=
  l.filter (fun e =>
    let d := (e.seq + 2 ^ 32 - ackSeq) % 2 ^ 32
    !e.holed && decide (d ≤ 64) && decide (3 ≤ ((List.range 64).filter (fun i => decide (d < i + 1) && bits bitmap i i == 1)).length))

/-! ### Acknowledgements and credit given (R421, R424) -/

/-- Advance the credit of a connection (R424): ICRED blocks beyond ACKSEQ, as far as 64 trackers can be set aside for each, 992 blocks in all; what is withheld is counted once (R329). DEDUCED (log 34). -/
def State.grantSend (s : State) (n : Nat) : State :=
  match Tab.find s.conns n with
  | none => s
  | some c =>
    let icred := s.fld rNwtCtrl 47 40
    let now := (c.granted + 1 + 2 ^ 32 - c.rxNext) % 2 ^ 32
    let give := max now (min icred (992 - s.grantedElse n))
    let want := (c.rxNext + icred - 1) % 2 ^ 32
    let held := icred - give
    let new := if seqBefore c.wanted want then min held ((want + 2 ^ 32 - c.wanted) % 2 ^ 32) else 0
    (s.updConn n (fun c => { c with granted := (c.rxNext + give + 2 ^ 32 - 1) % 2 ^ 32, wanted := want })).addFld rXtrk 15 0 new

/-- The ACK of a connection: ACKSEQ, and the bitmap of the 64 blocks above the next (R421). -/
def Conn.bitmap (c : Conn) : Nat := sumOf ((List.range 64).map (fun i => if c.rxSeen.contains ((c.rxNext + 1 + i) % 2 ^ 32) then 2 ^ i else 0))

/-- Send an ACK now. -/
def State.sendAck (s : State) (n : Nat) : State :=
  match Tab.find s.conns n with
  | none => s
  | some c =>
    if s.linkUp then (s.updConn n (fun c => { c with since := 0, echo := false, pctrOut := c.pctrOut + 1 })).emit
        (.ack c.theirs c.rxNext c.bitmap c.granted (s.envelope c c.nextSeq (c.pctrOut + 1) none))
    else s

/-! ### Checks of a received packet (R416 to R419) -/

/-- What a check finds wrong, by the field of NWT_DROP or NWT_DROP2 that counts it; a frame that the MAC does not take counts in ETH_DROP.NONIP (R411). -/
inductive Drop where
  | malformed
  | hcrc
  | pcrc
  | auth
  | noConn
  | replay
  | frame
  deriving DecidableEq, Repr

/-- Count a discarded packet. -/
def State.dropPacket (s : State) (d : Drop) : State :=
  match d with
  | .malformed => s.addFld rNwtDrop 63 48 1
  | .hcrc => s.addFld rNwtDrop 47 32 1
  | .pcrc => s.addFld rNwtDrop 31 16 1
  | .auth => s.addFld rNwtDrop 15 0 1
  | .noConn => s.addFld rNwtDrop2 47 32 1
  | .replay => s.addFld rNwtDrop2 63 48 1
  | .frame => s.addFld rEthDrop 47 32 1

/-- The MAC takes a frame without a tag, and one with the tag of ETH_CTRL (R411). -/
def State.macTakes (s : State) (vid : Option Nat) : Bool := vid.all (fun v => s.fld rEthCtrl 60 60 == 1 && v == s.fld rEthCtrl 27 16)

/-- The frame's tag (R411), then checks 1 to 4, for a key class: version, header, payload, key slot and tag (log 11: a tag is correct exactly when it was made under the slot's key). DEDUCED (log 50). -/
def State.checkHead (s : State) (p : Pkt) (cls : Nat) : Option Drop :=
  if !s.macTakes p.vid then some .frame
  else if p.ver ≠ 1 ∧ p.ver ≠ 2 then some .malformed
  else if !p.hcrc then some .hcrc
  else if !p.pcrc then some .pcrc
  else if p.keyId < 4 ∧ p.keyId / 2 = cls ∧ s.keySlot p.keyId = some p.key then none
  else some .auth

/-- A PCTR passes the replay window (R419). DEDUCED (log 34). -/
def Conn.fresh (c : Conn) (pctr : Nat) : Bool :=
  decide (c.pctrHigh < pctr) || (decide (c.pctrHigh ≤ pctr + 1024 ∧ 0 < pctr) && !c.pctrSeen.contains pctr)

/-- The window after a PCTR. -/
def Conn.noteCtr (c : Conn) (pctr : Nat) : Conn :=
  let hi := max c.pctrHigh pctr
  { c with pctrHigh := hi, pctrSeen := (pctr :: c.pctrSeen).filter (fun x => decide (hi ≤ x + 1024)) }

/-- Checks 5 and 6: the connection a packet belongs to. -/
def State.checkConn (s : State) (p : Pkt) (cls : Nat) : Except Drop Conn :=
  match Tab.find s.conns p.conn with
  | none => .error .noConn
  | some c => if c.cls ≠ cls ∨ c.id ≠ p.src then .error .noConn else if c.fresh p.pctr then .ok c else .error .replay

/-- An authenticated packet of a connection: its counter, acknowledgement, CE mark and address are noted, and a half-open responder's connection is open (R418 to R420, R426). -/
def State.accept (s : State) (p : Pkt) (bitmap : Nat) : State :=
  let now := s.now
  (s.updConn p.conn (fun c =>
    let c := (c.noteCtr p.pctr).heard p bitmap
    { c with last := now, half := c.half && c.theirs == 0, echo := c.echo || p.ce, addr := if c.cls = 0 then p.addr else c.addr })).cairnAcked p.conn

/-! ### Sequence numbers received (R421, R423) -/

/-- Advance the expected SEQ over the blocks already seen. -/
def Conn.advance : Nat → Conn → Conn
  | 0, c => c
  | n + 1, c => if c.rxSeen.contains c.rxNext then Conn.advance n { c with rxSeen := c.rxSeen.erase c.rxNext, rxNext := (c.rxNext + 1) % 2 ^ 32 } else c

/-- A SEQ that is new and within the credit given. -/
def Conn.isNew (c : Conn) (seq : Nat) : Bool := !seqBefore seq c.rxNext && !c.rxSeen.contains seq && !seqBefore c.granted seq

/-- The connection after a new block: SEQ noted, and the message held where it must wait for blocks below it. -/
def Conn.take (c : Conn) (seq : Nat) (hold : Option Instr) : Conn :=
  let c := { c with rxSeen := seq :: c.rxSeen, since := c.since + 1 }
  Conn.advance 65 (match hold with
    | some i => { c with held := c.held ++ [(seq, i)] }
    | none => c)

/-- The held message of the lowest SEQ that waits for nothing below it, and the connection without it. -/
def Conn.ready (c : Conn) : Option (Instr × Conn) :=
  match c.held.find? (fun e => seqBefore e.1 c.rxNext && c.held.all (fun x => !seqBefore x.1 e.1)) with
  | some e => some (e.2, { c with held := c.held.filter (fun x => x.1 != e.1) })
  | none => none

/-! ### Opening a connection (R420) -/

/-- Connections of an identity and class, oldest first. -/
def State.connsOf (s : State) (id cls : Nat) : List Conn :=
  ((s.conns.map (·.2)).filter (fun c => c.id == id && c.cls == cls)).insertionSort (fun a b => a.opened ≤ b.opened)

/-- A responder refuses an OPEN, with its own highest version (R560). DEDUCED (log 34). -/
def State.refuseOpen (s : State) (p : Pkt) (cls conn st : Nat) : State :=
  let s := if st = 3 then s else s.addFld rNwtDrop2 31 16 1
  let c := newConn 0 conn p.src p.addr cls 1 s.now 0 0 1 ((p.seq + 1) % 2 ^ 32)
  s.emitUp (.openAck p.src p.addr cls conn st 0 s.nwtVersion 0 (s.envelope c 0 1 none))

/-- A responder opens a connection, half open until its peer's next packet: it grants the credit asked for within ICRED and the trackers left, and its own comes from the OPEN's header. DEDUCED (log 34). -/
def State.acceptOpen (s : State) (p : Pkt) (ver cls conn icred : Nat) : State :=
  let (mine, s) := s.freshConn
  let give := s.firstGrant (min (max 1 icred) (s.fld rNwtCtrl 47 40))
  let c := { newConn mine conn p.src p.addr cls (min s.nwtVersion ver) s.now give p.credit (s.fld rNwtCtrl 47 40) ((p.seq + 1) % 2 ^ 32) with pctrHigh := p.pctr, pctrSeen := [p.pctr] }
  s.transmit c (.opened 0 give)

/-- OPEN (R416, R420, R560): opened under the lower of the two highest versions, refused with FULL, BUSY or no common version; a copy of an OPEN already answered is answered again. DEDUCED (log 34). -/
def State.gotOpen (s : State) (p : Pkt) (ver cls conn icred : Nat) : State :=
  match s.checkHead p cls with
  | some d => s.dropPacket d
  | none =>
    let l := s.connsOf p.src cls
    match l.find? (fun c => c.theirs == conn) with
    | some c =>
      if c.fresh p.pctr then
        (s.updConn c.mine (fun c => { c.noteCtr p.pctr with pctrOut := c.pctrOut + 1 })).emitUp (s.packetOf c 0 (c.pctrOut + 1) (.opened 0 ((c.granted + 1 + 2 ^ 32 - c.rxNext) % 2 ^ 32)))
      else s.dropPacket .replay
    | none =>
      if ver + 1 < s.nwtVersion then s.refuseOpen p cls conn 3
      else if 2 ≤ l.length then
        match l with
        | o :: _ => if o.last + 10000000 ≤ s.now then (s.loseConn o.mine).acceptOpen p ver cls conn icred else s.refuseOpen p cls conn 2
        | [] => s
      else if 65536 ≤ s.conns.length ∨ 4096 ≤ s.halfOpen then s.refuseOpen p cls conn 1
      else s.acceptOpen p ver cls conn icred

/-- OPENACK (R416, R420): the connection is open with the version chosen and the credit granted, and what waits is sent; refused, it closes. DEDUCED (log 34). -/
def State.gotOpenAck (s : State) (p : Pkt) (status ver conn icred : Nat) : State :=
  let cls := p.keyId / 2 % 2
  match s.checkHead p cls with
  | some d => s.dropPacket d
  | none =>
    match s.checkConn p cls with
    | .error d => s.dropPacket d
    | .ok c =>
      let s := s.accept p 0
      if c.theirs ≠ 0 then s
      else if status ≠ 0 then s.loseConn p.conn
      else
        let give := min (s.fld rNwtCtrl 47 40) (992 - s.grantedElse p.conn)
        let s := s.updConn p.conn (fun c => { c with
          theirs := conn, ver := ver, half := false, credit := max c.credit icred, sent := [], rxNext := (p.seq + 1) % 2 ^ 32
          granted := (p.seq + give) % 2 ^ 32 })
        s.drain p.conn

/-! ### The events -/

/-- OPEN (R420). -/
def execOpenConn (p : Pkt) (ver cls conn icred : Nat) (s : State) : Host.Outcome State Fault Refusal :=
  guardWf (Instr.wf (.openConn p ver cls conn icred)) s fun s => s.gotOpen p ver cls conn icred

/-- OPENACK (R420). -/
def execOpenAck (p : Pkt) (status ver conn icred : Nat) (s : State) : Host.Outcome State Fault Refusal :=
  guardWf (Instr.wf (.openAck p status ver conn icred)) s fun s => s.gotOpenAck p status ver conn icred

/-- ACK (R416, R421, R422): acknowledged blocks leave the sender, holes are resent, and what waits for credit or window goes. -/
def execAck (p : Pkt) (bitmap : Nat) (s : State) : Host.Outcome State Fault Refusal :=
  guardWf (Instr.wf (.ack p bitmap)) s fun s =>
    match s.checkHead p (p.keyId / 2 % 2) with
    | some d => s.dropPacket d
    | none =>
      match s.checkConn p (p.keyId / 2 % 2) with
      | .error d => s.dropPacket d
      | .ok _ =>
        let s := s.accept p bitmap
        let l := holes (((Tab.find s.conns p.conn).map Conn.sent).getD []) p.ackSeq bitmap
        (l.foldl (fun s e => s.resend p.conn e true) s).drain p.conn

/-- ACK_TIMER (R421): 5 µs after the first unacknowledged packet an ACK goes. DESIGN CHOICE (log 4). -/
def execAckTimer (conn : Nat) (s : State) : Host.Outcome State Fault Refusal :=
  guardWf (Instr.wf (.ackTimer conn)) s fun s =>
    match Tab.find s.conns conn with
    | none => s
    | some c => if c.since = 0 then s else s.sendAck conn

/-- HALF_OPEN_TIMEOUT (R420): a connection still half open after 10 ms is closed. -/
def execHalfOpenTimeout (conn : Nat) (s : State) : Host.Outcome State Fault Refusal :=
  guardWf (Instr.wf (.halfOpenTimeout conn)) s fun s =>
    match Tab.find s.conns conn with
    | none => s
    | some c => if c.half then (s.reach (c.opened + 10000000)).loseConn conn else s

/-- RESEND_TIMER (R410, R422): the block is resent, or after RETRY resends the connection is dead. DESIGN CHOICE (log 4). -/
def execResendTimer (conn seq : Nat) (s : State) : Host.Outcome State Fault Refusal :=
  guardWf (Instr.wf (.resendTimer conn seq)) s fun s =>
    match (Tab.find s.conns conn).bind (fun c => c.sent.find? (fun e => e.seq == seq)) with
    | none => s
    | some e => s.resend conn e false

/-- TELEMETRY_DROP_TIMEOUT (R438): telemetry that its connection has not accepted within 10 ms is dropped and counted in its source's counter. DEDUCED (log 54). -/
def execTelemetryDropTimeout (s : State) : Host.Outcome State Fault Refusal :=
  guardWf (Instr.wf .telemetryDropTimeout) s fun s =>
    let isTel := fun (m : Msg) => match m with
      | .telemetry _ _ _ _ => true
      | _ => false
    let gone := s.conns.flatMap (fun (e : Nat × Conn) => e.2.unsent.filter isTel)
    let s := { s with conns := s.conns.map (fun (e : Nat × Conn) => (e.1, { e.2 with unsent := e.2.unsent.filter (fun m => !isTel m) })) }
    s.countLost gone

end Sys2Proof.Machine
end

