-- ==== Sys2Proof/Machine/Ethernet.lean ====
section
/-! DEFINITION. The Ethernet port (12 R407 to R413): link bring-up and loss, frames and packets that the port discards, Neighbor Discovery and echo. -/

namespace Sys2Proof.Machine

/-! ### The link (R409, R410, R441) -/

/-- Bring-up starts: the MODE written last is in force (R552). DEDUCED (log 50). -/
def State.bringUp (s : State) : State := ({ s with attempt := 4 * s.fld rEthCtrl 63 62 } : State).setFld rEthStat 63 61 1

/-- The present attempt is at 1.6 Tb/s: in mode 0 two such attempts, then one at 800 Gb/s. DEDUCED (log 50). -/
def State.fastAttempt (s : State) : Bool :=
  match s.attempt / 4 with
  | 0 => decide (s.attempt % 4 < 2)
  | 1 => true
  | _ => false

/-- The link is being brought up. -/
def State.training (s : State) : Bool := s.fld rEthStat 63 61 == 1 || s.fld rEthStat 63 61 == 2

/-- An attempt fails, and the next of the cycle starts (R409). -/
def State.nextAttempt (s : State) : State := ({ s with attempt := s.attempt / 4 * 4 + (s.attempt % 4 + 1) % 3 } : State).setFld rEthStat 63 61 1

/-- LINK_ATTEMPT_TIMEOUT (R409): an attempt fails after 500 ms. -/
def execLinkAttemptTimeout (s : State) : Host.Outcome State Fault Refusal :=
  guardWf (Instr.wf .linkAttemptTimeout) s fun s => if s.training then s.nextAttempt else s

/-- The router is solicited by Neighbor Discovery, where the module configuration names one (R412). DEDUCED (log 50). -/
def State.solicitRouter (s : State) : State :=
  let r := addressAt s.flash.config 16
  if r = 0 then s else s.emit (.neighborSolicit r)

/-- LINK_UP (R409, R454): negotiation of an attempt is done and its lanes train; or lanes fail to train, an event each where a partner trained, and the attempt fails; or it succeeds at its rate, the router is solicited, and what waits on the connections goes. DEDUCED (log 50). -/
def execLinkUp (b : BringB) (s : State) : Host.Outcome State Fault Refusal :=
  guardWf (Instr.wf (.linkUp b)) s fun s =>
    if s.training && s.fastAttempt == b.fast then
      let bad := (List.range 8).filter b.failed.contains
      if !bad.isEmpty then (if bad.length < 8 then bad.foldl (fun s n => s.unitEvent (unitLane n) evUe 0) s.nextAttempt else s.nextAttempt)
      else if b.aligned then
        let s := (s.setFld rEthStat 63 61 (if b.fast then 3 else 4)).solicitRouter
        s.conns.foldl (fun s (e : Nat × Conn) => s.drain e.1) s
      else s.setFld rEthStat 63 61 2
    else s

/-- LINK_LOSS (R400, R410): uncorrectable codewords within 1 ms, or a loss of lane alignment; past 16, or with the alignment gone, the link is down, bring-up starts again, and this device's holders are lost. DEDUCED (log 29). -/
def execLinkLoss (b : LossB) (s : State) : Host.Outcome State Fault Refusal :=
  guardWf (Instr.wf (.linkLoss b)) s fun s =>
    let s := s.addFld rEthStat 31 0 b.fec
    if s.linkUp && (!b.aligned || decide (16 < b.fec)) then
      let s := (s.addFld rEthStat 47 32 1).bringUp
      (s.epochs.foldl (fun s (e : Nat × Epoch) => s.holderLost e.1) s).settleRed
    else s

/-! ### Frames and packets discarded (R408, R411 to R413, R416) -/

/-- PAUSE_FRAME (R408). -/
def execPauseFrame (s : State) : Host.Outcome State Fault Refusal := guardWf (Instr.wf .pauseFrame) s fun s => s.addFld rEthDrop 63 48 1

/-- NON_IP_FRAME (R411). -/
def execNonIpFrame (s : State) : Host.Outcome State Fault Refusal := guardWf (Instr.wf .nonIpFrame) s fun s => s.addFld rEthDrop 47 32 1

/-- EXTENSION_HEADER_PACKET (R412). -/
def execExtensionHeaderPacket (s : State) : Host.Outcome State Fault Refusal :=
  guardWf (Instr.wf .extensionHeaderPacket) s fun s => s.addFld rEthDrop 31 16 1

/-- BAD_UDP_CHECKSUM (R413). -/
def execBadUdpChecksum (s : State) : Host.Outcome State Fault Refusal := guardWf (Instr.wf .badUdpChecksum) s fun s => s.addFld rEthDrop 15 0 1

/-- MALFORMED_PACKET (R416): check 1. -/
def execMalformedPacket (s : State) : Host.Outcome State Fault Refusal := guardWf (Instr.wf .malformedPacket) s fun s => s.dropPacket .malformed

/-! ### Addresses (R412, R507) -/

/-- An address is the device's: its link-local address, or its global one where it has one. DEDUCED (log 50). -/
def State.ownsAddress (s : State) (a : Nat) : Bool :=
  a == 0xFE80 * 2 ^ 112 + deviceId || (addressAt s.flash.config 0 != 0 && a == addressAt s.flash.config 0)

/-- NEIGHBOR_SOLICITATION (R412): one for an address of the device is answered. -/
def execNeighborSolicitation (src target : Nat) (s : State) : Host.Outcome State Fault Refusal :=
  guardWf (Instr.wf (.neighborSolicitation src target)) s fun s =>
    if s.linkUp && s.ownsAddress target then s.emit (.neighborAdvert src target) else s

/-- ECHO_REQUEST (R412): answered, up to 100 in a second. -/
def execEchoRequest (src ident seq : Nat) (data : List Byte) (s : State) : Host.Outcome State Fault Refusal :=
  guardWf (Instr.wf (.echoRequest src ident seq data)) s fun s =>
    let l := s.echoes.filter (fun t => decide (s.now < t + 1000000000))
    if s.linkUp && decide (l.length < 100) then ({ s with echoes := s.now :: l } : State).emit (.echoReply src ident seq data) else { s with echoes := l }

end Sys2Proof.Machine
end

