-- ==== Sys2Proof/Machine/Requests.lean ====
section
/-! DEFINITION. Owner requests (12 R427 to R432; 04 R165; 11 R358, R359; 13 R468; 14 R494, R495, R504 to R506; 15 R526): which the device answers when, and what each does. -/

namespace Sys2Proof.Machine

/-! ### Requests and their gates (R427, R494, R495, R526, R535) -/

/-- A request that the device refuses with BUSY: before READY all but `early` ones, in recovery all but `recov` ones, with the compute dies off those that need one (`compute`). -/
def State.gated (s : State) (early recov compute : Bool) : Bool :=
  let st := s.fld rBoot 63 60
  if st = 5 then !recov else (decide (st < 3) && !early) || (compute && !s.computeOn)

/-- The requests kept after a new one: the last 1,024 of each owner identity. DEDUCED (log 64). -/
def remember (l : List Kept) (owner req : Nat) : List Kept :=
  let mine := l.filter (fun k => k.owner == owner)
  let l := match mine with
    | o :: _ => if 1024 ≤ mine.length then l.filter (fun k => !(k.owner == owner && k.req == o.req)) else l
    | [] => l
  l ++ [⟨owner, req, none⟩]

/-- An owner request: a REQID that is held gets the stored reply again and takes no effect; one that is blocked is answered BUSY. DEDUCED (log 64). -/
def State.ask (s : State) (p : Pkt) (r : Nat) (blocked : Bool) (f : Asker → State → State) : State :=
  match s.kept.find? (fun k => k.owner == p.src && k.req == r) with
  | some k =>
    match k.reply with
    | some m => s.sendOn p.conn m
    | none => s
  | none =>
    let a : Asker := ⟨p.conn, p.src, r⟩
    let s : State := { s with kept := remember s.kept p.src r }
    if blocked then s.say a stBusy else f a s

/-! ### Registers (R504, R505) -/

/-- An address of the HUB_ or SEC_ block. -/
def hubOrSec (a : Nat) : Bool := decide (hubB ≤ a ∧ a < dsupB) || decide (secB ≤ a ∧ a < mntB)

/-- REG_READ. -/
def State.askRegRead (s : State) (p : Pkt) (r n a : Nat) : State :=
  s.ask p r (s.gated true (hubOrSec a) (computeReg a)) fun k s =>
    if readStatus a n = stOk then s.answer k stOk false false (s.readRegs a n) else s.say k (readStatus a n)

/-- REG_WRITE. -/
def State.askRegWrite (s : State) (p : Pkt) (r a : Nat) (vs : List Nat) : State :=
  s.ask p r (s.gated false false (computeReg a)) fun k s =>
    if s.writeStatus a vs = stOk then (s.writeRegs a vs).say k stOk else s.say k (s.writeStatus a vs)

/-! ### Memory (R430, R449, R468) -/

/-- MEM_READ. With every hub bridge down it waits, and the reset that ends the wait drops it. DEDUCED (log 71). -/
def State.askMemRead (s : State) (p : Pkt) (r n a : Nat) : State :=
  s.ask p r (s.gated false false true) fun k s =>
    if n = 0 ∨ 4096 < n then s.say k stBadRequest
    else if !s.mapped a n then s.say k stRange
    else if s.hubCut then s
    else
      let bs := s.loadBytes a n
      (s.hubOp a n false).answer k stOk false (bs.any (·.2)) (bs.map (·.1))

/-- MEM_WRITE. DEDUCED (log 71). -/
def State.askMemWrite (s : State) (p : Pkt) (r a : Nat) (data : List Byte) : State :=
  s.ask p r (s.gated false false true) fun k s =>
    let n := data.length
    if n = 0 then s.say k stBadRequest
    else if !s.mapped a n ∨ s.touchesExtent a n (fun _ => true) then s.say k stRange
    else if s.storeOpen && overlaps a n s.storeRange.1 (2 * s.storeRange.2) then s.say k stBusy
    else if s.hubCut then s
    else ((s.hubWrite a (clean data)).storeTouched a n).say k stOk

/-! ### Programs (R165, R431, R432) -/

/-- IMAGE. -/
def State.askImage (s : State) (p : Pkt) (r off : Nat) (data : List Byte) : State :=
  s.ask p r (s.gated false false false) fun k s => s.putImage k off data

/-- LOAD: a failed device answers it by its own checks, whatever power its dies have (R496). -/
def State.askLoad (s : State) (p : Pkt) (r len : Nat) (ext : Option LoadExt) : State :=
  s.ask p r (s.gated false false (s.fld rBoot 63 60 != 4)) fun k s => s.load k len ext

/-- START (`start` true) and STEP (R432): a command that passes its checks waits for its partition; a STEP at BOUNDARY is checked at once. DEDUCED (log 53). -/
def State.askStep (s : State) (p : Pkt) (r : Nat) (start : Bool) (b : StepB) : State :=
  s.ask p r (s.gated false false true) fun k s =>
    let q := s.part b.part
    if 8 ≤ b.part ∨ 56 < b.words.length then s.say k stBadRequest
    else if !q.live then s.say k stNoProgram
    else if start ≠ (q.st == PState.loaded) then s.say k stBadRequest
    else if b.instant ≠ 0 ∧ s.fld rPtpStat 61 61 = 0 then s.say k stNoTime
    else if q.cmd.isSome then s.say k stBusy
    else if start && !q.blockOk b then s.say k stBadStepBlock
    else
      let s := s.updPart b.part (fun x => { x with cmd := some ⟨start, k, b⟩ })
      if q.st = .closed then s.checkStep b.part else s

/-- PARTITION_KILL. DEDUCED (log 53). -/
def State.askKill (s : State) (p : Pkt) (r part : Nat) : State :=
  s.ask p r (s.gated false false false) fun k s =>
    if 8 ≤ part then s.say k stBadRequest else (((s.terminate part tKill .none).setArb).settleRed).say k stOk

/-! ### Group tables (R358, R359) -/

/-- Distinct identities that tables name. DEDUCED (log 51). -/
def identities (l : List (Nat × Group)) : Nat := ((l.flatMap (fun e => e.2.ids.map (fun i => i.2.1))).foldr insertNat []).length

/-- A complete table takes the place of the group's: at once, or when its open epoch closes here. DEDUCED (log 51). -/
def State.putGroup (s : State) (k : Asker) (g : Nat) (t : Group) : State :=
  let s : State := { s with groupParts := Tab.del s.groupParts g }
  if t.ids.length ≠ t.size then s.say k stBadRequest
  else if 65536 < identities (Tab.put s.groups g t ++ Tab.del s.groupPend g) then s.say k stGroupLimit
  else if s.groupBusy g then ({ s with groupPend := Tab.put s.groupPend g t } : State).say k stOk
  else ({ s with groups := Tab.put s.groups g t, groupPend := Tab.del s.groupPend g } : State).say k stOk

/-- GROUP_SET: parts gather until the last; a part with FIRST 0, or with other fields than those gathered, begins a new table. DEDUCED (log 51). -/
def State.askGroup (s : State) (p : Pkt) (r g : Nat) (last : Bool) (host size rank first : Nat) (es : List (Nat × Nat)) : State :=
  s.ask p r (s.gated false false false) fun k s =>
    if 16 ≤ g ∨ size = 0 ∨ 32768 < size ∨ size ≤ host ∨ size ≤ rank ∨ size < first + es.length then s.say k stBadRequest
    else
      let old := match Tab.find s.groupParts g with
        | some t => if first ≠ 0 ∧ t.size = size ∧ t.rank = rank ∧ t.host = host then t.ids else []
        | none => []
      let t : Group := ⟨size, rank, host, es.zipIdx.foldl (fun m e => Tab.put m (first + e.2) e.1) old⟩
      if last then s.putGroup k g t else ({ s with groupParts := Tab.put s.groupParts g t } : State).say k stOk

/-! ### Maintenance, keys, firmware, attestation -/

/-- MAINT 0x01 to 0x05 need a compute die; 0x06 to 0x0C do not (R526). -/
def State.askMaint (s : State) (p : Pkt) (r : Nat) (compute : Bool) (f : Asker → State → State) : State := s.ask p r (s.gated false false compute) f

/-- KEY_SET (R494). -/
def State.askKey (s : State) (p : Pkt) (r : Nat) (f : Asker → State → State) : State := s.ask p r (s.gated true false false) f

/-- FW_IMAGE and ATTEST (R494, R495). -/
def State.askAlways (s : State) (p : Pkt) (r : Nat) (f : Asker → State → State) : State := s.ask p r (s.gated true true false) f

/-- MAINT 0x0A, warm reset (R495, R506): it takes effect after its reply. -/
def State.askWarmReset (s : State) (p : Pkt) (r : Nat) : State := s.ask p r (s.gated false true false) fun k s => (s.say k stOk).warmReset 1

/-- FW_IMAGE: a TARGET that is neither firmware nor a test pack is outside its limits (R429, R510). -/
def State.askFw (s : State) (p : Pkt) (r target : Nat) (f : Asker → State → State) : State :=
  s.askAlways p r fun a s => if 2 ≤ target then s.say a stBadRequest else f a s

/-- Data of FW_IMAGE that does not wait to be programmed: a test pack's, or refused. -/
def State.askFwData (s : State) (p : Pkt) (r target off : Nat) (data : List Byte) : State :=
  s.askFw p r target fun k s =>
    match s.fwRefusal p.conn target off data.length with
    | some st => s.say k st
    | none => s.packData k off data

end Sys2Proof.Machine
end

