-- ==== Sys2Proof/Machine/Receive.lean ====
section
/-! DEFINITION. Messages as they arrive (12 R416 to R427, R439; 11 R361, R382; 14 R510): the checks of a packet, the order in which messages take effect, and the meaning of every message row. -/

namespace Sys2Proof.Machine

/-! ### Reduction messages (R361, R382, R526) -/

/-- The identity that a group table lists for a rank is the sender's. -/
def State.isRank (s : State) (p : Pkt) (g r : Nat) : Bool := (s.rankId g r).any (fun x => x.1 == p.src)

/-- The sender is the group's host, or one of its members. -/
def State.isHost (s : State) (p : Pkt) (g : Nat) : Bool := (s.group g).any (fun t => s.isRank p g t.host)
def State.isMember (s : State) (p : Pkt) (g : Nat) : Bool := (s.group g).any (fun t => t.ids.any (fun e => e.2.1 == p.src))

/-- A reduction message: dropped in recovery (R495), stale with the compute dies off (R526), dropped and counted where the sender is not who the group table lists (R361). -/
def State.reduce (s : State) (trusted : Bool) (m : Msg) : State :=
  if s.fld rBoot 63 60 = 5 then s
  else if !s.computeOn then s.stale
  else if !trusted then s.addFld rRdrop 15 0 1
  else (s.gotMsg m).settleRed

/-- A cairn message: dropped in recovery (R495). -/
def State.cairnMsg (s : State) (f : State → State) : State := if s.fld rBoot 63 60 = 5 then s else f s

/-! ### What a message does -/

/-- REG_WRITE of one register. -/
def State.askOwn (s : State) (p : Pkt) (r a v : Nat) : State := s.askRegWrite p r a [v]

/-- The effect of a message whose turn has come. -/
def State.act (s : State) (i : Instr) : State :=
  match i with
  | .regRead p r n a => s.askRegRead p r n a
  | .regWrite p r a vs => s.askRegWrite p r a vs
  | .memRead p r n a => s.askMemRead p r n a
  | .memWrite p r a d => s.askMemWrite p r a d
  | .image p r o d => s.askImage p r o d
  | .load p r n e => s.askLoad p r n e
  | .start p r b => s.askStep p r true b
  | .step p r b => s.askStep p r false b
  | .partitionKill p r n => s.askKill p r n
  | .groupSet p r g l h sz k f es => s.askGroup p r g l h sz k f es
  | .runTestPack p r k n => s.askMaint p r true fun a s => s.runPack a k n
  | .startMarch p r n d => s.askMaint p r true fun a s => s.startMarch a n d
  | .stopMarch p r n => s.askMaint p r true fun a s => s.stopMarch a n
  | .retrainChannel p r q => s.askMaint p r true fun a s => s.retrainNow a q
  | .digestSweep p r n => s.askMaint p r true fun a s => s.startSweep a n
  | .clearUnitRecord p r n => s.askMaint p r false fun a s => s.clearRecord a n
  | .fenceUnit p r n => s.askMaint p r false fun a s => s.fenceUnit a n
  | .deleteTestPack p r n => s.askMaint p r false fun a s => s.deletePack a n
  | .setModuleConfiguration p r d => s.askMaint p r false fun a s => s.setConfig a d
  | .warmReset p r => s.askWarmReset p r
  | .enterShade p r => s.askMaint p r false fun a s => s.enterShade a
  | .leaveShade p r => s.askMaint p r false fun a s => s.leaveShade a
  | .installOwnerKey p r d => s.askKey p r fun a s => s.installOwner a d
  | .installPeerKey p r d => s.askKey p r fun a s => s.installPeer a d
  | .retireOwnerPrevious p r => s.askKey p r fun a s => s.retireKey a 1
  | .retirePeerPrevious p r => s.askKey p r fun a s => s.retireKey a 3
  | .release p r => s.askKey p r fun a s => s.releaseDevice a
  | .fwImageData p r t o d => s.askFwData p r t o d
  | .fwImageFinish p r t => s.askFw p r t fun a s => s.finishFw a t
  | .fwImageActivate p r t => s.askFw p r t fun a s => s.activateFw a t
  | .fwImageCommit p r t o => s.askFw p r t fun a s => s.commitFw a o
  | .fwImageAbort p r t => s.askFw p r t fun a s => s.abortFw a
  | .attest p r o d => s.askAlways p r fun a s => s.attest a o d
  | .roll p n d t rt => s.reduce (s.isHost p n.group) (.roll n d t rt)
  | .answer p n d v k => s.reduce (s.isRank p n.group k) (.answer n d v k)
  | .roster p n t l adm => s.reduce (s.isHost p n.group) (.roster n t l adm)
  | .contrib p n k f d => s.reduce (s.isRank p n.group k) (.contrib n k f d)
  | .rack p n k st a b c f => s.reduce (s.isRank p n.group k) (.rack n k st a b c f)
  | .done p n k a b => s.reduce (s.isRank p n.group k) (.done n k a b)
  | .admitRanks p n t u x => s.reduce (s.isHost p n.group) (.admitRanks n t u x)
  | .late p n k d => s.reduce (s.isRank p n.group k) (.late n k d)
  | .close p n o r inc => s.reduce (s.isMember p n.group) (.close n o r inc)
  | .result p n k l a b rf f d => s.reduce (s.isRank p n.group k) (.result n k l a b rf f d)
  | .abandon p n r => s.reduce (s.isHost p n.group) (.abandon n r)
  | .lost p n k => s.reduce (s.isRank p n.group k) (.lost n k)
  | .begin p b => s.cairnMsg fun s => s.gotBegin p.conn p.src b
  | .begun p b => s.cairnMsg fun s => s.gotBegun p.conn p.src b
  | .cairnData p o d => s.cairnMsg fun s => s.gotBlock p.conn p.src o d
  | .seal p b => s.cairnMsg fun s => s.gotSeal p.conn p.src b
  | .sealed p b => s.cairnMsg fun s => s.gotSealed p.conn p.src b
  | .fetch p b => s.cairnMsg fun s => s.gotFetch p.conn p.src b
  | .fetched p b => s.cairnMsg fun s => s.gotFetched p.conn p.src b
  | .stepNow p r v => s.askOwn p r rPtpCtrl v
  | .leakClr p r v => s.askOwn p r rFacCtrl v
  | .arithFlagClear p r c v => s.askOwn p r (rArith c) v
  | .talModeWrite p r q v => s.askOwn p r (rTalCtrl q) v
  | .digestRegionConfig p r n v => s.askOwn p r (rDgcfg n) v
  | .storeConfig p r v => s.askOwn p r rCstore v
  | .clientConfig p r v => s.askOwn p r rClient v
  | .tgOff p r q v => s.askOwn p r (rTgctl q) v
  | .tgReadCheck p r q v => s.askOwn p r (rTgctl q) v
  | .tgWriteCompare p r q v => s.askOwn p r (rTgctl q) v
  | .tgWriteOnly p r q v => s.askOwn p r (rTgctl q) v
  | _ => s

/-! ### Receiving (R416, R421 to R424) -/

/-- Held messages whose turn has come, at most `f` of them. -/
def State.pump (n : Nat) : Nat → State → State
  | 0, s => s
  | f + 1, s =>
    match (Tab.find s.conns n).bind Conn.ready with
    | some (i, c) => State.pump n f (({ s with conns := Tab.put s.conns n c } : State).act i)
    | none => s

/-- Messages held on a connection. -/
def State.heldCount (s : State) (n : Nat) : Nat := ((Tab.find s.conns n).map (fun c => c.held.length)).getD 0

/-- After a block: credit advances, an ACK goes where R421 asks for one at once, and what waits is sent. -/
def State.settleConn (s : State) (n : Nat) (ackNow : Bool) : State :=
  let s := s.grantSend n
  let s := if (Tab.find s.conns n).any (fun c => ackNow || decide (8 ≤ c.since) || !c.rxSeen.isEmpty) then s.sendAck n else s
  s.drain n

/-- A new block of a connection: a bulk message takes effect as it lands, any other in its turn (R423). DEDUCED (log 68). -/
def State.takeBlock (s : State) (p : Pkt) (bulk : Bool) (i : Instr) : State :=
  let s := s.updConn p.conn (fun c => c.take p.seq (if bulk then none else some i))
  let s := if bulk then s.act i else s
  s.pump p.conn (s.heldCount p.conn)

/-- Data of a firmware image that waits to be programmed is taken when it is in flash (R423, R510). DEDUCED (log 68). -/
def State.deferred (s : State) (i : Instr) : Bool :=
  match i with
  | .fwImageData p r t o d => t == 0 && (s.fwRefusal p.conn 0 o d.length).isNone && !s.kept.any (fun k => k.owner == p.src && k.req == r && k.reply.isSome)
  | _ => false

/-- A deferred block joins the queue once. DEDUCED (log 68). -/
def State.deferBlock (s : State) (i : Instr) : State :=
  match i with
  | .fwImageData p r _ o d =>
    if s.update.any (fun u => u.queue.any (fun b => b.seq == p.seq)) then s
    else ({ s with kept := if s.kept.any (fun k => k.owner == p.src && k.req == r) then s.kept else remember s.kept p.src r } : State).queueFw ⟨p.conn, p.src, r⟩ p.seq o d
  | _ => s

/-- A packet of a key class arrives with a message. A duplicate is acknowledged again; one beyond the credit given is dropped. DEDUCED (log 50). -/
def State.receive (s : State) (p : Pkt) (cls : Nat) (bulk : Bool) (i : Instr) : State :=
  if s.power.railsOff then s
  else
    match s.checkHead p cls with
    | some d => s.dropPacket d
    | none =>
      match s.checkConn p cls with
      | .error d => s.dropPacket d
      | .ok _ =>
        let s := s.accept p 0
        match Tab.find s.conns p.conn with
        | none => s
        | some c =>
          if c.theirs = 0 then s
          else if !c.isNew p.seq then (if seqBefore c.granted p.seq then s else s.sendAck p.conn).drain p.conn
          else if s.deferred i then (s.deferBlock i).settleConn p.conn p.ackNow
          else (s.takeBlock p bulk i).settleConn p.conn p.ackNow

/-- FLASH_PROGRAM_COMPLETE (R423, R510, R512): an erase ends, or the front block is in flash, and is acknowledged and answered. DEDUCED (log 49). DEDUCED (log 68). -/
def execFlashProgramComplete (s : State) : Host.Outcome State Fault Refusal :=
  guardWf (Instr.wf .flashProgramComplete) s fun s =>
    match s.update with
    | none => s
    | some u =>
      if u.erase then { s with update := some { u with erase := false } }
      else
        match u.queue with
        | [] => s
        | b :: r =>
          let bank := s.idleBank
          let s := s.setIdle ⟨false, putBytes (if bank.shipped then [] else bank.bytes) b.off b.data⟩
          let s : State := { s with update := some { u with queue := r } }
          let s := (s.updConn u.conn (fun c => c.take b.seq none)).say b.ask stOk
          ((s.pump u.conn (s.heldCount u.conn)).sendAck u.conn).settleConn u.conn false

/-! ### The message rows -/

/-- REG_READ (R428, R504). -/
def execRegRead (p : Pkt) (r count addr : Nat) (s : State) : Host.Outcome State Fault Refusal :=
  guardWf (Instr.wf (.regRead p r count addr)) s fun s => s.receive p 0 false (.regRead p r count addr)

/-- REG_WRITE (R428, R505). -/
def execRegWrite (p : Pkt) (r addr : Nat) (vals : List Nat) (s : State) : Host.Outcome State Fault Refusal :=
  guardWf (Instr.wf (.regWrite p r addr vals)) s fun s => s.receive p 0 false (.regWrite p r addr vals)

/-- MEM_READ (R430, R449). -/
def execMemRead (p : Pkt) (r len dpa : Nat) (s : State) : Host.Outcome State Fault Refusal :=
  guardWf (Instr.wf (.memRead p r len dpa)) s fun s => s.receive p 0 false (.memRead p r len dpa)

/-- MEM_WRITE (R430, R468). -/
def execMemWrite (p : Pkt) (r dpa : Nat) (data : List Byte) (s : State) : Host.Outcome State Fault Refusal :=
  guardWf (Instr.wf (.memWrite p r dpa data)) s fun s => s.receive p 0 true (.memWrite p r dpa data)

/-- IMAGE (R431). -/
def execImage (p : Pkt) (r off : Nat) (data : List Byte) (s : State) : Host.Outcome State Fault Refusal :=
  guardWf (Instr.wf (.image p r off data)) s fun s => s.receive p 0 true (.image p r off data)

/-- LOAD (R171, R431, R475 to R477). -/
def execLoad (p : Pkt) (r len : Nat) (ext : Option LoadExt) (s : State) : Host.Outcome State Fault Refusal :=
  guardWf (Instr.wf (.load p r len ext)) s fun s => s.receive p 0 false (.load p r len ext)

/-- START (R432). -/
def execStart (p : Pkt) (r : Nat) (b : StepB) (s : State) : Host.Outcome State Fault Refusal :=
  guardWf (Instr.wf (.start p r b)) s fun s => s.receive p 0 false (.start p r b)

/-- STEP (R432). -/
def execStep (p : Pkt) (r : Nat) (b : StepB) (s : State) : Host.Outcome State Fault Refusal :=
  guardWf (Instr.wf (.step p r b)) s fun s => s.receive p 0 false (.step p r b)

/-- PARTITION_KILL (R165). -/
def execPartitionKill (p : Pkt) (r part : Nat) (s : State) : Host.Outcome State Fault Refusal :=
  guardWf (Instr.wf (.partitionKill p r part)) s fun s => s.receive p 0 false (.partitionKill p r part)

/-- GROUP_SET (R358, R359, R428). -/
def execGroupSet (p : Pkt) (r group : Nat) (last : Bool) (hostr size rank first : Nat) (entries : List (Nat × Nat)) (s : State) : Host.Outcome State Fault Refusal :=
  guardWf (Instr.wf (.groupSet p r group last hostr size rank first entries)) s fun s => s.receive p 0 false (.groupSet p r group last hostr size rank first entries)

/-- MAINT 0x01, run test pack (R457, R458, R506). -/
def execRunTestPack (p : Pkt) (r pack unit : Nat) (s : State) : Host.Outcome State Fault Refusal :=
  guardWf (Instr.wf (.runTestPack p r pack unit)) s fun s => s.receive p 0 false (.runTestPack p r pack unit)

/-- MAINT 0x02, start march (R308, R506). -/
def execStartMarch (p : Pkt) (r slice : Nat) (destructive : Bool) (s : State) : Host.Outcome State Fault Refusal :=
  guardWf (Instr.wf (.startMarch p r slice destructive)) s fun s => s.receive p 0 false (.startMarch p r slice destructive)

/-- MAINT 0x03, stop march (R310, R506). -/
def execStopMarch (p : Pkt) (r slice : Nat) (s : State) : Host.Outcome State Fault Refusal :=
  guardWf (Instr.wf (.stopMarch p r slice)) s fun s => s.receive p 0 false (.stopMarch p r slice)

/-- MAINT 0x04, retrain channel (R345, R506). -/
def execRetrainChannel (p : Pkt) (r q : Nat) (s : State) : Host.Outcome State Fault Refusal :=
  guardWf (Instr.wf (.retrainChannel p r q)) s fun s => s.receive p 0 false (.retrainChannel p r q)

/-- MAINT 0x05, digest sweep (R354, R506). -/
def execDigestSweep (p : Pkt) (r n : Nat) (s : State) : Host.Outcome State Fault Refusal :=
  guardWf (Instr.wf (.digestSweep p r n)) s fun s => s.receive p 0 false (.digestSweep p r n)

/-- MAINT 0x06, clear unit record (R455, R506). -/
def execClearUnitRecord (p : Pkt) (r unit : Nat) (s : State) : Host.Outcome State Fault Refusal :=
  guardWf (Instr.wf (.clearUnitRecord p r unit)) s fun s => s.receive p 0 false (.clearUnitRecord p r unit)

/-- MAINT 0x07, fence unit (R456, R506). -/
def execFenceUnit (p : Pkt) (r unit : Nat) (s : State) : Host.Outcome State Fault Refusal :=
  guardWf (Instr.wf (.fenceUnit p r unit)) s fun s => s.receive p 0 false (.fenceUnit p r unit)

/-- MAINT 0x08, delete test pack (R506). -/
def execDeleteTestPack (p : Pkt) (r pack : Nat) (s : State) : Host.Outcome State Fault Refusal :=
  guardWf (Instr.wf (.deleteTestPack p r pack)) s fun s => s.receive p 0 false (.deleteTestPack p r pack)

/-- MAINT 0x09, set module configuration (R506, R507). -/
def execSetModuleConfiguration (p : Pkt) (r : Nat) (data : List Byte) (s : State) : Host.Outcome State Fault Refusal :=
  guardWf (Instr.wf (.setModuleConfiguration p r data)) s fun s => s.receive p 0 false (.setModuleConfiguration p r data)

/-- MAINT 0x0A, warm reset (R506, R532). -/
def execWarmReset (p : Pkt) (r : Nat) (s : State) : Host.Outcome State Fault Refusal :=
  guardWf (Instr.wf (.warmReset p r)) s fun s => s.receive p 0 false (.warmReset p r)

/-- MAINT 0x0B, enter Shade (R525). -/
def execEnterShade (p : Pkt) (r : Nat) (s : State) : Host.Outcome State Fault Refusal :=
  guardWf (Instr.wf (.enterShade p r)) s fun s => s.receive p 0 false (.enterShade p r)

/-- MAINT 0x0C, leave Shade (R527). -/
def execLeaveShade (p : Pkt) (r : Nat) (s : State) : Host.Outcome State Fault Refusal :=
  guardWf (Instr.wf (.leaveShade p r)) s fun s => s.receive p 0 false (.leaveShade p r)

/-- KEY_SET 0x01, install owner key (R498, R499). -/
def execInstallOwnerKey (p : Pkt) (r : Nat) (wrapped : List Byte) (s : State) : Host.Outcome State Fault Refusal :=
  guardWf (Instr.wf (.installOwnerKey p r wrapped)) s fun s => s.receive p 0 false (.installOwnerKey p r wrapped)

/-- KEY_SET 0x02, install peer key (R499). -/
def execInstallPeerKey (p : Pkt) (r : Nat) (wrapped : List Byte) (s : State) : Host.Outcome State Fault Refusal :=
  guardWf (Instr.wf (.installPeerKey p r wrapped)) s fun s => s.receive p 0 false (.installPeerKey p r wrapped)

/-- KEY_SET 0x03, retire owner previous (R499). -/
def execRetireOwnerPrevious (p : Pkt) (r : Nat) (s : State) : Host.Outcome State Fault Refusal :=
  guardWf (Instr.wf (.retireOwnerPrevious p r)) s fun s => s.receive p 0 false (.retireOwnerPrevious p r)

/-- KEY_SET 0x04, retire peer previous (R499). -/
def execRetirePeerPrevious (p : Pkt) (r : Nat) (s : State) : Host.Outcome State Fault Refusal :=
  guardWf (Instr.wf (.retirePeerPrevious p r)) s fun s => s.receive p 0 false (.retirePeerPrevious p r)

/-- KEY_SET 0x05, release (R499, R557). -/
def execRelease (p : Pkt) (r : Nat) (s : State) : Host.Outcome State Fault Refusal :=
  guardWf (Instr.wf (.release p r)) s fun s => s.receive p 0 false (.release p r)

/-- FW_IMAGE 0x01, data (R510, R511). -/
def execFwImageData (p : Pkt) (r target off : Nat) (data : List Byte) (s : State) : Host.Outcome State Fault Refusal :=
  guardWf (Instr.wf (.fwImageData p r target off data)) s fun s => s.receive p 0 true (.fwImageData p r target off data)

/-- FW_IMAGE 0x02, finish (R490, R510). -/
def execFwImageFinish (p : Pkt) (r target : Nat) (s : State) : Host.Outcome State Fault Refusal :=
  guardWf (Instr.wf (.fwImageFinish p r target)) s fun s => s.receive p 0 false (.fwImageFinish p r target)

/-- FW_IMAGE 0x03, activate (R510). -/
def execFwImageActivate (p : Pkt) (r target : Nat) (s : State) : Host.Outcome State Fault Refusal :=
  guardWf (Instr.wf (.fwImageActivate p r target)) s fun s => s.receive p 0 false (.fwImageActivate p r target)

/-- FW_IMAGE 0x04, commit (R510). -/
def execFwImageCommit (p : Pkt) (r target off : Nat) (s : State) : Host.Outcome State Fault Refusal :=
  guardWf (Instr.wf (.fwImageCommit p r target off)) s fun s => s.receive p 0 false (.fwImageCommit p r target off)

/-- FW_IMAGE 0x05, abort (R510). -/
def execFwImageAbort (p : Pkt) (r target : Nat) (s : State) : Host.Outcome State Fault Refusal :=
  guardWf (Instr.wf (.fwImageAbort p r target)) s fun s => s.receive p 0 false (.fwImageAbort p r target)

/-- ATTEST (R501, R502). -/
def execAttest (p : Pkt) (r off : Nat) (nonce : List Byte) (s : State) : Host.Outcome State Fault Refusal :=
  guardWf (Instr.wf (.attest p r off nonce)) s fun s => s.receive p 0 false (.attest p r off nonce)

/-- ROLL (R377, R378). -/
def execRoll (p : Pkt) (n : EpName) (digest deadline rcDeadline : Nat) (s : State) : Host.Outcome State Fault Refusal :=
  guardWf (Instr.wf (.roll p n digest deadline rcDeadline)) s fun s => s.receive p 1 false (.roll p n digest deadline rcDeadline)

/-- ANSWER (R378, R379). -/
def execAnswer (p : Pkt) (n : EpName) (digest ver rank : Nat) (s : State) : Host.Outcome State Fault Refusal :=
  guardWf (Instr.wf (.answer p n digest ver rank)) s fun s => s.receive p 1 false (.answer p n digest ver rank)

/-- ROSTER (R378, R381). -/
def execRoster (p : Pkt) (n : EpName) (deadline : Nat) (listener : Bool) (admitted : List Nat) (s : State) : Host.Outcome State Fault Refusal :=
  guardWf (Instr.wf (.roster p n deadline listener admitted)) s fun s => s.receive p 1 false (.roster p n deadline listener admitted)

/-- CONTRIB (R382). -/
def execContrib (p : Pkt) (n : EpName) (rank first : Nat) (data : List (Byte × Bool)) (s : State) : Host.Outcome State Fault Refusal :=
  guardWf (Instr.wf (.contrib p n rank first data)) s fun s => s.receive p 1 true (.contrib p n rank first data)

/-- RACK (R382, R440). -/
def execRack (p : Pkt) (n : EpName) (rank status : Nat) (nan poison : Bool) (cred first : Nat) (s : State) : Host.Outcome State Fault Refusal :=
  guardWf (Instr.wf (.rack p n rank status nan poison cred first)) s fun s => s.receive p 1 false (.rack p n rank status nan poison cred first)

/-- DONE (R383, R384). -/
def execDone (p : Pkt) (n : EpName) (rank : Nat) (nan poison : Bool) (s : State) : Host.Outcome State Fault Refusal :=
  guardWf (Instr.wf (.done p n rank nan poison)) s fun s => s.receive p 1 false (.done p n rank nan poison)

/-- ADMIT (R385, R391). -/
def execAdmit (p : Pkt) (n : EpName) (deadline : Nat) (upTo : Option Nat) (excluded : List Nat) (s : State) : Host.Outcome State Fault Refusal :=
  guardWf (Instr.wf (.admitRanks p n deadline upTo excluded)) s fun s => s.receive p 1 false (.admitRanks p n deadline upTo excluded)

/-- LATE (R399). -/
def execLate (p : Pkt) (n : EpName) (rank delay : Nat) (s : State) : Host.Outcome State Fault Refusal :=
  guardWf (Instr.wf (.late p n rank delay)) s fun s => s.receive p 1 false (.late p n rank delay)

/-- CLOSE (R386 to R388). -/
def execClose (p : Pkt) (n : EpName) (outcome : Nat) (record : List Byte) (included : List Nat) (s : State) : Host.Outcome State Fault Refusal :=
  guardWf (Instr.wf (.close p n outcome record included)) s fun s => s.receive p 1 false (.close p n outcome record included)

/-- RESULT (R387). -/
def execResult (p : Pkt) (n : EpName) (rank : Nat) (longSum sumNan poison : Bool) (rfmt first : Nat) (data : List (Byte × Bool)) (s : State) : Host.Outcome State Fault Refusal :=
  guardWf (Instr.wf (.result p n rank longSum sumNan poison rfmt first data)) s fun s => s.receive p 1 true (.result p n rank longSum sumNan poison rfmt first data)

/-- ABANDON (R400). -/
def execAbandon (p : Pkt) (n : EpName) (reason : Nat) (s : State) : Host.Outcome State Fault Refusal :=
  guardWf (Instr.wf (.abandon p n reason)) s fun s => s.receive p 1 false (.abandon p n reason)

/-- LOST (R400). -/
def execLost (p : Pkt) (n : EpName) (rank : Nat) (s : State) : Host.Outcome State Fault Refusal :=
  guardWf (Instr.wf (.lost p n rank)) s fun s => s.receive p 1 false (.lost p n rank)

/-- CAIRN_CTL BEGIN (R472, R474). -/
def execBegin (p : Pkt) (b : CtlB) (s : State) : Host.Outcome State Fault Refusal :=
  guardWf (Instr.wf (.begin p b)) s fun s => s.receive p 1 false (.begin p b)

/-- CAIRN_CTL BEGUN (R472). -/
def execBegun (p : Pkt) (b : CtlB) (s : State) : Host.Outcome State Fault Refusal :=
  guardWf (Instr.wf (.begun p b)) s fun s => s.receive p 1 false (.begun p b)

/-- CAIRN_DATA (R472, R476). -/
def execCairnData (p : Pkt) (off : Nat) (data : List Byte) (s : State) : Host.Outcome State Fault Refusal :=
  guardWf (Instr.wf (.cairnData p off data)) s fun s => s.receive p 1 true (.cairnData p off data)

/-- CAIRN_CTL SEAL (R472). -/
def execSeal (p : Pkt) (b : CtlB) (s : State) : Host.Outcome State Fault Refusal :=
  guardWf (Instr.wf (.seal p b)) s fun s => s.receive p 1 false (.seal p b)

/-- CAIRN_CTL SEALED (R472). -/
def execSealed (p : Pkt) (b : CtlB) (s : State) : Host.Outcome State Fault Refusal :=
  guardWf (Instr.wf (.sealed p b)) s fun s => s.receive p 1 false (.sealed p b)

/-- CAIRN_CTL FETCH (R474, R476). -/
def execFetch (p : Pkt) (b : CtlB) (s : State) : Host.Outcome State Fault Refusal :=
  guardWf (Instr.wf (.fetch p b)) s fun s => s.receive p 1 false (.fetch p b)

/-- CAIRN_CTL FETCHED (R476). -/
def execFetched (p : Pkt) (b : CtlB) (s : State) : Host.Outcome State Fault Refusal :=
  guardWf (Instr.wf (.fetched p b)) s fun s => s.receive p 1 false (.fetched p b)

/-- REG_WRITE of PTP_CTRL with STEPNOW (R436). -/
def execStepNow (p : Pkt) (r v : Nat) (s : State) : Host.Outcome State Fault Refusal :=
  guardWf (Instr.wf (.stepNow p r v)) s fun s => s.receive p 0 false (.stepNow p r v)

/-- REG_WRITE of FAC_CTRL with LEAKCLR (R530). -/
def execLeakClr (p : Pkt) (r v : Nat) (s : State) : Host.Outcome State Fault Refusal :=
  guardWf (Instr.wf (.leakClr p r v)) s fun s => s.receive p 0 false (.leakClr p r v)

/-- REG_WRITE of ENG_ARITH of a logical core (R73, R505). -/
def execArithFlagClear (p : Pkt) (r c v : Nat) (s : State) : Host.Outcome State Fault Refusal :=
  guardWf (Instr.wf (.arithFlagClear p r c v)) s fun s => s.receive p 0 false (.arithFlagClear p r c v)

/-- REG_WRITE of TAL_CTRL (R406). -/
def execTalModeWrite (p : Pkt) (r q v : Nat) (s : State) : Host.Outcome State Fault Refusal :=
  guardWf (Instr.wf (.talModeWrite p r q v)) s fun s => s.receive p 0 false (.talModeWrite p r q v)

/-- REG_WRITE of HMC_DGCFGn (R357, R553). -/
def execDigestRegionConfig (p : Pkt) (r n v : Nat) (s : State) : Host.Outcome State Fault Refusal :=
  guardWf (Instr.wf (.digestRegionConfig p r n v)) s fun s => s.receive p 0 false (.digestRegionConfig p r n v)

/-- REG_WRITE of MNT_CSTORE (R471, R559). -/
def execStoreConfig (p : Pkt) (r v : Nat) (s : State) : Host.Outcome State Fault Refusal :=
  guardWf (Instr.wf (.storeConfig p r v)) s fun s => s.receive p 0 false (.storeConfig p r v)

/-- REG_WRITE of MNT_CLIENT (R484). -/
def execClientConfig (p : Pkt) (r v : Nat) (s : State) : Host.Outcome State Fault Refusal :=
  guardWf (Instr.wf (.clientConfig p r v)) s fun s => s.receive p 0 false (.clientConfig p r v)

/-- REG_WRITE of HMC_TGCTL with MODE 0x0 (R355, R552). -/
def execTgOff (p : Pkt) (r q v : Nat) (s : State) : Host.Outcome State Fault Refusal :=
  guardWf (Instr.wf (.tgOff p r q v)) s fun s => s.receive p 0 false (.tgOff p r q v)

/-- REG_WRITE of HMC_TGCTL with MODE 0x1 (R355). -/
def execTgReadCheck (p : Pkt) (r q v : Nat) (s : State) : Host.Outcome State Fault Refusal :=
  guardWf (Instr.wf (.tgReadCheck p r q v)) s fun s => s.receive p 0 false (.tgReadCheck p r q v)

/-- REG_WRITE of HMC_TGCTL with MODE 0x2 (R355). -/
def execTgWriteCompare (p : Pkt) (r q v : Nat) (s : State) : Host.Outcome State Fault Refusal :=
  guardWf (Instr.wf (.tgWriteCompare p r q v)) s fun s => s.receive p 0 false (.tgWriteCompare p r q v)

/-- REG_WRITE of HMC_TGCTL with MODE 0x3 (R355). -/
def execTgWriteOnly (p : Pkt) (r q v : Nat) (s : State) : Host.Outcome State Fault Refusal :=
  guardWf (Instr.wf (.tgWriteOnly p r q v)) s fun s => s.receive p 0 false (.tgWriteOnly p r q v)

end Sys2Proof.Machine
end

