-- ==== Sys2Proof/Machine/Dispatch.lean ====
section
/-! DEFINITION. The dispatch: one arm for each command, a direct call of its meaning. -/

namespace Sys2Proof.Machine

/-- The effect of a command on everything but the queue of waiting commands. -/
def exec (i : Instr) (s : State) : Host.Outcome State Fault Refusal :=
  match i with
  | .nop a0 a1 => Sys2Proof.Machine.execNop a0 a1 s
  | .endStream a0 a1 => Sys2Proof.Machine.execEndStream a0 a1 s
  | .loop a0 a1 a2 => Sys2Proof.Machine.execLoop a0 a1 a2 s
  | .boundary a0 a1 => Sys2Proof.Machine.execBoundary a0 a1 s
  | .phase a0 a1 a2 a3 => Sys2Proof.Machine.execPhase a0 a1 a2 a3 s
  | .fadd a0 a1 a2 a3 => Sys2Proof.Machine.execFadd a0 a1 a2 a3 s
  | .faddr a0 a1 a2 a3 a4 => Sys2Proof.Machine.execFaddr a0 a1 a2 a3 a4 s
  | .fwait a0 a1 a2 a3 => Sys2Proof.Machine.execFwait a0 a1 a2 a3 s
  | .agbase a0 a1 a2 a3 => Sys2Proof.Machine.execAgbase a0 a1 a2 a3 s
  | .agstr a0 a1 a2 a3 a4 a5 => Sys2Proof.Machine.execAgstr a0 a1 a2 a3 a4 a5 s
  | .cset a0 a1 a2 => Sys2Proof.Machine.execCset a0 a1 a2 s
  | .cload a0 a1 a2 a3 => Sys2Proof.Machine.execCload a0 a1 a2 a3 s
  | .move a0 a1 a2 => Sys2Proof.Machine.execMove a0 a1 a2 s
  | .qload a0 a1 a2 => Sys2Proof.Machine.execQload a0 a1 a2 s
  | .qstore a0 a1 a2 => Sys2Proof.Machine.execQstore a0 a1 a2 s
  | .sload a0 a1 a2 => Sys2Proof.Machine.execSload a0 a1 a2 s
  | .gather a0 a1 a2 => Sys2Proof.Machine.execGather a0 a1 a2 s
  | .pfetch a0 a1 a2 => Sys2Proof.Machine.execPfetch a0 a1 a2 s
  | .repoch a0 a1 a2 a3 a4 => Sys2Proof.Machine.execRepoch a0 a1 a2 a3 a4 s
  | .racc a0 a1 a2 => Sys2Proof.Machine.execRacc a0 a1 a2 s
  | .rwait a0 a1 a2 a3 a4 => Sys2Proof.Machine.execRwait a0 a1 a2 a3 a4 s
  | .ops a0 a1 a2 => Sys2Proof.Machine.execOps a0 a1 a2 s
  | .amode a0 a1 a2 => Sys2Proof.Machine.execAmode a0 a1 a2 s
  | .preload a0 a1 a2 => Sys2Proof.Machine.execPreload a0 a1 a2 s
  | .ddesc a0 a1 a2 => Sys2Proof.Machine.execDdesc a0 a1 a2 s
  | .drain a0 a1 a2 => Sys2Proof.Machine.execDrain a0 a1 a2 s
  | .rx a0 a1 a2 => Sys2Proof.Machine.execRx a0 a1 a2 s
  | .rebase a0 a1 a2 a3 => Sys2Proof.Machine.execRebase a0 a1 a2 a3 s
  | .qmove a0 a1 a2 a3 a4 => Sys2Proof.Machine.execQmove a0 a1 a2 a3 a4 s
  | .modeChange a0 a1 => Sys2Proof.Machine.execModeChange a0 a1 s
  | .preloadRowWrite a0 a1 a2 a3 => Sys2Proof.Machine.execPreloadRowWrite a0 a1 a2 a3 s
  | .drainRowRead a0 a1 a2 a3 => Sys2Proof.Machine.execDrainRowRead a0 a1 a2 a3 s
  | .drainPush a0 a1 a2 => Sys2Proof.Machine.execDrainPush a0 a1 a2 s
  | .topkPush a0 a1 a2 => Sys2Proof.Machine.execTopkPush a0 a1 a2 s
  | .columnBlockEmit a0 a1 a2 => Sys2Proof.Machine.execColumnBlockEmit a0 a1 a2 s
  | .rxGroup a0 a1 => Sys2Proof.Machine.execRxGroup a0 a1 s
  | .claimGrant a0 a1 a2 => Sys2Proof.Machine.execClaimGrant a0 a1 a2 s
  | .completionFlagAdd a0 a1 => Sys2Proof.Machine.execCompletionFlagAdd a0 a1 s
  | .loopEntryLatch a0 a1 => Sys2Proof.Machine.execLoopEntryLatch a0 a1 s
  | .countSlotWrite a0 a1 => Sys2Proof.Machine.execCountSlotWrite a0 a1 s
  | .queuePush a0 a1 => Sys2Proof.Machine.execQueuePush a0 a1 s
  | .queuePop a0 a1 a2 => Sys2Proof.Machine.execQueuePop a0 a1 a2 s
  | .requestSend a0 => Sys2Proof.Machine.execRequestSend a0 s
  | .hamperAccess a0 a1 a2 => Sys2Proof.Machine.execHamperAccess a0 a1 a2 s
  | .arrayStepEntry a0 a1 a2 a3 a4 a5 => Sys2Proof.Machine.execArrayStepEntry a0 a1 a2 a3 a4 a5 s
  | .strollGapExpiry a0 a1 => Sys2Proof.Machine.execStrollGapExpiry a0 a1 s
  | .rampStage a0 a1 => Sys2Proof.Machine.execRampStage a0 a1 s
  | .hwFault a0 => Sys2Proof.Machine.execHwFault a0 s
  | .streamStart a0 => Sys2Proof.Machine.execStreamStart a0 s
  | .stepClose a0 => Sys2Proof.Machine.execStepClose a0 s
  | .stepOpen a0 => Sys2Proof.Machine.execStepOpen a0 s
  | .programEnd a0 => Sys2Proof.Machine.execProgramEnd a0 s
  | .partitionRelease a0 => Sys2Proof.Machine.execPartitionRelease a0 s
  | .stallTimeout a0 => Sys2Proof.Machine.execStallTimeout a0 s
  | .sliceRead a0 a1 a2 => Sys2Proof.Machine.execSliceRead a0 a1 a2 s
  | .sliceWrite a0 => Sys2Proof.Machine.execSliceWrite a0 s
  | .sliceScrub a0 a1 a2 => Sys2Proof.Machine.execSliceScrub a0 a1 a2 s
  | .potluckContribution a0 => Sys2Proof.Machine.execPotluckContribution a0 s
  | .potluckRoundApply a0 a1 => Sys2Proof.Machine.execPotluckRoundApply a0 a1 s
  | .remoteFlagAdd a0 => Sys2Proof.Machine.execRemoteFlagAdd a0 s
  | .readResponseLand a0 => Sys2Proof.Machine.execReadResponseLand a0 s
  | .writeAcknowledge a0 => Sys2Proof.Machine.execWriteAcknowledge a0 s
  | .bridgeBlockReceive a0 a1 a2 a3 => Sys2Proof.Machine.execBridgeBlockReceive a0 a1 a2 a3 s
  | .bridgeNack a0 a1 a2 => Sys2Proof.Machine.execBridgeNack a0 a1 a2 s
  | .bridgeAck a0 a1 a2 => Sys2Proof.Machine.execBridgeAck a0 a1 a2 s
  | .linkRetrainEnd a0 a1 a2 => Sys2Proof.Machine.execLinkRetrainEnd a0 a1 a2 s
  | .routerFailure a0 a1 => Sys2Proof.Machine.execRouterFailure a0 a1 s
  | .marchComplete a0 a1 => Sys2Proof.Machine.execMarchComplete a0 a1 s
  | .hmcRead a0 a1 a2 a3 => Sys2Proof.Machine.execHmcRead a0 a1 a2 a3 s
  | .hmcWrite a0 => Sys2Proof.Machine.execHmcWrite a0 s
  | .refresh a0 a1 => Sys2Proof.Machine.execRefresh a0 a1 s
  | .hmcScrub a0 a1 a2 => Sys2Proof.Machine.execHmcScrub a0 a1 a2 s
  | .temperatureReadout a0 a1 => Sys2Proof.Machine.execTemperatureReadout a0 a1 s
  | .channelRetraining a0 => Sys2Proof.Machine.execChannelRetraining a0 s
  | .retrainingEnd a0 a1 a2 a3 => Sys2Proof.Machine.execRetrainingEnd a0 a1 a2 a3 s
  | .tallyAdd a0 a1 => Sys2Proof.Machine.execTallyAdd a0 a1 s
  | .digestSweepComplete a0 => Sys2Proof.Machine.execDigestSweepComplete a0 s
  | .tgRunComplete a0 a1 a2 a3 a4 a5 => Sys2Proof.Machine.execTgRunComplete a0 a1 a2 a3 a4 a5 s
  | .refreshManagement a0 => Sys2Proof.Machine.execRefreshManagement a0 s
  | .interfaceError a0 => Sys2Proof.Machine.execInterfaceError a0 s
  | .openConn a0 a1 a2 a3 a4 => Sys2Proof.Machine.execOpenConn a0 a1 a2 a3 a4 s
  | .openAck a0 a1 a2 a3 a4 => Sys2Proof.Machine.execOpenAck a0 a1 a2 a3 a4 s
  | .ack a0 a1 => Sys2Proof.Machine.execAck a0 a1 s
  | .ackTimer a0 => Sys2Proof.Machine.execAckTimer a0 s
  | .resendTimer a0 a1 => Sys2Proof.Machine.execResendTimer a0 a1 s
  | .halfOpenTimeout a0 => Sys2Proof.Machine.execHalfOpenTimeout a0 s
  | .regRead a0 a1 a2 a3 => Sys2Proof.Machine.execRegRead a0 a1 a2 a3 s
  | .regWrite a0 a1 a2 a3 => Sys2Proof.Machine.execRegWrite a0 a1 a2 a3 s
  | .memRead a0 a1 a2 a3 => Sys2Proof.Machine.execMemRead a0 a1 a2 a3 s
  | .memWrite a0 a1 a2 a3 => Sys2Proof.Machine.execMemWrite a0 a1 a2 a3 s
  | .image a0 a1 a2 a3 => Sys2Proof.Machine.execImage a0 a1 a2 a3 s
  | .imageAssemblyTimeout => Sys2Proof.Machine.execImageAssemblyTimeout s
  | .load a0 a1 a2 a3 => Sys2Proof.Machine.execLoad a0 a1 a2 a3 s
  | .start a0 a1 a2 => Sys2Proof.Machine.execStart a0 a1 a2 s
  | .step a0 a1 a2 => Sys2Proof.Machine.execStep a0 a1 a2 s
  | .partitionKill a0 a1 a2 => Sys2Proof.Machine.execPartitionKill a0 a1 a2 s
  | .groupSet a0 a1 a2 a3 a4 a5 a6 a7 a8 => Sys2Proof.Machine.execGroupSet a0 a1 a2 a3 a4 a5 a6 a7 a8 s
  | .runTestPack a0 a1 a2 a3 => Sys2Proof.Machine.execRunTestPack a0 a1 a2 a3 s
  | .testComplete a0 a1 => Sys2Proof.Machine.execTestComplete a0 a1 s
  | .testRunmaxExpiry a0 => Sys2Proof.Machine.execTestRunmaxExpiry a0 s
  | .startMarch a0 a1 a2 a3 => Sys2Proof.Machine.execStartMarch a0 a1 a2 a3 s
  | .stopMarch a0 a1 a2 => Sys2Proof.Machine.execStopMarch a0 a1 a2 s
  | .retrainChannel a0 a1 a2 => Sys2Proof.Machine.execRetrainChannel a0 a1 a2 s
  | .digestSweep a0 a1 a2 => Sys2Proof.Machine.execDigestSweep a0 a1 a2 s
  | .clearUnitRecord a0 a1 a2 => Sys2Proof.Machine.execClearUnitRecord a0 a1 a2 s
  | .fenceUnit a0 a1 a2 => Sys2Proof.Machine.execFenceUnit a0 a1 a2 s
  | .deleteTestPack a0 a1 a2 => Sys2Proof.Machine.execDeleteTestPack a0 a1 a2 s
  | .setModuleConfiguration a0 a1 a2 => Sys2Proof.Machine.execSetModuleConfiguration a0 a1 a2 s
  | .warmReset a0 a1 => Sys2Proof.Machine.execWarmReset a0 a1 s
  | .enterShade a0 a1 => Sys2Proof.Machine.execEnterShade a0 a1 s
  | .leaveShade a0 a1 => Sys2Proof.Machine.execLeaveShade a0 a1 s
  | .installOwnerKey a0 a1 a2 => Sys2Proof.Machine.execInstallOwnerKey a0 a1 a2 s
  | .installPeerKey a0 a1 a2 => Sys2Proof.Machine.execInstallPeerKey a0 a1 a2 s
  | .retireOwnerPrevious a0 a1 => Sys2Proof.Machine.execRetireOwnerPrevious a0 a1 s
  | .retirePeerPrevious a0 a1 => Sys2Proof.Machine.execRetirePeerPrevious a0 a1 s
  | .release a0 a1 => Sys2Proof.Machine.execRelease a0 a1 s
  | .fwImageData a0 a1 a2 a3 a4 => Sys2Proof.Machine.execFwImageData a0 a1 a2 a3 a4 s
  | .fwImageFinish a0 a1 a2 => Sys2Proof.Machine.execFwImageFinish a0 a1 a2 s
  | .fwImageActivate a0 a1 a2 => Sys2Proof.Machine.execFwImageActivate a0 a1 a2 s
  | .fwImageCommit a0 a1 a2 a3 => Sys2Proof.Machine.execFwImageCommit a0 a1 a2 a3 s
  | .fwImageAbort a0 a1 a2 => Sys2Proof.Machine.execFwImageAbort a0 a1 a2 s
  | .attest a0 a1 a2 a3 => Sys2Proof.Machine.execAttest a0 a1 a2 a3 s
  | .telemetryDropTimeout => Sys2Proof.Machine.execTelemetryDropTimeout s
  | .counterSnapshot => Sys2Proof.Machine.execCounterSnapshot s
  | .roll a0 a1 a2 a3 a4 => Sys2Proof.Machine.execRoll a0 a1 a2 a3 a4 s
  | .rollResend a0 => Sys2Proof.Machine.execRollResend a0 s
  | .answer a0 a1 a2 a3 a4 => Sys2Proof.Machine.execAnswer a0 a1 a2 a3 a4 s
  | .rollCallDeadline a0 => Sys2Proof.Machine.execRollCallDeadline a0 s
  | .roster a0 a1 a2 a3 a4 => Sys2Proof.Machine.execRoster a0 a1 a2 a3 a4 s
  | .rollCallTimeout a0 => Sys2Proof.Machine.execRollCallTimeout a0 s
  | .contrib a0 a1 a2 a3 a4 => Sys2Proof.Machine.execContrib a0 a1 a2 a3 a4 s
  | .rack a0 a1 a2 a3 a4 a5 a6 a7 => Sys2Proof.Machine.execRack a0 a1 a2 a3 a4 a5 a6 a7 s
  | .done a0 a1 a2 a3 a4 => Sys2Proof.Machine.execDone a0 a1 a2 a3 a4 s
  | .epochDeadline a0 => Sys2Proof.Machine.execEpochDeadline a0 s
  | .admitRanks a0 a1 a2 a3 a4 => Sys2Proof.Machine.execAdmit a0 a1 a2 a3 a4 s
  | .late a0 a1 a2 a3 => Sys2Proof.Machine.execLate a0 a1 a2 a3 s
  | .close a0 a1 a2 a3 a4 => Sys2Proof.Machine.execClose a0 a1 a2 a3 a4 s
  | .holderResultSend a0 => Sys2Proof.Machine.execHolderResultSend a0 s
  | .result a0 a1 a2 a3 a4 a5 a6 a7 a8 => Sys2Proof.Machine.execResult a0 a1 a2 a3 a4 a5 a6 a7 a8 s
  | .abandon a0 a1 a2 => Sys2Proof.Machine.execAbandon a0 a1 a2 s
  | .lost a0 a1 a2 => Sys2Proof.Machine.execLost a0 a1 a2 s
  | .rwaitTimeout a0 a1 => Sys2Proof.Machine.execRwaitTimeout a0 a1 s
  | .memberDeadline a0 => Sys2Proof.Machine.execMemberDeadline a0 s
  | .admitIntervalExpiry a0 => Sys2Proof.Machine.execAdmitIntervalExpiry a0 s
  | .begin a0 a1 => Sys2Proof.Machine.execBegin a0 a1 s
  | .begun a0 a1 => Sys2Proof.Machine.execBegun a0 a1 s
  | .cairnData a0 a1 a2 => Sys2Proof.Machine.execCairnData a0 a1 a2 s
  | .seal a0 a1 => Sys2Proof.Machine.execSeal a0 a1 s
  | .sealed a0 a1 => Sys2Proof.Machine.execSealed a0 a1 s
  | .cairnWriteTimeout => Sys2Proof.Machine.execCairnWriteTimeout s
  | .fetch a0 a1 => Sys2Proof.Machine.execFetch a0 a1 s
  | .fetched a0 a1 => Sys2Proof.Machine.execFetched a0 a1 s
  | .restoreComplete => Sys2Proof.Machine.execRestoreComplete s
  | .unitEventCommit => Sys2Proof.Machine.execUnitEventCommit s
  | .hourlyClassification => Sys2Proof.Machine.execHourlyClassification s
  | .powerOnReset a0 => Sys2Proof.Machine.execPowerOnReset a0 s
  | .computePowerUp a0 => Sys2Proof.Machine.execComputePowerUp a0 s
  | .trialWatchdog => Sys2Proof.Machine.execTrialWatchdog s
  | .supplySample a0 a1 => Sys2Proof.Machine.execSupplySample a0 a1 s
  | .limiterTick => Sys2Proof.Machine.execLimiterTick s
  | .coolantSample a0 a1 a2 a3 => Sys2Proof.Machine.execCoolantSample a0 a1 a2 a3 s
  | .facilityStatus => Sys2Proof.Machine.execFacilityStatus s
  | .valve a0 a1 => Sys2Proof.Machine.execValve a0 a1 s
  | .shutdown a0 a1 => Sys2Proof.Machine.execShutdown a0 a1 s
  | .hubDieTemperature a0 a1 => Sys2Proof.Machine.execHubDieTemperature a0 a1 s
  | .facilityBadFrame a0 => Sys2Proof.Machine.execFacilityBadFrame a0 s
  | .linkAttemptTimeout => Sys2Proof.Machine.execLinkAttemptTimeout s
  | .linkLoss a0 => Sys2Proof.Machine.execLinkLoss a0 s
  | .linkUp a0 => Sys2Proof.Machine.execLinkUp a0 s
  | .pauseFrame => Sys2Proof.Machine.execPauseFrame s
  | .nonIpFrame => Sys2Proof.Machine.execNonIpFrame s
  | .neighborSolicitation a0 a1 => Sys2Proof.Machine.execNeighborSolicitation a0 a1 s
  | .echoRequest a0 a1 a2 a3 => Sys2Proof.Machine.execEchoRequest a0 a1 a2 a3 s
  | .extensionHeaderPacket => Sys2Proof.Machine.execExtensionHeaderPacket s
  | .badUdpChecksum => Sys2Proof.Machine.execBadUdpChecksum s
  | .malformedPacket => Sys2Proof.Machine.execMalformedPacket s
  | .ptpSync a0 => Sys2Proof.Machine.execPtpSync a0 s
  | .ptpHoldover => Sys2Proof.Machine.execPtpHoldover s
  | .stepNow a0 a1 a2 => Sys2Proof.Machine.execStepNow a0 a1 a2 s
  | .leakClr a0 a1 a2 => Sys2Proof.Machine.execLeakClr a0 a1 a2 s
  | .arithFlagClear a0 a1 a2 a3 => Sys2Proof.Machine.execArithFlagClear a0 a1 a2 a3 s
  | .talModeWrite a0 a1 a2 a3 => Sys2Proof.Machine.execTalModeWrite a0 a1 a2 a3 s
  | .digestRegionConfig a0 a1 a2 a3 => Sys2Proof.Machine.execDigestRegionConfig a0 a1 a2 a3 s
  | .storeConfig a0 a1 a2 => Sys2Proof.Machine.execStoreConfig a0 a1 a2 s
  | .clientConfig a0 a1 a2 => Sys2Proof.Machine.execClientConfig a0 a1 a2 s
  | .tgOff a0 a1 a2 a3 => Sys2Proof.Machine.execTgOff a0 a1 a2 a3 s
  | .tgReadCheck a0 a1 a2 a3 => Sys2Proof.Machine.execTgReadCheck a0 a1 a2 a3 s
  | .tgWriteCompare a0 a1 a2 a3 => Sys2Proof.Machine.execTgWriteCompare a0 a1 a2 a3 s
  | .tgWriteOnly a0 a1 a2 a3 => Sys2Proof.Machine.execTgWriteOnly a0 a1 a2 a3 s
  | .flashProgramComplete => Sys2Proof.Machine.execFlashProgramComplete s

end Sys2Proof.Machine
end

