-- ==== Sys2Proof/Machine/Tick.lean ====
section
/-! DEFINITION. One ECLK with nothing commanded: time, and the counters of ECLK that time alone moves (03 R118, R123, 09 R328). -/

namespace Sys2Proof.Machine

/-- A step occupies the array in ECLK `t` (R77). DEDUCED (log 69). -/
def Arr.steps (a : Arr) (t : Nat) : Bool := a.nextAt.any (fun e => decide (t < e.2))

/-- The array holds a step that has not entered (R79). -/
def Arr.holds (a : Arr) : Bool := (List.range 4).any (fun q => !(Tab.get a.ports [] (3 * q)).isEmpty)

/-- The array's west edge enters a stroll or a bubble in an ECLK that no step occupies: a bubble where a step is held (R79, R119), else a stroll of the gap or of the ramp's stage (R118). In quadrant mode an ECLK in which some quadrant steps counts none. DEDUCED (log 69). -/
def Arr.strolls (a : Arr) (t : Nat) : Bool :=
  !a.steps t &&
  (a.holds ||
    (match a.ramp with
     | .rest => false
     | .idle => false
     | .full => true
     | .up _ => true
     | .down n => decide ((t - a.stageAt) % 8 < n)))

/-- The gap of an array after an ECLK (R118, R120): an ECLK of strolling for want of a step counts, a bubble does not. A gap keeps the GAP `g` that stood when it began (R552). -/
def Arr.passGap (a : Arr) (t g : Nat) : Arr :=
  if a.steps t || a.holds then a
  else
    match a.ramp with
    | .full => { a with gap := a.gap + 1, gapMax := a.gapLimit g }
    | .up _ => { a with gap := a.gap + 1, gapMax := a.gapLimit g }
    | _ => a

/-- ENG_ASTROLLn and the gaps of one core in this ECLK. DESIGN CHOICE (log 1). -/
def State.tickArrays (s : State) (k : Nat) : State :=
  let t := s.clock.eclk
  (s.core k).arrays.foldl
    (fun s e =>
      let s := if e.2.strolls t then s.addFld (rAstroll k e.1) 63 0 1 else s
      s.updCore k (fun c => { c with arrays := Tab.put c.arrays e.1 (e.2.passGap t (s.fld (rStroll k) 6 0)) })) s

/-- CORE_FEED_STAT.TSTALL of one core in this ECLK (R323, R328). DESIGN CHOICE (log 1). -/
def State.tickStall (s : State) (k : Nat) : State :=
  if (s.core k).a.state = 3 ∧ (s.core k).a.stall = 9 then s.addFld (rFeedStat k) 31 0 1 else s

/-- Advance time by one ECLK, 4/7 ns (R301), slewed by a frequency correction in 0.01 ppm (R436). DESIGN CHOICE (log 1). -/
def Clock.tick (c : Clock) (freq : Int) : Clock :=
  let f := c.frac + (4 * (100000000 + freq)).toNat
  ⟨c.eclk + 1, f % 700000000, c.ns + f / 700000000⟩

/-- One ECLK passes (log 1). -/
def State.tick (s : State) : State :=
  let s := (s.cores.foldl (fun s e => (s.tickArrays e.1).tickStall e.1) s).tickBanks
  { s with clock := s.clock.tick (signed 16 (s.fld rPtpStat 15 0)) }

end Sys2Proof.Machine
end

