-- ==== Sys2Proof/Machine/Step.lean ====
section
/-! DEFINITION. The step: the command at the front of the queue, or one ECLK of idling. -/

namespace Sys2Proof.Machine

/-- One step: the command at the front of the queue has its effect on the state with the queue's rest; on an empty queue one ECLK passes (log 1). DESIGN CHOICE (log 2). -/
def step (s : State) : Host.Outcome State Fault Refusal :=
  match s.pending with
  | [] => .next s.tick
  | i :: r => exec i { s with pending := r }

/-- The state with the command that a word spells at the front of its queue; no row of the table gives a command bits, so no word spells one. DEDUCED (log 3). -/
def State.withFetchWord (s : State) (nbits w : Nat) : State :=
  match decodeTableWord nbits w with
  | some i => { s with pending := i :: s.pending }
  | none => s

end Sys2Proof.Machine
end

