-- ==== Sys2Proof/Safety.lean ====
section
/-! DEFINITION. The terms claims are made in: the invariant of the state, what a command may change and what it leaves. -/

namespace Sys2Proof.Machine

/-- The registers' canonical form: addresses strictly rising, and no register listed at its reset word (00 R12). -/
def State.regsWf (s : State) : Prop := Tab.rising s.regs ∧ ∀ e ∈ s.regs, e.2.toNat ≠ resetWord e.1

/-- The invariant of the state: memory and registers in their canonical forms, and the SVN floor one that 64 fuses can hold (14, Boot record). -/
def State.Inv (s : State) : Prop := s.mem.wf ∧ s.regsWf ∧ s.flash.svnFloor ≤ 64

/-- What no command undoes: the invariant, once it holds; and the SVN floor and the key store's number, which never fall (14 R490, R498). -/
structure Keeps (s t : State) : Prop where
  mem : s.mem.wf → t.mem.wf
  regs : s.regsWf → t.regsWf
  floor : s.flash.svnFloor ≤ 64 → t.flash.svnFloor ≤ 64
  floorUp : s.flash.svnFloor ≤ t.flash.svnFloor
  kseqUp : s.flash.kseq ≤ t.flash.kseq

/-- Every byte of memory and every poison mark reads as before. -/
def State.sameMem (s t : State) : Prop := ∀ k, t.mem.byte k = s.mem.byte k ∧ t.mem.bad k = s.mem.bad k

/-- Every byte and mark outside the `n` bytes from key `a` reads as before; a mark is that of the whole poison group (R280, R340). -/
def State.sameMemBut (s t : State) (a n : Nat) : Prop :=
  ∀ k, k < a ∨ a + n ≤ k →
    t.mem.byte k = s.mem.byte k ∧ (groupOf k + Machine.groupSize k ≤ a ∨ a + n ≤ groupOf k → t.mem.bad k = s.mem.bad k)

/-- Every register outside the addresses `p` holds of reads as before. -/
def State.sameRegsBut (s t : State) (p : Nat → Prop) : Prop := ∀ a, ¬ p a → t.reg a = s.reg a

/-- Every physical core other than `k` is as before. -/
def State.sameCoresBut (s t : State) (k : Nat) : Prop := ∀ j, j ≠ k → t.core j = s.core j

/-- The instruction that a command issues to run on (classes M, D and E, R125): its logical core, its stream and itself. -/
def issued (i : Instr) : Option (Nat × Strm × Ovt) :=
  match i with
  | .faddr c cf t f n => some (c, .a, .faddr cf t f n)
  | .cload c cf ag slot => some (c, .a, .cload cf ag slot)
  | .move c cf b => some (c, .a, .move cf b)
  | .qload c cf b => some (c, .a, .qload cf b)
  | .qstore c cf b => some (c, .a, .qstore cf b)
  | .sload c cf b => some (c, .a, .sload cf b)
  | .gather c cf b => some (c, .a, .gather cf b)
  | .pfetch c cf b => some (c, .a, .pfetch cf b)
  | .repoch c cf r d l => some (c, .a, .repoch cf r d l)
  | .racc c cf b => some (c, .a, .racc cf b)
  | .rwait c cf r g l => some (c, .a, .rwait cf r g l)
  | .ops c cf b => some (c, .x, .ops cf b)
  | .amode c cf b => some (c, .x, .amode cf b)
  | .preload c cf b => some (c, .x, .preload cf b)
  | .drain c cf b => some (c, .x, .drain cf b)
  | .rx c cf b => some (c, .x, .rx cf b)
  | .qmove c cf q d n => some (c, .x, .qmove cf q d n)
  | _ => none

/-- What follows an issue: the reductions settle after one of their instructions (R375, R389). -/
def afterIssue (o : Ovt) (s : State) : State := if isRed o then s.settleRed else s

/-- A command on its way to being issued: the instruction, its partition, its physical core, and nothing but the conditions of R125 between it and its issue. -/
def State.reaches (s : State) (i : Instr) (c : Nat) (st : Strm) (o : Ovt) (p k : Nat) : Prop :=
  issued i = some (c, st, o) ∧ Instr.wf i = true ∧ s.issuer c st o = some (p, k)

/-- The conditions of R125 hold: the queues it needs at issue, its port, a free tracker, room for its claims (R136, R323, R565). -/
def State.clear (s : State) (k : Nat) (o : Ovt) : Prop :=
  (s.core k).queueHold o = none ∧ portRoom (s.core k) o = true ∧ groupRoom (s.core k) o = true ∧
    (fabricUser (s.core k) o = true → s.trackers k < 1536) ∧ (s.core k).held.length + (claimsOf (s.core k) o).length ≤ 64

/-! ### Messages -/

/-- The packet of a message, its key class (0 owner, 1 peer) and whether it takes effect as it lands (R416, R423). -/
def carried (i : Instr) : Option (Pkt × Nat × Bool) :=
  match i with
  | .regRead p _ _ _ => some (p, 0, false)
  | .regWrite p _ _ _ => some (p, 0, false)
  | .memRead p _ _ _ => some (p, 0, false)
  | .memWrite p _ _ _ => some (p, 0, true)
  | .image p _ _ _ => some (p, 0, true)
  | .load p _ _ _ => some (p, 0, false)
  | .start p _ _ => some (p, 0, false)
  | .step p _ _ => some (p, 0, false)
  | .partitionKill p _ _ => some (p, 0, false)
  | .groupSet p _ _ _ _ _ _ _ _ => some (p, 0, false)
  | .runTestPack p _ _ _ => some (p, 0, false)
  | .startMarch p _ _ _ => some (p, 0, false)
  | .stopMarch p _ _ => some (p, 0, false)
  | .retrainChannel p _ _ => some (p, 0, false)
  | .digestSweep p _ _ => some (p, 0, false)
  | .clearUnitRecord p _ _ => some (p, 0, false)
  | .fenceUnit p _ _ => some (p, 0, false)
  | .deleteTestPack p _ _ => some (p, 0, false)
  | .setModuleConfiguration p _ _ => some (p, 0, false)
  | .warmReset p _ => some (p, 0, false)
  | .enterShade p _ => some (p, 0, false)
  | .leaveShade p _ => some (p, 0, false)
  | .installOwnerKey p _ _ => some (p, 0, false)
  | .installPeerKey p _ _ => some (p, 0, false)
  | .retireOwnerPrevious p _ => some (p, 0, false)
  | .retirePeerPrevious p _ => some (p, 0, false)
  | .release p _ => some (p, 0, false)
  | .fwImageData p _ _ _ _ => some (p, 0, true)
  | .fwImageFinish p _ _ => some (p, 0, false)
  | .fwImageActivate p _ _ => some (p, 0, false)
  | .fwImageCommit p _ _ _ => some (p, 0, false)
  | .fwImageAbort p _ _ => some (p, 0, false)
  | .attest p _ _ _ => some (p, 0, false)
  | .roll p _ _ _ _ => some (p, 1, false)
  | .answer p _ _ _ _ => some (p, 1, false)
  | .roster p _ _ _ _ => some (p, 1, false)
  | .contrib p _ _ _ _ => some (p, 1, true)
  | .rack p _ _ _ _ _ _ _ => some (p, 1, false)
  | .done p _ _ _ _ => some (p, 1, false)
  | .admitRanks p _ _ _ _ => some (p, 1, false)
  | .late p _ _ _ => some (p, 1, false)
  | .close p _ _ _ _ => some (p, 1, false)
  | .result p _ _ _ _ _ _ _ _ => some (p, 1, true)
  | .abandon p _ _ => some (p, 1, false)
  | .lost p _ _ => some (p, 1, false)
  | .begin p _ => some (p, 1, false)
  | .begun p _ => some (p, 1, false)
  | .cairnData p _ _ => some (p, 1, true)
  | .seal p _ => some (p, 1, false)
  | .sealed p _ => some (p, 1, false)
  | .fetch p _ => some (p, 1, false)
  | .fetched p _ => some (p, 1, false)
  | .stepNow p _ _ => some (p, 0, false)
  | .leakClr p _ _ => some (p, 0, false)
  | .arithFlagClear p _ _ _ => some (p, 0, false)
  | .talModeWrite p _ _ _ => some (p, 0, false)
  | .digestRegionConfig p _ _ _ => some (p, 0, false)
  | .storeConfig p _ _ => some (p, 0, false)
  | .clientConfig p _ _ => some (p, 0, false)
  | .tgOff p _ _ _ => some (p, 0, false)
  | .tgReadCheck p _ _ _ => some (p, 0, false)
  | .tgWriteCompare p _ _ _ => some (p, 0, false)
  | .tgWriteOnly p _ _ _ => some (p, 0, false)
  | _ => none

/-- The message's turn (R416 to R423): the rails are on, the packet passes every check, and its SEQ is the next that the connection expects. -/
def State.inTurn (s : State) (p : Pkt) (cls : Nat) : Prop :=
  s.power.railsOff = false ∧ s.checkHead p cls = none ∧ (∃ c, s.checkConn p cls = .ok c) ∧
    ∃ c, Tab.find (s.accept p 0).conns p.conn = some c ∧ c.theirs ≠ 0 ∧ p.seq = c.rxNext ∧ p.seq < 2 ^ 32 ∧ c.rxSeen = [] ∧ c.held = [] ∧ seqBefore c.granted p.seq = false

/-- The state in which such a message acts: its header has been heard and its SEQ noted (R421). -/
def State.received (s : State) (p : Pkt) : State :=
  (s.accept p 0).updConn p.conn (fun c => { c with rxNext := (p.seq + 1) % 2 ^ 32, since := c.since + 1 })

/-- The connection after a message has acted: messages that waited for it follow, credit and acknowledgement go (R421 to R424). -/
def State.settled (s : State) (p : Pkt) (bulk : Bool) : State :=
  (if bulk then State.pump p.conn (s.heldCount p.conn) s else s).settleConn p.conn p.ackNow

/-- The state in which an owner request acts: its REQID is kept (R427). -/
def State.asked (s : State) (p : Pkt) (r : Nat) : State := { s.received p with kept := remember (s.received p).kept p.src r }

/-- An owner request in its turn, with a REQID that is not kept, that the device's state lets through (R427, R494, R495, R526). -/
def State.asks (s : State) (p : Pkt) (r : Nat) (early recov compute : Bool) : Prop :=
  s.inTurn p 0 ∧ (∀ k ∈ (s.received p).kept, k.owner ≠ p.src ∨ k.req ≠ r) ∧ (s.received p).gated early recov compute = false

/-- Whom the request's reply goes to. -/
def asker (p : Pkt) (r : Nat) : Asker := ⟨p.conn, p.src, r⟩

/-- A reduction message as the epochs see it, and whether its sender is who the group table lists for it (R361). -/
def State.reduction (s : State) (i : Instr) : Option (Msg × Bool) :=
  match i with
  | .roll p n d t rt => some (.roll n d t rt, s.isHost p n.group)
  | .answer p n d v k => some (.answer n d v k, s.isRank p n.group k)
  | .roster p n t l adm => some (.roster n t l adm, s.isHost p n.group)
  | .contrib p n k f d => some (.contrib n k f d, s.isRank p n.group k)
  | .rack p n k st a b c f => some (.rack n k st a b c f, s.isRank p n.group k)
  | .done p n k a b => some (.done n k a b, s.isRank p n.group k)
  | .admitRanks p n t u x => some (.admitRanks n t u x, s.isHost p n.group)
  | .late p n k d => some (.late n k d, s.isRank p n.group k)
  | .close p n o r inc => some (.close n o r inc, s.isMember p n.group)
  | .result p n k l a b rf f d => some (.result n k l a b rf f d, s.isRank p n.group k)
  | .abandon p n r => some (.abandon n r, s.isHost p n.group)
  | .lost p n k => some (.lost n k, s.isRank p n.group k)
  | _ => none

/-- The epoch of a name is this device's current one on its channel, with its descriptor. -/
def State.current (s : State) (e : Epoch) (d : Desc) : Prop := s.epoch e.name.rch = some e ∧ e.desc = d

/-- An owner request's packet and REQID (R427). -/
def requested (i : Instr) : Option (Pkt × Nat) :=
  match i with
  | .regRead p r _ _ => some (p, r)
  | .regWrite p r _ _ => some (p, r)
  | .memRead p r _ _ => some (p, r)
  | .memWrite p r _ _ => some (p, r)
  | .image p r _ _ => some (p, r)
  | .load p r _ _ => some (p, r)
  | .start p r _ => some (p, r)
  | .step p r _ => some (p, r)
  | .partitionKill p r _ => some (p, r)
  | .groupSet p r _ _ _ _ _ _ _ => some (p, r)
  | .runTestPack p r _ _ => some (p, r)
  | .startMarch p r _ _ => some (p, r)
  | .stopMarch p r _ => some (p, r)
  | .retrainChannel p r _ => some (p, r)
  | .digestSweep p r _ => some (p, r)
  | .clearUnitRecord p r _ => some (p, r)
  | .fenceUnit p r _ => some (p, r)
  | .deleteTestPack p r _ => some (p, r)
  | .setModuleConfiguration p r _ => some (p, r)
  | .warmReset p r => some (p, r)
  | .enterShade p r => some (p, r)
  | .leaveShade p r => some (p, r)
  | .installOwnerKey p r _ => some (p, r)
  | .installPeerKey p r _ => some (p, r)
  | .retireOwnerPrevious p r => some (p, r)
  | .retirePeerPrevious p r => some (p, r)
  | .release p r => some (p, r)
  | .fwImageData p r _ _ _ => some (p, r)
  | .fwImageFinish p r _ => some (p, r)
  | .fwImageActivate p r _ => some (p, r)
  | .fwImageCommit p r _ _ => some (p, r)
  | .fwImageAbort p r _ => some (p, r)
  | .attest p r _ _ => some (p, r)
  | .stepNow p r _ => some (p, r)
  | .leakClr p r _ => some (p, r)
  | .arithFlagClear p r _ _ => some (p, r)
  | .talModeWrite p r _ _ => some (p, r)
  | .digestRegionConfig p r _ _ => some (p, r)
  | .storeConfig p r _ => some (p, r)
  | .clientConfig p r _ => some (p, r)
  | .tgOff p r _ _ => some (p, r)
  | .tgReadCheck p r _ _ => some (p, r)
  | .tgWriteCompare p r _ _ => some (p, r)
  | .tgWriteOnly p r _ _ => some (p, r)
  | _ => none

/-- The requests that the hub answers before READY (R494). -/
def early (i : Instr) : Bool :=
  match i with
  | .regRead _ _ _ _ => true
  | .attest _ _ _ _ => true
  | .fwImageData _ _ _ _ _ => true
  | .fwImageFinish _ _ _ => true
  | .fwImageActivate _ _ _ => true
  | .fwImageCommit _ _ _ _ => true
  | .fwImageAbort _ _ _ => true
  | .installOwnerKey _ _ _ => true
  | .installPeerKey _ _ _ => true
  | .retireOwnerPrevious _ _ => true
  | .retirePeerPrevious _ _ => true
  | .release _ _ => true
  | _ => false

/-- The requests that the hub answers in recovery (R495). -/
def inRecovery (i : Instr) : Bool :=
  match i with
  | .regRead _ _ _ a => hubOrSec a
  | .attest _ _ _ _ => true
  | .fwImageData _ _ _ _ _ => true
  | .fwImageFinish _ _ _ => true
  | .fwImageActivate _ _ _ => true
  | .fwImageCommit _ _ _ _ => true
  | .fwImageAbort _ _ _ => true
  | .warmReset _ _ => true
  | _ => false

end Sys2Proof.Machine
end

