-- ==== Sys2Proof/Certificates/Slice0/Obligations.lean ====
section
/-! DEFINITION. What the model is claimed to do: one statement for each family of commands and each kind of state, for the provers. -/

open Sys2Proof Sys2Proof.Machine

/-- The step: with a command at the front of the queue, step is exec of it on the state with the queue's rest. -/
def Obligations.StepRunsTheFront : Prop :=
  ∀ (s : State) (c : Instr) (l : List Instr), s.pending = c :: l → step s = exec c { s with pending := l }

/-- Commands complete (R13): one whose operands are well formed ends in a next state, whatever the state; one whose operands a field cannot hold, or that the manual reserves, is refused, and nothing happens. -/
def Obligations.CommandsComplete : Prop :=
  ∀ (c : Instr) (s : State), (Instr.wf c = true → ∃ t : State, exec c s = .next t) ∧ (Instr.wf c = false → exec c s = .refused .reservedOperand)

/-- Every step keeps the invariant: memory and registers stay in their canonical forms, and the SVN floor within its 64 fuses. -/
def Obligations.StepKeepsInvariant : Prop :=
  ∀ s t : State, s.Inv → step s = .next t → t.Inv

/-- The machine right after reset has the invariant. -/
def Obligations.ResetHasInvariant : Prop :=
  State.reset.Inv

/-- What no step undoes (R490, R498): the SVN floor and the key store's number never fall. -/
def Obligations.FloorAndKeysNeverFall : Prop :=
  ∀ s t : State, step s = .next t → s.flash.svnFloor ≤ t.flash.svnFloor ∧ s.flash.kseq ≤ t.flash.kseq

/-- Reset (R12, R38, R118, R312, R327, R341, R343, R436, R441, R455, R482, R541): no command waits, nothing is held, and the registers named here read the values that the manual gives at reset. -/
def Obligations.ResetState : Prop :=
  let s := State.reset
  s.pending = [] ∧ s.conns = [] ∧ s.parts = [] ∧ s.epochs = [] ∧ s.fab = [] ∧ s.tally = [] ∧ s.groups = [] ∧ s.clock = ⟨0, 0, 0⟩ ∧ (∀ k, s.mem.byte k = 0 ∧ s.mem.bad k = false) ∧
    (∀ k < 136, s.fld (rStroll k) 6 0 = 64 ∧ s.fld (rArith k) 7 0 = 0) ∧ (∀ p < 8, s.fld (rWdog p) 63 32 = 500 ∧ s.reg (rTerm p) = 0 ∧ s.reg (rPoison p) = 0) ∧
    (∀ q < 256, s.fld (rHmcCtrl q) 15 8 = 12 ∧ s.fld (rHmcCtrl q) 6 0 = 32 ∧ s.fld (rTalCtrl q) 1 0 = 0) ∧ s.fld rTherm 23 16 = 105 ∧ s.fld rTherm 15 8 = 95 ∧ s.fld rTherm 7 0 = 85 ∧
    (∀ d < 4, ∀ n < 4, s.fld (rLink d n) 63 62 = 1) ∧ s.fld rNwtCtrl 63 48 = 0xB806 ∧ s.fld rPtpCtrl 31 16 = 1000 ∧ s.fld rHctl 63 48 = 24 ∧ s.fld rHctl 47 40 = 3 ∧ s.fld rHctl 39 32 = 2 ∧ s.fld rHctl 31 24 = 2 ∧
    s.fld rHctl 0 0 = 1 ∧ s.fld rPwrStat 63 60 = 8 ∧ s.fld rPwrCtrl 63 48 = 3200 ∧ s.fld rPwrCtrl 47 32 = 3600 ∧ s.reg rRstage = 0 ∧ s.reg rRdrop = 0 ∧ s.fld rGovSt 31 0 = 0

/-- Idling: on an empty queue one ECLK passes. The model's choice (log 1): time goes on by 4/7 ns, slewed by the frequency correction (R301, R436), the stroll counters and gaps of the arrays (R118, R120, R123), the stall counters (R328) and the waits at busy banks (R284) count, and nothing else changes. Cluster time is held with a fraction in units of 1/700,000,000 ns. -/
def Obligations.IdleTicks : Prop :=
  ∀ s : State, s.pending = [] → ∃ t : State, step s = .next t ∧ t.clock.eclk = s.clock.eclk + 1 ∧
    (t.clock.ns * 700000000 + t.clock.frac : Int) = s.clock.ns * 700000000 + s.clock.frac + 4 * (100000000 + signed 16 (t.fld rPtpStat 15 0)) ∧
    t = { s with clock := t.clock, regs := t.regs, cores := t.cores } ∧ (∀ k, t.core k = { s.core k with arrays := (t.core k).arrays }) ∧
    (Tab.rising s.cores → (∀ e ∈ s.cores, Tab.rising e.2.arrays) → ∀ k n, (t.core k).arr n = ((s.core k).arr n).passGap s.clock.eclk (s.fld (rStroll k) 6 0)) ∧
    s.sameRegsBut t (fun a => (∃ e ∈ s.cores, a = rFeedStat e.1 ∨ ∃ f ∈ (s.core e.1).arrays, a = rAstroll e.1 f.1) ∨ ∃ r ∈ s.fab, a = rMbconf (s.masterOf r))

/-- Memory holds what was written (R277, R280, R340): the bytes of a masked write read back, every other byte reads as before, and the write keeps the canonical form. A poison group that the write covers takes the mark that its bytes carry; one that it covers in part keeps its mark or takes theirs; any other keeps its mark. -/
def Obligations.MemoryHoldsWrites : Prop :=
  ∀ (m : Memory) (k : Nat) (bs : List PByte), k + bs.length ≤ stackDpa ∨ stackDpa ≤ k →
    let w := m.writeB k bs
    (∀ i b, bs[i]? = some b → w.byte (k + i) = b.1) ∧ (∀ j, j < k ∨ k + bs.length ≤ j → w.byte j = m.byte j) ∧ (m.wf → w.wf) ∧
    (∀ j, let g := groupOf j
      let n := Machine.groupSize j
      let mine := ∃ i b, bs[i]? = some b ∧ b.2 = true ∧ g ≤ k + i ∧ k + i < g + n
      (g + n ≤ k ∨ k + bs.length ≤ g → w.bad j = m.bad j) ∧ (k ≤ g → g + n ≤ k + bs.length → (w.bad j = true ↔ mine)) ∧
      (g < k + bs.length → k < g + n → g < k ∨ k + bs.length < g + n → (w.bad j = true ↔ m.bad j = true ∨ mine)))

/-- NOP, BOUNDARY and END (R125, R126, R160, R176): the stream goes on at its next instruction, stops at the boundary (STALL 0x8), or stops issuing (STATE 4). Nothing else of the machine changes. PHASE (R180, R273, R274): an end edge sets CORE_PHEn to the present cluster time; a start edge sets CORE_PHSn, but only the first of the step. The edge and its stream are noted, and a start edge counted; no other register, no memory and no other core changes. -/
def Obligations.StreamsRun : Prop :=
  (∀ (s : State) (c : Nat) (st : Strm) (p k : Nat), c < 128 →
    let x := s.core k
    let t := x.stream st
    (s.issuer c st .nop = some (p, k) → exec (.nop c st) s = .next (s.setCore k (x.setStream st t.advance))) ∧
    (s.issuer c st .boundary = some (p, k) → exec (.boundary c st) s = .next (s.setCore k (x.setStream st { t with state := 3, stall := 8, obj := 0 }))) ∧
    (s.issuer c st .endS = some (p, k) → exec (.endStream c st) s = .next (s.setCore k (x.setStream st { t with state := 4, stall := 0, obj := 0 })))) ∧
  (∀ (s : State) (c : Nat) (st : Strm) (p k : Nat) (edge : Bool) (pid : Nat),
    s.issuer c st (.phase edge pid) = some (p, k) → Instr.wf (.phase c st edge pid) → s.clock.ns < 2 ^ 64 →
    let x := s.core k
    let f := Tab.get x.phases ⟨0, false, false, false, false⟩ pid
    ∃ t, exec (.phase c st edge pid) s = .next t ∧
      t.core k = ({ x with phases := Tab.put x.phases pid (f.mark edge st) }).setStream st (x.stream st).advance ∧
      t = { (s.setCore k (t.core k)) with regs := t.regs } ∧
      (edge = true → t.reg (rPhe k pid) = s.clock.ns ∧ s.sameRegsBut t (· = rPhe k pid)) ∧
      (edge = false → f.started = false → t.reg (rPhs k pid) = s.clock.ns ∧ s.sameRegsBut t (· = rPhs k pid)) ∧
      (edge = false → f.started = true → s.sameRegsBut t (fun _ => False)))

/-- Where a stream goes on after an instruction (R177, R179): at the next table index outside a loop's end; at the loop's body with the index one higher while passes remain; behind the ENDLOOP, where an enclosing loop may end too, after the last pass. LOOP (R150 to R153, R156, R179): a count above 0 opens a loop at index 0 with the next instruction first; a count of 0 goes on behind the matching ENDLOOP. A slot's count is latched where the slot holds a value the stream has not latched, else the entry waits (STALL 0x5). The A-stream's latch is stated where no PFETCH waits on a guard (R191). -/
def Obligations.LoopsRun : Prop :=
  (∀ t : Stream,
    (t.loops = [] → t.advance = { t with pc := t.pc + 1, state := 2, stall := 0, obj := 0 }) ∧
    (∀ l r, t.loops = l :: r → t.pc + 1 ≠ l.tail → t.advance = { t with pc := t.pc + 1, state := 2, stall := 0, obj := 0 }) ∧
    (∀ l r, t.loops = l :: r → t.pc + 1 = l.tail → l.index + 1 < l.count →
      t.advance = { t with loops := { l with index := l.index + 1 } :: r, pc := l.body, state := 2, stall := 0, obj := 0 }) ∧
    (∀ l r, t.loops = l :: r → t.pc + 1 = l.tail → l.count ≤ l.index + 1 →
      t.advance = ({ t with loops := r, pc := l.tail } : Stream).advance)) ∧
  (∀ (s : State) (c : Nat) (st : Strm) (p k q n : Nat),
    let x := s.core k
    let t := x.stream st
    let v := x.slot q
    let tail := findEnd (t.table.drop (t.pc + 1)) 0 (t.pc + 1)
    let go := fun (n : Nat) => if n = 0 then ({ t with state := 2, stall := 0, obj := 0 } : Stream).goto (tail + 1)
      else { t with loops := ⟨n, 0, t.pc + 1, tail⟩ :: t.loops, pc := t.pc + 1, state := 2, stall := 0, obj := 0 }
    (s.issuer c st (.loop ⟨false, 0, n⟩) = some (p, k) → Instr.wf (.loop c st ⟨false, 0, n⟩) → exec (.loop c st ⟨false, 0, n⟩) s = .next (s.setCore k (x.setStream st (go n)))) ∧
    (s.issuer c st (.loop ⟨true, q, 0⟩) = some (p, k) → Instr.wf (.loop c st ⟨true, q, 0⟩) → v.fresh st = false →
      exec (.loop c st ⟨true, q, 0⟩) s = .next (s.setCore k (x.setStream st { t with state := 3, stall := 5, obj := q, entry := some q }))) ∧
    (s.issuer c st (.loop ⟨true, q, 0⟩) = some (p, k) → Instr.wf (.loop c st ⟨true, q, 0⟩) → v.fresh st = true → (st = .a → ∀ o ∈ x.ops, o.bound ≠ .waiting) →
      exec (.loop c st ⟨true, q, 0⟩) s = .next (s.setCore k ((x.setSlot q
        (match st with | .a => { v with latA := v.seq } | .x => { v with latX := v.seq })).setStream st (go v.value)))))

/-- FADD and FWAIT (R143, R148, R182): FADD adds k to a flag and goes on; past 2^32 − 1 it terminates the program with FLAG_OVERFLOW and the flag keeps its value, without what other adds of the same ECLK had added to it. FWAIT passes once the flag has reached k and subtracts it; else the stream stalls (0x4). COMPLETION_FLAG_ADD (R147, R148, R182): the oldest completion that names the flag leaves and adds 1 to it; past 2^32 − 1 the program ends with FLAG_OVERFLOW at the instruction that completed, and no add of that ECLK takes effect. REMOTE_FLAG_ADD (R143, R148, R182, R450): the add reaches its target flag over a route that is open, the sender's FADDR completes and its tracker is freed; past 2^32 − 1 the sender's program ends with FLAG_OVERFLOW, and no add of that ECLK takes effect; at a fenced core the add is discarded. An add past 2^32 − 1 does not take effect, nor do the adds of the same ECLK to that flag before it, and no other flag changes (R148, R182): the program that holds the adding core ends with FLAG_OVERFLOW. -/
def Obligations.FlagsCount : Prop :=
  (∀ (s : State) (c : Nat) (st : Strm) (p k f n : Nat),
    let x := s.core k
    let y := x.setStream st (x.stream st).advance
    let t := s.clock.eclk
    (s.issuer c st (.fadd f n) = some (p, k) → Instr.wf (.fadd c st f n) → x.flag f + n < 2 ^ 32 →
      exec (.fadd c st f n) s = .next (s.setCore k { y.setFlag f (x.flag f + n) with adds := Tab.put x.adds f (t, x.added f t + n) })) ∧
    (s.issuer c st (.fadd f n) = some (p, k) → Instr.wf (.fadd c st f n) → 2 ^ 32 ≤ x.flag f + n →
      exec (.fadd c st f n) s = .next ((s.setCore k (y.setFlag f (x.flag f - x.added f t))).terminate p tFlagOverflow (.at c st (x.stream st).pc))) ∧
    (s.issuer c st (.fwait f n) = some (p, k) → Instr.wf (.fwait c st f n) → n ≤ x.flag f → exec (.fwait c st f n) s = .next (s.setCore k (y.setFlag f (x.flag f - n)))) ∧
    (s.issuer c st (.fwait f n) = some (p, k) → Instr.wf (.fwait c st f n) → x.flag f < n →
      exec (.fwait c st f n) s = .next (s.setCore k (x.setStream st { x.stream st with state := 3, stall := 4, obj := f })))) ∧
  (∀ (s : State) (c k f : Nat) (e : Comp), c < 128 → f < 64 → s.phys c = some k →
    let x := s.core k
    let y := { x with comps := x.comps.erase e }
    let t := s.clock.eclk
    x.comps.find? (fun e => e.flag == f) = some e →
    (x.flag f + 1 < 2 ^ 32 → exec (.completionFlagAdd c f) s = .next (s.setCore k { y.setFlag f (x.flag f + 1) with adds := Tab.put x.adds f (t, x.added f t + 1) })) ∧
    (∀ p, s.partOf c = some p → 2 ^ 32 ≤ x.flag f + 1 →
      exec (.completionFlagAdd c f) s = .next ((s.setCore k (y.setFlag f (x.flag f - x.added f t))).terminate p tFlagOverflow (.at c e.st e.pc)))) ∧
  (∀ (s : State) (id tc n m c p k : Nat) (r : FabReq) (o : Op), s.fabReq id = some r → r.kind = .flag tc n m → (s.core r.core).op r.op = some o →
    s.logicalOf r.core = some c → s.partOf c = some p → s.phys tc = some k → s.route (coreDie r.core) (coreDie k) = true →
    let f := (s.updCore r.core (fun x => x.finish o)).freeReq r
    let y := f.core k
    let t := s.clock.eclk
    (s.fenced k = true → exec (.remoteFlagAdd id) s = .next f) ∧
    (s.fenced k = false → y.flag n + m < 2 ^ 32 → exec (.remoteFlagAdd id) s = .next (f.setCore k { y.setFlag n (y.flag n + m) with adds := Tab.put y.adds n (t, y.added n t + m) })) ∧
    (s.fenced k = false → 2 ^ 32 ≤ y.flag n + m → exec (.remoteFlagAdd id) s = .next ((f.setCore k (y.setFlag n (y.flag n - y.added n t))).terminate p tFlagOverflow (.at c o.st o.pc)))) ∧
  (∀ (s : State) (k n m c pc : Nat) (st : Strm), 2 ^ 32 ≤ (s.core k).flag n + m →
    let x := s.core k
    let kept := x.flag n - x.added n s.clock.eclk
    (∀ j f, ((s.addFlag k n m c st pc).core j).flag f = if j = k ∧ f = n then kept else (s.core j).flag f) ∧
    (x.added n s.clock.eclk = 0 → ∀ j f, ((s.addFlag k n m c st pc).core j).flag f = (s.core j).flag f) ∧
    (x.added n s.clock.eclk = (match Tab.find x.adds n with | some e => if e.1 = s.clock.eclk then e.2 else 0 | none => 0)) ∧
    (∀ p, s.partOf c = some p → s.addFlag k n m c st pc = (s.setCore k (x.setFlag n kept)).terminate p tFlagOverflow (.at c st pc)))

/-- AGBASE, AGSTR, DDESC and REBASE (R184, R186, R209, R215): the generator's region and offset, three of its six strides, the drain descriptor, or the row engine's rebase are set, and the stream goes on. Nothing else of the machine changes. CSET, COUNT_SLOT_WRITE and LOOP_ENTRY_LATCH (R154 to R156): with no write of the slot waiting and every reader's last value latched, CSET writes the slot, numbers the value and goes on; else it waits (STALL 0x6). A waiting CSET's value enters the slot once every reader has latched the last one. A waiting loop entry of the X-stream latches a value it has not latched. -/
def Obligations.StreamSetup : Prop :=
  (∀ (s : State) (c p k : Nat),
    let x := s.core k
    (∀ g r o, s.issuer c .a (.agbase g r o) = some (p, k) → Instr.wf (.agbase c g r o) →
        exec (.agbase c g r o) s = .next (s.setCore k { x with a := x.a.advance, ags := Tab.put x.ags g ⟨some r, o, (x.ag g).strides⟩ })) ∧
    (∀ g hi s0 s1 s2, s.issuer c .a (.agstr g hi s0 s1 s2) = some (p, k) → Instr.wf (.agstr c g hi s0 s1 s2) →
        exec (.agstr c g hi s0 s1 s2) s = .next (s.setCore k { x with
          a := x.a.advance
          ags := Tab.put x.ags g { x.ag g with strides := if hi then (x.ag g).strides.take 3 ++ [s0, s1, s2] else [s0, s1, s2] ++ (x.ag g).strides.drop 3 } })) ∧
    (∀ dd d, s.issuer c .x (.ddesc dd d) = some (p, k) → Instr.wf (.ddesc c dd d) → exec (.ddesc c dd d) s = .next (s.setCore k { x with x := x.x.advance, dds := Tab.put x.dds dd d })) ∧
    (∀ d sd eb, s.issuer c .x (.rebase d sd eb) = some (p, k) → Instr.wf (.rebase c d sd eb) → exec (.rebase c d sd eb) s = .next (s.setCore k { x with x := x.x.advance, rebase := some (d, sd, eb) }))) ∧
  (∀ (s : State) (c k q val : Nat),
    let x := s.core k
    let v := x.slot q
    (∀ p, s.issuer c .a (.cset q val) = some (p, k) → Instr.wf (.cset c q val) → v.writes = [] → v.latched = true →
      exec (.cset c q val) s = .next (s.setCore k { x with a := x.a.advance, slots := Tab.put x.slots q { v with value := val, seq := v.seq + 1 } })) ∧
    (∀ p, s.issuer c .a (.cset q val) = some (p, k) → Instr.wf (.cset c q val) → v.writes ≠ [] ∨ v.latched = false →
      exec (.cset c q val) s = .next (s.setCore k { x with
        a := { x.a with state := 3, stall := 6, obj := q, slotw := true }, slots := Tab.put x.slots q { v with writes := v.writes ++ [⟨none, some val⟩] } })) ∧
    (c < 128 → q < 16 → s.phys c = some k → ∀ n r, v.writes = ⟨none, some n⟩ :: r → v.latched = true →
      exec (.countSlotWrite c q) s = .next (s.setCore k { x with
        a := ({ x.a with slotw := false } : Stream).advance, slots := Tab.put x.slots q { v with value := n, seq := v.seq + 1, writes := r } })) ∧
    (c < 128 → s.phys c = some k → ∀ p, s.partOf c = some p → x.x.entry = some q → v.latX ≠ v.seq →
      exec (.loopEntryLatch c .x) s = .next (s.setCore k
        { x with x := ({ x.x with entry := none } : Stream).enter v.value, slots := Tab.put x.slots q { v with latX := v.seq } })))

/-- Issuing (R125, R138, R140, R147, R176): FADDR, CLOAD, MOVE, QLOAD, QSTORE, SLOAD, GATHER, PFETCH, REPOCH, RACC, RWAIT, OPS, AMODE, PRELOAD, DRAIN, RX and QMOVE, each the next of its stream, meeting the conditions of R125 with none of its claims in conflict, issue, which is the effect of the command that issues them: the accesses, steps and rows that follow are commands of their own. Its record joins the core's instructions with the next number, its claims, its source and destination bytes as the generators give them now, and the step; the stream goes on; nothing else of the machine changes, but for the port, the set's region, the slot write and the epoch count that the instruction takes. An OPS with STEPS 0 touches nothing (R207): it completes as it issues, with its completion add if it names one. -/
def Obligations.InstructionIssues : Prop :=
  (∀ (s : State) (c p k : Nat),
    let x := s.core k
    let able := fun (i : Instr) (st : Strm) (o : Ovt) => s.reaches i c st o p k ∧ s.clear k o ∧ ∀ w ∈ claimsOf x o, x.free st s.clock.eclk [w] x.held = true
    let issued := fun (st : Strm) (o : Ovt) (t : State) => ∃ (y : Core) (r : Op), t = afterIssue o (s.setCore k y) ∧
      y.ops.map (fun (e : Op) => { e with group := [] }) = x.ops.map (fun (e : Op) => { e with group := [] }) ++ [{ r with group := [] }] ∧
      (∀ cf b, o = .ops cf b → b.link = false → ∀ e ∈ y.ops, (x.x.link ++ [x.next]).contains e.id → e.group = x.x.link ++ [x.next]) ∧
      (r.id = x.next ∧ r.ins = o ∧ r.st = st ∧ r.pc = (x.stream st).pc ∧ r.cf = ovtCf o ∧ r.step = (s.part p).step ∧ r.issued = s.clock.eclk) ∧
      (r.claims = claimsOf x o ∧ r.src = srcOf x o ∧ r.dst = dstOf x o ∧ r.rsent = 0 ∧ r.rland = 0 ∧ r.wsent = 0 ∧ r.wdone = 0 ∧ r.popped = 0 ∧ r.pushed = 0 ∧ r.cnt = 0) ∧
      { y.stream st with link := [] } = { (x.stream st).advance with link := [] } ∧
      (∀ a q n, portOf o = some (a, q, n) → (y.arr a).port q n = (x.arr a).port q n ++ [x.next]) ∧
      (∀ cf b, o = .amode cf b → (y.arr b.arr).amode = some x.next) ∧
      (∀ a n m l, namesRegion o = some (a, n, m, l) → Tab.find (y.arr a).named n = some (m, l)) ∧
      (∀ cf g q, o = .cload cf g q → (y.slot q).writes = (x.slot q).writes ++ [⟨some x.next, none⟩] ∧ (y.slot q).value = (x.slot q).value) ∧
      (∀ cf h d l, o = .repoch cf h d l → Tab.get y.ords 0 h = Tab.get x.ords 0 h + 1) ∧
      y = { x with a := y.a, x := y.x, ops := y.ops, next := x.next + 1, arrays := y.arrays, slots := y.slots, ords := y.ords } ∧
      (match st with | .a => y.x = x.x | .x => y.a = x.a)
    (∀ cf g f n, able (.faddr c cf g f n) .a (.faddr cf g f n) → ∃ t : State, exec (.faddr c cf g f n) s = .next t ∧ issued .a (.faddr cf g f n) t) ∧
    (∀ cf g q, able (.cload c cf g q) .a (.cload cf g q) → ∃ t : State, exec (.cload c cf g q) s = .next t ∧ issued .a (.cload cf g q) t) ∧
    (∀ cf b, able (.move c cf b) .a (.move cf b) → ∃ t : State, exec (.move c cf b) s = .next t ∧ issued .a (.move cf b) t) ∧
    (∀ cf b, able (.qload c cf b) .a (.qload cf b) → ∃ t : State, exec (.qload c cf b) s = .next t ∧ issued .a (.qload cf b) t) ∧
    (∀ cf b, able (.qstore c cf b) .a (.qstore cf b) → ∃ t : State, exec (.qstore c cf b) s = .next t ∧ issued .a (.qstore cf b) t) ∧
    (∀ cf b, able (.sload c cf b) .a (.sload cf b) → ∃ t : State, exec (.sload c cf b) s = .next t ∧ issued .a (.sload cf b) t) ∧
    (∀ cf b, able (.gather c cf b) .a (.gather cf b) → ∃ t : State, exec (.gather c cf b) s = .next t ∧ issued .a (.gather cf b) t) ∧
    (∀ cf b, able (.pfetch c cf b) .a (.pfetch cf b) → ∃ t : State, exec (.pfetch c cf b) s = .next t ∧ issued .a (.pfetch cf b) t) ∧
    (∀ cf h d l, able (.repoch c cf h d l) .a (.repoch cf h d l) → ∃ t : State, exec (.repoch c cf h d l) s = .next t ∧ issued .a (.repoch cf h d l) t) ∧
    (∀ cf b, able (.racc c cf b) .a (.racc cf b) → ∃ t : State, exec (.racc c cf b) s = .next t ∧ issued .a (.racc cf b) t) ∧
    (∀ cf h g l, able (.rwait c cf h g l) .a (.rwait cf h g l) → ∃ t : State, exec (.rwait c cf h g l) s = .next t ∧ issued .a (.rwait cf h g l) t) ∧
    (∀ cf b, able (.ops c cf b) .x (.ops cf b) → b.steps ≠ 0 → ∃ t : State, exec (.ops c cf b) s = .next t ∧ issued .x (.ops cf b) t) ∧
    (∀ cf b, able (.amode c cf b) .x (.amode cf b) → ∃ t : State, exec (.amode c cf b) s = .next t ∧ issued .x (.amode cf b) t) ∧
    (∀ cf b, able (.preload c cf b) .x (.preload cf b) → ∃ t : State, exec (.preload c cf b) s = .next t ∧ issued .x (.preload cf b) t) ∧
    (∀ cf b, able (.drain c cf b) .x (.drain cf b) → ∃ t : State, exec (.drain c cf b) s = .next t ∧ issued .x (.drain cf b) t) ∧
    (∀ cf b, able (.rx c cf b) .x (.rx cf b) → ∃ t : State, exec (.rx c cf b) s = .next t ∧ issued .x (.rx cf b) t) ∧
    (∀ cf q d n, able (.qmove c cf q d n) .x (.qmove cf q d n) → ∃ t : State, exec (.qmove c cf q d n) s = .next t ∧ issued .x (.qmove cf q d n) t)) ∧
  (∀ (s : State) (c : Nat) (cf : Cf) (b : OpsB) (p k : Nat), s.reaches (.ops c cf b) c .x (.ops cf b) p k → s.clear k (.ops cf b) → b.steps = 0 →
    let x := s.core k
    (∀ o ∈ x.ops, o.id < x.next) →
    exec (.ops c cf b) s = .next (s.setCore k { x with
      x := x.x.advance
      next := x.next + 1
      comps := if cf.cfe then x.comps ++ [⟨cf.cfn, .x, x.x.pc⟩] else x.comps }))

/-- What holds an instruction from issuing (R125, R128, R130, R138, R172, R323, R565): too few bytes in a queue it pops first (STALL 0x1), too little room in one it pushes first (0x2), a full port or no free tracker (0x9), a scoreboard without room (0x7: its claims wait), a claim in conflict (0x3: the claims in no conflict are granted, the rest wait). Only the stream's state, its stall code, its object and its waiting claims change. -/
def Obligations.IssueStalls : Prop :=
  ∀ (s : State) (i : Instr) (c : Nat) (st : Strm) (o : Ovt) (p k : Nat), s.reaches i c st o p k →
    let x := s.core k
    let t := s.clock.eclk
    let stalls := fun (w n : Nat) => exec i s = .next (afterIssue o (s.setCore k (x.setStream st { x.stream st with state := 3, stall := w, obj := n })))
    (∀ cf b r, o = .qstore cf b → nthUnit (dstOf x o) 0 0 = some r → (x.queue b.f0).bytes.length < r.len → stalls 1 b.f0) ∧
    (∀ cf b r, o = .qload cf b → nthUnit (srcOf x o) 0 0 = some r → (x.queue b.f1).free < r.len → stalls 2 b.f1) ∧
    (∀ cf b, o = .gather cf b → (x.queue b.qi).bytes.length < 4 → stalls 1 b.qi) ∧
    (x.queueHold o = none → portRoom x o = false → stalls 9 0) ∧
    (x.queueHold o = none → groupRoom x o = false → stalls 9 0) ∧
    (x.queueHold o = none → fabricUser x o = true → 1536 ≤ s.trackers k → stalls 9 0) ∧
    (x.queueHold o = none → portRoom x o = true → groupRoom x o = true → (fabricUser x o = true → s.trackers k < 1536) →
      64 < x.held.length + (claimsOf x o).length →
      exec i s = .next (afterIssue o (s.setCore k (x.setStream st { x.stream st with
        state := 3, stall := 7, obj := 0, hold := some ⟨t, o, [], claimsOf x o⟩ })))) ∧
    (s.clear k o → ∀ w r, (claimsOf x o).filter (fun e => !x.free st t [e] x.held) = w :: r →
      exec i s = .next (afterIssue o (s.setCore k (x.setStream st { x.stream st with
        state := 3, stall := 3, obj := w.region
        hold := some ⟨t, o, (claimsOf x o).filter (fun e => x.free st t [e] x.held), w :: r⟩ }))))

/-- CLAIM_GRANT (R137 to R140): a waiting claim is granted once it conflicts with no claim held and with no claim that an earlier waiting instruction wants, in a scoreboard with room for all the instruction's claims; with its last claim the instruction issues with all of them, else it goes on waiting for the others. A claim in conflict is not granted. Claims conflict on one region, unless both are READ or both are ACC (R137). -/
def Obligations.ClaimsGranted : Prop :=
  (∀ (s : State) (c : Nat) (st : Strm) (n p k : Nat) (h : Hold) (w : Claim), c < 128 → n < 256 → s.partOf c = some p → s.phys c = some k →
    let x := s.core k
    let t := x.stream st
    let g : Hold := { h with got := h.got ++ [w], want := h.want.erase w }
    t.hold = some h → h.want.find? (fun e => e.region == n) = some w →
    (x.free st h.t [w] (x.heldBut st) = true → x.held.length + h.want.length ≤ 64 →
      (∀ v r, g.want = v :: r → exec (.claimGrant c st n) s = .next (s.setCore k (x.setStream st { t with hold := some g, state := 3, stall := 3, obj := v.region })).settleRed) ∧
      (g.want = [] → exec (.claimGrant c st n) s = .next (((s.setCore k (x.setStream st { t with hold := none })).issueOp k st (s.part p).step h.ins g.got)).settleRed)) ∧
    (x.free st h.t [w] (x.heldBut st) = false → exec (.claimGrant c st n) s = .next s.settleRed)) ∧
  (∀ a b : Claim, a.conflicts b = true ↔ a.region = b.region ∧ ¬ (a.mode = .read ∧ b.mode = .read) ∧ ¬ (a.mode = .acc ∧ b.mode = .acc))

/-- REQUEST_SEND (R316 to R324, R11, R286): the request first in sending order takes a tracker and enters the fabric with its time, its bytes' place, the burst that it joins or opens and, for a write, the bytes; the tracker is counted. Where that was the last tracker, a waiting A-stream instruction that makes fabric requests holds no claim and stalls with 0x9. A word that is not mapped is not accessed: the program ends with ADDRESS_FAULT. READ_RESPONSE_LAND (R147, R155, R194, R322, R323): the data of a served read enters the core, over a route that is open, and its tracker is freed; an A-stream that waits for a tracker goes on. A transfer notes the bytes at their place; a spread load lays them in its bank; a CLOAD's value waits for its turn, or ends the program where it is poisoned (POISON_CONSUMED) or above the slot's maximum (COUNT_BOUND). WRITE_ACKNOWLEDGE (R147, R286, R322): a write that has been served, or a potluck contribution whose rounds are applied, counts one more destination request done, and its tracker is freed; with the last of them the transfer completes: its record leaves, and its completion add falls due. -/
def Obligations.RequestsTravel : Prop :=
  (∀ (s : State) (c k : Nat) (e : Cand) (z : Option Nat), c < 128 → s.phys c = some k →
    let x := s.core k
    let all := (x.candsAt false).map (fun e => (e, s.stampOf k e))
    pickCand (all.filter (fun e => s.maySend k e && (e.2.isSome || !all.any (fun e => e.2.isSome)))) = some (e, z) →
    let j := joinBurst x.bursts (s.fabNext + 1) s.clock.eclk e.req.addr (decide (e.kind = .write)) z.isSome
    let r : FabReq := ⟨s.fabNext, k, e.op.id, e.kind, e.req.addr, e.req.len, e.req.pos,
      (if e.kind = .write ∨ e.kind = .pot then (landedAt e.op.landed e.req.pos e.req.len).getD [] else []), s.clock.eclk, z, false,
      (if e.kind = .pot then (List.range (e.req.len / 4)).map (fun i => e.req.addr + 4 * i) else []),
      (if e.kind = .read ∨ e.kind = .write then j.2.1 else 0)⟩
    let o : Op := match e.kind with
      | .read => { e.op with rsent := e.op.rsent + 1 }
      | .flag _ _ _ => { e.op with wsent := e.op.wsent + 1 }
      | _ => { e.op with wsent := e.op.wsent + 1, landed := dropLanded e.op.landed e.req.pos e.req.len }
    ((s.keyOf e.req.addr ≠ none ∨ ∃ t n m, e.kind = .flag t n m) →
      ∃ t : State, exec (.requestSend c) s = .next t ∧ t.fab = s.fab ++ [r] ∧ t.fabNext = s.fabNext + 1 ∧
        { t.core k with a := x.a } = { x.setOp o with bursts := if e.kind = .read ∨ e.kind = .write then j.1 else x.bursts } ∧ s.sameCoresBut t k ∧
        (s.trackers k + 1 < 1536 ∨ (∀ h, x.a.hold = some h → fabricUser x h.ins = false) → (t.core k).a = x.a) ∧
        (∀ h, x.a.hold = some h → fabricUser x h.ins = true → s.trackers k + 1 = 1536 →
          (t.core k).a = { x.a with state := 3, stall := 9, obj := 0, hold := none }) ∧
        t.fld (rFeedStat k) 63 53 = (s.trackers k + 1) % 2048 ∧
        t = { s with fab := t.fab, fabNext := t.fabNext, cores := t.cores, regs := t.regs } ∧
        s.sameRegsBut t (fun a => a = rFeedStat k ∨ a = rFeedMerge k)) ∧
    (s.keyOf e.req.addr = none → (∀ t n m, e.kind ≠ .flag t n m) →
      exec (.requestSend c) s = .next (s.abort c tAddressFault e.op.st e.op.pc))) ∧
  (∀ (s : State) (id c p : Nat) (r : FabReq) (o : Op), Instr.wf (.readResponseLand id) = true → s.fabReq id = some r → r.kind = .read → r.served = true → r.data ≠ [] →
    s.logicalOf r.core = some c → s.partOf c = some p → (s.core r.core).op r.op = some o →
    let k := r.core
    let f := s.freeReq r
    let x := f.core k
    s.route (s.dieOf k r.addr) (coreDie k) = true →
    x = (if (s.core k).a.state = 3 ∧ (s.core k).a.stall = 9 ∧ f.trackers k < 1536
      then { s.core k with a := { (s.core k).a with state := 2, stall := 0 } } else s.core k) ∧
    f.trackers k = (s.fab.filter (fun e => e.core == k && e.id != r.id)).length ∧ f.fabReq id = none ∧
    ((∀ cf b, o.ins ≠ .sload cf b) → (∀ cf g q, o.ins ≠ .cload cf g q) →
      exec (.readResponseLand id) s = .next (f.setCore k (x.settle { o with rland := o.rland + 1, landed := putLanded o.landed r.pos r.data })).settleRed) ∧
    (∀ cf b, o.ins = .sload cf b →
      exec (.readResponseLand id) s = .next (f.setCore k ((x.fillSpread o b r.pos r.data).settle
        { o with rland := o.rland + 1, cnt := if r.pos < tileBytes b then o.cnt + 1 else o.cnt })).settleRed) ∧
    (∀ cf g q, o.ins = .cload cf g q →
      let v := x.slot q
      let n := ofLe (r.data.map (·.1))
      (r.data.any (·.2) = true → exec (.readResponseLand id) s = .next (f.terminate p tPoison (.at c o.st o.pc)).settleRed) ∧
      (r.data.any (·.2) = false → v.max < n → exec (.readResponseLand id) s = .next (f.terminate p tCountBound (.at c o.st o.pc)).settleRed) ∧
      (r.data.any (·.2) = false → n ≤ v.max → ∀ w l, v.writes = w :: l → w.op ≠ some o.id →
        exec (.readResponseLand id) s = .next (f.setCore k ((x.setOp { o with rland := 1, claims := [] }).setSlot q
          { v with writes := v.writes.map (fun w => if w.op = some o.id then { w with value := some n } else w) })).settleRed))) ∧
  (∀ (s : State) (id : Nat) (r : FabReq) (o : Op), Instr.wf (.writeAcknowledge id) = true → s.fabReq id = some r → (r.kind = .write ∨ r.kind = .pot) → r.served = true → r.left = [] →
    (s.core r.core).op r.op = some o → s.route (s.dieOf r.core r.addr) (coreDie r.core) = true →
    let x := (s.freeReq r).core r.core
    let d := { o with wdone := o.wdone + 1 }
    exec (.writeAcknowledge id) s = .next ((s.freeReq r).setCore r.core (x.settle d)) ∧
    ((∃ cf b, o.ins = .move cf b ∨ o.ins = .qstore cf b) → o.wdone + 1 = reqCount o.dst →
      (x.settle d).ops = x.ops.filter (fun e => e.id != o.id) ∧ (x.settle d).comps = (if o.cf.cfe then x.comps ++ [⟨o.cf.cfn, o.st, o.pc⟩] else x.comps)))

/-- QUEUE_PUSH (R130, R132, R188): the bytes of the next 64-byte request of the oldest transfer to a queue enter at its back once they have landed and there is room for all of them; a poisoned byte marks its 4-byte word. Without room nothing enters. Every other queue keeps its contents. QUEUE_POP of a QSTORE (R130, R132, R188): the bytes of its next 64-byte request leave the front of the queue, with their marks, once all are there. A word's mark goes with its last byte. QUEUE_POP of a GATHER (R132, R196): it pops one 4-byte index. The null index adds a row of zeros without an access; a poisoned index ends the program with POISON_CONSUMED, a row outside the claimed region with ADDRESS_FAULT, before any access; any other adds its row at base + index × stride. -/
def Obligations.QueuesMove : Prop :=
  (∀ (s : State) (c q k : Nat) (o : Op) (u : Req) (bs : List PByte), Instr.wf (.queuePush c q) = true → s.phys c = some k →
    let x := s.core k
    let v := x.queue q
    x.nextPush q = some (o, u, bs) →
    (u.len ≤ v.free → ∃ w : Queue,
      exec (.queuePush c q) s = .next (s.setCore k ((x.setQueue q w).settle
        { o with pushed := o.pushed + u.len, cnt := o.cnt + 1, landed := dropLanded o.landed u.pos u.len })) ∧
      w.bytes = v.bytes ++ bs.map (·.1) ∧ w.head = v.head ∧ w.depth = v.depth ∧ w.pops = v.pops ∧
      ∀ n, w.poison.contains n = true ↔ v.poison.contains n = true ∨ ∃ i b, bs[i]? = some (b, true) ∧ n = (v.head + v.bytes.length + i) / 4) ∧
    (v.free < u.len → exec (.queuePush c q) s = .next s)) ∧
  (∀ (s : State) (c q k : Nat) (o : Op) (u : Req) (cf : Cf) (b : XferB), Instr.wf (.queuePop c q []) = true → s.phys c = some k →
    let x := s.core k
    let v := x.queue q
    (x.ops.filter (fun o => o.st == .a && o.popsFrom q)).head? = some o → o.ins = .qstore cf b → nthUnit o.dst 0 o.cnt = some u → u.len ≤ v.bytes.length →
    ∃ w : Queue,
      exec (.queuePop c q []) s = .next (s.setCore k ((x.setQueue q w).setOp
        { o with popped := o.popped + u.len, cnt := o.cnt + 1
                 landed := putLanded o.landed u.pos ((v.bytes.take u.len).zipIdx.map (fun p => (p.1, v.poison.contains ((v.head + p.2) / 4)))) })) ∧
      w.bytes = v.bytes.drop u.len ∧ w.head = v.head + u.len ∧ w.depth = v.depth ∧ w.pushes = v.pushes ∧
      ∀ n, w.poison.contains n = true ↔ v.poison.contains n = true ∧ v.head + u.len < 4 * n + 4) ∧
  (∀ (s : State) (c q k p : Nat) (o : Op) (cf : Cf) (b : GatherB), Instr.wf (.queuePop c q []) = true → s.phys c = some k → s.partOf c = some p →
    let x := s.core k
    let v := x.queue q
    let n := ofLe (v.bytes.take 4)
    let y := x.setQueue q (v.pop 4 s.clock.eclk)
    let a := o.col0 + n * b.istr * 64
    let d := { o with popped := o.popped + 4 }
    (x.ops.filter (fun o => o.st == .a && o.popsFrom q)).head? = some o → o.ins = .gather cf b → 4 ≤ v.bytes.length →
    let marked := ∃ i < 4, v.poison.contains ((v.head + i) / 4) = true
    (marked → exec (.queuePop c q []) s = .next ((s.setCore k y).terminate p tPoison (.at c o.st o.pc))) ∧
    (¬ marked → n = 0xFFFFFFFF → exec (.queuePop c q []) s = .next (s.setCore k (y.settle
      { d with src := o.src ++ [⟨none, b.rbytes⟩], landed := putLanded o.landed (segBytes o.src) (List.replicate b.rbytes (0, false)) }))) ∧
    (¬ marked → n ≠ 0xFFFFFFFF → o.region.1 ≤ a → a + b.rbytes ≤ o.region.1 + o.region.2 →
      exec (.queuePop c q []) s = .next (s.setCore k (y.settle { d with src := o.src ++ [⟨some a, b.rbytes⟩] }))) ∧
    (¬ marked → n ≠ 0xFFFFFFFF → a < o.region.1 ∨ o.region.1 + o.region.2 < a + b.rbytes →
      exec (.queuePop c q []) s = .next ((s.setCore k y).terminate p tAddressFault (.at c o.st o.pc))))

/-- HAMPER_ACCESS (R315, R444, R446): the core's first access to its own hamper, in sending order, is made. A read takes the bytes with their marks, after its uncorrectable 8-byte groups are marked; a write stores its bytes; nothing else of memory changes. -/
def Obligations.HamperAccessed : Prop :=
  ∀ (s : State) (c k key : Nat) (ce ue : List Nat) (e : Cand) (z : Option Nat), Instr.wf (.hamperAccess c ce ue) = true → s.phys c = some k →
    let x := s.core k
    pickCand ((x.candsAt true).map (fun e => (e, s.stampOf k e))) = some (e, z) → s.keyOf e.req.addr = some key → x.op e.op.id = some e.op →
    let bad := ((ue.filter (fun g => decide (g < 8))).filter (fun g => !s.mem.bad (key / 64 * 64 + 8 * g))).dedup
    let m := bad.foldl (fun m g => m.setPoison (key / 64 * 64 + 8 * g) true) s.mem
    (e.kind = .read → (∀ cf b, e.op.ins ≠ .sload cf b) → (∀ cf g q, e.op.ins ≠ .cload cf g q) → ∃ t : State,
      exec (.hamperAccess c ce ue) s = .next t.settleRed ∧ t.mem = m ∧
      t.core k = (x.setOp { e.op with rsent := e.op.rsent + 1 }).settle
        { e.op with rsent := e.op.rsent + 1, rland := e.op.rland + 1, landed := putLanded e.op.landed e.req.pos (m.readB key e.req.len) } ∧
      t.events.length = s.events.length + bad.length + ce.length ∧
      t = { s with mem := t.mem, cores := t.cores, events := t.events }) ∧
    (e.kind = .write → ∀ bs, landedAt e.op.landed e.req.pos e.req.len = some bs → ∃ t : State,
      exec (.hamperAccess c ce ue) s = .next t.settleRed ∧ t.mem = s.mem.writeB key bs ∧ s.sameCoresBut t k ∧
      t = { s with mem := t.mem, cores := t.cores, regs := t.regs })

/-- Scratchpad slices (R277, R280, R284, R286, R299, R301 to R304, R309): where its arbiter picks it, a read of a word within 16 ECLK of another read of it is answered from the merge, which is counted, without a bank access; any other takes the bank for 2 ECLK once it is free and the word is not under test, opens the merge, and marks the 8-byte groups found uncorrectable; the bytes and marks the request gets are those of memory then. A masked write takes the bank, closes the merge and stores its bytes, nothing else. A request that the arbiter does not pick waits. A scrub reads the slice's next row, one access to each bank. MARCH_COMPLETE (R308 to R310, R299, R454): SLC_MARCH reports the result with the number of failing words and the first of them, each is a failed test of the slice, and the failing rows fall due for spares; after a destructive march every word of the slice reads zero and its merges are closed; a preserving one leaves every byte, and marks the words that held an uncorrectable error. -/
def Obligations.SlicesServe : Prop :=
  (∀ s : State,
    (∀ id ce ue r, Instr.wf (.sliceRead id ce ue) = true → s.waits id .read false = some r → r.addr < hamperDpa → r.addr % 64 + r.len ≤ 64 →
      (s.sliceTurn r = false → exec (.sliceRead id ce ue) s = .next s) ∧
      (s.sliceTurn r = true → s.mergeOpen r.addr = true → exec (.sliceRead id ce ue) s =
        .next (((s.addFld (rSlcMerge (sliceOf r.addr)) 63 0 1).sliceGrant r 0).setReq { r with served := true, data := s.readMem r.addr r.len })) ∧
      (s.sliceTurn r = true → s.mergeOpen r.addr = false → ∃ t : State, exec (.sliceRead id ce ue) s = .next t ∧
        (∀ k, t.mem.byte k = s.mem.byte k) ∧
        (∀ k, t.mem.bad k = true ↔ s.mem.bad k = true ∨ ∃ g ∈ ue, groupOf k = r.addr / 64 * 64 + 8 * g) ∧
        t.fabReq id = some { r with served := true, data := t.readMem r.addr r.len } ∧
        Tab.find t.merge (r.addr / 64) = some s.clock.eclk ∧
        Tab.get t.busy 0 (bankKey r.addr) = max (s.clock.eclk + s.marchWait r.addr) (Tab.get s.busy 0 (bankKey r.addr)) + 2 ∧
        Tab.get t.grants 0 (sliceOf r.addr) = r.burst ∧ Tab.get t.turns 135 (sliceOf r.addr) = s.masterOf r ∧
        t = { s with mem := t.mem, regs := t.regs, events := t.events, busy := t.busy, merge := t.merge, fab := t.fab, grants := t.grants, turns := t.turns, deficit := t.deficit })) ∧
    (∀ id r, s.waits id .write false = some r → s.sliceTurn r = false → exec (.sliceWrite id) s = .next s) ∧
    (∀ id r, s.waits id .write false = some r → s.sliceTurn r = true → r.addr < hamperDpa → r.addr % 64 + r.data.length ≤ 64 →
      ∃ t : State, exec (.sliceWrite id) s = .next t ∧
        (∀ i b, r.data[i]? = some b → t.mem.byte (r.addr + i) = b.1) ∧ s.sameMemBut t r.addr r.data.length ∧
        t.fabReq id = some { r with served := true } ∧ Tab.find t.merge (r.addr / 64) = none ∧
        Tab.get t.busy 0 (bankKey r.addr) = max (s.clock.eclk + s.marchWait r.addr) (Tab.get s.busy 0 (bankKey r.addr)) + 2 ∧
        Tab.get t.grants 0 (sliceOf r.addr) = r.burst ∧ Tab.get t.turns 135 (sliceOf r.addr) = s.masterOf r) ∧
    (∀ n ce ue, Instr.wf (.sliceScrub n ce ue) = true → ∃ t : State, exec (.sliceScrub n ce ue) s = .next t ∧
        Tab.get t.scrubRow 0 n = (Tab.get s.scrubRow 0 n % 4096 + 1) % 4096 ∧
        (∀ k, t.mem.byte k = s.mem.byte k) ∧
        (∀ k, t.mem.bad k = true ↔ s.mem.bad k = true ∨ ∃ g ∈ ue, groupOf k = sliceDpa n (g / 8) (Tab.get s.scrubRow 0 n % 4096) + g % 8 * 8) ∧
        (∀ b < 32, let a := sliceDpa n b (Tab.get s.scrubRow 0 n % 4096)
          Tab.get t.busy 0 (bankKey a) = max (s.clock.eclk + s.marchWait a) (Tab.get s.busy 0 (bankKey a)) + 2) ∧
        (ue = [] → (∀ g ∈ ce, s.mem.bad (sliceDpa n (g / 8) (Tab.get s.scrubRow 0 n % 4096) + g % 8 * 8) = false) → t.fld (rSlcEcc n) 47 16 = min (s.fld (rSlcEcc n) 47 16 + ce.length) (2 ^ 32 - 1) ∧ t.events.length = s.events.length + ce.length) ∧
        t = { s with mem := t.mem, regs := t.regs, events := t.events, scrubRow := t.scrubRow, busy := t.busy, deficit := t.deficit })) ∧
  (∀ (s : State) (n : Nat) (fails lost : List Nat), Instr.wf (.marchComplete n ⟨fails, lost⟩) = true → s.fld (rSlcMarch n) 63 60 = 1 ∨ s.fld (rSlcMarch n) 63 60 = 2 →
    ∃ t : State, exec (.marchComplete n ⟨fails, lost⟩) s = .next t ∧
      t.fld (rSlcMarch n) 63 60 = (if fails = [] then 3 else 4) ∧ t.fld (rSlcMarch n) 49 32 = fails.length % 2 ^ 18 ∧
      (∀ w l, fails = w :: l → t.fld (rSlcMarch n) 28 24 = w / 4096 % 32 ∧ t.fld (rSlcMarch n) 23 12 = w % 4096) ∧
      (fails = [] → t.fld (rSlcMarch n) 28 24 = s.fld (rSlcMarch n) 28 24 ∧ t.fld (rSlcMarch n) 23 12 = s.fld (rSlcMarch n) 23 12) ∧
      (∃ l : List UEvent, t.events = s.events ++ l ++ fails.map (fun w => ⟨unitSlice n, evTestFail, s.eventSecond, detailOf [w / 4096, w % 4096]⟩) ∧
        l.length ≤ lost.length ∧ (s.fld (rSlcMarch n) 63 60 = 2 → l = []) ∧ ∀ e ∈ l, e.unit = unitSlice n ∧ e.kind = evUe) ∧
      (∀ w ∈ fails, (n, w / 4096, w % 4096) ∈ t.flash.badRows) ∧ (∀ e ∈ s.flash.badRows, e ∈ t.flash.badRows) ∧
      (s.fld (rSlcMarch n) 63 60 = 1 → ∀ k, t.mem.byte k = s.mem.byte k ∧ (t.mem.bad k = true ↔ s.mem.bad k = true ∨ ∃ w ∈ lost, ∃ g < 8, groupOf k = sliceDpa n (w / 4096) (w % 4096) + 8 * g)) ∧
      (s.fld (rSlcMarch n) 63 60 = 2 → ∀ k < hamperDpa, (sliceOf k = n → t.mem.byte k = 0 ∧ t.mem.bad k = false) ∧ (sliceOf k ≠ n → t.mem.byte k = s.mem.byte k ∧ t.mem.bad k = s.mem.bad k)) ∧
      t = { s with mem := t.mem, regs := t.regs, events := t.events, flash := { s.flash with badRows := t.flash.badRows }, merge := t.merge } ∧
      (s.fld (rSlcMarch n) 63 60 = 2 → ∀ x ∈ t.merge, x ∈ s.merge ∧ sliceOf (64 * x.1) ≠ n))

/-- Potluck (R293 to R298): a contribution that reaches its destination, at a slice where the arbiter picks it, joins its words' rounds, one for each 4-byte word, and is served; one of a program that has ended is discarded. A round is applied when every member of the word's set has contributed: the word becomes the old value plus the canonical tree sum, rounded to nearest even, and is poisoned where a contribution or the word was; the contributions leave. Nothing is applied before. -/
def Obligations.PotluckRounds : Prop :=
  ∀ s : State,
    (∀ id r c o p, s.fabReq id = some r → r.kind = .pot → r.served = false → s.route (coreDie r.core) (s.dieOf r.core r.addr) = true → (r.addr < hamperDpa → s.sliceTurn r = true) → s.logicalOf r.core = some c → (s.core r.core).op r.op = some o → s.partOf c = some p →
      ∃ t : State, exec (.potluckContribution id) s = .next t ∧ t.fabReq id = some { r with served := true } ∧
        (∀ a, a ∈ r.left → r.left.Nodup → ∃ w x, Tab.find t.pot a = some w ∧ w.contribs = (Tab.get s.pot ⟨p, s.potSet p a, []⟩ a).contribs ++ [x] ∧ x.core = c ∧ x.req = r.id ∧
          x.val = (BitVec.ofNat 32 (ofLe (((r.data.drop (a - r.addr)).take 4).map (·.1))), ((r.data.drop (a - r.addr)).take 4).any (·.2))) ∧
        (∀ a, a ∉ r.left → Tab.find t.pot a = Tab.find s.pot a) ∧ t = { s with fab := t.fab, pot := t.pot, regs := t.regs, grants := t.grants, turns := t.turns, deficit := t.deficit }) ∧
    (∀ id r, s.fabReq id = some r → r.kind = .pot → r.served = false → s.route (coreDie r.core) (s.dieOf r.core r.addr) = true → (r.addr < hamperDpa → s.sliceTurn r = true) → s.logicalOf r.core = none →
      exec (.potluckContribution id) s = .next ((if r.addr < hamperDpa then s.sliceGrant r 0 else s).setReq { r with served := true, left := [] })) ∧
    (∀ a w, Instr.wf (.potluckRoundApply a .good) = true → Tab.find s.pot a = some w → w.members.mapM (s.nextContrib a w) = none →
      exec (.potluckRoundApply a .good) s = .next s) ∧
    (∀ a w xs x l, Tab.find s.pot a = some w → w.members.mapM (s.nextContrib a w) = some xs → xs = x :: l → a + 4 ≤ hamperDpa → a % 4 = 0 →
      let old := s.readMem a 4
      let sum := (add32 (BitVec.ofNat 32 (ofLe (old.map (·.1)))) (treeSum 8 (xs.map (fun x => (x.val.1, 0)))).1).1
      ∃ t : State, exec (.potluckRoundApply a .good) s = .next t ∧
        t.mem.word32 a = sum ∧ s.sameMemBut t a 4 ∧
        (t.mem.bad a = true ↔ s.mem.bad a = true ∨ ∃ x ∈ xs, x.val.2 = true) ∧
        (∀ y, y ∈ (Tab.get t.pot w a).contribs → Tab.find t.pot a ≠ none → y ∈ w.contribs ∧ ∀ x ∈ xs, y.req ≠ x.req))

/-- Bridge links (R290, R291): a good block within the 64 of the replay buffer is acknowledged, and delivered once every earlier one has been; a damaged one is answered by a NACK, and the fourth failure in a row of the same block retrains the link. A NACK resends a block that is still in the sender's replay buffer, which the link counts; an ACK takes it out. After retraining the link is up, or down where retraining failed or was the third within 1 s: the blocks of both replay buffers are then resent, counted, and taken in at their other ends. ROUTER_FAILURE (R306, R307, R454): the router is recorded as failed and a direct fault of it falls due for unit history; a core's router brings a direct fault of its core too, and fences it. Where that takes both ways to a slice, every program ends with HW_FAULT and the device is recorded as failed. A failure recorded before changes nothing. -/
def Obligations.LinksAndRouters : Prop :=
  (∀ (s : State) (d n q : Nat), d < 4 → n < 4 → q < 2 ^ 32 →
    let e := 4 * d + n
    let l := s.link e
    let g := s.link (farEnd d n)
    (s.fld (rLink d n) 63 62 = 0 → q = l.recvSeq → g.replay.contains q = true →
      (l.held = [] → exec (.bridgeBlockReceive d n q true) s = .next (((s.updLink (farEnd d n) id).updLink e
        (fun x => { x with held := [], recvSeq := (q + 1) % 2 ^ 32, fails := Tab.del x.fails q })).emit (.bridgeAck d n q))) ∧
      (Tab.get l.fails 0 q < 3 → exec (.bridgeBlockReceive d n q false) s = .next (((s.updLink (farEnd d n) id).updLink e
        (fun x => { x with fails := Tab.put x.fails q (Tab.get l.fails 0 q + 1) })).emit (.bridgeNack d n q))) ∧
      (3 ≤ Tab.get l.fails 0 q → ∃ t : State, exec (.bridgeBlockReceive d n q false) s = .next t ∧
        (∀ a ∈ linkRegs d n, t.fld a 63 62 = 1 ∧ t.fld a 47 32 = min (s.fld a 47 32 + 1) 65535) ∧
        t.events = s.events ++ [⟨unitLink d n, evCe, s.eventSecond, 0⟩] ∧ (t.link e).fails = [] ∧ s.now ∈ (t.link e).retrains)) ∧
    ((s.link (senderEnd d n)).replay.contains q = true → ∃ t : State, exec (.bridgeNack d n q) s = .next t ∧
      (∀ a ∈ linkRegs d n, t.fld a 31 0 = min (s.fld a 31 0 + 1) (2 ^ 32 - 1)) ∧ s.sameRegsBut t (· ∈ linkRegs d n) ∧ t = { s with regs := t.regs }) ∧
    exec (.bridgeAck d n q) s = .next (s.updLink (senderEnd d n) (fun l => { l with replay := l.replay.erase q })) ∧
    (s.fld (rLink d n) 63 62 = 1 →
      let again := (l.retrains ++ (if n = 3 then [] else g.retrains)).filter (fun t => decide (s.now < t + 1000000000))
      (again.length < 3 → ∃ t : State, exec (.linkRetrainEnd d n true) s = .next t ∧
        (∀ a ∈ linkRegs d n, t.fld a 63 62 = 0) ∧ s.sameRegsBut t (· ∈ linkRegs d n) ∧ t = { s with regs := t.regs }) ∧
      (∀ ok, ok = false ∨ 3 ≤ again.length → ∃ t : State, exec (.linkRetrainEnd d n ok) s = .next t ∧
        (∀ a ∈ linkRegs d n, t.fld a 63 62 = 2 ∧ t.fld a 31 0 = min (s.fld a 31 0 + l.replay.length + g.replay.length) (2 ^ 32 - 1)) ∧
        (t.link e).replay = [] ∧ (t.link (farEnd d n)).replay = [] ∧
        (l.replay = [g.recvSeq] → g.held = [] → (t.link (farEnd d n)).recvSeq = (g.recvSeq + 1) % 2 ^ 32) ∧
        t.events = s.events ++ [⟨unitLink d n, evUe, s.eventSecond, 0⟩] ∧ t = { s with regs := t.regs, links := t.links, events := t.events }))) ∧
  (∀ (s : State) (d r : Nat), d < 4 → r < 38 →
    let due := fun (u : Nat) => (⟨u, evDirect, s.eventSecond, 0⟩ : UEvent)
    let u := ({ s with events := s.events ++ (if r < 34 then [due (unitRouter (34 * d + r)), due (unitCore (34 * d + r))] else [due (unitRouter (136 + 4 * d + (r - 34)))]) } : State).setFld (rRtr d) r r 1
    let v := if r < 34 then u.fenceCore (34 * d + r) else u
    (s.fld (rRtr d) r r = 1 → exec (.routerFailure d r) s = .next s) ∧
    (s.fld (rRtr d) r r = 0 → u.fld (rRtr d) r r = 1 ∧
      (v.slicesLost d = false → exec (.routerFailure d r) s = .next v) ∧
      (v.slicesLost d = true → exec (.routerFailure d r) s = .next ((List.range 8).foldl (fun s p => s.terminate p tHwFault .none) v).setArb.failDevice)))

/-- Stacked-memory requests (R336, R337, R340 to R342, R345, R346): a controller that is up serves a read, where it is the next of its pseudo-channel, with the bytes and marks of memory, counts the word, marks the bursts found uncorrectable, whose rows it lists as failing, and counts those corrected that carry no mark; it stores a write's bytes and nothing else, and counts the word. A faulty channel answers a read with every byte poisoned and discards a write. The scrub reads the channel's next burst below level HOT. 16 interface errors within 1 s make a retraining fall due. A channel's upkeep (R331, R338, R343 to R346, R355): refreshes change nothing; a readout notes the stack's temperature and its level, which rises at a threshold and falls 3 °C below it, counts the time at HOT, reports the entry to HOT to the hosts of the epochs held on the channel, and makes a retraining fall due after 20 °C of drift; CRIT removes compute power. A retraining that is due starts where nothing else retrains or tests the channel, and ends with the channel up with its spare lanes, or faulty. A generator run ends with its status; in modes 2 and 3 what it addressed is undefined. -/
def Obligations.ChannelsServe : Prop :=
  (∀ (s : State) (q : Nat),
    (∀ id e0 e1 odc r, s.waits id .read true = some r → s.chanAt r.addr = some q →
      (s.chanState q = 5 → exec (.hmcRead id e0 e1 odc) s = .next (s.setReq { r with served := true, data := (s.readMem r.addr r.len).map (fun b => (b.1, true)) })) ∧
      (s.chanState q = 2 → s.chanTurn r = false → exec (.hmcRead id e0 e1 odc) s = .next s) ∧
      (s.chanState q = 3 → exec (.hmcRead id e0 e1 odc) s = .next s) ∧
      (s.chanState q = 2 → s.chanTurn r = true → ∃ t : State, exec (.hmcRead id e0 e1 odc) s = .next t ∧
        (∀ k, t.mem.byte k = s.mem.byte k) ∧
        (∀ k, t.mem.bad k = true ↔ s.mem.bad k = true ∨ e0 = .bad ∧ groupOf k = groupOf (r.addr / 64 * 64) ∨ e1 = .bad ∧ groupOf k = groupOf (r.addr / 64 * 64 + 32)) ∧
        t.fabReq id = some { r with served := true, data := t.readMem r.addr r.len } ∧
        t.fld (rHmcRdw q) 63 0 = min (s.fld (rHmcRdw q) 63 0 + 1) (2 ^ 64 - 1) ∧
        ((∀ x ∈ s.fab, x.core < 136) → t.fld (rHmcEcc q) 47 24 = min (s.fld (rHmcEcc q) 47 24 + bit (e0 == .corrected && !s.mem.bad (r.addr / 64 * 64)) + bit (e1 == .corrected && !s.mem.bad (r.addr / 64 * 64 + 32))) (2 ^ 24 - 1)) ∧
        (∀ h, e0 = .bad → s.mem.bad (r.addr / 64 * 64) = false → s.homeOf (r.addr / 64 * 64) = some h → (q, h.pc, h.bank, h.row) ∈ t.flash.chanRows) ∧
        t = { s with mem := t.mem, regs := t.regs, events := t.events, fab := t.fab, chans := t.chans, grants := t.grants, turns := t.turns, deficit := t.deficit, flash := { s.flash with chanRows := t.flash.chanRows } })) ∧
    (∀ id r, s.waits id .write true = some r → s.chanAt r.addr = some q → s.keyOf r.addr = some r.addr →
      (s.chanState q = 5 → ∃ t : State, exec (.hmcWrite id) s = .next t ∧ t.mem = s.mem ∧ t.fabReq id = some { r with served := true }) ∧
      (s.chanState q = 2 → s.chanTurn r = false → exec (.hmcWrite id) s = .next s) ∧
      (s.chanState q = 2 → s.chanTurn r = true → ∃ t : State, exec (.hmcWrite id) s = .next t ∧
        (∀ i b, r.data[i]? = some b → t.mem.byte (r.addr + i) = b.1) ∧ s.sameMemBut t r.addr r.data.length ∧ t.fabReq id = some { r with served := true } ∧
        t.fld (rHmcWrw q) 63 0 = min (s.fld (rHmcWrw q) 63 0 + 1) (2 ^ 64 - 1))) ∧
    (∀ err odc, q < 256 → s.chanState q = 2 → s.level q < 2 → ∃ t : State, exec (.hmcScrub q err odc) s = .next t ∧
      (t.chan q).scrub = ((s.chan q).scrub + 1) % chanBursts ∧ (∀ k, t.mem.byte k = s.mem.byte k) ∧
      (∀ a, granuleDpa s.removed q ((s.chan q).scrub / 128) = some a → ∀ k, t.mem.bad k = true ↔
        s.mem.bad k = true ∨ err = .bad ∧ groupOf k = groupOf (a + (s.chan q).scrub % 128 * 32)) ∧
      t = { s with mem := t.mem, regs := t.regs, events := t.events, chans := t.chans, flash := { s.flash with chanRows := t.flash.chanRows } }) ∧
    (∀ err odc, q < 256 → s.chanState q ≠ 2 ∨ 2 ≤ s.level q → exec (.hmcScrub q err odc) s = .next s) ∧
    (q < 256 → let l := (s.now :: (s.chan q).errs).filter (fun t => decide (s.now < t + 1000000000))
      exec (.interfaceError q) s = .next (s.updChan q (fun c => { c with errs := l, due := c.due || decide (16 ≤ l.length) })))) ∧
  (∀ (s : State) (q : Nat), q < 256 →
    (∀ b, b < 128 → exec (.refresh q b) s = .next s) ∧ exec (.refreshManagement q) s = .next s ∧
    (∀ temp, temp < 256 → s.computeOn = true →
      let l := s.levelAt (s.level q) temp
      (l < 2 ∨ l = 2 ∧ 2 ≤ s.level q → ∃ t : State, exec (.temperatureReadout q temp) s = .next t ∧ t.fld (rHmcStat q) 57 50 = temp ∧ t.level q = l ∧
        (l = 2 → t.reg (rHmcThr q) = min (s.reg (rHmcThr q) + 1000000) (2 ^ 64 - 1)) ∧
        (∀ z, (s.chan q).trained = some z → (t.chan q).due = ((s.chan q).due || decide (z + 20 ≤ temp ∨ temp + 20 ≤ z))) ∧
        ((s.chan q).trained = none → (t.chan q).trained = some temp) ∧
        s.sameRegsBut t (fun a => a = rHmcStat q ∨ a = rHmcThr q) ∧ t = { s with regs := t.regs, chans := t.chans }) ∧
      (l = 2 → s.level q < 2 → ∃ t : State, exec (.temperatureReadout q temp) s = .next (t.hotNotice q).settleRed ∧ t.fld (rHmcStat q) 57 50 = temp ∧ t.level q = 2 ∧
        t.reg (rHmcThr q) = min (s.reg (rHmcThr q) + 1000000) (2 ^ 64 - 1) ∧ t = { s with regs := t.regs, chans := t.chans }) ∧
      (l = 3 → ∃ t : State, exec (.temperatureReadout q temp) s = .next (t.shutDown 5) ∧ t.fld (rHmcStat q) 57 50 = temp ∧ t.level q = 3 ∧ t = { s with regs := t.regs, chans := t.chans })) ∧
    (∀ l now temp, 1 ≤ l → l ≤ 3 → (l ≤ s.levelAt now temp ↔ ∃ m, l ≤ m ∧ m ≤ 3 ∧ (s.threshold m ≤ temp ∨ m ≤ now ∧ s.threshold m < temp + 3))) ∧
    ((s.chan q).due = true → s.chanState q = 2 → s.retraining = none → (∀ r ∈ s.runs, r.unit ≠ unitChan q) →
      exec (.channelRetraining q) s = .next ((((s.updChan q (fun c => { c with due := false })).setFld (rHmcStat q) 63 60 3).channelLate q 2000).setArb).settleRed) ∧
    ((s.chan q).due = false ∨ s.retraining ≠ none → exec (.channelRetraining q) s = .next s) ∧
    (s.chanState q = 3 →
      (∀ l0 l1, l0 ≤ 2 → l1 ≤ 2 → ∃ t : State, exec (.retrainingEnd q true l0 l1) s = .next t ∧
        t.chanState q = 2 ∧ t.fld (rHmcStat q) 49 48 = l0 ∧ t.fld (rHmcStat q) 47 46 = l1 ∧
        t.chan q = { s.chan q with trained := some (s.fld (rHmcStat q) 57 50), errs := [] } ∧ t = { s with regs := t.regs, chans := t.chans }) ∧
      (∀ ok l0 l1, ok = false ∨ 2 < l0 ∨ 2 < l1 → exec (.retrainingEnd q ok l0 l1) s = .next ((s.loseChannel q).setArb).settleRed)) ∧
    (∀ w eff fpc fb fr er, Instr.wf (.tgRunComplete q eff fpc fb fr er) = true → (s.chan q).tg = some w → s.chanState q = 2 → s.level q < 2 →
      ∃ t : State, exec (.tgRunComplete q eff fpc fb fr er) s = .next t ∧ (t.chan q).tg = none ∧
        t.reg (rTgstat q) = 2 ^ 63 + eff * 2 ^ 48 + fpc * 2 ^ 47 + fb * 2 ^ 41 + fr * 2 ^ 26 + er ∧ s.sameRegsBut t (· = rTgstat q) ∧
        (bits w 63 60 ≠ 2 → bits w 63 60 ≠ 3 → t.mem = s.mem) ∧
        (bits w 63 60 = 2 ∨ bits w 63 60 = 3 → t.mem = s.mem.lay ⟨stackDpa, stackTop, .chan s.removed q (bits w 47 46) (bits w 35 30) (bits w 14 0), some s.free⟩)))

/-- Digest windows (R352 to R354): a served write of a whole word in an active region enters the accumulator of its channel as the word's contribution, any shorter one makes the window partial; poisoned bytes are noted, and a write during a sweep of the region sets HMC_DGSTn.DIRTY. DIGEST_SWEEP_COMPLETE (R354): each channel's accumulator takes the contributions of its words of the region, the digest is the exclusive OR over the mapped channels, SWEEPV is set, DIRTY stays as the writes meanwhile left it, and memory is only read. While a channel retrains the sweep goes on. -/
def Obligations.DigestsKept : Prop :=
  (∀ (s : State) (q id n : Nat) (r : FabReq), s.waits id .write true = some r → s.chanAt r.addr = some q → s.chanState q = 2 → s.chanTurn r = true → n < 16 →
    ∃ t : State, exec (.hmcWrite id) s = .next t ∧
      (s.inDigest n r.addr = true → r.data.length = 64 → t.reg (rDgwacc q n) = (BitVec.ofNat 64 (s.reg (rDgwacc q n)) ^^^ contribution (r.data.map (·.1)) r.addr).toNat) ∧
      (s.inDigest n r.addr = false → t.reg (rDgwacc q n) = s.reg (rDgwacc q n) ∧ Tab.get t.win 0 n = Tab.get s.win 0 n) ∧
      (s.inDigest n r.addr = true → Tab.get t.win 0 n =
        Tab.get s.win 0 n ||| (if r.data.length = 64 then 0 else 1) ||| (if r.data.any (·.2) then 2 else 0)) ∧
      t.fld (rDgst n) 4 4 = (if s.inDigest n r.addr = true ∧ n ∈ s.sweeps then 1 else s.fld (rDgst n) 4 4)) ∧
  (∀ (s : State) (n : Nat), n < 16 → s.sweeps.contains n = true → (s.retraining ≠ none → exec (.digestSweepComplete n) s = .next s) ∧
   (s.retraining = none → ∃ t : State, exec (.digestSweepComplete n) s = .next t ∧
    (∀ q, t.reg (rDgsacc q n) = ((List.range (((s.dgRange n).2 - (s.dgRange n).1) / 64)).foldl
      (fun v i => if s.chanAt ((s.dgRange n).1 + 64 * i) = some q then v ^^^ contribution ((s.loadWord ((s.dgRange n).1 + 64 * i) 64).map (·.1)) ((s.dgRange n).1 + 64 * i) else v)
      (BitVec.ofNat 64 (s.reg (rDgsacc q n)))).toNat) ∧
    t.reg (rDgswp n) = (s.mappedChans.foldl (fun (d : Word64) q => d ^^^ BitVec.ofNat 64 (t.reg (rDgsacc q n))) 0).toNat ∧
    t.fld (rDgst n) 3 3 = 1 ∧ t.fld (rDgst n) 4 4 = s.fld (rDgst n) 4 4 ∧
    t.sweeps = s.sweeps.erase n ∧ t = { s with regs := t.regs, sweeps := t.sweeps, chans := t.chans }))

/-- A write to HMC_DGCFGn while a sweep of its region runs (R553): it is refused with BUSY, and nothing is written. Stated of values that hold no reserved encoding. -/
def Obligations.SweptRegionBusy : Prop :=
  ∀ (s : State) (p : Pkt) (r n v : Nat), Instr.wf (.digestRegionConfig p r n v) = true → s.asks p r false false true → valueOk (rDgcfg n) v = true → n ∈ (s.asked p r).sweeps →
    exec (.digestRegionConfig p r n v) s = .next (((s.asked p r).say (asker p r) stBusy).settled p false) ∧
    exec (.regWrite p r (rDgcfg n) [v]) s = .next (((s.asked p r).say (asker p r) stBusy).settled p false)

/-- TALLY_ADD (R66 to R69, R336, R340, R345, R346, R350, R370, R397, R400): a tally unit that is up applies its oldest batch and frees the block's staging entry with its last one: an element's first addition of an epoch starts from +0, any other adds to what memory holds, rounded to nearest even; a poisoned addend or element poisons the element; nothing outside the tally word changes, and each addition is counted. While the channel retrains the batch waits. A faulty channel discards it, and the epoch's holder is lost. -/
def Obligations.TallyAdds : Prop :=
  ∀ (s : State) (q : Nat) (b : Batch), q < 256 → s.tally.find? (fun b => b.chan == q) = some b →
    (s.batchReady b = true → s.chanState q = 2 → exec (.tallyAdd q ⟨false, [], []⟩) s = .next ((s.takeBatch b).grantCredit b.rch).settleRed) ∧
    (s.batchReady b = true → s.chanState q = 5 → exec (.tallyAdd q ⟨false, [], []⟩) s = .next (((s.takeBatch b).grantCredit b.rch).holderLost b.rch).settleRed) ∧
    (s.batchReady b = false → exec (.tallyAdd q ⟨false, [], []⟩) s = .next s) ∧
    (s.batchReady b = true ↔ (s.chanState q = 2 ∨ s.chanState q = 5) ∧ ∀ c r, b.comp = some c → s.chanAt c = some r → s.chanState r = 2 ∨ s.chanState r = 5) ∧
    (s.takeBatch b).tally = s.tally.erase b ∧
    (∀ e, s.epoch b.rch = some e → e.name.rch = b.rch → ∃ f, (s.takeBatch b).epoch b.rch = some f ∧
      ((∃ x ∈ s.tally.erase b, x.rch = b.rch ∧ x.rank = b.rank ∧ x.first = b.first) → f.holder.staged = e.holder.staged) ∧
      ((∀ x ∈ s.tally.erase b, ¬ (x.rch = b.rch ∧ x.rank = b.rank ∧ x.first = b.first)) →
        f.holder.staged = e.holder.staged.filter (fun y => !(y.fed && y.rank == b.rank && y.first == b.first)))) ∧
    (∀ e, s.epoch b.rch = some e → e.name.rch = b.rch → b.comp = none → b.len ≤ 16 → b.addr % 64 = 0 → s.keyOf b.addr = some b.addr → s.faultyAt b.addr = false →
      let xs := elemsOf e.desc.wireCode b.len (s.loadBytes b.src (packedLen e.desc.wireCode b.len))
      let t := s.tallyBatch b
      (∀ i x, xs[i]? = some x →
        let a := b.addr + 4 * i
        let n := Tab.get e.holder.counts 0 ((b.addr - e.desc.tally) / 4 + i) + 1
        let old : PWord := if n = 1 then (0, false) else (s.mem.word32 a, s.mem.bad a)
        t.mem.word32 a = (add32 old.1 x.1).1 ∧ ((old.2 || x.2) = true → t.mem.bad a = true) ∧
        ∃ f, t.epoch b.rch = some f ∧ Tab.get f.holder.counts 0 ((b.addr - e.desc.tally) / 4 + i) = min n (2 ^ 20)) ∧
      (∀ i, b.len ≤ i → i < 16 → t.mem.word32 (b.addr + 4 * i) = s.mem.word32 (b.addr + 4 * i)) ∧
      s.sameMemBut t b.addr 64 ∧ t.fld (rTalAdds b.chan) 63 0 = min (s.fld (rTalAdds b.chan) 63 0 + b.len) (2 ^ 64 - 1) ∧ t.cores = s.cores)

/-- MODE_CHANGE (R91 to R93, R201): once no earlier operation on the array is unfinished, the array takes the mode and the pair types of the waiting AMODE, every accumulator set is undefined with its poison bits clear and its count 0, and the AMODE completes. Until then it waits. PRELOAD_ROW_WRITE (R73, R85, R86, R90, R202): ZERO makes every cell of the set +0; ROWB gives every row the vector of the queue, COLB every column; FULL writes the next row. Poison follows the elements, a NaN among them raises NAN_IN, the first write names the region and clears the count, and the preload completes with its last row. Without the whole vector or row it waits. -/
def Obligations.ArrayModes : Prop :=
  (∀ (s : State) (c k n : Nat) (o : Op) (cf : Cf) (b : AmodeB), c < 128 → n < 8 → s.phys c = some k →
    let x := s.core k
    ((x.arr n).amode.bind x.op) = some o → o.ins = .amode cf b →
    ((∀ y ∈ x.ops, (setOf y.ins).map (·.1) ≠ some n) → ∃ y : Core, exec (.modeChange c n) s = .next ({ s with free := s.free + 1 }.setCore k y) ∧
      (y.arr n).qm = b.qm ∧ (y.arr n).ta = b.ta ∧ (y.arr n).tb = b.tb ∧ (y.arr n).amode = none ∧
      (∀ key i j, ((y.arr n).set key).cell i j = Config.freeCell s.free (32 * i + j) ∧ ((y.arr n).set key).bad i j = false ∧ ((y.arr n).set key).kc = 0) ∧
      (∀ m, m ≠ n → y.arr m = x.arr m) ∧ y.ops = x.ops.filter (fun e => e.id != o.id) ∧
      y = { x with arrays := y.arrays, ops := y.ops, comps := y.comps }) ∧
    ((∃ y ∈ x.ops, (setOf y.ins).map (·.1) = some n) → exec (.modeChange c n) s = .next s)) ∧
  (∀ (s : State) (c k n u : Nat) (o : Op) (cf : Cf) (b : PreloadB), Instr.wf (.preloadRowWrite c n u []) = true → s.phys c = some k →
    let x := s.core k
    x.inPort n u 1 = some o → o.ins = .preload cf b → b.m < 32 → b.n < 32 → x.setTurn o = true →
    let cnt := if b.pmode = 2 then b.m + 1 else b.n + 1
    let len := cnt * (widthOf b.pt / 8)
    let es := elemsOf b.pt cnt ((x.queue b.pq).front len)
    let key := setKey u b.set
    let v := (x.arr n).set key
    let runs := fun (y : Core) => exec (.preloadRowWrite c n u []) s = .next ((s.setCore k y).raise k (nanIn (es.map (·.1))))
    (b.pmode = 0 → o.cnt = 0 → ∃ y : Core, exec (.preloadRowWrite c n u []) s = .next ((s.setCore k y).raise k (nanIn [])) ∧ (y.arr n).set key = ⟨some (b.m + 1, b.n + 1), 0, [], [], none⟩ ∧
      y.ops = x.ops.filter (fun e => e.id != o.id) ∧ y.queues = x.queues) ∧
    (b.pmode = 1 → o.cnt = 0 → x.popTurn o b.pq = true → len ≤ (x.queue b.pq).bytes.length → ∃ y : Core, runs y ∧
      (∀ i j, i ≤ b.m → j ≤ b.n → (((y.arr n).set key).cell i j, ((y.arr n).set key).bad i j) = es.getD j (0, false)) ∧
      ((y.arr n).set key).kc = 0 ∧ ((y.arr n).set key).region = some (b.m + 1, b.n + 1) ∧
      y.ops = x.ops.filter (fun e => e.id != o.id) ∧ (y.queue b.pq).bytes = (x.queue b.pq).bytes.drop len) ∧
    (b.pmode = 2 → o.cnt = 0 → x.popTurn o b.pq = true → len ≤ (x.queue b.pq).bytes.length → ∃ y : Core, runs y ∧
      (∀ i j, i ≤ b.m → j ≤ b.n → (((y.arr n).set key).cell i j, ((y.arr n).set key).bad i j) = es.getD i (0, false)) ∧
      y.ops = x.ops.filter (fun e => e.id != o.id) ∧ (y.queue b.pq).bytes = (x.queue b.pq).bytes.drop len) ∧
    (b.pmode = 3 → 0 < o.cnt → o.cnt ≤ b.m → x.popTurn o b.pq = true → len ≤ (x.queue b.pq).bytes.length → ∃ y : Core, runs y ∧
      (∀ j, j ≤ b.n → (((y.arr n).set key).cell o.cnt j, ((y.arr n).set key).bad o.cnt j) = es.getD j (0, false)) ∧
      (∀ i j, j < 32 → i ≠ o.cnt → ((y.arr n).set key).cell i j = v.cell i j ∧ ((y.arr n).set key).bad i j = v.bad i j) ∧
      (o.cnt = b.m → y.ops = x.ops.filter (fun e => e.id != o.id)) ∧ (y.queue b.pq).bytes = (x.queue b.pq).bytes.drop len) ∧
    (b.pmode ≠ 0 → (x.queue b.pq).bytes.length < (match b.pmode with | 2 => b.m + 1 | _ => b.n + 1) * (widthOf b.pt / 8) → exec (.preloadRowWrite c n u []) s = .next (s.setCore k x)))

/-- ARRAY_STEP_ENTRY (R62, R63, R65, R75, R77, R83, R86, R87, R90, R94, R115, R119, R205): with the whole step in its edge queues, an array and spread ports that take it, and a set that no earlier operation holds, the step enters: each cell of the region becomes the exact sum of itself and its products, rounded once, and is poisoned by a poisoned operand; the set's count rises, the queues are popped once, the step is counted, the quadrant is occupied for 1 ECLK, 2 at FP32, and the last step completes the OPS. A FULL preload or a drain that it enters behind is settled first. Else nothing enters. Strolls and ramps (R117 to R121): an array with no step to enter that has strolled for GAP ECLK starts its ramp-down at 7/8; once a stage has lasted 32 ECLK, a ramp-down goes one eighth lower, to idle after the last, a ramp-up one eighth higher, to full rate after the eighth. -/
def Obligations.ArraysMove : Prop :=
  (∀ (s : State) (c k n u r : Nat) (o : Op) (cf : Cf) (b : OpsB), Instr.wf (.arrayStepEntry c n u [] [] []) = true → s.phys c = some k →
    let x := s.core k
    x.inPort n u 0 = some o → o.ins = .ops cf b → b.arr = n → b.quad = u → b.m < 32 → b.n < 32 → rankOf b.ta b.tb = some r → x.members o = [o] →
    let y := (s.settleSet k o).core k
    let key := setKey u b.set
    let v := (y.arr n).set key
    let w := (stepLanes y o b r).1
    let z := (stepLanes y o b r).2.1
    let cell := fun (i j : Nat) => cellStep (v.cell i j) (v.bad i j) (w.getD i []) (z.getD j []) (if o.cnt + 1 = b.steps ∧ b.ktail ≠ 0 then b.ktail else r)
    (x.setTurn o = true → y = x) ∧
    (x.stepReady s.clock.eclk o = true → ∃ t : State, exec (.arrayStepEntry c n u [] [] []) s = .next t ∧
      (∀ i j, i ≤ b.m → j ≤ b.n → ((((t.core k).arr n).set key).cell i j, (((t.core k).arr n).set key).bad i j) = ((cell i j).1, (cell i j).2.1)) ∧
      (((t.core k).arr n).set key).kc = min (2 ^ 24) (v.kc + 1) ∧ (((t.core k).arr n).set key).region = some (b.m + 1, b.n + 1) ∧
      (∀ q, ((t.core k).queue q).bytes = (y.queue q).bytes.drop (pullBytes (stepPulls b r o.cnt) q)) ∧
      Tab.get ((t.core k).arr n).nextAt 0 u = s.clock.eclk + stepTime b ∧ ((t.core k).arr n).lastStep = s.clock.eclk ∧
      (o.cnt + 1 = b.steps → (t.core k).ops = y.ops.filter (fun e => e.id != o.id)) ∧
      t.fld (rAstep k n) 63 0 = min (s.fld (rAstep k n) 63 0 + (if (x.arr n).qm then 1 else 4)) (2 ^ 64 - 1) ∧
      s.sameCoresBut t k ∧ s.sameRegsBut t (fun a => a = rAstep k n ∨ a = rArith k) ∧ t = { s with cores := t.cores, regs := t.regs }) ∧
    (x.stepReady s.clock.eclk o = false → exec (.arrayStepEntry c n u [] [] []) s = .next (s.setCore k x))) ∧
  (∀ (s : State) (c k n : Nat), c < 128 → n < 8 → s.phys c = some k →
    let x := s.core k
    let a := x.arr n
    let t := s.clock.eclk
    let goes := fun (r : Ramp) => Host.Outcome.next (s.setCore k (x.setArr n { a with ramp := r, stageAt := a.stageAt + 32 }))
    let due := a.stageAt + 32 ≤ t
    (a.ramp = .full ∨ (∃ m, a.ramp = .up m) → a.stepping t = false → a.gapLimit (s.fld (rStroll k) 6 0) ≤ a.gap →
      exec (.strollGapExpiry c n) s = .next (s.setCore k (x.setArr n { a with ramp := .down 7, stageAt := t, gap := 0 }))) ∧
    (a.stepping t = true ∨ a.gap < a.gapLimit (s.fld (rStroll k) 6 0) → exec (.strollGapExpiry c n) s = .next s) ∧
    (a.ramp = .rest ∨ a.ramp = .idle ∨ (∃ m, a.ramp = .down m) → exec (.strollGapExpiry c n) s = .next s) ∧
    (a.stepping t = true ↔ (∃ q < 4, a.port q 0 ≠ []) ∨ ∃ e ∈ a.nextAt, t < e.2) ∧
    (a.gap = 0 → a.gapLimit (s.fld (rStroll k) 6 0) = s.fld (rStroll k) 6 0) ∧
    (∀ m, a.ramp = .down (m + 1) → due → exec (.rampStage c n) s = goes (.down m)) ∧
    (a.ramp = .down 0 → due → exec (.rampStage c n) s = goes .idle) ∧
    (∀ m, a.ramp = .up m → m < 8 → due → exec (.rampStage c n) s = goes (.up (m + 1))) ∧
    (∀ m, a.ramp = .up m → 8 ≤ m → due → exec (.rampStage c n) s = goes .full) ∧
    (a.ramp = .rest ∨ a.ramp = .idle ∨ a.ramp = .full ∨ ¬ due → exec (.rampStage c n) s = .next s))

/-- DRAIN_ROW_READ (R83, R87, R94, R98 to R101, R107, R111, R211): the next row of the region is read, with its poison bits, once its set is free and every queue has room, as the set stood before a later step entered it: the activated row, and the side and top-k outputs the descriptor asks for, wait to be pushed; CLR makes the row +0. A drain whose set nothing has named completes at once. DRAIN_PUSH, TOPK_PUSH and COLUMN_BLOCK_EMIT (R102 to R107, R109, R111, R238): the first row waiting for a queue is narrowed and pushed, an MX row with its scale byte; top-k entries are pushed as they rank; a full column-block buffer pushes its scale bytes and then its 32 rows. Each holds while a queue has no room. Top-k order (R102, R103, R238): the entries of a row are those of its values in descending order, −0 equal to +0 and NaN last, equal values in column order, at most k of them; an entry carries the row, the column and the value. -/
def Obligations.DrainsRun : Prop :=
  (∀ (s : State) (c k n u : Nat) (o : Op) (cf : Cf) (b : DrainB) (d : DescB), Instr.wf (.drainRowRead c n u []) = true → s.phys c = some k →
    let x := s.core k
    x.inPort n u 2 = some o → o.ins = .drain cf b → o.desc = some d → x.setTurn o = true → o.region.2 ≤ 32 → b.arr = n →
    let key := setKey u b.set
    let v := (x.arr n).set key
    let h := o.snap.getD v
    let row := (List.range o.region.2).map (fun j => (h.cell o.cnt j, h.bad o.cnt j))
    (o.region.1 = 0 → exec (.drainRowRead c n u []) s = .next (s.setCore k ((x.leavePort o).finish o))) ∧
    (0 < o.region.1 → d.dmode ≠ 1 → x.readReady n o d o.region.2 = true → ∃ (y : Core) (fl : Fl), exec (.drainRowRead c n u []) s = .next ((s.setCore k y).raise k fl) ∧
      (y.arr n).pushes = (x.arr n).pushes ++ rowPushes o d o.cnt row (row.map (fun e => ((actF d.act e.1).1, e.2))) ∧
      (∀ j, j < 32 → b.clr = true → o.snap = none → ((y.arr n).set key).cell o.cnt j = 0 ∧ ((y.arr n).set key).bad o.cnt j = false) ∧
      (b.clr = false ∨ o.snap ≠ none → (y.arr n).set key = v) ∧ y.queues = x.queues ∧
      (∀ m, m ≠ n → y.arr m = x.arr m)) ∧
    (0 < o.region.1 → x.readReady n o d o.region.2 = false → exec (.drainRowRead c n u []) s = .next (s.setCore k x))) ∧
  (∀ (s : State) (c k n q : Nat) (o : Op) (d : DescB), c < 128 → n < 8 → q < 16 → s.phys c = some k →
    let x := s.core k
    let v := x.queue q
    let t := s.clock.eclk
    (∀ p, (x.arr n).pushes.find? (fun p => p.kind != .topk && p.q == q && x.turnOf p.op q) = some p → x.op p.op = some o → o.desc = some d →
      let r := s.rowOut c o d p
      ((pushLoad d p).all (fun e => x.pushTurn o e.1 && decide (pullBytes (pushLoad d p) e.1 ≤ (x.queue e.1).free)) = true →
        (p.kind = .side → exec (.drainPush c n q) s = .next
          ((s.setCore k (((x.setQueue q (v.push (r.1 ++ r.2.1) t)).updArr n (fun a => { a with pushes := a.pushes.erase p })).drainEnd n o)).raise k r.2.2)) ∧
        (p.kind = .row → isMx d.otype = false → exec (.drainPush c n q) s = .next
          ((s.setCore k (((x.setQueue q (v.push r.1 t)).updArr n (fun a => { a with pushes := a.pushes.erase p })).drainEnd n o)).raise k r.2.2)) ∧
        (p.kind = .row → isMx d.otype = true → d.osq ≠ q → exec (.drainPush c n q) s = .next
          ((s.setCore k ((((x.setQueue q (v.push r.1 t)).setQueue d.osq ((x.queue d.osq).push r.2.1 t)).updArr n (fun a => { a with pushes := a.pushes.erase p })).drainEnd n o)).raise k r.2.2))) ∧
      ((pushLoad d p).all (fun e => x.pushTurn o e.1 && decide (pullBytes (pushLoad d p) e.1 ≤ (x.queue e.1).free)) = false → exec (.drainPush c n q) s = .next s)) ∧
    (∀ p, (x.arr n).pushes.find? (fun p => p.kind == .topk && p.q == q && x.turnOf p.op q) = some p → x.op p.op = some o → o.desc = some d →
      (8 * d.topk ≤ v.free → exec (.topkPush c n q) s = .next
        (s.setCore k (((x.setQueue q (v.push (entryBytes (topEntries d.topk p.row o.col0 p.vals)) t)).updArr n (fun a => { a with pushes := a.pushes.erase p })).drainEnd n o))) ∧
      (v.free < 8 * d.topk → exec (.topkPush c n q) s = .next s)) ∧
    (∀ b, (x.arr n).bufs = [b] → b.full = true → x.op b.op = some o → o.desc = some d → bufNext d b = q → x.pushTurn o q = true →
      let code := if b.side then d.stype else d.otype
      let cols := (List.range o.region.2).map (fun j => narrowRow code (if b.side then d.srmode else d.rmode) (s.genKey c) o.step d.stream (colBlock b j) (colIndex o d j))
      let all := packMarked code ((List.range 32).flatMap (fun i => cols.map (fun e => e.1.getD i (0, false))))
      let at' := fun (i : Nat) => i * o.region.2 * widthOf code / 8
      let bs := if b.made = 0 then cols.flatMap (fun e => e.2.1) else (all.drop (at' (b.made - 1))).take (at' b.made - at' (b.made - 1))
      let r := s.setCore k (((x.setQueue q (v.push bs t)).updArr n (fun a => { a with bufs := if b.made = 32 then [] else [{ b with made := b.made + 1 }] })).drainEnd n o)
      (bs.length ≤ v.free → exec (.columnBlockEmit c n q) s = .next (if b.made = 0 then r.raise k (cols.foldl (fun f e => f ||| e.2.2) 0) else r)) ∧
      (v.free < bs.length → exec (.columnBlockEmit c n q) s = .next s))) ∧
  (∀ ws : List Word32,
    (ranked ws).Pairwise (fun a b => outranks b.2 a.2 = false ∧ (outranks a.2 b.2 = false → a.1 < b.1)) ∧
    (ranked ws).Perm (ws.zipIdx.map (fun e => (e.2, e.1))))

/-- RX_GROUP and QMOVE's groups (R213 to R219, R258): results that hold are pushed where there is room; then the operation whose turn it is, with its group's operands in the queues, pops them and computes, and what it holds is pushed where there is room. A queue move passes up to 128 bytes with their marks. A short queue holds the group, a full one the results. -/
def Obligations.RowGroups : Prop :=
  ∀ (s : State) (c k : Nat), Instr.wf (.rxGroup c []) = true → s.phys c = some k →
    let t := s.clock.eclk
    let x := (s.core k).rowPush t
    (x.rowNext = none → exec (.rxGroup c []) s = .next (s.setCore k x)) ∧
    (∀ o cf qs qd m, x.rowNext = some o → o.ins = .qmove cf qs qd m →
      let z := min 128 (m - 128 * o.cnt)
      let y := x.rowHold o [(qs, z)] [(qd, (x.queue qs).front z)] t
      (x.popTurn o qs = true → z ≤ (x.queue qs).bytes.length →
        exec (.rxGroup c []) s = .next (s.setCore k (y.rowPush t)) ∧
        (y.queue qs).bytes = (x.queue qs).bytes.drop z ∧ (∀ q, q ≠ qs → y.queue q = x.queue q) ∧
        (0 < z → y.ops = (x.setOp { o with cnt := o.cnt + 1, res := [(qd, (x.queue qs).front z)] }).ops)) ∧
      (x.popTurn o qs = false ∨ (x.queue qs).bytes.length < z → exec (.rxGroup c []) s = .next (s.setCore k (x.rowPush t)))) ∧
    (∀ o cf b, x.rowNext = some o → o.ins = .rx cf b →
      let o1 := if o.cnt = 0 then { o with scal := (List.range 16).map x.scalar } else o
      let r := rxGroup o1 b (s.genKey c) (pullData x [] (rxPulls b o.cnt))
      let y := x.rowHold r.1 (rxPulls b o.cnt) [(b.dst, r.2.bytes), (b.sc, r.2.scales)] t
      (x.pullsReady o (rxPulls b o.cnt) = true →
        exec (.rxGroup c []) s = .next ((s.setCore k (({ y with scalars := match r.2.scalar with
          | some v => Tab.put y.scalars (b.dst - 16) v
          | none => y.scalars } : Core).rowPush t)).raise k r.2.fl)) ∧
      (x.pullsReady o (rxPulls b o.cnt) = false → exec (.rxGroup c []) s = .next (s.setCore k (x.rowPush t)))) ∧
    (∀ (v : Core) (o : Op) (r : List Op), v.rowOps = o :: r →
      (o.cnt < o.groups → o.res = [] → v.rowNext = some o) ∧ (o.cnt < o.groups → o.res ≠ [] → v.rowNext = none) ∧
      (o.groups ≤ o.cnt → ∀ e l, r = e :: l → v.rowNext = if e.cnt = 0 then some e else none) ∧
      (0 < o.cnt → v.pushAll o o.res t = none → v.rowPush t = v) ∧
      (∀ q bs, 0 < o.cnt → o.res = [(q, bs)] → bs ≠ [] →
        (v.pushTurn o q = false ∨ (v.queue q).free < bs.length → v.rowPush t = v) ∧
        (v.pushTurn o q = true → bs.length ≤ (v.queue q).free →
          ((v.rowPush t).queue q).bytes = (v.queue q).bytes ++ bs.map (·.1) ∧ (∀ e, e ≠ q → (v.rowPush t).queue e = v.queue e) ∧
          (v.rowPush t).ops = (if o.cnt = o.groups then v.ops.filter (fun e => e.id != o.id) else (v.setOp { o with res := [] }).ops))))

/-- Taking a program down (R127, R223, R224, R549): HUB_TERMp shows the code, the step and the location; the partition no longer runs; each of its cores' streams has stopped (STATE 5), its queues are empty and nothing it issued is left; its memory stays. Of a program that has ended, a later cause changes nothing; another cause of the same ECLK whose code is lower is the one reported (R225). The rest is stated where the program hosts no epoch, no restore runs and no collector is set. HW_FAULT and STALL_TIMEOUT (R149, R223, R444): an uncorrectable error in a sequencer's own state ends the program that holds the core with HW_FAULT and is an event of the core; a program none of whose streams has issued for its watchdog's limit ends with STALL_TIMEOUT, but not while its step is being secured. -/
def Obligations.ProgramsTerminate : Prop :=
  (∀ (s : State) (p code : Nat) (l : Loc), p < 8 →
    ((s.part p).live = false → (s.part p).st ≠ .ending ∨ (s.part p).endedAt ≠ some s.clock.eclk ∨ s.fld (rTerm p) 63 56 ≤ code → s.terminate p code l = s) ∧
    ((s.part p).st = .ending → (s.part p).endedAt = some s.clock.eclk → code < s.fld (rTerm p) 63 56 →
      let t := s.terminate p code l
      t.reg (rTerm p) = termWord code (s.part p).step l % 2 ^ 64 ∧ s.sameRegsBut t (· = rTerm p) ∧ t = { s with regs := t.regs, conns := t.conns, outbox := t.outbox }) ∧
    ((s.part p).live = true → s.epochs = [] → s.restore = none → s.collector.1 = 0 → (s.part p).cmd = none →
      let t := s.terminate p code l
      t.reg (rTerm p) = termWord code (s.part p).step l % 2 ^ 64 ∧ (t.part p).st = .ending ∧ (t.part p).endedAt = some s.clock.eclk ∧
      (∀ c k, c ∈ (s.part p).cores → s.phys c = some k →
        (t.core k).a.state = 5 ∧ (t.core k).x.state = 5 ∧ (t.core k).ops = [] ∧ (t.core k).comps = [] ∧ ∀ q, ((t.core k).queue q).bytes = []) ∧
      (∀ k, (∀ c ∈ (s.part p).cores, s.phys c ≠ some k) → t.core k = s.core k) ∧
      t.mem = s.mem ∧ (∀ q, q ≠ p → t.part q = s.part q) ∧ (∀ e ∈ t.pot, e.2.part ≠ p))) ∧
  (∀ (s : State) (c p k : Nat), c < 128 → p < 8 →
    (s.partOf c = some p → s.phys c = some k →
      exec (.hwFault c) s = .next (({ s with events := s.events ++ [⟨unitCore k, evUe, s.eventSecond, 0⟩] } : State).terminate p tHwFault (.core c))) ∧
    (s.partOf c = none → exec (.hwFault c) s = .next s) ∧
    ((s.part p).st = .running ∨ (s.part p).st = .loaded → exec (.stallTimeout p) s = .next (s.terminate p tStall .none)) ∧
    ((s.part p).st = .closed → (∀ w, s.cairnOut = some w → w.part ≠ p) → exec (.stallTimeout p) s = .next (s.terminate p tStall .none)) ∧
    (∀ w, (s.part p).st = .closed → s.cairnOut = some w → w.part = p → exec (.stallTimeout p) s = .next s))

/-- STREAM_START and STEP_OPEN (R22, R34, R160, R171, R247, R248, R274, R375, R432, R485): an accepted command opens the next step of a loaded or closed partition, once no cairn of it is being written: STEP counts up, the step block's 64 bytes are written, poisoned stores count from 0 again, streams at a BOUNDARY go on, and the command is answered. The streams of a first step start issuing. A program's first step opens on a map without fenced cores, which is built again where it has one: without enough healthy cores the program ends with CORE_FENCED. With every hub bridge down the step block reaches no memory. A step past 2^32 − 1 ends the program with STEP_WRAP. STEP_CLOSE (R160, R161, R275, R352, R432, R447, R478): with every stream of the partition at a BOUNDARY and nothing that it issued left, the step closes: the governor's registers, the digest windows and the phase records first. A poisoned store of the step then ends the program with POISON_CONSUMED at the first of them; else STEP_WRAP past 2^32 − 1; else the step is secured if one is due. Before that it does not close. -/
def Obligations.StepsOpenAndClose : Prop :=
  (∀ (s : State) (p : Nat), p < 8 →
    ((s.part p).st = .running → ∃ t : State, exec (.streamStart p) s = .next t ∧ t.started = true ∧
      (∀ k ∈ s.coresOf p, t.core k = { s.core k with
        a := if (s.core k).a.state = 1 then { (s.core k).a with state := 2 } else (s.core k).a
        x := if (s.core k).x.state = 1 then { (s.core k).x with state := 2 } else (s.core k).x }) ∧
      (∀ k, k ∉ s.coresOf p → t.core k = s.core k) ∧ t = { s with cores := t.cores, started := true, regs := t.regs }) ∧
    (∀ c : StepCmd, (s.part p).cmd = some c →
      ((s.part p).st = .loaded ∧ c.start = true ∨ (s.part p).st = .closed ∧ c.start = false ∧ (∀ w, s.cairnOut = some w → w.part ≠ p)) →
      (c.start = true → s.fencedEntry = none) →
      ((s.part p).step + 1 < 2 ^ 32 → ∃ t : State, exec (.stepOpen p) s = .next t ∧
        (t.part p).step = (s.part p).step + 1 ∧ (t.part p).st = .running ∧ (t.part p).cmd = none ∧
        (∀ q, q ≠ p → t.part q = s.part q) ∧ s.now ≤ t.now ∧ c.body.instant ≤ t.now ∧
        t.fld (rPoison p) 63 48 = 0 ∧
        (c.body.block = false → t.mem = s.mem) ∧
        (s.hubCut = true → t.mem = s.mem) ∧
        (c.body.block = true → s.hubCut = false → c.body.sbdpa % 64 = 0 → c.body.sbdpa + 64 ≤ hamperDpa →
          (∀ i b, (stepBlock ((s.part p).step + 1) c.body.words)[i]? = some b → t.mem.byte (c.body.sbdpa + i) = b) ∧ s.sameMemBut t c.body.sbdpa 64) ∧
        (∀ e ∈ t.kept, e.owner = c.ask.owner → e.req = c.ask.req → e.reply = some (.reply c.ask.req stOk (c.body.instant != 0 && decide (c.body.instant < s.now)) false (toLe 4 ((s.part p).step + 1))))) ∧
      (2 ^ 32 ≤ (s.part p).step + 1 → exec (.stepOpen p) s = .next (s.stepWrap p))) ∧
    (∀ (c : StepCmd) (n : Nat), (s.part p).cmd = some c → (s.part p).st = .loaded → c.start = true → s.fencedEntry = some n →
      (∀ m, s.planMap s.waitingParts = .ok m → exec (.stepOpen p) s = .next (((s.moveCores m).restartRestore).openStep p c)) ∧
      (s.planMap s.waitingParts = .few → exec (.stepOpen p) s = .next ((s.terminate p tFenced (.core n)).refuseMap true)) ∧
      (s.planMap s.waitingParts = .busy → exec (.stepOpen p) s = .next ((s.terminate p tFenced (.core n)).refuseMap false))) ∧
    (s.fencedEntry = none ↔ ∀ n < 128, ∀ k, s.phys n = some k → s.fenced k = false) ∧
    ((s.part p).cmd = none → exec (.stepOpen p) s = .next s)) ∧
  (∀ (s : State) (p : Nat), p < 8 → (s.part p).st = .running →
    let u := (((s.govern p).closeWindows p (s.part p).step).exportPhases p false).updPart p (fun x => { x with st := .closed, closeAt := s.now })
    ((∃ c ∈ (s.part p).cores, s.phys c = none ∨ ∃ k, s.phys c = some k ∧
        ((s.core k).a.atBoundary = false ∨ (s.core k).x.atBoundary = false ∨ (s.core k).ops ≠ [] ∨ (s.core k).comps ≠ [])) →
      exec (.stepClose p) s = .next s) ∧
    (s.allAt p Stream.atBoundary = true → (u.part p).st = .closed ∧ (u.part p).step = (s.part p).step ∧ u.mem = s.mem ∧
      (u.poisoned p = true → exec (.stepClose p) s = .next (u.terminate p tPoison (u.poisonLoc p))) ∧
      (u.poisoned p = false → 2 ^ 32 ≤ (s.part p).step + 1 → exec (.stepClose p) s = .next (u.stepWrap p)) ∧
      (u.poisoned p = false → (s.part p).step + 1 < 2 ^ 32 → (s.part p).cmd = none →
        exec (.stepClose p) s = .next (if u.secureDue p then u.secure p else u))))

/-- PROGRAM_END and PARTITION_RELEASE (R126, R224, R447, R551): with every stream at END and nothing issued left, HUB_TERMp shows the normal end and the program no longer runs, or it ends with POISON_CONSUMED after a poisoned store. Its cores, regions and extents are free once its trackers are and its holders' duties are done. -/
def Obligations.ProgramsEnd : Prop :=
  ∀ (s : State) (p : Nat), p < 8 →
    ((s.part p).st = .running → s.allAt p Stream.atEnd = true →
      (s.poisoned p = true → exec (.programEnd p) s = .next (s.terminate p tPoison (s.poisonLoc p))) ∧
      (s.poisoned p = false → s.collector.1 = 0 → (s.part p).cmd = none → ∃ t : State, exec (.programEnd p) s = .next t ∧
        t.reg (rTerm p) = termWord tEnded (s.part p).step .none % 2 ^ 64 ∧ (t.part p).live = false ∧ t.mem = s.mem ∧ t.cores = s.cores ∧ (∀ q, q ≠ p → t.part q = s.part q) ∧
        ((∀ k ∈ s.coresOf p, s.trackers k = 0) → (∀ e ∈ s.epochs, e.2.part ≠ p) → t.part p = Part.reset))) ∧
    ((s.part p).st = .ending → s.canRelease p = true → ∃ t : State, exec (.partitionRelease p) s = .next t ∧ t.part p = Part.reset ∧
      (∀ q, q ≠ p → t.part q = s.part q) ∧ t.mem = s.mem ∧ t.cores = s.cores ∧ t.regs = s.regs) ∧
    ((s.part p).st = .ending → s.canRelease p = false → exec (.partitionRelease p) s = .next s)

/-- Opening a connection (R326, R410, R412 to R414, R416, R417, R419, R420, R424, R438, R560): an OPEN under a key of its class is answered with a connection number never used since reset, the lower of the two versions and the credit given, as far as trackers can be set aside for it; the connection is half open. It is refused FULL when the tables are, and where no version is common; a packet that fails a check is counted and nothing else. OPENACK completes a connection the device opened, or closes it where it refuses. A connection half open for 10 ms is closed; the terminations that a closed connection had not delivered are sent again. While the link is down nothing leaves. -/
def Obligations.ConnectionsOpen : Prop :=
  ∀ (s : State) (p : Pkt),
    (∀ ver cls n i, Instr.wf (.openConn p ver cls n i) = true →
      (∀ d, s.checkHead p cls = some d → exec (.openConn p ver cls n i) s = .next (s.dropPacket d)) ∧
      (s.checkHead p cls = none → s.connsOf p.src cls = [] →
        (ver + 1 < s.nwtVersion → exec (.openConn p ver cls n i) s = .next (s.refuseOpen p cls n 3)) ∧
        (s.nwtVersion ≤ ver + 1 → 65536 ≤ s.conns.length ∨ 4096 ≤ s.halfOpen → exec (.openConn p ver cls n i) s = .next (s.refuseOpen p cls n 1)) ∧
        (s.nwtVersion ≤ ver + 1 → s.conns.length < 65536 → s.halfOpen < 4096 → s.connsUsed.length < 2 ^ 31 → ∃ (t : State) (m : Nat) (c : Conn), exec (.openConn p ver cls n i) s = .next t ∧
          m ∉ s.connsUsed ∧ m ≠ 0 ∧ t.connsUsed = m :: s.connsUsed ∧ Tab.find t.conns m = some c ∧ (∀ j, j ≠ m → Tab.find t.conns j = Tab.find s.conns j) ∧
          c.half = true ∧ c.theirs = n ∧ c.id = p.src ∧ c.cls = cls ∧ c.ver = min s.nwtVersion ver ∧ c.credit = p.credit ∧ c.rxNext = (p.seq + 1) % 2 ^ 32 ∧ c.nextSeq = 1 ∧ c.pctrHigh = p.pctr ∧
          (s.linkUp = true → ∃ e : Envelope, t.outbox = s.outbox ++ [.openAck p.src p.addr cls n 0 m (min s.nwtVersion ver) (s.firstGrant (min (max 1 i) (s.fld rNwtCtrl 47 40))) e] ∧
            e.ver = 1 ∧ e.conn = n ∧ e.seq = 0 ∧ e.pctr = 1 ∧ e.ackSeq = (p.seq + 1) % 2 ^ 32 ∧ e.keyId = 2 * cls ∧ e.dst = p.addr ∧ e.hop = 64 ∧ e.ecn = 2 ∧ e.dport = s.fld rNwtCtrl 63 48) ∧
          (s.linkUp = false → t.outbox = s.outbox) ∧
          t = { s with conns := t.conns, connsUsed := t.connsUsed, free := t.free, outbox := t.outbox }))) ∧
    (∀ cls n st, let u := if st = 3 then s else s.addFld rNwtDrop2 31 16 1
      (s.linkUp = true → s.refuseOpen p cls n st = u.emit (.openAck p.src p.addr cls n st 0 u.nwtVersion 0 (u.envelope (newConn 0 n p.src p.addr cls 1 s.now 0 0 1 ((p.seq + 1) % 2 ^ 32)) 0 1 none))) ∧
      (s.linkUp = false → s.refuseOpen p cls n st = u)) ∧
    (∀ n, s.firstGrant n = min n (992 - s.grantedElse 0)) ∧
    (∀ st ver n i c0 c, Instr.wf (.openAck p st ver n i) = true → Tab.find s.conns p.conn = some c0 → s.checkHead p c0.cls = none → s.checkConn p c0.cls = .ok c0 →
      Tab.find (s.accept p 0).conns p.conn = some c → c0.theirs = 0 →
      (st = 0 → exec (.openAck p st ver n i) s = .next (({ (s.accept p 0) with conns := Tab.put (s.accept p 0).conns p.conn { c with
        theirs := n, ver := ver, half := false, credit := max c.credit i, sent := [], rxNext := (p.seq + 1) % 2 ^ 32
        granted := (p.seq + min ((s.accept p 0).fld rNwtCtrl 47 40) (992 - (s.accept p 0).grantedElse p.conn)) % 2 ^ 32 } } : State).drain p.conn)) ∧
      (st ≠ 0 → exec (.openAck p st ver n i) s = .next ((s.accept p 0).loseConn p.conn))) ∧
    (∀ n c, n < 2 ^ 32 → Tab.find s.conns n = some c →
      (c.half = true → exec (.halfOpenTimeout n) s = .next ((s.reach (c.opened + 10000000)).loseConn n)) ∧
      (c.half = false → exec (.halfOpenTimeout n) s = .next s) ∧ (c.terminations = [] → Tab.find (s.closeConn n).conns n = none) ∧
      (s.collector.1 ≠ 0 → ∃ t : State, Tab.find t.conns n = none ∧ (∀ j, j ≠ n → Tab.find t.conns j = Tab.find s.conns j) ∧ t.collector = s.collector ∧
        s.closeConn n = c.terminations.foldl (fun u m => u.sendTo 0 s.collector.1 s.collector.2 m) t))

/-- Acknowledgement and resending (R410, R415, R421, R422, R426, R552): acknowledged blocks leave the sender, an echo of congestion halves its window, holes are resent, and what waits may go; an ACK goes 5 µs after the first unacknowledged packet; a block not acknowledged in time is sent again with its SEQ under a new packet counter, and after RETRY resends, as its running timer took it, the connection is dead. -/
def Obligations.AcksAndResends : Prop :=
  ∀ (s : State) (n : Nat), n < 2 ^ 32 →
    (∀ (p : Pkt) (b : Nat) (c : Conn), Instr.wf (.ack p b) = true → p.conn = n → s.checkHead p (p.keyId / 2 % 2) = none → s.checkConn p (p.keyId / 2 % 2) = .ok c → s.cairnOut = none →
      let u := s.accept p b
      let sent := c.sent.filter (fun e => !(seqBefore e.seq p.ackSeq || decide ((e.seq + 2 ^ 32 - (p.ackSeq + 1)) % 2 ^ 32 < 64 ∧
        bits b ((e.seq + 2 ^ 32 - (p.ackSeq + 1)) % 2 ^ 32) ((e.seq + 2 ^ 32 - (p.ackSeq + 1)) % 2 ^ 32) = 1)))
      (∃ d, Tab.find u.conns n = some d ∧ d.sent = sent ∧ d.nextSeq = c.nextSeq ∧ (p.echo = true → d.window = max 1 (c.window / 2)) ∧ d.last = s.now) ∧
      exec (.ack p b) s = .next (((holes sent p.ackSeq b).foldl (fun s e => s.resend n e true) u).drain n)) ∧
    (∀ c, Tab.find s.conns n = some c →
      (c.since = 0 → exec (.ackTimer n) s = .next s) ∧
      (c.since ≠ 0 → s.linkUp = true → exec (.ackTimer n) s = .next
        (({ s with conns := Tab.put s.conns n { c with since := 0, echo := false, pctrOut := c.pctrOut + 1 } } : State).emit (.ack c.theirs c.rxNext c.bitmap c.granted (s.envelope c c.nextSeq (c.pctrOut + 1) none)))) ∧
      (s.linkUp = false → exec (.ackTimer n) s = .next s) ∧
      (∀ q e, q < 2 ^ 32 → c.sent.find? (fun e => e.seq == q) = some e →
        (e.retry ≤ e.resends → exec (.resendTimer n q) s = .next ((s.addFld rNwtConn 31 16 1).loseConn n)) ∧
        (e.resends < e.retry → s.linkUp = true → ∃ t : State, exec (.resendTimer n q) s = .next t ∧
          t.outbox = s.outbox ++ [s.packetOf c q (c.pctrOut + 1) e.msg] ∧ t.fld rNwtConn 15 0 = min (s.fld rNwtConn 15 0 + 1) 65535 ∧
          (∃ d, Tab.find t.conns n = some d ∧ d.pctrOut = c.pctrOut + 1 ∧ d.nextSeq = c.nextSeq ∧ d.sent.find? (fun e => e.seq == q) = some { e with resends := e.resends + 1, holed := false, retry := s.fld rNwtCtrl 39 36 }) ∧
          s.sameRegsBut t (· = rNwtConn) ∧ t = { s with conns := t.conns, regs := t.regs, outbox := t.outbox })))

/-- Telemetry (R438, R508, R513): a counter snapshot is a time record and a record for each register that HUB_SNAP names, at most 255 register records to a message; with no collector it is dropped and counted once. Telemetry that its connection has not accepted within 10 ms is dropped and counted in its source's counter. -/
def Obligations.TelemetrySent : Prop :=
  ∀ s : State,
    (s.fld rTelctl 63 48 = 0 → exec .counterSnapshot s = .next s) ∧
    (s.fld rTelctl 63 48 ≠ 0 →
      let l := (List.range (s.fld rTelctl 40 32)).map (fun i => toLe 8 (s.reg (rSnap i)) ++ toLe 8 (s.readReg (s.reg (rSnap i))))
      let time := toLe 8 0 ++ toLe 8 s.now
      (s.collector.1 = 0 → exec .counterSnapshot s = .next (s.addFld rTelstat 47 32 1)) ∧
      (s.collector.1 ≠ 0 → l.length ≤ 255 → exec .counterSnapshot s = .next (s.sendTo 0 s.collector.1 s.collector.2 (.telemetry 3 0xFF 0 (time ++ l.flatten))))) ∧
    (let gone := fun (k : Nat) => sumOf (s.conns.map (fun e => (e.2.unsent.filter (fun m => match m with | .telemetry n _ _ _ => n == k | _ => false)).length))
      ∃ t : State, exec .telemetryDropTimeout s = .next t ∧
        (∀ e ∈ t.conns, ∀ m ∈ e.2.unsent, ∀ a b c d, m ≠ .telemetry a b c d) ∧
        t.conns.map (fun e => (e.1, { e.2 with unsent := [] })) = s.conns.map (fun e => (e.1, { e.2 with unsent := [] })) ∧
        t.fld rTelstat 63 48 = min (s.fld rTelstat 63 48 + gone 2) 65535 ∧ t.fld rTelstat 47 32 = min (s.fld rTelstat 47 32 + gone 3) 65535 ∧
        t.fld rTelstat 31 16 = min (s.fld rTelstat 31 16 + gone 4) 65535 ∧
        s.sameRegsBut t (fun a => a = rTelstat ∨ ∃ p < 8, a = rPhaseStat p) ∧ t = { s with conns := t.conns, regs := t.regs })

/-- Receiving a message (R416 to R424): a packet that fails a check is counted and does nothing else; with the rails off nothing is received. A message whose turn has come acts on the state in which its header has been heard and its SEQ noted; after it the connection settles. Settling a connection (R410, R421, R422, R424) is the transport's own work: it touches connections, what is sent, and the tracker counts of HUB_XTRK. -/
def Obligations.MessagesTakeTurn : Prop :=
  (∀ (s : State) (i : Instr) (p : Pkt) (cls : Nat) (bulk : Bool), carried i = some (p, cls, bulk) → Instr.wf i = true →
    (s.power.railsOff = true → exec i s = .next s) ∧
    (s.power.railsOff = false → ∀ d, s.checkHead p cls = some d → exec i s = .next (s.dropPacket d)) ∧
    (s.power.railsOff = false → s.checkHead p cls = none → ∀ d, s.checkConn p cls = .error d → exec i s = .next (s.dropPacket d)) ∧
    (s.inTurn p cls → (s.accept p 0).deferred i = false → exec i s = .next (((s.received p).act i).settled p bulk))) ∧
  (∀ (s : State) (n : Nat) (now : Bool), let t := s.settleConn n now
    t = { s with conns := t.conns, regs := t.regs, outbox := t.outbox } ∧ s.sameRegsBut t (· = rXtrk) ∧
    ((∀ c, Tab.find s.conns n = some c → c.mine = n) → ∀ j, j ≠ n → Tab.find t.conns j = Tab.find s.conns j))

/-- Requests take effect once (R427, R526): one whose REQID the device holds is answered with the reply it kept, and does nothing else; a new one that the device's state does not let through is answered BUSY, and does nothing else. A reply is kept with its REQID. Requests that the device does not let through (R427, R494, R495, R526): before READY every owner request but REG_READ, ATTEST, FW_IMAGE and KEY_SET, and in recovery all but REG_READ of the HUB_ and SEC_ blocks, ATTEST, FW_IMAGE and a warm reset, is answered BUSY and does nothing else; so is, with the compute dies off, one that needs them, but for a LOAD to a failed device, which its own checks answer (R496). In recovery the compute dies stay off. -/
def Obligations.RequestsOnce : Prop :=
  (∀ (s : State) (p : Pkt) (r : Nat) (early recov compute : Bool) (f : Asker → State → State),
    (∀ k m, s.kept.find? (fun k => k.owner == p.src && k.req == r) = some k → k.reply = some m →
      s.ask p r (s.gated early recov compute) f = s.sendOn p.conn m) ∧
    (s.kept.find? (fun k => k.owner == p.src && k.req == r) = none →
      let u : State := { s with kept := remember s.kept p.src r }
      s.ask p r (s.gated early recov compute) f = (if s.gated early recov compute then u.say (asker p r) stBusy else f (asker p r) u)) ∧
    (∀ st late poison data, ∀ k ∈ (s.answer (asker p r) st late poison data).kept, k.owner = p.src → k.req = r → k.reply = some (.reply r st late poison data)) ∧
    (∀ st late poison data, let t := s.answer (asker p r) st late poison data
      t = { s with kept := t.kept, conns := t.conns, outbox := t.outbox })) ∧
  (∀ s : State,
    (∀ i p r bulk, requested i = some (p, r) → carried i = some (p, 0, bulk) → Instr.wf i = true → s.inTurn p 0 → (∀ k ∈ (s.received p).kept, k.owner ≠ p.src ∨ k.req ≠ r) →
      let u := s.asked p r
      let busy := exec i s = .next ((u.say (asker p r) stBusy).settled p bulk)
      (u.fld rBoot 63 60 < 3 → early i = false → busy) ∧ (u.fld rBoot 63 60 = 5 → inRecovery i = false → busy) ∧
      (u.fld rBoot 63 60 ≠ 5 → u.computeOn = false → ∀ a n d x b, i ∈ [Instr.memRead p r n a, .memWrite p r a d, .start p r b, .step p r b, .runTestPack p r n x, .startMarch p r n true,
        .startMarch p r n false, .stopMarch p r n, .retrainChannel p r n, .digestSweep p r n] → busy) ∧
      (u.fld rBoot 63 60 ≠ 5 → u.fld rBoot 63 60 ≠ 4 → u.computeOn = false → ∀ (n : Nat) (e : Option LoadExt), i = .load p r n e → busy)) ∧
    (s.fld rBoot 63 60 = 5 → ∀ b, Instr.wf (.computePowerUp b) = true → exec (.computePowerUp b) s = .next s))

/-- REG_READ and REG_WRITE (R504, R505): an aligned run of registers of one instance is read as it stands; a write checks every register first, and then writes each in ascending order. A misaligned address, no register or more than 512 is BAD_REQUEST, a run that leaves its instance RANGE. What a register write does (R12, R505): a writable field takes its bits of the value, a write-1-to-clear field loses the bits written as 1, every other bit and register keeps its value. Stated of the registers whose write does nothing more. -/
def Obligations.RegisterAccess : Prop :=
  (∀ (s : State) (p : Pkt) (r a : Nat),
    (∀ n, Instr.wf (.regRead p r n a) = true → s.asks p r true (hubOrSec a) (computeReg a) →
      let u := s.asked p r
      (a % 8 = 0 → 0 < n → n ≤ 512 → (∃ b, instanceOf a = some b ∧ instanceOf (a + 8 * (n - 1)) = some b) →
        exec (.regRead p r n a) s = .next ((u.answer (asker p r) stOk false false ((List.range n).flatMap (fun i => toLe 8 (u.readReg (a + 8 * i))))).settled p false)) ∧
      (a % 8 ≠ 0 ∨ n = 0 ∨ 512 < n → exec (.regRead p r n a) s = .next ((u.say (asker p r) stBadRequest).settled p false)) ∧
      (a % 8 = 0 → 0 < n → n ≤ 512 → instanceOf a = none ∨ instanceOf a ≠ instanceOf (a + 8 * (n - 1)) →
        exec (.regRead p r n a) s = .next ((u.say (asker p r) stRange).settled p false))) ∧
    (∀ vs, Instr.wf (.regWrite p r a vs) = true → s.asks p r false false (computeReg a) →
      let u := s.asked p r
      (u.writeStatus a vs = stOk → exec (.regWrite p r a vs) s =
        .next (((vs.zipIdx.foldl (fun s e => match s.regKey (a + 8 * e.2) with | some x => s.writeAt x e.1 | none => s) u).say (asker p r) stOk).settled p false)) ∧
      (u.writeStatus a vs ≠ stOk → exec (.regWrite p r a vs) s = .next ((u.say (asker p r) (u.writeStatus a vs)).settled p false)))) ∧
  (∀ (s : State) (x v : Nat) (w : WReg) (f : WFld), wregAt x = some w → f ∈ w.flds →
    x ≠ rCstore → x ≠ rTherm → x ≠ rPtpCtrl → x ≠ rFacCtrl → regIndex x (rTgctl 0) 0x1000 256 = none → regIndex x (rTalCtrl 0) 0x1000 256 = none → regIndex x (rDgcfg 0) 8 16 = none →
    let t := s.writeAt x v
    (f.acc = .rw → t.fld x f.hi f.lo = bits v f.hi f.lo) ∧
    (f.acc = .w1c → ∀ i, f.lo ≤ i → i ≤ f.hi → (t.reg x).testBit i = ((s.reg x).testBit i && !v.testBit i)) ∧
    (∀ i, (∀ g ∈ w.flds, i < g.lo ∨ g.hi < i) → (t.reg x).testBit i = (s.reg x).testBit i) ∧
    s.sameRegsBut t (· = x) ∧ t = { s with regs := t.regs })

/-- Registers whose write acts (R355, R357, R406, R436, R471, R505, R530, R542, R552, R559): each row writes its register as REG_WRITE does. STEPNOW steps cluster time; LEAKCLR clears the latch where the sensor is dry; an arithmetic flag written 1 is cleared; TAL_CTRL.MODE changes at once where no addition waits; a digest region's status and accumulators start clear; a store's seals are checked; a generator starts in a mode that is not off, and in modes 2 and 3 what it addresses is undefined. -/
def Obligations.ActingRegisters : Prop :=
  ∀ (s : State) (p : Pkt) (r v : Nat),
    let ready := fun (i : Instr) (a : Nat) => Instr.wf i = true ∧ s.asks p r false false (computeReg a) ∧ (s.asked p r).writeStatus a [v] = stOk
    let done := fun (a : Nat) => (((s.asked p r).writeRegs a [v]).say (asker p r) stOk).settled p false
    (ready (.stepNow p r v) (rPtpCtrl) → exec (.stepNow p r v) s = .next (done (rPtpCtrl))) ∧
    (ready (.leakClr p r v) (rFacCtrl) → exec (.leakClr p r v) s = .next (done (rFacCtrl))) ∧
    (∀ c, ready (.arithFlagClear p r c v) (rArith c) → exec (.arithFlagClear p r c v) s = .next (done (rArith c))) ∧
    (∀ q, (ready (.talModeWrite p r q v) (rTalCtrl q) → exec (.talModeWrite p r q v) s = .next (done (rTalCtrl q))) ∧
      (ready (.tgOff p r q v) (rTgctl q) → exec (.tgOff p r q v) s = .next (done (rTgctl q))) ∧
      (ready (.tgReadCheck p r q v) (rTgctl q) → exec (.tgReadCheck p r q v) s = .next (done (rTgctl q))) ∧
      (ready (.tgWriteCompare p r q v) (rTgctl q) → exec (.tgWriteCompare p r q v) s = .next (done (rTgctl q))) ∧
      (ready (.tgWriteOnly p r q v) (rTgctl q) → exec (.tgWriteOnly p r q v) s = .next (done (rTgctl q)))) ∧
    (∀ n, ready (.digestRegionConfig p r n v) (rDgcfg n) → exec (.digestRegionConfig p r n v) s = .next (done (rDgcfg n))) ∧
    (ready (.storeConfig p r v) (rCstore) → exec (.storeConfig p r v) s = .next (done (rCstore))) ∧
    (ready (.clientConfig p r v) (rClient) → exec (.clientConfig p r v) s = .next (done (rClient))) ∧
    (∀ u : State,
      (bits v 53 53 = 1 → ∃ t : State, u.writeRegs rPtpCtrl [v] = t.stepClock t.ptpOffset ∧ t = { u with regs := t.regs } ∧ u.sameRegsBut t (· = rPtpCtrl)) ∧
      (bits v 0 0 = 1 → u.power.wet = false → u.writeRegs rFacCtrl [v] = u.setFld rFacStat 15 15 0) ∧ (u.power.wet = true → u.writeRegs rFacCtrl [v] = u) ∧
      (∀ c k, c < 128 → u.phys c = some k → k < 136 → ∃ t : State, u.writeRegs (rArith c) [v] = t ∧ t = { u with regs := t.regs } ∧
        ∀ i, i < 8 → (t.reg (rArith k)).testBit i = ((u.reg (rArith k)).testBit i && !v.testBit i)) ∧
      (∀ q, q < 256 → (∀ b ∈ u.tally, b.chan ≠ q) → (u.writeRegs (rTalCtrl q) [v]).fld (rTalCtrl q) 1 0 = bits v 1 0 ∧ (u.writeRegs (rTalCtrl q) [v]).fld (rTalStat q) 63 63 = 0) ∧
      (∀ n, n < 16 → let t := u.writeRegs (rDgcfg n) [v]; t.reg (rDgst n) = 0 ∧ (∀ q < 256, t.reg (rDgwacc q n) = 0 ∧ t.reg (rDgsacc q n) = 0) ∧
        t.fld (rDgcfg n) 63 63 = bits v 63 63 ∧ t.fld (rDgcfg n) 39 20 = bits v 39 20 ∧ t.fld (rDgcfg n) 19 0 = bits v 19 0 ∧ t.mem = u.mem) ∧
      (∃ t : State, t.fld rCstore 63 40 = bits v 63 40 ∧ t.fld rCstore 39 16 = bits v 39 16 ∧ t = { u with regs := t.regs } ∧ u.writeRegs rCstore [v] = (t.checkSlot 0).checkSlot 1) ∧
      (v < 2 ^ 64 → (u.writeRegs rClient [v]).reg rClient = v) ∧
      (∀ q, q < 256 → let t := u.writeRegs (rTgctl q) [v]
        (bits v 63 60 = 0 → t.chans = u.chans ∧ t.mem = u.mem ∧ t.fld (rTgctl q) 63 60 = 0) ∧
        (bits v 63 60 = 1 → (∃ w, (t.chan q).tg = some w ∧ bits w 63 60 = 1) ∧ t.reg (rTgstat q) = 0 ∧ t.mem = u.mem) ∧
        (bits v 63 60 = 2 ∨ bits v 63 60 = 3 → t.reg (rTgstat q) = 0 ∧ ∃ w, (t.chan q).tg = some w ∧ bits w 63 60 = bits v 63 60 ∧
          t.mem = u.mem.lay ⟨stackDpa, stackTop, .chan u.removed q (bits w 47 46) (bits w 35 30) (bits w 14 0), some u.free⟩)))

/-- MEM_READ and MEM_WRITE (R22, R291, R430, R449, R468, R471): mapped bytes are read with their marks, which the reply reports, or stored with clear marks; nothing else of memory changes. No byte or more than 4,096 is BAD_REQUEST, an address out of range, or in an extent of a running program for a write, RANGE, and the open store BUSY. With the compute dies off the request is answered BUSY; with every hub bridge down it reaches no memory and waits. -/
def Obligations.MemoryRequests : Prop :=
  ∀ (s : State) (p : Pkt) (r a : Nat),
    let u := s.asked p r
    (∀ n, Instr.wf (.memRead p r n a) = true → s.asks p r false false true →
      (n = 0 ∨ 4096 < n → exec (.memRead p r n a) s = .next ((u.say (asker p r) stBadRequest).settled p false)) ∧
      (0 < n → n ≤ 4096 → u.mapped a n = false → exec (.memRead p r n a) s = .next ((u.say (asker p r) stRange).settled p false)) ∧
      (0 < n → n ≤ 4096 → u.mapped a n = true → u.hubCut = true → exec (.memRead p r n a) s = .next (u.settled p false)) ∧
      (0 < n → n ≤ 4096 → u.mapped a n = true → u.hubCut = false → exec (.memRead p r n a) s =
        .next (((u.hubOp a n false).answer (asker p r) stOk false ((u.loadBytes a n).any (·.2)) ((u.loadBytes a n).map (·.1))).settled p false))) ∧
    (∀ d, Instr.wf (.memWrite p r a d) = true → s.asks p r false false true → d ≠ [] →
      (u.mapped a d.length = false ∨ u.touchesExtent a d.length (fun _ => true) = true → exec (.memWrite p r a d) s = .next ((u.say (asker p r) stRange).settled p true)) ∧
      (u.mapped a d.length = true → u.touchesExtent a d.length (fun _ => true) = false → u.storeOp = none → u.hubCut = true → exec (.memWrite p r a d) s = .next (u.settled p true)) ∧
      (u.mapped a d.length = true → u.touchesExtent a d.length (fun _ => true) = false → u.storeOp = none → u.hubCut = false →
        ∃ t : State, exec (.memWrite p r a d) s = .next ((t.say (asker p r) stOk).settled p true) ∧
          (a + d.length ≤ hamperDpa → (∀ i b, d[i]? = some b → t.mem.byte (a + i) = b) ∧ u.sameMemBut t a d.length ∧
            (∀ k, groupOf k = k → a ≤ k → k + Machine.groupSize k ≤ a + d.length → t.mem.bad k = false)) ∧
          t = { u with mem := t.mem, regs := t.regs, win := t.win, busy := t.busy, merge := t.merge, chans := t.chans, deficit := t.deficit })) ∧
    (s.inTurn p 0 → (∀ k ∈ (s.received p).kept, k.owner ≠ p.src ∨ k.req ≠ r) → (s.received p).computeOn = false →
      ∀ n, Instr.wf (.memRead p r n a) = true → exec (.memRead p r n a) s = .next ((u.say (asker p r) stBusy).settled p false))

/-- IMAGE and LOAD (R163, R171, R220 to R222, R431, R475, R477): bytes of an image gather for their connection, within 64 MiB; a buffer of another connection, or one that a LOAD has taken, is BUSY; 10 s without more discard it. A LOAD with no image, or one that Pyist or the machine's state refuses, answers that code and loads nothing. An accepted LOAD leaves its partition loaded at step 0, or at the step before CSTEP when it resumes, with HUB_TERMp and MNT_POISONp clear. -/
def Obligations.ProgramsLoad : Prop :=
  ∀ (s : State) (p : Pkt) (r : Nat),
    let u := s.asked p r
    let a := asker p r
    (∀ off d, Instr.wf (.image p r off d) = true → s.asks p r false false false →
      (67108864 < off + d.length → exec (.image p r off d) s = .next ((u.say a stBadRequest).settled p true)) ∧
      (off + d.length ≤ 67108864 → u.loadWait = none →
        (u.assembly = none → exec (.image p r off d) s = .next ((({ u with assembly := some ⟨p.conn, [(off, d)]⟩ } : State).say a stOk).settled p true)) ∧
        (∀ x, u.assembly = some x → x.conn = p.conn → exec (.image p r off d) s = .next ((({ u with assembly := some { x with parts := x.parts ++ [(off, d)] } } : State).say a stOk).settled p true)) ∧
        (∀ x, u.assembly = some x → x.conn ≠ p.conn → exec (.image p r off d) s = .next ((u.say a stBusy).settled p true)))) ∧
    (s.loadWait = none → exec .imageAssemblyTimeout s = .next { s with assembly := none }) ∧
    (∀ n ext, Instr.wf (.load p r n ext) = true → s.asks p r false false ((s.received p).fld rBoot 63 60 != 4) → u.loadWait = none → (∀ x, u.assembly = some x → x.conn = p.conn) →
      (∀ x, ext = some x → x.mode < 3 ∧ (x.mode = 2 → x.cstep ≠ 0)) →
      (u.assembly = none → u.loadPlan p.conn n ext = reject 0x0103) ∧
      (∀ e, u.loadPlan p.conn n ext = .error e → exec (.load p r n ext) s = .next ((u.endLoad a e.reason).settled p false)) ∧
      (∀ q m, u.loadPlan p.conn n ext = .ok (q, m) → u.autoTests = [] → u.coreTesting = false → q.part < 8 →
        (ext = none → ∃ t : State, exec (.load p r n ext) s = .next ((t.endLoad a stOk).settled p false) ∧ t.part q.part = q.partition .loaded 0 ∧
          t.reg (rTerm q.part) = 0 ∧ t.reg (rPoison q.part) = 0 ∧ (∀ j, j ≠ q.part → t.part j = u.part j)) ∧
        (∀ x, ext = some x → x.mode = 2 → ∃ t : State, exec (.load p r n ext) s = .next ((t.endLoad a stOk).settled p false) ∧ t.part q.part = q.partition .loaded (x.cstep - 1)) ∧
        (∀ x, ext = some x → x.mode < 2 → ∃ t : State, exec (.load p r n ext) s = .next ((((t.endLoad a stOk).openRestore ⟨q.part, x.cstep, x.token, x.mode, 0, 0, 0, 0, false, []⟩).setArb).settled p false) ∧
          t.part q.part = q.partition .restoring 0 ∧ t.fld rCstat 63 60 = 3)))

/-- START, STEP, PARTITION_KILL and GROUP_SET (R165, R358, R359, R432): a START of a loaded program and a STEP of a started one wait for their partition, unless one waits already (BUSY), no program is there (NO_PROGRAM), an instant is named before cluster time has locked (NO_TIME) or a START's step block breaks R249 (BAD_STEP_BLOCK). At BOUNDARY a STEP that does not expect the next step is WRONG_STEP. A kill ends the partition's program. A group's table takes effect when its last part has come, or when its open epoch closes here. -/
def Obligations.ProgramRequests : Prop :=
  ∀ (s : State) (p : Pkt) (r : Nat),
    let u := s.asked p r
    let a := asker p r
    (∀ b : StepB, Instr.wf (.start p r b) = true → s.asks p r false false true → b.words.length ≤ 56 →
      let q := u.part b.part
      (8 ≤ b.part → exec (.start p r b) s = .next ((u.say a stBadRequest).settled p false)) ∧
      (b.part < 8 → q.live = false → exec (.start p r b) s = .next ((u.say a stNoProgram).settled p false)) ∧
      (b.part < 8 → q.live = true → q.st ≠ .loaded → exec (.start p r b) s = .next ((u.say a stBadRequest).settled p false)) ∧
      (b.part < 8 → q.st = .loaded →
        (b.instant ≠ 0 → u.fld rPtpStat 61 61 = 0 → exec (.start p r b) s = .next ((u.say a stNoTime).settled p false)) ∧
        (b.instant = 0 ∨ u.fld rPtpStat 61 61 = 1 →
          (q.cmd ≠ none → exec (.start p r b) s = .next ((u.say a stBusy).settled p false)) ∧
          (q.cmd = none → q.blockOk b = false → exec (.start p r b) s = .next ((u.say a stBadStepBlock).settled p false)) ∧
          (q.cmd = none → q.blockOk b = true →
            exec (.start p r b) s = .next ((u.updPart b.part (fun x => { x with cmd := some ⟨true, a, b⟩ })).settled p false))))) ∧
    (∀ b : StepB, Instr.wf (.step p r b) = true → s.asks p r false false true → b.words.length ≤ 56 →
      let q := u.part b.part
      (8 ≤ b.part → exec (.step p r b) s = .next ((u.say a stBadRequest).settled p false)) ∧
      (b.part < 8 → q.live = false → exec (.step p r b) s = .next ((u.say a stNoProgram).settled p false)) ∧
      (b.part < 8 → q.st = .loaded → exec (.step p r b) s = .next ((u.say a stBadRequest).settled p false)) ∧
      (b.part < 8 → q.st = .running ∨ q.st = .closed →
        (b.instant ≠ 0 → u.fld rPtpStat 61 61 = 0 → exec (.step p r b) s = .next ((u.say a stNoTime).settled p false)) ∧
        (b.instant = 0 ∨ u.fld rPtpStat 61 61 = 1 →
          (q.cmd ≠ none → exec (.step p r b) s = .next ((u.say a stBusy).settled p false)) ∧
          (q.cmd = none → q.st = .running ∨ b.exp = q.step + 1 ∧ q.blockOk b = true →
            exec (.step p r b) s = .next ((u.updPart b.part (fun x => { x with cmd := some ⟨false, a, b⟩ })).settled p false)) ∧
          (q.cmd = none → q.st = .closed → b.exp ≠ q.step + 1 →
            ∃ t : State, exec (.step p r b) s = .next ((t.say a stWrongStep).settled p false) ∧ t.part b.part = q) ∧
          (q.cmd = none → q.st = .closed → b.exp = q.step + 1 → q.blockOk b = false →
            ∃ t : State, exec (.step p r b) s = .next ((t.say a stBadStepBlock).settled p false) ∧ t.part b.part = q)))) ∧
    (∀ n, Instr.wf (.partitionKill p r n) = true → s.asks p r false false false →
      (n < 8 → exec (.partitionKill p r n) s = .next (((((u.terminate n tKill .none).setArb).settleRed).say a stOk).settled p false)) ∧
      (8 ≤ n → exec (.partitionKill p r n) s = .next ((u.say a stBadRequest).settled p false))) ∧
    (∀ g last host size rank first es, Instr.wf (.groupSet p r g last host size rank first es) = true → s.asks p r false false false →
      (16 ≤ g ∨ size = 0 ∨ 32768 < size ∨ size ≤ host ∨ size ≤ rank ∨ size < first + es.length → exec (.groupSet p r g last host size rank first es) s = .next ((u.say a stBadRequest).settled p false)) ∧
      (g < 16 → es ≠ [] → size = es.length → host < size → rank < size → first = 0 → last = true → ∃ t : Group, t.size = size ∧ t.rank = rank ∧ t.host = host ∧
        (∀ k e, es[k]? = some e → Tab.find t.ids k = some (e.1, e.2)) ∧
        (identities (Tab.put u.groups g t ++ Tab.del u.groupPend g) ≤ 65536 →
          (u.groupBusy g = false → exec (.groupSet p r g last host size rank first es) s =
            .next ((({ u with groups := Tab.put u.groups g t, groupPend := Tab.del u.groupPend g, groupParts := Tab.del u.groupParts g } : State).say a stOk).settled p false)) ∧
          (u.groupBusy g = true → exec (.groupSet p r g last host size rank first es) s =
            .next ((({ u with groupPend := Tab.put u.groupPend g t, groupParts := Tab.del u.groupParts g } : State).say a stOk).settled p false))) ∧
        (65536 < identities (Tab.put u.groups g t ++ Tab.del u.groupPend g) → ∃ v : State, exec (.groupSet p r g last host size rank first es) s = .next ((v.say a stGroupLimit).settled p false) ∧ v.groups = u.groups)))

/-- Maintenance of units (R454, R456 to R460, R506, R555, R556): a stored pack tests a unit of its classes that no rule keeps busy, and MNT_TEST shows it; a test that ends is an event of its unit; FENCE UNIT is a direct fault; a deleted pack is gone; a module configuration that obeys R507 is stored for the next reset. What a request may not do is BAD_REQUEST or BUSY, and changes nothing but MNT_TEST. -/
def Obligations.MaintenanceOfUnits : Prop :=
  ∀ (s : State) (p : Pkt) (r : Nat),
    let u := s.asked p r
    let a := asker p r
    let ok := fun (t : State) => (t.say a stOk).settled p false
    let no := fun (st : Nat) => (u.say a st).settled p false
    (∀ pack n, Instr.wf (.runTestPack p r pack n) = true → s.asks p r false false true →
      (∀ k, u.packOf pack = some k → unitOk n = true → u.packTests k n = true →
        (u.testBusy n = false → ∃ t : State, exec (.runTestPack p r pack n) s = .next (ok t) ∧ t.runs = u.runs ++ [⟨pack, n, u.now⟩] ∧ t.fld rTest 63 60 = 1 ∧ t.fld rTest 47 32 = pack % 65536 ∧ t.fld rTest 31 16 = n % 65536 ∧
          t = { u with runs := t.runs, regs := t.regs }) ∧
        (u.testBusy n = true → exec (.runTestPack p r pack n) s = .next ((((if u.runs = [] then u.setFld rTest 63 60 4 else u)).say a stBusy).settled p false))) ∧
      (u.packOf pack = none → exec (.runTestPack p r pack n) s = .next ((((if u.runs = [] then u.setFld rTest 63 60 4 else u)).say a stBadRequest).settled p false))) ∧
    (∀ n fault k, Instr.wf (.testComplete n fault) = true → s.runs.find? (fun x => x.unit == n) = some k → s.loadWait = none → ∃ t : State, exec (.testComplete n fault) s = .next t ∧
      t.runs = s.runs.erase k ∧ t.events = s.events ++ [⟨n, if fault then evTestFail else evTestPass, s.eventSecond, 0⟩] ∧
      (t.runs = [] → t.fld rTest 63 60 = if fault then 3 else 2) ∧ (t.runs ≠ [] → t.fld rTest 63 60 = 1) ∧ t = { s with runs := t.runs, events := t.events, regs := t.regs }) ∧
    (∀ n k, Instr.wf (.testRunmaxExpiry n) = true → s.runs.find? (fun x => x.unit == n) = some k → s.loadWait = none → ∃ t : State, exec (.testRunmaxExpiry n) s = .next t ∧
      t.runs = s.runs.erase k ∧ (∃ e, t.events = s.events ++ [e] ∧ e.unit = n ∧ e.kind = evTestFail) ∧ (∀ x, s.packOf k.pack = some x → k.began + 1000000 * x.runmax ≤ t.now)) ∧
    (∀ n, Instr.wf (.fenceUnit p r n) = true → s.asks p r false false false →
      (unitOk n = true → exec (.fenceUnit p r n) s = .next (ok { u with events := u.events ++ [⟨n, evDirect, u.eventSecond, 0⟩] })) ∧ (unitOk n = false → exec (.fenceUnit p r n) s = .next (no stBadRequest))) ∧
    (∀ n, Instr.wf (.clearUnitRecord p r n) = true → s.asks p r false false false →
      (unitOk n = true → exec (.clearUnitRecord p r n) s = .next (ok (u.clearUnit n))) ∧ (unitOk n = false → exec (.clearUnitRecord p r n) s = .next (no stBadRequest))) ∧
    (∀ k, Instr.wf (.deleteTestPack p r k) = true → s.asks p r false false false →
      (u.packOf k ≠ none → u.update = none → ∃ t : State, exec (.deleteTestPack p r k) s = .next (ok t) ∧ t.packOf k = none ∧ (∀ j, j ≠ k → t.packOf j = u.packOf j) ∧ t = { u with flash := { u.flash with packs := t.flash.packs } }) ∧
      (u.packOf k = none → exec (.deleteTestPack p r k) s = .next (no stBadRequest)) ∧ (u.packOf k ≠ none → u.update ≠ none → exec (.deleteTestPack p r k) s = .next (no stBusy))) ∧
    (∀ d, Instr.wf (.setModuleConfiguration p r d) = true → s.asks p r false false false →
      (configOk d = true → exec (.setModuleConfiguration p r d) s = .next (ok { u with flash := { u.flash with stored := d } })) ∧ (configOk d = false → exec (.setModuleConfiguration p r d) s = .next (no stBadRequest)))

/-- Marches, retraining and sweeps on request (R308, R310, R345, R354, R506, R552 to R556): a march starts on a slice where none runs, a destructive one only with no program loaded, and leaves the slice undefined; stopped, it is idle, what it had found so far is recorded, and the slice of a destructive one is undefined from then on. A retraining asked for falls due, and starts unless a rule keeps it. A sweep starts with clear accumulators over an active region. -/
def Obligations.MaintenanceStarts : Prop :=
  ∀ (s : State) (p : Pkt) (r n : Nat), s.asks p r false false true →
    let u := s.asked p r
    let a := asker p r
    let ok := fun (t : State) => (t.say a stOk).settled p false
    let no := fun (st : Nat) => (u.say a st).settled p false
    (∀ d, Instr.wf (.startMarch p r n d) = true →
      (512 ≤ n → exec (.startMarch p r n d) s = .next (no stBadRequest)) ∧
      (n < 512 → (u.fld (rSlcMarch n) 63 60 = 1 ∨ u.fld (rSlcMarch n) 63 60 = 2 ∨ d = true ∧ u.anyLoaded = true) → exec (.startMarch p r n d) s = .next (no stBusy)) ∧
      (n < 512 → u.fld (rSlcMarch n) 63 60 ≠ 1 → u.fld (rSlcMarch n) 63 60 ≠ 2 →
        (d = false → ∃ t : State, exec (.startMarch p r n d) s = .next (ok t) ∧ t.fld (rSlcMarch n) 63 60 = 1 ∧
          t = { u with regs := t.regs, marchAt := Tab.put u.marchAt n u.clock.eclk }) ∧
        (d = true → u.anyLoaded = false → ∃ t : State, exec (.startMarch p r n d) s = .next (ok t) ∧ t.fld (rSlcMarch n) 63 60 = 2 ∧
          (∀ k, k < hamperDpa → sliceOf k = n → t.mem.byte k = Config.freeByte u.free k ∧ t.mem.bad k = false) ∧
          (∀ k, k < hamperDpa → sliceOf k ≠ n → t.mem.byte k = u.mem.byte k ∧ t.mem.bad k = u.mem.bad k) ∧
          t = { u with regs := t.regs, mem := t.mem, free := t.free, merge := t.merge, marchAt := Tab.put u.marchAt n u.clock.eclk }))) ∧
    (Instr.wf (.stopMarch p r n) = true → n < 512 →
      (u.fld (rSlcMarch n) 63 60 ≠ 1 → u.fld (rSlcMarch n) 63 60 ≠ 2 → exec (.stopMarch p r n) s = .next (ok u)) ∧
      (u.fld (rSlcMarch n) 63 60 = 1 ∨ u.fld (rSlcMarch n) 63 60 = 2 → ∃ t : State, exec (.stopMarch p r n) s = .next (ok t) ∧ t.fld (rSlcMarch n) 63 60 = 0 ∧
        (u.fld (rSlcMarch n) 63 60 = 1 → t.mem = u.mem ∧ t.merge = u.merge) ∧
        (u.fld (rSlcMarch n) 63 60 = 2 → ∀ k, k < hamperDpa → (sliceOf k = n → t.mem.byte k = Config.freeByte u.free k ∧ t.mem.bad k = false) ∧
          (sliceOf k ≠ n → t.mem.byte k = u.mem.byte k ∧ t.mem.bad k = u.mem.bad k)) ∧
        t = { u with regs := t.regs, free := t.free, events := t.events, mem := t.mem, merge := t.merge, flash := { u.flash with badRows := t.flash.badRows } })) ∧
    (Instr.wf (.retrainChannel p r n) = true → n < 256 → u.chanState n = 2 → u.channelTest n = false →
      (u.retraining = none → exec (.retrainChannel p r n) s = .next (ok ((((u.updChan n (fun c => { c with due := false })).setFld (rHmcStat n) 63 60 3).channelLate n 2000).setArb).settleRed)) ∧
      (u.retraining ≠ none → exec (.retrainChannel p r n) s = .next (no stBusy))) ∧
    (Instr.wf (.digestSweep p r n) = true → n < 16 → u.fld (rDgcfg n) 63 63 = 1 → u.sweeps.contains n = false → u.offTest = false → u.tgWrites = false → u.restore = none →
      ∃ t : State, exec (.digestSweep p r n) s = .next (ok t) ∧ t.sweeps = u.sweeps ++ [n] ∧ (∀ q < 256, t.reg (rDgsacc q n) = 0) ∧ t.fld (rDgst n) 3 3 = 0 ∧ t.fld (rDgst n) 4 4 = 0 ∧
        t = { u with sweeps := t.sweeps, win := t.win, regs := t.regs }) ∧
    (Instr.wf (.digestSweep p r n) = true → 16 ≤ n ∨ u.fld (rDgcfg n) 63 63 = 0 → exec (.digestSweep p r n) s = .next (no stBadRequest))

/-- Unit history (R452, R453, R455, R456): the first event that waits enters its unit's record, which counts and dates it, and the event ring; then every unit is classified: a direct fault, or enough uncorrectable errors or failed tests in the window make it LASTING for good, fewer or enough correctable ones SUSPECT; a change of state enters the ring, and a unit that becomes LASTING is acted on. Every hour each unit is classified again. Stated where no collector is set and no LOAD waits. -/
def Obligations.UnitHistory : Prop :=
  ∀ s : State, s.collector.1 = 0 → s.loadWait = none →
    (∀ e l, s.events = e :: l →
      let rec1 := (s.unitRec e.unit).note e.kind e.time
      ∃ t : State, exec .unitEventCommit s = .next ((t.classifyAll).resumeLoad).settleRed ∧ t.events = l ∧ t.unitRec e.unit = rec1 ∧ (∀ n, n ≠ e.unit → t.unitRec n = s.unitRec n) ∧
        Tab.find t.flash.ring s.flash.ringNext = some e ∧ t.flash.ringNext = (s.flash.ringNext + 1) % 65536 ∧ t.flash.lastTime = e.time ∧
        (e.kind = evCe → rec1.ce = min ((s.unitRec e.unit).ce + 1) (2 ^ 32 - 1) ∧ rec1.ceT.head? = some e.time) ∧ (e.kind = evUe → rec1.ue = min ((s.unitRec e.unit).ue + 1) 65535 ∧ rec1.ueT.head? = some e.time) ∧
        (e.kind = evTestFail → rec1.tf = min ((s.unitRec e.unit).tf + 1) 65535) ∧ (e.kind = evTestPass → rec1.tp = min ((s.unitRec e.unit).tp + 1) 65535) ∧ (e.kind = evDirect → rec1.direct = true) ∧
        t = { s with events := l, flash := t.flash, regs := t.regs }) ∧
    (s.events = [] → exec .unitEventCommit s = .next s.settleRed) ∧
    exec .hourlyClassification s = .next (((s.flash.units.foldl (fun s e => s.classify e.1) s).resumeLoad).settleRed) ∧
    (∀ n, let x := s.unitRec n
      let j := x.judge s.thresholds s.eventSecond
      (j.1 = x.state → s.classify n = s.setUnit n { x with cause := j.2 }) ∧
      (j.1 ≠ x.state → ∃ t : State, s.classify n = (if j.1 = 2 then t.actLasting n else t) ∧ t.unitRec n = { x with state := j.1, cause := j.2, stateT := s.eventSecond } ∧
        Tab.find t.flash.ring s.flash.ringNext = some ⟨n, 6, s.eventSecond, j.1 + 256 * j.2 + 65536 * x.state⟩)) ∧
    (∀ (x : UnitRec) (h : Thresholds) (now : Nat),
      ((x.judge h now).1 = 2 ↔ x.direct = true ∨ h.ue ≤ inWindow x.ueT now h.window ∨ h.tf ≤ inWindow x.tfT now h.window ∨ x.state = 2) ∧
      ((x.judge h now).1 = 0 ↔ x.direct = false ∧ x.state ≠ 2 ∧ 0 < h.ue ∧ 0 < h.tf ∧ inWindow x.ueT now h.window = 0 ∧ inWindow x.tfT now h.window = 0 ∧ inWindow x.ceT now h.window < h.ce))

/-- Resets (R348, R491, R492, R495, R506, R517, R532). A power-on reset leaves every state but flash and the leak latch at its reset value, repairs the failing rows of the channels not named as unrepaired (R342), and boots with CAUSE 0; channels that fail training or keep a failing row are faulty. Once the rails have gone off it waits for 100 ms of good input. A warm reset (R506: after its reply) ends programs first, and leaves stacked memory, flash, the power side's stack state and the coolant latches as they then are. Every boot counts, takes the stored configuration, and shows a bank (STATE 2) or recovery (STATE 5). A trial that has not reached READY in time is reset. -/
def Obligations.Resets : Prop :=
  ∀ s : State,
    let booted := fun (e t : State) (cause : Nat) => t.flash = { e.flash with trial := e.flash.pick.2.1, boots := min (e.flash.boots + 1) (2 ^ 32 - 1), config := e.flash.stored } ∧
      t.fld rBoot 47 44 = cause ∧ t.fld rBoot 31 0 = t.flash.boots ∧ t.fld rEthStat 63 61 = 1 ∧
      (e.flash.pick.1 = none → t.fld rBoot 63 60 = 5) ∧ (∀ b, e.flash.pick.1 = some b → t.fld rBoot 63 60 = 2 ∧ t.fld rBoot 59 59 = bit b) ∧
      t.cores = [] ∧ t.parts = [] ∧ t.conns = [] ∧ t.epochs = [] ∧ t.groups = [] ∧ t.kept = [] ∧ t.fab = [] ∧ t.update = none ∧ t.clock = ⟨0, 0, 0⟩ ∧
      t.fld rFacStat 15 15 = e.fld rFacStat 15 15 ∧ t.fld rPwrStat 57 56 = 0 ∧ t.power.histBase = e.flash.lastTime ∧ (∀ k < 136, t.fenced k = t.coreLasting k) ∧ t.pending = e.pending ∧ t.outbox = e.outbox
    (∀ l un, Instr.wf (.powerOnReset ⟨l, un⟩) = true →
      let rows := s.flash.chanRows.filter (fun r => un.contains r.1)
      let bad := (l ++ un.filter (fun q => s.flash.chanRows.any (fun r => r.1 == q))).dedup
      (s.power.lockOut = true ∨ s.power.railsOff = true ∧ s.power.okIn < 10000 → exec (.powerOnReset ⟨l, un⟩) s = .next s) ∧
      (s.power.lockOut = false → s.power.railsOff = false ∨ 10000 ≤ s.power.okIn → ∃ t : State, exec (.powerOnReset ⟨l, un⟩) s = .next t ∧ booted { s with flash := { s.flash with chanRows := rows } } t 0 ∧
        (∀ k, t.mem.byte k = 0 ∧ t.mem.bad k = false) ∧ t.power.railsOff = false ∧ t.power.stacksOn = false ∧ t.power.samples = [] ∧
        (∀ q < 256, t.chanState q = if bad.contains q then 5 else 0) ∧ t.events.map (fun e => (e.unit, e.kind)) = bad.map (fun q => (unitChan q, evDirect)))) ∧
    (∀ cause, cause < 16 → let e := (s.endPrograms tReset).restChannels
      booted e (s.warmReset cause) cause ∧ (s.warmReset cause).fld rFacStat 14 14 = e.fld rFacStat 14 14 ∧ (s.warmReset cause).chans = e.chans ∧
      (s.warmReset cause).power.stacksOn = e.power.stacksOn ∧
      ∀ k, (k < stackDpa → (s.warmReset cause).mem.byte k = 0 ∧ (s.warmReset cause).mem.bad k = false) ∧
        (stackDpa ≤ k → (s.warmReset cause).mem.byte k = e.mem.byte k ∧ (s.warmReset cause).mem.bad k = e.mem.bad k)) ∧
    (∀ p r, Instr.wf (.warmReset p r) = true → s.asks p r false true false → exec (.warmReset p r) s = .next (((s.asked p r).say (asker p r) stOk).warmReset 1)) ∧
    (s.fld rBoot 58 58 = 1 → s.fld rBoot 63 60 ≠ 3 → s.fld rBoot 63 60 ≠ 6 → exec .trialWatchdog s = .next (s.warmReset 2)) ∧
    (s.fld rBoot 58 58 = 0 ∨ s.fld rBoot 63 60 = 3 ∨ s.fld rBoot 63 60 = 6 → exec .trialWatchdog s = .next s)

/-- Compute power and Shade (R282, R348, R357, R400, R491, R496, R525 to R527, R531). At STATE 2, with supply, coolant and leak as they should be, the compute dies start: READY at admission stage 8, scratchpad and hampers zero, stacked memory as self-refresh kept it or zero, the stored channel map in force. A channel that must be trained in full, and fails it, is faulty (R348, R349). A die that does not come up, or a cause of R496, fails the device (STATE 4). Shade takes compute power off once no program is loaded and no activity runs, and keeps stacked memory and flash; leaving it goes back to STATE 2. In Shade a hub die at 115 °C costs every rail, one at 110 °C or a stack at CRIT the stacks. -/
def Obligations.ComputePower : Prop :=
  ∀ s : State,
    (∀ b check fail, Instr.wf (.computePowerUp ⟨b, check, fail⟩) = true → (s.fld rBoot 63 60 ≠ 2 ∨ s.canWake = false → exec (.computePowerUp ⟨b, check, fail⟩) s = .next s) ∧
      (s.fld rBoot 63 60 = 2 → s.canWake = true →
        let u := s.startCompute.trainFull (!s.power.stacksOn) check fail
        (b = false → u.unfit = false → ∃ t : State, exec (.computePowerUp ⟨b, check, fail⟩) s = .next t ∧ t = u ∧ t.fld rPwrStat 57 56 = 2 ∧ t.fld rPwrStat 63 60 = 8 ∧ t.fld rBoot 63 60 = 3 ∧
          t.started = false ∧ t.clock.eclk = 0 ∧ t.power.stacksOn = true ∧ t.reg rMap = s.flash.mapWord.toNat ∧ t.reg rRmv = s.flash.removedWord.toNat ∧ t.flash = s.flash ∧
          (∀ q < 256, s.startCompute.chanState q = if (s.startCompute.removed.map chanOf).contains q then 6 else if s.chanState q = 5 ∨ s.lasting (unitChan q) = true then 5 else 2) ∧
          (∀ q < 256, t.chanState q = if s.startCompute.chanState q = 2 ∧ q ∈ fail ∧ (s.power.stacksOn = false ∨ q ∈ check ∨ (s.chan q).trained = none) then 5 else s.startCompute.chanState q) ∧
          (∀ q ∈ check, (t.chan q).trained = none) ∧ (∀ d < 4, t.fld (rDsup d) 63 60 = 2) ∧ (∀ k < 136, t.fenced k = t.coreLasting k) ∧
          (∀ k, k < stackDpa → t.mem.byte k = 0 ∧ t.mem.bad k = false) ∧
          (s.power.stacksOn = true → ∀ k, stackDpa ≤ k → t.mem.byte k = s.mem.byte k ∧ t.mem.bad k = s.mem.bad k) ∧
          (s.power.stacksOn = false → ∀ k, stackDpa ≤ k → k < stackTop → t.mem.byte k = 0 ∧ t.mem.bad k = false)) ∧
        (b = true → ∃ t : State, exec (.computePowerUp ⟨b, check, fail⟩) s = .next t ∧ t.fld rPwrStat 57 56 = 0 ∧ (∀ d < 4, t.fld (rDsup d) 63 60 = 0) ∧ t.fld rBoot 63 60 = 4 ∧ ∀ k < 136, t.fenced k = true) ∧
        (b = false → u.unfit = true → ∃ t : State, exec (.computePowerUp ⟨b, check, fail⟩) s = .next t ∧ t = u.failDevice ∧ t.fld rBoot 63 60 = 4 ∧ ∀ k < 136, t.fenced k = true))) ∧
    (∀ p r, s.asks p r false false false →
      let u := s.asked p r
      let a := asker p r
      (Instr.wf (.enterShade p r) = true →
        (u.fld rBoot 63 60 = 6 → exec (.enterShade p r) s = .next ((u.say a stOk).settled p false)) ∧
        (u.fld rBoot 63 60 ≠ 6 → u.anyLoaded = true ∨ u.anyActivity = true → exec (.enterShade p r) s = .next ((u.say a stBusy).settled p false)) ∧
        (u.fld rBoot 63 60 ≠ 6 → u.anyLoaded = false → u.anyActivity = false → exec (.enterShade p r) s = .next ((u.completeTally.computeOff.say a stOk).settled p false))) ∧
      (Instr.wf (.leaveShade p r) = true →
        (u.fld rBoot 63 60 ≠ 6 → exec (.leaveShade p r) s = .next ((u.say a stOk).settled p false)) ∧
        (u.fld rBoot 63 60 = 6 → u.canWake = false → exec (.leaveShade p r) s = .next ((u.say a stBusy).settled p false)) ∧
        (u.fld rBoot 63 60 = 6 → u.canWake = true → exec (.leaveShade p r) s = .next (((((u.setFld rBoot 63 60 2).setFld rPwrStat 57 56 1).dieStates 1).say a stOk).settled p false)))) ∧
    (let t := s.computeOff
     t.fld rPwrStat 57 56 = 0 ∧ t.fld rPwrStat 63 60 = 0 ∧ t.fld rBoot 63 60 = (if s.fld rBoot 63 60 = 4 then 4 else 6) ∧ (∀ d < 4, t.fld (rDsup d) 63 60 = 3 ∧ t.fld (rDsup d) 33 0 = s.fld (rDsup d) 33 0) ∧
      t.cores = [] ∧ t.fab = [] ∧ t.tally = [] ∧ t.pot = [] ∧ t.links = [] ∧ (∀ p < 8, t.part p = Part.reset) ∧ t.reg rMap = s.reg rMap ∧ t.reg rRmv = s.reg rRmv ∧ t.flash = s.flash ∧ t.power = s.power ∧ t.conns = s.conns ∧
      ∀ k, (k < stackDpa → t.mem.byte k = 0 ∧ t.mem.bad k = false) ∧ (stackDpa ≤ k → t.mem.byte k = s.mem.byte k ∧ t.mem.bad k = s.mem.bad k)) ∧
    (∀ temp crit, temp < 256 →
      (s.fld rBoot 63 60 ≠ 6 ∨ temp < 110 ∧ crit = false → exec (.hubDieTemperature temp crit) s = .next s) ∧
      (s.fld rBoot 63 60 = 6 → temp < 115 → 110 ≤ temp ∨ crit = true → exec (.hubDieTemperature temp crit) s = .next s.dropStacks) ∧
      (s.fld rBoot 63 60 = 6 → 115 ≤ temp → ∃ t : State, exec (.hubDieTemperature temp crit) s = .next t ∧ t.power.railsOff = true ∧ t.power.lockOut = true ∧ t.flash = s.flash ∧
        t.cores = [] ∧ t.fld rFacStat 15 15 = s.fld rFacStat 15 15 ∧ ∀ k, t.mem.byte k = 0)) ∧
    (s.dropStacks.power.stacksOn = false ∧ s.dropStacks = { s with mem := s.dropStacks.mem, chans := [], power := s.dropStacks.power, regs := s.dropStacks.regs } ∧
      s.sameRegsBut s.dropStacks (· = rStoreSt) ∧ s.dropStacks.slotV 0 = false ∧ s.dropStacks.slotV 1 = false ∧
      ∀ k, (stackDpa ≤ k → k < stackTop → s.dropStacks.mem.byte k = 0 ∧ s.dropStacks.mem.bad k = false) ∧ (k < stackDpa → s.dropStacks.mem.byte k = s.mem.byte k))

/-- Supply and limiter (R516, R517, R519, R520, R541). A sample shows its range, and voltage, current and the mean powers of 1,000 and 100,000 samples; with the rails off only the samples in a row within 32 to 40 V are counted; ten in a row below 30 V shut the device down in order, a sample above 42 V or a hundred in a row below 24 V cost every rail; a sample of 0 V clears the leak latch and the lock of R531. Every 100 µs the limiter lowers the admission stage by one, not below 1, above 0.98 of a limit, and raises it by one, at most to 8, below 0.95 of each, 1 ms after its last change. VRANGE outside 30 to 42 V is a free value (log 5). -/
def Obligations.SupplyAndLimiter : Prop :=
  ∀ s : State,
    (∀ mv ma, Instr.wf (.supplySample mv ma) = true →
      let z : State := if mv = 0 then ({ s with power := { s.power with lockOut := false } } : State).setFld rFacStat 15 15 0 else s
      (s.power.railsOff = true → exec (.supplySample mv ma) s = .next { z with power := { z.power with okIn := if 32000 ≤ mv ∧ mv ≤ 40000 then s.power.okIn + 1 else 0 } }) ∧
      (s.power.railsOff = false → ∃ v : State, v = { z with power := v.power, regs := v.regs, free := v.free } ∧ v.power.samples = ((mv, ma) :: s.power.samples).take 100000 ∧
        z.sameRegsBut v (fun a => a = rPwrStat ∨ a = rPwrSense) ∧
        (32000 ≤ mv → mv ≤ 40000 → v.fld rPwrStat 59 58 = 0) ∧ (30000 ≤ mv → mv < 32000 → v.fld rPwrStat 59 58 = 1) ∧ (40000 < mv → mv ≤ 42000 → v.fld rPwrStat 59 58 = 2) ∧
        v.fld rPwrSense 63 48 = mv ∧ v.fld rPwrSense 47 32 = ma / 10 ∧ v.fld rPwrSense 31 16 = satN 16 (meanWatts v.power.samples 1000) ∧ v.fld rPwrSense 15 0 = satN 16 (meanWatts v.power.samples 100000) ∧
        v.power.under30 = (if mv < 30000 then s.power.under30 + 1 else 0) ∧ v.power.under24 = (if mv < 24000 then s.power.under24 + 1 else 0) ∧
        (42000 < mv ∨ 100 ≤ v.power.under24 → exec (.supplySample mv ma) s = .next v.dark) ∧
        (mv ≤ 42000 → v.power.under24 < 100 → 10 ≤ v.power.under30 → exec (.supplySample mv ma) s = .next (v.shutDown 1)) ∧
        (mv ≤ 42000 → v.power.under30 < 10 → v.power.under24 < 100 → exec (.supplySample mv ma) s = .next v))) ∧
    (s.computeOn = false → exec .limiterTick s = .next s) ∧
    (s.computeOn = true → ∃ t : State, exec .limiterTick s = .next t ∧ t = { s with power := t.power, regs := t.regs } ∧ s.sameRegsBut t (· = rPwrStat) ∧
      (s.fld rPwrStat 63 60 ≤ 8 →
        ((∃ e ∈ s.limits, 98 * e.2 < 100 * e.1) → t.fld rPwrStat 63 60 = max 1 (s.fld rPwrStat 63 60 - 1)) ∧
        ((∀ e ∈ s.limits, 100 * e.1 < 95 * e.2) → 9 ≤ s.power.stageAt → t.fld rPwrStat 63 60 = min 8 (s.fld rPwrStat 63 60 + 1)) ∧
        ((∀ e ∈ s.limits, 100 * e.1 ≤ 98 * e.2) → (∃ e ∈ s.limits, 95 * e.2 ≤ 100 * e.1) ∨ s.power.stageAt < 9 → t.fld rPwrStat 63 60 = s.fld rPwrStat 63 60) ∧
        t.power.throttled = s.power.throttled + (if s.fld rPwrStat 63 60 < 8 then 1 else 0) ∧
        t.power.stageAt = (if t.fld rPwrStat 63 60 = s.fld rPwrStat 63 60 then s.power.stageAt + 1 else 0))) ∧
    (s.dark.power.railsOff = true ∧ s.dark.flash = s.flash ∧ s.dark.fld rFacStat 15 15 = s.fld rFacStat 15 15 ∧ s.dark.cores = [] ∧ s.dark.parts = [] ∧ s.dark.conns = [] ∧ (∀ k, s.dark.mem.byte k = 0)) ∧
    (s.computeOn = false → ∀ c, s.shutDown c = s) ∧
    (s.computeOn = true → ∀ c, c < 16 → (s.shutDown c).fld rPwrStat 55 52 = c ∧ (s.shutDown c).fld rPwrStat 57 56 = 0 ∧ (s.shutDown c).cores = [] ∧ (∀ p < 8, (s.shutDown c).part p = Part.reset) ∧
      (s.shutDown c).storeOp = none ∧ (s.shutDown c).update = none ∧ ∀ k < stackDpa, (s.shutDown c).mem.byte k = 0)

/-- Coolant and the facility port (R529, R530, R537 to R540, R542). A coolant sample shows its values; the interlock is satisfied after 100 good ones in a row, 100 bad ones in a row shut the device down in order, 1,000 low ones hold it at reduced power, and a leak is latched, with compute on also a shutdown that removes stack power and closes the valve. A status frame reports the facility's view; a valve's close and a shutdown are honoured always, an open is refused while a leak is latched; frames are counted. -/
def Obligations.CoolantAndFacility : Prop :=
  ∀ s : State,
    (∀ i o f leak, Instr.wf (.coolantSample i o f leak) = true →
      (s.power.railsOff = true → exec (.coolantSample i o f leak) s = .next s) ∧
      (s.power.railsOff = false →
        let low := f < 450 ∨ 4000 < i
        let bad := f < 300 ∨ 4500 < i ∨ 6000 < o
        ∃ v : State, v = { s with power := v.power, regs := v.regs } ∧ s.sameRegsBut v (· = rFacStat) ∧
        v.fld rFacStat 63 48 = unsigned 16 i ∧ v.fld rFacStat 47 32 = unsigned 16 o ∧ v.fld rFacStat 31 16 = f ∧ v.fld rFacStat 15 15 = s.fld rFacStat 15 15 ∧
        (v.power.okMs = 0 ↔ low ∨ leak = true) ∧ (¬ low → leak = false → v.power.okMs = s.power.okMs + 1) ∧ (low → v.power.lowMs = s.power.lowMs + 1) ∧ (¬ low → v.power.lowMs = 0) ∧
        (bad → v.power.badMs = s.power.badMs + 1) ∧ (¬ bad → v.power.badMs = 0) ∧
        (v.fld rFacStat 13 13 = 1 ↔ 100 ≤ v.power.okMs) ∧ (v.power.heldLow = true ↔ 1000 ≤ v.power.lowMs) ∧ (v.power.wet = leak) ∧
        (leak = true → exec (.coolantSample i o f leak) s = .next v.leakSeen) ∧
        (leak = false → 100 ≤ v.power.badMs → exec (.coolantSample i o f leak) s = .next (v.shutDown 2)) ∧
        (leak = false → v.power.badMs < 100 → exec (.coolantSample i o f leak) s = .next v))) ∧
    (s.leakSeen.fld rFacStat 15 15 = 1 ∧ (s.computeOn = false → s.leakSeen = s.setFld rFacStat 15 15 1) ∧
      (s.computeOn = true → s.leakSeen.fld rFacStat 14 14 = 0 ∧ s.leakSeen.power.stacksOn = false ∧ s.leakSeen.fld rPwrStat 57 56 = 0 ∧ s.leakSeen.fld rPwrStat 55 52 = 3 ∧
        ∀ k, k < stackTop → s.leakSeen.mem.byte k = 0)) ∧
    (s.power.railsOff = true → exec .facilityStatus s = .next s ∧ ∀ q n, q < 256 → n < 256 → exec (.valve q n) s = .next s ∧ exec (.shutdown q n) s = .next s ∧ ∀ b, exec (.facilityBadFrame b) s = .next s) ∧
    (s.power.railsOff = false →
      exec .facilityStatus s = .next (s.emit (.facStatus (s.fld rFacStat 63 48) (s.fld rFacStat 47 32) (s.fld rFacStat 31 16) (s.fld rFacStat 15 15) (s.fld rFacStat 14 14) (s.fld rPwrStat 57 56) (s.fld rPwrSense 31 16))) ∧
      (∀ q n, q < 256 → n < 256 →
        let u := s.addFld rFacCnt 63 48 1
        (n = 0 → ∃ t : State, exec (.valve q n) s = .next (t.emit (.facAck q 0)) ∧ t.fld rFacStat 14 14 = 0 ∧ (s.computeOn = false → t.fld rFacCnt 63 48 = satN 16 (s.fld rFacCnt 63 48 + 1) ∧
          t.fld rFacCnt 15 0 = satN 16 (s.fld rFacCnt 15 0 + 1) ∧ t = { s with regs := t.regs }) ∧ (s.computeOn = true → t.fld rPwrStat 57 56 = 0 ∧ t.fld rPwrStat 55 52 = 4)) ∧
        (n = 1 → s.fld rFacStat 15 15 = 0 → exec (.valve q n) s = .next ((u.setFld rFacStat 14 14 1).emit (.facAck q 0))) ∧
        (n = 1 → s.fld rFacStat 15 15 = 1 → exec (.valve q n) s = .next (u.emit (.facAck q 1))) ∧ (1 < n → exec (.valve q n) s = .next (u.emit (.facAck q 1))) ∧
        (∃ t : State, exec (.shutdown q n) s = .next (t.emit (.facAck q 0)) ∧ t = { (u.addFld rFacCnt 15 0 1).shutDown 4 with power := t.power } ∧ t.power.reason = n)) ∧
      (∀ b, ∃ t : State, exec (.facilityBadFrame b) s = .next t ∧ t = { s with regs := t.regs } ∧ s.sameRegsBut t (· = rFacCnt) ∧
        t.fld rFacCnt 31 16 = (if b then satN 16 (s.fld rFacCnt 31 16 + 1) else s.fld rFacCnt 31 16) ∧
        t.fld rFacCnt 47 32 = (if b then s.fld rFacCnt 47 32 else satN 16 (s.fld rFacCnt 47 32 + 1)) ∧ t.fld rFacCnt 15 0 = s.fld rFacCnt 15 0))

/-- Keys and attestation (R494, R498 to R502, R557). A wrapped key that does not unwrap under slot 0 is BAD_REQUEST. An owner key enters slot 0, and the key that was there slot 1, unless it was K_claim, which is discarded; a peer key enters slot 2, and slot 2 moves to 3; slots 1 and 3 can be zeroed. Each writes the key store under the next number. A release, refused while an activity runs, ends every program, leaves no key and no group, zeroes stacked memory and clears the buddy, client and store registers. A nonce of another length than 32 bytes is BAD_REQUEST. A report at OFFSET 0 is fresh and kept, one of the last four by nonce; a held one, and from 32,768 the certificate, is read on in windows of 4,096 bytes. -/
def Obligations.KeysAndAttestation : Prop :=
  ∀ (s : State) (p : Pkt) (r : Nat),
    let u := s.asked p r
    let a := asker p r
    let ok := fun (t : State) => (t.say a stOk).settled p false
    let no := fun (st : Nat) => (u.say a st).settled p false
    let stored := fun (t : State) => t = { u with flash := { u.flash with keys := t.flash.keys, claimed := t.flash.claimed, kseq := u.flash.kseq + 1 } }
    (s.asks p r true false false →
      (∀ d, Instr.wf (.installOwnerKey p r d) = true → (u.unwrap d = none → exec (.installOwnerKey p r d) s = .next (no stBadRequest)) ∧
        (∀ k, u.unwrap d = some k → ∃ t : State, exec (.installOwnerKey p r d) s = .next (ok t) ∧ stored t ∧ t.flash.claimed = true ∧ Tab.find t.flash.keys 0 = some k ∧
          Tab.find t.flash.keys 1 = (if u.flash.claimed then Tab.find u.flash.keys 0 else none) ∧ ∀ j, 1 < j → Tab.find t.flash.keys j = Tab.find u.flash.keys j)) ∧
      (∀ d, Instr.wf (.installPeerKey p r d) = true → (u.unwrap d = none → exec (.installPeerKey p r d) s = .next (no stBadRequest)) ∧
        (∀ k, u.unwrap d = some k → ∃ t : State, exec (.installPeerKey p r d) s = .next (ok t) ∧ stored t ∧ t.flash.claimed = u.flash.claimed ∧ Tab.find t.flash.keys 2 = some k ∧
          Tab.find t.flash.keys 3 = Tab.find u.flash.keys 2 ∧ ∀ j, j ≠ 2 → j ≠ 3 → Tab.find t.flash.keys j = Tab.find u.flash.keys j)) ∧
      (Instr.wf (.retireOwnerPrevious p r) = true → ∃ t : State, exec (.retireOwnerPrevious p r) s = .next (ok t) ∧ stored t ∧ t.flash.claimed = u.flash.claimed ∧ Tab.find t.flash.keys 1 = none ∧
        ∀ j, j ≠ 1 → Tab.find t.flash.keys j = Tab.find u.flash.keys j) ∧
      (Instr.wf (.retirePeerPrevious p r) = true → ∃ t : State, exec (.retirePeerPrevious p r) s = .next (ok t) ∧ stored t ∧ t.flash.claimed = u.flash.claimed ∧ Tab.find t.flash.keys 3 = none ∧
        ∀ j, j ≠ 3 → Tab.find t.flash.keys j = Tab.find u.flash.keys j) ∧
      (Instr.wf (.release p r) = true → (u.anyActivity = true → exec (.release p r) s = .next (no stBusy)) ∧
        (u.anyActivity = false → let e := u.killAll tKill
          ∃ t : State, exec (.release p r) s = .next (ok t) ∧ t.flash = { e.flash with keys := [], claimed := false, kseq := e.flash.kseq + 1 } ∧ t.groups = [] ∧ t.groupPend = [] ∧
          (∀ j < 8, (t.part j).live = false) ∧ (∀ k, stackDpa ≤ k → k < stackTop → t.mem.byte k = 0 ∧ t.mem.bad k = false) ∧ (∀ k, k < stackDpa → t.mem.byte k = e.mem.byte k) ∧
          t.reg rBuddy = 0 ∧ t.reg rBuddyH = 0 ∧ t.reg rBuddyL = 0 ∧ t.reg rClient = 0 ∧ t.reg rCstore = 0 ∧ t.slotV 0 = false ∧ t.slotV 1 = false ∧
          t = { e with flash := t.flash, groups := [], groupPend := [], groupParts := [], mem := t.mem, regs := t.regs }))) ∧
    (s.asks p r true true false → ∀ off nonce, Instr.wf (.attest p r off nonce) = true →
      let gives := fun (t : State) (l : List Byte) => exec (.attest p r off nonce) s = .next ((t.answer a stOk false false l).settled p false)
      (nonce.length ≠ 32 → exec (.attest p r off nonce) s = .next (no stBadRequest)) ∧ (nonce.length = 32 →
      (off = 0 → ∃ t : State, gives t ((u.report nonce).take 4096) ∧ t = { u with reports := t.reports } ∧ t.reports.head? = some (nonce, u.report nonce) ∧ t.reports.length ≤ 4 ∧
        (∀ e ∈ t.reports.tail, e ∈ u.reports ∧ e.1 ≠ nonce)) ∧
      (32768 ≤ off → gives u ((Config.certificate.drop (off - 32768)).take 4096)) ∧
      (0 < off → off < 18112 → ∀ e, u.reports.find? (fun e => e.1 == nonce) = some e → gives u ((e.2.drop off).take 4096)) ∧
      (0 < off → off < 32768 → (18112 ≤ off ∨ u.reports.find? (fun e => e.1 == nonce) = none) → exec (.attest p r off nonce) s = .next (no stBadRequest)))) ∧
    (∀ nonce, (s.reportBody nonce).take 16 = [0x4C, 0x58, 0x41, 0x54, 1, 0, 0, 0] ++ toLe 8 deviceId ∧ (nonce.length = 32 → ((s.reportBody nonce).drop 16).take 32 = nonce) ∧
      ∃ sig : List Byte, s.report nonce = s.reportBody nonce ++ sig ∧ sig.length = 17088)

/-- Firmware and test packs (R423, R457, R490 to R492, R510 to R513). Data of a firmware image waits until it is in flash, and is acknowledged and answered then; OFFSET 0 erases the bank that does not run. A TARGET that is neither is BAD_REQUEST. A pack's data gathers in the hub. Finish verifies; what fails gives RESULT and BAD_REQUEST, an image that passes is ready, a pack that passes is stored. Activate marks a trial, commit makes the trial's bank the active one, and with OFFSET bit 0 raises the SVN floor; abort ends the update. Only the update's own connection may go on with it (BUSY). A bank that verifies has its magic, hash, signature and an SVN at or above the floor; the boot takes the trial's bank, the active one or the other, in that order, as far as they are good. -/
def Obligations.FirmwareUpdate : Prop :=
  ∀ (s : State) (p : Pkt) (r : Nat),
    let u := s.asked p r
    let a := asker p r
    let ok := fun (t : State) => (t.say a stOk).settled p false
    let no := fun (st : Nat) => (u.say a st).settled p false
    (s.asks p r true true false → ∀ n, n < 2 →
      (∀ off d, Instr.wf (.fwImageData p r n off d) = true →
        (∀ st, u.fwRefusal p.conn n off d.length = some st → n = 1 ∨ (s.accept p 0).deferred (.fwImageData p r n off d) = false → exec (.fwImageData p r n off d) s = .next ((u.say a st).settled p true)) ∧
        (n = 1 → u.fwRefusal p.conn n off d.length = none → ∃ t : State, exec (.fwImageData p r n off d) s = .next ((t.say a stOk).settled p true) ∧ t = { u with update := t.update, regs := t.regs } ∧
          t.fld rFwstat 63 60 = 1 ∧ (u.update = none → t.fld rFwstat 59 56 = 1) ∧ ∃ w, t.update = some w ∧ w.conn = p.conn ∧ w.target = 1 ∧ w.received = ((u.update.map Update.received).getD 0) + d.length ∧
          (∀ i x, d[i]? = some x → Tab.find w.buffer (off + i) = some x))) ∧
      (Instr.wf (.fwImageFinish p r n) = true →
        (u.update = none → exec (.fwImageFinish p r n) s = .next (((u.fwStat 5 7).say a stBadRequest).settled p false)) ∧
        (∀ w, u.update = some w → w.conn ≠ p.conn ∨ w.target ≠ n → exec (.fwImageFinish p r n) s = .next (no stBusy)) ∧
        (∀ w, u.update = some w → w.conn = p.conn → w.target = n →
          (n = 0 → u.idleBank.verify u.flash.svnFloor ≠ 0 → exec (.fwImageFinish p r n) s = .next (((u.fwStat 5 (u.idleBank.verify u.flash.svnFloor)).say a stBadRequest).settled p false)) ∧
          (n = 0 → u.idleBank.verify u.flash.svnFloor = 0 → ∃ t : State, exec (.fwImageFinish p r n) s = .next (ok t) ∧ t = { u with update := none, regs := t.regs } ∧ t.fld rFwstat 63 60 = 3 ∧ t.fld rFwver 31 0 = u.idleBank.version % 2 ^ 32) ∧
          (n = 1 → u.verifyPack w.buffer ≠ 0 → exec (.fwImageFinish p r n) s = .next (((u.fwStat 5 (u.verifyPack w.buffer)).say a stBadRequest).settled p false)) ∧
          (n = 1 → u.verifyPack w.buffer = 0 → u.packSlot (packFrom w.buffer).id ≠ none → ∃ t : State, exec (.fwImageFinish p r n) s = .next (ok t) ∧ t.packOf (packFrom w.buffer).id = some (packFrom w.buffer) ∧
            (t.fld rFwstat 63 60 = 3) ∧ t = { u with update := none, regs := t.regs, flash := { u.flash with packs := t.flash.packs } }))) ∧
      (Instr.wf (.fwImageActivate p r n) = true →
        (u.updateElse p.conn = true → exec (.fwImageActivate p r n) s = .next (no stBusy)) ∧
        (u.updateElse p.conn = false → n = 0 → u.fld rFwstat 63 60 = 3 → u.fld rFwstat 59 56 = 0 → ∃ t : State, exec (.fwImageActivate p r n) s = .next (ok t) ∧ t.fld rFwstat 63 60 = 4 ∧
          t = { u with flash := { u.flash with trial := .pending }, regs := t.regs }) ∧
        (u.updateElse p.conn = false → n = 1 ∨ u.fld rFwstat 63 60 ≠ 3 ∨ u.fld rFwstat 59 56 ≠ 0 → exec (.fwImageActivate p r n) s = .next (((u.setFld rFwstat 47 40 8).say a stBadRequest).settled p false))) ∧
      (∀ off, Instr.wf (.fwImageCommit p r n off) = true →
        (u.updateElse p.conn = true → exec (.fwImageCommit p r n off) s = .next (no stBusy)) ∧
        (u.updateElse p.conn = false → u.fld rBoot 58 58 = 0 → exec (.fwImageCommit p r n off) s = .next (((u.setFld rFwstat 47 40 9).say a stBadRequest).settled p false)) ∧
        (u.updateElse p.conn = false → u.fld rBoot 58 58 = 1 → ∃ t : State, exec (.fwImageCommit p r n off) s = .next (ok t) ∧ t.fld rBoot 58 58 = 0 ∧ t.flash.trial = .none ∧
          t.flash.active = decide (u.fld rBoot 59 59 = 1) ∧ t.flash.svnFloor = (if off % 2 = 1 then max u.flash.svnFloor (min 64 u.runBank.svn) else u.flash.svnFloor) ∧
          t = { u with regs := t.regs, flash := { u.flash with trial := .none, active := t.flash.active, svnFloor := t.flash.svnFloor } })) ∧
      (Instr.wf (.fwImageAbort p r n) = true →
        (u.updateElse p.conn = true → exec (.fwImageAbort p r n) s = .next (no stBusy)) ∧
        (u.updateElse p.conn = false → ∃ t : State, exec (.fwImageAbort p r n) s = .next (ok t) ∧ t.update = none ∧ t.fld rFwstat 63 60 = 0 ∧ t.flash.trial ≠ .pending ∧ (u.flash.trial ≠ .pending → t.flash.trial = u.flash.trial) ∧
          t = { u with update := none, regs := t.regs, flash := { u.flash with trial := t.flash.trial } }))) ∧
    (s.asks p r true true false → ∀ n, 2 ≤ n →
      (∀ off d, Instr.wf (.fwImageData p r n off d) = true → exec (.fwImageData p r n off d) s = .next ((u.say a stBadRequest).settled p true)) ∧
      (Instr.wf (.fwImageFinish p r n) = true → exec (.fwImageFinish p r n) s = .next (no stBadRequest)) ∧ (Instr.wf (.fwImageActivate p r n) = true → exec (.fwImageActivate p r n) s = .next (no stBadRequest)) ∧
      (∀ off, Instr.wf (.fwImageCommit p r n off) = true → exec (.fwImageCommit p r n off) s = .next (no stBadRequest)) ∧ (Instr.wf (.fwImageAbort p r n) = true → exec (.fwImageAbort p r n) s = .next (no stBadRequest))) ∧
    (∀ off d, Instr.wf (.fwImageData p r 0 off d) = true → s.inTurn p 0 → (s.accept p 0).deferred (.fwImageData p r 0 off d) = true →
      let v := s.accept p 0
      (∀ w b, v.update = some w → b ∈ w.queue → b.seq ≠ p.seq) →
      ∃ (t : State) (w : Update), exec (.fwImageData p r 0 off d) s = .next (t.settleConn p.conn p.ackNow) ∧ t.update = some w ∧ w.conn = p.conn ∧ w.target = 0 ∧
        w.queue = ((v.update.map Update.queue).getD []) ++ [⟨p.seq, off, d, a⟩] ∧ (off = 0 → w.erase = true ∧ t.idleBank = ⟨false, []⟩ ∧ t.fld rFwver 31 0 = 0) ∧
        (off ≠ 0 → t.flash = v.flash) ∧ t.conns = v.conns ∧ t.fld rFwstat 63 60 = 1 ∧ t = { v with kept := t.kept, update := t.update, flash := t.flash, regs := t.regs }) ∧
    (∀ v : State,
      (v.update = none → exec .flashProgramComplete v = .next v) ∧
      (∀ w, v.update = some w → w.erase = true → exec .flashProgramComplete v = .next { v with update := some { w with erase := false } }) ∧
      (∀ w, v.update = some w → w.erase = false → w.queue = [] → exec .flashProgramComplete v = .next v) ∧
      (∀ w b l, v.update = some w → w.erase = false → w.queue = b :: l → ∃ t : State, t = { v with flash := t.flash, update := some { w with queue := l } } ∧ t.idleBank.shipped = false ∧
        (∀ i x, b.data[i]? = some x → Tab.find t.idleBank.bytes (b.off + i) = some x) ∧
        (∀ k, k < b.off ∨ b.off + b.data.length ≤ k → v.idleBank.shipped = false → Tab.find t.idleBank.bytes k = Tab.find v.idleBank.bytes k) ∧ t.runBank = v.runBank ∧
        let x := (t.updConn w.conn (fun c => c.take b.seq none)).say b.ask stOk
        exec .flashProgramComplete v = .next (((State.pump w.conn (x.heldCount w.conn) x).sendAck w.conn).settleConn w.conn false))) ∧
    (∀ (b : Bank) (f : Nat), b.verify f = 0 → b.read 0 4 = [0x4C, 0x58, 0x46, 0x57] ∧ sha256 (b.read fwBodyAt (fieldLe (b.read 16 8) 0 8)) = b.read 24 32 ∧
      Config.slhVerify (b.read 0 4096) (b.read 4096 sigLen) = true ∧ f ≤ b.svn) ∧
    (∀ f : Flash, let bank := fun (b : Bool) => if b then f.bankB else f.bankA
      let good := fun (b : Bool) => (bank b).good f.svnFloor
      (f.trial = .pending → good (!f.active) = true → f.pick = (some (!f.active), .running, false)) ∧
      (f.trial ≠ .pending ∨ good (!f.active) = false → good f.active = true → f.pick = (some f.active, .none, false)) ∧
      (f.trial ≠ .pending → good f.active = false → good (!f.active) = true → f.pick = (some (!f.active), .none, true)) ∧
      (good f.active = false → good (!f.active) = false → f.pick = (none, .none, false)))

/-- Reduction messages (R361, R375, R378, R382, R405, R495, R526). In its turn, one from a sender that the group table does not list for it is counted and dropped; with the compute dies off it is stale; in recovery it is dropped; else it has its effect, and the reductions settle. Of an epoch that is not this device's current one, a message other than ROLL and ANSWER is stale, and a CONTRIB is answered STALE. -/
def Obligations.ReductionMessages : Prop :=
  ∀ s : State,
    (∀ i p bulk m ok, carried i = some (p, 1, bulk) → (s.received p).reduction i = some (m, ok) → Instr.wf i = true → s.inTurn p 1 →
      let u := s.received p
      (u.fld rBoot 63 60 = 5 → exec i s = .next (u.settled p bulk)) ∧
      (u.fld rBoot 63 60 ≠ 5 → u.computeOn = false → exec i s = .next ((u.addFld rRdrop 63 48 1).settled p bulk)) ∧
      (u.fld rBoot 63 60 ≠ 5 → u.computeOn = true → ok = false → exec i s = .next ((u.addFld rRdrop 15 0 1).settled p bulk)) ∧
      (u.fld rBoot 63 60 ≠ 5 → u.computeOn = true → ok = true → exec i s = .next ((u.gotMsg m).settleRed.settled p bulk))) ∧
    (∀ (p : Pkt) (n : EpName), s.inTurn p 1 → (s.received p).fld rBoot 63 60 ≠ 5 → (s.received p).computeOn = true →
      let u := s.received p
      (∀ d t rt, Instr.wf (.roll p n d t rt) = true → u.isHost p n.group = true → exec (.roll p n d t rt) s = .next ((u.gotRoll n d t rt).settleRed.settled p false)) ∧
      (∀ d v k, Instr.wf (.answer p n d v k) = true → u.isRank p n.group k = true → exec (.answer p n d v k) s = .next ((u.gotAnswer n d v k).settleRed.settled p false)) ∧
      (∀ t l adm, Instr.wf (.roster p n t l adm) = true → u.isHost p n.group = true → exec (.roster p n t l adm) s = .next ((u.gotRoster n t l adm).settleRed.settled p false)) ∧
      (∀ k f d, Instr.wf (.contrib p n k f d) = true → u.isRank p n.group k = true → exec (.contrib p n k f d) s = .next ((u.gotContrib n k f d).settleRed.settled p true)) ∧
      (∀ k st a b c f, Instr.wf (.rack p n k st a b c f) = true → u.isRank p n.group k = true → exec (.rack p n k st a b c f) s = .next ((u.gotRack n k st a b c f).settleRed.settled p false)) ∧
      (∀ k a b, Instr.wf (.done p n k a b) = true → u.isRank p n.group k = true → exec (.done p n k a b) s = .next ((u.gotDone n k a b).settleRed.settled p false)) ∧
      (∀ t up x, Instr.wf (.admitRanks p n t up x) = true → u.isHost p n.group = true → exec (.admitRanks p n t up x) s = .next ((u.gotAdmit n t up x).settleRed.settled p false)) ∧
      (∀ k d, Instr.wf (.late p n k d) = true → u.isRank p n.group k = true → exec (.late p n k d) s = .next ((u.gotLate n d).settleRed.settled p false)) ∧
      (∀ o r l, Instr.wf (.close p n o r l) = true → u.isMember p n.group = true → exec (.close p n o r l) s = .next ((u.gotClose n o r l).settleRed.settled p false)) ∧
      (∀ k a b c rf f d, Instr.wf (.result p n k a b c rf f d) = true → u.isRank p n.group k = true → exec (.result p n k a b c rf f d) s = .next ((u.gotResult n k a b c rf f d).settleRed.settled p true)) ∧
      (∀ r, Instr.wf (.abandon p n r) = true → u.isHost p n.group = true → exec (.abandon p n r) s = .next ((u.gotAbandon n).settleRed.settled p false)) ∧
      (∀ k, Instr.wf (.lost p n k) = true → u.isRank p n.group k = true → exec (.lost p n k) s = .next ((u.gotLost n k).settleRed.settled p false))) ∧
    (∀ n, s.named n = none → ∀ k f a b u x c l,
      s.gotMsg (.roster n f a l) = s.stale ∧ s.gotMsg (.rack n k f a b u c) = s.stale ∧ s.gotMsg (.done n k a b) = s.stale ∧ s.gotMsg (.admitRanks n f x l) = s.stale ∧
      s.gotMsg (.late n k f) = s.stale ∧ s.gotMsg (.abandon n f) = s.stale ∧ s.gotMsg (.lost n k) = s.stale ∧
      (∀ w, s.gotMsg (.close n f w l) = s.stale) ∧ (∀ w, s.gotMsg (.result n k a b a u f w) = s.stale ∧
        s.gotMsg (.contrib n k f w) = s.stale.toRank n.group k (.rack n (s.myRank n.group) 3 false false 0 f)))

/-- Roll calls (R198, R374, R377 to R381, R434). A member answers the first ROLL of its epoch with its descriptor's digest, and one that differs ends its program with VERSION_MISMATCH; a ROLL of an epoch below is stale, of one above waits. The host records each rank's first ANSWER; the last, or the roll call's deadline, closes the roll call: who matched is admitted and gets a ROSTER, later matches are listeners; too few ranks, a missing one under REPEAT, or a deadline that has passed closes the epoch at once. A ROSTER fixes the roles and is counted, and the tally area becomes undefined; who is left out ends with VERSION_MISMATCH. -/
def Obligations.RollCalls : Prop :=
  ∀ (s : State) (e : Epoch) (d : Desc), s.current e d →
    let n := e.name
    let ch := n.rch
    let g := n.group
    (∀ dg t rt,
      (e.closed = false → e.rolled = false →
        let w := (s.putEpoch { e with rolled := true, answered := true, deadline := t, rcDeadline := rt }).toRank g (s.hostRank g) (.answer n e.digest 2 e.rank)
        (dg = e.digest → s.gotRoll n dg t rt = w) ∧ (dg ≠ e.digest → s.gotRoll n dg t rt = (w.terminate e.part tVersion (w.repochLoc e)).shutEpoch ch)) ∧
      (e.closed = false → e.rolled = true → s.gotRoll n dg t rt = s) ∧ (e.closed = true → s.gotRoll n dg t rt = s.stale) ∧
      (∀ m, m.rch = ch → nameBelow m n = true → s.gotRoll m dg t rt = s.stale) ∧
      (∀ m, m.rch = ch → m ≠ n → nameBelow m n = false → ∃ l, s.gotRoll m dg t rt = { s with early := l ++ [.roll m dg t rt] })) ∧
    (∀ h, e.host = some h →
      (∀ dg v k, h.outcome = none → Tab.find h.answers k = none →
        let h1 : HostSide := { h with answers := Tab.put h.answers k (dg, v) }
        let w := s.putEpoch { e with host := some h1 }
        (h.rollClosed = false → s.gotAnswer n dg v k = if h.answers.length + 1 = s.groupSize g then w.closeRoll ch else w) ∧
        (h.rollClosed = true → dg = e.digest → 1 ≤ v → v ≤ 3 →
          s.gotAnswer n dg v k = (s.putEpoch { e with host := some { h1 with lis := insertNat k h.lis } }).toRank g k (.roster n e.deadline true h.adm)) ∧
        (h.rollClosed = true → dg ≠ e.digest ∨ v = 0 ∨ 3 < v → s.gotAnswer n dg v k = w)) ∧
      (∀ dg v k, (h.outcome = none → Tab.find h.answers k ≠ none → s.gotAnswer n dg v k = s) ∧ (h.outcome ≠ none → s.gotAnswer n dg v k = s.stale)) ∧
      (h.outcome = none → h.rollClosed = false →
        let adm := (h.answers.filter (fun a => a.2.1 == e.digest && decide (1 ≤ a.2.2 ∧ a.2.2 ≤ 3))).map (·.1)
        let w := (s.putEpoch { e with host := some { h with rollClosed := true, adm := adm } }).toRanks g adm (.roster n e.deadline false adm)
        s.closeRoll ch = if adm.length < d.hmin then w.hostClose ch (some 3) else if d.policy = 0 ∧ adm.length < s.groupSize g then w.hostClose ch (some 1)
          else if e.deadline ≤ s.now then w.excludeRest ch else w) ∧
      (ch < 64 → h.outcome = none → h.rollClosed = false →
        exec (.rollResend ch) s = .next (s.toRanks g ((s.allRanks g).filter (fun r => !(Tab.find h.answers r).isSome)) (.roll n e.digest e.deadline e.rcDeadline)) ∧
        exec (.rollCallDeadline ch) s = .next (((s.reach e.rcDeadline).closeRoll ch).settleRed)) ∧
      (ch < 64 → h.outcome ≠ none ∨ h.rollClosed = true → exec (.rollResend ch) s = .next s ∧ exec (.rollCallDeadline ch) s = .next s)) ∧
    (e.host = none → ch < 64 → exec (.rollResend ch) s = .next s ∧ exec (.rollCallDeadline ch) s = .next s ∧ ∀ dg v k, s.gotAnswer n dg v k = s.stale) ∧
    (ch < 64 → e.closed = false → e.admitted = none → (s.part e.part).live = true →
      let v := s.reach ((s.part e.part).opens.headD 0 + d.rcdl + 1000 * s.fld rNwtTout 63 32)
      exec (.rollCallTimeout ch) s = .next (((v.terminate e.part tRemoteTimeout (v.repochLoc e)).shutEpoch ch).settleRed)) ∧
    (ch < 64 → e.closed = true ∨ e.admitted ≠ none ∨ (s.part e.part).live = false → exec (.rollCallTimeout ch) s = .next s) ∧
    (∀ dl lis adm,
      (e.closed = true ∨ e.admitted ≠ none → s.gotRoster n dl lis adm = s.stale) ∧
      (e.closed = false → e.admitted = none → lis = false → e.rank ∉ adm → s.gotRoster n dl lis adm = (s.terminate e.part tVersion (s.repochLoc e)).shutEpoch ch) ∧
      (e.closed = false → e.admitted = none → lis = true ∨ e.rank ∈ adm → ∃ w : State, s.gotRoster n dl lis adm = w.grantCredit ch ∧
        w.epoch ch = some { e with rolled := true, deadline := dl, admitted := some adm, listener := lis } ∧ w = { s with epochs := w.epochs, mem := w.mem, regs := w.regs, free := s.free + 1 } ∧
        s.sameRegsBut w (· = rRchCnt ch) ∧ w.fld (rRchCnt ch) 63 48 = 0 ∧ w.fld (rRchCnt ch) 47 32 = (s.groupSize g - adm.length) % 2 ^ 16 ∧
        (∀ k, d.tally ≤ k → k < d.tally + 4 * d.elems → w.mem.byte k = Config.freeByte s.free k) ∧ (∀ k, k < d.tally ∨ d.tally + 4 * d.elems ≤ k → w.mem.byte k = s.mem.byte k)))

/-- Contributions (R371, R382 to R384, R393, R397, R440). A holder stages a block of an admitted rank whose tag is right in a free entry, in whole words, and acknowledges it with its flags; a duplicate is acknowledged again with them, a wrong tag and a rank that is not admitted are refused and counted, and after the epoch has closed here every block is STALE. A live member's acknowledged block lets others go, and with the last its DONE. The host resolves a rank at its DONE, excluded where poison, or a NaN that the descriptor excludes, was met; a NaN enters the census; the prefix that grows is announced, and the last rank closes the epoch. -/
def Obligations.Contributions : Prop :=
  ∀ (s : State) (e : Epoch) (d : Desc), s.current e d →
    let n := e.name
    let ch := n.rch
    let g := n.group
    (∀ k f data,
      let rack := fun (t : State) (st : Nat) (a b : Bool) => t.toRank g k (.rack n (s.myRank g) st a b 0 f)
      (e.admitted = none → s.gotContrib n k f data = rack s.stale 3 false false) ∧
      (∀ adm, e.admitted = some adm →
        let h := e.holder
        let code := d.wireCode
        let len := d.blockLen code f
        let fitting := f ∈ d.shardBlocks code adm e.rank ∧ data.length = packedLen code len ∧ h.staged.length < d.blocks
        (∀ x, h.accepted.find? (fun a => a.rank == k && a.first == f) = some x → s.gotContrib n k f data = rack (s.addFld rRdrop 47 32 1) 0 x.nan x.poison) ∧
        (h.accepted.find? (fun a => a.rank == k && a.first == f) = none →
          (h.ended = true ∨ h.final = true → s.gotContrib n k f data = rack s.stale 3 false false) ∧
          (h.ended = false → h.final = false → k ∉ adm → s.gotContrib n k f data = rack (s.addFld rRdrop 31 16 1) 2 false false) ∧
          (h.ended = false → h.final = false → k ∈ adm → ¬ fitting → s.gotContrib n k f data = rack (s.addFld rRdrop 31 16 1) 1 false false) ∧
          (h.ended = false → h.final = false → k ∈ adm → fitting →
            let nan := (unpackElems code len (data.map (·.1))).any (nanWord code)
            let poison := data.any (·.2)
            let i := s.freeEntry e.part
            let v := if k ∈ h.added then s else s.hubWrite (s.entryAt e.part i) (data ++ clean (zeroBytes ((64 - data.length % 64) % 64)))
            s.gotContrib n k f data = (rack (v.putEpoch { e with holder := { h with staged := if k ∈ h.added then h.staged else h.staged ++ [⟨k, f, i, false⟩], accepted := h.accepted ++ [⟨k, f, nan, poison⟩] } }).countStage 0 nan poison).grantCredit ch)))) ∧
    (∀ x ∈ s.epochs, x.2.part = e.part → ∀ b ∈ x.2.holder.staged, b.entry ≠ s.freeEntry e.part) ∧
    (∀ k st a b cred f, let m := e.member
      let hit := st = 0 ∧ ∃ x ∈ m.blocks, x.first = f ∧ x.holder = k ∧ x.sent = true ∧ x.acked = false
      let cr := if cred = 0 then m.cred else Tab.put m.cred k (Tab.get m.cred 0 k + cred)
      (e.closed = true → s.gotRack n k st a b cred f = s.stale) ∧ (e.closed = false → (s.part e.part).live = false → s.gotRack n k st a b cred f = s) ∧
      (e.closed = false → (s.part e.part).live = true → hit → s.gotRack n k st a b cred f = ((s.putEpoch { e with member := { m with cred := cr, nan := m.nan || a, poison := m.poison || b, blocks := m.blocks.map (fun x => if x.first = f then { x with acked := true } else x) } }).sendBlocks ch).checkDone ch) ∧
      (e.closed = false → (s.part e.part).live = true → ¬ hit → s.gotRack n k st a b cred f = ((s.putEpoch { e with member := { m with cred := cr } }).sendBlocks ch).checkDone ch)) ∧
    (s.checkDone ch = if e.member.doneSent = false ∧ (∀ x ∈ e.member.blocks, x.acked = true) ∧ e.member.blocks.length = ceilDiv d.elems (perBlock d.wireCode) then
      (s.putEpoch { e with member := { e.member with doneSent := true } }).toRank g (s.hostRank g) (.done n e.rank e.member.nan e.member.poison) else s) ∧
    (∀ k a b, (e.host = none → s.gotDone n k a b = s.stale) ∧
      (∀ h, e.host = some h →
        (h.outcome ≠ none ∨ k ∉ h.adm ∨ Tab.find h.resolved k ≠ none → s.gotDone n k a b = s) ∧
        (h.outcome = none → k ∈ h.adm → Tab.find h.resolved k = none → h.rollClosed = true →
          let r := if b = true ∨ a = true ∧ d.exclNan = true ∧ (d.policy = 1 ∨ d.policy = 2) then Resolved.excluded else Resolved.included
          let h1 : HostSide := { h with resolved := Tab.put h.resolved k r, census := if a then insertNat k h.census else h.census }
          let w := s.putEpoch { e with host := some h1 }
          ((∀ j ∈ h.adm, j = k ∨ Tab.find h.resolved j ≠ none) → s.gotDone n k a b = w.hostClose ch none) ∧
          ((∃ j ∈ h.adm, j ≠ k ∧ Tab.find h.resolved j = none) → s.gotDone n k a b = if h.announced = admittedPrefix h1 h.adm then w else w.wantAdmit ch))))

/-- Admission, deadlines and the close (R199, R384 to R388, R391 to R393, R399). An ADMIT gives the current deadline and lets the holder add the ranks up to the announced prefix. A LATE before the deadline extends it by the delay or what is left of LATEX. ADMIT goes at once, or 10 µs after the last. At its deadline the host excludes who is unresolved and closes the epoch: the outcome is the policy's, CLOSE with the record goes to every member and listener. A CLOSE enters the host's counts, and closes a member's epoch unless the outcome is FINAL, which waits for the results; the holder then owes them. An epoch closes here once its waiting additions are made. -/
def Obligations.AdmissionAndClose : Prop :=
  ∀ (s : State) (e : Epoch) (d : Desc), s.current e d →
    let n := e.name
    let ch := n.rch
    let g := n.group
    (∀ t up ex, (e.holder.ended = true → e.closed = true → s.gotAdmit n t up ex = s.stale) ∧
      (e.holder.ended = false ∨ e.closed = false →
        (up = none → s.gotAdmit n t up ex = s.putEpoch { e with deadline := t }) ∧ (∀ u, up = some u → let adm := e.admitted.getD []
          s.gotAdmit n t up ex = ((s.putEpoch { e with deadline := t }).announce ch (adm.filter (fun r => decide (r ≤ u) && !ex.contains r)).length (s.groupSize g - adm.length + ex.length)).catchUp ch u ex))) ∧
    (∀ hd ms, s.announce ch hd ms = (s.setFld (rRchCnt ch) 63 48 hd).setFld (rRchCnt ch) 47 32 ms) ∧
    (e.host = none → (∀ x, s.gotLate n x = s.stale) ∧ (ch < 64 → exec (.epochDeadline ch) s = .next s ∧ exec (.admitIntervalExpiry ch) s = .next s)) ∧
    (∀ h, e.host = some h →
      let host := fun (x : HostSide) => s.putEpoch { e with host := some x }
      (∀ x, (h.outcome ≠ none ∨ e.deadline ≤ s.now → s.gotLate n x = s.addFld (rRchCnt ch) 15 0 1) ∧
        (h.outcome = none → s.now < e.deadline →
          let y := min x (d.latex - h.ext)
          let w := s.addFld (rRchCnt ch) 15 0 1
          s.gotLate n x = if y = 0 then w else (w.putEpoch { e with deadline := e.deadline + 1000 * y, host := some { h with ext := h.ext + y } }).wantAdmit ch)) ∧
      (s.wantAdmit ch = if (∀ t, Tab.find s.admitAt ch = some t → t + 10000 ≤ s.now) then s.sendAdmit ch else host { h with admitHeld := true }) ∧
      (s.sendAdmit ch = ({ host { h with announced := admittedPrefix h h.adm, admitHeld := false } with admitAt := Tab.put s.admitAt ch s.now } : State).toRanks g h.adm
        (.admitRanks n e.deadline (admittedPrefix h h.adm) (h.ranksOf .excluded))) ∧
      (∀ l r, (Tab.find h.resolved r = none → admittedPrefix h (r :: l) = none) ∧ (Tab.find h.resolved r ≠ none → admittedPrefix h (r :: l) = some ((admittedPrefix h l).getD r))) ∧
      (ch < 64 → h.outcome = none →
        (h.admitHeld = true → exec (.admitIntervalExpiry ch) s = .next (((s.reach (Tab.get s.admitAt 0 ch + 10000)).sendAdmit ch).settleRed)) ∧
        (h.admitHeld = false → exec (.admitIntervalExpiry ch) s = .next s) ∧
        (h.rollClosed = true → exec (.epochDeadline ch) s = .next (((s.reach e.deadline).excludeRest ch).settleRed)) ∧
        (h.rollClosed = false → exec (.epochDeadline ch) s = .next s)) ∧
      (ch < 64 → h.outcome ≠ none → exec (.epochDeadline ch) s = .next s ∧ exec (.admitIntervalExpiry ch) s = .next s ∧ ∀ f, s.hostClose ch f = s) ∧
      (∃ rs, (∀ r ∈ h.adm, Tab.find rs r = (match Tab.find h.resolved r with | some x => some x | none => some .excluded)) ∧ (∀ r, r ∉ h.adm → Tab.find rs r = Tab.find h.resolved r) ∧
        s.excludeRest ch = (host { h with resolved := rs }).hostClose ch none) ∧
      (h.outcome = none → ∀ f,
        let inc := h.ranksOf .included
        let out := f.getD (d.outcomeOf (s.groupSize g) inc.length)
        ∃ (w : State) (x : HostSide) (rec1 : List Byte), s.hostClose ch f = (w.toRanks g h.audience (.close n out rec1 inc)).applyGroup g ∧ (w.epoch ch).bind Epoch.host = some x ∧ x.outcome = some out ∧ x.closeAt = s.now ∧
          x.resolved = h.resolved ∧ fieldLe rec1 0 4 = n.step % 2 ^ 32 ∧ fieldLe rec1 6 1 = out % 256 ∧ fieldLe rec1 12 4 = inc.length % 2 ^ 32 ∧ fieldLe rec1 16 4 = s.groupSize g % 2 ^ 32 ∧
          fieldLe rec1 28 4 = h.census.length % 2 ^ 32 ∧ fieldLe rec1 32 4 = h.missing (s.groupSize g) % 2 ^ 32 ∧ fieldLe rec1 40 8 = s.now % 2 ^ 64 ∧ fieldLe rec1 52 4 = h.ext % 2 ^ 32 ∧ fieldLe rec1 8 4 = (if out = 0 then 1 else 0) ∧ rec1.length = 64)) ∧
    (∀ hd, (hd = 0 → d.outcomeOf g hd = 1) ∧ (hd ≠ 0 → hd = g → d.outcomeOf g hd = 0) ∧
      (hd ≠ 0 → hd ≠ g → d.outcomeOf g hd = (if d.policy = 0 then 1 else if d.policy = 1 ∨ d.quorum ≤ hd then 0 else 1))) ∧
    (ch < 64 → (e.closed = false → e.admitted ≠ none → exec (.memberDeadline ch) s = .next (((s.reach e.deadline).putEpoch { e with deadlinePassed := true }).settleRed)) ∧
      (e.closed = true ∨ e.admitted = none → exec (.memberDeadline ch) s = .next s)) ∧
    (∀ o rec1 inc, let v := if o = 5 then s else ((s.setFld (rRchCnt ch) 63 48 (fieldLe rec1 12 4)).setFld (rRchCnt ch) 47 32 (fieldLe rec1 32 4)).setFld (rRchCnt ch) 31 16 (fieldLe rec1 28 4)
      (e.closed = true → e.holder.ended = true → s.gotClose n o rec1 inc = v.stale) ∧
      (e.closed = true → e.holder.ended = false → s.gotClose n o rec1 inc = v.closeHolder ch o inc) ∧
      (e.closed = false → e.outcome = none →
        let w := (v.closeHolder ch o inc).updEpoch ch (fun x => if x.closed then x else { x with outcome := some o, record := rec1, included := inc })
        s.gotClose n o rec1 inc = if o = 0 then w.checkLanded ch else w.endEpoch ch o) ∧
      (e.closed = false → e.outcome ≠ none → s.gotClose n o rec1 inc = if o = 0 then v.closeHolder ch o inc else (v.closeHolder ch o inc).endEpoch ch o)) ∧
    (e.holder.ended = true → ∀ o inc, s.closeHolder ch o inc = s) ∧
    (∀ o inc, e.holder.ended = false →
      let adm := e.admitted.getD []
      let v := if o = 5 then s else s.catchUp ch (maxOf adm) (adm.filter (fun r => !inc.contains r))
      (o ≠ 0 → s.closeHolder ch o inc = v.dropHolder ch) ∧
      (e.holds = true ↔ ∃ l, e.admitted = some l ∧ d.shardBlocks 1 l e.rank ≠ []) ∧
      (o = 0 → e.holds = true → s.closeHolder ch o inc = v.updHolder ch (fun h => { h with final := true })) ∧
      (o = 0 → e.holds = false → s.closeHolder ch o inc = v.dropHolder ch)) ∧
    (∀ o, ch < 64 → o < 16 → e.closed = false → ∃ (x : State) (rec1 : List Byte), x = { s with epochs := x.epochs, free := x.free } ∧ x.epoch ch = some { e with record := rec1 } ∧ (e.record ≠ [] → e.outcome = some o → rec1 = e.record) ∧
      let v := x.finishAdds ch
      v.tally = s.tally.filter (fun b => b.rch != ch) ∧ ∃ y : Epoch, v.epoch ch = some y ∧ y = { e with record := rec1, holder := y.holder } ∧
        s.endEpoch ch o = ((v.putEpoch { y with closed := true, outcome := some o }).setFld (rRchStat ch) 59 56 o).applyGroup g)

/-- Results and the end of an epoch (R71, R200, R387, R388, R390, R400, R446). A result block whose tag is right is written into the tally area; one whose tag is wrong is dropped, one for a program that has ended is stale. Once every block has landed, a FINAL epoch closes. The holder sends its shard when no addition waits, and writes it too, but where the epoch has closed here without FINAL. ABANDON closes with ABANDONED; LOST with HOLDER_LOST, unless that shard has landed. An epoch that has not closed TOUT after the deadline that its host has given ends the program with REMOTE_TIMEOUT. -/
def Obligations.EpochResults : Prop :=
  ∀ (s : State) (e : Epoch) (d : Desc), s.current e d →
    let n := e.name
    let ch := n.rch
    let g := n.group
    (∀ adm, e.admitted = some adm →
      (∀ k a b c rf f data,
        let fitting := rf = d.rfmt ∧ f ∈ d.shardBlocks d.resultCode adm k ∧ data.length = packedLen d.resultCode (d.blockLen d.resultCode f)
        (e.closed = true ∨ (s.part e.part).live = false → s.gotResult n k a b c rf f data = s.stale) ∧
        (e.closed = false → (s.part e.part).live = true → ¬ fitting → s.gotResult n k a b c rf f data = s) ∧
        (e.closed = false → (s.part e.part).live = true → fitting →
          s.gotResult n k a b c rf f data = (s.landResult e d f (bit a + 2 * bit b + 4 * bit c) (elemsOf d.resultCode (d.blockLen d.resultCode f) data)).checkLanded ch)) ∧
      (∀ k, (e.closed = true → s.gotLost n k = s.stale) ∧
        (e.closed = false → (∀ f ∈ d.shardBlocks d.resultCode adm k, f ∈ e.member.landed) → s.gotLost n k = s) ∧
        (e.closed = false → (∃ f ∈ d.shardBlocks d.resultCode adm k, f ∉ e.member.landed) → s.gotLost n k = (if e.holder.final = true then s else s.dropHolder ch).endEpoch ch 4)) ∧
      (ch < 64 →
        (e.holder.final = true → e.holder.ended = false → (∀ b ∈ s.tally, b.rch ≠ ch) →
          let fs := d.shardBlocks d.resultCode adm e.rank
          let v := s.putEpoch { e with holder := { e.holder with sumNan := e.holder.sumNan || fs.any (fun f => (List.range (d.blockLen d.resultCode f)).any (fun i => (s.sumOfElem e (f + i)).2)) } }
          exec (.holderResultSend ch) s = .next ((((fs.foldl (fun t f => t.sendResult ch f) v).dropHolder ch).checkLanded ch).settleRed)) ∧
        (e.holder.final = false ∨ e.holder.ended = true ∨ (∃ b ∈ s.tally, b.rch = ch) → exec (.holderResultSend ch) s = .next s))) ∧
    (∀ f, let v := s.hubOp (d.tally + 4 * f) (4 * d.blockLen d.resultCode f) false
      let ws := (List.range (d.blockLen d.resultCode f)).map (fun i => let x := (v.sumOfElem e (f + i)).1; ((narrowFp d.resultCode .rne x.1).1, x.2))
      ∃ t : State, t = (if e.closed = true ∧ (∃ o, e.outcome = some o ∧ o ≠ 0) then v
          else v.landResult e d f (bit e.holder.longSum + 2 * bit e.holder.sumNan + 4 * bit (ws.any (·.2))) (ws.map (fun w => (widenFp d.resultCode w.1, w.2)))) ∧
        s.sendResult ch f = t.toRanks g ((s.allRanks g).filter (fun r => r != e.rank))
          (.result n e.rank e.holder.longSum e.holder.sumNan (ws.any (·.2)) d.rfmt f (packMarked d.resultCode ws))) ∧
    (∀ f fl ws, s.hubCut = false → stackDpa ≤ d.tally → d.tally + 4 * f + 4 * ws.length ≤ s.stackEnd → (∀ q < 256, s.chanFaulty q = false) → d.tally % 64 = 0 →
      let t := s.landResult e d f fl ws
      (∀ i w, ws[i]? = some w → t.mem.word32 (d.tally + 4 * f + 4 * i) = w.1) ∧ s.sameMemBut t (d.tally + 4 * f) (4 * ws.length) ∧
      t.epoch ch = some { e with member := { e.member with landed := insertNat f e.member.landed, flags := e.member.flags ||| fl } }) ∧
    (let per := perBlock d.resultCode
     s.checkLanded ch = if e.outcome = some 0 ∧ (∀ i < ceilDiv d.elems per, per * i ∈ e.member.landed) then s.endEpoch ch 0 else s) ∧
    (e.closed = true → e.holder.ended = true → s.gotAbandon n = s.stale) ∧ (e.closed = false ∨ e.holder.ended = false → s.gotAbandon n = (s.dropHolder ch).endEpoch ch 2) ∧
    (ch < 64 → ∀ c, c < 128 →
      let give := fun (t : State) => (((if e.outcome = none then t.dropHolder ch else t).shutEpoch ch).settleRed)
      let mine := fun (x : RedOp) => x.c == c && x.op.rch == ch && (match x.op.ins with | .rwait _ _ _ _ => true | _ => false)
      ((s.part e.part).live = true → ∀ x cf r dag tout, s.redOps.find? mine = some x → x.op.ins = .rwait cf r dag tout → e.closed = false → e.rolled = true → s.epochOf x = some e →
        exec (.rwaitTimeout c ch) s = .next (give ((s.reach (e.deadline + 1000 * tout)).terminate e.part tRemoteTimeout (.at c .a x.op.pc)))) ∧
      ((s.part e.part).live = true → s.redOps.find? mine = none ∨ e.closed = true ∨ e.rolled = false → exec (.rwaitTimeout c ch) s = .next s) ∧
      ((s.part e.part).st = .ending → c ∈ (s.part e.part).cores → e.outcome = none → exec (.rwaitTimeout c ch) s = .next (give (s.reach e.deadline))) ∧
      ((s.part e.part).st = .none → exec (.rwaitTimeout c ch) s = .next s))

/-- The buddy's store (R468 to R474, R495, R556, R559). Only the client's messages act on it; others are counted. A BEGIN takes the slot that does not hold the newest sealed cairn, whose seal it clears first; it is answered BUSY while the store is in use, SPACE where the cairn does not fit. A block lands in the slot and enters the digest. SEAL compares the digests, and writes the seal last, or answers BAD_DIGEST. FETCH is answered with the newest sealed cairn of its partition and its blocks, NONE, or BUSY. In recovery every cairn message is dropped. -/
def Obligations.CairnStore : Prop :=
  ∀ (s : State) (p : Pkt), s.inTurn p 1 →
    let u := s.received p
    let n := p.conn
    let client := u.reg rClient ≠ 0 ∧ u.reg rClient = p.src
    let does := fun (t : State) => t.settled p false
    (∀ i bulk, carried i = some (p, 1, bulk) → u.reduction i = none → Instr.wf i = true → u.fld rBoot 63 60 = 5 → exec i s = .next (u.settled p bulk)) ∧
    (u.fld rBoot 63 60 ≠ 5 →
      (∀ b, Instr.wf (.begin p b) = true →
        (¬ client → exec (.begin p b) s = .next (does (u.addFld rStoreSt 15 0 1)) ∧ exec (.seal p b) s = .next (does (u.addFld rStoreSt 15 0 1)) ∧ exec (.fetch p b) s = .next (does (u.addFld rStoreSt 15 0 1))) ∧
        (client →
          (u.storeBusy = true → exec (.begin p b) s = .next (does (u.sendOn n (.cairnCtl 2 { b with status := 2 }))) ∧ exec (.fetch p b) s = .next (does (u.sendOn n (.cairnCtl 6 { b with status := 2 })))) ∧
          (u.storeBusy = false → ∃ (t : State) (i : Nat), i < 2 ∧ (∀ j, u.newestSeal (fun _ => true) = some j → i ≠ j) ∧
            exec (.begin p b) s = .next (does (t.sendOn n (.cairnCtl 2 { b with status := if b.length + 4096 ≤ u.storeRange.2 then 0 else 1, slot := i }))) ∧
            t.storeOp = (if b.length + 4096 ≤ u.storeRange.2 then some ⟨n, true, i, b.step, b.part, b.length, 0⟩ else u.storeOp) ∧
            (u.storeRange.2 ≠ 0 → t.slotV i = false) ∧ t.slotV (1 - i) = u.slotV (1 - i) ∧ u.sameMemBut t (u.slotBase i) 64 ∧ t.storeRange = u.storeRange ∧
            (u.storeRange.2 ≠ 0 → u.hubCut = false → u.slotBase i + 64 ≤ u.stackEnd → (∀ q < 256, u.chanFaulty q = false) → t.sealed i = false)) ∧
          (u.storeBusy = false → u.newestSeal (fun i => u.sealPart i == b.part) = none → exec (.fetch p b) s = .next (does (u.sendOn n (.cairnCtl 6 { b with status := 4 })))) ∧
          (u.storeBusy = false → ∀ i, u.newestSeal (fun i => u.sealPart i == b.part) = some i →
            exec (.fetch p b) s = .next (does ((({ u with storeOp := some ⟨n, false, i, u.sealStep i, b.part, u.sealLen i, 0⟩ } : State).sendOn n
              (.cairnCtl 6 ⟨0, b.part, i, u.sealStep i, u.sealLen i, u.sealDigest i⟩)).sendCairn n (u.slotCairn i)))) ∧
          (∀ o, u.storeOp = some o → o.conn = n → o.write = true → o.slot < 2 →
            (o.digest.toNat = b.digest → ∃ t : State, exec (.seal p b) s = .next (does (t.sendOn n (.cairnCtl 4 { b with status := 0, slot := o.slot }))) ∧ t.storeOp = none ∧ t.slotV o.slot = true ∧
              t.slotStep o.slot = o.step % 2 ^ 32 ∧ u.sameMemBut t (u.slotBase o.slot) 64 ∧
              (u.hubCut = false → u.slotBase o.slot + 64 ≤ u.stackEnd → u.storeRange.2 ≠ 0 → (∀ q < 256, u.chanFaulty q = false) →
                t.sealBytes o.slot = sealMagic ++ toLe 4 o.step ++ toLe 1 o.part ++ zeroBytes 7 ++ toLe 8 o.length ++ toLe 8 o.digest.toNat ++ toLe 8 p.src ++ toLe 8 u.now ++ zeroBytes 16)) ∧
            (o.digest.toNat ≠ b.digest → exec (.seal p b) s = .next (does (({ u with storeOp := none } : State).sendOn n (.cairnCtl 4 { b with status := 3, slot := o.slot }))))) ∧
          (u.storeOp = none → exec (.seal p b) s = .next (does u)))) ∧
      (∀ off d, Instr.wf (.cairnData p off d) = true → u.restoreOn n = none →
        (¬ client → exec (.cairnData p off d) s = .next ((u.addFld rStoreSt 15 0 1).settled p true)) ∧
        (client → (∀ o, u.storeOp = some o → o.conn ≠ n ∨ o.write = false) → exec (.cairnData p off d) s = .next (u.settled p true)) ∧
        (∀ o, client → u.storeOp = some o → o.conn = n → o.write = true →
          (off % 4096 ≠ 0 ∨ o.length < off + d.length → exec (.cairnData p off d) s = .next (u.settled p true)) ∧
          (off % 4096 = 0 → off + d.length ≤ o.length → ∃ t : State, exec (.cairnData p off d) s = .next (t.settled p true) ∧ t.storeOp = some { o with digest := o.digest ^^^ cairnTerm d off } ∧
            u.sameMemBut t (u.slotBase o.slot + 4096 + off) d.length ∧
            (u.hubCut = true → t.mem = u.mem) ∧ (u.hubCut = false → u.slotBase o.slot + 4096 + off + d.length ≤ u.stackEnd → (∀ q < 256, u.chanFaulty q = false) → ∀ i x, d[i]? = some x → t.mem.byte (u.slotBase o.slot + 4096 + off + i) = x)))))

/-- Writing a cairn and restoring from one (R465 to R467, R472, R473, R476, R478). With no write or restore on the connection, BEGUN, SEALED and FETCHED change nothing, but are counted where they do not come from the client. BEGUN lets the blocks go, SPACE fails the write, at BUSY BEGIN goes again; SEALED ends it and gives its duration, BAD_DIGEST fails it, and so does CTOUT. FETCHED names the seal's fields; another STEP, no cairn, or a header that does not match ends the program with CAIRN_MISMATCH. A whole cairn whose digest is right leaves the program at BOUNDARY with the cairn's step, token and control state, and one more failure counted. -/
def Obligations.CairnWriteAndRestore : Prop :=
  ∀ (s : State) (p : Pkt),
    (s.inTurn p 1 → (s.received p).fld rBoot 63 60 ≠ 5 →
      let u := s.received p
      let n := p.conn
      let does := fun (t : State) => t.settled p false
      let stray : State := if u.reg rClient ≠ 0 ∧ u.reg rClient = p.src then u else u.addFld rStoreSt 15 0 1
      (∀ b, Instr.wf (.begun p b) = true →
        (u.writeOn n = none → exec (.begun p b) s = .next (does stray) ∧ exec (.sealed p b) s = .next (does stray)) ∧ (u.restoreOn n = none → exec (.fetched p b) s = .next (does stray)) ∧
        (∀ w, u.writeOn n = some w →
          (w.begun = true → exec (.begun p b) s = .next (does u)) ∧
          (w.begun = false → b.status = 0 → exec (.begun p b) s = .next (does ((({ u with cairnOut := some { w with begun := true, slot := b.slot } } : State).setFld rCstat 55 55 b.slot).sendCairn n w.bytes))) ∧
          (w.begun = false → b.status = 2 → exec (.begun p b) s = .next (does (u.sendOn n (.cairnCtl 1 ⟨0, w.part, 0, w.step, w.bytes.length, 0⟩)))) ∧
          (w.begun = false → b.status ≠ 0 → b.status ≠ 2 → exec (.begun p b) s = .next (does (u.failWrite 3))) ∧
          (w.sealing = false → exec (.sealed p b) s = .next (does u)) ∧ (w.sealing = true → b.status ≠ 0 → exec (.sealed p b) s = .next (does (u.failWrite 4))) ∧
          (w.sealing = true → b.status = 0 → ∃ t : State, exec (.sealed p b) s = .next (does t) ∧ t.cairnOut = none ∧ t.sealCost = some (u.now - w.began) ∧ t.fld rGovT 63 32 = satN 32 ((u.now - w.began) / 1000) ∧
            t.fld rCstat 63 60 = 4 ∧ t.fld rCstat 59 56 = 0 ∧ t.fld rCstat 31 0 = w.step % 2 ^ 32 ∧ t = { u with cairnOut := none, sealCost := t.sealCost, regs := t.regs })) ∧
        (∀ r, u.restoreOn n = some r →
          (b.status = 0 → b.step = r.cstep → exec (.fetched p b) s = .next (does (({ u with restore := some { r with slot := b.slot, length := b.length, digest := b.digest } } : State).setFld rCstat 55 55 b.slot))) ∧
          (b.status = 2 → exec (.fetched p b) s = .next (does (u.sendOn n (.cairnCtl 5 ⟨0, r.part, 0, r.cstep, 0, 0⟩)))) ∧
          (b.status ≠ 2 → b.status ≠ 0 ∨ b.step ≠ r.cstep → exec (.fetched p b) s = .next (does (u.failRestore 5))))) ∧
      (∀ off d r, Instr.wf (.cairnData p off d) = true → u.restoreOn n = some r →
        let r1 := { r with blocks := r.blocks.filter (fun b => b.1 != off) ++ [(off, d)] }
        let v : State := { u with restore := some r1 }
        let runs := fun (t : State) => exec (.cairnData p off d) s = .next (t.settled p true)
        (r.checked = true → runs (v.putBlock r.part off d)) ∧ (r.checked = false → off ≠ 0 → runs v) ∧
        (r.checked = false → off = 0 → u.headerReason r d ≠ 0 → runs (v.failRestore (u.headerReason r d))) ∧
        (r.checked = false → off = 0 → u.headerReason r d = 0 → runs (({ u with restore := some { r1 with checked := true } } : State).putBlocks r.part r1.blocks)))) ∧
    (s.cairnOut = none → exec .cairnWriteTimeout s = .next s) ∧
    (∀ w, s.cairnOut = some w → exec .cairnWriteTimeout s = .next ((s.reach (w.began + 1000000000 * s.fld rGov 59 52)).failWrite 2)) ∧
    (∀ w k, s.cairnOut = some w → k < 16 → (s.failWrite k).cairnOut = none ∧ (s.failWrite k).fld rCstat 63 60 = 5 ∧ (s.failWrite k).fld rCstat 59 56 = k ∧
      (s.failWrite k).fld rCstat 31 0 = w.step % 2 ^ 32 ∧ s.failWrite k = { s with cairnOut := none, regs := (s.failWrite k).regs }) ∧
    (∀ r k, s.restore = some r → ∃ t : State, s.failRestore k = (t.terminate r.part tCairn .none).setArb ∧ t = { s with restore := none, regs := t.regs } ∧ t.fld rCstat 63 60 = 7 ∧ (k < 16 → t.fld rCstat 59 56 = k)) ∧
    (s.restore = none → exec .restoreComplete s = .next s) ∧
    (∀ r, s.restore = some r →
      (r.checked = false ∨ r.mode = 0 ∧ r.whole = false → exec .restoreComplete s = .next s) ∧
      (r.checked = true → ∀ (l : List Byte) (v : State), (r.mode = 0 ∧ r.whole = true ∧ l = assemble r.blocks r.length ∧ v = s) ∨ (r.mode ≠ 0 ∧ l = s.slotCairn r.slot ∧ v = s.putBlock r.part 0 l) →
        ((cairnDigest l).toNat ≠ r.digest → exec .restoreComplete s = .next (v.failRestore 4)) ∧
        ((cairnDigest l).toNat = r.digest → ∃ t : State, exec .restoreComplete s = .next (t.checkStep r.part) ∧ t.restore = none ∧
          t.part r.part = { s.part r.part with st := .closed, step := fieldLe l 8 4, token := fieldLe l 16 8, opens := [fieldLe l 80 8], closeAt := fieldLe l 88 8 } ∧
          (∀ j, j ≠ r.part → t.part j = s.part j) ∧ t.fld rGovSt 31 0 = satN 32 (fieldLe l 12 4 + 1) ∧ t.fld rCstat 63 60 = 6 ∧ t.fld rCstat 31 0 = r.cstep % 2 ^ 32 ∧
          (∀ i < (s.part r.part).num, ∀ k, s.phys ((s.part r.part).first + i) = some k → (∀ j < (s.part r.part).num, j ≠ i → s.phys ((s.part r.part).first + j) ≠ some k) →
            let c := slice l (coreRecord i) 4096
            (t.core k).a.pc = fieldLe c 0 2 ∧ (t.core k).x.pc = fieldLe c 2 2 ∧ (∀ j < 64, (t.core k).flag j = fieldLe c (0x200 + 4 * j) 4) ∧
            (∀ j < 16, ((t.core k).slot j).value = fieldLe c (0x100 + 16 * j) 4 ∧ ((t.core k).slot j).seq = fieldLe c (0x104 + 16 * j) 4)) ∧
          (∀ k, (∀ i < (s.part r.part).num, s.phys ((s.part r.part).first + i) ≠ some k) → t.core k = s.core k))))

/-- The Ethernet port (R408 to R413, R416, R441). An attempt that fails, after 500 ms or for a lane that does not train, goes on to the next of its cycle: in MODE 0 two at 1.6 Tb/s and one at 800 Gb/s; lanes that fail to train where another trained are unit-history events; one that succeeds brings the link up at its rate, and what waits on the connections goes. Negotiation done, the lanes train (STATE 2); a link that comes up solicits its router. More than 16 codewords in error, or lost alignment, take the link down: the loss is counted, bring-up starts again in the MODE written last, and this device's holders are lost (R400). Frames and packets that the port discards are counted, each in its field. A solicitation for an address of the device is answered, and up to 100 echo requests in a second, while the link is up. -/
def Obligations.EthernetPort : Prop :=
  ∀ s : State,
    (let fails := fun (t : State) (l : List Nat) => t.fld rEthStat 63 61 = 1 ∧ t.attempt / 4 = s.attempt / 4 ∧ t.attempt % 4 = (s.attempt % 4 + 1) % 3 ∧
        t = { s with attempt := t.attempt, regs := t.regs, events := t.events } ∧ s.sameRegsBut t (· = rEthStat) ∧
        let bad := (List.range 8).filter l.contains
        t.events.map (fun e => (e.unit, e.kind)) = s.events.map (fun e => (e.unit, e.kind)) ++ (if bad.length < 8 then bad.map (fun n => (unitLane n, evUe)) else []);
      (s.training = false → exec .linkAttemptTimeout s = .next s) ∧ (s.training = true → ∃ t : State, exec .linkAttemptTimeout s = .next t ∧ fails t []) ∧
      (∀ b, Instr.wf (.linkUp b) = true → s.training = true → s.fastAttempt = b.fast → b.failed ≠ [] → ∃ t : State, exec (.linkUp b) s = .next t ∧ fails t b.failed)) ∧
    (∀ fast, (s.training = true → s.fastAttempt = fast →
        let v := s.setFld rEthStat 63 61 (if fast then 3 else 4)
        let router := addressAt s.flash.config 16
        exec (.linkUp ⟨fast, [], false⟩) s = .next (s.setFld rEthStat 63 61 2) ∧
        exec (.linkUp ⟨fast, [], true⟩) s = .next (s.conns.foldl (fun t e => t.drain e.1) (if router = 0 then v else v.emit (.neighborSolicit router)))) ∧
      (∀ b, Instr.wf (.linkUp b) = true → s.training = false ∨ s.fastAttempt ≠ b.fast → exec (.linkUp b) s = .next s)) ∧
    (s.fastAttempt = true ↔ s.attempt / 4 = 1 ∨ s.attempt / 4 = 0 ∧ s.attempt % 4 < 2) ∧
    (∀ n b, Instr.wf (.linkLoss ⟨n, b⟩) = true → ∃ t : State, t = { s with attempt := t.attempt, regs := t.regs } ∧ s.sameRegsBut t (· = rEthStat) ∧
      t.fld rEthStat 31 0 = satN 32 (s.fld rEthStat 31 0 + n) ∧
      (s.linkUp = true → b = false ∨ 16 < n → t.fld rEthStat 47 32 = satN 16 (s.fld rEthStat 47 32 + 1) ∧ t.fld rEthStat 63 61 = 1 ∧ t.attempt = 4 * s.fld rEthCtrl 63 62 ∧
        exec (.linkLoss ⟨n, b⟩) s = .next ((s.epochs.foldl (fun v e => v.holderLost e.1) t).settleRed)) ∧
      (s.linkUp = false ∨ b = true ∧ n ≤ 16 → t.fld rEthStat 63 32 = s.fld rEthStat 63 32 ∧ t.attempt = s.attempt ∧ exec (.linkLoss ⟨n, b⟩) s = .next t)) ∧
    (let counts := fun (t : State) (r hi lo : Nat) => t = { s with regs := t.regs } ∧ s.sameRegsBut t (· = r) ∧ t.fld r hi lo = satN 16 (s.fld r hi lo + 1) ∧
        ∀ j, j < lo ∨ hi < j → (t.reg r).testBit j = (s.reg r).testBit j;
      (∃ t : State, exec .pauseFrame s = .next t ∧ counts t rEthDrop 63 48) ∧ (∃ t : State, exec .nonIpFrame s = .next t ∧ counts t rEthDrop 47 32) ∧
      (∃ t : State, exec .extensionHeaderPacket s = .next t ∧ counts t rEthDrop 31 16) ∧ (∃ t : State, exec .badUdpChecksum s = .next t ∧ counts t rEthDrop 15 0) ∧
      (∃ t : State, exec .malformedPacket s = .next t ∧ counts t rNwtDrop 63 48)) ∧
    (∀ a b, a < 2 ^ 128 → b < 2 ^ 128 →
      let own := b = 0xFE80 * 2 ^ 112 + deviceId ∨ addressAt s.flash.config 0 ≠ 0 ∧ b = addressAt s.flash.config 0
      (s.linkUp = true → own → exec (.neighborSolicitation a b) s = .next (s.emit (.neighborAdvert a b))) ∧
      (s.linkUp = false ∨ ¬ own → exec (.neighborSolicitation a b) s = .next s)) ∧
    (∀ a k q d, Instr.wf (.echoRequest a k q d) = true → ∃ l : List Nat, (∀ x, x ∈ l ↔ x ∈ s.echoes ∧ s.now < x + 1000000000) ∧
      (s.linkUp = true → l.length < 100 → exec (.echoRequest a k q d) s = .next (({ s with echoes := s.now :: l } : State).emit (.echoReply a k q d))) ∧
      (s.linkUp = false ∨ 100 ≤ l.length → exec (.echoRequest a k q d) s = .next { s with echoes := l }))

/-- Cluster time (R435 to R437). A measurement shows its offset and locks; the first since reset steps cluster time by it, a later one corrects the frequency, by at most 100 ppm, and by all of that where the offset exceeds STEPTHR. A step fires every instant that the new time has passed, in the order of their times. Without Sync the clock runs on in holdover. -/
def Obligations.ClusterTime : Prop :=
  ∀ s : State,
    (∀ o, Instr.wf (.ptpSync o) = true → ∃ v : State, v = { s with regs := v.regs } ∧ s.sameRegsBut v (· = rPtpStat) ∧
      v.fld rPtpStat 63 63 = 1 ∧ v.fld rPtpStat 62 62 = 0 ∧ v.fld rPtpStat 61 61 = 1 ∧ (-(2 ^ 31) ≤ o → o < 2 ^ 31 → v.ptpOffset = o) ∧ (2 ^ 31 ≤ o → v.ptpOffset = 2 ^ 31 - 1) ∧ (o < -(2 ^ 31) → v.ptpOffset = -(2 ^ 31)) ∧
      let big := (s.fld rPtpCtrl 31 16 : Int) < o ∨ o < -(s.fld rPtpCtrl 31 16 : Int)
      (v.fld rPtpStat 60 60 = 1 ↔ big) ∧
      (s.fld rPtpStat 61 61 = 0 → exec (.ptpSync o) s = .next (v.stepClock o)) ∧
      (s.fld rPtpStat 61 61 = 1 → ∃ g : Int, -10000 ≤ g ∧ g ≤ 10000 ∧ (big → 0 < o → g = -10000) ∧ (big → o < 0 → g = 10000) ∧
        exec (.ptpSync o) s = .next (v.setFld rPtpStat 15 0 (unsigned 16 g)) ∧ signed 16 ((v.setFld rPtpStat 15 0 (unsigned 16 g)).fld rPtpStat 15 0) = g)) ∧
    (∀ o : Int, ∃ l : List (Nat × Instr), let t := ((s.clock.ns : Int) - o).toNat
      let v : State := { s with clock := { s.clock with ns := t, frac := 0 } }
      l.Pairwise (fun a b => a.1 ≤ b.1) ∧ (∀ e, e ∈ l ↔ e ∈ v.stepInstants ++ v.epochInstants ++ v.waitInstants ∧ e.1 ≤ t) ∧ s.stepClock o = l.foldl (fun s e => s.fire e.2) v) ∧
    (∀ p, p < 8 → ∀ c, (s.part p).cmd = some c → c.body.instant ≠ 0 → (c.body.instant, Instr.stepOpen p) ∈ s.stepInstants) ∧
    (∃ t : State, exec .ptpHoldover s = .next t ∧ t = { s with regs := t.regs } ∧ s.sameRegsBut t (· = rPtpStat) ∧ t.fld rPtpStat 63 63 = 0 ∧ t.fld rPtpStat 62 62 = 1 ∧ t.fld rPtpStat 61 0 = s.fld rPtpStat 61 0)
end

