-- ==== Sys2Proof/Laws/Bits.lean ====
section
/-! SUPPORT. Bit fields: what a field reads as after a field is set. -/

namespace Sys2Proof.Machine

/-- A field set reads back its value's low bits. -/
theorem bits_setBits_self (w hi lo v : Nat) (h : lo ≤ hi) : bits (setBits w hi lo v) hi lo = v % 2 ^ (hi + 1 - lo) := by
  unfold bits setBits
  have hp : 2 ^ (hi + 1) = 2 ^ (hi + 1 - lo) * 2 ^ lo := by rw [← pow_add]; congr 1; omega
  have hlo : w % 2 ^ lo < 2 ^ lo := Nat.mod_lt _ (by positivity)
  rw [hp, ← Nat.mul_assoc, ← Nat.add_mul, Nat.add_comm, Nat.mul_comm _ (2 ^ lo), Nat.add_mul_div_left _ _ (by positivity),
    Nat.div_eq_of_lt hlo, Nat.zero_add, Nat.mul_comm, Nat.mul_add_mod]
  exact Nat.mod_mod _ _

/-- A bit outside the field set keeps its value. -/
theorem testBit_setBits (w hi lo v i : Nat) (h : lo ≤ hi) :
    (setBits w hi lo v).testBit i = if lo ≤ i ∧ i ≤ hi then v.testBit (i - lo) else w.testBit i := by
  unfold setBits
  have hlo : w % 2 ^ lo < 2 ^ lo := Nat.mod_lt _ (by positivity)
  have hv : v % 2 ^ (hi + 1 - lo) < 2 ^ (hi + 1 - lo) := Nat.mod_lt _ (by positivity)
  have hp : 2 ^ (hi + 1) = 2 ^ (hi + 1 - lo) * 2 ^ lo := by rw [← pow_add]; congr 1; omega
  have e : w / 2 ^ (hi + 1) * 2 ^ (hi + 1) + v % 2 ^ (hi + 1 - lo) * 2 ^ lo + w % 2 ^ lo =
      2 ^ lo * (2 ^ (hi + 1 - lo) * (w / 2 ^ (hi + 1)) + v % 2 ^ (hi + 1 - lo)) + w % 2 ^ lo := by
    rw [hp]; ring
  rw [e, Nat.testBit_two_pow_mul_add _ hlo]
  by_cases h1 : i < lo
  · rw [if_pos h1, if_neg (by omega), Nat.testBit_mod_two_pow]
    simp [h1]
  · rw [if_neg h1, Nat.testBit_two_pow_mul_add _ hv]
    by_cases h2 : i ≤ hi
    · rw [if_pos (by omega), if_pos (by omega), Nat.testBit_mod_two_pow]
      simp; omega
    · rw [if_neg (by omega), if_neg (by omega), ← Nat.shiftRight_eq_div_pow, Nat.testBit_shiftRight]
      congr 1; omega

theorem bits_testBit (w hi lo i : Nat) : (bits w hi lo).testBit i = (decide (i < hi + 1 - lo) && w.testBit (lo + i)) := by
  unfold bits
  rw [Nat.testBit_mod_two_pow, ← Nat.shiftRight_eq_div_pow, Nat.testBit_shiftRight]

/-- A field disjoint from the one set keeps its value. -/
theorem bits_setBits_ne (w hi lo v h2 l2 : Nat) (h : lo ≤ hi) (hd : h2 < lo ∨ hi < l2) :
    bits (setBits w hi lo v) h2 l2 = bits w h2 l2 := by
  apply Nat.eq_of_testBit_eq
  intro i
  rw [bits_testBit, bits_testBit, testBit_setBits _ _ _ _ _ h]
  by_cases hi' : i < h2 + 1 - l2
  · rw [if_neg (by omega)]
  · simp [hi']

theorem bits_lt (w hi lo : Nat) : bits w hi lo < 2 ^ (hi + 1 - lo) := Nat.mod_lt _ (by positivity)

theorem setBits_lt (w hi lo v n : Nat) (h : lo ≤ hi) (hn : hi < n) (hw : w < 2 ^ n) : setBits w hi lo v < 2 ^ n := by
  apply Nat.lt_pow_two_of_testBit
  intro i hi'
  rw [testBit_setBits _ _ _ _ _ h, if_neg (by omega)]
  exact Nat.testBit_lt_two_pow (Nat.lt_of_lt_of_le hw (Nat.pow_le_pow_right (by omega) hi'))

end Sys2Proof.Machine
end

