-- ==== Sys2Proof/Laws/Tab.lean ====
section
/-! SUPPORT. Sparse tables: what a key reads as after a table changes, and that every change keeps the keys rising. -/

namespace Sys2Proof.Machine

variable {α : Type}

@[simp] theorem Tab.find_nil (k : Nat) : Tab.find ([] : Tab α) k = none := rfl

@[simp] theorem Tab.get_nil (d : α) (k : Nat) : Tab.get ([] : Tab α) d k = d := rfl

/-- A key reads what was put there. -/
@[simp] theorem Tab.find_put_self (t : Tab α) (k : Nat) (v : α) : Tab.find (Tab.put t k v) k = some v := by
  induction t with
  | nil => simp [Tab.put, Tab.find]
  | cons e r ih =>
    obtain ⟨k', v'⟩ := e
    simp only [Tab.put]
    split
    · simp [Tab.find]
    · split
      · simp [Tab.find]
      · rename_i h; simp only [Tab.find, if_neg (Ne.symm h)]; exact ih

/-- Putting one key leaves every other. -/
theorem Tab.find_put_ne (t : Tab α) {k j : Nat} (v : α) (h : j ≠ k) : Tab.find (Tab.put t k v) j = Tab.find t j := by
  induction t with
  | nil => simp [Tab.put, Tab.find, Ne.symm h]
  | cons e r ih =>
    obtain ⟨k', v'⟩ := e
    simp only [Tab.put]
    split
    · simp [Tab.find, Ne.symm h]
    · split
      · rename_i h'; subst h'; simp [Tab.find, Ne.symm h]
      · simp only [Tab.find]; rw [ih]

theorem Tab.find_put (t : Tab α) (k j : Nat) (v : α) :
    Tab.find (Tab.put t k v) j = if j = k then some v else Tab.find t j := by
  by_cases h : j = k
  · subst h; simp
  · simp [h, Tab.find_put_ne]

/-- The last value put is the one that stays. -/
@[simp] theorem Tab.put_put (t : Tab α) (k : Nat) (v w : α) : Tab.put (Tab.put t k v) k w = Tab.put t k w := by
  induction t with
  | nil => simp [Tab.put]
  | cons e r ih =>
    obtain ⟨k', v'⟩ := e
    simp only [Tab.put]
    split
    · simp [Tab.put]
    · split
      · simp [Tab.put]
      · rename_i h1 h2
        simp only [Tab.put, if_neg h1, if_neg h2, ih]

@[simp] theorem Tab.get_put_self (t : Tab α) (d : α) (k : Nat) (v : α) : Tab.get (Tab.put t k v) d k = v := by
  simp [Tab.get]

theorem Tab.get_put_ne (t : Tab α) (d : α) {k j : Nat} (v : α) (h : j ≠ k) :
    Tab.get (Tab.put t k v) d j = Tab.get t d j := by
  simp [Tab.get, Tab.find_put_ne t v h]

/-- Keeping the keys that `p` holds of. -/
theorem Tab.find_filter (t : Tab α) (p : Nat → Bool) (k : Nat) :
    Tab.find (t.filter (fun e => p e.1)) k = if p k then Tab.find t k else none := by
  induction t with
  | nil => simp
  | cons e r ih =>
    obtain ⟨k', v'⟩ := e
    by_cases hk : k' = k
    · subst hk
      by_cases hp : p k' <;> simp_all [Tab.find]
    · by_cases hp : p k' <;> simp_all [Tab.find]

/-- A deleted key is not listed. -/
@[simp] theorem Tab.find_del_self (t : Tab α) (k : Nat) : Tab.find (Tab.del t k) k = none :=
  (Tab.find_filter t (fun a => a != k) k).trans (by simp)

theorem Tab.find_del_ne (t : Tab α) {k j : Nat} (h : j ≠ k) : Tab.find (Tab.del t k) j = Tab.find t j :=
  (Tab.find_filter t (fun a => a != k) j).trans (by simp [h])

theorem Tab.find_drop (t : Tab α) (p : Nat → Bool) (k : Nat) :
    Tab.find (Tab.drop t p) k = if p k then none else Tab.find t k := by
  have h := Tab.find_filter t (fun a => !p a) k
  cases hp : p k <;> simp_all [Tab.drop]

/-! ### Rising keys -/

theorem Tab.rising_nil : Tab.rising ([] : Tab α) := List.Pairwise.nil

theorem Tab.rising_filter {t : Tab α} (p : Nat × α → Bool) (h : Tab.rising t) : Tab.rising (t.filter p) := h.filter p

theorem Tab.rising_del {t : Tab α} (k : Nat) (h : Tab.rising t) : Tab.rising (Tab.del t k) := h.filter _

theorem Tab.rising_drop {t : Tab α} (p : Nat → Bool) (h : Tab.rising t) : Tab.rising (Tab.drop t p) := h.filter _

theorem Tab.mem_put {t : Tab α} {k : Nat} {v : α} {e : Nat × α} (h : e ∈ Tab.put t k v) : e = (k, v) ∨ e ∈ t := by
  induction t with
  | nil => simpa [Tab.put] using h
  | cons a r ih =>
    obtain ⟨k', v'⟩ := a
    simp only [Tab.put] at h
    split at h
    · simpa using h
    · split at h
      · rcases List.mem_cons.1 h with h | h
        · exact .inl h
        · exact .inr (List.mem_cons_of_mem _ h)
      · rcases List.mem_cons.1 h with h | h
        · exact .inr (by simp [h])
        · rcases ih h with h | h
          · exact .inl h
          · exact .inr (List.mem_cons_of_mem _ h)

theorem Tab.rising_put {t : Tab α} (k : Nat) (v : α) (h : Tab.rising t) : Tab.rising (Tab.put t k v) := by
  induction t with
  | nil => simp [Tab.put, Tab.rising]
  | cons a r ih =>
    obtain ⟨k', v'⟩ := a
    obtain ⟨ha, hr⟩ := List.pairwise_cons.1 h
    simp only [Tab.put]
    split
    · rename_i hlt
      refine List.pairwise_cons.2 ⟨fun e he => ?_, h⟩
      rcases List.mem_cons.1 he with rfl | he
      · exact hlt
      · exact Nat.lt_trans hlt (ha e he)
    · split
      · rename_i heq
        subst heq
        exact List.pairwise_cons.2 ⟨ha, hr⟩
      · refine List.pairwise_cons.2 ⟨fun e he => ?_, ih hr⟩
        rcases Tab.mem_put he with rfl | he
        · simp only; omega
        · exact ha e he

theorem pairwise_insertNat {l : List Nat} (k : Nat) (h : l.Pairwise (· < ·)) : (insertNat k l).Pairwise (· < ·) := by
  have mem : ∀ {l : List Nat} {x : Nat}, x ∈ insertNat k l → x = k ∨ x ∈ l := by
    intro l
    induction l with
    | nil => intro x h; simpa [insertNat] using h
    | cons a r ih =>
      intro x h
      simp only [insertNat] at h
      split at h
      · simpa using h
      · split at h
        · exact .inr h
        · rcases List.mem_cons.1 h with h | h
          · exact .inr (by simp [h])
          · rcases ih h with h | h
            · exact .inl h
            · exact .inr (List.mem_cons_of_mem _ h)
  induction l with
  | nil => simp [insertNat]
  | cons a r ih =>
    obtain ⟨ha, hr⟩ := List.pairwise_cons.1 h
    simp only [insertNat]
    split
    · rename_i hlt
      refine List.pairwise_cons.2 ⟨fun x hx => ?_, h⟩
      rcases List.mem_cons.1 hx with rfl | hx
      · exact hlt
      · exact Nat.lt_trans hlt (ha x hx)
    · split
      · exact h
      · refine List.pairwise_cons.2 ⟨fun x hx => ?_, ih hr⟩
        rcases mem hx with rfl | hx
        · omega
        · exact ha x hx

theorem mem_insertNat (k x : Nat) (l : List Nat) : x ∈ insertNat k l ↔ x = k ∨ x ∈ l := by
  induction l with
  | nil => simp [insertNat]
  | cons a r ih =>
    simp only [insertNat]
    split
    · simp
    · split
      · rename_i h; subst h; simp
      · simp only [List.mem_cons, ih]
        tauto

end Sys2Proof.Machine
end

