-- ==== Sys2Proof/Laws/Memory.lean ====
section
/-! SUPPORT. Memory: what a byte reads as after an operation, and that every operation keeps the canonical form. -/

namespace Sys2Proof.Machine

/-! ### Reading after writing -/

@[simp] theorem Memory.tagOf_setByte (m : Memory) (k : Nat) (b : Byte) (j : Nat) : (m.setByte k b).tagOf j = m.tagOf j := rfl

@[simp] theorem Memory.base_setByte (m : Memory) (k : Nat) (b : Byte) (j : Nat) : (m.setByte k b).base j = m.base j := rfl

@[simp] theorem Memory.poison_setByte (m : Memory) (k : Nat) (b : Byte) : (m.setByte k b).poison = m.poison := rfl

/-- A byte reads what was stored there. -/
@[simp] theorem Memory.byte_setByte_self (m : Memory) (k : Nat) (b : Byte) : (m.setByte k b).byte k = b := by
  simp only [Memory.byte, Memory.base_setByte]
  simp only [Memory.setByte]
  split
  · rename_i h
    have ht : m.tagOf k = none := Option.isNone_iff_eq_none.1 h.1
    simp [Memory.base, ht, h.2]
  · simp

/-- Storing one byte leaves every other. -/
theorem Memory.byte_setByte_ne (m : Memory) {k j : Nat} (b : Byte) (h : j ≠ k) : (m.setByte k b).byte j = m.byte j := by
  simp only [Memory.byte, Memory.base_setByte]
  simp only [Memory.setByte]
  split
  · rw [Tab.find_del_ne _ h]
  · rw [Tab.find_put_ne _ _ h]

@[simp] theorem Memory.poison_setBytes (m : Memory) (k : Nat) (bs : List Byte) : (m.setBytes k bs).poison = m.poison := by
  induction bs generalizing m k with
  | nil => rfl
  | cons b r ih => simp [Memory.setBytes, ih]

@[simp] theorem Memory.areas_setBytes (m : Memory) (k : Nat) (bs : List Byte) : (m.setBytes k bs).areas = m.areas := by
  induction bs generalizing m k with
  | nil => rfl
  | cons b r ih => simp [Memory.setBytes, ih, Memory.setByte]

/-- Storing bytes leaves every key outside them. -/
theorem Memory.byte_setBytes_outside (m : Memory) (k : Nat) (bs : List Byte) {j : Nat} (h : j < k ∨ k + bs.length ≤ j) :
    (m.setBytes k bs).byte j = m.byte j := by
  induction bs generalizing m k with
  | nil => rfl
  | cons b r ih =>
    simp only [List.length_cons] at h
    rw [Memory.setBytes, ih _ _ (by omega), Memory.byte_setByte_ne _ _ (by omega)]

/-- A stored byte reads back. -/
theorem Memory.byte_setBytes_inside (m : Memory) (k : Nat) (bs : List Byte) {i : Nat} (h : i < bs.length) :
    (m.setBytes k bs).byte (k + i) = bs[i] := by
  induction bs generalizing m k i with
  | nil => simp at h
  | cons b r ih =>
    rw [Memory.setBytes]
    cases i with
    | zero => rw [Memory.byte_setBytes_outside _ _ _ (by omega)]; simp
    | succ i =>
      have := ih (m.setByte k b) (k + 1) (i := i) (by simpa using h)
      simpa [Nat.add_assoc, Nat.add_comm 1 i] using this

@[simp] theorem Memory.byte_setPoison (m : Memory) (g : Nat) (p : Bool) (j : Nat) : (m.setPoison g p).byte j = m.byte j := rfl

theorem Memory.byte_foldl_setPoison {α : Type} (f : α → Nat) (p : α → Bool) (l : List α) (m : Memory) (j : Nat) :
    (l.foldl (fun m a => m.setPoison (f a) (p a)) m).byte j = m.byte j := by
  induction l generalizing m with
  | nil => rfl
  | cons a r ih => rw [List.foldl_cons, ih, Memory.byte_setPoison]

/-- A masked write leaves every byte outside it. -/
theorem Memory.byte_writeB_outside (m : Memory) (k : Nat) (bs : List PByte) {j : Nat} (h : j < k ∨ k + bs.length ≤ j) :
    (m.writeB k bs).byte j = m.byte j := by
  simp only [Memory.writeB]
  rw [Memory.byte_foldl_setPoison, Memory.byte_setBytes_outside _ _ _ (by simpa using h)]

/-- A masked write stores its bytes. -/
theorem Memory.byte_writeB_inside (m : Memory) (k : Nat) (bs : List PByte) {i : Nat} (h : i < bs.length) :
    (m.writeB k bs).byte (k + i) = bs[i].1 := by
  simp only [Memory.writeB]
  rw [Memory.byte_foldl_setPoison, Memory.byte_setBytes_inside _ _ _ (by simpa using h)]
  simp

/-! ### The canonical form -/

theorem Memory.wf_empty : Memory.empty.wf := ⟨List.Pairwise.nil, by simp [Memory.empty], List.Pairwise.nil⟩

theorem Memory.wf_setByte {m : Memory} (k : Nat) (b : Byte) (h : m.wf) : (m.setByte k b).wf := by
  refine ⟨?_, ?_, h.2.2⟩
  · simp only [Memory.setByte]
    split
    · exact Tab.rising_del _ h.1
    · exact Tab.rising_put _ _ h.1
  · intro e he
    simp only [Memory.entryOk, Memory.tagOf_setByte]
    simp only [Memory.setByte] at he
    split at he
    · exact h.2.1 e (List.mem_of_mem_filter he)
    · rename_i hn
      rcases Tab.mem_put he with rfl | he
      · simp only
        by_cases hb : b = 0
        · right
          simp only [hb, and_true, Option.isNone_iff_eq_none] at hn
          exact Option.isSome_iff_ne_none.2 hn
        · exact .inl hb
      · exact h.2.1 e he

theorem Memory.wf_setBytes {m : Memory} (k : Nat) (bs : List Byte) (h : m.wf) : (m.setBytes k bs).wf := by
  induction bs generalizing m k with
  | nil => exact h
  | cons b r ih => exact ih _ (Memory.wf_setByte _ _ h)

theorem Memory.wf_setPoison {m : Memory} (g : Nat) (p : Bool) (h : m.wf) : (m.setPoison g p).wf := by
  refine ⟨h.1, h.2.1, ?_⟩
  simp only [Memory.setPoison]
  split
  · exact pairwise_insertNat _ h.2.2
  · exact h.2.2.filter _

theorem Memory.wf_foldl_setPoison {α : Type} (f : α → Nat) (p : α → Bool) (l : List α) {m : Memory} (h : m.wf) :
    (l.foldl (fun m a => m.setPoison (f a) (p a)) m).wf := by
  induction l generalizing m with
  | nil => exact h
  | cons a r ih => exact ih (Memory.wf_setPoison _ _ h)

theorem Memory.wf_writeB {m : Memory} (k : Nat) (bs : List PByte) (h : m.wf) : (m.writeB k bs).wf :=
  Memory.wf_foldl_setPoison _ _ _ (Memory.wf_setBytes _ _ h)

theorem Memory.tagOf_lay (m : Memory) (a : Area) {k : Nat} (h : a.has k = false) : (m.lay a).tagOf k = m.tagOf k := by
  simp only [Memory.lay, Memory.tagOf]
  split
  · rename_i hn; simp [hn.2]
  · simp [h]

theorem Memory.wf_lay {m : Memory} (a : Area) (h : m.wf) : (m.lay a).wf := by
  refine ⟨Tab.rising_filter _ h.1, fun e he => ?_, h.2.2.filter _⟩
  obtain ⟨he, hh⟩ := List.mem_filter.1 he
  have hh : a.has e.1 = false := by simpa using hh
  rw [Memory.entryOk, Memory.tagOf_lay _ _ hh]
  exact h.2.1 e he

theorem Memory.wf_zero {m : Memory} (lo hi : Nat) (h : m.wf) : (m.zero lo hi).wf := Memory.wf_lay _ h

theorem Memory.wf_undefine {m : Memory} (lo hi tag : Nat) (h : m.wf) : (m.undefine lo hi tag).wf := Memory.wf_lay _ h

theorem Tab.not_mem_of_find_none {α : Type} {t : Tab α} {k : Nat} (h : ∀ e ∈ t, e.1 ≠ k) : Tab.find t k = none := by
  induction t with
  | nil => rfl
  | cons e r ih =>
    obtain ⟨k', v⟩ := e
    simp only [Tab.find, if_neg (h (k', v) (by simp))]
    exact ih fun e he => h e (List.mem_cons_of_mem _ he)

/-- An area laid without a tag reads zero. -/
theorem Memory.byte_lay_zero (m : Memory) (a : Area) {k : Nat} (h : a.has k = true) (ht : a.tag = none) : (m.lay a).byte k = 0 := by
  have hf : Tab.find (m.lay a).cells k = none := by
    simp only [Memory.lay]
    rw [Tab.find_filter m.cells (fun j => !a.has j)]
    simp [h]
  have hb : (m.lay a).tagOf k = none := by
    simp only [Memory.lay, Memory.tagOf]
    split
    · rfl
    · simp [h, ht]
  simp [Memory.byte, hf, Memory.base, hb]

/-- An area laid leaves every key outside it. -/
theorem Memory.byte_lay_outside (m : Memory) (a : Area) {k : Nat} (h : a.has k = false) : (m.lay a).byte k = m.byte k := by
  have hf : Tab.find (m.lay a).cells k = Tab.find m.cells k := by
    simp only [Memory.lay]
    rw [Tab.find_filter m.cells (fun j => !a.has j)]
    simp [h]
  simp only [Memory.byte, hf, Memory.base, Memory.tagOf_lay m a h]

end Sys2Proof.Machine
end

