-- ==== Sys2Proof/Laws/State.lean ====
section
/-! SUPPORT. The named updates of the state: one lemma for each field an update leaves, true by unfolding. -/

namespace Sys2Proof.Machine

@[simp] theorem State.setReg_pending (s : State) (a v : Nat) : (s.setReg a v).pending = s.pending := rfl
@[simp] theorem State.setReg_free (s : State) (a v : Nat) : (s.setReg a v).free = s.free := rfl
@[simp] theorem State.setReg_clock (s : State) (a v : Nat) : (s.setReg a v).clock = s.clock := rfl
@[simp] theorem State.setReg_mem (s : State) (a v : Nat) : (s.setReg a v).mem = s.mem := rfl
@[simp] theorem State.setReg_cores (s : State) (a v : Nat) : (s.setReg a v).cores = s.cores := rfl
@[simp] theorem State.setReg_parts (s : State) (a v : Nat) : (s.setReg a v).parts = s.parts := rfl
@[simp] theorem State.setReg_fab (s : State) (a v : Nat) : (s.setReg a v).fab = s.fab := rfl
@[simp] theorem State.setReg_fabNext (s : State) (a v : Nat) : (s.setReg a v).fabNext = s.fabNext := rfl
@[simp] theorem State.setReg_busy (s : State) (a v : Nat) : (s.setReg a v).busy = s.busy := rfl
@[simp] theorem State.setReg_merge (s : State) (a v : Nat) : (s.setReg a v).merge = s.merge := rfl
@[simp] theorem State.setReg_grants (s : State) (a v : Nat) : (s.setReg a v).grants = s.grants := rfl
@[simp] theorem State.setReg_turns (s : State) (a v : Nat) : (s.setReg a v).turns = s.turns := rfl
@[simp] theorem State.setReg_marchAt (s : State) (a v : Nat) : (s.setReg a v).marchAt = s.marchAt := rfl
@[simp] theorem State.setReg_pot (s : State) (a v : Nat) : (s.setReg a v).pot = s.pot := rfl
@[simp] theorem State.setReg_tally (s : State) (a v : Nat) : (s.setReg a v).tally = s.tally := rfl
@[simp] theorem State.setReg_links (s : State) (a v : Nat) : (s.setReg a v).links = s.links := rfl
@[simp] theorem State.setReg_scrubRow (s : State) (a v : Nat) : (s.setReg a v).scrubRow = s.scrubRow := rfl
@[simp] theorem State.setReg_chans (s : State) (a v : Nat) : (s.setReg a v).chans = s.chans := rfl
@[simp] theorem State.setReg_conns (s : State) (a v : Nat) : (s.setReg a v).conns = s.conns := rfl
@[simp] theorem State.setReg_connsUsed (s : State) (a v : Nat) : (s.setReg a v).connsUsed = s.connsUsed := rfl
@[simp] theorem State.setReg_kept (s : State) (a v : Nat) : (s.setReg a v).kept = s.kept := rfl
@[simp] theorem State.setReg_groups (s : State) (a v : Nat) : (s.setReg a v).groups = s.groups := rfl
@[simp] theorem State.setReg_groupParts (s : State) (a v : Nat) : (s.setReg a v).groupParts = s.groupParts := rfl
@[simp] theorem State.setReg_groupPend (s : State) (a v : Nat) : (s.setReg a v).groupPend = s.groupPend := rfl
@[simp] theorem State.setReg_echoes (s : State) (a v : Nat) : (s.setReg a v).echoes = s.echoes := rfl
@[simp] theorem State.setReg_assembly (s : State) (a v : Nat) : (s.setReg a v).assembly = s.assembly := rfl
@[simp] theorem State.setReg_epochs (s : State) (a v : Nat) : (s.setReg a v).epochs = s.epochs := rfl
@[simp] theorem State.setReg_past (s : State) (a v : Nat) : (s.setReg a v).past = s.past := rfl
@[simp] theorem State.setReg_early (s : State) (a v : Nat) : (s.setReg a v).early = s.early := rfl
@[simp] theorem State.setReg_admitAt (s : State) (a v : Nat) : (s.setReg a v).admitAt = s.admitAt := rfl
@[simp] theorem State.setReg_localQ (s : State) (a v : Nat) : (s.setReg a v).localQ = s.localQ := rfl
@[simp] theorem State.setReg_talPend (s : State) (a v : Nat) : (s.setReg a v).talPend = s.talPend := rfl
@[simp] theorem State.setReg_cairnOut (s : State) (a v : Nat) : (s.setReg a v).cairnOut = s.cairnOut := rfl
@[simp] theorem State.setReg_restore (s : State) (a v : Nat) : (s.setReg a v).restore = s.restore := rfl
@[simp] theorem State.setReg_storeOp (s : State) (a v : Nat) : (s.setReg a v).storeOp = s.storeOp := rfl
@[simp] theorem State.setReg_events (s : State) (a v : Nat) : (s.setReg a v).events = s.events := rfl
@[simp] theorem State.setReg_runs (s : State) (a v : Nat) : (s.setReg a v).runs = s.runs := rfl
@[simp] theorem State.setReg_sweeps (s : State) (a v : Nat) : (s.setReg a v).sweeps = s.sweeps := rfl
@[simp] theorem State.setReg_flash (s : State) (a v : Nat) : (s.setReg a v).flash = s.flash := rfl
@[simp] theorem State.setReg_update (s : State) (a v : Nat) : (s.setReg a v).update = s.update := rfl
@[simp] theorem State.setReg_reports (s : State) (a v : Nat) : (s.setReg a v).reports = s.reports := rfl
@[simp] theorem State.setReg_power (s : State) (a v : Nat) : (s.setReg a v).power = s.power := rfl
@[simp] theorem State.setReg_attempt (s : State) (a v : Nat) : (s.setReg a v).attempt = s.attempt := rfl
@[simp] theorem State.setReg_started (s : State) (a v : Nat) : (s.setReg a v).started = s.started := rfl
@[simp] theorem State.setReg_win (s : State) (a v : Nat) : (s.setReg a v).win = s.win := rfl
@[simp] theorem State.setReg_deficit (s : State) (a v : Nat) : (s.setReg a v).deficit = s.deficit := rfl
@[simp] theorem State.setReg_sealCost (s : State) (a v : Nat) : (s.setReg a v).sealCost = s.sealCost := rfl
@[simp] theorem State.setReg_loadWait (s : State) (a v : Nat) : (s.setReg a v).loadWait = s.loadWait := rfl
@[simp] theorem State.setReg_outbox (s : State) (a v : Nat) : (s.setReg a v).outbox = s.outbox := rfl

@[simp] theorem State.setFld_pending (s : State) (a hi lo v : Nat) : (s.setFld a hi lo v).pending = s.pending := rfl
@[simp] theorem State.setFld_free (s : State) (a hi lo v : Nat) : (s.setFld a hi lo v).free = s.free := rfl
@[simp] theorem State.setFld_clock (s : State) (a hi lo v : Nat) : (s.setFld a hi lo v).clock = s.clock := rfl
@[simp] theorem State.setFld_mem (s : State) (a hi lo v : Nat) : (s.setFld a hi lo v).mem = s.mem := rfl
@[simp] theorem State.setFld_cores (s : State) (a hi lo v : Nat) : (s.setFld a hi lo v).cores = s.cores := rfl
@[simp] theorem State.setFld_parts (s : State) (a hi lo v : Nat) : (s.setFld a hi lo v).parts = s.parts := rfl
@[simp] theorem State.setFld_fab (s : State) (a hi lo v : Nat) : (s.setFld a hi lo v).fab = s.fab := rfl
@[simp] theorem State.setFld_fabNext (s : State) (a hi lo v : Nat) : (s.setFld a hi lo v).fabNext = s.fabNext := rfl
@[simp] theorem State.setFld_busy (s : State) (a hi lo v : Nat) : (s.setFld a hi lo v).busy = s.busy := rfl
@[simp] theorem State.setFld_merge (s : State) (a hi lo v : Nat) : (s.setFld a hi lo v).merge = s.merge := rfl
@[simp] theorem State.setFld_grants (s : State) (a hi lo v : Nat) : (s.setFld a hi lo v).grants = s.grants := rfl
@[simp] theorem State.setFld_turns (s : State) (a hi lo v : Nat) : (s.setFld a hi lo v).turns = s.turns := rfl
@[simp] theorem State.setFld_marchAt (s : State) (a hi lo v : Nat) : (s.setFld a hi lo v).marchAt = s.marchAt := rfl
@[simp] theorem State.setFld_pot (s : State) (a hi lo v : Nat) : (s.setFld a hi lo v).pot = s.pot := rfl
@[simp] theorem State.setFld_tally (s : State) (a hi lo v : Nat) : (s.setFld a hi lo v).tally = s.tally := rfl
@[simp] theorem State.setFld_links (s : State) (a hi lo v : Nat) : (s.setFld a hi lo v).links = s.links := rfl
@[simp] theorem State.setFld_scrubRow (s : State) (a hi lo v : Nat) : (s.setFld a hi lo v).scrubRow = s.scrubRow := rfl
@[simp] theorem State.setFld_chans (s : State) (a hi lo v : Nat) : (s.setFld a hi lo v).chans = s.chans := rfl
@[simp] theorem State.setFld_conns (s : State) (a hi lo v : Nat) : (s.setFld a hi lo v).conns = s.conns := rfl
@[simp] theorem State.setFld_connsUsed (s : State) (a hi lo v : Nat) : (s.setFld a hi lo v).connsUsed = s.connsUsed := rfl
@[simp] theorem State.setFld_kept (s : State) (a hi lo v : Nat) : (s.setFld a hi lo v).kept = s.kept := rfl
@[simp] theorem State.setFld_groups (s : State) (a hi lo v : Nat) : (s.setFld a hi lo v).groups = s.groups := rfl
@[simp] theorem State.setFld_groupParts (s : State) (a hi lo v : Nat) : (s.setFld a hi lo v).groupParts = s.groupParts := rfl
@[simp] theorem State.setFld_groupPend (s : State) (a hi lo v : Nat) : (s.setFld a hi lo v).groupPend = s.groupPend := rfl
@[simp] theorem State.setFld_echoes (s : State) (a hi lo v : Nat) : (s.setFld a hi lo v).echoes = s.echoes := rfl
@[simp] theorem State.setFld_assembly (s : State) (a hi lo v : Nat) : (s.setFld a hi lo v).assembly = s.assembly := rfl
@[simp] theorem State.setFld_epochs (s : State) (a hi lo v : Nat) : (s.setFld a hi lo v).epochs = s.epochs := rfl
@[simp] theorem State.setFld_past (s : State) (a hi lo v : Nat) : (s.setFld a hi lo v).past = s.past := rfl
@[simp] theorem State.setFld_early (s : State) (a hi lo v : Nat) : (s.setFld a hi lo v).early = s.early := rfl
@[simp] theorem State.setFld_admitAt (s : State) (a hi lo v : Nat) : (s.setFld a hi lo v).admitAt = s.admitAt := rfl
@[simp] theorem State.setFld_localQ (s : State) (a hi lo v : Nat) : (s.setFld a hi lo v).localQ = s.localQ := rfl
@[simp] theorem State.setFld_talPend (s : State) (a hi lo v : Nat) : (s.setFld a hi lo v).talPend = s.talPend := rfl
@[simp] theorem State.setFld_cairnOut (s : State) (a hi lo v : Nat) : (s.setFld a hi lo v).cairnOut = s.cairnOut := rfl
@[simp] theorem State.setFld_restore (s : State) (a hi lo v : Nat) : (s.setFld a hi lo v).restore = s.restore := rfl
@[simp] theorem State.setFld_storeOp (s : State) (a hi lo v : Nat) : (s.setFld a hi lo v).storeOp = s.storeOp := rfl
@[simp] theorem State.setFld_events (s : State) (a hi lo v : Nat) : (s.setFld a hi lo v).events = s.events := rfl
@[simp] theorem State.setFld_runs (s : State) (a hi lo v : Nat) : (s.setFld a hi lo v).runs = s.runs := rfl
@[simp] theorem State.setFld_sweeps (s : State) (a hi lo v : Nat) : (s.setFld a hi lo v).sweeps = s.sweeps := rfl
@[simp] theorem State.setFld_flash (s : State) (a hi lo v : Nat) : (s.setFld a hi lo v).flash = s.flash := rfl
@[simp] theorem State.setFld_update (s : State) (a hi lo v : Nat) : (s.setFld a hi lo v).update = s.update := rfl
@[simp] theorem State.setFld_reports (s : State) (a hi lo v : Nat) : (s.setFld a hi lo v).reports = s.reports := rfl
@[simp] theorem State.setFld_power (s : State) (a hi lo v : Nat) : (s.setFld a hi lo v).power = s.power := rfl
@[simp] theorem State.setFld_attempt (s : State) (a hi lo v : Nat) : (s.setFld a hi lo v).attempt = s.attempt := rfl
@[simp] theorem State.setFld_started (s : State) (a hi lo v : Nat) : (s.setFld a hi lo v).started = s.started := rfl
@[simp] theorem State.setFld_win (s : State) (a hi lo v : Nat) : (s.setFld a hi lo v).win = s.win := rfl
@[simp] theorem State.setFld_deficit (s : State) (a hi lo v : Nat) : (s.setFld a hi lo v).deficit = s.deficit := rfl
@[simp] theorem State.setFld_sealCost (s : State) (a hi lo v : Nat) : (s.setFld a hi lo v).sealCost = s.sealCost := rfl
@[simp] theorem State.setFld_loadWait (s : State) (a hi lo v : Nat) : (s.setFld a hi lo v).loadWait = s.loadWait := rfl
@[simp] theorem State.setFld_outbox (s : State) (a hi lo v : Nat) : (s.setFld a hi lo v).outbox = s.outbox := rfl

@[simp] theorem State.addFld_pending (s : State) (a hi lo n : Nat) : (s.addFld a hi lo n).pending = s.pending := rfl
@[simp] theorem State.addFld_free (s : State) (a hi lo n : Nat) : (s.addFld a hi lo n).free = s.free := rfl
@[simp] theorem State.addFld_clock (s : State) (a hi lo n : Nat) : (s.addFld a hi lo n).clock = s.clock := rfl
@[simp] theorem State.addFld_mem (s : State) (a hi lo n : Nat) : (s.addFld a hi lo n).mem = s.mem := rfl
@[simp] theorem State.addFld_cores (s : State) (a hi lo n : Nat) : (s.addFld a hi lo n).cores = s.cores := rfl
@[simp] theorem State.addFld_parts (s : State) (a hi lo n : Nat) : (s.addFld a hi lo n).parts = s.parts := rfl
@[simp] theorem State.addFld_fab (s : State) (a hi lo n : Nat) : (s.addFld a hi lo n).fab = s.fab := rfl
@[simp] theorem State.addFld_fabNext (s : State) (a hi lo n : Nat) : (s.addFld a hi lo n).fabNext = s.fabNext := rfl
@[simp] theorem State.addFld_busy (s : State) (a hi lo n : Nat) : (s.addFld a hi lo n).busy = s.busy := rfl
@[simp] theorem State.addFld_merge (s : State) (a hi lo n : Nat) : (s.addFld a hi lo n).merge = s.merge := rfl
@[simp] theorem State.addFld_grants (s : State) (a hi lo n : Nat) : (s.addFld a hi lo n).grants = s.grants := rfl
@[simp] theorem State.addFld_turns (s : State) (a hi lo n : Nat) : (s.addFld a hi lo n).turns = s.turns := rfl
@[simp] theorem State.addFld_marchAt (s : State) (a hi lo n : Nat) : (s.addFld a hi lo n).marchAt = s.marchAt := rfl
@[simp] theorem State.addFld_pot (s : State) (a hi lo n : Nat) : (s.addFld a hi lo n).pot = s.pot := rfl
@[simp] theorem State.addFld_tally (s : State) (a hi lo n : Nat) : (s.addFld a hi lo n).tally = s.tally := rfl
@[simp] theorem State.addFld_links (s : State) (a hi lo n : Nat) : (s.addFld a hi lo n).links = s.links := rfl
@[simp] theorem State.addFld_scrubRow (s : State) (a hi lo n : Nat) : (s.addFld a hi lo n).scrubRow = s.scrubRow := rfl
@[simp] theorem State.addFld_chans (s : State) (a hi lo n : Nat) : (s.addFld a hi lo n).chans = s.chans := rfl
@[simp] theorem State.addFld_conns (s : State) (a hi lo n : Nat) : (s.addFld a hi lo n).conns = s.conns := rfl
@[simp] theorem State.addFld_connsUsed (s : State) (a hi lo n : Nat) : (s.addFld a hi lo n).connsUsed = s.connsUsed := rfl
@[simp] theorem State.addFld_kept (s : State) (a hi lo n : Nat) : (s.addFld a hi lo n).kept = s.kept := rfl
@[simp] theorem State.addFld_groups (s : State) (a hi lo n : Nat) : (s.addFld a hi lo n).groups = s.groups := rfl
@[simp] theorem State.addFld_groupParts (s : State) (a hi lo n : Nat) : (s.addFld a hi lo n).groupParts = s.groupParts := rfl
@[simp] theorem State.addFld_groupPend (s : State) (a hi lo n : Nat) : (s.addFld a hi lo n).groupPend = s.groupPend := rfl
@[simp] theorem State.addFld_echoes (s : State) (a hi lo n : Nat) : (s.addFld a hi lo n).echoes = s.echoes := rfl
@[simp] theorem State.addFld_assembly (s : State) (a hi lo n : Nat) : (s.addFld a hi lo n).assembly = s.assembly := rfl
@[simp] theorem State.addFld_epochs (s : State) (a hi lo n : Nat) : (s.addFld a hi lo n).epochs = s.epochs := rfl
@[simp] theorem State.addFld_past (s : State) (a hi lo n : Nat) : (s.addFld a hi lo n).past = s.past := rfl
@[simp] theorem State.addFld_early (s : State) (a hi lo n : Nat) : (s.addFld a hi lo n).early = s.early := rfl
@[simp] theorem State.addFld_admitAt (s : State) (a hi lo n : Nat) : (s.addFld a hi lo n).admitAt = s.admitAt := rfl
@[simp] theorem State.addFld_localQ (s : State) (a hi lo n : Nat) : (s.addFld a hi lo n).localQ = s.localQ := rfl
@[simp] theorem State.addFld_talPend (s : State) (a hi lo n : Nat) : (s.addFld a hi lo n).talPend = s.talPend := rfl
@[simp] theorem State.addFld_cairnOut (s : State) (a hi lo n : Nat) : (s.addFld a hi lo n).cairnOut = s.cairnOut := rfl
@[simp] theorem State.addFld_restore (s : State) (a hi lo n : Nat) : (s.addFld a hi lo n).restore = s.restore := rfl
@[simp] theorem State.addFld_storeOp (s : State) (a hi lo n : Nat) : (s.addFld a hi lo n).storeOp = s.storeOp := rfl
@[simp] theorem State.addFld_events (s : State) (a hi lo n : Nat) : (s.addFld a hi lo n).events = s.events := rfl
@[simp] theorem State.addFld_runs (s : State) (a hi lo n : Nat) : (s.addFld a hi lo n).runs = s.runs := rfl
@[simp] theorem State.addFld_sweeps (s : State) (a hi lo n : Nat) : (s.addFld a hi lo n).sweeps = s.sweeps := rfl
@[simp] theorem State.addFld_flash (s : State) (a hi lo n : Nat) : (s.addFld a hi lo n).flash = s.flash := rfl
@[simp] theorem State.addFld_update (s : State) (a hi lo n : Nat) : (s.addFld a hi lo n).update = s.update := rfl
@[simp] theorem State.addFld_reports (s : State) (a hi lo n : Nat) : (s.addFld a hi lo n).reports = s.reports := rfl
@[simp] theorem State.addFld_power (s : State) (a hi lo n : Nat) : (s.addFld a hi lo n).power = s.power := rfl
@[simp] theorem State.addFld_attempt (s : State) (a hi lo n : Nat) : (s.addFld a hi lo n).attempt = s.attempt := rfl
@[simp] theorem State.addFld_started (s : State) (a hi lo n : Nat) : (s.addFld a hi lo n).started = s.started := rfl
@[simp] theorem State.addFld_win (s : State) (a hi lo n : Nat) : (s.addFld a hi lo n).win = s.win := rfl
@[simp] theorem State.addFld_deficit (s : State) (a hi lo n : Nat) : (s.addFld a hi lo n).deficit = s.deficit := rfl
@[simp] theorem State.addFld_sealCost (s : State) (a hi lo n : Nat) : (s.addFld a hi lo n).sealCost = s.sealCost := rfl
@[simp] theorem State.addFld_loadWait (s : State) (a hi lo n : Nat) : (s.addFld a hi lo n).loadWait = s.loadWait := rfl
@[simp] theorem State.addFld_outbox (s : State) (a hi lo n : Nat) : (s.addFld a hi lo n).outbox = s.outbox := rfl

@[simp] theorem State.maxFld_pending (s : State) (a hi lo v : Nat) : (s.maxFld a hi lo v).pending = s.pending := rfl
@[simp] theorem State.maxFld_free (s : State) (a hi lo v : Nat) : (s.maxFld a hi lo v).free = s.free := rfl
@[simp] theorem State.maxFld_clock (s : State) (a hi lo v : Nat) : (s.maxFld a hi lo v).clock = s.clock := rfl
@[simp] theorem State.maxFld_mem (s : State) (a hi lo v : Nat) : (s.maxFld a hi lo v).mem = s.mem := rfl
@[simp] theorem State.maxFld_cores (s : State) (a hi lo v : Nat) : (s.maxFld a hi lo v).cores = s.cores := rfl
@[simp] theorem State.maxFld_parts (s : State) (a hi lo v : Nat) : (s.maxFld a hi lo v).parts = s.parts := rfl
@[simp] theorem State.maxFld_fab (s : State) (a hi lo v : Nat) : (s.maxFld a hi lo v).fab = s.fab := rfl
@[simp] theorem State.maxFld_fabNext (s : State) (a hi lo v : Nat) : (s.maxFld a hi lo v).fabNext = s.fabNext := rfl
@[simp] theorem State.maxFld_busy (s : State) (a hi lo v : Nat) : (s.maxFld a hi lo v).busy = s.busy := rfl
@[simp] theorem State.maxFld_merge (s : State) (a hi lo v : Nat) : (s.maxFld a hi lo v).merge = s.merge := rfl
@[simp] theorem State.maxFld_grants (s : State) (a hi lo v : Nat) : (s.maxFld a hi lo v).grants = s.grants := rfl
@[simp] theorem State.maxFld_turns (s : State) (a hi lo v : Nat) : (s.maxFld a hi lo v).turns = s.turns := rfl
@[simp] theorem State.maxFld_marchAt (s : State) (a hi lo v : Nat) : (s.maxFld a hi lo v).marchAt = s.marchAt := rfl
@[simp] theorem State.maxFld_pot (s : State) (a hi lo v : Nat) : (s.maxFld a hi lo v).pot = s.pot := rfl
@[simp] theorem State.maxFld_tally (s : State) (a hi lo v : Nat) : (s.maxFld a hi lo v).tally = s.tally := rfl
@[simp] theorem State.maxFld_links (s : State) (a hi lo v : Nat) : (s.maxFld a hi lo v).links = s.links := rfl
@[simp] theorem State.maxFld_scrubRow (s : State) (a hi lo v : Nat) : (s.maxFld a hi lo v).scrubRow = s.scrubRow := rfl
@[simp] theorem State.maxFld_chans (s : State) (a hi lo v : Nat) : (s.maxFld a hi lo v).chans = s.chans := rfl
@[simp] theorem State.maxFld_conns (s : State) (a hi lo v : Nat) : (s.maxFld a hi lo v).conns = s.conns := rfl
@[simp] theorem State.maxFld_connsUsed (s : State) (a hi lo v : Nat) : (s.maxFld a hi lo v).connsUsed = s.connsUsed := rfl
@[simp] theorem State.maxFld_kept (s : State) (a hi lo v : Nat) : (s.maxFld a hi lo v).kept = s.kept := rfl
@[simp] theorem State.maxFld_groups (s : State) (a hi lo v : Nat) : (s.maxFld a hi lo v).groups = s.groups := rfl
@[simp] theorem State.maxFld_groupParts (s : State) (a hi lo v : Nat) : (s.maxFld a hi lo v).groupParts = s.groupParts := rfl
@[simp] theorem State.maxFld_groupPend (s : State) (a hi lo v : Nat) : (s.maxFld a hi lo v).groupPend = s.groupPend := rfl
@[simp] theorem State.maxFld_echoes (s : State) (a hi lo v : Nat) : (s.maxFld a hi lo v).echoes = s.echoes := rfl
@[simp] theorem State.maxFld_assembly (s : State) (a hi lo v : Nat) : (s.maxFld a hi lo v).assembly = s.assembly := rfl
@[simp] theorem State.maxFld_epochs (s : State) (a hi lo v : Nat) : (s.maxFld a hi lo v).epochs = s.epochs := rfl
@[simp] theorem State.maxFld_past (s : State) (a hi lo v : Nat) : (s.maxFld a hi lo v).past = s.past := rfl
@[simp] theorem State.maxFld_early (s : State) (a hi lo v : Nat) : (s.maxFld a hi lo v).early = s.early := rfl
@[simp] theorem State.maxFld_admitAt (s : State) (a hi lo v : Nat) : (s.maxFld a hi lo v).admitAt = s.admitAt := rfl
@[simp] theorem State.maxFld_localQ (s : State) (a hi lo v : Nat) : (s.maxFld a hi lo v).localQ = s.localQ := rfl
@[simp] theorem State.maxFld_talPend (s : State) (a hi lo v : Nat) : (s.maxFld a hi lo v).talPend = s.talPend := rfl
@[simp] theorem State.maxFld_cairnOut (s : State) (a hi lo v : Nat) : (s.maxFld a hi lo v).cairnOut = s.cairnOut := rfl
@[simp] theorem State.maxFld_restore (s : State) (a hi lo v : Nat) : (s.maxFld a hi lo v).restore = s.restore := rfl
@[simp] theorem State.maxFld_storeOp (s : State) (a hi lo v : Nat) : (s.maxFld a hi lo v).storeOp = s.storeOp := rfl
@[simp] theorem State.maxFld_events (s : State) (a hi lo v : Nat) : (s.maxFld a hi lo v).events = s.events := rfl
@[simp] theorem State.maxFld_runs (s : State) (a hi lo v : Nat) : (s.maxFld a hi lo v).runs = s.runs := rfl
@[simp] theorem State.maxFld_sweeps (s : State) (a hi lo v : Nat) : (s.maxFld a hi lo v).sweeps = s.sweeps := rfl
@[simp] theorem State.maxFld_flash (s : State) (a hi lo v : Nat) : (s.maxFld a hi lo v).flash = s.flash := rfl
@[simp] theorem State.maxFld_update (s : State) (a hi lo v : Nat) : (s.maxFld a hi lo v).update = s.update := rfl
@[simp] theorem State.maxFld_reports (s : State) (a hi lo v : Nat) : (s.maxFld a hi lo v).reports = s.reports := rfl
@[simp] theorem State.maxFld_power (s : State) (a hi lo v : Nat) : (s.maxFld a hi lo v).power = s.power := rfl
@[simp] theorem State.maxFld_attempt (s : State) (a hi lo v : Nat) : (s.maxFld a hi lo v).attempt = s.attempt := rfl
@[simp] theorem State.maxFld_started (s : State) (a hi lo v : Nat) : (s.maxFld a hi lo v).started = s.started := rfl
@[simp] theorem State.maxFld_win (s : State) (a hi lo v : Nat) : (s.maxFld a hi lo v).win = s.win := rfl
@[simp] theorem State.maxFld_deficit (s : State) (a hi lo v : Nat) : (s.maxFld a hi lo v).deficit = s.deficit := rfl
@[simp] theorem State.maxFld_sealCost (s : State) (a hi lo v : Nat) : (s.maxFld a hi lo v).sealCost = s.sealCost := rfl
@[simp] theorem State.maxFld_loadWait (s : State) (a hi lo v : Nat) : (s.maxFld a hi lo v).loadWait = s.loadWait := rfl
@[simp] theorem State.maxFld_outbox (s : State) (a hi lo v : Nat) : (s.maxFld a hi lo v).outbox = s.outbox := rfl

@[simp] theorem State.clearRegs_pending (s : State) (lo hi : Nat) : (s.clearRegs lo hi).pending = s.pending := rfl
@[simp] theorem State.clearRegs_free (s : State) (lo hi : Nat) : (s.clearRegs lo hi).free = s.free := rfl
@[simp] theorem State.clearRegs_clock (s : State) (lo hi : Nat) : (s.clearRegs lo hi).clock = s.clock := rfl
@[simp] theorem State.clearRegs_mem (s : State) (lo hi : Nat) : (s.clearRegs lo hi).mem = s.mem := rfl
@[simp] theorem State.clearRegs_cores (s : State) (lo hi : Nat) : (s.clearRegs lo hi).cores = s.cores := rfl
@[simp] theorem State.clearRegs_parts (s : State) (lo hi : Nat) : (s.clearRegs lo hi).parts = s.parts := rfl
@[simp] theorem State.clearRegs_fab (s : State) (lo hi : Nat) : (s.clearRegs lo hi).fab = s.fab := rfl
@[simp] theorem State.clearRegs_fabNext (s : State) (lo hi : Nat) : (s.clearRegs lo hi).fabNext = s.fabNext := rfl
@[simp] theorem State.clearRegs_busy (s : State) (lo hi : Nat) : (s.clearRegs lo hi).busy = s.busy := rfl
@[simp] theorem State.clearRegs_merge (s : State) (lo hi : Nat) : (s.clearRegs lo hi).merge = s.merge := rfl
@[simp] theorem State.clearRegs_grants (s : State) (lo hi : Nat) : (s.clearRegs lo hi).grants = s.grants := rfl
@[simp] theorem State.clearRegs_turns (s : State) (lo hi : Nat) : (s.clearRegs lo hi).turns = s.turns := rfl
@[simp] theorem State.clearRegs_marchAt (s : State) (lo hi : Nat) : (s.clearRegs lo hi).marchAt = s.marchAt := rfl
@[simp] theorem State.clearRegs_pot (s : State) (lo hi : Nat) : (s.clearRegs lo hi).pot = s.pot := rfl
@[simp] theorem State.clearRegs_tally (s : State) (lo hi : Nat) : (s.clearRegs lo hi).tally = s.tally := rfl
@[simp] theorem State.clearRegs_links (s : State) (lo hi : Nat) : (s.clearRegs lo hi).links = s.links := rfl
@[simp] theorem State.clearRegs_scrubRow (s : State) (lo hi : Nat) : (s.clearRegs lo hi).scrubRow = s.scrubRow := rfl
@[simp] theorem State.clearRegs_chans (s : State) (lo hi : Nat) : (s.clearRegs lo hi).chans = s.chans := rfl
@[simp] theorem State.clearRegs_conns (s : State) (lo hi : Nat) : (s.clearRegs lo hi).conns = s.conns := rfl
@[simp] theorem State.clearRegs_connsUsed (s : State) (lo hi : Nat) : (s.clearRegs lo hi).connsUsed = s.connsUsed := rfl
@[simp] theorem State.clearRegs_kept (s : State) (lo hi : Nat) : (s.clearRegs lo hi).kept = s.kept := rfl
@[simp] theorem State.clearRegs_groups (s : State) (lo hi : Nat) : (s.clearRegs lo hi).groups = s.groups := rfl
@[simp] theorem State.clearRegs_groupParts (s : State) (lo hi : Nat) : (s.clearRegs lo hi).groupParts = s.groupParts := rfl
@[simp] theorem State.clearRegs_groupPend (s : State) (lo hi : Nat) : (s.clearRegs lo hi).groupPend = s.groupPend := rfl
@[simp] theorem State.clearRegs_echoes (s : State) (lo hi : Nat) : (s.clearRegs lo hi).echoes = s.echoes := rfl
@[simp] theorem State.clearRegs_assembly (s : State) (lo hi : Nat) : (s.clearRegs lo hi).assembly = s.assembly := rfl
@[simp] theorem State.clearRegs_epochs (s : State) (lo hi : Nat) : (s.clearRegs lo hi).epochs = s.epochs := rfl
@[simp] theorem State.clearRegs_past (s : State) (lo hi : Nat) : (s.clearRegs lo hi).past = s.past := rfl
@[simp] theorem State.clearRegs_early (s : State) (lo hi : Nat) : (s.clearRegs lo hi).early = s.early := rfl
@[simp] theorem State.clearRegs_admitAt (s : State) (lo hi : Nat) : (s.clearRegs lo hi).admitAt = s.admitAt := rfl
@[simp] theorem State.clearRegs_localQ (s : State) (lo hi : Nat) : (s.clearRegs lo hi).localQ = s.localQ := rfl
@[simp] theorem State.clearRegs_talPend (s : State) (lo hi : Nat) : (s.clearRegs lo hi).talPend = s.talPend := rfl
@[simp] theorem State.clearRegs_cairnOut (s : State) (lo hi : Nat) : (s.clearRegs lo hi).cairnOut = s.cairnOut := rfl
@[simp] theorem State.clearRegs_restore (s : State) (lo hi : Nat) : (s.clearRegs lo hi).restore = s.restore := rfl
@[simp] theorem State.clearRegs_storeOp (s : State) (lo hi : Nat) : (s.clearRegs lo hi).storeOp = s.storeOp := rfl
@[simp] theorem State.clearRegs_events (s : State) (lo hi : Nat) : (s.clearRegs lo hi).events = s.events := rfl
@[simp] theorem State.clearRegs_runs (s : State) (lo hi : Nat) : (s.clearRegs lo hi).runs = s.runs := rfl
@[simp] theorem State.clearRegs_sweeps (s : State) (lo hi : Nat) : (s.clearRegs lo hi).sweeps = s.sweeps := rfl
@[simp] theorem State.clearRegs_flash (s : State) (lo hi : Nat) : (s.clearRegs lo hi).flash = s.flash := rfl
@[simp] theorem State.clearRegs_update (s : State) (lo hi : Nat) : (s.clearRegs lo hi).update = s.update := rfl
@[simp] theorem State.clearRegs_reports (s : State) (lo hi : Nat) : (s.clearRegs lo hi).reports = s.reports := rfl
@[simp] theorem State.clearRegs_power (s : State) (lo hi : Nat) : (s.clearRegs lo hi).power = s.power := rfl
@[simp] theorem State.clearRegs_attempt (s : State) (lo hi : Nat) : (s.clearRegs lo hi).attempt = s.attempt := rfl
@[simp] theorem State.clearRegs_started (s : State) (lo hi : Nat) : (s.clearRegs lo hi).started = s.started := rfl
@[simp] theorem State.clearRegs_win (s : State) (lo hi : Nat) : (s.clearRegs lo hi).win = s.win := rfl
@[simp] theorem State.clearRegs_deficit (s : State) (lo hi : Nat) : (s.clearRegs lo hi).deficit = s.deficit := rfl
@[simp] theorem State.clearRegs_sealCost (s : State) (lo hi : Nat) : (s.clearRegs lo hi).sealCost = s.sealCost := rfl
@[simp] theorem State.clearRegs_loadWait (s : State) (lo hi : Nat) : (s.clearRegs lo hi).loadWait = s.loadWait := rfl
@[simp] theorem State.clearRegs_outbox (s : State) (lo hi : Nat) : (s.clearRegs lo hi).outbox = s.outbox := rfl

@[simp] theorem State.setCore_pending (s : State) (k : Nat) (c : Core) : (s.setCore k c).pending = s.pending := rfl
@[simp] theorem State.setCore_free (s : State) (k : Nat) (c : Core) : (s.setCore k c).free = s.free := rfl
@[simp] theorem State.setCore_clock (s : State) (k : Nat) (c : Core) : (s.setCore k c).clock = s.clock := rfl
@[simp] theorem State.setCore_regs (s : State) (k : Nat) (c : Core) : (s.setCore k c).regs = s.regs := rfl
@[simp] theorem State.setCore_mem (s : State) (k : Nat) (c : Core) : (s.setCore k c).mem = s.mem := rfl
@[simp] theorem State.setCore_parts (s : State) (k : Nat) (c : Core) : (s.setCore k c).parts = s.parts := rfl
@[simp] theorem State.setCore_fab (s : State) (k : Nat) (c : Core) : (s.setCore k c).fab = s.fab := rfl
@[simp] theorem State.setCore_fabNext (s : State) (k : Nat) (c : Core) : (s.setCore k c).fabNext = s.fabNext := rfl
@[simp] theorem State.setCore_busy (s : State) (k : Nat) (c : Core) : (s.setCore k c).busy = s.busy := rfl
@[simp] theorem State.setCore_merge (s : State) (k : Nat) (c : Core) : (s.setCore k c).merge = s.merge := rfl
@[simp] theorem State.setCore_grants (s : State) (k : Nat) (c : Core) : (s.setCore k c).grants = s.grants := rfl
@[simp] theorem State.setCore_turns (s : State) (k : Nat) (c : Core) : (s.setCore k c).turns = s.turns := rfl
@[simp] theorem State.setCore_marchAt (s : State) (k : Nat) (c : Core) : (s.setCore k c).marchAt = s.marchAt := rfl
@[simp] theorem State.setCore_pot (s : State) (k : Nat) (c : Core) : (s.setCore k c).pot = s.pot := rfl
@[simp] theorem State.setCore_tally (s : State) (k : Nat) (c : Core) : (s.setCore k c).tally = s.tally := rfl
@[simp] theorem State.setCore_links (s : State) (k : Nat) (c : Core) : (s.setCore k c).links = s.links := rfl
@[simp] theorem State.setCore_scrubRow (s : State) (k : Nat) (c : Core) : (s.setCore k c).scrubRow = s.scrubRow := rfl
@[simp] theorem State.setCore_chans (s : State) (k : Nat) (c : Core) : (s.setCore k c).chans = s.chans := rfl
@[simp] theorem State.setCore_conns (s : State) (k : Nat) (c : Core) : (s.setCore k c).conns = s.conns := rfl
@[simp] theorem State.setCore_connsUsed (s : State) (k : Nat) (c : Core) : (s.setCore k c).connsUsed = s.connsUsed := rfl
@[simp] theorem State.setCore_kept (s : State) (k : Nat) (c : Core) : (s.setCore k c).kept = s.kept := rfl
@[simp] theorem State.setCore_groups (s : State) (k : Nat) (c : Core) : (s.setCore k c).groups = s.groups := rfl
@[simp] theorem State.setCore_groupParts (s : State) (k : Nat) (c : Core) : (s.setCore k c).groupParts = s.groupParts := rfl
@[simp] theorem State.setCore_groupPend (s : State) (k : Nat) (c : Core) : (s.setCore k c).groupPend = s.groupPend := rfl
@[simp] theorem State.setCore_echoes (s : State) (k : Nat) (c : Core) : (s.setCore k c).echoes = s.echoes := rfl
@[simp] theorem State.setCore_assembly (s : State) (k : Nat) (c : Core) : (s.setCore k c).assembly = s.assembly := rfl
@[simp] theorem State.setCore_epochs (s : State) (k : Nat) (c : Core) : (s.setCore k c).epochs = s.epochs := rfl
@[simp] theorem State.setCore_past (s : State) (k : Nat) (c : Core) : (s.setCore k c).past = s.past := rfl
@[simp] theorem State.setCore_early (s : State) (k : Nat) (c : Core) : (s.setCore k c).early = s.early := rfl
@[simp] theorem State.setCore_admitAt (s : State) (k : Nat) (c : Core) : (s.setCore k c).admitAt = s.admitAt := rfl
@[simp] theorem State.setCore_localQ (s : State) (k : Nat) (c : Core) : (s.setCore k c).localQ = s.localQ := rfl
@[simp] theorem State.setCore_talPend (s : State) (k : Nat) (c : Core) : (s.setCore k c).talPend = s.talPend := rfl
@[simp] theorem State.setCore_cairnOut (s : State) (k : Nat) (c : Core) : (s.setCore k c).cairnOut = s.cairnOut := rfl
@[simp] theorem State.setCore_restore (s : State) (k : Nat) (c : Core) : (s.setCore k c).restore = s.restore := rfl
@[simp] theorem State.setCore_storeOp (s : State) (k : Nat) (c : Core) : (s.setCore k c).storeOp = s.storeOp := rfl
@[simp] theorem State.setCore_events (s : State) (k : Nat) (c : Core) : (s.setCore k c).events = s.events := rfl
@[simp] theorem State.setCore_runs (s : State) (k : Nat) (c : Core) : (s.setCore k c).runs = s.runs := rfl
@[simp] theorem State.setCore_sweeps (s : State) (k : Nat) (c : Core) : (s.setCore k c).sweeps = s.sweeps := rfl
@[simp] theorem State.setCore_flash (s : State) (k : Nat) (c : Core) : (s.setCore k c).flash = s.flash := rfl
@[simp] theorem State.setCore_update (s : State) (k : Nat) (c : Core) : (s.setCore k c).update = s.update := rfl
@[simp] theorem State.setCore_reports (s : State) (k : Nat) (c : Core) : (s.setCore k c).reports = s.reports := rfl
@[simp] theorem State.setCore_power (s : State) (k : Nat) (c : Core) : (s.setCore k c).power = s.power := rfl
@[simp] theorem State.setCore_attempt (s : State) (k : Nat) (c : Core) : (s.setCore k c).attempt = s.attempt := rfl
@[simp] theorem State.setCore_started (s : State) (k : Nat) (c : Core) : (s.setCore k c).started = s.started := rfl
@[simp] theorem State.setCore_win (s : State) (k : Nat) (c : Core) : (s.setCore k c).win = s.win := rfl
@[simp] theorem State.setCore_deficit (s : State) (k : Nat) (c : Core) : (s.setCore k c).deficit = s.deficit := rfl
@[simp] theorem State.setCore_sealCost (s : State) (k : Nat) (c : Core) : (s.setCore k c).sealCost = s.sealCost := rfl
@[simp] theorem State.setCore_loadWait (s : State) (k : Nat) (c : Core) : (s.setCore k c).loadWait = s.loadWait := rfl
@[simp] theorem State.setCore_outbox (s : State) (k : Nat) (c : Core) : (s.setCore k c).outbox = s.outbox := rfl

@[simp] theorem State.updCore_pending (s : State) (k : Nat) (f : Core → Core) : (s.updCore k f).pending = s.pending := rfl
@[simp] theorem State.updCore_free (s : State) (k : Nat) (f : Core → Core) : (s.updCore k f).free = s.free := rfl
@[simp] theorem State.updCore_clock (s : State) (k : Nat) (f : Core → Core) : (s.updCore k f).clock = s.clock := rfl
@[simp] theorem State.updCore_regs (s : State) (k : Nat) (f : Core → Core) : (s.updCore k f).regs = s.regs := rfl
@[simp] theorem State.updCore_mem (s : State) (k : Nat) (f : Core → Core) : (s.updCore k f).mem = s.mem := rfl
@[simp] theorem State.updCore_parts (s : State) (k : Nat) (f : Core → Core) : (s.updCore k f).parts = s.parts := rfl
@[simp] theorem State.updCore_fab (s : State) (k : Nat) (f : Core → Core) : (s.updCore k f).fab = s.fab := rfl
@[simp] theorem State.updCore_fabNext (s : State) (k : Nat) (f : Core → Core) : (s.updCore k f).fabNext = s.fabNext := rfl
@[simp] theorem State.updCore_busy (s : State) (k : Nat) (f : Core → Core) : (s.updCore k f).busy = s.busy := rfl
@[simp] theorem State.updCore_merge (s : State) (k : Nat) (f : Core → Core) : (s.updCore k f).merge = s.merge := rfl
@[simp] theorem State.updCore_grants (s : State) (k : Nat) (f : Core → Core) : (s.updCore k f).grants = s.grants := rfl
@[simp] theorem State.updCore_turns (s : State) (k : Nat) (f : Core → Core) : (s.updCore k f).turns = s.turns := rfl
@[simp] theorem State.updCore_marchAt (s : State) (k : Nat) (f : Core → Core) : (s.updCore k f).marchAt = s.marchAt := rfl
@[simp] theorem State.updCore_pot (s : State) (k : Nat) (f : Core → Core) : (s.updCore k f).pot = s.pot := rfl
@[simp] theorem State.updCore_tally (s : State) (k : Nat) (f : Core → Core) : (s.updCore k f).tally = s.tally := rfl
@[simp] theorem State.updCore_links (s : State) (k : Nat) (f : Core → Core) : (s.updCore k f).links = s.links := rfl
@[simp] theorem State.updCore_scrubRow (s : State) (k : Nat) (f : Core → Core) : (s.updCore k f).scrubRow = s.scrubRow := rfl
@[simp] theorem State.updCore_chans (s : State) (k : Nat) (f : Core → Core) : (s.updCore k f).chans = s.chans := rfl
@[simp] theorem State.updCore_conns (s : State) (k : Nat) (f : Core → Core) : (s.updCore k f).conns = s.conns := rfl
@[simp] theorem State.updCore_connsUsed (s : State) (k : Nat) (f : Core → Core) : (s.updCore k f).connsUsed = s.connsUsed := rfl
@[simp] theorem State.updCore_kept (s : State) (k : Nat) (f : Core → Core) : (s.updCore k f).kept = s.kept := rfl
@[simp] theorem State.updCore_groups (s : State) (k : Nat) (f : Core → Core) : (s.updCore k f).groups = s.groups := rfl
@[simp] theorem State.updCore_groupParts (s : State) (k : Nat) (f : Core → Core) : (s.updCore k f).groupParts = s.groupParts := rfl
@[simp] theorem State.updCore_groupPend (s : State) (k : Nat) (f : Core → Core) : (s.updCore k f).groupPend = s.groupPend := rfl
@[simp] theorem State.updCore_echoes (s : State) (k : Nat) (f : Core → Core) : (s.updCore k f).echoes = s.echoes := rfl
@[simp] theorem State.updCore_assembly (s : State) (k : Nat) (f : Core → Core) : (s.updCore k f).assembly = s.assembly := rfl
@[simp] theorem State.updCore_epochs (s : State) (k : Nat) (f : Core → Core) : (s.updCore k f).epochs = s.epochs := rfl
@[simp] theorem State.updCore_past (s : State) (k : Nat) (f : Core → Core) : (s.updCore k f).past = s.past := rfl
@[simp] theorem State.updCore_early (s : State) (k : Nat) (f : Core → Core) : (s.updCore k f).early = s.early := rfl
@[simp] theorem State.updCore_admitAt (s : State) (k : Nat) (f : Core → Core) : (s.updCore k f).admitAt = s.admitAt := rfl
@[simp] theorem State.updCore_localQ (s : State) (k : Nat) (f : Core → Core) : (s.updCore k f).localQ = s.localQ := rfl
@[simp] theorem State.updCore_talPend (s : State) (k : Nat) (f : Core → Core) : (s.updCore k f).talPend = s.talPend := rfl
@[simp] theorem State.updCore_cairnOut (s : State) (k : Nat) (f : Core → Core) : (s.updCore k f).cairnOut = s.cairnOut := rfl
@[simp] theorem State.updCore_restore (s : State) (k : Nat) (f : Core → Core) : (s.updCore k f).restore = s.restore := rfl
@[simp] theorem State.updCore_storeOp (s : State) (k : Nat) (f : Core → Core) : (s.updCore k f).storeOp = s.storeOp := rfl
@[simp] theorem State.updCore_events (s : State) (k : Nat) (f : Core → Core) : (s.updCore k f).events = s.events := rfl
@[simp] theorem State.updCore_runs (s : State) (k : Nat) (f : Core → Core) : (s.updCore k f).runs = s.runs := rfl
@[simp] theorem State.updCore_sweeps (s : State) (k : Nat) (f : Core → Core) : (s.updCore k f).sweeps = s.sweeps := rfl
@[simp] theorem State.updCore_flash (s : State) (k : Nat) (f : Core → Core) : (s.updCore k f).flash = s.flash := rfl
@[simp] theorem State.updCore_update (s : State) (k : Nat) (f : Core → Core) : (s.updCore k f).update = s.update := rfl
@[simp] theorem State.updCore_reports (s : State) (k : Nat) (f : Core → Core) : (s.updCore k f).reports = s.reports := rfl
@[simp] theorem State.updCore_power (s : State) (k : Nat) (f : Core → Core) : (s.updCore k f).power = s.power := rfl
@[simp] theorem State.updCore_attempt (s : State) (k : Nat) (f : Core → Core) : (s.updCore k f).attempt = s.attempt := rfl
@[simp] theorem State.updCore_started (s : State) (k : Nat) (f : Core → Core) : (s.updCore k f).started = s.started := rfl
@[simp] theorem State.updCore_win (s : State) (k : Nat) (f : Core → Core) : (s.updCore k f).win = s.win := rfl
@[simp] theorem State.updCore_deficit (s : State) (k : Nat) (f : Core → Core) : (s.updCore k f).deficit = s.deficit := rfl
@[simp] theorem State.updCore_sealCost (s : State) (k : Nat) (f : Core → Core) : (s.updCore k f).sealCost = s.sealCost := rfl
@[simp] theorem State.updCore_loadWait (s : State) (k : Nat) (f : Core → Core) : (s.updCore k f).loadWait = s.loadWait := rfl
@[simp] theorem State.updCore_outbox (s : State) (k : Nat) (f : Core → Core) : (s.updCore k f).outbox = s.outbox := rfl

@[simp] theorem State.updPart_pending (s : State) (p : Nat) (f : Part → Part) : (s.updPart p f).pending = s.pending := rfl
@[simp] theorem State.updPart_free (s : State) (p : Nat) (f : Part → Part) : (s.updPart p f).free = s.free := rfl
@[simp] theorem State.updPart_clock (s : State) (p : Nat) (f : Part → Part) : (s.updPart p f).clock = s.clock := rfl
@[simp] theorem State.updPart_regs (s : State) (p : Nat) (f : Part → Part) : (s.updPart p f).regs = s.regs := rfl
@[simp] theorem State.updPart_mem (s : State) (p : Nat) (f : Part → Part) : (s.updPart p f).mem = s.mem := rfl
@[simp] theorem State.updPart_cores (s : State) (p : Nat) (f : Part → Part) : (s.updPart p f).cores = s.cores := rfl
@[simp] theorem State.updPart_fab (s : State) (p : Nat) (f : Part → Part) : (s.updPart p f).fab = s.fab := rfl
@[simp] theorem State.updPart_fabNext (s : State) (p : Nat) (f : Part → Part) : (s.updPart p f).fabNext = s.fabNext := rfl
@[simp] theorem State.updPart_busy (s : State) (p : Nat) (f : Part → Part) : (s.updPart p f).busy = s.busy := rfl
@[simp] theorem State.updPart_merge (s : State) (p : Nat) (f : Part → Part) : (s.updPart p f).merge = s.merge := rfl
@[simp] theorem State.updPart_grants (s : State) (p : Nat) (f : Part → Part) : (s.updPart p f).grants = s.grants := rfl
@[simp] theorem State.updPart_turns (s : State) (p : Nat) (f : Part → Part) : (s.updPart p f).turns = s.turns := rfl
@[simp] theorem State.updPart_marchAt (s : State) (p : Nat) (f : Part → Part) : (s.updPart p f).marchAt = s.marchAt := rfl
@[simp] theorem State.updPart_pot (s : State) (p : Nat) (f : Part → Part) : (s.updPart p f).pot = s.pot := rfl
@[simp] theorem State.updPart_tally (s : State) (p : Nat) (f : Part → Part) : (s.updPart p f).tally = s.tally := rfl
@[simp] theorem State.updPart_links (s : State) (p : Nat) (f : Part → Part) : (s.updPart p f).links = s.links := rfl
@[simp] theorem State.updPart_scrubRow (s : State) (p : Nat) (f : Part → Part) : (s.updPart p f).scrubRow = s.scrubRow := rfl
@[simp] theorem State.updPart_chans (s : State) (p : Nat) (f : Part → Part) : (s.updPart p f).chans = s.chans := rfl
@[simp] theorem State.updPart_conns (s : State) (p : Nat) (f : Part → Part) : (s.updPart p f).conns = s.conns := rfl
@[simp] theorem State.updPart_connsUsed (s : State) (p : Nat) (f : Part → Part) : (s.updPart p f).connsUsed = s.connsUsed := rfl
@[simp] theorem State.updPart_kept (s : State) (p : Nat) (f : Part → Part) : (s.updPart p f).kept = s.kept := rfl
@[simp] theorem State.updPart_groups (s : State) (p : Nat) (f : Part → Part) : (s.updPart p f).groups = s.groups := rfl
@[simp] theorem State.updPart_groupParts (s : State) (p : Nat) (f : Part → Part) : (s.updPart p f).groupParts = s.groupParts := rfl
@[simp] theorem State.updPart_groupPend (s : State) (p : Nat) (f : Part → Part) : (s.updPart p f).groupPend = s.groupPend := rfl
@[simp] theorem State.updPart_echoes (s : State) (p : Nat) (f : Part → Part) : (s.updPart p f).echoes = s.echoes := rfl
@[simp] theorem State.updPart_assembly (s : State) (p : Nat) (f : Part → Part) : (s.updPart p f).assembly = s.assembly := rfl
@[simp] theorem State.updPart_epochs (s : State) (p : Nat) (f : Part → Part) : (s.updPart p f).epochs = s.epochs := rfl
@[simp] theorem State.updPart_past (s : State) (p : Nat) (f : Part → Part) : (s.updPart p f).past = s.past := rfl
@[simp] theorem State.updPart_early (s : State) (p : Nat) (f : Part → Part) : (s.updPart p f).early = s.early := rfl
@[simp] theorem State.updPart_admitAt (s : State) (p : Nat) (f : Part → Part) : (s.updPart p f).admitAt = s.admitAt := rfl
@[simp] theorem State.updPart_localQ (s : State) (p : Nat) (f : Part → Part) : (s.updPart p f).localQ = s.localQ := rfl
@[simp] theorem State.updPart_talPend (s : State) (p : Nat) (f : Part → Part) : (s.updPart p f).talPend = s.talPend := rfl
@[simp] theorem State.updPart_cairnOut (s : State) (p : Nat) (f : Part → Part) : (s.updPart p f).cairnOut = s.cairnOut := rfl
@[simp] theorem State.updPart_restore (s : State) (p : Nat) (f : Part → Part) : (s.updPart p f).restore = s.restore := rfl
@[simp] theorem State.updPart_storeOp (s : State) (p : Nat) (f : Part → Part) : (s.updPart p f).storeOp = s.storeOp := rfl
@[simp] theorem State.updPart_events (s : State) (p : Nat) (f : Part → Part) : (s.updPart p f).events = s.events := rfl
@[simp] theorem State.updPart_runs (s : State) (p : Nat) (f : Part → Part) : (s.updPart p f).runs = s.runs := rfl
@[simp] theorem State.updPart_sweeps (s : State) (p : Nat) (f : Part → Part) : (s.updPart p f).sweeps = s.sweeps := rfl
@[simp] theorem State.updPart_flash (s : State) (p : Nat) (f : Part → Part) : (s.updPart p f).flash = s.flash := rfl
@[simp] theorem State.updPart_update (s : State) (p : Nat) (f : Part → Part) : (s.updPart p f).update = s.update := rfl
@[simp] theorem State.updPart_reports (s : State) (p : Nat) (f : Part → Part) : (s.updPart p f).reports = s.reports := rfl
@[simp] theorem State.updPart_power (s : State) (p : Nat) (f : Part → Part) : (s.updPart p f).power = s.power := rfl
@[simp] theorem State.updPart_attempt (s : State) (p : Nat) (f : Part → Part) : (s.updPart p f).attempt = s.attempt := rfl
@[simp] theorem State.updPart_started (s : State) (p : Nat) (f : Part → Part) : (s.updPart p f).started = s.started := rfl
@[simp] theorem State.updPart_win (s : State) (p : Nat) (f : Part → Part) : (s.updPart p f).win = s.win := rfl
@[simp] theorem State.updPart_deficit (s : State) (p : Nat) (f : Part → Part) : (s.updPart p f).deficit = s.deficit := rfl
@[simp] theorem State.updPart_sealCost (s : State) (p : Nat) (f : Part → Part) : (s.updPart p f).sealCost = s.sealCost := rfl
@[simp] theorem State.updPart_loadWait (s : State) (p : Nat) (f : Part → Part) : (s.updPart p f).loadWait = s.loadWait := rfl
@[simp] theorem State.updPart_outbox (s : State) (p : Nat) (f : Part → Part) : (s.updPart p f).outbox = s.outbox := rfl

@[simp] theorem State.emit_pending (s : State) (o : Out) : (s.emit o).pending = s.pending := rfl
@[simp] theorem State.emit_free (s : State) (o : Out) : (s.emit o).free = s.free := rfl
@[simp] theorem State.emit_clock (s : State) (o : Out) : (s.emit o).clock = s.clock := rfl
@[simp] theorem State.emit_regs (s : State) (o : Out) : (s.emit o).regs = s.regs := rfl
@[simp] theorem State.emit_mem (s : State) (o : Out) : (s.emit o).mem = s.mem := rfl
@[simp] theorem State.emit_cores (s : State) (o : Out) : (s.emit o).cores = s.cores := rfl
@[simp] theorem State.emit_parts (s : State) (o : Out) : (s.emit o).parts = s.parts := rfl
@[simp] theorem State.emit_fab (s : State) (o : Out) : (s.emit o).fab = s.fab := rfl
@[simp] theorem State.emit_fabNext (s : State) (o : Out) : (s.emit o).fabNext = s.fabNext := rfl
@[simp] theorem State.emit_busy (s : State) (o : Out) : (s.emit o).busy = s.busy := rfl
@[simp] theorem State.emit_merge (s : State) (o : Out) : (s.emit o).merge = s.merge := rfl
@[simp] theorem State.emit_grants (s : State) (o : Out) : (s.emit o).grants = s.grants := rfl
@[simp] theorem State.emit_turns (s : State) (o : Out) : (s.emit o).turns = s.turns := rfl
@[simp] theorem State.emit_marchAt (s : State) (o : Out) : (s.emit o).marchAt = s.marchAt := rfl
@[simp] theorem State.emit_pot (s : State) (o : Out) : (s.emit o).pot = s.pot := rfl
@[simp] theorem State.emit_tally (s : State) (o : Out) : (s.emit o).tally = s.tally := rfl
@[simp] theorem State.emit_links (s : State) (o : Out) : (s.emit o).links = s.links := rfl
@[simp] theorem State.emit_scrubRow (s : State) (o : Out) : (s.emit o).scrubRow = s.scrubRow := rfl
@[simp] theorem State.emit_chans (s : State) (o : Out) : (s.emit o).chans = s.chans := rfl
@[simp] theorem State.emit_conns (s : State) (o : Out) : (s.emit o).conns = s.conns := rfl
@[simp] theorem State.emit_connsUsed (s : State) (o : Out) : (s.emit o).connsUsed = s.connsUsed := rfl
@[simp] theorem State.emit_kept (s : State) (o : Out) : (s.emit o).kept = s.kept := rfl
@[simp] theorem State.emit_groups (s : State) (o : Out) : (s.emit o).groups = s.groups := rfl
@[simp] theorem State.emit_groupParts (s : State) (o : Out) : (s.emit o).groupParts = s.groupParts := rfl
@[simp] theorem State.emit_groupPend (s : State) (o : Out) : (s.emit o).groupPend = s.groupPend := rfl
@[simp] theorem State.emit_echoes (s : State) (o : Out) : (s.emit o).echoes = s.echoes := rfl
@[simp] theorem State.emit_assembly (s : State) (o : Out) : (s.emit o).assembly = s.assembly := rfl
@[simp] theorem State.emit_epochs (s : State) (o : Out) : (s.emit o).epochs = s.epochs := rfl
@[simp] theorem State.emit_past (s : State) (o : Out) : (s.emit o).past = s.past := rfl
@[simp] theorem State.emit_early (s : State) (o : Out) : (s.emit o).early = s.early := rfl
@[simp] theorem State.emit_admitAt (s : State) (o : Out) : (s.emit o).admitAt = s.admitAt := rfl
@[simp] theorem State.emit_localQ (s : State) (o : Out) : (s.emit o).localQ = s.localQ := rfl
@[simp] theorem State.emit_talPend (s : State) (o : Out) : (s.emit o).talPend = s.talPend := rfl
@[simp] theorem State.emit_cairnOut (s : State) (o : Out) : (s.emit o).cairnOut = s.cairnOut := rfl
@[simp] theorem State.emit_restore (s : State) (o : Out) : (s.emit o).restore = s.restore := rfl
@[simp] theorem State.emit_storeOp (s : State) (o : Out) : (s.emit o).storeOp = s.storeOp := rfl
@[simp] theorem State.emit_events (s : State) (o : Out) : (s.emit o).events = s.events := rfl
@[simp] theorem State.emit_runs (s : State) (o : Out) : (s.emit o).runs = s.runs := rfl
@[simp] theorem State.emit_sweeps (s : State) (o : Out) : (s.emit o).sweeps = s.sweeps := rfl
@[simp] theorem State.emit_flash (s : State) (o : Out) : (s.emit o).flash = s.flash := rfl
@[simp] theorem State.emit_update (s : State) (o : Out) : (s.emit o).update = s.update := rfl
@[simp] theorem State.emit_reports (s : State) (o : Out) : (s.emit o).reports = s.reports := rfl
@[simp] theorem State.emit_power (s : State) (o : Out) : (s.emit o).power = s.power := rfl
@[simp] theorem State.emit_attempt (s : State) (o : Out) : (s.emit o).attempt = s.attempt := rfl
@[simp] theorem State.emit_started (s : State) (o : Out) : (s.emit o).started = s.started := rfl
@[simp] theorem State.emit_win (s : State) (o : Out) : (s.emit o).win = s.win := rfl
@[simp] theorem State.emit_deficit (s : State) (o : Out) : (s.emit o).deficit = s.deficit := rfl
@[simp] theorem State.emit_sealCost (s : State) (o : Out) : (s.emit o).sealCost = s.sealCost := rfl
@[simp] theorem State.emit_loadWait (s : State) (o : Out) : (s.emit o).loadWait = s.loadWait := rfl

@[simp] theorem State.putEpoch_pending (s : State) (e : Epoch) : (s.putEpoch e).pending = s.pending := rfl
@[simp] theorem State.putEpoch_free (s : State) (e : Epoch) : (s.putEpoch e).free = s.free := rfl
@[simp] theorem State.putEpoch_clock (s : State) (e : Epoch) : (s.putEpoch e).clock = s.clock := rfl
@[simp] theorem State.putEpoch_regs (s : State) (e : Epoch) : (s.putEpoch e).regs = s.regs := rfl
@[simp] theorem State.putEpoch_mem (s : State) (e : Epoch) : (s.putEpoch e).mem = s.mem := rfl
@[simp] theorem State.putEpoch_cores (s : State) (e : Epoch) : (s.putEpoch e).cores = s.cores := rfl
@[simp] theorem State.putEpoch_parts (s : State) (e : Epoch) : (s.putEpoch e).parts = s.parts := rfl
@[simp] theorem State.putEpoch_fab (s : State) (e : Epoch) : (s.putEpoch e).fab = s.fab := rfl
@[simp] theorem State.putEpoch_fabNext (s : State) (e : Epoch) : (s.putEpoch e).fabNext = s.fabNext := rfl
@[simp] theorem State.putEpoch_busy (s : State) (e : Epoch) : (s.putEpoch e).busy = s.busy := rfl
@[simp] theorem State.putEpoch_merge (s : State) (e : Epoch) : (s.putEpoch e).merge = s.merge := rfl
@[simp] theorem State.putEpoch_grants (s : State) (e : Epoch) : (s.putEpoch e).grants = s.grants := rfl
@[simp] theorem State.putEpoch_turns (s : State) (e : Epoch) : (s.putEpoch e).turns = s.turns := rfl
@[simp] theorem State.putEpoch_marchAt (s : State) (e : Epoch) : (s.putEpoch e).marchAt = s.marchAt := rfl
@[simp] theorem State.putEpoch_pot (s : State) (e : Epoch) : (s.putEpoch e).pot = s.pot := rfl
@[simp] theorem State.putEpoch_tally (s : State) (e : Epoch) : (s.putEpoch e).tally = s.tally := rfl
@[simp] theorem State.putEpoch_links (s : State) (e : Epoch) : (s.putEpoch e).links = s.links := rfl
@[simp] theorem State.putEpoch_scrubRow (s : State) (e : Epoch) : (s.putEpoch e).scrubRow = s.scrubRow := rfl
@[simp] theorem State.putEpoch_chans (s : State) (e : Epoch) : (s.putEpoch e).chans = s.chans := rfl
@[simp] theorem State.putEpoch_conns (s : State) (e : Epoch) : (s.putEpoch e).conns = s.conns := rfl
@[simp] theorem State.putEpoch_connsUsed (s : State) (e : Epoch) : (s.putEpoch e).connsUsed = s.connsUsed := rfl
@[simp] theorem State.putEpoch_kept (s : State) (e : Epoch) : (s.putEpoch e).kept = s.kept := rfl
@[simp] theorem State.putEpoch_groups (s : State) (e : Epoch) : (s.putEpoch e).groups = s.groups := rfl
@[simp] theorem State.putEpoch_groupParts (s : State) (e : Epoch) : (s.putEpoch e).groupParts = s.groupParts := rfl
@[simp] theorem State.putEpoch_groupPend (s : State) (e : Epoch) : (s.putEpoch e).groupPend = s.groupPend := rfl
@[simp] theorem State.putEpoch_echoes (s : State) (e : Epoch) : (s.putEpoch e).echoes = s.echoes := rfl
@[simp] theorem State.putEpoch_assembly (s : State) (e : Epoch) : (s.putEpoch e).assembly = s.assembly := rfl
@[simp] theorem State.putEpoch_past (s : State) (e : Epoch) : (s.putEpoch e).past = s.past := rfl
@[simp] theorem State.putEpoch_early (s : State) (e : Epoch) : (s.putEpoch e).early = s.early := rfl
@[simp] theorem State.putEpoch_admitAt (s : State) (e : Epoch) : (s.putEpoch e).admitAt = s.admitAt := rfl
@[simp] theorem State.putEpoch_localQ (s : State) (e : Epoch) : (s.putEpoch e).localQ = s.localQ := rfl
@[simp] theorem State.putEpoch_talPend (s : State) (e : Epoch) : (s.putEpoch e).talPend = s.talPend := rfl
@[simp] theorem State.putEpoch_cairnOut (s : State) (e : Epoch) : (s.putEpoch e).cairnOut = s.cairnOut := rfl
@[simp] theorem State.putEpoch_restore (s : State) (e : Epoch) : (s.putEpoch e).restore = s.restore := rfl
@[simp] theorem State.putEpoch_storeOp (s : State) (e : Epoch) : (s.putEpoch e).storeOp = s.storeOp := rfl
@[simp] theorem State.putEpoch_events (s : State) (e : Epoch) : (s.putEpoch e).events = s.events := rfl
@[simp] theorem State.putEpoch_runs (s : State) (e : Epoch) : (s.putEpoch e).runs = s.runs := rfl
@[simp] theorem State.putEpoch_sweeps (s : State) (e : Epoch) : (s.putEpoch e).sweeps = s.sweeps := rfl
@[simp] theorem State.putEpoch_flash (s : State) (e : Epoch) : (s.putEpoch e).flash = s.flash := rfl
@[simp] theorem State.putEpoch_update (s : State) (e : Epoch) : (s.putEpoch e).update = s.update := rfl
@[simp] theorem State.putEpoch_reports (s : State) (e : Epoch) : (s.putEpoch e).reports = s.reports := rfl
@[simp] theorem State.putEpoch_power (s : State) (e : Epoch) : (s.putEpoch e).power = s.power := rfl
@[simp] theorem State.putEpoch_attempt (s : State) (e : Epoch) : (s.putEpoch e).attempt = s.attempt := rfl
@[simp] theorem State.putEpoch_started (s : State) (e : Epoch) : (s.putEpoch e).started = s.started := rfl
@[simp] theorem State.putEpoch_win (s : State) (e : Epoch) : (s.putEpoch e).win = s.win := rfl
@[simp] theorem State.putEpoch_deficit (s : State) (e : Epoch) : (s.putEpoch e).deficit = s.deficit := rfl
@[simp] theorem State.putEpoch_sealCost (s : State) (e : Epoch) : (s.putEpoch e).sealCost = s.sealCost := rfl
@[simp] theorem State.putEpoch_loadWait (s : State) (e : Epoch) : (s.putEpoch e).loadWait = s.loadWait := rfl
@[simp] theorem State.putEpoch_outbox (s : State) (e : Epoch) : (s.putEpoch e).outbox = s.outbox := rfl

@[simp] theorem State.unitEvent_pending (s : State) (u k d : Nat) : (s.unitEvent u k d).pending = s.pending := rfl
@[simp] theorem State.unitEvent_free (s : State) (u k d : Nat) : (s.unitEvent u k d).free = s.free := rfl
@[simp] theorem State.unitEvent_clock (s : State) (u k d : Nat) : (s.unitEvent u k d).clock = s.clock := rfl
@[simp] theorem State.unitEvent_regs (s : State) (u k d : Nat) : (s.unitEvent u k d).regs = s.regs := rfl
@[simp] theorem State.unitEvent_mem (s : State) (u k d : Nat) : (s.unitEvent u k d).mem = s.mem := rfl
@[simp] theorem State.unitEvent_cores (s : State) (u k d : Nat) : (s.unitEvent u k d).cores = s.cores := rfl
@[simp] theorem State.unitEvent_parts (s : State) (u k d : Nat) : (s.unitEvent u k d).parts = s.parts := rfl
@[simp] theorem State.unitEvent_fab (s : State) (u k d : Nat) : (s.unitEvent u k d).fab = s.fab := rfl
@[simp] theorem State.unitEvent_fabNext (s : State) (u k d : Nat) : (s.unitEvent u k d).fabNext = s.fabNext := rfl
@[simp] theorem State.unitEvent_busy (s : State) (u k d : Nat) : (s.unitEvent u k d).busy = s.busy := rfl
@[simp] theorem State.unitEvent_merge (s : State) (u k d : Nat) : (s.unitEvent u k d).merge = s.merge := rfl
@[simp] theorem State.unitEvent_grants (s : State) (u k d : Nat) : (s.unitEvent u k d).grants = s.grants := rfl
@[simp] theorem State.unitEvent_turns (s : State) (u k d : Nat) : (s.unitEvent u k d).turns = s.turns := rfl
@[simp] theorem State.unitEvent_marchAt (s : State) (u k d : Nat) : (s.unitEvent u k d).marchAt = s.marchAt := rfl
@[simp] theorem State.unitEvent_pot (s : State) (u k d : Nat) : (s.unitEvent u k d).pot = s.pot := rfl
@[simp] theorem State.unitEvent_tally (s : State) (u k d : Nat) : (s.unitEvent u k d).tally = s.tally := rfl
@[simp] theorem State.unitEvent_links (s : State) (u k d : Nat) : (s.unitEvent u k d).links = s.links := rfl
@[simp] theorem State.unitEvent_scrubRow (s : State) (u k d : Nat) : (s.unitEvent u k d).scrubRow = s.scrubRow := rfl
@[simp] theorem State.unitEvent_chans (s : State) (u k d : Nat) : (s.unitEvent u k d).chans = s.chans := rfl
@[simp] theorem State.unitEvent_conns (s : State) (u k d : Nat) : (s.unitEvent u k d).conns = s.conns := rfl
@[simp] theorem State.unitEvent_connsUsed (s : State) (u k d : Nat) : (s.unitEvent u k d).connsUsed = s.connsUsed := rfl
@[simp] theorem State.unitEvent_kept (s : State) (u k d : Nat) : (s.unitEvent u k d).kept = s.kept := rfl
@[simp] theorem State.unitEvent_groups (s : State) (u k d : Nat) : (s.unitEvent u k d).groups = s.groups := rfl
@[simp] theorem State.unitEvent_groupParts (s : State) (u k d : Nat) : (s.unitEvent u k d).groupParts = s.groupParts := rfl
@[simp] theorem State.unitEvent_groupPend (s : State) (u k d : Nat) : (s.unitEvent u k d).groupPend = s.groupPend := rfl
@[simp] theorem State.unitEvent_echoes (s : State) (u k d : Nat) : (s.unitEvent u k d).echoes = s.echoes := rfl
@[simp] theorem State.unitEvent_assembly (s : State) (u k d : Nat) : (s.unitEvent u k d).assembly = s.assembly := rfl
@[simp] theorem State.unitEvent_epochs (s : State) (u k d : Nat) : (s.unitEvent u k d).epochs = s.epochs := rfl
@[simp] theorem State.unitEvent_past (s : State) (u k d : Nat) : (s.unitEvent u k d).past = s.past := rfl
@[simp] theorem State.unitEvent_early (s : State) (u k d : Nat) : (s.unitEvent u k d).early = s.early := rfl
@[simp] theorem State.unitEvent_admitAt (s : State) (u k d : Nat) : (s.unitEvent u k d).admitAt = s.admitAt := rfl
@[simp] theorem State.unitEvent_localQ (s : State) (u k d : Nat) : (s.unitEvent u k d).localQ = s.localQ := rfl
@[simp] theorem State.unitEvent_talPend (s : State) (u k d : Nat) : (s.unitEvent u k d).talPend = s.talPend := rfl
@[simp] theorem State.unitEvent_cairnOut (s : State) (u k d : Nat) : (s.unitEvent u k d).cairnOut = s.cairnOut := rfl
@[simp] theorem State.unitEvent_restore (s : State) (u k d : Nat) : (s.unitEvent u k d).restore = s.restore := rfl
@[simp] theorem State.unitEvent_storeOp (s : State) (u k d : Nat) : (s.unitEvent u k d).storeOp = s.storeOp := rfl
@[simp] theorem State.unitEvent_runs (s : State) (u k d : Nat) : (s.unitEvent u k d).runs = s.runs := rfl
@[simp] theorem State.unitEvent_sweeps (s : State) (u k d : Nat) : (s.unitEvent u k d).sweeps = s.sweeps := rfl
@[simp] theorem State.unitEvent_flash (s : State) (u k d : Nat) : (s.unitEvent u k d).flash = s.flash := rfl
@[simp] theorem State.unitEvent_update (s : State) (u k d : Nat) : (s.unitEvent u k d).update = s.update := rfl
@[simp] theorem State.unitEvent_reports (s : State) (u k d : Nat) : (s.unitEvent u k d).reports = s.reports := rfl
@[simp] theorem State.unitEvent_power (s : State) (u k d : Nat) : (s.unitEvent u k d).power = s.power := rfl
@[simp] theorem State.unitEvent_attempt (s : State) (u k d : Nat) : (s.unitEvent u k d).attempt = s.attempt := rfl
@[simp] theorem State.unitEvent_started (s : State) (u k d : Nat) : (s.unitEvent u k d).started = s.started := rfl
@[simp] theorem State.unitEvent_win (s : State) (u k d : Nat) : (s.unitEvent u k d).win = s.win := rfl
@[simp] theorem State.unitEvent_deficit (s : State) (u k d : Nat) : (s.unitEvent u k d).deficit = s.deficit := rfl
@[simp] theorem State.unitEvent_sealCost (s : State) (u k d : Nat) : (s.unitEvent u k d).sealCost = s.sealCost := rfl
@[simp] theorem State.unitEvent_loadWait (s : State) (u k d : Nat) : (s.unitEvent u k d).loadWait = s.loadWait := rfl
@[simp] theorem State.unitEvent_outbox (s : State) (u k d : Nat) : (s.unitEvent u k d).outbox = s.outbox := rfl

end Sys2Proof.Machine
end

