-- ==== Sys2Proof/Laws/Regs.lean ====
section
/-! SUPPORT. Registers, cores and partitions: what each reads as after an update. -/

namespace Sys2Proof.Machine

/-! ### Registers -/

/-- A register reads the word written, modulo 2^64. -/
@[simp] theorem State.reg_setReg_self (s : State) (a v : Nat) : (s.setReg a v).reg a = v % 2 ^ 64 := by
  simp only [State.reg, State.setReg]
  split
  · rename_i h
    split at h
    · rename_i w hr; rw [Tab.find_del_self] at h; cases h
    · rw [Tab.find_put_self] at h; cases h; simp
  · rename_i h
    split at h
    · rename_i hr; exact hr.symm
    · rw [Tab.find_put_self] at h; cases h

/-- Writing one register leaves every other. -/
theorem State.reg_setReg_ne (s : State) {a b : Nat} (v : Nat) (h : b ≠ a) : (s.setReg a v).reg b = s.reg b := by
  simp only [State.reg, State.setReg]
  split <;> rename_i h' <;> split at h' <;>
    simp only [Tab.find_del_ne _ h, Tab.find_put_ne _ _ h] at h' <;> simp [h']

theorem State.reg_setFld_ne (s : State) {a b : Nat} (hi lo v : Nat) (h : b ≠ a) : (s.setFld a hi lo v).reg b = s.reg b :=
  State.reg_setReg_ne _ _ h

theorem State.reg_addFld_ne (s : State) {a b : Nat} (hi lo v : Nat) (h : b ≠ a) : (s.addFld a hi lo v).reg b = s.reg b :=
  State.reg_setReg_ne _ _ h

theorem State.reg_maxFld_ne (s : State) {a b : Nat} (hi lo v : Nat) (h : b ≠ a) : (s.maxFld a hi lo v).reg b = s.reg b :=
  State.reg_setReg_ne _ _ h

/-- A register holds 64 bits. -/
theorem resetWord_reg_lt (s : State) (a : Nat) (h : resetWord a < 2 ^ 64) : s.reg a < 2 ^ 64 := by
  simp only [State.reg]
  split
  · rename_i w _; exact w.isLt
  · exact h

/-- A field reads the low bits of the value written. -/
theorem State.fld_setFld_self (s : State) (a hi lo v : Nat) (h : lo ≤ hi) (h64 : hi < 64) :
    (s.setFld a hi lo v).fld a hi lo = v % 2 ^ (hi + 1 - lo) := by
  simp only [State.fld, State.setFld, State.reg_setReg_self]
  have : bits (setBits (s.reg a) hi lo v % 2 ^ 64) hi lo = bits (setBits (s.reg a) hi lo v) hi lo := by
    apply Nat.eq_of_testBit_eq
    intro i
    simp only [bits_testBit, Nat.testBit_mod_two_pow]
    by_cases hi' : i < hi + 1 - lo
    · simp [hi', show lo + i < 64 by omega]
    · simp [hi']
  rw [this, bits_setBits_self _ _ _ _ h]

/-- A field disjoint from the one written keeps its value. -/
theorem State.fld_setFld_ne (s : State) (a hi lo v h2 l2 : Nat) (h : lo ≤ hi) (h64 : h2 < 64) (hd : h2 < lo ∨ hi < l2) :
    (s.setFld a hi lo v).fld a h2 l2 = s.fld a h2 l2 := by
  simp only [State.fld, State.setFld, State.reg_setReg_self]
  have : bits (setBits (s.reg a) hi lo v % 2 ^ 64) h2 l2 = bits (setBits (s.reg a) hi lo v) h2 l2 := by
    apply Nat.eq_of_testBit_eq
    intro i
    simp only [bits_testBit, Nat.testBit_mod_two_pow]
    by_cases hi' : i < h2 + 1 - l2
    · simp [hi', show l2 + i < 64 by omega]
    · simp [hi']
  rw [this, bits_setBits_ne _ _ _ _ _ _ h hd]

/-- A field of another register keeps its value. -/
theorem State.fld_setFld_other (s : State) {a b : Nat} (hi lo v h2 l2 : Nat) (h : b ≠ a) :
    (s.setFld a hi lo v).fld b h2 l2 = s.fld b h2 l2 := by
  simp only [State.fld, State.reg_setFld_ne _ _ _ _ h]

theorem State.fld_setReg_other (s : State) {a b : Nat} (v h2 l2 : Nat) (h : b ≠ a) :
    (s.setReg a v).fld b h2 l2 = s.fld b h2 l2 := by
  simp only [State.fld, State.reg_setReg_ne _ _ h]

/-- A counter field saturates (00 R12). -/
theorem State.fld_addFld_self (s : State) (a hi lo n : Nat) (h : lo ≤ hi) (h64 : hi < 64) :
    (s.addFld a hi lo n).fld a hi lo = min (s.fld a hi lo + n) (2 ^ (hi + 1 - lo) - 1) := by
  rw [State.addFld, State.fld_setFld_self _ _ _ _ _ h h64]
  exact Nat.mod_eq_of_lt (by have : 0 < 2 ^ (hi + 1 - lo) := by positivity
                             simp only [satN]; omega)

@[simp] theorem State.reg_setCore (s : State) (k : Nat) (c : Core) (a : Nat) : (s.setCore k c).reg a = s.reg a := rfl
@[simp] theorem State.reg_updCore (s : State) (k : Nat) (f : Core → Core) (a : Nat) : (s.updCore k f).reg a = s.reg a := rfl
@[simp] theorem State.reg_updPart (s : State) (p : Nat) (f : Part → Part) (a : Nat) : (s.updPart p f).reg a = s.reg a := rfl
@[simp] theorem State.fld_setCore (s : State) (k : Nat) (c : Core) (a hi lo : Nat) : (s.setCore k c).fld a hi lo = s.fld a hi lo := rfl
@[simp] theorem State.fld_updCore (s : State) (k : Nat) (f : Core → Core) (a hi lo : Nat) : (s.updCore k f).fld a hi lo = s.fld a hi lo := rfl
@[simp] theorem State.fld_updPart (s : State) (p : Nat) (f : Part → Part) (a hi lo : Nat) : (s.updPart p f).fld a hi lo = s.fld a hi lo := rfl

/-! ### Cores and partitions -/

@[simp] theorem State.core_setCore_self (s : State) (k : Nat) (c : Core) : (s.setCore k c).core k = c := by
  simp [State.core, State.setCore]

theorem State.core_setCore_ne (s : State) {k j : Nat} (c : Core) (h : j ≠ k) : (s.setCore k c).core j = s.core j := by
  simp only [State.core, State.setCore, Tab.get_put_ne _ _ _ h]

@[simp] theorem State.core_updCore_self (s : State) (k : Nat) (f : Core → Core) : (s.updCore k f).core k = f (s.core k) :=
  State.core_setCore_self _ _ _

theorem State.core_updCore_ne (s : State) {k j : Nat} (f : Core → Core) (h : j ≠ k) : (s.updCore k f).core j = s.core j :=
  State.core_setCore_ne _ _ h

@[simp] theorem State.setCore_setCore (s : State) (k : Nat) (c d : Core) : (s.setCore k c).setCore k d = s.setCore k d := by
  simp [State.setCore]

@[simp] theorem State.setCore_updCore (s : State) (k : Nat) (f : Core → Core) (d : Core) : (s.updCore k f).setCore k d = s.setCore k d :=
  State.setCore_setCore _ _ _ _

@[simp] theorem State.updCore_setCore (s : State) (k : Nat) (c : Core) (f : Core → Core) : (s.setCore k c).updCore k f = s.setCore k (f c) := by
  simp [State.updCore]

@[simp] theorem State.updCore_updCore (s : State) (k : Nat) (f g : Core → Core) : (s.updCore k f).updCore k g = s.updCore k (fun c => g (f c)) := by
  simp [State.updCore]

@[simp] theorem State.core_setReg (s : State) (a v k : Nat) : (s.setReg a v).core k = s.core k := rfl
@[simp] theorem State.core_setFld (s : State) (a hi lo v k : Nat) : (s.setFld a hi lo v).core k = s.core k := rfl
@[simp] theorem State.core_addFld (s : State) (a hi lo v k : Nat) : (s.addFld a hi lo v).core k = s.core k := rfl
@[simp] theorem State.core_updPart (s : State) (p : Nat) (f : Part → Part) (k : Nat) : (s.updPart p f).core k = s.core k := rfl

@[simp] theorem State.part_updPart_self (s : State) (p : Nat) (f : Part → Part) : (s.updPart p f).part p = f (s.part p) := by
  simp [State.part, State.updPart]

theorem State.part_updPart_ne (s : State) {p q : Nat} (f : Part → Part) (h : q ≠ p) : (s.updPart p f).part q = s.part q := by
  simp only [State.part, State.updPart, Tab.get_put_ne _ _ _ h]

@[simp] theorem State.part_setReg (s : State) (a v p : Nat) : (s.setReg a v).part p = s.part p := rfl
@[simp] theorem State.part_setFld (s : State) (a hi lo v p : Nat) : (s.setFld a hi lo v).part p = s.part p := rfl
@[simp] theorem State.part_addFld (s : State) (a hi lo v p : Nat) : (s.addFld a hi lo v).part p = s.part p := rfl
@[simp] theorem State.part_setCore (s : State) (k : Nat) (c : Core) (p : Nat) : (s.setCore k c).part p = s.part p := rfl
@[simp] theorem State.part_updCore (s : State) (k : Nat) (f : Core → Core) (p : Nat) : (s.updCore k f).part p = s.part p := rfl

@[simp] theorem State.phys_setCore (s : State) (k : Nat) (c : Core) (l : Nat) : (s.setCore k c).phys l = s.phys l := rfl
@[simp] theorem State.phys_updCore (s : State) (k : Nat) (f : Core → Core) (l : Nat) : (s.updCore k f).phys l = s.phys l := rfl
@[simp] theorem State.phys_updPart (s : State) (p : Nat) (f : Part → Part) (l : Nat) : (s.updPart p f).phys l = s.phys l := rfl
@[simp] theorem State.partOf_setCore (s : State) (k : Nat) (c : Core) (l : Nat) : (s.setCore k c).partOf l = s.partOf l := rfl
@[simp] theorem State.partOf_updCore (s : State) (k : Nat) (f : Core → Core) (l : Nat) : (s.updCore k f).partOf l = s.partOf l := rfl
@[simp] theorem State.partOf_setReg (s : State) (a v l : Nat) : (s.setReg a v).partOf l = s.partOf l := rfl

end Sys2Proof.Machine
end

