-- ==== Sys2Proof/Laws/Keeps.lean ====
section
/-! SUPPORT. What no command undoes: the relation `Keeps`, its closure under the forms meanings are built of, and the updates of memory, registers and flash that meanings make. Every other file named Keeps gives one lemma for each operation over the state. -/

namespace Sys2Proof.Machine

@[refl] theorem Keeps.refl (s : State) : Keeps s s := ⟨id, id, id, Nat.le_refl _, Nat.le_refl _⟩

@[trans] theorem Keeps.trans {s t u : State} (h : Keeps s t) (g : Keeps t u) : Keeps s u :=
  ⟨g.mem ∘ h.mem, g.regs ∘ h.regs, g.floor ∘ h.floor, h.floorUp.trans g.floorUp, h.kseqUp.trans g.kseqUp⟩

/-- The invariant is kept by what `Keeps`. -/
theorem Keeps.inv {s t : State} (h : Keeps s t) (i : s.Inv) : t.Inv := ⟨h.mem i.1, h.regs i.2.1, h.floor i.2.2⟩

theorem Keeps.ite {s0 a b : State} {c : Prop} [Decidable c] (ha : Keeps s0 a) (hb : Keeps s0 b) :
    Keeps s0 (if c then a else b) := by
  split <;> assumption

/-- A state that a step of the way reaches. -/
theorem Keeps.cut {s0 t : State} (x : State) (hx : Keeps s0 x) (hb : Keeps s0 x → Keeps s0 t) : Keeps s0 t := hb hx

/-- The state of a pair. -/
theorem Keeps.snd {α : Type} {s0 t : State} {a : α} {p : α × State} (e : p = (a, t)) (h : Keeps s0 p.2) : Keeps s0 t := by
  subst e; exact h

/-- The state of a pair that begins with it. -/
theorem Keeps.fst {α : Type} {s0 t : State} {a : α} {p : State × α} (e : p = (t, a)) (h : Keeps s0 p.1) : Keeps s0 t := by
  subst e; exact h

theorem Keeps.foldl {α : Type} {s0 s : State} {g : State → α → State} {l : List α} (h : Keeps s0 s)
    (hg : ∀ s a, Keeps s (g s a)) : Keeps s0 (l.foldl g s) := by
  induction l generalizing s with
  | nil => exact h
  | cons a r ih => exact ih (h.trans (hg s a))

theorem Keeps.pairFold {α β : Type} {σ : State} {g : β × State → α → β × State} {l : List α} {x : β × State} (h : Keeps σ x.2)
    (hg : ∀ x a, Keeps σ x.2 → Keeps σ (g x a).2) : Keeps σ (l.foldl g x).2 := by
  induction l generalizing x with
  | nil => exact h
  | cons a r ih => exact ih (hg _ _ h)

theorem Keeps.getD {σ a : State} {o : Option State} (ho : ∀ t, o = some t → Keeps σ t) (h : Keeps σ a) : Keeps σ (o.getD a) := by
  cases o with
  | none => exact h
  | some t => exact ho t rfl

theorem guardWf_keeps {s0 s t : State} {ok : Bool} {f : State → State} (e : guardWf ok s f = .next t) (h : Keeps s0 (f s)) :
    Keeps s0 t := by
  unfold guardWf at e
  split at e
  · cases e; exact h
  · cases e

/-- An update of neither memory, registers nor flash. -/
theorem Keeps.mk_rest {s0 s : State}
    (pending : List Instr) (free : Nat) (clock : Clock) (cores : Tab Core) (parts : Tab Part) (fab : List FabReq) (fabNext : Nat)
    (busy : Tab Nat) (merge : Tab Nat) (grants : Tab Nat) (turns : Tab Nat) (marchAt : Tab Nat) (pot : Tab PotWord) (tally : List Batch)
    (links : Tab Link) (scrubRow : Tab Nat) (chans : Tab Chan) (conns : Tab Conn) (connsUsed : List Nat) (kept : List Kept)
    (groups : Tab Group) (groupParts : Tab Group) (groupPend : Tab Group) (echoes : List Nat) (assembly : Option Assembly)
    (epochs : Tab Epoch) (past : List (Nat × EpName × List Byte)) (early : List Waiting) (admitAt : Tab Nat) (localQ : List Msg)
    (talPend : Tab Nat) (cairnOut : Option CairnOut) (restore : Option Restore) (storeOp : Option StoreOp) (events : List UEvent)
    (runs : List Run) (sweeps : List Nat) (update : Option Update) (reports : List (List Byte × List Byte)) (power : Power) (attempt : Nat)
    (started : Bool) (win : Tab Nat) (deficit : Tab Nat) (sealCost : Option Nat) (loadWait : Option LoadWait) (outbox : List Out)
    (h : Keeps s0 s) :
    Keeps s0 ⟨
      pending, free, clock, s.regs, s.mem, cores, parts, fab, fabNext, busy, merge, grants, turns, marchAt, pot, tally, links, scrubRow,
      chans, conns, connsUsed, kept, groups, groupParts, groupPend, echoes, assembly, epochs, past, early, admitAt, localQ, talPend,
      cairnOut, restore, storeOp, events, runs, sweeps, s.flash, update, reports, power, attempt, started, win, deficit, sealCost,
      loadWait, outbox⟩ :=
  ⟨h.mem, h.regs, h.floor, h.floorUp, h.kseqUp⟩

/-- An update of memory. -/
theorem Keeps.mk_mem {s0 s : State}
    (pending : List Instr) (free : Nat) (clock : Clock) (cores : Tab Core) (parts : Tab Part) (fab : List FabReq) (fabNext : Nat)
    (busy : Tab Nat) (merge : Tab Nat) (grants : Tab Nat) (turns : Tab Nat) (marchAt : Tab Nat) (pot : Tab PotWord) (tally : List Batch)
    (links : Tab Link) (scrubRow : Tab Nat) (chans : Tab Chan) (conns : Tab Conn) (connsUsed : List Nat) (kept : List Kept)
    (groups : Tab Group) (groupParts : Tab Group) (groupPend : Tab Group) (echoes : List Nat) (assembly : Option Assembly)
    (epochs : Tab Epoch) (past : List (Nat × EpName × List Byte)) (early : List Waiting) (admitAt : Tab Nat) (localQ : List Msg)
    (talPend : Tab Nat) (cairnOut : Option CairnOut) (restore : Option Restore) (storeOp : Option StoreOp) (events : List UEvent)
    (runs : List Run) (sweeps : List Nat) (update : Option Update) (reports : List (List Byte × List Byte)) (power : Power) (attempt : Nat)
    (started : Bool) (win : Tab Nat) (deficit : Tab Nat) (sealCost : Option Nat) (loadWait : Option LoadWait) (outbox : List Out)
    (mem : Memory)
    (h : Keeps s0 s) (hm : s.mem.wf → mem.wf) :
    Keeps s0 ⟨
      pending, free, clock, s.regs, mem, cores, parts, fab, fabNext, busy, merge, grants, turns, marchAt, pot, tally, links, scrubRow,
      chans, conns, connsUsed, kept, groups, groupParts, groupPend, echoes, assembly, epochs, past, early, admitAt, localQ, talPend,
      cairnOut, restore, storeOp, events, runs, sweeps, s.flash, update, reports, power, attempt, started, win, deficit, sealCost,
      loadWait, outbox⟩ :=
  ⟨hm ∘ h.mem, h.regs, h.floor, h.floorUp, h.kseqUp⟩

/-- An update of flash that leaves the SVN floor and the key store number. -/
theorem Keeps.mk_flash {s0 s : State}
    (pending : List Instr) (free : Nat) (clock : Clock) (cores : Tab Core) (parts : Tab Part) (fab : List FabReq) (fabNext : Nat)
    (busy : Tab Nat) (merge : Tab Nat) (grants : Tab Nat) (turns : Tab Nat) (marchAt : Tab Nat) (pot : Tab PotWord) (tally : List Batch)
    (links : Tab Link) (scrubRow : Tab Nat) (chans : Tab Chan) (conns : Tab Conn) (connsUsed : List Nat) (kept : List Kept)
    (groups : Tab Group) (groupParts : Tab Group) (groupPend : Tab Group) (echoes : List Nat) (assembly : Option Assembly)
    (epochs : Tab Epoch) (past : List (Nat × EpName × List Byte)) (early : List Waiting) (admitAt : Tab Nat) (localQ : List Msg)
    (talPend : Tab Nat) (cairnOut : Option CairnOut) (restore : Option Restore) (storeOp : Option StoreOp) (events : List UEvent)
    (runs : List Run) (sweeps : List Nat) (update : Option Update) (reports : List (List Byte × List Byte)) (power : Power) (attempt : Nat)
    (started : Bool) (win : Tab Nat) (deficit : Tab Nat) (sealCost : Option Nat) (loadWait : Option LoadWait) (outbox : List Out)
    (flash : Flash)
    (h : Keeps s0 s) (h1 : flash.svnFloor = s.flash.svnFloor) (h2 : flash.kseq = s.flash.kseq) :
    Keeps s0 ⟨
      pending, free, clock, s.regs, s.mem, cores, parts, fab, fabNext, busy, merge, grants, turns, marchAt, pot, tally, links, scrubRow,
      chans, conns, connsUsed, kept, groups, groupParts, groupPend, echoes, assembly, epochs, past, early, admitAt, localQ, talPend,
      cairnOut, restore, storeOp, events, runs, sweeps, flash, update, reports, power, attempt, started, win, deficit, sealCost, loadWait,
      outbox⟩ :=
  ⟨h.mem, h.regs, fun x => h1 ▸ h.floor x, Nat.le_trans h.floorUp (Nat.le_of_eq h1.symm), Nat.le_trans h.kseqUp (Nat.le_of_eq h2.symm)⟩

/-- A reset of the registers. -/
theorem Keeps.mk_reset {s0 s : State}
    (pending : List Instr) (free : Nat) (clock : Clock) (cores : Tab Core) (parts : Tab Part) (fab : List FabReq) (fabNext : Nat)
    (busy : Tab Nat) (merge : Tab Nat) (grants : Tab Nat) (turns : Tab Nat) (marchAt : Tab Nat) (pot : Tab PotWord) (tally : List Batch)
    (links : Tab Link) (scrubRow : Tab Nat) (chans : Tab Chan) (conns : Tab Conn) (connsUsed : List Nat) (kept : List Kept)
    (groups : Tab Group) (groupParts : Tab Group) (groupPend : Tab Group) (echoes : List Nat) (assembly : Option Assembly)
    (epochs : Tab Epoch) (past : List (Nat × EpName × List Byte)) (early : List Waiting) (admitAt : Tab Nat) (localQ : List Msg)
    (talPend : Tab Nat) (cairnOut : Option CairnOut) (restore : Option Restore) (storeOp : Option StoreOp) (events : List UEvent)
    (runs : List Run) (sweeps : List Nat) (update : Option Update) (reports : List (List Byte × List Byte)) (power : Power) (attempt : Nat)
    (started : Bool) (win : Tab Nat) (deficit : Tab Nat) (sealCost : Option Nat) (loadWait : Option LoadWait) (outbox : List Out)
    (regs : Tab Word64) (mem : Memory)
    (h : Keeps s0 s) (hm : s.mem.wf → mem.wf) (hr : regs = []) :
    Keeps s0 ⟨
      pending, free, clock, regs, mem, cores, parts, fab, fabNext, busy, merge, grants, turns, marchAt, pot, tally, links, scrubRow, chans,
      conns, connsUsed, kept, groups, groupParts, groupPend, echoes, assembly, epochs, past, early, admitAt, localQ, talPend, cairnOut,
      restore, storeOp, events, runs, sweeps, s.flash, update, reports, power, attempt, started, win, deficit, sealCost, loadWait, outbox⟩ :=
  ⟨hm ∘ h.mem, fun _ => by subst hr; exact ⟨List.Pairwise.nil, by simp⟩, h.floor, h.floorUp, h.kseqUp⟩

theorem State.setReg_keeps {s0 s : State} (a v : Nat) (h : Keeps s0 s) : Keeps s0 (s.setReg a v) := by
  refine ⟨h.mem, fun x => ?_, h.floor, h.floorUp, h.kseqUp⟩
  obtain ⟨hr, hn⟩ := h.regs x
  unfold State.setReg State.regsWf
  simp only
  split
  · exact ⟨Tab.rising_del _ hr, fun e he => hn e (List.mem_of_mem_filter he)⟩
  · refine ⟨Tab.rising_put _ _ hr, fun e he => ?_⟩
    rcases Tab.mem_put he with rfl | he
    · simpa using ‹_›
    · exact hn e he

theorem State.setFld_keeps {s0 s : State} (a hi lo v : Nat) (h : Keeps s0 s) : Keeps s0 (s.setFld a hi lo v) := State.setReg_keeps _ _ h

theorem State.addFld_keeps {s0 s : State} (a hi lo v : Nat) (h : Keeps s0 s) : Keeps s0 (s.addFld a hi lo v) := State.setReg_keeps _ _ h

theorem State.maxFld_keeps {s0 s : State} (a hi lo v : Nat) (h : Keeps s0 s) : Keeps s0 (s.maxFld a hi lo v) := State.setReg_keeps _ _ h

theorem State.clearRegs_keeps {s0 s : State} (lo hi : Nat) (h : Keeps s0 s) : Keeps s0 (s.clearRegs lo hi) := by
  refine ⟨h.mem, fun x => ?_, h.floor, h.floorUp, h.kseqUp⟩
  obtain ⟨hr, hn⟩ := h.regs x
  exact ⟨Tab.rising_drop (fun a => decide (lo ≤ a ∧ a < hi)) hr, fun e he => hn e (List.mem_of_mem_filter he)⟩

theorem State.fresh_keeps {s0 s : State} (h : Keeps s0 s) : Keeps s0 s.fresh.2 := Keeps.mk_rest (s := s) (h := h) ..

end Sys2Proof.Machine
end

