-- ==== Sys2Proof/Laws/KeepsCores.lean ====
section
/-! SUPPORT. What the operations never undo (`Keeps`): the streams, arrays and transfers of the cores, and of the connections and programs they use. One lemma for each operation over the state, and one for each meaning. -/

namespace Sys2Proof.Machine

/-! ### Machine/Regs -/

theorem State.setCore_keeps {σ s : State} (k : Nat) (c : Core) (h : Keeps σ s) : Keeps σ (State.setCore s k c) := by
  unfold State.setCore
  repeat' (first
    | with_reducible assumption | with_reducible apply Keeps.mk_rest)

theorem State.updCore_keeps {σ s : State} (k : Nat) (f : Core → Core) (h : Keeps σ s) : Keeps σ (State.updCore s k f) := by
  unfold State.updCore
  repeat' (first
    | with_reducible assumption | with_reducible apply State.setCore_keeps)

theorem State.updPart_keeps {σ s : State} (p : Nat) (f : Part → Part) (h : Keeps σ s) : Keeps σ (State.updPart s p f) := by
  unfold State.updPart
  repeat' (first
    | with_reducible assumption | with_reducible apply Keeps.mk_rest)

theorem State.emit_keeps {σ s : State} (o : Out) (h : Keeps σ s) : Keeps σ (State.emit s o) := by
  unfold State.emit
  repeat' (first
    | with_reducible assumption | with_reducible apply Keeps.mk_rest)

theorem State.reach_keeps {σ s : State} (t : Nat) (h : Keeps σ s) : Keeps σ (State.reach s t) := by
  unfold State.reach
  repeat' (first
    | with_reducible assumption | with_reducible apply Keeps.ite | with_reducible apply Keeps.mk_rest)

/-! ### Machine/Flags -/

theorem State.raise_keeps {σ s : State} (k : Nat) (f : Fl) (h : Keeps σ s) : Keeps σ (State.raise s k f) := by
  unfold State.raise
  repeat' (first
    | with_reducible assumption | with_reducible apply Keeps.ite | with_reducible apply State.setFld_keeps)

/-! ### Machine/Access -/

theorem State.writeMem_keeps {σ s : State} (a : Nat) (bs : List PByte) (h : Keeps σ s) : Keeps σ (State.writeMem s a bs) := by
  unfold State.writeMem
  repeat' (first
    | with_reducible assumption | exact fun w => Memory.wf_writeB _ _ w | split | with_reducible apply Keeps.mk_mem)

theorem State.markWin_keeps {σ s : State} (n m : Nat) (h : Keeps σ s) : Keeps σ (State.markWin s n m) := by
  unfold State.markWin
  repeat' (first
    | with_reducible assumption | with_reducible apply Keeps.mk_rest)

theorem State.noteRegion_keeps {σ s : State} (q a : Nat) (bs : List PByte) (n : Nat) (h : Keeps σ s) : Keeps σ (State.noteRegion s q a bs n) := by
  unfold State.noteRegion
  repeat' (first
    | with_reducible assumption
    | (lift_lets; intro x; with_reducible refine Keeps.cut x ?_ ?_; rotate_left 1; clear_value x; intro hx)
    | with_reducible apply Keeps.ite | with_reducible apply State.markWin_keeps | with_reducible apply State.setFld_keeps
    | with_reducible apply State.setReg_keeps)

theorem State.noteWrite_keeps {σ s : State} (q a : Nat) (bs : List PByte) (h : Keeps σ s) : Keeps σ (State.noteWrite s q a bs) := by
  unfold State.noteWrite
  repeat' (first
    | with_reducible assumption | with_reducible exact Keeps.refl _ | intro x | with_reducible apply Keeps.foldl
    | with_reducible apply State.noteRegion_keeps)

theorem State.storeWord_keeps {σ s : State} (a : Nat) (bs : List PByte) (h : Keeps σ s) : Keeps σ (State.storeWord s a bs) := by
  unfold State.storeWord
  repeat' (first
    | with_reducible assumption | with_reducible apply Keeps.ite | with_reducible apply State.noteWrite_keeps
    | with_reducible apply State.writeMem_keeps | split)

theorem State.storeBytes_keeps {σ s : State} (a : Nat) (bs : List PByte) (h : Keeps σ s) : Keeps σ (State.storeBytes s a bs) := by
  unfold State.storeBytes
  repeat' (first
    | with_reducible assumption | with_reducible exact Keeps.refl _ | intro x | (lift_lets; intro x; clear_value x)
    | with_reducible apply Keeps.foldl | with_reducible apply State.storeWord_keeps)

theorem State.updChan_keeps {σ s : State} (q : Nat) (f : Chan → Chan) (h : Keeps σ s) : Keeps σ (State.updChan s q f) := by
  unfold State.updChan
  repeat' (first
    | with_reducible assumption | with_reducible apply Keeps.mk_rest)

theorem State.countAccess_keeps {σ s : State} (a : Nat) (wr : Bool) (h : Keeps σ s) : Keeps σ (State.countAccess s a wr) := by
  unfold State.countAccess
  repeat' (first
    | with_reducible assumption
    | (intro x; with_reducible refine Keeps.cut x ?_ ?_; rotate_left 1; clear_value x; intro hx)
    | (intro x; clear_value x) | (lift_lets; intro x; clear_value x) | with_reducible apply Keeps.ite
    | with_reducible apply State.addFld_keeps | with_reducible apply State.updChan_keeps | split)

/-! ### Machine/Tally -/

theorem State.putEpoch_keeps {σ s : State} (e : Epoch) (h : Keeps σ s) : Keeps σ (State.putEpoch s e) := by
  unfold State.putEpoch
  repeat' (first
    | with_reducible assumption | with_reducible apply Keeps.mk_rest)

theorem State.updEpoch_keeps {σ s : State} (ch : Nat) (f : Epoch → Epoch) (h : Keeps σ s) : Keeps σ (State.updEpoch s ch f) := by
  unfold State.updEpoch
  repeat' (first
    | with_reducible assumption | with_reducible apply State.putEpoch_keeps | split)

theorem State.updHolder_keeps {σ s : State} (ch : Nat) (f : HolderSide → HolderSide) (h : Keeps σ s) : Keeps σ (State.updHolder s ch f) := by
  unfold State.updHolder
  repeat' (first
    | with_reducible assumption | with_reducible apply State.updEpoch_keeps)

theorem State.putWord_keeps {σ s : State} (a : Nat) (ws : List PWord) (h : Keeps σ s) : Keeps σ (State.putWord s a ws) := by
  unfold State.putWord
  repeat' (first
    | with_reducible assumption | (lift_lets; intro x; clear_value x) | with_reducible apply State.countAccess_keeps
    | with_reducible apply State.storeWord_keeps)

theorem State.tallyBatch_keeps {σ s : State} (b : Batch) (h : Keeps σ s) : Keeps σ (State.tallyBatch s b) := by
  unfold State.tallyBatch
  repeat' (first
    | with_reducible assumption
    | (intro x; with_reducible refine Keeps.cut x ?_ ?_; rotate_left 1; clear_value x; intro hx)
    | (intro x; clear_value x)
    | (lift_lets; intro x; with_reducible refine Keeps.cut x ?_ ?_; rotate_left 1; clear_value x; intro hx)
    | (lift_lets; intro x; clear_value x) | with_reducible apply Keeps.ite | with_reducible apply State.addFld_keeps
    | with_reducible apply State.countAccess_keeps | with_reducible apply State.putWord_keeps
    | with_reducible apply State.setFld_keeps | with_reducible apply State.updHolder_keeps | split)

theorem State.applyTalMode_keeps {σ s : State} (q : Nat) (h : Keeps σ s) : Keeps σ (State.applyTalMode s q) := by
  unfold State.applyTalMode
  repeat' (first
    | with_reducible assumption | with_reducible apply Keeps.ite | with_reducible apply State.setFld_keeps | split
    | with_reducible apply Keeps.mk_rest)

theorem State.countStage_keeps {σ s : State}  (h : Keeps σ s) : Keeps σ (State.countStage s) := by
  unfold State.countStage
  repeat' (first
    | with_reducible assumption | (lift_lets; intro x; clear_value x) | with_reducible apply State.maxFld_keeps
    | with_reducible apply State.setFld_keeps)

theorem State.freeBlock_keeps {σ s : State} (ch rank first : Nat) (h : Keeps σ s) : Keeps σ (State.freeBlock s ch rank first) := by
  unfold State.freeBlock
  repeat' (first
    | with_reducible assumption | with_reducible apply Keeps.ite | with_reducible apply State.countStage_keeps
    | with_reducible apply State.updHolder_keeps)

theorem State.dropHolder_keeps {σ s : State} (ch : Nat) (h : Keeps σ s) : Keeps σ (State.dropHolder s ch) := by
  unfold State.dropHolder
  repeat' (first
    | with_reducible assumption | with_reducible apply State.countStage_keeps | with_reducible apply State.updHolder_keeps)

theorem State.takeBatch_keeps {σ s : State} (b : Batch) (h : Keeps σ s) : Keeps σ (State.takeBatch s b) := by
  unfold State.takeBatch
  repeat' (first
    | with_reducible assumption
    | (lift_lets; intro x; with_reducible refine Keeps.cut x ?_ ?_; rotate_left 1; clear_value x; intro hx)
    | with_reducible apply Keeps.ite | with_reducible apply State.applyTalMode_keeps
    | with_reducible apply State.freeBlock_keeps | with_reducible apply State.tallyBatch_keeps
    | with_reducible apply Keeps.mk_rest)

theorem State.finishAdds_keeps {σ s : State} (ch : Nat) (h : Keeps σ s) : Keeps σ (State.finishAdds s ch) := by
  unfold State.finishAdds
  repeat' (first
    | with_reducible assumption | with_reducible exact Keeps.refl _ | intro x | with_reducible apply Keeps.foldl
    | with_reducible apply State.takeBatch_keeps)

/-! ### Machine/Send -/

theorem State.emitUp_keeps {σ s : State} (o : Out) (h : Keeps σ s) : Keeps σ (State.emitUp s o) := by
  unfold State.emitUp
  repeat' (first
    | with_reducible assumption | with_reducible apply Keeps.ite | with_reducible apply State.emit_keeps)

theorem State.transmit_keeps {σ s : State} (c : Conn) (m : Msg) (h : Keeps σ s) : Keeps σ (State.transmit s c m) := by
  unfold State.transmit
  repeat' (first
    | with_reducible assumption | (intro x; clear_value x) | (lift_lets; intro x; clear_value x)
    | with_reducible apply State.emitUp_keeps | with_reducible apply Keeps.mk_rest)

theorem State.drainMsgs_keeps {σ s : State} (n : Nat) (l : List Msg) (h : Keeps σ s) : Keeps σ (s.drainMsgs n l) := by
  induction l generalizing s with
  | nil => exact h
  | cons m r ih =>
    unfold State.drainMsgs
    split
    · exact h
    · exact Keeps.ite (ih (State.transmit_keeps _ _ h)) h

theorem State.drain_keeps {σ s : State} (n : Nat) (h : Keeps σ s) : Keeps σ (State.drain s n) := by
  unfold State.drain
  repeat' (first
    | with_reducible assumption | with_reducible apply State.drainMsgs_keeps | split)

theorem State.sendOn_keeps {σ s : State} (n : Nat) (m : Msg) (h : Keeps σ s) : Keeps σ (State.sendOn s n m) := by
  unfold State.sendOn
  repeat' (first
    | with_reducible assumption | with_reducible apply Keeps.ite | with_reducible apply State.drain_keeps | split
    | with_reducible apply Keeps.mk_rest)

theorem State.countDrop_keeps {σ s : State} (source part : Nat) (h : Keeps σ s) : Keeps σ (State.countDrop s source part) := by
  unfold State.countDrop
  repeat' (first
    | with_reducible assumption | with_reducible apply Keeps.ite | with_reducible apply State.addFld_keeps | split)

theorem State.countLost_keeps {σ s : State} (l : List Msg) (h : Keeps σ s) : Keeps σ (State.countLost s l) := by
  unfold State.countLost
  repeat' (first
    | with_reducible assumption | with_reducible exact Keeps.refl _
    | (intro x; with_reducible refine Keeps.cut x ?_ ?_; rotate_left 1; clear_value x; intro hx) | intro x
    | (lift_lets; intro x; clear_value x) | with_reducible apply Keeps.ite | with_reducible apply Keeps.foldl
    | with_reducible apply State.countDrop_keeps | split)

theorem State.freshConn_keeps {σ s : State} (h : Keeps σ s) : Keeps σ s.freshConn.2 :=
  Keeps.mk_rest (s := s.fresh.2) (h := State.fresh_keeps h) ..

theorem State.sendTo_keeps {σ s : State} (cls id addr : Nat) (m : Msg) (h : Keeps σ s) : Keeps σ (State.sendTo s cls id addr m) := by
  unfold State.sendTo
  repeat' (first
    | with_reducible assumption | with_reducible apply Keeps.ite | with_reducible apply State.countLost_keeps
    | with_reducible apply State.freshConn_keeps | with_reducible apply State.sendOn_keeps
    | with_reducible apply State.transmit_keeps | split)

theorem State.closeConn_keeps {σ s : State} (n : Nat) (h : Keeps σ s) : Keeps σ (State.closeConn s n) := by
  unfold State.closeConn
  repeat' (first
    | with_reducible assumption | with_reducible exact Keeps.refl _ | intro x
    | (lift_lets; intro x; with_reducible refine Keeps.cut x ?_ ?_; rotate_left 1; clear_value x; intro hx)
    | with_reducible apply Keeps.ite | with_reducible apply Keeps.foldl | with_reducible apply State.countLost_keeps
    | with_reducible apply State.sendTo_keeps | split | with_reducible apply Keeps.mk_rest)

theorem State.telemetry_keeps {σ s : State} (source part step : Nat) (data : List Byte) (h : Keeps σ s) : Keeps σ (State.telemetry s source part step data) := by
  unfold State.telemetry
  repeat' (first
    | with_reducible assumption | (lift_lets; intro x; clear_value x) | with_reducible apply Keeps.ite
    | with_reducible apply State.countDrop_keeps | with_reducible apply State.sendTo_keeps)

theorem State.sendTermination_keeps {σ s : State} (p : Nat) (w : Nat) (h : Keeps σ s) : Keeps σ (State.sendTermination s p w) := by
  unfold State.sendTermination
  repeat' (first
    | with_reducible assumption | (lift_lets; intro x; clear_value x) | with_reducible apply Keeps.ite
    | with_reducible apply State.sendTo_keeps)

theorem State.dropPhase_keeps {σ s : State} (p : Nat) (h : Keeps σ s) : Keeps σ (State.dropPhase s p) := by
  unfold State.dropPhase
  repeat' (first
    | with_reducible assumption | with_reducible apply Keeps.ite | with_reducible apply State.countDrop_keeps
    | with_reducible apply Keeps.mk_rest)

theorem State.answer_keeps {σ s : State} (a : Asker) (status : Nat) (late poison : Bool) (data : List Byte) (h : Keeps σ s) : Keeps σ (State.answer s a status late poison data) := by
  unfold State.answer
  repeat' (first
    | with_reducible assumption | (lift_lets; intro x; clear_value x) | with_reducible apply State.sendOn_keeps
    | with_reducible apply Keeps.mk_rest)

theorem State.say_keeps {σ s : State} (a : Asker) (status : Nat) (h : Keeps σ s) : Keeps σ (State.say s a status) := by
  unfold State.say
  repeat' (first
    | with_reducible assumption | with_reducible apply State.answer_keeps)

theorem State.dropCmd_keeps {σ s : State} (p : Nat) (h : Keeps σ s) : Keeps σ (State.dropCmd s p) := by
  unfold State.dropCmd
  repeat' (first
    | with_reducible assumption | with_reducible apply State.say_keeps | with_reducible apply State.updPart_keeps | split)

theorem State.exportPhases_keeps {σ s : State} (p : Nat) (partly : Bool) (h : Keeps σ s) : Keeps σ (State.exportPhases s p partly) := by
  unfold State.exportPhases
  repeat' (first
    | with_reducible assumption | with_reducible exact Keeps.refl _
    | (intro x; with_reducible refine Keeps.cut x ?_ ?_; rotate_left 1; clear_value x; intro hx) | intro x
    | (lift_lets; intro x; clear_value x) | with_reducible apply Keeps.ite | with_reducible apply Keeps.foldl
    | with_reducible apply State.countDrop_keeps | with_reducible apply State.dropPhase_keeps
    | with_reducible apply State.setFld_keeps | with_reducible apply State.telemetry_keeps)

theorem State.clearPhases_keeps {σ s : State} (p : Nat) (h : Keeps σ s) : Keeps σ (State.clearPhases s p) := by
  unfold State.clearPhases
  repeat' (first
    | with_reducible assumption | with_reducible exact Keeps.refl _ | intro x | with_reducible apply Keeps.foldl
    | with_reducible apply State.clearRegs_keeps | with_reducible apply State.updCore_keeps | split)

theorem State.toRank_keeps {σ s : State} (g r : Nat) (m : Msg) (h : Keeps σ s) : Keeps σ (State.toRank s g r m) := by
  unfold State.toRank
  repeat' (first
    | with_reducible assumption | with_reducible apply Keeps.ite | with_reducible apply State.sendTo_keeps | split
    | with_reducible apply Keeps.mk_rest)

theorem State.toRanks_keeps {σ s : State} (g : Nat) (rs : List Nat) (m : Msg) (h : Keeps σ s) : Keeps σ (State.toRanks s g rs m) := by
  unfold State.toRanks
  repeat' (first
    | with_reducible assumption | with_reducible exact Keeps.refl _ | intro x | with_reducible apply Keeps.foldl
    | with_reducible apply State.toRank_keeps)

theorem State.applyGroup_keeps {σ s : State} (g : Nat) (h : Keeps σ s) : Keeps σ (State.applyGroup s g) := by
  unfold State.applyGroup
  repeat' (first
    | with_reducible assumption | with_reducible apply Keeps.ite | split | with_reducible apply Keeps.mk_rest)

theorem State.closeEpoch_keeps {σ s : State} (ch outcome : Nat) (h : Keeps σ s) : Keeps σ (State.closeEpoch s ch outcome) := by
  unfold State.closeEpoch
  repeat' (first
    | with_reducible assumption
    | (lift_lets; intro x; with_reducible refine Keeps.cut x ?_ ?_; rotate_left 1; clear_value x; intro hx)
    | with_reducible apply Keeps.ite | with_reducible apply State.applyGroup_keeps
    | with_reducible apply State.finishAdds_keeps | with_reducible apply State.setFld_keeps
    | with_reducible apply State.updEpoch_keeps | split)

theorem State.shutEpoch_keeps {σ s : State} (ch : Nat) (h : Keeps σ s) : Keeps σ (State.shutEpoch s ch) := by
  unfold State.shutEpoch
  repeat' (first
    | with_reducible assumption | with_reducible apply State.applyGroup_keeps | with_reducible apply State.putEpoch_keeps
    | split)

theorem State.abandonEpoch_keeps {σ s : State} (ch reason : Nat) (h : Keeps σ s) : Keeps σ (State.abandonEpoch s ch reason) := by
  unfold State.abandonEpoch
  repeat' (first
    | with_reducible assumption
    | (lift_lets; intro x; with_reducible refine Keeps.cut x ?_ ?_; rotate_left 1; clear_value x; intro hx)
    | with_reducible apply Keeps.ite | with_reducible apply State.applyGroup_keeps
    | with_reducible apply State.closeEpoch_keeps | with_reducible apply State.dropHolder_keeps
    | with_reducible apply State.putEpoch_keeps | with_reducible apply State.toRanks_keeps | split)

theorem State.abandonAll_keeps {σ s : State} (p : Option Nat) (reason : Nat) (h : Keeps σ s) : Keeps σ (State.abandonAll s p reason) := by
  unfold State.abandonAll
  repeat' (first
    | with_reducible assumption | with_reducible exact Keeps.refl _ | intro x | with_reducible apply Keeps.ite
    | with_reducible apply Keeps.foldl | with_reducible apply State.abandonEpoch_keeps)

/-! ### Machine/Ops -/

theorem State.unitEvent_keeps {σ s : State} (unit kind detail : Nat) (h : Keeps σ s) : Keeps σ (State.unitEvent s unit kind detail) := by
  unfold State.unitEvent
  repeat' (first
    | with_reducible assumption | with_reducible apply Keeps.mk_rest)

theorem State.meetErrs_keeps {σ s : State} (k : Nat) (es : List QErr) (h : Keeps σ s) : Keeps σ (State.meetErrs s k es) := by
  unfold State.meetErrs
  repeat' (first
    | with_reducible assumption | with_reducible exact Keeps.refl _ | intro x | with_reducible apply Keeps.foldl
    | with_reducible apply State.setCore_keeps | with_reducible apply State.unitEvent_keeps)

theorem State.poisonStore_keeps {σ s : State} (p n c : Nat) (st : Strm) (pc : Nat) (h : Keeps σ s) : Keeps σ (State.poisonStore s p n c st pc) := by
  unfold State.poisonStore
  repeat' (first
    | with_reducible assumption
    | (intro x; with_reducible refine Keeps.cut x ?_ ?_; rotate_left 1; clear_value x; intro hx)
    | (lift_lets; intro x; clear_value x) | with_reducible apply Keeps.ite | with_reducible apply State.addFld_keeps
    | with_reducible apply State.setFld_keeps)

theorem State.setArb_keeps {σ s : State}  (h : Keeps σ s) : Keeps σ (State.setArb s) := by
  unfold State.setArb
  repeat' (first
    | with_reducible assumption | with_reducible exact Keeps.refl _ | intro x | with_reducible apply Keeps.foldl
    | with_reducible apply State.setFld_keeps)

theorem State.killCore_keeps {σ s : State} (c : Nat) (h : Keeps σ s) : Keeps σ (State.killCore s c) := by
  unfold State.killCore
  repeat' (first
    | with_reducible assumption
    | (lift_lets; intro x; with_reducible refine Keeps.cut x ?_ ?_; rotate_left 1; clear_value x; intro hx)
    | with_reducible apply State.addFld_keeps | with_reducible apply State.updCore_keeps | split
    | with_reducible apply Keeps.mk_rest)

theorem State.countPot_keeps {σ s : State} (a : Nat) (h : Keeps σ s) : Keeps σ (State.countPot s a) := by
  unfold State.countPot
  repeat' (first
    | with_reducible assumption | (lift_lets; intro x; clear_value x) | with_reducible apply Keeps.ite
    | with_reducible apply State.maxFld_keeps | with_reducible apply State.setFld_keeps)

theorem State.dropRounds_keeps {σ s : State} (p : Nat) (h : Keeps σ s) : Keeps σ (State.dropRounds s p) := by
  unfold State.dropRounds
  repeat' (first
    | with_reducible assumption | with_reducible exact Keeps.refl _
    | (intro x; with_reducible refine Keeps.cut x ?_ ?_; rotate_left 1; clear_value x; intro hx)
    | (intro x; clear_value x) | intro x | (lift_lets; intro x; clear_value x) | with_reducible apply Keeps.foldl
    | with_reducible apply State.countPot_keeps | with_reducible apply Keeps.mk_rest)

theorem State.recode_keeps {σ s : State} (p code : Nat) (l : Loc) (h : Keeps σ s) : Keeps σ (State.recode s p code l) := by
  unfold State.recode
  repeat' (first
    | with_reducible assumption
    | (intro x; with_reducible refine Keeps.cut x ?_ ?_; rotate_left 1; clear_value x; intro hx)
    | (intro x; clear_value x) | (lift_lets; intro x; clear_value x) | with_reducible apply Keeps.ite
    | with_reducible apply State.setReg_keeps | with_reducible apply Keeps.mk_rest)

theorem State.terminate_keeps {σ s : State} (p code : Nat) (l : Loc) (h : Keeps σ s) : Keeps σ (State.terminate s p code l) := by
  unfold State.terminate
  repeat' (first
    | with_reducible assumption | with_reducible exact Keeps.refl _
    | (intro x; with_reducible refine Keeps.cut x ?_ ?_; rotate_left 1; clear_value x; intro hx)
    | (intro x; clear_value x) | intro x | (lift_lets; intro x; clear_value x) | with_reducible apply Keeps.ite
    | with_reducible apply Keeps.foldl | with_reducible apply State.abandonAll_keeps
    | with_reducible apply State.dropCmd_keeps | with_reducible apply State.dropRounds_keeps
    | with_reducible apply State.exportPhases_keeps | with_reducible apply State.killCore_keeps
    | with_reducible apply State.recode_keeps | with_reducible apply State.sendTermination_keeps
    | with_reducible apply State.setArb_keeps | with_reducible apply State.setFld_keeps
    | with_reducible apply State.setReg_keeps | with_reducible apply State.updPart_keeps | split
    | with_reducible apply Keeps.mk_rest)

theorem State.abort_keeps {σ s : State} (c code : Nat) (st : Strm) (pc : Nat) (h : Keeps σ s) : Keeps σ (State.abort s c code st pc) := by
  unfold State.abort
  repeat' (first
    | with_reducible assumption | with_reducible apply State.terminate_keeps | split)

theorem State.addFlag_keeps {σ s : State} (k n amount c : Nat) (st : Strm) (pc : Nat) (h : Keeps σ s) : Keeps σ (State.addFlag s k n amount c st pc) := by
  unfold State.addFlag
  repeat' (first
    | with_reducible assumption | (intro x; clear_value x) | (lift_lets; intro x; clear_value x)
    | with_reducible apply Keeps.ite | with_reducible apply State.abort_keeps | with_reducible apply State.setCore_keeps)

/-! ### Machine/Store -/

theorem State.setV_keeps {σ s : State} (i : Nat) (v : Bool) (h : Keeps σ s) : Keeps σ (State.setV s i v) := by
  unfold State.setV
  repeat' (first
    | with_reducible assumption | with_reducible apply State.setFld_keeps)

theorem State.checkSlot_keeps {σ s : State} (i : Nat) (h : Keeps σ s) : Keeps σ (State.checkSlot s i) := by
  unfold State.checkSlot
  repeat' (first
    | with_reducible assumption | with_reducible apply Keeps.ite | with_reducible apply State.setFld_keeps
    | with_reducible apply State.setV_keeps)

theorem State.storeTouched_keeps {σ s : State} (a n : Nat) (h : Keeps σ s) : Keeps σ (State.storeTouched s a n) := by
  unfold State.storeTouched
  repeat' (first
    | with_reducible assumption | with_reducible exact Keeps.refl _ | intro x
    | (lift_lets; intro x; with_reducible refine Keeps.cut x ?_ ?_; rotate_left 1; clear_value x; intro hx)
    | with_reducible apply Keeps.ite | with_reducible apply Keeps.foldl | with_reducible apply State.checkSlot_keeps
    | with_reducible apply State.setV_keeps)

/-! ### Machine/Arbiter -/

theorem State.spend_keeps {σ s : State} (d cls : Nat) (h : Keeps σ s) : Keeps σ (State.spend s d cls) := by
  unfold State.spend
  repeat' (first
    | with_reducible assumption | (intro x; clear_value x) | (lift_lets; intro x; clear_value x)
    | with_reducible apply Keeps.ite | with_reducible apply Keeps.mk_rest)

theorem State.grant_keeps {σ s : State} (point d : Nat) (l : List FabReq) (r : FabReq) (h : Keeps σ s) : Keeps σ (State.grant s point d l r) := by
  unfold State.grant
  repeat' (first
    | with_reducible assumption
    | (lift_lets; intro x; with_reducible refine Keeps.cut x ?_ ?_; rotate_left 1; clear_value x; intro hx)
    | with_reducible apply Keeps.ite | with_reducible apply State.addFld_keeps | with_reducible apply State.spend_keeps
    | split | with_reducible apply Keeps.mk_rest)

theorem State.waited_keeps {σ s : State} (m d n : Nat) (h : Keeps σ s) : Keeps σ (State.waited s m d n) := by
  unfold State.waited
  repeat' (first
    | with_reducible assumption
    | (lift_lets; intro x; with_reducible refine Keeps.cut x ?_ ?_; rotate_left 1; clear_value x; intro hx)
    | with_reducible apply Keeps.ite | with_reducible apply State.addFld_keeps | with_reducible apply State.maxFld_keeps)

theorem State.bankAccess_keeps {σ s : State} (m a : Nat) (h : Keeps σ s) : Keeps σ (State.bankAccess s m a).1 := by
  unfold State.bankAccess
  repeat' (first
    | with_reducible assumption | (intro x; clear_value x) | (lift_lets; intro x; clear_value x)
    | with_reducible apply State.addFld_keeps | with_reducible apply Keeps.mk_rest)

theorem State.sliceGrant_keeps {σ s : State} (r : FabReq) (wait : Nat) (h : Keeps σ s) : Keeps σ (State.sliceGrant s r wait) := by
  unfold State.sliceGrant
  repeat' (first
    | with_reducible assumption | (lift_lets; intro x; clear_value x) | with_reducible apply State.grant_keeps
    | with_reducible apply State.waited_keeps)

theorem State.chanGrant_keeps {σ s : State} (r : FabReq) (h : Keeps σ s) : Keeps σ (State.chanGrant s r) := by
  unfold State.chanGrant
  repeat' (first
    | with_reducible assumption | with_reducible apply State.grant_keeps | with_reducible apply State.waited_keeps | split)

theorem State.closeMerge_keeps {σ s : State} (a : Nat) (h : Keeps σ s) : Keeps σ (State.closeMerge s a) := by
  unfold State.closeMerge
  repeat' (first
    | with_reducible assumption | with_reducible apply Keeps.mk_rest)

theorem State.sliceRead_keeps {σ s : State} (m a : Nat) (h : Keeps σ s) : Keeps σ (s.sliceRead m a).1 := by
  unfold State.sliceRead
  split
  · exact State.addFld_keeps _ _ _ _ h
  · exact Keeps.mk_rest (s := (s.bankAccess m a).1) (h := State.bankAccess_keeps _ _ h) ..

theorem State.hubWord_keeps {σ s : State} (a : Nat) (wr : Bool) (h : Keeps σ s) : Keeps σ (State.hubWord s a wr) := by
  unfold State.hubWord
  repeat' (first
    | with_reducible assumption | (intro x; subst x) | (lift_lets; intro x; subst x) | with_reducible apply Keeps.ite
    | with_reducible apply State.bankAccess_keeps | with_reducible apply State.closeMerge_keeps
    | with_reducible apply State.countAccess_keeps | with_reducible apply State.sliceRead_keeps
    | with_reducible apply State.spend_keeps | with_reducible apply State.waited_keeps | split)

theorem State.hubOp_keeps {σ s : State} (a n : Nat) (wr : Bool) (h : Keeps σ s) : Keeps σ (State.hubOp s a n wr) := by
  unfold State.hubOp
  repeat' (first
    | with_reducible assumption | with_reducible exact Keeps.refl _ | intro x
    | (lift_lets; intro x; with_reducible refine Keeps.cut x ?_ ?_; rotate_left 1; clear_value x; intro hx)
    | with_reducible apply Keeps.foldl | with_reducible apply State.hubWord_keeps
    | with_reducible apply State.maxFld_keeps)

theorem State.hubWrite_keeps {σ s : State} (a : Nat) (bs : List PByte) (h : Keeps σ s) : Keeps σ (State.hubWrite s a bs) := by
  unfold State.hubWrite
  repeat' (first
    | with_reducible assumption | with_reducible apply Keeps.ite | with_reducible apply State.hubOp_keeps
    | with_reducible apply State.storeBytes_keeps)

theorem State.tickBanks_keeps {σ s : State}  (h : Keeps σ s) : Keeps σ (State.tickBanks s) := by
  unfold State.tickBanks
  repeat' (first
    | with_reducible assumption | with_reducible exact Keeps.refl _ | intro x | with_reducible apply Keeps.foldl
    | with_reducible apply State.addFld_keeps)

/-! ### Machine/Issue -/

theorem State.issueOp_keeps {σ s : State} (k : Nat) (st : Strm) (step : Nat) (i : Ovt) (cl : List Claim) (h : Keeps σ s) : Keeps σ (State.issueOp s k st step i cl) := by
  unfold State.issueOp
  repeat' (first
    | with_reducible assumption | (intro x; clear_value x) | (lift_lets; intro x; clear_value x)
    | with_reducible apply State.setCore_keeps)

theorem State.stall_keeps {σ s : State} (k : Nat) (st : Strm) (why obj : Nat) (h : Keeps σ s) : Keeps σ (State.stall s k st why obj) := by
  unfold State.stall
  repeat' (first
    | with_reducible assumption | with_reducible apply State.updCore_keeps)

theorem State.request_keeps {σ s : State} (c : Nat) (st : Strm) (i : Ovt) (h : Keeps σ s) : Keeps σ (State.request s c st i) := by
  unfold State.request
  repeat' (first
    | with_reducible assumption | (intro x; clear_value x) | (lift_lets; intro x; clear_value x)
    | with_reducible apply Keeps.ite | with_reducible apply State.issueOp_keeps | with_reducible apply State.stall_keeps
    | with_reducible apply State.updCore_keeps | split)

theorem State.control_keeps {σ s : State} (c : Nat) (st : Strm) (i : Ovt) (f : Core → Core) (h : Keeps σ s) : Keeps σ (State.control s c st i f) := by
  unfold State.control
  repeat' (first
    | with_reducible assumption | with_reducible apply State.updCore_keeps | split)

/-! ### Machine/Control -/

theorem State.bindPfetch_keeps {σ s : State} (k c p n : Nat) (o : Op) (h : Keeps σ s) : Keeps σ (State.bindPfetch s k c p n o) := by
  unfold State.bindPfetch
  repeat' (first
    | with_reducible assumption
    | (lift_lets; intro x; with_reducible refine Keeps.cut x ?_ ?_; rotate_left 1; clear_value x; intro hx)
    | with_reducible apply Keeps.ite | with_reducible apply State.addFld_keeps
    | with_reducible apply State.poisonStore_keeps | with_reducible apply State.updCore_keeps
    | with_reducible apply Keeps.mk_rest)

theorem State.guardLatch_keeps {σ s : State} (k c p slot n : Nat) (h : Keeps σ s) : Keeps σ (State.guardLatch s k c p slot n) := by
  unfold State.guardLatch
  repeat' (first
    | with_reducible assumption | with_reducible exact Keeps.refl _ | intro x | with_reducible apply Keeps.foldl
    | with_reducible apply State.bindPfetch_keeps)

theorem State.latch_keeps {σ s : State} (k c p slot : Nat) (st : Strm) (h : Keeps σ s) : Keeps σ (State.latch s k c p slot st) := by
  unfold State.latch
  repeat' (first
    | with_reducible assumption
    | (intro x; with_reducible refine Keeps.cut x ?_ ?_; rotate_left 1; clear_value x; intro hx)
    | (intro x; clear_value x) | (lift_lets; intro x; clear_value x) | with_reducible apply State.guardLatch_keeps
    | with_reducible apply State.setCore_keeps | split)

theorem execNop_keeps {σ s t : State} (c : Nat) (st : Strm) (h : Keeps σ s) (e : execNop c st s = .next t) : Keeps σ t := by
  refine guardWf_keeps e ?_
  beta_reduce
  repeat' (first
    | with_reducible assumption | with_reducible apply State.control_keeps)

theorem execEndStream_keeps {σ s t : State} (c : Nat) (st : Strm) (h : Keeps σ s) (e : execEndStream c st s = .next t) : Keeps σ t := by
  refine guardWf_keeps e ?_
  beta_reduce
  repeat' (first
    | with_reducible assumption | with_reducible apply State.updCore_keeps | split)

theorem execLoop_keeps {σ s t : State} (c : Nat) (st : Strm) (b : LoopB) (h : Keeps σ s) (e : execLoop c st b s = .next t) : Keeps σ t := by
  refine guardWf_keeps e ?_
  beta_reduce
  repeat' (first
    | with_reducible assumption | with_reducible apply Keeps.ite | with_reducible apply State.latch_keeps
    | with_reducible apply State.updCore_keeps | split)

theorem execBoundary_keeps {σ s t : State} (c : Nat) (st : Strm) (h : Keeps σ s) (e : execBoundary c st s = .next t) : Keeps σ t := by
  refine guardWf_keeps e ?_
  beta_reduce
  repeat' (first
    | with_reducible assumption | with_reducible apply State.stall_keeps | split)

theorem execPhase_keeps {σ s t : State} (c : Nat) (st : Strm) (edge : Bool) (pid : Nat) (h : Keeps σ s) (e : execPhase c st edge pid s = .next t) : Keeps σ t := by
  refine guardWf_keeps e ?_
  beta_reduce
  repeat' (first
    | with_reducible assumption
    | (intro x; with_reducible refine Keeps.cut x ?_ ?_; rotate_left 1; clear_value x; intro hx)
    | (lift_lets; intro x; clear_value x) | with_reducible apply Keeps.ite | with_reducible apply State.control_keeps
    | with_reducible apply State.setReg_keeps | split)

theorem execFadd_keeps {σ s t : State} (c : Nat) (st : Strm) (flag amount : Nat) (h : Keeps σ s) (e : execFadd c st flag amount s = .next t) : Keeps σ t := by
  refine guardWf_keeps e ?_
  beta_reduce
  repeat' (first
    | with_reducible assumption
    | (lift_lets; intro x; with_reducible refine Keeps.cut x ?_ ?_; rotate_left 1; clear_value x; intro hx)
    | (lift_lets; intro x; clear_value x) | with_reducible apply State.addFlag_keeps
    | with_reducible apply State.control_keeps | split)

theorem execFaddr_keeps {σ s t : State} (c : Nat) (cf : Cf) (tcore flag amount : Nat) (h : Keeps σ s) (e : execFaddr c cf tcore flag amount s = .next t) : Keeps σ t := by
  refine guardWf_keeps e ?_
  beta_reduce
  repeat' (first
    | with_reducible assumption | with_reducible apply State.request_keeps)

theorem execFwait_keeps {σ s t : State} (c : Nat) (st : Strm) (flag amount : Nat) (h : Keeps σ s) (e : execFwait c st flag amount s = .next t) : Keeps σ t := by
  refine guardWf_keeps e ?_
  beta_reduce
  repeat' (first
    | with_reducible assumption | (lift_lets; intro x; clear_value x) | with_reducible apply Keeps.ite
    | with_reducible apply State.control_keeps | with_reducible apply State.stall_keeps | split)

theorem execAgbase_keeps {σ s t : State} (c : Nat) (ag region offset : Nat) (h : Keeps σ s) (e : execAgbase c ag region offset s = .next t) : Keeps σ t := by
  refine guardWf_keeps e ?_
  beta_reduce
  repeat' (first
    | with_reducible assumption | with_reducible apply State.control_keeps)

theorem execAgstr_keeps {σ s t : State} (c : Nat) (ag : Nat) (grp : Bool) (s0 s1 s2 : Nat) (h : Keeps σ s) (e : execAgstr c ag grp s0 s1 s2 s = .next t) : Keeps σ t := by
  refine guardWf_keeps e ?_
  beta_reduce
  repeat' (first
    | with_reducible assumption | with_reducible apply State.control_keeps)

theorem execCset_keeps {σ s t : State} (c : Nat) (slot val : Nat) (h : Keeps σ s) (e : execCset c slot val s = .next t) : Keeps σ t := by
  refine guardWf_keeps e ?_
  beta_reduce
  repeat' (first
    | with_reducible assumption | with_reducible apply State.updCore_keeps | split)

theorem execCload_keeps {σ s t : State} (c : Nat) (cf : Cf) (ag slot : Nat) (h : Keeps σ s) (e : execCload c cf ag slot s = .next t) : Keeps σ t := by
  refine guardWf_keeps e ?_
  beta_reduce
  repeat' (first
    | with_reducible assumption | with_reducible apply State.request_keeps)

theorem State.grantClaim_keeps {σ s : State} (c : Nat) (st : Strm) (region : Nat) (h : Keeps σ s) : Keeps σ (State.grantClaim s c st region) := by
  unfold State.grantClaim
  repeat' (first
    | with_reducible assumption
    | (intro x; with_reducible refine Keeps.cut x ?_ ?_; rotate_left 1; clear_value x; intro hx)
    | (lift_lets; intro x; clear_value x) | with_reducible apply Keeps.ite | with_reducible apply State.issueOp_keeps
    | with_reducible apply State.setCore_keeps | with_reducible apply State.updCore_keeps | split)

theorem execCompletionFlagAdd_keeps {σ s t : State} (c flag : Nat) (h : Keeps σ s) (e : execCompletionFlagAdd c flag s = .next t) : Keeps σ t := by
  refine guardWf_keeps e ?_
  beta_reduce
  repeat' (first
    | with_reducible assumption
    | (lift_lets; intro x; with_reducible refine Keeps.cut x ?_ ?_; rotate_left 1; clear_value x; intro hx)
    | with_reducible apply State.addFlag_keeps | with_reducible apply State.updCore_keeps | split)

theorem execLoopEntryLatch_keeps {σ s t : State} (c : Nat) (st : Strm) (h : Keeps σ s) (e : execLoopEntryLatch c st s = .next t) : Keeps σ t := by
  refine guardWf_keeps e ?_
  beta_reduce
  repeat' (first
    | with_reducible assumption | with_reducible apply Keeps.ite | with_reducible apply State.latch_keeps | split)

theorem execCountSlotWrite_keeps {σ s t : State} (c slot : Nat) (h : Keeps σ s) (e : execCountSlotWrite c slot s = .next t) : Keeps σ t := by
  refine guardWf_keeps e ?_
  beta_reduce
  repeat' (first
    | with_reducible assumption | with_reducible apply State.updCore_keeps | split)

/-! ### Machine/Transfers -/

theorem State.landCload_keeps {σ s : State} (k c : Nat) (o : Op) (slot : Nat) (bs : List PByte) (h : Keeps σ s) : Keeps σ (State.landCload s k c o slot bs) := by
  unfold State.landCload
  repeat' (first
    | with_reducible assumption | (intro x; clear_value x) | (lift_lets; intro x; clear_value x)
    | with_reducible apply Keeps.ite | with_reducible apply State.abort_keeps | with_reducible apply State.setCore_keeps)

theorem State.land_keeps {σ s : State} (k c id pos : Nat) (bs : List PByte) (h : Keeps σ s) : Keeps σ (State.land s k c id pos bs) := by
  unfold State.land
  repeat' (first
    | with_reducible assumption | with_reducible apply State.landCload_keeps | with_reducible apply State.updCore_keeps
    | split)

theorem State.wrote_keeps {σ s : State} (k c id a : Nat) (bs : List PByte) (h : Keeps σ s) : Keeps σ (State.wrote s k c id a bs) := by
  unfold State.wrote
  repeat' (first
    | with_reducible assumption | (lift_lets; intro x; clear_value x) | with_reducible apply Keeps.ite
    | with_reducible apply State.poisonStore_keeps | with_reducible apply State.updCore_keeps | split)

theorem State.acked_keeps {σ s : State} (k id : Nat) (h : Keeps σ s) : Keeps σ (State.acked s k id) := by
  unfold State.acked
  repeat' (first
    | with_reducible assumption | with_reducible apply State.updCore_keeps | split)

theorem State.dropClaims_keeps {σ s : State} (k : Nat) (h : Keeps σ s) : Keeps σ (State.dropClaims s k) := by
  unfold State.dropClaims
  repeat' (first
    | with_reducible assumption | (intro x; clear_value x) | (lift_lets; intro x; clear_value x)
    | with_reducible apply Keeps.ite | with_reducible apply State.setCore_keeps | split)

theorem State.freeStream_keeps {σ s : State} (k : Nat) (h : Keeps σ s) : Keeps σ (State.freeStream s k) := by
  unfold State.freeStream
  repeat' (first
    | with_reducible assumption | (intro x; clear_value x) | (lift_lets; intro x; clear_value x)
    | with_reducible apply Keeps.ite | with_reducible apply State.setCore_keeps)

theorem State.send_keeps {σ s : State} (k : Nat) (x : Cand) (stamp : Option Nat) (h : Keeps σ s) : Keeps σ (State.send s k x stamp) := by
  unfold State.send
  repeat' (first
    | with_reducible assumption
    | (intro x; with_reducible refine Keeps.cut x ?_ ?_; rotate_left 1; clear_value x; intro hx)
    | (intro x; clear_value x) | (lift_lets; intro x; clear_value x) | with_reducible apply Keeps.ite
    | with_reducible apply State.addFld_keeps | with_reducible apply State.dropClaims_keeps
    | with_reducible apply State.maxFld_keeps | with_reducible apply State.setFld_keeps
    | with_reducible apply State.updCore_keeps | with_reducible apply Keeps.mk_rest)

theorem State.freeReq_keeps {σ s : State} (r : FabReq) (h : Keeps σ s) : Keeps σ (State.freeReq s r) := by
  unfold State.freeReq
  repeat' (first
    | with_reducible assumption
    | (lift_lets; intro x; with_reducible refine Keeps.cut x ?_ ?_; rotate_left 1; clear_value x; intro hx)
    | with_reducible apply State.freeStream_keeps | with_reducible apply State.setFld_keeps
    | with_reducible apply Keeps.mk_rest)

theorem execMove_keeps {σ s t : State} (c : Nat) (cf : Cf) (b : XferB) (h : Keeps σ s) (e : execMove c cf b s = .next t) : Keeps σ t := by
  refine guardWf_keeps e ?_
  beta_reduce
  repeat' (first
    | with_reducible assumption | with_reducible apply State.request_keeps)

theorem execQload_keeps {σ s t : State} (c : Nat) (cf : Cf) (b : XferB) (h : Keeps σ s) (e : execQload c cf b s = .next t) : Keeps σ t := by
  refine guardWf_keeps e ?_
  beta_reduce
  repeat' (first
    | with_reducible assumption | with_reducible apply State.request_keeps)

theorem execQstore_keeps {σ s t : State} (c : Nat) (cf : Cf) (b : XferB) (h : Keeps σ s) (e : execQstore c cf b s = .next t) : Keeps σ t := by
  refine guardWf_keeps e ?_
  beta_reduce
  repeat' (first
    | with_reducible assumption | with_reducible apply State.request_keeps)

theorem execSload_keeps {σ s t : State} (c : Nat) (cf : Cf) (b : SloadB) (h : Keeps σ s) (e : execSload c cf b s = .next t) : Keeps σ t := by
  refine guardWf_keeps e ?_
  beta_reduce
  repeat' (first
    | with_reducible assumption | with_reducible apply State.request_keeps)

theorem execGather_keeps {σ s t : State} (c : Nat) (cf : Cf) (b : GatherB) (h : Keeps σ s) (e : execGather c cf b s = .next t) : Keeps σ t := by
  refine guardWf_keeps e ?_
  beta_reduce
  repeat' (first
    | with_reducible assumption | with_reducible apply State.request_keeps)

theorem execPfetch_keeps {σ s t : State} (c : Nat) (cf : Cf) (b : XferB) (h : Keeps σ s) (e : execPfetch c cf b s = .next t) : Keeps σ t := by
  refine guardWf_keeps e ?_
  beta_reduce
  repeat' (first
    | with_reducible assumption | with_reducible apply State.request_keeps)

theorem execRequestSend_keeps {σ s t : State} (c : Nat) (h : Keeps σ s) (e : execRequestSend c s = .next t) : Keeps σ t := by
  refine guardWf_keeps e ?_
  beta_reduce
  repeat' (first
    | with_reducible assumption | (intro x; clear_value x) | (lift_lets; intro x; clear_value x)
    | with_reducible apply Keeps.ite | with_reducible apply State.abort_keeps | with_reducible apply State.send_keeps
    | split)

theorem State.hamperNext_keeps {σ s : State} (c : Nat) (ce ue : List Nat) (h : Keeps σ s) : Keeps σ (s.hamperNext c ce ue) := by
  unfold State.hamperNext
  split
  · exact h
  · dsimp only
    split
    · exact h
    · split
      · refine State.land_keeps _ _ _ _ _ (State.updCore_keeps _ _ (Keeps.foldl (Keeps.foldl ?_ fun t g => ?_) fun t g => ?_))
        · exact Keeps.mk_mem (h := h) (hm := fun w => Memory.wf_foldl_setPoison _ _ _ w) ..
        · exact State.unitEvent_keeps _ _ _ (Keeps.refl t)
        · exact State.unitEvent_keeps _ _ _ (Keeps.refl t)
      · exact State.acked_keeps _ _ (State.wrote_keeps _ _ _ _ _ (State.writeMem_keeps _ _ (State.updCore_keeps _ _ h)))
      · exact h

theorem execQueuePush_keeps {σ s t : State} (c q : Nat) (h : Keeps σ s) (e : execQueuePush c q s = .next t) : Keeps σ t := by
  refine guardWf_keeps e ?_
  beta_reduce
  repeat' (first
    | with_reducible assumption | (lift_lets; intro x; clear_value x) | with_reducible apply Keeps.ite
    | with_reducible apply State.setCore_keeps | split)

theorem State.gatherIndex_keeps {σ s : State} (k c : Nat) (o : Op) (b : GatherB) (bs : List PByte) (h : Keeps σ s) : Keeps σ (State.gatherIndex s k c o b bs) := by
  unfold State.gatherIndex
  repeat' (first
    | with_reducible assumption | (intro x; clear_value x) | (lift_lets; intro x; clear_value x)
    | with_reducible apply Keeps.ite | with_reducible apply State.abort_keeps | with_reducible apply State.setCore_keeps)

theorem execQueuePop_keeps {σ s t : State} (c q : Nat) (qerr : List QErr) (h : Keeps σ s) (e : execQueuePop c q qerr s = .next t) : Keeps σ t := by
  refine guardWf_keeps e ?_
  beta_reduce
  repeat' (first
    | with_reducible assumption | (intro x; clear_value x)
    | (lift_lets; intro x; with_reducible refine Keeps.cut x ?_ ?_; rotate_left 1; clear_value x; intro hx)
    | (lift_lets; intro x; clear_value x) | with_reducible apply Keeps.ite | with_reducible apply State.gatherIndex_keeps
    | with_reducible apply State.meetErrs_keeps | with_reducible apply State.setCore_keeps | split)

/-! ### Machine/Arrays -/

theorem State.stepOne_keeps {σ s : State} (k : Nat) (o : Op) (c0 : Core) (h : Keeps σ s) : Keeps σ (State.stepOne s k o c0) := by
  unfold State.stepOne
  repeat' (first
    | with_reducible assumption | (intro x; clear_value x) | (lift_lets; intro x; clear_value x)
    | with_reducible apply State.addFld_keeps | with_reducible apply State.raise_keeps
    | with_reducible apply State.setCore_keeps | split)

theorem State.parity_keeps {σ s : State} (k arr quad : Nat) (o : Op) (errs : List Nat) (h : Keeps σ s) : Keeps σ (State.parity s k arr quad o errs) := by
  unfold State.parity
  repeat' (first
    | with_reducible assumption | with_reducible exact Keeps.refl _ | intro x | (lift_lets; intro x; clear_value x)
    | with_reducible apply Keeps.foldl | with_reducible apply State.unitEvent_keeps
    | with_reducible apply State.updCore_keeps | split)

theorem State.spreadErrs_keeps {σ s : State} (k : Nat) (o : Op) (errs : List (Nat × Bool)) (h : Keeps σ s) : Keeps σ (State.spreadErrs s k o errs) := by
  unfold State.spreadErrs
  repeat' (first
    | with_reducible assumption | with_reducible exact Keeps.refl _ | intro x | (lift_lets; intro x; clear_value x)
    | with_reducible apply Keeps.ite | with_reducible apply Keeps.foldl | with_reducible apply State.unitEvent_keeps
    | with_reducible apply State.updCore_keeps | split)

theorem execOps_keeps {σ s t : State} (c : Nat) (cf : Cf) (b : OpsB) (h : Keeps σ s) (e : execOps c cf b s = .next t) : Keeps σ t := by
  refine guardWf_keeps e ?_
  beta_reduce
  repeat' (first
    | with_reducible assumption | with_reducible apply State.request_keeps)

theorem execAmode_keeps {σ s t : State} (c : Nat) (cf : Cf) (b : AmodeB) (h : Keeps σ s) (e : execAmode c cf b s = .next t) : Keeps σ t := by
  refine guardWf_keeps e ?_
  beta_reduce
  repeat' (first
    | with_reducible assumption | with_reducible apply State.request_keeps)

theorem execPreload_keeps {σ s t : State} (c : Nat) (cf : Cf) (b : PreloadB) (h : Keeps σ s) (e : execPreload c cf b s = .next t) : Keeps σ t := by
  refine guardWf_keeps e ?_
  beta_reduce
  repeat' (first
    | with_reducible assumption | with_reducible apply State.request_keeps)

theorem execModeChange_keeps {σ s t : State} (c arr : Nat) (h : Keeps σ s) (e : execModeChange c arr s = .next t) : Keeps σ t := by
  refine guardWf_keeps e ?_
  beta_reduce
  repeat' (first
    | with_reducible assumption | (intro x; clear_value x) | (lift_lets; intro x; clear_value x)
    | with_reducible apply Keeps.ite | with_reducible apply State.fresh_keeps | with_reducible apply State.setCore_keeps
    | split)

theorem State.preloadRow_keeps {σ s : State} (k arr quad : Nat) (o : Op) (b : PreloadB) (h : Keeps σ s) : Keeps σ (State.preloadRow s k arr quad o b) := by
  unfold State.preloadRow
  repeat' (first
    | with_reducible assumption | (intro x; clear_value x) | (lift_lets; intro x; clear_value x)
    | with_reducible apply State.raise_keeps | with_reducible apply State.setCore_keeps)

theorem State.preloadRest_keeps {σ s : State} (k arr quad id : Nat) (b : PreloadB) (n : Nat) (h : Keeps σ s) :
    Keeps σ (State.preloadRest k arr quad id b n s) := by
  induction n generalizing s with
  | zero => exact h
  | succ n ih =>
    unfold State.preloadRest
    split
    · exact ih (State.preloadRow_keeps _ _ _ _ _ h)
    · exact h

theorem State.settleSet_keeps {σ s : State} (k : Nat) (o : Op) (h : Keeps σ s) : Keeps σ (State.settleSet s k o) := by
  unfold State.settleSet
  repeat' (first
    | with_reducible assumption | with_reducible exact Keeps.refl _ | intro x | (lift_lets; intro x; clear_value x)
    | with_reducible apply Keeps.ite | with_reducible apply Keeps.foldl | with_reducible apply State.preloadRest_keeps
    | with_reducible apply State.updCore_keeps | split)

theorem execPreloadRowWrite_keeps {σ s t : State} (c arr quad : Nat) (qerr : List QErr) (h : Keeps σ s) (e : execPreloadRowWrite c arr quad qerr s = .next t) : Keeps σ t := by
  refine guardWf_keeps e ?_
  beta_reduce
  repeat' (first
    | with_reducible assumption
    | (lift_lets; intro x; with_reducible refine Keeps.cut x ?_ ?_; rotate_left 1; clear_value x; intro hx)
    | (lift_lets; intro x; clear_value x) | with_reducible apply Keeps.ite | with_reducible apply State.meetErrs_keeps
    | with_reducible apply State.preloadRow_keeps | split)

theorem execArrayStepEntry_keeps {σ s t : State} (c arr quad : Nat) (qerr : List QErr) (serr : List (Nat × Bool)) (perr : List Nat) (h : Keeps σ s) (e : execArrayStepEntry c arr quad qerr serr perr s = .next t) : Keeps σ t := by
  refine guardWf_keeps e ?_
  beta_reduce
  repeat' (first
    | with_reducible assumption | with_reducible exact Keeps.refl _
    | (intro x; with_reducible refine Keeps.cut x ?_ ?_; rotate_left 1; clear_value x; intro hx) | intro x
    | (lift_lets; intro x; with_reducible refine Keeps.cut x ?_ ?_; rotate_left 1; clear_value x; intro hx)
    | (lift_lets; intro x; clear_value x) | with_reducible apply Keeps.ite | with_reducible apply Keeps.foldl
    | with_reducible apply State.meetErrs_keeps | with_reducible apply State.parity_keeps
    | with_reducible apply State.setCore_keeps | with_reducible apply State.settleSet_keeps
    | with_reducible apply State.spreadErrs_keeps | with_reducible apply State.stepOne_keeps | split)

theorem execStrollGapExpiry_keeps {σ s t : State} (c arr : Nat) (h : Keeps σ s) (e : execStrollGapExpiry c arr s = .next t) : Keeps σ t := by
  refine guardWf_keeps e ?_
  beta_reduce
  repeat' (first
    | with_reducible assumption | (lift_lets; intro x; clear_value x) | with_reducible apply Keeps.ite
    | with_reducible apply State.updCore_keeps | split)

theorem execRampStage_keeps {σ s t : State} (c arr : Nat) (h : Keeps σ s) (e : execRampStage c arr s = .next t) : Keeps σ t := by
  refine guardWf_keeps e ?_
  beta_reduce
  repeat' (first
    | with_reducible assumption | (intro x; clear_value x) | (lift_lets; intro x; clear_value x)
    | with_reducible apply Keeps.ite | with_reducible apply State.updCore_keeps | split)

/-! ### Machine/Cairn -/

theorem State.govern_keeps {σ s : State} (p : Nat) (h : Keeps σ s) : Keeps σ (State.govern s p) := by
  unfold State.govern
  repeat' (first
    | with_reducible assumption
    | (intro x; with_reducible refine Keeps.cut x ?_ ?_; rotate_left 1; clear_value x; intro hx)
    | (intro x; clear_value x) | (lift_lets; intro x; clear_value x) | with_reducible apply Keeps.ite
    | with_reducible apply State.setFld_keeps)

theorem State.cstat_keeps {σ s : State} (state reason step : Nat) (h : Keeps σ s) : Keeps σ (State.cstat s state reason step) := by
  unfold State.cstat
  repeat' (first
    | with_reducible assumption | with_reducible apply State.setFld_keeps)

theorem State.secure_keeps {σ s : State} (p : Nat) (h : Keeps σ s) : Keeps σ (State.secure s p) := by
  unfold State.secure
  repeat' (first
    | with_reducible assumption | with_reducible exact Keeps.refl _
    | (intro x; with_reducible refine Keeps.cut x ?_ ?_; rotate_left 1; clear_value x; intro hx)
    | (intro x; clear_value x) | intro x | (lift_lets; intro x; clear_value x) | with_reducible apply Keeps.ite
    | with_reducible apply Keeps.foldl | with_reducible apply State.cstat_keeps | with_reducible apply State.hubOp_keeps
    | with_reducible apply State.sendTo_keeps | with_reducible apply Keeps.mk_rest)

theorem State.failWrite_keeps {σ s : State} (reason : Nat) (h : Keeps σ s) : Keeps σ (State.failWrite s reason) := by
  unfold State.failWrite
  repeat' (first
    | with_reducible assumption | with_reducible apply State.cstat_keeps | split | with_reducible apply Keeps.mk_rest)

theorem State.putBlock_keeps {σ s : State} (p off : Nat) (data : List Byte) (h : Keeps σ s) : Keeps σ (State.putBlock s p off data) := by
  unfold State.putBlock
  repeat' (first
    | with_reducible assumption | with_reducible exact Keeps.refl _ | (intro x; clear_value x) | intro x
    | (lift_lets; intro x; clear_value x) | with_reducible apply Keeps.ite | with_reducible apply Keeps.foldl
    | with_reducible apply State.hubWrite_keeps)

theorem State.markOffset_keeps {σ s : State} (p off : Nat) (h : Keeps σ s) : Keeps σ (State.markOffset s p off) := by
  unfold State.markOffset
  repeat' (first
    | with_reducible assumption | exact fun w => Memory.wf_setPoison _ _ w | split | with_reducible apply Keeps.mk_mem)

theorem State.restoreArb_keeps {σ s : State} (p : Nat) (l : List Byte) (h : Keeps σ s) : Keeps σ (State.restoreArb s p l) := by
  unfold State.restoreArb
  repeat' (first
    | with_reducible assumption | with_reducible exact Keeps.refl _
    | (intro x; with_reducible refine Keeps.cut x ?_ ?_; rotate_left 1; clear_value x; intro hx) | intro x
    | (lift_lets; intro x; clear_value x) | with_reducible apply Keeps.ite | with_reducible apply Keeps.foldl
    | with_reducible apply State.setReg_keeps | with_reducible apply Keeps.mk_rest)

theorem State.applyCairn_keeps {σ s : State} (p : Nat) (l : List Byte) (h : Keeps σ s) : Keeps σ (State.applyCairn s p l) := by
  unfold State.applyCairn
  repeat' (first
    | with_reducible assumption | with_reducible exact Keeps.refl _
    | (intro x; with_reducible refine Keeps.cut x ?_ ?_; rotate_left 1; clear_value x; intro hx)
    | (intro x; clear_value x) | intro x | (lift_lets; intro x; clear_value x) | with_reducible apply Keeps.foldl
    | with_reducible apply State.fresh_keeps | with_reducible apply State.markOffset_keeps
    | with_reducible apply State.restoreArb_keeps | with_reducible apply State.setFld_keeps
    | with_reducible apply State.updCore_keeps | with_reducible apply State.updPart_keeps | split)

/-! ### Machine/Drain -/

theorem State.readRow_keeps {σ s : State} (k arr quad : Nat) (o : Op) (b : DrainB) (d : DescB) (h : Keeps σ s) : Keeps σ (State.readRow s k arr quad o b d) := by
  unfold State.readRow
  repeat' (first
    | with_reducible assumption | (intro x; clear_value x) | (lift_lets; intro x; clear_value x)
    | with_reducible apply State.raise_keeps | with_reducible apply State.setCore_keeps)

theorem execDdesc_keeps {σ s t : State} (c dd : Nat) (d : DescB) (h : Keeps σ s) (e : execDdesc c dd d s = .next t) : Keeps σ t := by
  refine guardWf_keeps e ?_
  beta_reduce
  repeat' (first
    | with_reducible assumption | with_reducible apply State.control_keeps)

theorem execDrain_keeps {σ s t : State} (c : Nat) (cf : Cf) (b : DrainB) (h : Keeps σ s) (e : execDrain c cf b s = .next t) : Keeps σ t := by
  refine guardWf_keeps e ?_
  beta_reduce
  repeat' (first
    | with_reducible assumption | with_reducible apply State.request_keeps)

theorem execDrainRowRead_keeps {σ s t : State} (c arr quad : Nat) (qerr : List QErr) (h : Keeps σ s) (e : execDrainRowRead c arr quad qerr s = .next t) : Keeps σ t := by
  refine guardWf_keeps e ?_
  beta_reduce
  repeat' (first
    | with_reducible assumption
    | (lift_lets; intro x; with_reducible refine Keeps.cut x ?_ ?_; rotate_left 1; clear_value x; intro hx)
    | with_reducible apply Keeps.ite | with_reducible apply State.meetErrs_keeps
    | with_reducible apply State.readRow_keeps | with_reducible apply State.setCore_keeps | split)

theorem execDrainPush_keeps {σ s t : State} (c arr q : Nat) (h : Keeps σ s) (e : execDrainPush c arr q s = .next t) : Keeps σ t := by
  refine guardWf_keeps e ?_
  beta_reduce
  repeat' (first
    | with_reducible assumption | (intro x; clear_value x) | (lift_lets; intro x; clear_value x)
    | with_reducible apply Keeps.ite | with_reducible apply State.raise_keeps | with_reducible apply State.setCore_keeps
    | split)

theorem execTopkPush_keeps {σ s t : State} (c arr q : Nat) (h : Keeps σ s) (e : execTopkPush c arr q s = .next t) : Keeps σ t := by
  refine guardWf_keeps e ?_
  beta_reduce
  repeat' (first
    | with_reducible assumption | (intro x; clear_value x) | (lift_lets; intro x; clear_value x)
    | with_reducible apply Keeps.ite | with_reducible apply State.setCore_keeps | split)

theorem execColumnBlockEmit_keeps {σ s t : State} (c arr q : Nat) (h : Keeps σ s) (e : execColumnBlockEmit c arr q s = .next t) : Keeps σ t := by
  refine guardWf_keeps e ?_
  beta_reduce
  split
  · exact h
  · dsimp only
    split
    · exact h
    · refine Keeps.ite ?_ h
      refine Keeps.ite (State.raise_keeps _ _ (State.setCore_keeps _ _ h)) (State.setCore_keeps _ _ h)

end Sys2Proof.Machine
end

