-- ==== Sys2Proof/Laws/KeepsFabric.lean ====
section
/-! SUPPORT. What the operations never undo (`Keeps`): steps, the core map, the fabric, stacked memory, epochs and reductions. One lemma for each operation over the state, and one for each meaning. -/

namespace Sys2Proof.Machine

/-! ### Machine/Steps -/

theorem State.updCores_keeps {σ s : State} (p : Nat) (f : Core → Core) (h : Keeps σ s) : Keeps σ (State.updCores s p f) := by
  unfold State.updCores
  repeat' (first
    | with_reducible assumption | with_reducible exact Keeps.refl _ | intro x | with_reducible apply Keeps.foldl
    | with_reducible apply State.updCore_keeps)

theorem State.closeWindow_keeps {σ s : State} (n step : Nat) (h : Keeps σ s) : Keeps σ (State.closeWindow s n step) := by
  unfold State.closeWindow
  repeat' (first
    | with_reducible assumption | with_reducible exact Keeps.refl _
    | (intro x; with_reducible refine Keeps.cut x ?_ ?_; rotate_left 1; clear_value x; intro hx)
    | (intro x; clear_value x) | intro x | (lift_lets; intro x; clear_value x) | with_reducible apply Keeps.foldl
    | with_reducible apply State.setFld_keeps | with_reducible apply State.setReg_keeps
    | with_reducible apply Keeps.mk_rest)

theorem State.closeWindows_keeps {σ s : State} (p step : Nat) (h : Keeps σ s) : Keeps σ (State.closeWindows s p step) := by
  unfold State.closeWindows
  repeat' (first
    | with_reducible assumption | with_reducible exact Keeps.refl _ | intro x | with_reducible apply Keeps.ite
    | with_reducible apply Keeps.foldl | with_reducible apply State.closeWindow_keeps)

theorem State.clearWindows_keeps {σ s : State} (p : Nat) (h : Keeps σ s) : Keeps σ (State.clearWindows s p) := by
  unfold State.clearWindows
  repeat' (first
    | with_reducible assumption | with_reducible exact Keeps.refl _ | intro x | with_reducible apply Keeps.ite
    | with_reducible apply Keeps.foldl | with_reducible apply State.setReg_keeps | with_reducible apply Keeps.mk_rest)

theorem State.checkStep_keeps {σ s : State} (p : Nat) (h : Keeps σ s) : Keeps σ (State.checkStep s p) := by
  unfold State.checkStep
  repeat' (first
    | with_reducible assumption
    | (intro x; with_reducible refine Keeps.cut x ?_ ?_; rotate_left 1; clear_value x; intro hx)
    | (lift_lets; intro x; clear_value x) | with_reducible apply Keeps.ite | with_reducible apply State.say_keeps
    | with_reducible apply State.updPart_keeps | split)

theorem State.stepWrap_keeps {σ s : State} (p : Nat) (h : Keeps σ s) : Keeps σ (State.stepWrap s p) := by
  unfold State.stepWrap
  repeat' (first
    | with_reducible assumption | (intro x; clear_value x) | (lift_lets; intro x; clear_value x)
    | with_reducible apply State.terminate_keeps)

theorem State.clearOrdinals_keeps {σ s : State} (p : Nat) (h : Keeps σ s) : Keeps σ (State.clearOrdinals s p) := by
  unfold State.clearOrdinals
  repeat' (first
    | with_reducible assumption
    | (lift_lets; intro x; with_reducible refine Keeps.cut x ?_ ?_; rotate_left 1; clear_value x; intro hx)
    | with_reducible apply State.updCores_keeps | with_reducible apply Keeps.mk_rest)

theorem State.openStep_keeps {σ s : State} (p : Nat) (c : StepCmd) (h : Keeps σ s) : Keeps σ (State.openStep s p c) := by
  unfold State.openStep
  repeat' (first
    | with_reducible assumption
    | (intro x; with_reducible refine Keeps.cut x ?_ ?_; rotate_left 1; clear_value x; intro hx)
    | (intro x; clear_value x) | (lift_lets; intro x; clear_value x) | with_reducible apply Keeps.ite
    | with_reducible apply State.answer_keeps | with_reducible apply State.clearOrdinals_keeps
    | with_reducible apply State.clearPhases_keeps | with_reducible apply State.hubWrite_keeps
    | with_reducible apply State.reach_keeps | with_reducible apply State.setReg_keeps
    | with_reducible apply State.stepWrap_keeps | with_reducible apply State.updCores_keeps
    | with_reducible apply State.updPart_keeps)

theorem State.release_keeps {σ s : State} (p : Nat) (h : Keeps σ s) : Keeps σ (State.release s p) := by
  unfold State.release
  repeat' (first
    | with_reducible assumption | with_reducible exact Keeps.refl _ | intro x
    | (lift_lets; intro x; with_reducible refine Keeps.cut x ?_ ?_; rotate_left 1; clear_value x; intro hx)
    | with_reducible apply Keeps.ite | with_reducible apply Keeps.foldl | with_reducible apply State.shutEpoch_keeps
    | with_reducible apply Keeps.mk_rest)

theorem State.endProgram_keeps {σ s : State} (p : Nat) (h : Keeps σ s) : Keeps σ (State.endProgram s p) := by
  unfold State.endProgram
  repeat' (first
    | with_reducible assumption
    | (intro x; with_reducible refine Keeps.cut x ?_ ?_; rotate_left 1; clear_value x; intro hx)
    | (lift_lets; intro x; clear_value x) | with_reducible apply Keeps.ite | with_reducible apply State.dropCmd_keeps
    | with_reducible apply State.exportPhases_keeps | with_reducible apply State.release_keeps
    | with_reducible apply State.sendTermination_keeps | with_reducible apply State.setReg_keeps
    | with_reducible apply State.updPart_keeps)

theorem execStreamStart_keeps {σ s t : State} (p : Nat) (h : Keeps σ s) (e : execStreamStart p s = .next t) : Keeps σ t := by
  refine guardWf_keeps e ?_
  beta_reduce
  repeat' (first
    | with_reducible assumption
    | (intro x; with_reducible refine Keeps.cut x ?_ ?_; rotate_left 1; clear_value x; intro hx)
    | (lift_lets; intro x; clear_value x) | with_reducible apply Keeps.ite | with_reducible apply State.setArb_keeps
    | with_reducible apply State.updCores_keeps | with_reducible apply Keeps.mk_rest)

theorem execStepClose_keeps {σ s t : State} (p : Nat) (h : Keeps σ s) (e : execStepClose p s = .next t) : Keeps σ t := by
  refine guardWf_keeps e ?_
  beta_reduce
  repeat' (first
    | with_reducible assumption
    | (intro x; with_reducible refine Keeps.cut x ?_ ?_; rotate_left 1; clear_value x; intro hx)
    | (lift_lets; intro x; clear_value x) | with_reducible apply Keeps.ite | with_reducible apply State.checkStep_keeps
    | with_reducible apply State.closeWindows_keeps | with_reducible apply State.exportPhases_keeps
    | with_reducible apply State.govern_keeps | with_reducible apply State.secure_keeps
    | with_reducible apply State.stepWrap_keeps | with_reducible apply State.terminate_keeps
    | with_reducible apply State.updPart_keeps)

theorem execProgramEnd_keeps {σ s t : State} (p : Nat) (h : Keeps σ s) (e : execProgramEnd p s = .next t) : Keeps σ t := by
  refine guardWf_keeps e ?_
  beta_reduce
  repeat' (first
    | with_reducible assumption | with_reducible apply Keeps.ite | with_reducible apply State.endProgram_keeps
    | with_reducible apply State.terminate_keeps)

theorem execPartitionRelease_keeps {σ s t : State} (p : Nat) (h : Keeps σ s) (e : execPartitionRelease p s = .next t) : Keeps σ t := by
  refine guardWf_keeps e ?_
  beta_reduce
  repeat' (first
    | with_reducible assumption | with_reducible apply Keeps.ite | with_reducible apply State.release_keeps)

theorem execStallTimeout_keeps {σ s t : State} (p : Nat) (h : Keeps σ s) (e : execStallTimeout p s = .next t) : Keeps σ t := by
  refine guardWf_keeps e ?_
  beta_reduce
  repeat' (first
    | with_reducible assumption | with_reducible apply Keeps.ite | with_reducible apply State.terminate_keeps | split)

/-! ### Machine/CoreMap -/

theorem State.countHealth_keeps {σ s : State}  (h : Keeps σ s) : Keeps σ (State.countHealth s) := by
  unfold State.countHealth
  repeat' (first
    | with_reducible assumption | (intro x; clear_value x) | (lift_lets; intro x; clear_value x)
    | with_reducible apply State.setFld_keeps)

theorem State.restSpares_keeps {σ s : State} (m : List Nat) (h : Keeps σ s) : Keeps σ (s.restSpares m) := by
  refine ⟨h.mem, fun x => ?_, h.floor, h.floorUp, h.kseqUp⟩
  obtain ⟨hr, hn⟩ := h.regs x
  exact ⟨Tab.rising_drop (fun a => (coreOfReg a).any (fun k => !m.contains k && !s.fenced k)) hr, fun e he => hn e (List.mem_of_mem_filter he)⟩

theorem State.putMap_keeps {σ s : State} (m : List Nat) (h : Keeps σ s) : Keeps σ (State.putMap s m) := by
  unfold State.putMap
  repeat' (first
    | with_reducible assumption | with_reducible exact Keeps.refl _ | intro x
    | (lift_lets; intro x; with_reducible refine Keeps.cut x ?_ ?_; rotate_left 1; clear_value x; intro hx)
    | with_reducible apply Keeps.ite | with_reducible apply Keeps.foldl | with_reducible apply State.countHealth_keeps
    | with_reducible apply State.restSpares_keeps | with_reducible apply State.setFld_keeps
    | with_reducible apply State.setReg_keeps)

theorem State.refuseMap_keeps {σ s : State} (few : Bool) (h : Keeps σ s) : Keeps σ (State.refuseMap s few) := by
  unfold State.refuseMap
  repeat' (first
    | with_reducible assumption | with_reducible exact Keeps.refl _
    | (intro x; with_reducible refine Keeps.cut x ?_ ?_; rotate_left 1; clear_value x; intro hx) | intro x
    | (lift_lets; intro x; clear_value x) | with_reducible apply Keeps.ite | with_reducible apply Keeps.foldl
    | with_reducible apply State.countHealth_keeps | with_reducible apply State.restSpares_keeps
    | with_reducible apply State.setFld_keeps)

theorem State.clearCore_keeps {σ s : State} (k c : Nat) (h : Keeps σ s) : Keeps σ (State.clearCore s k c) := by
  unfold State.clearCore
  repeat' (first
    | with_reducible assumption
    | (lift_lets; intro x; with_reducible refine Keeps.cut x ?_ ?_; rotate_left 1; clear_value x; intro hx)
    | with_reducible apply State.clearRegs_keeps | with_reducible apply State.setReg_keeps)

theorem State.rehost_keeps {σ s : State} (n k : Nat) (x : Core) (h : Keeps σ s) : Keeps σ (State.rehost s n k x) := by
  unfold State.rehost
  repeat' (first
    | with_reducible assumption | with_reducible apply Keeps.ite | with_reducible apply State.clearCore_keeps
    | with_reducible apply State.setCore_keeps | split)

theorem State.moveCores_keeps {σ s : State} (m : List Nat) (h : Keeps σ s) : Keeps σ (State.moveCores s m) := by
  unfold State.moveCores
  repeat' (first
    | with_reducible assumption | with_reducible exact Keeps.refl _ | intro x | (lift_lets; intro x; clear_value x)
    | with_reducible apply Keeps.foldl | with_reducible apply State.putMap_keeps | with_reducible apply State.rehost_keeps)

theorem State.restartRestore_keeps {σ s : State}  (h : Keeps σ s) : Keeps σ (State.restartRestore s) := by
  unfold State.restartRestore
  repeat' (first
    | with_reducible assumption
    | (lift_lets; intro x; with_reducible refine Keeps.cut x ?_ ?_; rotate_left 1; clear_value x; intro hx)
    | with_reducible apply Keeps.ite | with_reducible apply State.sendTo_keeps | split
    | with_reducible apply Keeps.mk_rest)

theorem State.remap_keeps {σ s : State} (doomed : List Nat) (c : Nat) (h : Keeps σ s) : Keeps σ (State.remap s doomed c) := by
  unfold State.remap
  repeat' (first
    | with_reducible assumption | with_reducible exact Keeps.refl _ | intro x | with_reducible apply Keeps.foldl
    | with_reducible apply State.moveCores_keeps | with_reducible apply State.refuseMap_keeps
    | with_reducible apply State.restartRestore_keeps | with_reducible apply State.terminate_keeps | split)

theorem State.fenceProgram_keeps {σ s : State} (c : Nat) (h : Keeps σ s) : Keeps σ (State.fenceProgram s c) := by
  unfold State.fenceProgram
  repeat' (first
    | with_reducible assumption
    | (intro x; with_reducible refine Keeps.cut x ?_ ?_; subst x; rotate_left 1; clear_value x; intro hx)
    | (intro x; subst x) | (lift_lets; intro x; subst x) | with_reducible apply Keeps.ite
    | with_reducible apply State.remap_keeps | with_reducible apply State.terminate_keeps | split)

theorem State.fenceCore_keeps {σ s : State} (k : Nat) (h : Keeps σ s) : Keeps σ (State.fenceCore s k) := by
  unfold State.fenceCore
  repeat' (first
    | with_reducible assumption
    | (lift_lets; intro x; with_reducible refine Keeps.cut x ?_ ?_; rotate_left 1; clear_value x; intro hx)
    | with_reducible apply Keeps.ite | with_reducible apply State.countHealth_keeps
    | with_reducible apply State.fenceProgram_keeps | with_reducible apply State.setFld_keeps | split)

theorem State.remapAtStart_keeps {σ s : State} (p : Nat) (h : Keeps σ s) : Keeps σ (State.remapAtStart s p) := by
  unfold State.remapAtStart
  repeat' (first
    | with_reducible assumption | with_reducible apply State.remap_keeps | split)

theorem State.readFences_keeps {σ s : State} (lasting : Nat → Bool) (h : Keeps σ s) : Keeps σ (State.readFences s lasting) := by
  unfold State.readFences
  repeat' (first
    | with_reducible assumption | with_reducible exact Keeps.refl _ | intro x | with_reducible apply Keeps.foldl
    | with_reducible apply State.countHealth_keeps | with_reducible apply State.setFld_keeps)

theorem State.failDevice_keeps {σ s : State}  (h : Keeps σ s) : Keeps σ (State.failDevice s) := by
  unfold State.failDevice
  repeat' (first
    | with_reducible assumption | with_reducible exact Keeps.refl _ | intro x | with_reducible apply Keeps.foldl
    | with_reducible apply State.fenceCore_keeps | with_reducible apply State.setFld_keeps)

theorem execStepOpen_keeps {σ s t : State} (p : Nat) (h : Keeps σ s) (e : execStepOpen p s = .next t) : Keeps σ t := by
  refine guardWf_keeps e ?_
  beta_reduce
  repeat' (first
    | with_reducible assumption
    | (lift_lets; intro x; with_reducible refine Keeps.cut x ?_ ?_; rotate_left 1; clear_value x; intro hx)
    | with_reducible apply Keeps.ite | with_reducible apply State.openStep_keeps
    | with_reducible apply State.remapAtStart_keeps | split)

theorem State.faultChannel_keeps {σ s : State} (q : Nat) (h : Keeps σ s) : Keeps σ (State.faultChannel s q) := by
  unfold State.faultChannel
  repeat' (first
    | with_reducible assumption
    | (lift_lets; intro x; with_reducible refine Keeps.cut x ?_ ?_; rotate_left 1; clear_value x; intro hx)
    | with_reducible apply Keeps.ite | with_reducible apply State.failDevice_keeps
    | with_reducible apply State.setFld_keeps | with_reducible apply State.unitEvent_keeps)

/-! ### Machine/Hmc -/

theorem State.burstCorrected_keeps {σ s : State} (q a : Nat) (h : Keeps σ s) : Keeps σ (State.burstCorrected s q a) := by
  unfold State.burstCorrected
  repeat' (first
    | with_reducible assumption | (lift_lets; intro x; clear_value x) | with_reducible apply Keeps.ite
    | with_reducible apply State.addFld_keeps | with_reducible apply State.setFld_keeps
    | with_reducible apply State.unitEvent_keeps)

theorem State.burstLost_keeps {σ s : State} (q a : Nat) (h : Keeps σ s) : Keeps σ (s.burstLost q a) := by
  unfold State.burstLost
  refine Keeps.ite h (State.unitEvent_keeps _ _ _ (State.setFld_keeps _ _ _ _ (State.addFld_keeps _ _ _ _ ?_)))
  exact ⟨fun w => Memory.wf_setPoison _ _ (h.mem w), h.regs, h.floor, h.floorUp, h.kseqUp⟩

theorem State.burstErr_keeps {σ s : State} (q a : Nat) (e : Ecc) (h : Keeps σ s) : Keeps σ (State.burstErr s q a e) := by
  unfold State.burstErr
  repeat' (first
    | with_reducible assumption | with_reducible apply State.burstCorrected_keeps
    | with_reducible apply State.burstLost_keeps | split)

theorem State.onDie_keeps {σ s : State} (q a : Nat) (odc : Bool) (h : Keeps σ s) : Keeps σ (State.onDie s q a odc) := by
  unfold State.onDie
  repeat' (first
    | with_reducible assumption | with_reducible apply Keeps.ite | with_reducible apply State.addFld_keeps
    | with_reducible apply State.setFld_keeps | with_reducible apply State.unitEvent_keeps)

theorem State.setReq_keeps {σ s : State} (r : FabReq) (h : Keeps σ s) : Keeps σ (State.setReq s r) := by
  unfold State.setReq
  repeat' (first
    | with_reducible assumption | with_reducible apply Keeps.mk_rest)

theorem State.serve_keeps {σ s : State} (r : FabReq) (data : List PByte) (h : Keeps σ s) : Keeps σ (State.serve s r data) := by
  unfold State.serve
  repeat' (first
    | with_reducible assumption | with_reducible apply State.setReq_keeps)

theorem State.writeReq_keeps {σ s : State} (r : FabReq) (h : Keeps σ s) : Keeps σ (State.writeReq s r) := by
  unfold State.writeReq
  repeat' (first
    | with_reducible assumption
    | (lift_lets; intro x; with_reducible refine Keeps.cut x ?_ ?_; rotate_left 1; clear_value x; intro hx)
    | with_reducible apply State.serve_keeps | with_reducible apply State.storeWord_keeps
    | with_reducible apply State.wrote_keeps | split)

theorem execHmcRead_keeps {σ s t : State} (id : Nat) (e0 e1 : Ecc) (odc : Bool) (h : Keeps σ s) (e : execHmcRead id e0 e1 odc s = .next t) : Keeps σ t := by
  refine guardWf_keeps e ?_
  beta_reduce
  repeat' (first
    | with_reducible assumption
    | (lift_lets; intro x; with_reducible refine Keeps.cut x ?_ ?_; rotate_left 1; clear_value x; intro hx)
    | (lift_lets; intro x; clear_value x) | with_reducible apply Keeps.ite | with_reducible apply State.burstErr_keeps
    | with_reducible apply State.chanGrant_keeps | with_reducible apply State.countAccess_keeps
    | with_reducible apply State.onDie_keeps | with_reducible apply State.serve_keeps | split)

theorem execHmcWrite_keeps {σ s t : State} (id : Nat) (h : Keeps σ s) (e : execHmcWrite id s = .next t) : Keeps σ t := by
  refine guardWf_keeps e ?_
  beta_reduce
  repeat' (first
    | with_reducible assumption | with_reducible apply Keeps.ite | with_reducible apply State.chanGrant_keeps
    | with_reducible apply State.countAccess_keeps | with_reducible apply State.writeReq_keeps | split)

theorem execRefresh_keeps {σ s t : State} (q bank : Nat) (h : Keeps σ s) (e : execRefresh q bank s = .next t) : Keeps σ t := by
  refine guardWf_keeps e ?_
  beta_reduce
  repeat' (first
    | with_reducible assumption)

theorem execRefreshManagement_keeps {σ s t : State} (q : Nat) (h : Keeps σ s) (e : execRefreshManagement q s = .next t) : Keeps σ t := by
  refine guardWf_keeps e ?_
  beta_reduce
  repeat' (first
    | with_reducible assumption)

theorem execHmcScrub_keeps {σ s t : State} (q : Nat) (err : Ecc) (odc : Bool) (h : Keeps σ s) (e : execHmcScrub q err odc s = .next t) : Keeps σ t := by
  refine guardWf_keeps e ?_
  beta_reduce
  repeat' (first
    | with_reducible assumption
    | (intro x; with_reducible refine Keeps.cut x ?_ ?_; rotate_left 1; clear_value x; intro hx)
    | (lift_lets; intro x; clear_value x) | with_reducible apply Keeps.ite | with_reducible apply State.burstErr_keeps
    | with_reducible apply State.onDie_keeps | with_reducible apply State.updChan_keeps | split)

theorem execInterfaceError_keeps {σ s t : State} (q : Nat) (h : Keeps σ s) (e : execInterfaceError q s = .next t) : Keeps σ t := by
  refine guardWf_keeps e ?_
  beta_reduce
  repeat' (first
    | with_reducible assumption | with_reducible apply State.updChan_keeps)

theorem State.sweepWord_keeps {σ s : State} (n a : Nat) (h : Keeps σ s) : Keeps σ (State.sweepWord s n a) := by
  unfold State.sweepWord
  repeat' (first
    | with_reducible assumption
    | (lift_lets; intro x; with_reducible refine Keeps.cut x ?_ ?_; rotate_left 1; clear_value x; intro hx)
    | with_reducible apply State.countAccess_keeps | with_reducible apply State.setReg_keeps | split)

theorem execDigestSweepComplete_keeps {σ s t : State} (n : Nat) (h : Keeps σ s) (e : execDigestSweepComplete n s = .next t) : Keeps σ t := by
  refine guardWf_keeps e ?_
  beta_reduce
  repeat' (first
    | with_reducible assumption | with_reducible exact Keeps.refl _
    | (intro x; with_reducible refine Keeps.cut x ?_ ?_; rotate_left 1; clear_value x; intro hx) | intro x
    | (lift_lets; intro x; clear_value x) | with_reducible apply Keeps.ite | with_reducible apply Keeps.foldl
    | with_reducible apply State.setFld_keeps | with_reducible apply State.setReg_keeps
    | with_reducible apply State.sweepWord_keeps | with_reducible apply Keeps.mk_rest)

theorem State.tgDestroy_keeps {σ s : State} (q w : Nat) (h : Keeps σ s) : Keeps σ (s.tgDestroy q w) := by
  unfold State.tgDestroy
  exact Keeps.ite (Keeps.mk_mem (h := State.fresh_keeps h) (hm := fun w => Memory.wf_lay _ w) ..) h

theorem execTgRunComplete_keeps {σ s t : State} (q eff fpc fbank frow errs : Nat) (h : Keeps σ s) (e : execTgRunComplete q eff fpc fbank frow errs s = .next t) : Keeps σ t := by
  refine guardWf_keeps e ?_
  beta_reduce
  repeat' (first
    | with_reducible assumption | with_reducible apply Keeps.ite | with_reducible apply State.setReg_keeps
    | with_reducible apply State.tgDestroy_keeps | with_reducible apply State.updChan_keeps | split)

/-! ### Machine/Fabric -/

theorem State.sliceEcc_keeps {σ s : State} (slice bank : Nat) (ue : Bool) (h : Keeps σ s) : Keeps σ (State.sliceEcc s slice bank ue) := by
  unfold State.sliceEcc
  repeat' (first
    | with_reducible assumption
    | (intro x; with_reducible refine Keeps.cut x ?_ ?_; rotate_left 1; clear_value x; intro hx)
    | (lift_lets; intro x; clear_value x) | with_reducible apply Keeps.ite | with_reducible apply State.addFld_keeps
    | with_reducible apply State.setFld_keeps)

theorem State.groupCorrected_keeps {σ s : State} (a g : Nat) (h : Keeps σ s) : Keeps σ (State.groupCorrected s a g) := by
  unfold State.groupCorrected
  repeat' (first
    | with_reducible assumption | with_reducible apply Keeps.ite | with_reducible apply State.sliceEcc_keeps
    | with_reducible apply State.unitEvent_keeps)

theorem State.groupLost_keeps {σ s : State} (a g : Nat) (h : Keeps σ s) : Keeps σ (State.groupLost s a g) := by
  unfold State.groupLost
  repeat' (first
    | with_reducible assumption | exact fun w => Memory.wf_setPoison _ _ w
    | (lift_lets; intro x; with_reducible refine Keeps.cut x ?_ ?_; rotate_left 1; clear_value x; intro hx)
    | with_reducible apply Keeps.ite | with_reducible apply State.sliceEcc_keeps
    | with_reducible apply State.unitEvent_keeps | with_reducible apply Keeps.mk_mem)

theorem State.wordErrors_keeps {σ s : State} (a : Nat) (ce ue : List Nat) (h : Keeps σ s) : Keeps σ (State.wordErrors s a ce ue) := by
  unfold State.wordErrors
  repeat' (first
    | with_reducible assumption | with_reducible exact Keeps.refl _
    | (intro x; with_reducible refine Keeps.cut x ?_ ?_; rotate_left 1; clear_value x; intro hx) | intro x
    | (lift_lets; intro x; clear_value x) | with_reducible apply Keeps.foldl
    | with_reducible apply State.groupCorrected_keeps | with_reducible apply State.groupLost_keeps)

theorem State.contribute_keeps {σ s : State} (p c : Nat) (r : FabReq) (o : Op) (a : Nat) (h : Keeps σ s) : Keeps σ (State.contribute s p c r o a) := by
  unfold State.contribute
  repeat' (first
    | with_reducible assumption | (intro x; clear_value x) | (lift_lets; intro x; clear_value x)
    | with_reducible apply Keeps.mk_rest)

theorem State.potPoison_keeps {σ s : State} (p : Nat) (xs : List Contrib) (h : Keeps σ s) : Keeps σ (State.potPoison s p xs) := by
  unfold State.potPoison
  repeat' (first
    | with_reducible assumption | with_reducible apply State.poisonStore_keeps | split)

theorem State.applyRound_keeps {σ s : State} (a : Nat) (w : PotWord) (xs : List Contrib) (h : Keeps σ s) : Keeps σ (State.applyRound s a w xs) := by
  unfold State.applyRound
  repeat' (first
    | with_reducible assumption
    | (intro x; with_reducible refine Keeps.cut x ?_ ?_; rotate_left 1; clear_value x; intro hx)
    | (intro x; clear_value x) | (lift_lets; intro x; clear_value x) | with_reducible apply State.closeMerge_keeps
    | with_reducible apply State.countPot_keeps | with_reducible apply State.potPoison_keeps
    | with_reducible apply State.raise_keeps | with_reducible apply State.storeWord_keeps | split
    | with_reducible apply Keeps.mk_rest)

theorem State.roundRead_keeps {σ s : State} (m a : Nat) (err : Ecc) (h : Keeps σ s) : Keeps σ (State.roundRead s m a err) := by
  unfold State.roundRead
  repeat' (first
    | with_reducible assumption
    | (intro x; with_reducible refine Keeps.cut x ?_ ?_; subst x; rotate_left 1; clear_value x; intro hx)
    | (intro x; subst x) | (lift_lets; intro x; subst x) | with_reducible apply Keeps.ite
    | with_reducible apply State.bankAccess_keeps | with_reducible apply State.burstErr_keeps
    | with_reducible apply State.countAccess_keeps | with_reducible apply State.wordErrors_keeps | split)

theorem execSliceRead_keeps {σ s t : State} (id : Nat) (ce ue : List Nat) (h : Keeps σ s) (e : execSliceRead id ce ue s = .next t) : Keeps σ t := by
  refine guardWf_keeps e ?_
  beta_reduce
  repeat' (first
    | with_reducible assumption
    | (intro x; with_reducible refine Keeps.cut x ?_ ?_; subst x; rotate_left 1; clear_value x; intro hx)
    | (lift_lets; intro x; subst x) | with_reducible apply Keeps.ite | with_reducible apply State.serve_keeps
    | with_reducible apply State.sliceGrant_keeps | with_reducible apply State.sliceRead_keeps
    | with_reducible apply State.wordErrors_keeps | split)

theorem execSliceWrite_keeps {σ s t : State} (id : Nat) (h : Keeps σ s) (e : execSliceWrite id s = .next t) : Keeps σ t := by
  refine guardWf_keeps e ?_
  beta_reduce
  repeat' (first
    | with_reducible assumption | (lift_lets; intro x; subst x) | with_reducible apply Keeps.ite
    | with_reducible apply State.bankAccess_keeps | with_reducible apply State.closeMerge_keeps
    | with_reducible apply State.sliceGrant_keeps | with_reducible apply State.writeReq_keeps | split)

theorem execSliceScrub_keeps {σ s t : State} (slice : Nat) (ce ue : List Nat) (h : Keeps σ s) (e : execSliceScrub slice ce ue s = .next t) : Keeps σ t := by
  refine guardWf_keeps e ?_
  beta_reduce
  refine Keeps.mk_rest (h := Keeps.foldl (Keeps.foldl (Keeps.foldl h fun t b => ?_) fun t g => ?_) fun t g => ?_) ..
  · exact State.spend_keeps _ _ (State.waited_keeps _ _ _ (State.bankAccess_keeps _ _ (Keeps.refl t)))
  · exact State.groupCorrected_keeps _ _ (Keeps.refl t)
  · exact State.groupLost_keeps _ _ (Keeps.refl t)

theorem execPotluckContribution_keeps {σ s t : State} (id : Nat) (h : Keeps σ s) (e : execPotluckContribution id s = .next t) : Keeps σ t := by
  refine guardWf_keeps e ?_
  beta_reduce
  repeat' (first
    | with_reducible assumption | with_reducible exact Keeps.refl _ | intro x
    | (lift_lets; intro x; with_reducible refine Keeps.cut x ?_ ?_; rotate_left 1; clear_value x; intro hx)
    | with_reducible apply Keeps.ite | with_reducible apply Keeps.foldl | with_reducible apply State.contribute_keeps
    | with_reducible apply State.countPot_keeps | with_reducible apply State.setReq_keeps
    | with_reducible apply State.sliceGrant_keeps | split)

theorem execPotluckRoundApply_keeps {σ s t : State} (a : Nat) (err : Ecc) (h : Keeps σ s) (e : execPotluckRoundApply a err s = .next t) : Keeps σ t := by
  refine guardWf_keeps e ?_
  beta_reduce
  repeat' (first
    | with_reducible assumption | with_reducible apply Keeps.ite | with_reducible apply State.applyRound_keeps
    | with_reducible apply State.roundRead_keeps | split)

theorem execRemoteFlagAdd_keeps {σ s t : State} (id : Nat) (h : Keeps σ s) (e : execRemoteFlagAdd id s = .next t) : Keeps σ t := by
  refine guardWf_keeps e ?_
  beta_reduce
  repeat' (first
    | with_reducible assumption
    | (intro x; with_reducible refine Keeps.cut x ?_ ?_; subst x; rotate_left 1; clear_value x; intro hx)
    | (lift_lets; intro x; subst x) | with_reducible apply Keeps.ite | with_reducible apply State.addFlag_keeps
    | with_reducible apply State.freeReq_keeps | with_reducible apply State.updCore_keeps | split)

theorem State.landResponse_keeps {σ s : State} (id : Nat) (h : Keeps σ s) : Keeps σ (State.landResponse s id) := by
  unfold State.landResponse
  repeat' (first
    | with_reducible assumption
    | (lift_lets; intro x; with_reducible refine Keeps.cut x ?_ ?_; rotate_left 1; clear_value x; intro hx)
    | with_reducible apply Keeps.ite | with_reducible apply State.freeReq_keeps | with_reducible apply State.land_keeps
    | split)

theorem execWriteAcknowledge_keeps {σ s t : State} (id : Nat) (h : Keeps σ s) (e : execWriteAcknowledge id s = .next t) : Keeps σ t := by
  refine guardWf_keeps e ?_
  beta_reduce
  repeat' (first
    | with_reducible assumption | with_reducible apply Keeps.ite | with_reducible apply State.acked_keeps
    | with_reducible apply State.freeReq_keeps | split)

theorem State.updLink_keeps {σ s : State} (e : Nat) (f : Link → Link) (h : Keeps σ s) : Keeps σ (State.updLink s e f) := by
  unfold State.updLink
  repeat' (first
    | with_reducible assumption | with_reducible apply Keeps.mk_rest)

theorem State.setLink_keeps {σ s : State} (d n st : Nat) (h : Keeps σ s) : Keeps σ (State.setLink s d n st) := by
  unfold State.setLink
  repeat' (first
    | with_reducible assumption | with_reducible exact Keeps.refl _ | intro x | with_reducible apply Keeps.foldl
    | with_reducible apply State.setFld_keeps)

theorem State.retrainLink_keeps {σ s : State} (d n : Nat) (h : Keeps σ s) : Keeps σ (State.retrainLink s d n) := by
  unfold State.retrainLink
  repeat' (first
    | with_reducible assumption | with_reducible exact Keeps.refl _ | intro x
    | (lift_lets; intro x; with_reducible refine Keeps.cut x ?_ ?_; rotate_left 1; clear_value x; intro hx)
    | with_reducible apply Keeps.foldl | with_reducible apply State.addFld_keeps
    | with_reducible apply State.setLink_keeps | with_reducible apply State.unitEvent_keeps
    | with_reducible apply State.updLink_keeps)

theorem execBridgeBlockReceive_keeps {σ s t : State} (d n seq : Nat) (good : Bool) (h : Keeps σ s) (e : execBridgeBlockReceive d n seq good s = .next t) : Keeps σ t := by
  refine guardWf_keeps e ?_
  beta_reduce
  repeat' (first
    | with_reducible assumption
    | (lift_lets; intro x; with_reducible refine Keeps.cut x ?_ ?_; rotate_left 1; clear_value x; intro hx)
    | with_reducible apply Keeps.ite | with_reducible apply State.emit_keeps
    | with_reducible apply State.retrainLink_keeps | with_reducible apply State.updLink_keeps)

theorem execBridgeNack_keeps {σ s t : State} (d n seq : Nat) (h : Keeps σ s) (e : execBridgeNack d n seq s = .next t) : Keeps σ t := by
  refine guardWf_keeps e ?_
  beta_reduce
  repeat' (first
    | with_reducible assumption | with_reducible exact Keeps.refl _ | intro x | with_reducible apply Keeps.ite
    | with_reducible apply Keeps.foldl | with_reducible apply State.addFld_keeps)

theorem execBridgeAck_keeps {σ s t : State} (d n seq : Nat) (h : Keeps σ s) (e : execBridgeAck d n seq s = .next t) : Keeps σ t := by
  refine guardWf_keeps e ?_
  beta_reduce
  repeat' (first
    | with_reducible assumption | with_reducible apply State.updLink_keeps)

theorem State.detour_keeps {σ s : State} (d n e f : Nat) (h : Keeps σ s) : Keeps σ (State.detour s d n e f) := by
  unfold State.detour
  repeat' (first
    | with_reducible assumption | with_reducible exact Keeps.refl _
    | (intro x; with_reducible refine Keeps.cut x ?_ ?_; rotate_left 1; clear_value x; intro hx) | intro x
    | (lift_lets; intro x; clear_value x) | with_reducible apply Keeps.foldl | with_reducible apply State.addFld_keeps
    | with_reducible apply State.updLink_keeps)

theorem State.downLink_keeps {σ s : State} (d n : Nat) (h : Keeps σ s) : Keeps σ (State.downLink s d n) := by
  unfold State.downLink
  repeat' (first
    | with_reducible assumption
    | (lift_lets; intro x; with_reducible refine Keeps.cut x ?_ ?_; rotate_left 1; clear_value x; intro hx)
    | with_reducible apply State.detour_keeps | with_reducible apply State.setLink_keeps
    | with_reducible apply State.unitEvent_keeps)

theorem execLinkRetrainEnd_keeps {σ s t : State} (d n : Nat) (ok : Bool) (h : Keeps σ s) (e : execLinkRetrainEnd d n ok s = .next t) : Keeps σ t := by
  refine guardWf_keeps e ?_
  beta_reduce
  repeat' (first
    | with_reducible assumption | (intro x; clear_value x) | (lift_lets; intro x; clear_value x)
    | with_reducible apply Keeps.ite | with_reducible apply State.downLink_keeps
    | with_reducible apply State.setLink_keeps)

theorem State.loseSlices_keeps {σ s : State}  (h : Keeps σ s) : Keeps σ (State.loseSlices s) := by
  unfold State.loseSlices
  repeat' (first
    | with_reducible assumption | with_reducible exact Keeps.refl _ | intro x
    | (lift_lets; intro x; with_reducible refine Keeps.cut x ?_ ?_; rotate_left 1; clear_value x; intro hx)
    | with_reducible apply Keeps.foldl | with_reducible apply State.failDevice_keeps
    | with_reducible apply State.setArb_keeps | with_reducible apply State.terminate_keeps)

theorem State.failRouter_keeps {σ s : State} (d r : Nat) (h : Keeps σ s) : Keeps σ (State.failRouter s d r) := by
  unfold State.failRouter
  repeat' (first
    | with_reducible assumption
    | (lift_lets; intro x; with_reducible refine Keeps.cut x ?_ ?_; rotate_left 1; clear_value x; intro hx)
    | with_reducible apply Keeps.ite | with_reducible apply State.fenceCore_keeps
    | with_reducible apply State.loseSlices_keeps | with_reducible apply State.setFld_keeps)

theorem execRouterFailure_keeps {σ s t : State} (d r : Nat) (h : Keeps σ s) (e : execRouterFailure d r s = .next t) : Keeps σ t := by
  refine guardWf_keeps e ?_
  beta_reduce
  repeat' (first
    | with_reducible assumption
    | (lift_lets; intro x; with_reducible refine Keeps.cut x ?_ ?_; rotate_left 1; clear_value x; intro hx)
    | with_reducible apply Keeps.ite | with_reducible apply State.failRouter_keeps
    | with_reducible apply State.unitEvent_keeps)

theorem State.laySlice_keeps {σ s : State} (slice : Nat) (tag : Option Nat) (h : Keeps σ s) : Keeps σ (State.laySlice s slice tag) := by
  unfold State.laySlice
  repeat' (first
    | with_reducible assumption | exact fun w => Memory.wf_lay _ w | with_reducible apply Keeps.mk_mem)

theorem State.recordFails_keeps {σ s : State} (slice : Nat) (fails : List Nat) (h : Keeps σ s) : Keeps σ (State.recordFails s slice fails) := by
  unfold State.recordFails
  repeat' (first
    | with_reducible assumption | with_reducible exact Keeps.refl _
    | (intro x; with_reducible refine Keeps.cut x ?_ ?_; rotate_left 1; clear_value x; intro hx) | intro x
    | (lift_lets; intro x; clear_value x) | with_reducible apply Keeps.foldl | with_reducible apply State.setFld_keeps
    | with_reducible apply State.unitEvent_keeps | split | with_reducible apply Keeps.mk_flash | rfl)

theorem State.markWord_keeps {σ s : State} (slice w : Nat) (h : Keeps σ s) : Keeps σ (State.markWord s slice w) := by
  unfold State.markWord
  repeat' (first
    | with_reducible assumption | exact fun w => Memory.wf_foldl_setPoison _ _ _ w
    | (intro x; with_reducible refine Keeps.cut x ?_ ?_; rotate_left 1; clear_value x; intro hx)
    | (lift_lets; intro x; clear_value x) | with_reducible apply State.groupLost_keeps | with_reducible apply Keeps.mk_mem)

theorem execMarchComplete_keeps {σ s t : State} (slice : Nat) (b : MarchB) (h : Keeps σ s) (e : execMarchComplete slice b s = .next t) : Keeps σ t := by
  refine guardWf_keeps e ?_
  beta_reduce
  repeat' (first
    | with_reducible assumption | with_reducible exact Keeps.refl _
    | (intro x; with_reducible refine Keeps.cut x ?_ ?_; rotate_left 1; clear_value x; intro hx)
    | (intro x; clear_value x) | intro x | (lift_lets; intro x; clear_value x) | with_reducible apply Keeps.ite
    | with_reducible apply Keeps.foldl | with_reducible apply State.laySlice_keeps
    | with_reducible apply State.markWord_keeps | with_reducible apply State.recordFails_keeps
    | with_reducible apply State.setArb_keeps | with_reducible apply State.setFld_keeps)

/-! ### Machine/Epochs -/

theorem State.updMember_keeps {σ s : State} (ch : Nat) (f : MemberSide → MemberSide) (h : Keeps σ s) : Keeps σ (State.updMember s ch f) := by
  unfold State.updMember
  repeat' (first
    | with_reducible assumption | with_reducible apply State.updEpoch_keeps)

theorem State.updHost_keeps {σ s : State} (ch : Nat) (f : HostSide → HostSide) (h : Keeps σ s) : Keeps σ (State.updHost s ch f) := by
  unfold State.updHost
  repeat' (first
    | with_reducible assumption | with_reducible apply State.updEpoch_keeps)

theorem State.stale_keeps {σ s : State}  (h : Keeps σ s) : Keeps σ (State.stale s) := by
  unfold State.stale
  repeat' (first
    | with_reducible assumption | with_reducible apply State.addFld_keeps)

theorem State.ownRecord_keeps {σ s : State} (e : Epoch) (outcome : Nat) (h : Keeps σ s) : Keeps σ (State.ownRecord s e outcome).2 := by
  unfold State.ownRecord
  repeat' (first
    | with_reducible assumption | (lift_lets; intro x; clear_value x) | split | with_reducible apply Keeps.mk_rest)

theorem State.endEpoch_keeps {σ s : State} (ch outcome : Nat) (h : Keeps σ s) : Keeps σ (State.endEpoch s ch outcome) := by
  unfold State.endEpoch
  repeat' (first
    | with_reducible assumption | with_reducible apply Keeps.ite | with_reducible apply State.closeEpoch_keeps
    | with_reducible apply State.ownRecord_keeps | with_reducible apply State.putEpoch_keeps | split)

theorem State.grantRank_keeps {σ s : State} (ch total room rank : Nat) (h : Keeps σ s) : Keeps σ (State.grantRank s ch total room rank).2 := by
  unfold State.grantRank
  repeat' (first
    | with_reducible assumption
    | (intro x; with_reducible refine Keeps.cut x ?_ ?_; rotate_left 1; clear_value x; intro hx)
    | (intro x; clear_value x) | (lift_lets; intro x; clear_value x) | with_reducible apply State.toRank_keeps
    | with_reducible apply State.updHolder_keeps | split)

theorem State.withhold_keeps {σ s : State} (ch total rank : Nat) (h : Keeps σ s) : Keeps σ (State.withhold s ch total rank) := by
  unfold State.withhold
  repeat' (first
    | with_reducible assumption | (lift_lets; intro x; clear_value x) | with_reducible apply Keeps.ite
    | with_reducible apply State.addFld_keeps | with_reducible apply State.updHolder_keeps | split)

theorem State.grantCredit_keeps {σ s : State} (ch : Nat) (h : Keeps σ s) : Keeps σ (s.grantCredit ch) := by
  unfold State.grantCredit
  split
  · exact h
  · split
    · refine Keeps.ite h (Keeps.foldl (Keeps.pairFold h fun x r hx => State.grantRank_keeps _ _ _ _ hx) fun t r => ?_)
      exact State.withhold_keeps _ _ _ (Keeps.refl t)
    · exact h

theorem State.unstage_keeps {σ s : State} (ch rank : Nat) (h : Keeps σ s) : Keeps σ (State.unstage s ch rank) := by
  unfold State.unstage
  repeat' (first
    | with_reducible assumption | with_reducible apply State.countStage_keeps | with_reducible apply State.updHolder_keeps)

theorem State.inconsistent_keeps {σ s : State} (ch : Nat) (h : Keeps σ s) : Keeps σ (State.inconsistent s ch) := by
  unfold State.inconsistent
  repeat' (first
    | with_reducible assumption
    | (lift_lets; intro x; with_reducible refine Keeps.cut x ?_ ?_; rotate_left 1; clear_value x; intro hx)
    | with_reducible apply Keeps.ite | with_reducible apply State.dropHolder_keeps
    | with_reducible apply State.endEpoch_keeps | with_reducible apply State.ownRecord_keeps
    | with_reducible apply State.toRanks_keeps | split)

theorem State.holderLost_keeps {σ s : State} (ch : Nat) (h : Keeps σ s) : Keeps σ (State.holderLost s ch) := by
  unfold State.holderLost
  repeat' (first
    | with_reducible assumption | with_reducible apply Keeps.ite | with_reducible apply State.dropHolder_keeps
    | with_reducible apply State.toRanks_keeps | split)

theorem State.feedRank_keeps {σ s : State} (ch rank : Nat) (h : Keeps σ s) : Keeps σ (State.feedRank s ch rank) := by
  unfold State.feedRank
  repeat' (first
    | with_reducible assumption | (lift_lets; intro x; clear_value x) | with_reducible apply State.inconsistent_keeps
    | with_reducible apply State.updHolder_keeps | split | with_reducible apply Keeps.mk_rest)

theorem State.catchUp_keeps {σ s : State} (ch upTo : Nat) (excluded : List Nat) (h : Keeps σ s) : Keeps σ (State.catchUp s ch upTo excluded) := by
  unfold State.catchUp
  repeat' (first
    | with_reducible assumption | with_reducible exact Keeps.refl _
    | (intro x; with_reducible refine Keeps.cut x ?_ ?_; rotate_left 1; clear_value x; intro hx) | intro x
    | (lift_lets; intro x; with_reducible refine Keeps.cut x ?_ ?_; rotate_left 1; clear_value x; intro hx)
    | (lift_lets; intro x; clear_value x) | with_reducible apply Keeps.ite | with_reducible apply Keeps.foldl
    | with_reducible apply State.feedRank_keeps | with_reducible apply State.grantCredit_keeps
    | with_reducible apply State.unstage_keeps | with_reducible apply State.updHolder_keeps | split)

theorem State.landResult_keeps {σ s : State} (e : Epoch) (d : Desc) (first flags : Nat) (ws : List PWord) (h : Keeps σ s) : Keeps σ (State.landResult s e d first flags ws) := by
  unfold State.landResult
  repeat' (first
    | with_reducible assumption
    | (intro x; with_reducible refine Keeps.cut x ?_ ?_; rotate_left 1; clear_value x; intro hx)
    | (lift_lets; intro x; clear_value x) | with_reducible apply Keeps.ite | with_reducible apply State.hubWrite_keeps
    | with_reducible apply State.poisonStore_keeps | with_reducible apply State.updMember_keeps)

theorem State.checkLanded_keeps {σ s : State} (ch : Nat) (h : Keeps σ s) : Keeps σ (State.checkLanded s ch) := by
  unfold State.checkLanded
  repeat' (first
    | with_reducible assumption | (lift_lets; intro x; clear_value x) | with_reducible apply Keeps.ite
    | with_reducible apply State.endEpoch_keeps | split)

theorem State.sendBlock_keeps {σ s : State} (ch first : Nat) (h : Keeps σ s) : Keeps σ (State.sendBlock s ch first) := by
  unfold State.sendBlock
  repeat' (first
    | with_reducible assumption
    | (intro x; with_reducible refine Keeps.cut x ?_ ?_; rotate_left 1; clear_value x; intro hx)
    | (lift_lets; intro x; clear_value x) | with_reducible apply Keeps.ite | with_reducible apply State.toRank_keeps
    | with_reducible apply State.updMember_keeps | split)

theorem State.sendBlocks_keeps {σ s : State} (ch : Nat) (h : Keeps σ s) : Keeps σ (State.sendBlocks s ch) := by
  unfold State.sendBlocks
  repeat' (first
    | with_reducible assumption | with_reducible exact Keeps.refl _ | intro x | with_reducible apply Keeps.foldl
    | with_reducible apply State.sendBlock_keeps | split)

theorem State.checkDone_keeps {σ s : State} (ch : Nat) (h : Keeps σ s) : Keeps σ (State.checkDone s ch) := by
  unfold State.checkDone
  repeat' (first
    | with_reducible assumption | with_reducible apply Keeps.ite | with_reducible apply State.toRank_keeps
    | with_reducible apply State.updMember_keeps | split)

theorem State.formBlock_keeps {σ s : State} (ch first : Nat) (h : Keeps σ s) : Keeps σ (State.formBlock s ch first) := by
  unfold State.formBlock
  repeat' (first
    | with_reducible assumption | (intro x; clear_value x) | (lift_lets; intro x; clear_value x)
    | with_reducible apply Keeps.ite | with_reducible apply State.updMember_keeps | split)

theorem State.emitWords_keeps {σ s : State} (ch first : Nat) (ws : List (Nat × Bool)) (h : Keeps σ s) : Keeps σ (State.emitWords s ch first ws) := by
  unfold State.emitWords
  repeat' (first
    | with_reducible assumption | with_reducible exact Keeps.refl _
    | (intro x; with_reducible refine Keeps.cut x ?_ ?_; rotate_left 1; clear_value x; intro hx) | intro x
    | (lift_lets; intro x; with_reducible refine Keeps.cut x ?_ ?_; rotate_left 1; clear_value x; intro hx)
    | (lift_lets; intro x; clear_value x) | with_reducible apply Keeps.foldl | with_reducible apply State.checkDone_keeps
    | with_reducible apply State.formBlock_keeps | with_reducible apply State.sendBlocks_keeps
    | with_reducible apply State.updMember_keeps | split)

theorem State.exportCensus_keeps {σ s : State} (e : Epoch) (ranks : List Nat) (h : Keeps σ s) : Keeps σ (State.exportCensus s e ranks) := by
  unfold State.exportCensus
  repeat' (first
    | with_reducible assumption | with_reducible exact Keeps.refl _ | intro x | with_reducible apply Keeps.foldl
    | with_reducible apply State.telemetry_keeps)

theorem State.sendAdmit_keeps {σ s : State} (ch : Nat) (h : Keeps σ s) : Keeps σ (State.sendAdmit s ch) := by
  unfold State.sendAdmit
  repeat' (first
    | with_reducible assumption
    | (intro x; with_reducible refine Keeps.cut x ?_ ?_; rotate_left 1; clear_value x; intro hx)
    | (lift_lets; intro x; clear_value x) | with_reducible apply State.toRanks_keeps
    | with_reducible apply State.updHost_keeps | split | with_reducible apply Keeps.mk_rest)

theorem State.wantAdmit_keeps {σ s : State} (ch : Nat) (h : Keeps σ s) : Keeps σ (State.wantAdmit s ch) := by
  unfold State.wantAdmit
  repeat' (first
    | with_reducible assumption | with_reducible apply Keeps.ite | with_reducible apply State.sendAdmit_keeps
    | with_reducible apply State.updHost_keeps | split)

theorem State.hostClose_keeps {σ s : State} (ch : Nat) (forced : Option Nat) (h : Keeps σ s) : Keeps σ (State.hostClose s ch forced) := by
  unfold State.hostClose
  repeat' (first
    | with_reducible assumption
    | (intro x; with_reducible refine Keeps.cut x ?_ ?_; rotate_left 1; clear_value x; intro hx)
    | (intro x; clear_value x) | (lift_lets; intro x; clear_value x) | with_reducible apply Keeps.ite
    | with_reducible apply State.applyGroup_keeps | with_reducible apply State.exportCensus_keeps
    | with_reducible apply State.sendAdmit_keeps | with_reducible apply State.toRanks_keeps
    | with_reducible apply State.updHost_keeps | split)

theorem State.checkResolved_keeps {σ s : State} (ch : Nat) (h : Keeps σ s) : Keeps σ (State.checkResolved s ch) := by
  unfold State.checkResolved
  repeat' (first
    | with_reducible assumption | with_reducible apply Keeps.ite | with_reducible apply State.hostClose_keeps | split)

theorem State.excludeRest_keeps {σ s : State} (ch : Nat) (h : Keeps σ s) : Keeps σ (State.excludeRest s ch) := by
  unfold State.excludeRest
  repeat' (first
    | with_reducible assumption | with_reducible apply State.hostClose_keeps | with_reducible apply State.updHost_keeps)

theorem State.closeRoll_keeps {σ s : State} (ch : Nat) (h : Keeps σ s) : Keeps σ (State.closeRoll s ch) := by
  unfold State.closeRoll
  repeat' (first
    | with_reducible assumption
    | (intro x; with_reducible refine Keeps.cut x ?_ ?_; rotate_left 1; clear_value x; intro hx)
    | (lift_lets; intro x; clear_value x) | with_reducible apply Keeps.ite | with_reducible apply State.excludeRest_keeps
    | with_reducible apply State.hostClose_keeps | with_reducible apply State.toRanks_keeps
    | with_reducible apply State.updHost_keeps | split)

theorem State.gotAnswer_keeps {σ s : State} (n : EpName) (digest ver rank : Nat) (h : Keeps σ s) : Keeps σ (State.gotAnswer s n digest ver rank) := by
  unfold State.gotAnswer
  repeat' (first
    | with_reducible assumption
    | (lift_lets; intro x; with_reducible refine Keeps.cut x ?_ ?_; rotate_left 1; clear_value x; intro hx)
    | with_reducible apply Keeps.ite | with_reducible apply State.closeRoll_keeps | with_reducible apply State.stale_keeps
    | with_reducible apply State.toRank_keeps | with_reducible apply State.updHost_keeps | split
    | with_reducible apply Keeps.mk_rest)

theorem State.gotDone_keeps {σ s : State} (n : EpName) (rank : Nat) (nan poison : Bool) (h : Keeps σ s) : Keeps σ (State.gotDone s n rank nan poison) := by
  unfold State.gotDone
  repeat' (first
    | with_reducible assumption
    | (intro x; with_reducible refine Keeps.cut x ?_ ?_; rotate_left 1; clear_value x; intro hx)
    | (lift_lets; intro x; clear_value x) | with_reducible apply Keeps.ite
    | with_reducible apply State.checkResolved_keeps | with_reducible apply State.stale_keeps
    | with_reducible apply State.updHost_keeps | with_reducible apply State.wantAdmit_keeps | split)

theorem State.gotLate_keeps {σ s : State} (n : EpName) (delay : Nat) (h : Keeps σ s) : Keeps σ (State.gotLate s n delay) := by
  unfold State.gotLate
  repeat' (first
    | with_reducible assumption
    | (lift_lets; intro x; with_reducible refine Keeps.cut x ?_ ?_; rotate_left 1; clear_value x; intro hx)
    | (lift_lets; intro x; clear_value x) | with_reducible apply Keeps.ite | with_reducible apply State.addFld_keeps
    | with_reducible apply State.stale_keeps | with_reducible apply State.updEpoch_keeps
    | with_reducible apply State.updHost_keeps | with_reducible apply State.wantAdmit_keeps | split)

theorem State.gotRoll_keeps {σ s : State} (n : EpName) (digest deadline rcDeadline : Nat) (h : Keeps σ s) : Keeps σ (State.gotRoll s n digest deadline rcDeadline) := by
  unfold State.gotRoll
  repeat' (first
    | with_reducible assumption
    | (lift_lets; intro x; with_reducible refine Keeps.cut x ?_ ?_; rotate_left 1; clear_value x; intro hx)
    | with_reducible apply Keeps.ite | with_reducible apply State.putEpoch_keeps
    | with_reducible apply State.shutEpoch_keeps | with_reducible apply State.stale_keeps
    | with_reducible apply State.terminate_keeps | with_reducible apply State.toRank_keeps | split
    | with_reducible apply Keeps.mk_rest)

theorem State.announce_keeps {σ s : State} (ch head miss : Nat) (h : Keeps σ s) : Keeps σ (State.announce s ch head miss) := by
  unfold State.announce
  repeat' (first
    | with_reducible assumption | with_reducible apply State.setFld_keeps)

theorem State.gotRoster_keeps {σ s : State} (n : EpName) (deadline : Nat) (listener : Bool) (adm : List Nat) (h : Keeps σ s) :
    Keeps σ (s.gotRoster n deadline listener adm) := by
  unfold State.gotRoster
  split
  · exact State.stale_keeps h
  · refine Keeps.ite (State.stale_keeps h) (Keeps.ite (State.shutEpoch_keeps _ (State.terminate_keeps _ _ _ h)) ?_)
    exact State.grantCredit_keeps _ (Keeps.mk_mem (s := (State.announce (State.putEpoch s _) _ _ _).fresh.2)
      (h := State.fresh_keeps (State.announce_keeps _ _ _ (State.putEpoch_keeps _ h))) (hm := fun w => Memory.wf_lay _ w) ..)

theorem State.gotContrib_keeps {σ s : State} (n : EpName) (rank first : Nat) (data : List PByte) (h : Keeps σ s) :
    Keeps σ (s.gotContrib n rank first data) := by
  have rack : ∀ {t : State} m, Keeps σ t → Keeps σ (t.toRank n.group rank m) := fun m ht => State.toRank_keeps _ _ _ ht
  have st := State.stale_keeps h
  have bad := State.addFld_keeps rRdrop 31 16 1 h
  unfold State.gotContrib
  split
  · exact rack _ st
  · split
    · dsimp only
      split
      · exact rack _ (State.addFld_keeps _ _ _ _ h)
      · exact Keeps.ite (rack _ st) (Keeps.ite (rack _ bad) (Keeps.ite (rack _ bad)
          (State.grantCredit_keeps _ (rack _ (State.countStage_keeps (State.updHolder_keeps _ _
            (Keeps.ite h (State.updHolder_keeps _ _ (State.hubWrite_keeps _ _ h)))))))))
    · exact rack _ st

theorem State.gotRack_keeps {σ s : State} (n : EpName) (rank status : Nat) (nan poison : Bool) (cred first : Nat) (h : Keeps σ s) : Keeps σ (State.gotRack s n rank status nan poison cred first) := by
  unfold State.gotRack
  repeat' (first
    | with_reducible assumption
    | (intro x; with_reducible refine Keeps.cut x ?_ ?_; rotate_left 1; clear_value x; intro hx)
    | (lift_lets; intro x; with_reducible refine Keeps.cut x ?_ ?_; rotate_left 1; clear_value x; intro hx)
    | (lift_lets; intro x; clear_value x) | with_reducible apply Keeps.ite | with_reducible apply State.checkDone_keeps
    | with_reducible apply State.sendBlocks_keeps | with_reducible apply State.stale_keeps
    | with_reducible apply State.updMember_keeps | split)

theorem State.gotAdmit_keeps {σ s : State} (n : EpName) (deadline : Nat) (upTo : Option Nat) (excluded : List Nat) (h : Keeps σ s) : Keeps σ (State.gotAdmit s n deadline upTo excluded) := by
  unfold State.gotAdmit
  repeat' (first
    | with_reducible assumption
    | (lift_lets; intro x; with_reducible refine Keeps.cut x ?_ ?_; rotate_left 1; clear_value x; intro hx)
    | (lift_lets; intro x; clear_value x) | with_reducible apply Keeps.ite | with_reducible apply State.announce_keeps
    | with_reducible apply State.catchUp_keeps | with_reducible apply State.stale_keeps
    | with_reducible apply State.updEpoch_keeps | split)

theorem State.countClose_keeps {σ s : State} (ch : Nat) (r : List Byte) (h : Keeps σ s) : Keeps σ (State.countClose s ch r) := by
  unfold State.countClose
  repeat' (first
    | with_reducible assumption | with_reducible apply State.setFld_keeps)

theorem State.closeHolder_keeps {σ s : State} (ch outcome : Nat) (included : List Nat) (h : Keeps σ s) : Keeps σ (State.closeHolder s ch outcome included) := by
  unfold State.closeHolder
  repeat' (first
    | with_reducible assumption
    | (intro x; with_reducible refine Keeps.cut x ?_ ?_; rotate_left 1; clear_value x; intro hx)
    | (lift_lets; intro x; clear_value x) | with_reducible apply Keeps.ite | with_reducible apply State.catchUp_keeps
    | with_reducible apply State.dropHolder_keeps | with_reducible apply State.updHolder_keeps | split)

theorem State.gotClose_keeps {σ s : State} (n : EpName) (outcome : Nat) (record : List Byte) (included : List Nat) (h : Keeps σ s) : Keeps σ (State.gotClose s n outcome record included) := by
  unfold State.gotClose
  repeat' (first
    | with_reducible assumption
    | (lift_lets; intro x; with_reducible refine Keeps.cut x ?_ ?_; rotate_left 1; clear_value x; intro hx)
    | with_reducible apply Keeps.ite | with_reducible apply State.checkLanded_keeps
    | with_reducible apply State.closeHolder_keeps | with_reducible apply State.countClose_keeps
    | with_reducible apply State.endEpoch_keeps | with_reducible apply State.stale_keeps
    | with_reducible apply State.updEpoch_keeps | split)

theorem State.gotResult_keeps {σ s : State} (n : EpName) (rank : Nat) (longSum sumNan poison : Bool) (rfmt first : Nat) (data : List PByte)
    (h : Keeps σ s) : Keeps σ (s.gotResult n rank longSum sumNan poison rfmt first data) := by
  have st := State.stale_keeps h
  unfold State.gotResult
  split
  · exact st
  · split
    · exact Keeps.ite st (Keeps.ite h (State.checkLanded_keeps _ (State.landResult_keeps _ _ _ _ _ h)))
    · exact st

theorem State.gotAbandon_keeps {σ s : State} (n : EpName) (h : Keeps σ s) : Keeps σ (State.gotAbandon s n) := by
  unfold State.gotAbandon
  repeat' (first
    | with_reducible assumption | with_reducible apply Keeps.ite | with_reducible apply State.dropHolder_keeps
    | with_reducible apply State.endEpoch_keeps | with_reducible apply State.stale_keeps | split)

theorem State.gotLost_keeps {σ s : State} (n : EpName) (rank : Nat) (h : Keeps σ s) : Keeps σ (State.gotLost s n rank) := by
  unfold State.gotLost
  repeat' (first
    | with_reducible assumption | with_reducible apply Keeps.ite | with_reducible apply State.dropHolder_keeps
    | with_reducible apply State.endEpoch_keeps | with_reducible apply State.stale_keeps | split)

theorem State.gotMsg_keeps {σ s : State} (m : Msg) (h : Keeps σ s) : Keeps σ (State.gotMsg s m) := by
  unfold State.gotMsg
  repeat' (first
    | with_reducible assumption | with_reducible apply State.gotAbandon_keeps | with_reducible apply State.gotAdmit_keeps
    | with_reducible apply State.gotAnswer_keeps | with_reducible apply State.gotClose_keeps
    | with_reducible apply State.gotContrib_keeps | with_reducible apply State.gotDone_keeps
    | with_reducible apply State.gotLate_keeps | with_reducible apply State.gotLost_keeps
    | with_reducible apply State.gotRack_keeps | with_reducible apply State.gotResult_keeps
    | with_reducible apply State.gotRoll_keeps | with_reducible apply State.gotRoster_keeps | split)

/-! ### Machine/RowEngine -/

theorem State.rxStep_keeps {σ s : State} (k c : Nat) (o : Op) (b : RxB) (h : Keeps σ s) : Keeps σ (State.rxStep s k c o b) := by
  unfold State.rxStep
  repeat' (first
    | with_reducible assumption | (intro x; clear_value x) | (lift_lets; intro x; clear_value x)
    | with_reducible apply Keeps.ite | with_reducible apply State.raise_keeps | with_reducible apply State.setCore_keeps
    | split)

theorem State.qmoveStep_keeps {σ s : State} (k : Nat) (o : Op) (qs qd bytes : Nat) (h : Keeps σ s) : Keeps σ (State.qmoveStep s k o qs qd bytes) := by
  unfold State.qmoveStep
  repeat' (first
    | with_reducible assumption | (intro x; clear_value x) | (lift_lets; intro x; clear_value x)
    | with_reducible apply Keeps.ite | with_reducible apply State.setCore_keeps)

theorem execRx_keeps {σ s t : State} (c : Nat) (cf : Cf) (b : RxB) (h : Keeps σ s) (e : execRx c cf b s = .next t) : Keeps σ t := by
  refine guardWf_keeps e ?_
  beta_reduce
  repeat' (first
    | with_reducible assumption | with_reducible apply State.request_keeps)

theorem execRebase_keeps {σ s t : State} (c dep stride ebase : Nat) (h : Keeps σ s) (e : execRebase c dep stride ebase s = .next t) : Keeps σ t := by
  refine guardWf_keeps e ?_
  beta_reduce
  repeat' (first
    | with_reducible assumption | with_reducible apply State.control_keeps)

theorem execQmove_keeps {σ s t : State} (c : Nat) (cf : Cf) (qs qd bytes : Nat) (h : Keeps σ s) (e : execQmove c cf qs qd bytes s = .next t) : Keeps σ t := by
  refine guardWf_keeps e ?_
  beta_reduce
  repeat' (first
    | with_reducible assumption | with_reducible apply State.request_keeps)

theorem execRxGroup_keeps {σ s t : State} (c : Nat) (qerr : List QErr) (h : Keeps σ s) (e : execRxGroup c qerr s = .next t) : Keeps σ t := by
  refine guardWf_keeps e ?_
  beta_reduce
  repeat' (first
    | with_reducible assumption
    | (lift_lets; intro x; with_reducible refine Keeps.cut x ?_ ?_; subst x; rotate_left 1; clear_value x; intro hx)
    | (lift_lets; intro x; clear_value x) | with_reducible apply State.meetErrs_keeps
    | with_reducible apply State.qmoveStep_keeps | with_reducible apply State.rxStep_keeps
    | with_reducible apply State.setCore_keeps | with_reducible apply State.updCore_keeps | split)

theorem execHwFault_keeps {σ s t : State} (c : Nat) (h : Keeps σ s) (e : execHwFault c s = .next t) : Keeps σ t := by
  refine guardWf_keeps e ?_
  beta_reduce
  repeat' (first
    | with_reducible assumption | with_reducible apply State.terminate_keeps | with_reducible apply State.unitEvent_keeps
    | split)

/-! ### Machine/Reduction -/

theorem State.finishOp_keeps {σ s : State} (x : RedOp) (h : Keeps σ s) : Keeps σ (State.finishOp s x) := by
  unfold State.finishOp
  repeat' (first
    | with_reducible assumption | with_reducible apply State.updCore_keeps)

theorem State.emitRacc_keeps {σ s : State} (x : RedOp) (b : RaccB) (h : Keeps σ s) : Keeps σ (State.emitRacc s x b) := by
  unfold State.emitRacc
  repeat' (first
    | with_reducible assumption
    | (intro x; with_reducible refine Keeps.cut x ?_ ?_; rotate_left 1; clear_value x; intro hx)
    | (intro x; clear_value x) | (lift_lets; intro x; clear_value x) | with_reducible apply State.emitWords_keeps
    | with_reducible apply State.raise_keeps | with_reducible apply State.updCore_keeps)

theorem State.pokeRacc_keeps {σ s : State} (x : RedOp) (b : RaccB) (h : Keeps σ s) : Keeps σ (State.pokeRacc s x b) := by
  unfold State.pokeRacc
  repeat' (first
    | with_reducible assumption | with_reducible apply Keeps.ite | with_reducible apply State.emitRacc_keeps
    | with_reducible apply State.finishOp_keeps | split)

theorem State.writeRecord_keeps {σ s : State} (x : RedOp) (r : List Byte) (h : Keeps σ s) : Keeps σ (State.writeRecord s x r) := by
  unfold State.writeRecord
  repeat' (first
    | with_reducible assumption | with_reducible apply Keeps.ite | with_reducible apply State.abort_keeps
    | with_reducible apply State.finishOp_keeps | with_reducible apply State.hubWrite_keeps | split)

theorem State.pokeOp_keeps {σ s : State} (x : RedOp) (h : Keeps σ s) : Keeps σ (State.pokeOp s x) := by
  unfold State.pokeOp
  repeat' (first
    | with_reducible assumption | (lift_lets; intro x; clear_value x) | with_reducible apply Keeps.ite
    | with_reducible apply State.finishOp_keeps | with_reducible apply State.pokeRacc_keeps
    | with_reducible apply State.writeRecord_keeps | split)

theorem State.takeEarly_keeps {σ s : State} (n : EpName) (h : Keeps σ s) : Keeps σ (State.takeEarly s n) := by
  unfold State.takeEarly
  repeat' (first
    | with_reducible assumption | with_reducible exact Keeps.refl _
    | (intro x; with_reducible refine Keeps.cut x ?_ ?_; rotate_left 1; clear_value x; intro hx)
    | (intro x; clear_value x) | intro x | (lift_lets; intro x; clear_value x) | with_reducible apply Keeps.foldl
    | with_reducible apply State.gotAnswer_keeps | with_reducible apply State.gotRoll_keeps
    | with_reducible apply State.stale_keeps | split | with_reducible apply Keeps.mk_rest)

theorem State.openEpoch_keeps {σ s : State} (x : RedOp) (dsc dlns : Nat) (d : Desc) (h : Keeps σ s) : Keeps σ (State.openEpoch s x dsc dlns d) := by
  unfold State.openEpoch
  repeat' (first
    | with_reducible assumption
    | (intro x; with_reducible refine Keeps.cut x ?_ ?_; rotate_left 1; clear_value x; intro hx)
    | (intro x; clear_value x) | (lift_lets; intro x; clear_value x) | with_reducible apply Keeps.ite
    | with_reducible apply State.closeRoll_keeps | with_reducible apply State.putEpoch_keeps
    | with_reducible apply State.setReg_keeps | with_reducible apply State.takeEarly_keeps
    | with_reducible apply State.toRanks_keeps | split | with_reducible apply Keeps.mk_rest)

theorem State.openWaiting_keeps {σ s : State} (x : RedOp) (h : Keeps σ s) : Keeps σ (State.openWaiting s x) := by
  unfold State.openWaiting
  repeat' (first
    | with_reducible assumption | with_reducible apply Keeps.ite | with_reducible apply State.openEpoch_keeps | split)

theorem State.pokeAll_keeps {σ s : State}  (h : Keeps σ s) : Keeps σ (State.pokeAll s) := by
  unfold State.pokeAll
  repeat' (first
    | with_reducible assumption | with_reducible exact Keeps.refl _ | intro x
    | (lift_lets; intro x; with_reducible refine Keeps.cut x ?_ ?_; rotate_left 1; clear_value x; intro hx)
    | with_reducible apply Keeps.foldl | with_reducible apply State.openWaiting_keeps
    | with_reducible apply State.pokeOp_keeps)

theorem State.settleFrom_keeps {σ s : State} (n : Nat) (h : Keeps σ s) : Keeps σ (State.settleFrom n s) := by
  induction n generalizing s with
  | zero => exact h
  | succ n ih =>
    unfold State.settleFrom
    split
    · exact ih (State.gotMsg_keeps _ (Keeps.mk_rest (s := s) (h := h) ..))
    · exact Keeps.ite (State.pokeAll_keeps h) (ih (State.pokeAll_keeps h))

theorem State.settleRed_keeps {σ s : State}  (h : Keeps σ s) : Keeps σ (State.settleRed s) := by
  unfold State.settleRed
  repeat' (first
    | with_reducible assumption | with_reducible apply Keeps.ite | with_reducible apply State.settleFrom_keeps)

theorem State.channelLate_keeps {σ s : State} (q delay : Nat) (h : Keeps σ s) : Keeps σ (State.channelLate s q delay) := by
  unfold State.channelLate
  repeat' (first
    | with_reducible assumption | with_reducible exact Keeps.refl _ | intro x | with_reducible apply Keeps.ite
    | with_reducible apply Keeps.foldl | with_reducible apply State.addFld_keeps | with_reducible apply State.toRank_keeps)

theorem State.loseChannel_keeps {σ s : State} (q : Nat) (h : Keeps σ s) : Keeps σ (State.loseChannel s q) := by
  unfold State.loseChannel
  repeat' (first
    | with_reducible assumption | with_reducible exact Keeps.refl _
    | (intro x; with_reducible refine Keeps.cut x ?_ ?_; rotate_left 1; clear_value x; intro hx) | intro x
    | (lift_lets; intro x; clear_value x) | with_reducible apply Keeps.foldl
    | with_reducible apply State.faultChannel_keeps | with_reducible apply State.holderLost_keeps
    | with_reducible apply State.takeBatch_keeps)

theorem execRepoch_keeps {σ s t : State} (c : Nat) (cf : Cf) (rch dsc dlns : Nat) (h : Keeps σ s) (e : execRepoch c cf rch dsc dlns s = .next t) : Keeps σ t := by
  refine guardWf_keeps e ?_
  beta_reduce
  repeat' (first
    | with_reducible assumption | with_reducible apply State.request_keeps | with_reducible apply State.settleRed_keeps)

theorem execRacc_keeps {σ s t : State} (c : Nat) (cf : Cf) (b : RaccB) (h : Keeps σ s) (e : execRacc c cf b s = .next t) : Keeps σ t := by
  refine guardWf_keeps e ?_
  beta_reduce
  repeat' (first
    | with_reducible assumption | with_reducible apply State.request_keeps | with_reducible apply State.settleRed_keeps)

theorem execRwait_keeps {σ s t : State} (c : Nat) (cf : Cf) (rch dag tout : Nat) (h : Keeps σ s) (e : execRwait c cf rch dag tout s = .next t) : Keeps σ t := by
  refine guardWf_keeps e ?_
  beta_reduce
  repeat' (first
    | with_reducible assumption | with_reducible apply State.request_keeps | with_reducible apply State.settleRed_keeps)

theorem execClaimGrant_keeps {σ s t : State} (c : Nat) (st : Strm) (region : Nat) (h : Keeps σ s) (e : execClaimGrant c st region s = .next t) : Keeps σ t := by
  refine guardWf_keeps e ?_
  beta_reduce
  repeat' (first
    | with_reducible assumption | with_reducible apply State.grantClaim_keeps | with_reducible apply State.settleRed_keeps)

theorem execHamperAccess_keeps {σ s t : State} (c : Nat) (ce ue : List Nat) (h : Keeps σ s) (e : execHamperAccess c ce ue s = .next t) : Keeps σ t := by
  refine guardWf_keeps e ?_
  beta_reduce
  repeat' (first
    | with_reducible assumption | with_reducible apply State.hamperNext_keeps | with_reducible apply State.settleRed_keeps)

theorem execReadResponseLand_keeps {σ s t : State} (id : Nat) (h : Keeps σ s) (e : execReadResponseLand id s = .next t) : Keeps σ t := by
  refine guardWf_keeps e ?_
  beta_reduce
  repeat' (first
    | with_reducible assumption | with_reducible apply State.landResponse_keeps
    | with_reducible apply State.settleRed_keeps)

theorem execRollResend_keeps {σ s t : State} (ch : Nat) (h : Keeps σ s) (e : execRollResend ch s = .next t) : Keeps σ t := by
  refine guardWf_keeps e ?_
  beta_reduce
  repeat' (first
    | with_reducible assumption | with_reducible apply Keeps.ite | with_reducible apply State.toRanks_keeps | split)

theorem execRollCallDeadline_keeps {σ s t : State} (ch : Nat) (h : Keeps σ s) (e : execRollCallDeadline ch s = .next t) : Keeps σ t := by
  refine guardWf_keeps e ?_
  beta_reduce
  repeat' (first
    | with_reducible assumption | with_reducible apply Keeps.ite | with_reducible apply State.closeRoll_keeps
    | with_reducible apply State.reach_keeps | with_reducible apply State.settleRed_keeps | split)

theorem execEpochDeadline_keeps {σ s t : State} (ch : Nat) (h : Keeps σ s) (e : execEpochDeadline ch s = .next t) : Keeps σ t := by
  refine guardWf_keeps e ?_
  beta_reduce
  repeat' (first
    | with_reducible assumption | with_reducible apply Keeps.ite | with_reducible apply State.excludeRest_keeps
    | with_reducible apply State.reach_keeps | with_reducible apply State.settleRed_keeps | split)

theorem execAdmitIntervalExpiry_keeps {σ s t : State} (ch : Nat) (h : Keeps σ s) (e : execAdmitIntervalExpiry ch s = .next t) : Keeps σ t := by
  refine guardWf_keeps e ?_
  beta_reduce
  repeat' (first
    | with_reducible assumption | with_reducible apply Keeps.ite | with_reducible apply State.reach_keeps
    | with_reducible apply State.sendAdmit_keeps | with_reducible apply State.settleRed_keeps | split)

theorem execMemberDeadline_keeps {σ s t : State} (ch : Nat) (h : Keeps σ s) (e : execMemberDeadline ch s = .next t) : Keeps σ t := by
  refine guardWf_keeps e ?_
  beta_reduce
  repeat' (first
    | with_reducible assumption | with_reducible apply Keeps.ite | with_reducible apply State.reach_keeps
    | with_reducible apply State.settleRed_keeps | with_reducible apply State.updEpoch_keeps | split)

theorem execRollCallTimeout_keeps {σ s t : State} (ch : Nat) (h : Keeps σ s) (e : execRollCallTimeout ch s = .next t) : Keeps σ t := by
  refine guardWf_keeps e ?_
  beta_reduce
  repeat' (first
    | with_reducible assumption
    | (lift_lets; intro x; with_reducible refine Keeps.cut x ?_ ?_; rotate_left 1; clear_value x; intro hx)
    | with_reducible apply Keeps.ite | with_reducible apply State.reach_keeps | with_reducible apply State.settleRed_keeps
    | with_reducible apply State.shutEpoch_keeps | with_reducible apply State.terminate_keeps | split)

theorem execRwaitTimeout_keeps {σ s t : State} (c ch : Nat) (h : Keeps σ s) (e : execRwaitTimeout c ch s = .next t) : Keeps σ t := by
  refine guardWf_keeps e ?_
  beta_reduce
  repeat' (first
    | with_reducible assumption | (lift_lets; intro x; subst x) | with_reducible apply Keeps.ite
    | with_reducible apply State.dropHolder_keeps | with_reducible apply State.reach_keeps
    | with_reducible apply State.settleRed_keeps | with_reducible apply State.shutEpoch_keeps
    | with_reducible apply State.terminate_keeps | split)

theorem State.sendResult_keeps {σ s : State} (ch first : Nat) (h : Keeps σ s) : Keeps σ (State.sendResult s ch first) := by
  unfold State.sendResult
  repeat' (first
    | with_reducible assumption
    | (intro x; with_reducible refine Keeps.cut x ?_ ?_; rotate_left 1; clear_value x; intro hx)
    | (intro x; clear_value x) | (lift_lets; intro x; clear_value x) | with_reducible apply Keeps.ite
    | with_reducible apply State.hubOp_keeps | with_reducible apply State.landResult_keeps
    | with_reducible apply State.toRanks_keeps | split)

theorem execHolderResultSend_keeps {σ s t : State} (ch : Nat) (h : Keeps σ s) (e : execHolderResultSend ch s = .next t) : Keeps σ t := by
  refine guardWf_keeps e ?_
  beta_reduce
  repeat' (first
    | with_reducible assumption | with_reducible exact Keeps.refl _
    | (intro x; with_reducible refine Keeps.cut x ?_ ?_; rotate_left 1; clear_value x; intro hx)
    | (intro x; clear_value x) | intro x | (lift_lets; intro x; clear_value x) | with_reducible apply Keeps.ite
    | with_reducible apply Keeps.foldl | with_reducible apply State.checkLanded_keeps
    | with_reducible apply State.dropHolder_keeps | with_reducible apply State.sendResult_keeps
    | with_reducible apply State.settleRed_keeps | with_reducible apply State.updHolder_keeps | split)

theorem State.batchErrs_keeps {σ s : State} (b : Batch) (ce ue : List Nat) (h : Keeps σ s) : Keeps σ (State.batchErrs s b ce ue) := by
  unfold State.batchErrs
  repeat' (first
    | with_reducible assumption | with_reducible exact Keeps.refl _ | intro x | with_reducible apply Keeps.ite
    | with_reducible apply Keeps.foldl | with_reducible apply State.burstCorrected_keeps
    | with_reducible apply State.burstLost_keeps | split)

theorem execTallyAdd_keeps {σ s t : State} (q : Nat) (x : AddB) (h : Keeps σ s) (e : execTallyAdd q x s = .next t) : Keeps σ t := by
  refine guardWf_keeps e ?_
  beta_reduce
  repeat' (first
    | with_reducible assumption
    | (lift_lets; intro x; with_reducible refine Keeps.cut x ?_ ?_; rotate_left 1; clear_value x; intro hx)
    | (lift_lets; intro x; clear_value x) | with_reducible apply Keeps.ite | with_reducible apply State.addFld_keeps
    | with_reducible apply State.batchErrs_keeps | with_reducible apply State.grantCredit_keeps
    | with_reducible apply State.holderLost_keeps | with_reducible apply State.inconsistent_keeps
    | with_reducible apply State.settleRed_keeps | with_reducible apply State.takeBatch_keeps
    | with_reducible apply State.unitEvent_keeps | split)

theorem execChannelRetraining_keeps {σ s t : State} (q : Nat) (h : Keeps σ s) (e : execChannelRetraining q s = .next t) : Keeps σ t := by
  refine guardWf_keeps e ?_
  beta_reduce
  repeat' (first
    | with_reducible assumption
    | (lift_lets; intro x; with_reducible refine Keeps.cut x ?_ ?_; rotate_left 1; clear_value x; intro hx)
    | with_reducible apply Keeps.ite | with_reducible apply State.channelLate_keeps
    | with_reducible apply State.setArb_keeps | with_reducible apply State.setFld_keeps
    | with_reducible apply State.settleRed_keeps | with_reducible apply State.updChan_keeps)

theorem execRetrainingEnd_keeps {σ s t : State} (q : Nat) (ok : Bool) (lanes0 lanes1 : Nat) (h : Keeps σ s) (e : execRetrainingEnd q ok lanes0 lanes1 s = .next t) : Keeps σ t := by
  refine guardWf_keeps e ?_
  beta_reduce
  repeat' (first
    | with_reducible assumption
    | (lift_lets; intro x; with_reducible refine Keeps.cut x ?_ ?_; rotate_left 1; clear_value x; intro hx)
    | with_reducible apply Keeps.ite | with_reducible apply State.loseChannel_keeps
    | with_reducible apply State.setArb_keeps | with_reducible apply State.setFld_keeps
    | with_reducible apply State.settleRed_keeps | with_reducible apply State.updChan_keeps)

end Sys2Proof.Machine
end

