-- ==== Sys2Proof/Laws/KeepsDevice.lean ====
section
/-! SUPPORT. What the operations never undo (`Keeps`): the transport, maintenance, firmware, power and the messages. One lemma for each operation over the state, and one for each meaning. -/

namespace Sys2Proof.Machine

/-! ### Machine/History -/

theorem State.setUnit_keeps {σ s : State} (u : Nat) (r : UnitRec) (h : Keeps σ s) : Keeps σ (State.setUnit s u r) := by
  unfold State.setUnit
  repeat' (first
    | with_reducible assumption | with_reducible apply Keeps.mk_flash | rfl)

theorem State.logEvent_keeps {σ s : State} (e : UEvent) (h : Keeps σ s) : Keeps σ (State.logEvent s e) := by
  unfold State.logEvent
  repeat' (first
    | with_reducible assumption | (lift_lets; intro x; subst x) | with_reducible apply State.telemetry_keeps
    | with_reducible apply Keeps.mk_flash | rfl)

theorem State.stopTests_keeps {σ s : State} (f : Run → Bool) (h : Keeps σ s) : Keeps σ (State.stopTests s f) := by
  unfold State.stopTests
  repeat' (first
    | with_reducible assumption
    | (lift_lets; intro x; with_reducible refine Keeps.cut x ?_ ?_; rotate_left 1; clear_value x; intro hx)
    | with_reducible apply Keeps.ite | with_reducible apply State.setArb_keeps | with_reducible apply State.setFld_keeps
    | with_reducible apply Keeps.mk_rest)

theorem State.fence_keeps {σ s : State} (k : Nat) (h : Keeps σ s) : Keeps σ (State.fence s k) := by
  unfold State.fence
  repeat' (first
    | with_reducible assumption | with_reducible apply State.fenceCore_keeps | with_reducible apply State.stopTests_keeps)

theorem State.actLasting_keeps {σ s : State} (u : Nat) (h : Keeps σ s) : Keeps σ (State.actLasting s u) := by
  unfold State.actLasting
  repeat' (first
    | with_reducible assumption
    | (lift_lets; intro x; with_reducible refine Keeps.cut x ?_ ?_; rotate_left 1; clear_value x; intro hx)
    | with_reducible apply State.failRouter_keeps | with_reducible apply State.fence_keeps
    | with_reducible apply State.loseChannel_keeps | with_reducible apply State.stopTests_keeps | split)

theorem State.classify_keeps {σ s : State} (u : Nat) (h : Keeps σ s) : Keeps σ (State.classify s u) := by
  unfold State.classify
  repeat' (first
    | with_reducible assumption
    | (intro x; with_reducible refine Keeps.cut x ?_ ?_; rotate_left 1; clear_value x; intro hx)
    | (intro x; clear_value x) | (lift_lets; intro x; clear_value x) | with_reducible apply Keeps.ite
    | with_reducible apply State.actLasting_keeps | with_reducible apply State.logEvent_keeps
    | with_reducible apply State.setUnit_keeps)

theorem State.classifyAll_keeps {σ s : State}  (h : Keeps σ s) : Keeps σ (State.classifyAll s) := by
  unfold State.classifyAll
  repeat' (first
    | with_reducible assumption | with_reducible exact Keeps.refl _ | intro x | with_reducible apply Keeps.foldl
    | with_reducible apply State.classify_keeps)

theorem State.commitEvent_keeps {σ s : State} (e : UEvent) (h : Keeps σ s) : Keeps σ (State.commitEvent s e) := by
  unfold State.commitEvent
  repeat' (first
    | with_reducible assumption | with_reducible apply State.classifyAll_keeps | with_reducible apply State.logEvent_keeps
    | with_reducible apply State.setUnit_keeps)

theorem State.commitFirst_keeps {σ s : State}  (h : Keeps σ s) : Keeps σ (State.commitFirst s) := by
  unfold State.commitFirst
  repeat' (first
    | with_reducible assumption | with_reducible apply State.commitEvent_keeps | split
    | with_reducible apply Keeps.mk_rest)

theorem State.commitAll_keeps {σ s : State}  (h : Keeps σ s) : Keeps σ (State.commitAll s) := by
  unfold State.commitAll
  repeat' (first
    | with_reducible assumption | with_reducible exact Keeps.refl _ | intro x | with_reducible apply Keeps.foldl
    | with_reducible apply State.commitFirst_keeps)

theorem State.unfence_keeps {σ s : State} (k : Nat) (h : Keeps σ s) : Keeps σ (State.unfence s k) := by
  unfold State.unfence
  repeat' (first
    | with_reducible assumption | with_reducible apply Keeps.ite | with_reducible apply State.countHealth_keeps
    | with_reducible apply State.setFld_keeps)

theorem State.clearUnit_keeps {σ s : State} (u : Nat) (h : Keeps σ s) : Keeps σ (State.clearUnit s u) := by
  unfold State.clearUnit
  repeat' (first
    | with_reducible assumption
    | (intro x; with_reducible refine Keeps.cut x ?_ ?_; rotate_left 1; clear_value x; intro hx)
    | (intro x; clear_value x) | (lift_lets; intro x; clear_value x) | with_reducible apply Keeps.ite
    | with_reducible apply State.logEvent_keeps | with_reducible apply State.setUnit_keeps
    | with_reducible apply State.unfence_keeps | split)

/-! ### Machine/Ptp -/

theorem after_keeps {σ s : State} {o : Host.Outcome State Fault Refusal} (ho : ∀ t, o = .next t → Keeps σ t) (h : Keeps σ s) :
    Keeps σ (after o s) := by
  unfold after
  split
  · exact ho _ rfl
  · exact h

theorem State.fire_keeps {σ s : State} (i : Instr) (h : Keeps σ s) : Keeps σ (s.fire i) := by
  unfold State.fire
  split
  · exact after_keeps (fun _ e => execStepOpen_keeps _ h e) h
  · exact after_keeps (fun _ e => execRollCallDeadline_keeps _ h e) h
  · exact after_keeps (fun _ e => execEpochDeadline_keeps _ h e) h
  · exact after_keeps (fun _ e => execMemberDeadline_keeps _ h e) h
  · exact after_keeps (fun _ e => execRollCallTimeout_keeps _ h e) h
  · exact after_keeps (fun _ e => execRwaitTimeout_keeps _ _ h e) h
  · exact h

theorem State.stepClock_keeps {σ s : State} (offset : Int) (h : Keeps σ s) : Keeps σ (State.stepClock s offset) := by
  unfold State.stepClock
  repeat' (first
    | with_reducible assumption | with_reducible exact Keeps.refl _
    | (intro x; with_reducible refine Keeps.cut x ?_ ?_; rotate_left 1; clear_value x; intro hx)
    | (intro x; clear_value x) | intro x | (lift_lets; intro x; clear_value x) | with_reducible apply Keeps.foldl
    | with_reducible apply State.fire_keeps | with_reducible apply Keeps.mk_rest)

theorem execPtpSync_keeps {σ s t : State} (offset : Int) (h : Keeps σ s) (e : execPtpSync offset s = .next t) : Keeps σ t := by
  refine guardWf_keeps e ?_
  beta_reduce
  repeat' (first
    | with_reducible assumption
    | (intro x; with_reducible refine Keeps.cut x ?_ ?_; rotate_left 1; clear_value x; intro hx)
    | (intro x; clear_value x) | (lift_lets; intro x; clear_value x) | with_reducible apply Keeps.ite
    | with_reducible apply State.setFld_keeps | with_reducible apply State.stepClock_keeps)

theorem execPtpHoldover_keeps {σ s t : State}  (h : Keeps σ s) (e : execPtpHoldover s = .next t) : Keeps σ t := by
  refine guardWf_keeps e ?_
  beta_reduce
  repeat' (first
    | with_reducible assumption | with_reducible apply State.setFld_keeps)

/-! ### Machine/Registers -/

theorem State.writeFld_keeps {σ s : State} (x v : Nat) (f : WFld) (h : Keeps σ s) : Keeps σ (State.writeFld s x v f) := by
  unfold State.writeFld
  repeat' (first
    | with_reducible assumption | with_reducible apply State.setFld_keeps | split)

theorem State.writeFlds_keeps {σ s : State} (x v : Nat) (h : Keeps σ s) : Keeps σ (State.writeFlds s x v) := by
  unfold State.writeFlds
  repeat' (first
    | with_reducible assumption | with_reducible exact Keeps.refl _ | intro x | with_reducible apply Keeps.foldl
    | with_reducible apply State.writeFld_keeps | split)

theorem State.writeTg_keeps {σ s : State} (q v : Nat) (h : Keeps σ s) : Keeps σ (State.writeTg s q v) := by
  unfold State.writeTg
  repeat' (first
    | with_reducible assumption
    | (lift_lets; intro x; with_reducible refine Keeps.cut x ?_ ?_; rotate_left 1; clear_value x; intro hx)
    | with_reducible apply Keeps.ite | with_reducible apply State.setReg_keeps
    | with_reducible apply State.tgDestroy_keeps | with_reducible apply State.updChan_keeps
    | with_reducible apply State.writeFlds_keeps)

theorem State.writeTal_keeps {σ s : State} (q v : Nat) (h : Keeps σ s) : Keeps σ (State.writeTal s q v) := by
  unfold State.writeTal
  repeat' (first
    | with_reducible assumption | with_reducible apply State.applyTalMode_keeps | with_reducible apply State.setFld_keeps
    | with_reducible apply Keeps.mk_rest)

theorem State.writeDigest_keeps {σ s : State} (n v : Nat) (h : Keeps σ s) : Keeps σ (State.writeDigest s n v) := by
  unfold State.writeDigest
  repeat' (first
    | with_reducible assumption | with_reducible exact Keeps.refl _ | intro x
    | (lift_lets; intro x; with_reducible refine Keeps.cut x ?_ ?_; rotate_left 1; clear_value x; intro hx)
    | with_reducible apply Keeps.foldl | with_reducible apply State.setReg_keeps
    | with_reducible apply State.writeFlds_keeps | with_reducible apply Keeps.mk_rest)

theorem State.writeStore_keeps {σ s : State} (v : Nat) (h : Keeps σ s) : Keeps σ (State.writeStore s v) := by
  unfold State.writeStore
  repeat' (first
    | with_reducible assumption | with_reducible apply State.checkSlot_keeps | with_reducible apply State.writeFlds_keeps)

theorem State.writeTherm_keeps {σ s : State} (v : Nat) (h : Keeps σ s) : Keeps σ (State.writeTherm s v) := by
  unfold State.writeTherm
  repeat' (first
    | with_reducible assumption | with_reducible apply State.setFld_keeps)

theorem State.writePtp_keeps {σ s : State} (v : Nat) (h : Keeps σ s) : Keeps σ (State.writePtp s v) := by
  unfold State.writePtp
  repeat' (first
    | with_reducible assumption
    | (lift_lets; intro x; with_reducible refine Keeps.cut x ?_ ?_; rotate_left 1; clear_value x; intro hx)
    | with_reducible apply Keeps.ite | with_reducible apply State.stepClock_keeps
    | with_reducible apply State.writeFlds_keeps)

theorem State.writeLeak_keeps {σ s : State} (v : Nat) (h : Keeps σ s) : Keeps σ (State.writeLeak s v) := by
  unfold State.writeLeak
  repeat' (first
    | with_reducible assumption | with_reducible apply Keeps.ite | with_reducible apply State.setFld_keeps)

theorem State.writeAt_keeps {σ s : State} (x v : Nat) (h : Keeps σ s) : Keeps σ (State.writeAt s x v) := by
  unfold State.writeAt
  repeat' (first
    | with_reducible assumption | with_reducible apply Keeps.ite | with_reducible apply State.writeDigest_keeps
    | with_reducible apply State.writeFlds_keeps | with_reducible apply State.writeLeak_keeps
    | with_reducible apply State.writePtp_keeps | with_reducible apply State.writeStore_keeps
    | with_reducible apply State.writeTal_keeps | with_reducible apply State.writeTg_keeps
    | with_reducible apply State.writeTherm_keeps | split)

theorem State.writeRegs_keeps {σ s : State} (a : Nat) (vs : List Nat) (h : Keeps σ s) : Keeps σ (State.writeRegs s a vs) := by
  unfold State.writeRegs
  repeat' (first
    | with_reducible assumption | with_reducible exact Keeps.refl _ | intro x | with_reducible apply Keeps.foldl
    | with_reducible apply State.writeAt_keeps | split)

/-! ### Machine/Load -/

theorem State.putImage_keeps {σ s : State} (a : Asker) (off : Nat) (data : List Byte) (h : Keeps σ s) : Keeps σ (State.putImage s a off data) := by
  unfold State.putImage
  repeat' (first
    | with_reducible assumption | with_reducible apply Keeps.ite | with_reducible apply State.say_keeps | split
    | with_reducible apply Keeps.mk_rest)

theorem execImageAssemblyTimeout_keeps {σ s t : State}  (h : Keeps σ s) (e : execImageAssemblyTimeout s = .next t) : Keeps σ t := by
  refine guardWf_keeps e ?_
  beta_reduce
  repeat' (first
    | with_reducible assumption | with_reducible apply Keeps.ite | with_reducible apply Keeps.mk_rest)

theorem State.storeRebuilt_keeps {σ s : State} (old new : List Nat) (h : Keeps σ s) : Keeps σ (State.storeRebuilt s old new) := by
  unfold State.storeRebuilt
  repeat' (first
    | with_reducible assumption | with_reducible exact Keeps.refl _ | intro x | (lift_lets; intro x; clear_value x)
    | with_reducible apply Keeps.ite | with_reducible apply Keeps.foldl | with_reducible apply State.checkSlot_keeps
    | with_reducible apply State.setFld_keeps | with_reducible apply State.setV_keeps)

theorem State.writeMap_keeps {σ s : State} (new : List Nat) (moved : Nat) (h : Keeps σ s) : Keeps σ (State.writeMap s new moved) := by
  unfold State.writeMap
  repeat' (first
    | with_reducible assumption
    | (lift_lets; intro x; with_reducible refine Keeps.cut x ?_ ?_; rotate_left 1; clear_value x; intro hx)
    | with_reducible apply State.setFld_keeps | with_reducible apply State.setReg_keeps
    | with_reducible apply Keeps.mk_flash | rfl)

theorem State.rebuild_keeps {σ s : State}  (h : Keeps σ s) : Keeps σ (State.rebuild s) := by
  unfold State.rebuild
  repeat' (first
    | with_reducible assumption | exact fun w => Memory.wf_lay _ w | with_reducible exact Keeps.refl _
    | (intro x; clear_value x) | intro x | (lift_lets; intro x; clear_value x) | with_reducible apply Keeps.ite
    | with_reducible apply Keeps.foldl | with_reducible apply State.fresh_keeps | with_reducible apply State.setFld_keeps
    | with_reducible apply State.storeRebuilt_keeps | with_reducible apply State.writeMap_keeps
    | with_reducible apply Keeps.mk_mem)

theorem State.loadCore_keeps {σ s : State} (p : Prog) (c : Nat) (h : Keeps σ s) : Keeps σ (State.loadCore s p c) := by
  unfold State.loadCore
  repeat' (first
    | with_reducible assumption | with_reducible apply State.clearCore_keeps | with_reducible apply State.updCore_keeps
    | split)

theorem State.install_keeps {σ s : State} (p : Prog) (m : List Nat) (st : PState) (step : Nat) (h : Keeps σ s) : Keeps σ (State.install s p m st step) := by
  unfold State.install
  repeat' (first
    | with_reducible assumption | with_reducible exact Keeps.refl _ | intro x
    | (lift_lets; intro x; with_reducible refine Keeps.cut x ?_ ?_; rotate_left 1; clear_value x; intro hx)
    | with_reducible apply Keeps.foldl | with_reducible apply State.hubWrite_keeps
    | with_reducible apply State.loadCore_keeps | with_reducible apply State.putMap_keeps
    | with_reducible apply State.rebuild_keeps | with_reducible apply State.setReg_keeps
    | with_reducible apply State.updPart_keeps)

theorem State.failRestore_keeps {σ s : State} (reason : Nat) (h : Keeps σ s) : Keeps σ (State.failRestore s reason) := by
  unfold State.failRestore
  repeat' (first
    | with_reducible assumption | with_reducible apply State.cstat_keeps | with_reducible apply State.setArb_keeps
    | with_reducible apply State.terminate_keeps | split | with_reducible apply Keeps.mk_rest)

theorem State.sendFetch_keeps {σ s : State} (r : Restore) (h : Keeps σ s) : Keeps σ (State.sendFetch s r) := by
  unfold State.sendFetch
  repeat' (first
    | with_reducible assumption
    | (intro x; with_reducible refine Keeps.cut x ?_ ?_; rotate_left 1; clear_value x; intro hx)
    | (lift_lets; intro x; clear_value x) | with_reducible apply State.sendTo_keeps | with_reducible apply Keeps.mk_rest)

theorem State.openRestore_keeps {σ s : State} (r : Restore) (h : Keeps σ s) : Keeps σ (State.openRestore s r) := by
  unfold State.openRestore
  repeat' (first
    | with_reducible assumption
    | (lift_lets; intro x; with_reducible refine Keeps.cut x ?_ ?_; rotate_left 1; clear_value x; intro hx)
    | (lift_lets; intro x; clear_value x) | with_reducible apply Keeps.ite | with_reducible apply State.failRestore_keeps
    | with_reducible apply State.sendFetch_keeps | with_reducible apply State.setFld_keeps | split
    | with_reducible apply Keeps.mk_rest)

theorem State.endLoad_keeps {σ s : State} (a : Asker) (code : Nat) (h : Keeps σ s) : Keeps σ (State.endLoad s a code) := by
  unfold State.endLoad
  repeat' (first
    | with_reducible assumption
    | (lift_lets; intro x; with_reducible refine Keeps.cut x ?_ ?_; rotate_left 1; clear_value x; intro hx)
    | with_reducible apply Keeps.ite | with_reducible apply State.refuseMap_keeps | with_reducible apply State.say_keeps
    | with_reducible apply Keeps.mk_rest)

theorem State.doLoad_keeps {σ s : State} (a : Asker) (p : Prog) (m : List Nat) (ext : Option LoadExt) (h : Keeps σ s) : Keeps σ (State.doLoad s a p m ext) := by
  unfold State.doLoad
  repeat' (first
    | with_reducible assumption
    | (lift_lets; intro x; with_reducible refine Keeps.cut x ?_ ?_; rotate_left 1; clear_value x; intro hx)
    | with_reducible apply Keeps.ite | with_reducible apply State.addFld_keeps
    | with_reducible apply State.clearWindows_keeps | with_reducible apply State.cstat_keeps
    | with_reducible apply State.endLoad_keeps | with_reducible apply State.install_keeps
    | with_reducible apply State.openRestore_keeps | with_reducible apply State.setArb_keeps | split)

theorem State.loadNow_keeps {σ s : State} (a : Asker) (len : Nat) (ext : Option LoadExt) (h : Keeps σ s) : Keeps σ (State.loadNow s a len ext) := by
  unfold State.loadNow
  repeat' (first
    | with_reducible assumption | with_reducible apply State.doLoad_keeps | with_reducible apply State.endLoad_keeps
    | split)

theorem State.startTest_keeps {σ s : State} (pack unit : Nat) (h : Keeps σ s) : Keeps σ (State.startTest s pack unit) := by
  unfold State.startTest
  repeat' (first
    | with_reducible assumption
    | (lift_lets; intro x; with_reducible refine Keeps.cut x ?_ ?_; rotate_left 1; clear_value x; intro hx)
    | with_reducible apply State.addFld_keeps | with_reducible apply State.setArb_keeps
    | with_reducible apply State.setFld_keeps | with_reducible apply Keeps.mk_rest)

theorem State.load_keeps {σ s : State} (a : Asker) (len : Nat) (ext : Option LoadExt) (h : Keeps σ s) : Keeps σ (State.load s a len ext) := by
  unfold State.load
  repeat' (first
    | with_reducible assumption | with_reducible exact Keeps.refl _ | intro x
    | (lift_lets; intro x; with_reducible refine Keeps.cut x ?_ ?_; rotate_left 1; clear_value x; intro hx)
    | with_reducible apply Keeps.ite | with_reducible apply Keeps.foldl | with_reducible apply State.endLoad_keeps
    | with_reducible apply State.loadNow_keeps | with_reducible apply State.say_keeps
    | with_reducible apply State.startTest_keeps | split | with_reducible apply Keeps.mk_rest)

theorem State.resumeLoad_keeps {σ s : State}  (h : Keeps σ s) : Keeps σ (State.resumeLoad s) := by
  unfold State.resumeLoad
  repeat' (first
    | with_reducible assumption | with_reducible apply Keeps.ite | with_reducible apply State.commitAll_keeps
    | with_reducible apply State.loadNow_keeps | split | with_reducible apply Keeps.mk_rest)

/-! ### Machine/Maint -/

theorem State.refuseTest_keeps {σ s : State} (a : Asker) (status : Nat) (h : Keeps σ s) : Keeps σ (State.refuseTest s a status) := by
  unfold State.refuseTest
  repeat' (first
    | with_reducible assumption | with_reducible apply Keeps.ite | with_reducible apply State.say_keeps
    | with_reducible apply State.setFld_keeps)

theorem State.runPack_keeps {σ s : State} (a : Asker) (pack unit : Nat) (h : Keeps σ s) : Keeps σ (State.runPack s a pack unit) := by
  unfold State.runPack
  repeat' (first
    | with_reducible assumption | with_reducible apply Keeps.ite | with_reducible apply State.refuseTest_keeps
    | with_reducible apply State.say_keeps | with_reducible apply State.startTest_keeps | split)

theorem State.endTest_keeps {σ s : State} (unit : Nat) (fault : Bool) (h : Keeps σ s) : Keeps σ (State.endTest s unit fault) := by
  unfold State.endTest
  repeat' (first
    | with_reducible assumption
    | (lift_lets; intro x; with_reducible refine Keeps.cut x ?_ ?_; rotate_left 1; clear_value x; intro hx)
    | with_reducible apply State.resumeLoad_keeps | with_reducible apply State.setArb_keeps
    | with_reducible apply State.setFld_keeps | with_reducible apply State.unitEvent_keeps | split
    | with_reducible apply Keeps.mk_rest)

theorem execTestComplete_keeps {σ s t : State} (unit : Nat) (fault : Bool) (h : Keeps σ s) (e : execTestComplete unit fault s = .next t) : Keeps σ t := by
  refine guardWf_keeps e ?_
  beta_reduce
  repeat' (first
    | with_reducible assumption | with_reducible apply State.endTest_keeps)

theorem execTestRunmaxExpiry_keeps {σ s t : State} (unit : Nat) (h : Keeps σ s) (e : execTestRunmaxExpiry unit s = .next t) : Keeps σ t := by
  refine guardWf_keeps e ?_
  beta_reduce
  repeat' (first
    | with_reducible assumption | with_reducible apply State.endTest_keeps | with_reducible apply State.reach_keeps
    | split)

theorem State.startMarch_keeps {σ s : State} (a : Asker) (slice : Nat) (destructive : Bool) (h : Keeps σ s) : Keeps σ (State.startMarch s a slice destructive) := by
  unfold State.startMarch
  repeat' (first
    | with_reducible assumption
    | (lift_lets; intro x; with_reducible refine Keeps.cut x ?_ ?_; rotate_left 1; clear_value x; intro hx)
    | with_reducible apply Keeps.ite | with_reducible apply State.fresh_keeps | with_reducible apply State.laySlice_keeps
    | with_reducible apply State.say_keeps | with_reducible apply State.setArb_keeps
    | with_reducible apply State.setFld_keeps | with_reducible apply Keeps.mk_rest)

theorem State.freeBelow_keeps {σ s : State} (n : Nat) (h : Keeps σ s) : Keeps σ (State.freeBelow s n).2 := by
  unfold State.freeBelow
  repeat' (first
    | with_reducible assumption | with_reducible apply State.fresh_keeps)

theorem State.freeWords_keeps {σ s : State} (n : Nat) (h : Keeps σ s) : Keeps σ (s.freeWords n).2 := by
  induction n generalizing s with
  | zero => exact h
  | succ n ih => exact ih (State.freeBelow_keeps 131072 h)

theorem State.stopMarch_keeps {σ s : State} (a : Asker) (slice : Nat) (h : Keeps σ s) : Keeps σ (s.stopMarch a slice) := by
  unfold State.stopMarch
  refine Keeps.ite (State.say_keeps _ _ h) (Keeps.ite (State.say_keeps _ _ h) ?_)
  lift_lets
  intro x
  refine Keeps.cut x (Keeps.ite (State.laySlice_keeps _ _ (State.fresh_keeps h)) h) fun hx => ?_
  clear_value x
  dsimp only
  exact State.say_keeps _ _ (State.setArb_keeps (State.recordFails_keeps _ _ (State.freeWords_keeps _ (State.freeBelow_keeps _
    (State.setFld_keeps _ _ _ _ hx)))))

theorem State.retrainNow_keeps {σ s : State} (a : Asker) (q : Nat) (h : Keeps σ s) : Keeps σ (s.retrainNow a q) := by
  have u := State.updChan_keeps q (fun c => { c with due := true }) h
  unfold State.retrainNow
  exact Keeps.ite (State.say_keeps _ _ h) (Keeps.ite (State.say_keeps _ _ h)
    (State.say_keeps _ _ (after_keeps (fun _ e => execChannelRetraining_keeps _ u e) u)))

theorem State.startSweep_keeps {σ s : State} (a : Asker) (n : Nat) (h : Keeps σ s) : Keeps σ (State.startSweep s a n) := by
  unfold State.startSweep
  repeat' (first
    | with_reducible assumption | with_reducible exact Keeps.refl _ | intro x
    | (lift_lets; intro x; with_reducible refine Keeps.cut x ?_ ?_; rotate_left 1; clear_value x; intro hx)
    | with_reducible apply Keeps.ite | with_reducible apply Keeps.foldl | with_reducible apply State.say_keeps
    | with_reducible apply State.setFld_keeps | with_reducible apply State.setReg_keeps
    | with_reducible apply Keeps.mk_rest)

theorem State.clearRecord_keeps {σ s : State} (a : Asker) (unit : Nat) (h : Keeps σ s) : Keeps σ (State.clearRecord s a unit) := by
  unfold State.clearRecord
  repeat' (first
    | with_reducible assumption | with_reducible apply Keeps.ite | with_reducible apply State.clearUnit_keeps
    | with_reducible apply State.say_keeps)

theorem State.fenceUnit_keeps {σ s : State} (a : Asker) (unit : Nat) (h : Keeps σ s) : Keeps σ (State.fenceUnit s a unit) := by
  unfold State.fenceUnit
  repeat' (first
    | with_reducible assumption | with_reducible apply Keeps.ite | with_reducible apply State.say_keeps
    | with_reducible apply State.unitEvent_keeps)

theorem State.deletePack_keeps {σ s : State} (a : Asker) (pack : Nat) (h : Keeps σ s) : Keeps σ (State.deletePack s a pack) := by
  unfold State.deletePack
  repeat' (first
    | with_reducible assumption | with_reducible apply Keeps.ite | with_reducible apply State.say_keeps
    | with_reducible apply Keeps.mk_flash | rfl)

theorem State.setConfig_keeps {σ s : State} (a : Asker) (d : List Byte) (h : Keeps σ s) : Keeps σ (State.setConfig s a d) := by
  unfold State.setConfig
  repeat' (first
    | with_reducible assumption | with_reducible apply Keeps.ite | with_reducible apply State.say_keeps
    | with_reducible apply Keeps.mk_flash | rfl)

theorem execUnitEventCommit_keeps {σ s t : State}  (h : Keeps σ s) (e : execUnitEventCommit s = .next t) : Keeps σ t := by
  refine guardWf_keeps e ?_
  beta_reduce
  repeat' (first
    | with_reducible assumption | with_reducible apply State.commitFirst_keeps
    | with_reducible apply State.resumeLoad_keeps | with_reducible apply State.settleRed_keeps)

theorem execHourlyClassification_keeps {σ s t : State}  (h : Keeps σ s) (e : execHourlyClassification s = .next t) : Keeps σ t := by
  refine guardWf_keeps e ?_
  beta_reduce
  repeat' (first
    | with_reducible assumption | with_reducible apply State.classifyAll_keeps
    | with_reducible apply State.resumeLoad_keeps | with_reducible apply State.settleRed_keeps)

theorem execCounterSnapshot_keeps {σ s t : State}  (h : Keeps σ s) (e : execCounterSnapshot s = .next t) : Keeps σ t := by
  refine guardWf_keeps e ?_
  beta_reduce
  repeat' (first
    | with_reducible assumption
    | (intro x; with_reducible refine Keeps.cut x ?_ ?_; rotate_left 1; clear_value x; intro hx) | (intro x; subst x)
    | (lift_lets; intro x; subst x) | with_reducible apply Keeps.ite | with_reducible apply State.countDrop_keeps
    | with_reducible apply State.telemetry_keeps)

/-! ### Machine/Keys -/

theorem State.putKeys_keeps {σ s : State} (f : Tab Word256 → Tab Word256) (claimed : Bool) (h : Keeps σ s) : Keeps σ (s.putKeys f claimed) :=
  ⟨h.mem, h.regs, h.floor, h.floorUp, Nat.le_succ_of_le h.kseqUp⟩

theorem State.installOwner_keeps {σ s : State} (a : Asker) (d : List Byte) (h : Keeps σ s) : Keeps σ (State.installOwner s a d) := by
  unfold State.installOwner
  repeat' (first
    | with_reducible assumption | with_reducible apply State.putKeys_keeps | with_reducible apply State.say_keeps | split)

theorem State.installPeer_keeps {σ s : State} (a : Asker) (d : List Byte) (h : Keeps σ s) : Keeps σ (State.installPeer s a d) := by
  unfold State.installPeer
  repeat' (first
    | with_reducible assumption | with_reducible apply State.putKeys_keeps | with_reducible apply State.say_keeps | split)

theorem State.retireKey_keeps {σ s : State} (a : Asker) (n : Nat) (h : Keeps σ s) : Keeps σ (State.retireKey s a n) := by
  unfold State.retireKey
  repeat' (first
    | with_reducible assumption | with_reducible apply State.putKeys_keeps | with_reducible apply State.say_keeps)

theorem State.killAll_keeps {σ s : State} (code : Nat) (h : Keeps σ s) : Keeps σ (State.killAll s code) := by
  unfold State.killAll
  repeat' (first
    | with_reducible assumption | with_reducible exact Keeps.refl _ | intro x | with_reducible apply Keeps.foldl
    | with_reducible apply State.setArb_keeps | with_reducible apply State.terminate_keeps)

theorem State.releaseDevice_keeps {σ s : State} (a : Asker) (h : Keeps σ s) : Keeps σ (State.releaseDevice s a) := by
  unfold State.releaseDevice
  repeat' (first
    | with_reducible assumption | exact fun w => Memory.wf_lay _ w
    | (lift_lets; intro x; with_reducible refine Keeps.cut x ?_ ?_; rotate_left 1; clear_value x; intro hx)
    | with_reducible apply Keeps.ite | with_reducible apply State.killAll_keeps | with_reducible apply State.putKeys_keeps
    | with_reducible apply State.say_keeps | with_reducible apply State.setReg_keeps
    | with_reducible apply State.setV_keeps | with_reducible apply Keeps.mk_mem)

theorem State.attest_keeps {σ s : State} (a : Asker) (off : Nat) (nonce : List Byte) (h : Keeps σ s) : Keeps σ (State.attest s a off nonce) := by
  unfold State.attest
  repeat' (first
    | with_reducible assumption | (lift_lets; intro x; clear_value x) | with_reducible apply Keeps.ite
    | with_reducible apply State.answer_keeps | with_reducible apply State.say_keeps | split
    | with_reducible apply Keeps.mk_rest)

/-! ### Machine/Firmware -/

theorem State.setIdle_keeps {σ s : State} (b : Bank) (h : Keeps σ s) : Keeps σ (s.setIdle b) := by
  unfold State.setIdle
  split <;> exact ⟨h.mem, h.regs, h.floor, h.floorUp, h.kseqUp⟩

theorem State.storePack_keeps {σ s : State} (slot : Nat) (k : Pack) (h : Keeps σ s) : Keeps σ (State.storePack s slot k) := by
  unfold State.storePack
  repeat' (first
    | with_reducible assumption | with_reducible apply Keeps.mk_flash | rfl)

theorem State.fwStat_keeps {σ s : State} (st result : Nat) (h : Keeps σ s) : Keeps σ (State.fwStat s st result) := by
  unfold State.fwStat
  repeat' (first
    | with_reducible assumption | with_reducible apply State.setFld_keeps)

theorem State.openUpdate_keeps {σ s : State} (conn target : Nat) (h : Keeps σ s) : Keeps σ (State.openUpdate s conn target) := by
  unfold State.openUpdate
  repeat' (first
    | with_reducible assumption | with_reducible apply State.fwStat_keeps | with_reducible apply State.setReg_keeps
    | split | with_reducible apply Keeps.mk_rest)

theorem State.countFw_keeps {σ s : State} (n : Nat) (h : Keeps σ s) : Keeps σ (State.countFw s n) := by
  unfold State.countFw
  repeat' (first
    | with_reducible assumption | with_reducible apply State.addFld_keeps | with_reducible apply Keeps.mk_rest)

theorem State.packData_keeps {σ s : State} (a : Asker) (off : Nat) (data : List Byte) (h : Keeps σ s) : Keeps σ (State.packData s a off data) := by
  unfold State.packData
  repeat' (first
    | with_reducible assumption
    | (lift_lets; intro x; with_reducible refine Keeps.cut x ?_ ?_; rotate_left 1; clear_value x; intro hx)
    | with_reducible apply State.countFw_keeps | with_reducible apply State.openUpdate_keeps
    | with_reducible apply State.say_keeps | with_reducible apply Keeps.mk_rest)

theorem State.queueFw_keeps {σ s : State} (a : Asker) (seq off : Nat) (data : List Byte) (h : Keeps σ s) : Keeps σ (State.queueFw s a seq off data) := by
  unfold State.queueFw
  repeat' (first
    | with_reducible assumption
    | (lift_lets; intro x; with_reducible refine Keeps.cut x ?_ ?_; rotate_left 1; clear_value x; intro hx)
    | with_reducible apply State.countFw_keeps | with_reducible apply State.openUpdate_keeps
    | with_reducible apply State.setFld_keeps | with_reducible apply State.setIdle_keeps | split
    | with_reducible apply Keeps.mk_rest)

theorem State.finishFw_keeps {σ s : State} (a : Asker) (target : Nat) (h : Keeps σ s) : Keeps σ (State.finishFw s a target) := by
  unfold State.finishFw
  repeat' (first
    | with_reducible assumption | (intro x; clear_value x) | (lift_lets; intro x; clear_value x)
    | with_reducible apply Keeps.ite | with_reducible apply State.fresh_keeps | with_reducible apply State.fwStat_keeps
    | with_reducible apply State.say_keeps | with_reducible apply State.setFld_keeps
    | with_reducible apply State.storePack_keeps | split | with_reducible apply Keeps.mk_rest)

theorem State.activateFw_keeps {σ s : State} (a : Asker) (target : Nat) (h : Keeps σ s) : Keeps σ (State.activateFw s a target) := by
  unfold State.activateFw
  repeat' (first
    | with_reducible assumption | with_reducible apply Keeps.ite | with_reducible apply State.fwStat_keeps
    | with_reducible apply State.say_keeps | with_reducible apply State.setFld_keeps | with_reducible apply Keeps.mk_flash
    | rfl)

theorem State.commitFw_keeps {σ s : State} (a : Asker) (off : Nat) (h : Keeps σ s) : Keeps σ (s.commitFw a off) := by
  unfold State.commitFw
  split
  · exact State.say_keeps _ _ h
  · split
    · exact State.say_keeps _ _ (State.setFld_keeps _ _ _ _ h)
    · refine State.say_keeps _ _ (State.setFld_keeps _ _ _ _ ⟨h.mem, h.regs, fun x => ?_, ?_, h.kseqUp⟩)
      · have := h.floor x
        dsimp only
        split <;> omega
      · have := h.floorUp
        dsimp only
        split <;> omega

theorem State.abortFw_keeps {σ s : State} (a : Asker) (h : Keeps σ s) : Keeps σ (State.abortFw s a) := by
  unfold State.abortFw
  repeat' (first
    | with_reducible assumption | (lift_lets; intro x; subst x) | with_reducible apply Keeps.ite
    | with_reducible apply State.say_keeps | with_reducible apply State.setFld_keeps | split
    | with_reducible apply Keeps.mk_flash | rfl)

/-! ### Machine/Power -/

theorem State.applyConfig_keeps {σ s : State}  (h : Keeps σ s) : Keeps σ (State.applyConfig s) := by
  unfold State.applyConfig
  repeat' (first
    | with_reducible assumption
    | (intro x; with_reducible refine Keeps.cut x ?_ ?_; rotate_left 1; clear_value x; intro hx)
    | (lift_lets; intro x; clear_value x) | with_reducible apply State.setFld_keeps)

theorem State.boot_keeps {σ s : State} (cause : Nat) (h : Keeps σ s) : Keeps σ (State.boot s cause) := by
  unfold State.boot
  repeat' (first
    | with_reducible assumption | (intro x; subst x)
    | (lift_lets; intro x; with_reducible refine Keeps.cut x ?_ ?_; rotate_left 1; clear_value x; intro hx)
    | (lift_lets; intro x; subst x) | with_reducible apply State.applyConfig_keeps
    | with_reducible apply State.readFences_keeps | with_reducible apply State.setFld_keeps | split
    | with_reducible apply Keeps.mk_flash | rfl)

theorem State.startStacks_keeps {σ s : State}  (h : Keeps σ s) : Keeps σ (State.startStacks s) := by
  unfold State.startStacks
  repeat' (first
    | with_reducible assumption | exact fun w => Memory.wf_lay _ w | with_reducible apply Keeps.ite
    | with_reducible apply Keeps.mk_mem)

theorem State.startChannels_keeps {σ s : State}  (h : Keeps σ s) : Keeps σ (State.startChannels s) := by
  unfold State.startChannels
  repeat' (first
    | with_reducible assumption | with_reducible exact Keeps.refl _ | intro x | (lift_lets; intro x; clear_value x)
    | with_reducible apply Keeps.foldl | with_reducible apply State.setFld_keeps)

theorem State.startLinks_keeps {σ s : State}  (h : Keeps σ s) : Keeps σ (State.startLinks s) := by
  unfold State.startLinks
  repeat' (first
    | with_reducible assumption | with_reducible exact Keeps.refl _
    | (intro x; with_reducible refine Keeps.cut x ?_ ?_; rotate_left 1; clear_value x; intro hx) | intro x
    | (lift_lets; intro x; clear_value x) | with_reducible apply Keeps.ite | with_reducible apply Keeps.foldl
    | with_reducible apply State.setFld_keeps | with_reducible apply State.setLink_keeps)

theorem State.startRouters_keeps {σ s : State}  (h : Keeps σ s) : Keeps σ (State.startRouters s) := by
  unfold State.startRouters
  repeat' (first
    | with_reducible assumption | with_reducible exact Keeps.refl _ | intro x | with_reducible apply Keeps.ite
    | with_reducible apply Keeps.foldl | with_reducible apply State.setFld_keeps)

theorem State.dieStates_keeps {σ s : State} (v : Nat) (h : Keeps σ s) : Keeps σ (State.dieStates s v) := by
  unfold State.dieStates
  repeat' (first
    | with_reducible assumption | with_reducible exact Keeps.refl _ | intro x | with_reducible apply Keeps.foldl
    | with_reducible apply State.setFld_keeps)

theorem State.startDies_keeps {σ s : State}  (h : Keeps σ s) : Keeps σ (State.startDies s) := by
  unfold State.startDies
  repeat' (first
    | with_reducible assumption
    | (lift_lets; intro x; with_reducible refine Keeps.cut x ?_ ?_; rotate_left 1; clear_value x; intro hx)
    | with_reducible apply State.dieStates_keeps | with_reducible apply State.readFences_keeps)

theorem State.powerDies_keeps {σ s : State}  (h : Keeps σ s) : Keeps σ (State.powerDies s) := by
  unfold State.powerDies
  repeat' (first
    | with_reducible assumption | exact fun w => Memory.wf_lay _ w
    | (lift_lets; intro x; with_reducible refine Keeps.cut x ?_ ?_; rotate_left 1; clear_value x; intro hx)
    | with_reducible apply State.startStacks_keeps | with_reducible apply Keeps.mk_mem)

theorem State.startCompute_keeps {σ s : State}  (h : Keeps σ s) : Keeps σ (State.startCompute s) := by
  unfold State.startCompute
  repeat' (first
    | with_reducible assumption
    | (lift_lets; intro x; with_reducible refine Keeps.cut x ?_ ?_; subst x; rotate_left 1; clear_value x; intro hx)
    | with_reducible apply State.powerDies_keeps | with_reducible apply State.setArb_keeps
    | with_reducible apply State.setFld_keeps | with_reducible apply State.setReg_keeps
    | with_reducible apply State.startChannels_keeps | with_reducible apply State.startDies_keeps
    | with_reducible apply State.startLinks_keeps | with_reducible apply State.startRouters_keeps)

theorem State.trainFull_keeps {σ s : State} (cold : Bool) (check fail : List Nat) (h : Keeps σ s) : Keeps σ (State.trainFull s cold check fail) := by
  unfold State.trainFull
  repeat' (first
    | with_reducible assumption | with_reducible exact Keeps.refl _
    | (intro x; with_reducible refine Keeps.cut x ?_ ?_; rotate_left 1; clear_value x; intro hx) | intro x
    | (lift_lets; intro x; clear_value x) | with_reducible apply Keeps.ite | with_reducible apply Keeps.foldl
    | with_reducible apply State.setFld_keeps | with_reducible apply State.unitEvent_keeps
    | with_reducible apply State.updChan_keeps)

theorem execComputePowerUp_keeps {σ s t : State} (b : WakeB) (h : Keeps σ s) (e : execComputePowerUp b s = .next t) : Keeps σ t := by
  refine guardWf_keeps e ?_
  beta_reduce
  repeat' (first
    | with_reducible assumption
    | (lift_lets; intro x; with_reducible refine Keeps.cut x ?_ ?_; rotate_left 1; clear_value x; intro hx)
    | with_reducible apply Keeps.ite | with_reducible apply State.dieStates_keeps
    | with_reducible apply State.failDevice_keeps | with_reducible apply State.setFld_keeps
    | with_reducible apply State.startCompute_keeps | with_reducible apply State.trainFull_keeps)

theorem State.restChannels_keeps {σ s : State}  (h : Keeps σ s) : Keeps σ (State.restChannels s) := by
  unfold State.restChannels
  repeat' (first
    | with_reducible assumption | with_reducible apply Keeps.mk_rest)

theorem State.completeTally_keeps {σ s : State} (h : Keeps σ s) : Keeps σ s.completeTally := by
  unfold State.completeTally
  exact Keeps.foldl h fun s b => State.takeBatch_keeps _ (Keeps.refl s)

theorem State.endPrograms_keeps {σ s : State} (code : Nat) (h : Keeps σ s) : Keeps σ (State.endPrograms s code) := by
  unfold State.endPrograms
  repeat' (first
    | with_reducible assumption | with_reducible exact Keeps.refl _ | intro x
    | (lift_lets; intro x; with_reducible refine Keeps.cut x ?_ ?_; rotate_left 1; clear_value x; intro hx)
    | with_reducible apply Keeps.foldl | with_reducible apply State.abandonAll_keeps
    | with_reducible apply State.commitAll_keeps | with_reducible apply State.completeTally_keeps
    | with_reducible apply State.holderLost_keeps | with_reducible apply State.killAll_keeps)

theorem State.muteEpochs_keeps {σ s : State}  (h : Keeps σ s) : Keeps σ (State.muteEpochs s) := by
  unfold State.muteEpochs
  repeat' (first
    | with_reducible assumption | with_reducible exact Keeps.refl _ | intro x | with_reducible apply Keeps.foldl
    | with_reducible apply State.dropHolder_keeps | with_reducible apply State.shutEpoch_keeps
    | with_reducible apply State.updEpoch_keeps)

theorem State.computeOff_keeps {σ s : State}  (h : Keeps σ s) : Keeps σ (State.computeOff s) := by
  unfold State.computeOff
  repeat' (first
    | with_reducible assumption | exact fun w => Memory.wf_lay _ w | with_reducible exact Keeps.refl _ | intro x
    | (lift_lets; intro x; with_reducible refine Keeps.cut x ?_ ?_; rotate_left 1; clear_value x; intro hx)
    | with_reducible apply Keeps.ite | with_reducible apply Keeps.foldl | with_reducible apply State.clearRegs_keeps
    | with_reducible apply State.release_keeps | with_reducible apply State.restChannels_keeps
    | with_reducible apply State.setFld_keeps | with_reducible apply Keeps.mk_mem)

theorem State.cutWork_keeps {σ s : State}  (h : Keeps σ s) : Keeps σ (State.cutWork s) := by
  unfold State.cutWork
  repeat' (first
    | with_reducible assumption
    | (lift_lets; intro x; with_reducible refine Keeps.cut x ?_ ?_; rotate_left 1; clear_value x; intro hx)
    | with_reducible apply State.endLoad_keeps | with_reducible apply State.failWrite_keeps | split
    | with_reducible apply Keeps.mk_rest)

theorem State.shutDown_keeps {σ s : State} (cause : Nat) (h : Keeps σ s) : Keeps σ (State.shutDown s cause) := by
  unfold State.shutDown
  repeat' (first
    | with_reducible assumption
    | (lift_lets; intro x; with_reducible refine Keeps.cut x ?_ ?_; rotate_left 1; clear_value x; intro hx)
    | with_reducible apply Keeps.ite | with_reducible apply State.computeOff_keeps
    | with_reducible apply State.cutWork_keeps | with_reducible apply State.endPrograms_keeps
    | with_reducible apply State.muteEpochs_keeps | with_reducible apply State.setFld_keeps)

theorem State.dropStacks_keeps {σ s : State}  (h : Keeps σ s) : Keeps σ (State.dropStacks s) := by
  unfold State.dropStacks
  repeat' (first
    | with_reducible assumption | exact fun w => Memory.wf_lay _ w | with_reducible apply State.setV_keeps
    | with_reducible apply Keeps.mk_mem)

theorem State.leakSeen_keeps {σ s : State}  (h : Keeps σ s) : Keeps σ (State.leakSeen s) := by
  unfold State.leakSeen
  repeat' (first
    | with_reducible assumption
    | (intro x; with_reducible refine Keeps.cut x ?_ ?_; rotate_left 1; clear_value x; intro hx)
    | (lift_lets; intro x; clear_value x) | with_reducible apply Keeps.ite | with_reducible apply State.dropStacks_keeps
    | with_reducible apply State.setFld_keeps | with_reducible apply State.shutDown_keeps)

theorem State.dark_keeps {σ s : State} (h : Keeps σ s) : Keeps σ s.dark := by
  unfold State.dark
  exact State.setFld_keeps _ _ _ _ (Keeps.mk_reset (s := s) (h := h) (hm := fun _ => Memory.wf_empty) (hr := rfl) ..)

theorem execPowerOnReset_keeps {σ s t : State} (b : PowerB) (h : Keeps σ s) (e : execPowerOnReset b s = .next t) : Keeps σ t := by
  refine guardWf_keeps e ?_
  beta_reduce
  repeat' (first
    | with_reducible assumption | with_reducible exact Keeps.refl _ | intro x
    | (lift_lets; intro x; with_reducible refine Keeps.cut x ?_ ?_; rotate_left 1; clear_value x; intro hx)
    | with_reducible apply Keeps.ite | with_reducible apply Keeps.foldl | with_reducible apply State.boot_keeps
    | with_reducible apply State.dark_keeps | with_reducible apply State.setFld_keeps
    | with_reducible apply State.unitEvent_keeps | with_reducible apply Keeps.mk_flash | rfl)

theorem State.warmReset_keeps {σ s : State} (cause : Nat) (h : Keeps σ s) : Keeps σ (s.warmReset cause) := by
  unfold State.warmReset
  exact State.boot_keeps _ (State.setFld_keeps _ _ _ _ (State.setFld_keeps _ _ _ _
    (Keeps.mk_reset (h := State.restChannels_keeps (State.endPrograms_keeps _ h)) (hm := fun w => Memory.wf_lay _ w) (hr := rfl) ..)))

theorem execTrialWatchdog_keeps {σ s t : State}  (h : Keeps σ s) (e : execTrialWatchdog s = .next t) : Keeps σ t := by
  refine guardWf_keeps e ?_
  beta_reduce
  repeat' (first
    | with_reducible assumption | with_reducible apply Keeps.ite | with_reducible apply State.warmReset_keeps)

theorem State.enterShade_keeps {σ s : State} (a : Asker) (h : Keeps σ s) : Keeps σ (State.enterShade s a) := by
  unfold State.enterShade
  repeat' (first
    | with_reducible assumption | with_reducible apply Keeps.ite | with_reducible apply State.completeTally_keeps
    | with_reducible apply State.computeOff_keeps | with_reducible apply State.say_keeps)

theorem State.leaveShade_keeps {σ s : State} (a : Asker) (h : Keeps σ s) : Keeps σ (State.leaveShade s a) := by
  unfold State.leaveShade
  repeat' (first
    | with_reducible assumption | with_reducible apply Keeps.ite | with_reducible apply State.dieStates_keeps
    | with_reducible apply State.say_keeps | with_reducible apply State.setFld_keeps)

theorem State.vrange_keeps {σ s : State} (mv : Nat) (h : Keeps σ s) : Keeps σ (State.vrange s mv).2 := by
  unfold State.vrange
  repeat' (first
    | with_reducible assumption | with_reducible apply State.fresh_keeps | split)

theorem execSupplySample_keeps {σ s t : State} (mv ma : Nat) (h : Keeps σ s) (e : execSupplySample mv ma s = .next t) : Keeps σ t := by
  refine guardWf_keeps e ?_
  beta_reduce
  repeat' (first
    | with_reducible assumption
    | (intro x; with_reducible refine Keeps.cut x ?_ ?_; rotate_left 1; clear_value x; intro hx)
    | (lift_lets; intro x; clear_value x) | with_reducible apply Keeps.ite | with_reducible apply State.dark_keeps
    | with_reducible apply State.setFld_keeps | with_reducible apply State.setReg_keeps
    | with_reducible apply State.shutDown_keeps | with_reducible apply State.vrange_keeps
    | with_reducible apply Keeps.mk_rest)

theorem execLimiterTick_keeps {σ s t : State}  (h : Keeps σ s) (e : execLimiterTick s = .next t) : Keeps σ t := by
  refine guardWf_keeps e ?_
  beta_reduce
  repeat' (first
    | with_reducible assumption
    | (intro x; with_reducible refine Keeps.cut x ?_ ?_; rotate_left 1; clear_value x; intro hx)
    | (intro x; clear_value x) | (lift_lets; intro x; clear_value x) | with_reducible apply Keeps.ite
    | with_reducible apply State.setFld_keeps | with_reducible apply Keeps.mk_rest)

theorem execCoolantSample_keeps {σ s t : State} (tin tout : Int) (flow : Nat) (leak : Bool) (h : Keeps σ s) (e : execCoolantSample tin tout flow leak s = .next t) : Keeps σ t := by
  refine guardWf_keeps e ?_
  beta_reduce
  repeat' (first
    | with_reducible assumption | with_reducible apply Keeps.ite | with_reducible apply State.leakSeen_keeps
    | with_reducible apply State.setFld_keeps | with_reducible apply State.shutDown_keeps
    | with_reducible apply Keeps.mk_rest)

theorem execFacilityStatus_keeps {σ s t : State}  (h : Keeps σ s) (e : execFacilityStatus s = .next t) : Keeps σ t := by
  refine guardWf_keeps e ?_
  beta_reduce
  repeat' (first
    | with_reducible assumption | (lift_lets; intro x; clear_value x) | with_reducible apply Keeps.ite
    | with_reducible apply State.emit_keeps)

theorem execValve_keeps {σ s t : State} (seq op : Nat) (h : Keeps σ s) (e : execValve seq op s = .next t) : Keeps σ t := by
  refine guardWf_keeps e ?_
  beta_reduce
  repeat' (first
    | with_reducible assumption
    | (lift_lets; intro x; with_reducible refine Keeps.cut x ?_ ?_; rotate_left 1; clear_value x; intro hx)
    | with_reducible apply Keeps.ite | with_reducible apply State.addFld_keeps | with_reducible apply State.emit_keeps
    | with_reducible apply State.setFld_keeps | with_reducible apply State.shutDown_keeps)

theorem execShutdown_keeps {σ s t : State} (seq reason : Nat) (h : Keeps σ s) (e : execShutdown seq reason s = .next t) : Keeps σ t := by
  refine guardWf_keeps e ?_
  beta_reduce
  repeat' (first
    | with_reducible assumption
    | (lift_lets; intro x; with_reducible refine Keeps.cut x ?_ ?_; rotate_left 1; clear_value x; intro hx)
    | with_reducible apply Keeps.ite | with_reducible apply State.addFld_keeps | with_reducible apply State.emit_keeps
    | with_reducible apply State.shutDown_keeps | with_reducible apply Keeps.mk_rest)

theorem execFacilityBadFrame_keeps {σ s t : State} (unknown : Bool) (h : Keeps σ s) (e : execFacilityBadFrame unknown s = .next t) : Keeps σ t := by
  refine guardWf_keeps e ?_
  beta_reduce
  repeat' (first
    | with_reducible assumption | with_reducible apply Keeps.ite | with_reducible apply State.addFld_keeps)

theorem execHubDieTemperature_keeps {σ s t : State} (temp : Nat) (stackCrit : Bool) (h : Keeps σ s) (e : execHubDieTemperature temp stackCrit s = .next t) : Keeps σ t := by
  refine guardWf_keeps e ?_
  beta_reduce
  repeat' (first
    | with_reducible assumption | with_reducible apply Keeps.ite | with_reducible apply State.dark_keeps
    | with_reducible apply State.dropStacks_keeps | with_reducible apply Keeps.mk_rest)

theorem State.hotNotice_keeps {σ s : State} (q : Nat) (h : Keeps σ s) : Keeps σ (State.hotNotice s q) := by
  unfold State.hotNotice
  repeat' (first
    | with_reducible assumption | with_reducible apply Keeps.ite | with_reducible apply State.channelLate_keeps)

theorem execTemperatureReadout_keeps {σ s t : State} (q temp : Nat) (h : Keeps σ s) (e : execTemperatureReadout q temp s = .next t) : Keeps σ t := by
  refine guardWf_keeps e ?_
  beta_reduce
  repeat' (first
    | with_reducible assumption
    | (intro x; with_reducible refine Keeps.cut x ?_ ?_; rotate_left 1; clear_value x; intro hx)
    | (intro x; clear_value x) | (lift_lets; intro x; clear_value x) | with_reducible apply Keeps.ite
    | with_reducible apply State.hotNotice_keeps | with_reducible apply State.setFld_keeps
    | with_reducible apply State.setReg_keeps | with_reducible apply State.settleRed_keeps
    | with_reducible apply State.shutDown_keeps | with_reducible apply State.updChan_keeps)

/-! ### Machine/Secure -/

theorem State.sendCairn_keeps {σ s : State} (n : Nat) (bytes : List Byte) (h : Keeps σ s) : Keeps σ (State.sendCairn s n bytes) := by
  unfold State.sendCairn
  repeat' (first
    | with_reducible assumption | with_reducible exact Keeps.refl _ | intro x | with_reducible apply Keeps.foldl
    | with_reducible apply State.sendOn_keeps)

theorem State.fromClient_keeps {σ s : State} (src : Nat) (f : State → State) (h : Keeps σ s) (hf : ∀ s, Keeps s (f s)) : Keeps σ (State.fromClient s src f) := by
  unfold State.fromClient
  repeat' (first
    | with_reducible assumption | with_reducible refine Keeps.trans ?_ (hf _) | with_reducible apply Keeps.ite
    | with_reducible apply State.addFld_keeps)

theorem State.gotBegin_keeps {σ s : State} (n src : Nat) (b : CtlB) (h : Keeps σ s) : Keeps σ (State.gotBegin s n src b) := by
  unfold State.gotBegin
  repeat' (first
    | with_reducible assumption | with_reducible exact Keeps.refl _
    | (intro x; with_reducible refine Keeps.cut x ?_ ?_; rotate_left 1; clear_value x; intro hx) | intro x
    | (lift_lets; intro x; clear_value x) | with_reducible apply Keeps.ite | with_reducible apply State.fromClient_keeps
    | with_reducible apply State.hubWrite_keeps | with_reducible apply State.sendOn_keeps
    | with_reducible apply State.setV_keeps | with_reducible apply Keeps.mk_rest)

theorem State.storeBlock_keeps {σ s : State} (o : StoreOp) (off : Nat) (data : List Byte) (h : Keeps σ s) : Keeps σ (State.storeBlock s o off data) := by
  unfold State.storeBlock
  repeat' (first
    | with_reducible assumption
    | (lift_lets; intro x; with_reducible refine Keeps.cut x ?_ ?_; rotate_left 1; clear_value x; intro hx)
    | with_reducible apply Keeps.ite | with_reducible apply State.hubWrite_keeps | with_reducible apply Keeps.mk_rest)

theorem State.gotSeal_keeps {σ s : State} (n src : Nat) (b : CtlB) (h : Keeps σ s) : Keeps σ (State.gotSeal s n src b) := by
  unfold State.gotSeal
  repeat' (first
    | with_reducible assumption | with_reducible exact Keeps.refl _ | intro x
    | (lift_lets; intro x; with_reducible refine Keeps.cut x ?_ ?_; rotate_left 1; clear_value x; intro hx)
    | with_reducible apply Keeps.ite | with_reducible apply State.fromClient_keeps
    | with_reducible apply State.hubWrite_keeps | with_reducible apply State.sendOn_keeps
    | with_reducible apply State.setFld_keeps | with_reducible apply State.setV_keeps | split
    | with_reducible apply Keeps.mk_rest)

theorem State.gotFetch_keeps {σ s : State} (n src : Nat) (b : CtlB) (h : Keeps σ s) : Keeps σ (State.gotFetch s n src b) := by
  unfold State.gotFetch
  repeat' (first
    | with_reducible assumption | with_reducible exact Keeps.refl _
    | (intro x; with_reducible refine Keeps.cut x ?_ ?_; rotate_left 1; clear_value x; intro hx) | intro x
    | (lift_lets; intro x; clear_value x) | with_reducible apply Keeps.ite | with_reducible apply State.fromClient_keeps
    | with_reducible apply State.sendCairn_keeps | with_reducible apply State.sendOn_keeps | split
    | with_reducible apply Keeps.mk_rest)

theorem State.gotBegun_keeps {σ s : State} (n src : Nat) (b : CtlB) (h : Keeps σ s) : Keeps σ (State.gotBegun s n src b) := by
  unfold State.gotBegun
  repeat' (first
    | with_reducible assumption | with_reducible exact Keeps.refl _ | intro x | with_reducible apply Keeps.ite
    | with_reducible apply State.failWrite_keeps | with_reducible apply State.fromClient_keeps
    | with_reducible apply State.sendCairn_keeps | with_reducible apply State.sendOn_keeps
    | with_reducible apply State.setFld_keeps | split | with_reducible apply Keeps.mk_rest)

theorem State.gotSealed_keeps {σ s : State} (n src : Nat) (b : CtlB) (h : Keeps σ s) : Keeps σ (State.gotSealed s n src b) := by
  unfold State.gotSealed
  repeat' (first
    | with_reducible assumption | with_reducible exact Keeps.refl _ | intro x | (lift_lets; intro x; clear_value x)
    | with_reducible apply Keeps.ite | with_reducible apply State.cstat_keeps | with_reducible apply State.failWrite_keeps
    | with_reducible apply State.fromClient_keeps | with_reducible apply State.setFld_keeps | split
    | with_reducible apply Keeps.mk_rest)

theorem execCairnWriteTimeout_keeps {σ s t : State}  (h : Keeps σ s) (e : execCairnWriteTimeout s = .next t) : Keeps σ t := by
  refine guardWf_keeps e ?_
  beta_reduce
  repeat' (first
    | with_reducible assumption | with_reducible apply State.failWrite_keeps | with_reducible apply State.reach_keeps
    | split)

theorem State.gotFetched_keeps {σ s : State} (n src : Nat) (b : CtlB) (h : Keeps σ s) : Keeps σ (State.gotFetched s n src b) := by
  unfold State.gotFetched
  repeat' (first
    | with_reducible assumption | with_reducible exact Keeps.refl _ | intro x | with_reducible apply Keeps.ite
    | with_reducible apply State.failRestore_keeps | with_reducible apply State.fromClient_keeps
    | with_reducible apply State.sendOn_keeps | with_reducible apply State.setFld_keeps | split
    | with_reducible apply Keeps.mk_rest)

theorem State.putBlocks_keeps {σ s : State} (p : Nat) (l : List (Nat × List Byte)) (h : Keeps σ s) : Keeps σ (State.putBlocks s p l) := by
  unfold State.putBlocks
  repeat' (first
    | with_reducible assumption | with_reducible exact Keeps.refl _ | intro x | with_reducible apply Keeps.foldl
    | with_reducible apply State.putBlock_keeps)

theorem State.restoreBlock_keeps {σ s : State} (r : Restore) (off : Nat) (data : List Byte) (h : Keeps σ s) : Keeps σ (State.restoreBlock s r off data) := by
  unfold State.restoreBlock
  repeat' (first
    | with_reducible assumption
    | (intro x; with_reducible refine Keeps.cut x ?_ ?_; rotate_left 1; clear_value x; intro hx)
    | (lift_lets; intro x; clear_value x) | with_reducible apply Keeps.ite | with_reducible apply State.failRestore_keeps
    | with_reducible apply State.putBlock_keeps | with_reducible apply State.putBlocks_keeps
    | with_reducible apply Keeps.mk_rest)

theorem State.gotBlock_keeps {σ s : State} (n src off : Nat) (data : List Byte) (h : Keeps σ s) : Keeps σ (State.gotBlock s n src off data) := by
  unfold State.gotBlock
  repeat' (first
    | with_reducible assumption | with_reducible exact Keeps.refl _ | intro x | with_reducible apply Keeps.ite
    | with_reducible apply State.fromClient_keeps | with_reducible apply State.restoreBlock_keeps
    | with_reducible apply State.storeBlock_keeps | split)

theorem execRestoreComplete_keeps {σ s t : State}  (h : Keeps σ s) (e : execRestoreComplete s = .next t) : Keeps σ t := by
  refine guardWf_keeps e ?_
  beta_reduce
  repeat' (first
    | with_reducible assumption
    | (intro x; with_reducible refine Keeps.cut x ?_ ?_; rotate_left 1; clear_value x; intro hx)
    | (lift_lets; intro x; clear_value x) | with_reducible apply Keeps.ite | with_reducible apply State.applyCairn_keeps
    | with_reducible apply State.checkStep_keeps | with_reducible apply State.clearWindows_keeps
    | with_reducible apply State.cstat_keeps | with_reducible apply State.failRestore_keeps
    | with_reducible apply State.putBlock_keeps | with_reducible apply State.setArb_keeps
    | with_reducible apply State.updPart_keeps | split | with_reducible apply Keeps.mk_rest)

theorem State.cairnAcked_keeps {σ s : State} (n : Nat) (h : Keeps σ s) : Keeps σ (State.cairnAcked s n) := by
  unfold State.cairnAcked
  repeat' (first
    | with_reducible assumption
    | (lift_lets; intro x; with_reducible refine Keeps.cut x ?_ ?_; rotate_left 1; clear_value x; intro hx)
    | with_reducible apply Keeps.ite | with_reducible apply State.sendOn_keeps | with_reducible apply State.setFld_keeps
    | split | with_reducible apply Keeps.mk_rest)

theorem State.loseConn_keeps {σ s : State} (n : Nat) (h : Keeps σ s) : Keeps σ (State.loseConn s n) := by
  unfold State.loseConn
  repeat' (first
    | with_reducible assumption
    | (lift_lets; intro x; with_reducible refine Keeps.cut x ?_ ?_; rotate_left 1; clear_value x; intro hx)
    | with_reducible apply Keeps.ite | with_reducible apply State.closeConn_keeps
    | with_reducible apply State.failRestore_keeps | with_reducible apply State.failWrite_keeps)

/-! ### Machine/Transport -/

theorem State.updConn_keeps {σ s : State} (n : Nat) (f : Conn → Conn) (h : Keeps σ s) : Keeps σ (State.updConn s n f) := by
  unfold State.updConn
  repeat' (first
    | with_reducible assumption | split | with_reducible apply Keeps.mk_rest)

theorem State.resend_keeps {σ s : State} (n : Nat) (e : Sent) (hole : Bool) (h : Keeps σ s) : Keeps σ (State.resend s n e hole) := by
  unfold State.resend
  repeat' (first
    | with_reducible assumption
    | (intro x; with_reducible refine Keeps.cut x ?_ ?_; rotate_left 1; clear_value x; intro hx)
    | (lift_lets; intro x; clear_value x) | with_reducible apply Keeps.ite | with_reducible apply State.addFld_keeps
    | with_reducible apply State.emit_keeps | with_reducible apply State.loseConn_keeps
    | with_reducible apply State.updConn_keeps | split)

theorem State.grantSend_keeps {σ s : State} (n : Nat) (h : Keeps σ s) : Keeps σ (State.grantSend s n) := by
  unfold State.grantSend
  repeat' (first
    | with_reducible assumption | (intro x; clear_value x) | (lift_lets; intro x; clear_value x)
    | with_reducible apply State.addFld_keeps | with_reducible apply State.updConn_keeps | split)

theorem State.sendAck_keeps {σ s : State} (n : Nat) (h : Keeps σ s) : Keeps σ (State.sendAck s n) := by
  unfold State.sendAck
  repeat' (first
    | with_reducible assumption | with_reducible apply Keeps.ite | with_reducible apply State.emit_keeps
    | with_reducible apply State.updConn_keeps | split)

theorem State.dropPacket_keeps {σ s : State} (d : Drop) (h : Keeps σ s) : Keeps σ (State.dropPacket s d) := by
  unfold State.dropPacket
  repeat' (first
    | with_reducible assumption | with_reducible apply State.addFld_keeps | split)

theorem State.accept_keeps {σ s : State} (p : Pkt) (bitmap : Nat) (h : Keeps σ s) : Keeps σ (State.accept s p bitmap) := by
  unfold State.accept
  repeat' (first
    | with_reducible assumption | (lift_lets; intro x; clear_value x) | with_reducible apply State.cairnAcked_keeps
    | with_reducible apply State.updConn_keeps)

theorem State.refuseOpen_keeps {σ s : State} (p : Pkt) (cls conn st : Nat) (h : Keeps σ s) : Keeps σ (State.refuseOpen s p cls conn st) := by
  unfold State.refuseOpen
  repeat' (first
    | with_reducible assumption
    | (lift_lets; intro x; with_reducible refine Keeps.cut x ?_ ?_; rotate_left 1; clear_value x; intro hx)
    | with_reducible apply Keeps.ite | with_reducible apply State.addFld_keeps | with_reducible apply State.emitUp_keeps)

theorem State.acceptOpen_keeps {σ s : State} (p : Pkt) (ver cls conn icred : Nat) (h : Keeps σ s) : Keeps σ (State.acceptOpen s p ver cls conn icred) := by
  unfold State.acceptOpen
  repeat' (first
    | with_reducible assumption | with_reducible apply State.freshConn_keeps | with_reducible apply State.transmit_keeps)

theorem State.gotOpen_keeps {σ s : State} (p : Pkt) (ver cls conn icred : Nat) (h : Keeps σ s) : Keeps σ (State.gotOpen s p ver cls conn icred) := by
  unfold State.gotOpen
  repeat' (first
    | with_reducible assumption | (lift_lets; intro x; clear_value x) | with_reducible apply Keeps.ite
    | with_reducible apply State.acceptOpen_keeps | with_reducible apply State.dropPacket_keeps
    | with_reducible apply State.emitUp_keeps | with_reducible apply State.loseConn_keeps
    | with_reducible apply State.refuseOpen_keeps | with_reducible apply State.updConn_keeps | split)

theorem State.gotOpenAck_keeps {σ s : State} (p : Pkt) (status ver conn icred : Nat) (h : Keeps σ s) : Keeps σ (State.gotOpenAck s p status ver conn icred) := by
  unfold State.gotOpenAck
  repeat' (first
    | with_reducible assumption
    | (intro x; with_reducible refine Keeps.cut x ?_ ?_; rotate_left 1; clear_value x; intro hx)
    | (lift_lets; intro x; clear_value x) | with_reducible apply Keeps.ite | with_reducible apply State.accept_keeps
    | with_reducible apply State.drain_keeps | with_reducible apply State.dropPacket_keeps
    | with_reducible apply State.loseConn_keeps | with_reducible apply State.updConn_keeps | split)

theorem execOpenConn_keeps {σ s t : State} (p : Pkt) (ver cls conn icred : Nat) (h : Keeps σ s) (e : execOpenConn p ver cls conn icred s = .next t) : Keeps σ t := by
  refine guardWf_keeps e ?_
  beta_reduce
  repeat' (first
    | with_reducible assumption | with_reducible apply State.gotOpen_keeps)

theorem execOpenAck_keeps {σ s t : State} (p : Pkt) (status ver conn icred : Nat) (h : Keeps σ s) (e : execOpenAck p status ver conn icred s = .next t) : Keeps σ t := by
  refine guardWf_keeps e ?_
  beta_reduce
  repeat' (first
    | with_reducible assumption | with_reducible apply State.gotOpenAck_keeps)

theorem execAck_keeps {σ s t : State} (p : Pkt) (bitmap : Nat) (h : Keeps σ s) (e : execAck p bitmap s = .next t) : Keeps σ t := by
  refine guardWf_keeps e ?_
  beta_reduce
  repeat' (first
    | with_reducible assumption | with_reducible exact Keeps.refl _ | intro x
    | (lift_lets; intro x; with_reducible refine Keeps.cut x ?_ ?_; rotate_left 1; clear_value x; intro hx)
    | with_reducible apply Keeps.foldl | with_reducible apply State.accept_keeps | with_reducible apply State.drain_keeps
    | with_reducible apply State.dropPacket_keeps | with_reducible apply State.resend_keeps | split)

theorem execAckTimer_keeps {σ s t : State} (conn : Nat) (h : Keeps σ s) (e : execAckTimer conn s = .next t) : Keeps σ t := by
  refine guardWf_keeps e ?_
  beta_reduce
  repeat' (first
    | with_reducible assumption | with_reducible apply Keeps.ite | with_reducible apply State.sendAck_keeps | split)

theorem execHalfOpenTimeout_keeps {σ s t : State} (conn : Nat) (h : Keeps σ s) (e : execHalfOpenTimeout conn s = .next t) : Keeps σ t := by
  refine guardWf_keeps e ?_
  beta_reduce
  repeat' (first
    | with_reducible assumption | with_reducible apply Keeps.ite | with_reducible apply State.loseConn_keeps
    | with_reducible apply State.reach_keeps | split)

theorem execResendTimer_keeps {σ s t : State} (conn seq : Nat) (h : Keeps σ s) (e : execResendTimer conn seq s = .next t) : Keeps σ t := by
  refine guardWf_keeps e ?_
  beta_reduce
  repeat' (first
    | with_reducible assumption | with_reducible apply State.resend_keeps | split)

theorem execTelemetryDropTimeout_keeps {σ s t : State}  (h : Keeps σ s) (e : execTelemetryDropTimeout s = .next t) : Keeps σ t := by
  refine guardWf_keeps e ?_
  beta_reduce
  repeat' (first
    | with_reducible assumption
    | (intro x; with_reducible refine Keeps.cut x ?_ ?_; rotate_left 1; clear_value x; intro hx)
    | (intro x; clear_value x) | (lift_lets; intro x; clear_value x) | with_reducible apply State.countLost_keeps
    | with_reducible apply Keeps.mk_rest)

/-! ### Machine/Ethernet -/

theorem State.bringUp_keeps {σ s : State}  (h : Keeps σ s) : Keeps σ (State.bringUp s) := by
  unfold State.bringUp
  repeat' (first
    | with_reducible assumption | with_reducible apply State.setFld_keeps | with_reducible apply Keeps.mk_rest)

theorem State.nextAttempt_keeps {σ s : State} (h : Keeps σ s) : Keeps σ s.nextAttempt := by
  unfold State.nextAttempt
  repeat' (first
    | with_reducible assumption | with_reducible apply State.setFld_keeps | with_reducible apply Keeps.mk_rest)

theorem execLinkAttemptTimeout_keeps {σ s t : State} (h : Keeps σ s) (e : execLinkAttemptTimeout s = .next t) : Keeps σ t := by
  refine guardWf_keeps e ?_
  beta_reduce
  repeat' (first
    | with_reducible assumption | with_reducible exact Keeps.refl _
    | with_reducible apply Keeps.ite | with_reducible apply State.nextAttempt_keeps)

theorem State.solicitRouter_keeps {σ s : State}  (h : Keeps σ s) : Keeps σ (State.solicitRouter s) := by
  unfold State.solicitRouter
  repeat' (first
    | with_reducible assumption | (lift_lets; intro x; clear_value x) | with_reducible apply Keeps.ite
    | with_reducible apply State.emit_keeps)

theorem execLinkUp_keeps {σ s t : State} (b : BringB) (h : Keeps σ s) (e : execLinkUp b s = .next t) : Keeps σ t := by
  refine guardWf_keeps e ?_
  beta_reduce
  repeat' (first
    | with_reducible assumption | with_reducible exact Keeps.refl _ | intro x
    | (lift_lets; intro x; with_reducible refine Keeps.cut x ?_ ?_; rotate_left 1; clear_value x; intro hx)
    | with_reducible apply Keeps.ite | with_reducible apply Keeps.foldl | with_reducible apply State.drain_keeps
    | with_reducible apply State.setFld_keeps | with_reducible apply State.solicitRouter_keeps
    | with_reducible apply State.unitEvent_keeps | with_reducible apply State.nextAttempt_keeps
    | (lift_lets; intro x; clear_value x))

theorem execLinkLoss_keeps {σ s t : State} (b : LossB) (h : Keeps σ s) (e : execLinkLoss b s = .next t) : Keeps σ t := by
  refine guardWf_keeps e ?_
  beta_reduce
  repeat' (first
    | with_reducible assumption | with_reducible exact Keeps.refl _ | intro x
    | (lift_lets; intro x; with_reducible refine Keeps.cut x ?_ ?_; rotate_left 1; clear_value x; intro hx)
    | with_reducible apply Keeps.ite | with_reducible apply Keeps.foldl | with_reducible apply State.addFld_keeps
    | with_reducible apply State.bringUp_keeps | with_reducible apply State.holderLost_keeps
    | with_reducible apply State.settleRed_keeps)

theorem execPauseFrame_keeps {σ s t : State}  (h : Keeps σ s) (e : execPauseFrame s = .next t) : Keeps σ t := by
  refine guardWf_keeps e ?_
  beta_reduce
  repeat' (first
    | with_reducible assumption | with_reducible apply State.addFld_keeps)

theorem execNonIpFrame_keeps {σ s t : State}  (h : Keeps σ s) (e : execNonIpFrame s = .next t) : Keeps σ t := by
  refine guardWf_keeps e ?_
  beta_reduce
  repeat' (first
    | with_reducible assumption | with_reducible apply State.addFld_keeps)

theorem execExtensionHeaderPacket_keeps {σ s t : State}  (h : Keeps σ s) (e : execExtensionHeaderPacket s = .next t) : Keeps σ t := by
  refine guardWf_keeps e ?_
  beta_reduce
  repeat' (first
    | with_reducible assumption | with_reducible apply State.addFld_keeps)

theorem execBadUdpChecksum_keeps {σ s t : State}  (h : Keeps σ s) (e : execBadUdpChecksum s = .next t) : Keeps σ t := by
  refine guardWf_keeps e ?_
  beta_reduce
  repeat' (first
    | with_reducible assumption | with_reducible apply State.addFld_keeps)

theorem execMalformedPacket_keeps {σ s t : State}  (h : Keeps σ s) (e : execMalformedPacket s = .next t) : Keeps σ t := by
  refine guardWf_keeps e ?_
  beta_reduce
  repeat' (first
    | with_reducible assumption | with_reducible apply State.dropPacket_keeps)

theorem execNeighborSolicitation_keeps {σ s t : State} (src target : Nat) (h : Keeps σ s) (e : execNeighborSolicitation src target s = .next t) : Keeps σ t := by
  refine guardWf_keeps e ?_
  beta_reduce
  repeat' (first
    | with_reducible assumption | with_reducible apply Keeps.ite | with_reducible apply State.emit_keeps)

theorem execEchoRequest_keeps {σ s t : State} (src ident seq : Nat) (data : List Byte) (h : Keeps σ s) (e : execEchoRequest src ident seq data s = .next t) : Keeps σ t := by
  refine guardWf_keeps e ?_
  beta_reduce
  repeat' (first
    | with_reducible assumption | (lift_lets; intro x; clear_value x) | with_reducible apply Keeps.ite
    | with_reducible apply State.emit_keeps | with_reducible apply Keeps.mk_rest)

/-! ### Machine/Requests -/

theorem State.ask_keeps {σ s : State} (p : Pkt) (r : Nat) (blocked : Bool) (f : Asker → State → State) (h : Keeps σ s) (hf : ∀ a s, Keeps s (f a s)) : Keeps σ (State.ask s p r blocked f) := by
  unfold State.ask
  repeat' (first
    | with_reducible assumption | with_reducible refine Keeps.trans ?_ (hf _ _)
    | (intro x; with_reducible refine Keeps.cut x ?_ ?_; rotate_left 1; clear_value x; intro hx)
    | (lift_lets; intro x; clear_value x) | with_reducible apply Keeps.ite | with_reducible apply State.say_keeps
    | with_reducible apply State.sendOn_keeps | split | with_reducible apply Keeps.mk_rest)

theorem State.askRegRead_keeps {σ s : State} (p : Pkt) (r n a : Nat) (h : Keeps σ s) : Keeps σ (State.askRegRead s p r n a) := by
  unfold State.askRegRead
  repeat' (first
    | with_reducible assumption | with_reducible exact Keeps.refl _ | intro x | with_reducible apply Keeps.ite
    | with_reducible apply State.answer_keeps | with_reducible apply State.ask_keeps
    | with_reducible apply State.say_keeps)

theorem State.askRegWrite_keeps {σ s : State} (p : Pkt) (r a : Nat) (vs : List Nat) (h : Keeps σ s) : Keeps σ (State.askRegWrite s p r a vs) := by
  unfold State.askRegWrite
  repeat' (first
    | with_reducible assumption | with_reducible exact Keeps.refl _ | intro x | with_reducible apply Keeps.ite
    | with_reducible apply State.ask_keeps | with_reducible apply State.say_keeps
    | with_reducible apply State.writeRegs_keeps)

theorem State.askMemRead_keeps {σ s : State} (p : Pkt) (r n a : Nat) (h : Keeps σ s) : Keeps σ (State.askMemRead s p r n a) := by
  unfold State.askMemRead
  repeat' (first
    | with_reducible assumption | with_reducible exact Keeps.refl _ | intro x | (lift_lets; intro x; clear_value x)
    | with_reducible apply Keeps.ite | with_reducible apply State.answer_keeps | with_reducible apply State.ask_keeps
    | with_reducible apply State.hubOp_keeps | with_reducible apply State.say_keeps)

theorem State.askMemWrite_keeps {σ s : State} (p : Pkt) (r a : Nat) (data : List Byte) (h : Keeps σ s) : Keeps σ (State.askMemWrite s p r a data) := by
  unfold State.askMemWrite
  repeat' (first
    | with_reducible assumption | with_reducible exact Keeps.refl _ | intro x | (lift_lets; intro x; clear_value x)
    | with_reducible apply Keeps.ite | with_reducible apply State.ask_keeps | with_reducible apply State.hubWrite_keeps
    | with_reducible apply State.say_keeps | with_reducible apply State.storeTouched_keeps)

theorem State.askImage_keeps {σ s : State} (p : Pkt) (r off : Nat) (data : List Byte) (h : Keeps σ s) : Keeps σ (State.askImage s p r off data) := by
  unfold State.askImage
  repeat' (first
    | with_reducible assumption | with_reducible exact Keeps.refl _ | intro x | with_reducible apply State.ask_keeps
    | with_reducible apply State.putImage_keeps)

theorem State.askLoad_keeps {σ s : State} (p : Pkt) (r len : Nat) (ext : Option LoadExt) (h : Keeps σ s) : Keeps σ (State.askLoad s p r len ext) := by
  unfold State.askLoad
  repeat' (first
    | with_reducible assumption | with_reducible exact Keeps.refl _ | intro x | with_reducible apply State.ask_keeps
    | with_reducible apply State.load_keeps)

theorem State.askStep_keeps {σ s : State} (p : Pkt) (r : Nat) (start : Bool) (b : StepB) (h : Keeps σ s) : Keeps σ (State.askStep s p r start b) := by
  unfold State.askStep
  repeat' (first
    | with_reducible assumption | with_reducible exact Keeps.refl _
    | (intro x; with_reducible refine Keeps.cut x ?_ ?_; rotate_left 1; clear_value x; intro hx) | intro x
    | (lift_lets; intro x; clear_value x) | with_reducible apply Keeps.ite | with_reducible apply State.ask_keeps
    | with_reducible apply State.checkStep_keeps | with_reducible apply State.say_keeps
    | with_reducible apply State.updPart_keeps)

theorem State.askKill_keeps {σ s : State} (p : Pkt) (r part : Nat) (h : Keeps σ s) : Keeps σ (State.askKill s p r part) := by
  unfold State.askKill
  repeat' (first
    | with_reducible assumption | with_reducible exact Keeps.refl _ | intro x | with_reducible apply Keeps.ite
    | with_reducible apply State.ask_keeps | with_reducible apply State.say_keeps
    | with_reducible apply State.setArb_keeps | with_reducible apply State.settleRed_keeps
    | with_reducible apply State.terminate_keeps)

theorem State.putGroup_keeps {σ s : State} (k : Asker) (g : Nat) (t : Group) (h : Keeps σ s) : Keeps σ (State.putGroup s k g t) := by
  unfold State.putGroup
  repeat' (first
    | with_reducible assumption
    | (lift_lets; intro x; with_reducible refine Keeps.cut x ?_ ?_; rotate_left 1; clear_value x; intro hx)
    | with_reducible apply Keeps.ite | with_reducible apply State.say_keeps | with_reducible apply Keeps.mk_rest)

theorem State.askGroup_keeps {σ s : State} (p : Pkt) (r g : Nat) (last : Bool) (host size rank first : Nat) (es : List (Nat × Nat)) (h : Keeps σ s) : Keeps σ (State.askGroup s p r g last host size rank first es) := by
  unfold State.askGroup
  repeat' (first
    | with_reducible assumption | with_reducible exact Keeps.refl _ | (intro x; clear_value x) | intro x
    | (lift_lets; intro x; clear_value x) | with_reducible apply Keeps.ite | with_reducible apply State.ask_keeps
    | with_reducible apply State.putGroup_keeps | with_reducible apply State.say_keeps
    | with_reducible apply Keeps.mk_rest)

theorem State.askMaint_keeps {σ s : State} (p : Pkt) (r : Nat) (compute : Bool) (f : Asker → State → State) (h : Keeps σ s) (hf : ∀ a s, Keeps s (f a s)) : Keeps σ (State.askMaint s p r compute f) := by
  unfold State.askMaint
  repeat' (first
    | with_reducible assumption | with_reducible apply State.ask_keeps)

theorem State.askKey_keeps {σ s : State} (p : Pkt) (r : Nat) (f : Asker → State → State) (h : Keeps σ s) (hf : ∀ a s, Keeps s (f a s)) : Keeps σ (State.askKey s p r f) := by
  unfold State.askKey
  repeat' (first
    | with_reducible assumption | with_reducible apply State.ask_keeps)

theorem State.askAlways_keeps {σ s : State} (p : Pkt) (r : Nat) (f : Asker → State → State) (h : Keeps σ s) (hf : ∀ a s, Keeps s (f a s)) : Keeps σ (State.askAlways s p r f) := by
  unfold State.askAlways
  repeat' (first
    | with_reducible assumption | with_reducible apply State.ask_keeps)

theorem State.askWarmReset_keeps {σ s : State} (p : Pkt) (r : Nat) (h : Keeps σ s) : Keeps σ (State.askWarmReset s p r) := by
  unfold State.askWarmReset
  repeat' (first
    | with_reducible assumption | with_reducible exact Keeps.refl _ | intro x | with_reducible apply State.ask_keeps
    | with_reducible apply State.say_keeps | with_reducible apply State.warmReset_keeps)

theorem State.askFw_keeps {σ s : State} (p : Pkt) (r target : Nat) (f : Asker → State → State) (h : Keeps σ s) (hf : ∀ a s, Keeps s (f a s)) : Keeps σ (State.askFw s p r target f) := by
  unfold State.askFw
  repeat' (first
    | with_reducible assumption | with_reducible exact Keeps.refl _ | with_reducible refine Keeps.trans ?_ (hf _ _)
    | intro x | with_reducible apply Keeps.ite | with_reducible apply State.askAlways_keeps
    | with_reducible apply State.say_keeps)

theorem State.askFwData_keeps {σ s : State} (p : Pkt) (r target off : Nat) (data : List Byte) (h : Keeps σ s) : Keeps σ (State.askFwData s p r target off data) := by
  unfold State.askFwData
  repeat' (first
    | with_reducible assumption | with_reducible exact Keeps.refl _ | intro x | with_reducible apply State.askFw_keeps
    | with_reducible apply State.packData_keeps | with_reducible apply State.say_keeps | split)

/-! ### Machine/Receive -/

theorem State.reduce_keeps {σ s : State} (trusted : Bool) (m : Msg) (h : Keeps σ s) : Keeps σ (State.reduce s trusted m) := by
  unfold State.reduce
  repeat' (first
    | with_reducible assumption | with_reducible apply Keeps.ite | with_reducible apply State.addFld_keeps
    | with_reducible apply State.gotMsg_keeps | with_reducible apply State.settleRed_keeps
    | with_reducible apply State.stale_keeps)

theorem State.cairnMsg_keeps {σ s : State} (f : State → State) (h : Keeps σ s) (hf : ∀ s, Keeps s (f s)) : Keeps σ (State.cairnMsg s f) := by
  unfold State.cairnMsg
  repeat' (first
    | with_reducible assumption | with_reducible refine Keeps.trans ?_ (hf _) | with_reducible apply Keeps.ite)

theorem State.askOwn_keeps {σ s : State} (p : Pkt) (r a v : Nat) (h : Keeps σ s) : Keeps σ (State.askOwn s p r a v) := by
  unfold State.askOwn
  repeat' (first
    | with_reducible assumption | with_reducible apply State.askRegWrite_keeps)

theorem State.act_keeps {σ s : State} (i : Instr) (h : Keeps σ s) : Keeps σ (State.act s i) := by
  unfold State.act
  repeat' (first
    | with_reducible assumption | with_reducible exact Keeps.refl _ | intro x | with_reducible apply State.abortFw_keeps
    | with_reducible apply State.activateFw_keeps | with_reducible apply State.askAlways_keeps
    | with_reducible apply State.askFw_keeps | with_reducible apply State.askFwData_keeps
    | with_reducible apply State.askGroup_keeps | with_reducible apply State.askImage_keeps
    | with_reducible apply State.askKey_keeps | with_reducible apply State.askKill_keeps
    | with_reducible apply State.askLoad_keeps | with_reducible apply State.askMaint_keeps
    | with_reducible apply State.askMemRead_keeps | with_reducible apply State.askMemWrite_keeps
    | with_reducible apply State.askOwn_keeps | with_reducible apply State.askRegRead_keeps
    | with_reducible apply State.askRegWrite_keeps | with_reducible apply State.askStep_keeps
    | with_reducible apply State.askWarmReset_keeps | with_reducible apply State.attest_keeps
    | with_reducible apply State.cairnMsg_keeps | with_reducible apply State.clearRecord_keeps
    | with_reducible apply State.commitFw_keeps | with_reducible apply State.deletePack_keeps
    | with_reducible apply State.enterShade_keeps | with_reducible apply State.fenceUnit_keeps
    | with_reducible apply State.finishFw_keeps | with_reducible apply State.gotBegin_keeps
    | with_reducible apply State.gotBegun_keeps | with_reducible apply State.gotBlock_keeps
    | with_reducible apply State.gotFetch_keeps | with_reducible apply State.gotFetched_keeps
    | with_reducible apply State.gotSeal_keeps | with_reducible apply State.gotSealed_keeps
    | with_reducible apply State.installOwner_keeps | with_reducible apply State.installPeer_keeps
    | with_reducible apply State.leaveShade_keeps | with_reducible apply State.reduce_keeps
    | with_reducible apply State.releaseDevice_keeps | with_reducible apply State.retireKey_keeps
    | with_reducible apply State.retrainNow_keeps | with_reducible apply State.runPack_keeps
    | with_reducible apply State.setConfig_keeps | with_reducible apply State.startMarch_keeps
    | with_reducible apply State.startSweep_keeps | with_reducible apply State.stopMarch_keeps | split)

theorem State.pump_keeps {σ s : State} (n f : Nat) (h : Keeps σ s) : Keeps σ (State.pump n f s) := by
  induction f generalizing s with
  | zero => exact h
  | succ f ih =>
    unfold State.pump
    split
    · exact ih (State.act_keeps _ (Keeps.mk_rest (s := s) (h := h) ..))
    · exact h

theorem State.settleConn_keeps {σ s : State} (n : Nat) (ackNow : Bool) (h : Keeps σ s) : Keeps σ (State.settleConn s n ackNow) := by
  unfold State.settleConn
  repeat' (first
    | with_reducible assumption | with_reducible apply Keeps.ite | with_reducible apply State.drain_keeps
    | with_reducible apply State.grantSend_keeps | with_reducible apply State.sendAck_keeps)

theorem State.takeBlock_keeps {σ s : State} (p : Pkt) (bulk : Bool) (i : Instr) (h : Keeps σ s) : Keeps σ (State.takeBlock s p bulk i) := by
  unfold State.takeBlock
  repeat' (first
    | with_reducible assumption
    | (lift_lets; intro x; with_reducible refine Keeps.cut x ?_ ?_; rotate_left 1; clear_value x; intro hx)
    | with_reducible apply Keeps.ite | with_reducible apply State.act_keeps | with_reducible apply State.pump_keeps
    | with_reducible apply State.updConn_keeps)

theorem State.deferBlock_keeps {σ s : State} (i : Instr) (h : Keeps σ s) : Keeps σ (State.deferBlock s i) := by
  unfold State.deferBlock
  repeat' (first
    | with_reducible assumption | with_reducible apply Keeps.ite | with_reducible apply State.queueFw_keeps | split
    | with_reducible apply Keeps.mk_rest)

theorem State.receive_keeps {σ s : State} (p : Pkt) (cls : Nat) (bulk : Bool) (i : Instr) (h : Keeps σ s) : Keeps σ (State.receive s p cls bulk i) := by
  unfold State.receive
  repeat' (first
    | with_reducible assumption
    | (lift_lets; intro x; with_reducible refine Keeps.cut x ?_ ?_; rotate_left 1; clear_value x; intro hx)
    | with_reducible apply Keeps.ite | with_reducible apply State.accept_keeps
    | with_reducible apply State.deferBlock_keeps | with_reducible apply State.drain_keeps
    | with_reducible apply State.dropPacket_keeps | with_reducible apply State.sendAck_keeps
    | with_reducible apply State.settleConn_keeps | with_reducible apply State.takeBlock_keeps | split)

theorem execFlashProgramComplete_keeps {σ s t : State} (h : Keeps σ s) (e : execFlashProgramComplete s = .next t) : Keeps σ t := by
  refine guardWf_keeps e ?_
  beta_reduce
  split
  · exact h
  · refine Keeps.ite (Keeps.mk_rest (h := h) ..) ?_
    split
    · exact h
    · exact State.settleConn_keeps _ _ (State.sendAck_keeps _ (State.pump_keeps _ _ (State.say_keeps _ _ (State.updConn_keeps _ _
        (Keeps.mk_rest (h := State.setIdle_keeps _ h) ..)))))

theorem execRegRead_keeps {σ s t : State} (p : Pkt) (r count addr : Nat) (h : Keeps σ s) (e : execRegRead p r count addr s = .next t) : Keeps σ t := by
  refine guardWf_keeps e ?_
  beta_reduce
  repeat' (first
    | with_reducible assumption | with_reducible apply State.receive_keeps)

theorem execRegWrite_keeps {σ s t : State} (p : Pkt) (r addr : Nat) (vals : List Nat) (h : Keeps σ s) (e : execRegWrite p r addr vals s = .next t) : Keeps σ t := by
  refine guardWf_keeps e ?_
  beta_reduce
  repeat' (first
    | with_reducible assumption | with_reducible apply State.receive_keeps)

theorem execMemRead_keeps {σ s t : State} (p : Pkt) (r len dpa : Nat) (h : Keeps σ s) (e : execMemRead p r len dpa s = .next t) : Keeps σ t := by
  refine guardWf_keeps e ?_
  beta_reduce
  repeat' (first
    | with_reducible assumption | with_reducible apply State.receive_keeps)

theorem execMemWrite_keeps {σ s t : State} (p : Pkt) (r dpa : Nat) (data : List Byte) (h : Keeps σ s) (e : execMemWrite p r dpa data s = .next t) : Keeps σ t := by
  refine guardWf_keeps e ?_
  beta_reduce
  repeat' (first
    | with_reducible assumption | with_reducible apply State.receive_keeps)

theorem execImage_keeps {σ s t : State} (p : Pkt) (r off : Nat) (data : List Byte) (h : Keeps σ s) (e : execImage p r off data s = .next t) : Keeps σ t := by
  refine guardWf_keeps e ?_
  beta_reduce
  repeat' (first
    | with_reducible assumption | with_reducible apply State.receive_keeps)

theorem execLoad_keeps {σ s t : State} (p : Pkt) (r len : Nat) (ext : Option LoadExt) (h : Keeps σ s) (e : execLoad p r len ext s = .next t) : Keeps σ t := by
  refine guardWf_keeps e ?_
  beta_reduce
  repeat' (first
    | with_reducible assumption | with_reducible apply State.receive_keeps)

theorem execStart_keeps {σ s t : State} (p : Pkt) (r : Nat) (b : StepB) (h : Keeps σ s) (e : execStart p r b s = .next t) : Keeps σ t := by
  refine guardWf_keeps e ?_
  beta_reduce
  repeat' (first
    | with_reducible assumption | with_reducible apply State.receive_keeps)

theorem execStep_keeps {σ s t : State} (p : Pkt) (r : Nat) (b : StepB) (h : Keeps σ s) (e : execStep p r b s = .next t) : Keeps σ t := by
  refine guardWf_keeps e ?_
  beta_reduce
  repeat' (first
    | with_reducible assumption | with_reducible apply State.receive_keeps)

theorem execPartitionKill_keeps {σ s t : State} (p : Pkt) (r part : Nat) (h : Keeps σ s) (e : execPartitionKill p r part s = .next t) : Keeps σ t := by
  refine guardWf_keeps e ?_
  beta_reduce
  repeat' (first
    | with_reducible assumption | with_reducible apply State.receive_keeps)

theorem execGroupSet_keeps {σ s t : State} (p : Pkt) (r group : Nat) (last : Bool) (hostr size rank first : Nat) (entries : List (Nat × Nat)) (h : Keeps σ s) (e : execGroupSet p r group last hostr size rank first entries s = .next t) : Keeps σ t := by
  refine guardWf_keeps e ?_
  beta_reduce
  repeat' (first
    | with_reducible assumption | with_reducible apply State.receive_keeps)

theorem execRunTestPack_keeps {σ s t : State} (p : Pkt) (r pack unit : Nat) (h : Keeps σ s) (e : execRunTestPack p r pack unit s = .next t) : Keeps σ t := by
  refine guardWf_keeps e ?_
  beta_reduce
  repeat' (first
    | with_reducible assumption | with_reducible apply State.receive_keeps)

theorem execStartMarch_keeps {σ s t : State} (p : Pkt) (r slice : Nat) (destructive : Bool) (h : Keeps σ s) (e : execStartMarch p r slice destructive s = .next t) : Keeps σ t := by
  refine guardWf_keeps e ?_
  beta_reduce
  repeat' (first
    | with_reducible assumption | with_reducible apply State.receive_keeps)

theorem execStopMarch_keeps {σ s t : State} (p : Pkt) (r slice : Nat) (h : Keeps σ s) (e : execStopMarch p r slice s = .next t) : Keeps σ t := by
  refine guardWf_keeps e ?_
  beta_reduce
  repeat' (first
    | with_reducible assumption | with_reducible apply State.receive_keeps)

theorem execRetrainChannel_keeps {σ s t : State} (p : Pkt) (r q : Nat) (h : Keeps σ s) (e : execRetrainChannel p r q s = .next t) : Keeps σ t := by
  refine guardWf_keeps e ?_
  beta_reduce
  repeat' (first
    | with_reducible assumption | with_reducible apply State.receive_keeps)

theorem execDigestSweep_keeps {σ s t : State} (p : Pkt) (r n : Nat) (h : Keeps σ s) (e : execDigestSweep p r n s = .next t) : Keeps σ t := by
  refine guardWf_keeps e ?_
  beta_reduce
  repeat' (first
    | with_reducible assumption | with_reducible apply State.receive_keeps)

theorem execClearUnitRecord_keeps {σ s t : State} (p : Pkt) (r unit : Nat) (h : Keeps σ s) (e : execClearUnitRecord p r unit s = .next t) : Keeps σ t := by
  refine guardWf_keeps e ?_
  beta_reduce
  repeat' (first
    | with_reducible assumption | with_reducible apply State.receive_keeps)

theorem execFenceUnit_keeps {σ s t : State} (p : Pkt) (r unit : Nat) (h : Keeps σ s) (e : execFenceUnit p r unit s = .next t) : Keeps σ t := by
  refine guardWf_keeps e ?_
  beta_reduce
  repeat' (first
    | with_reducible assumption | with_reducible apply State.receive_keeps)

theorem execDeleteTestPack_keeps {σ s t : State} (p : Pkt) (r pack : Nat) (h : Keeps σ s) (e : execDeleteTestPack p r pack s = .next t) : Keeps σ t := by
  refine guardWf_keeps e ?_
  beta_reduce
  repeat' (first
    | with_reducible assumption | with_reducible apply State.receive_keeps)

theorem execSetModuleConfiguration_keeps {σ s t : State} (p : Pkt) (r : Nat) (data : List Byte) (h : Keeps σ s) (e : execSetModuleConfiguration p r data s = .next t) : Keeps σ t := by
  refine guardWf_keeps e ?_
  beta_reduce
  repeat' (first
    | with_reducible assumption | with_reducible apply State.receive_keeps)

theorem execWarmReset_keeps {σ s t : State} (p : Pkt) (r : Nat) (h : Keeps σ s) (e : execWarmReset p r s = .next t) : Keeps σ t := by
  refine guardWf_keeps e ?_
  beta_reduce
  repeat' (first
    | with_reducible assumption | with_reducible apply State.receive_keeps)

theorem execEnterShade_keeps {σ s t : State} (p : Pkt) (r : Nat) (h : Keeps σ s) (e : execEnterShade p r s = .next t) : Keeps σ t := by
  refine guardWf_keeps e ?_
  beta_reduce
  repeat' (first
    | with_reducible assumption | with_reducible apply State.receive_keeps)

theorem execLeaveShade_keeps {σ s t : State} (p : Pkt) (r : Nat) (h : Keeps σ s) (e : execLeaveShade p r s = .next t) : Keeps σ t := by
  refine guardWf_keeps e ?_
  beta_reduce
  repeat' (first
    | with_reducible assumption | with_reducible apply State.receive_keeps)

theorem execInstallOwnerKey_keeps {σ s t : State} (p : Pkt) (r : Nat) (wrapped : List Byte) (h : Keeps σ s) (e : execInstallOwnerKey p r wrapped s = .next t) : Keeps σ t := by
  refine guardWf_keeps e ?_
  beta_reduce
  repeat' (first
    | with_reducible assumption | with_reducible apply State.receive_keeps)

theorem execInstallPeerKey_keeps {σ s t : State} (p : Pkt) (r : Nat) (wrapped : List Byte) (h : Keeps σ s) (e : execInstallPeerKey p r wrapped s = .next t) : Keeps σ t := by
  refine guardWf_keeps e ?_
  beta_reduce
  repeat' (first
    | with_reducible assumption | with_reducible apply State.receive_keeps)

theorem execRetireOwnerPrevious_keeps {σ s t : State} (p : Pkt) (r : Nat) (h : Keeps σ s) (e : execRetireOwnerPrevious p r s = .next t) : Keeps σ t := by
  refine guardWf_keeps e ?_
  beta_reduce
  repeat' (first
    | with_reducible assumption | with_reducible apply State.receive_keeps)

theorem execRetirePeerPrevious_keeps {σ s t : State} (p : Pkt) (r : Nat) (h : Keeps σ s) (e : execRetirePeerPrevious p r s = .next t) : Keeps σ t := by
  refine guardWf_keeps e ?_
  beta_reduce
  repeat' (first
    | with_reducible assumption | with_reducible apply State.receive_keeps)

theorem execRelease_keeps {σ s t : State} (p : Pkt) (r : Nat) (h : Keeps σ s) (e : execRelease p r s = .next t) : Keeps σ t := by
  refine guardWf_keeps e ?_
  beta_reduce
  repeat' (first
    | with_reducible assumption | with_reducible apply State.receive_keeps)

theorem execFwImageData_keeps {σ s t : State} (p : Pkt) (r target off : Nat) (data : List Byte) (h : Keeps σ s) (e : execFwImageData p r target off data s = .next t) : Keeps σ t := by
  refine guardWf_keeps e ?_
  beta_reduce
  repeat' (first
    | with_reducible assumption | with_reducible apply State.receive_keeps)

theorem execFwImageFinish_keeps {σ s t : State} (p : Pkt) (r target : Nat) (h : Keeps σ s) (e : execFwImageFinish p r target s = .next t) : Keeps σ t := by
  refine guardWf_keeps e ?_
  beta_reduce
  repeat' (first
    | with_reducible assumption | with_reducible apply State.receive_keeps)

theorem execFwImageActivate_keeps {σ s t : State} (p : Pkt) (r target : Nat) (h : Keeps σ s) (e : execFwImageActivate p r target s = .next t) : Keeps σ t := by
  refine guardWf_keeps e ?_
  beta_reduce
  repeat' (first
    | with_reducible assumption | with_reducible apply State.receive_keeps)

theorem execFwImageCommit_keeps {σ s t : State} (p : Pkt) (r target off : Nat) (h : Keeps σ s) (e : execFwImageCommit p r target off s = .next t) : Keeps σ t := by
  refine guardWf_keeps e ?_
  beta_reduce
  repeat' (first
    | with_reducible assumption | with_reducible apply State.receive_keeps)

theorem execFwImageAbort_keeps {σ s t : State} (p : Pkt) (r target : Nat) (h : Keeps σ s) (e : execFwImageAbort p r target s = .next t) : Keeps σ t := by
  refine guardWf_keeps e ?_
  beta_reduce
  repeat' (first
    | with_reducible assumption | with_reducible apply State.receive_keeps)

theorem execAttest_keeps {σ s t : State} (p : Pkt) (r off : Nat) (nonce : List Byte) (h : Keeps σ s) (e : execAttest p r off nonce s = .next t) : Keeps σ t := by
  refine guardWf_keeps e ?_
  beta_reduce
  repeat' (first
    | with_reducible assumption | with_reducible apply State.receive_keeps)

theorem execRoll_keeps {σ s t : State} (p : Pkt) (n : EpName) (digest deadline rcDeadline : Nat) (h : Keeps σ s) (e : execRoll p n digest deadline rcDeadline s = .next t) : Keeps σ t := by
  refine guardWf_keeps e ?_
  beta_reduce
  repeat' (first
    | with_reducible assumption | with_reducible apply State.receive_keeps)

theorem execAnswer_keeps {σ s t : State} (p : Pkt) (n : EpName) (digest ver rank : Nat) (h : Keeps σ s) (e : execAnswer p n digest ver rank s = .next t) : Keeps σ t := by
  refine guardWf_keeps e ?_
  beta_reduce
  repeat' (first
    | with_reducible assumption | with_reducible apply State.receive_keeps)

theorem execRoster_keeps {σ s t : State} (p : Pkt) (n : EpName) (deadline : Nat) (listener : Bool) (admitted : List Nat) (h : Keeps σ s) (e : execRoster p n deadline listener admitted s = .next t) : Keeps σ t := by
  refine guardWf_keeps e ?_
  beta_reduce
  repeat' (first
    | with_reducible assumption | with_reducible apply State.receive_keeps)

theorem execContrib_keeps {σ s t : State} (p : Pkt) (n : EpName) (rank first : Nat) (data : List (Byte × Bool)) (h : Keeps σ s) (e : execContrib p n rank first data s = .next t) : Keeps σ t := by
  refine guardWf_keeps e ?_
  beta_reduce
  repeat' (first
    | with_reducible assumption | with_reducible apply State.receive_keeps)

theorem execRack_keeps {σ s t : State} (p : Pkt) (n : EpName) (rank status : Nat) (nan poison : Bool) (cred first : Nat) (h : Keeps σ s) (e : execRack p n rank status nan poison cred first s = .next t) : Keeps σ t := by
  refine guardWf_keeps e ?_
  beta_reduce
  repeat' (first
    | with_reducible assumption | with_reducible apply State.receive_keeps)

theorem execDone_keeps {σ s t : State} (p : Pkt) (n : EpName) (rank : Nat) (nan poison : Bool) (h : Keeps σ s) (e : execDone p n rank nan poison s = .next t) : Keeps σ t := by
  refine guardWf_keeps e ?_
  beta_reduce
  repeat' (first
    | with_reducible assumption | with_reducible apply State.receive_keeps)

theorem execAdmit_keeps {σ s t : State} (p : Pkt) (n : EpName) (deadline : Nat) (upTo : Option Nat) (excluded : List Nat) (h : Keeps σ s) (e : execAdmit p n deadline upTo excluded s = .next t) : Keeps σ t := by
  refine guardWf_keeps e ?_
  beta_reduce
  repeat' (first
    | with_reducible assumption | with_reducible apply State.receive_keeps)

theorem execLate_keeps {σ s t : State} (p : Pkt) (n : EpName) (rank delay : Nat) (h : Keeps σ s) (e : execLate p n rank delay s = .next t) : Keeps σ t := by
  refine guardWf_keeps e ?_
  beta_reduce
  repeat' (first
    | with_reducible assumption | with_reducible apply State.receive_keeps)

theorem execClose_keeps {σ s t : State} (p : Pkt) (n : EpName) (outcome : Nat) (record : List Byte) (included : List Nat) (h : Keeps σ s) (e : execClose p n outcome record included s = .next t) : Keeps σ t := by
  refine guardWf_keeps e ?_
  beta_reduce
  repeat' (first
    | with_reducible assumption | with_reducible apply State.receive_keeps)

theorem execResult_keeps {σ s t : State} (p : Pkt) (n : EpName) (rank : Nat) (longSum sumNan poison : Bool) (rfmt first : Nat) (data : List (Byte × Bool)) (h : Keeps σ s) (e : execResult p n rank longSum sumNan poison rfmt first data s = .next t) : Keeps σ t := by
  refine guardWf_keeps e ?_
  beta_reduce
  repeat' (first
    | with_reducible assumption | with_reducible apply State.receive_keeps)

theorem execAbandon_keeps {σ s t : State} (p : Pkt) (n : EpName) (reason : Nat) (h : Keeps σ s) (e : execAbandon p n reason s = .next t) : Keeps σ t := by
  refine guardWf_keeps e ?_
  beta_reduce
  repeat' (first
    | with_reducible assumption | with_reducible apply State.receive_keeps)

theorem execLost_keeps {σ s t : State} (p : Pkt) (n : EpName) (rank : Nat) (h : Keeps σ s) (e : execLost p n rank s = .next t) : Keeps σ t := by
  refine guardWf_keeps e ?_
  beta_reduce
  repeat' (first
    | with_reducible assumption | with_reducible apply State.receive_keeps)

theorem execBegin_keeps {σ s t : State} (p : Pkt) (b : CtlB) (h : Keeps σ s) (e : execBegin p b s = .next t) : Keeps σ t := by
  refine guardWf_keeps e ?_
  beta_reduce
  repeat' (first
    | with_reducible assumption | with_reducible apply State.receive_keeps)

theorem execBegun_keeps {σ s t : State} (p : Pkt) (b : CtlB) (h : Keeps σ s) (e : execBegun p b s = .next t) : Keeps σ t := by
  refine guardWf_keeps e ?_
  beta_reduce
  repeat' (first
    | with_reducible assumption | with_reducible apply State.receive_keeps)

theorem execCairnData_keeps {σ s t : State} (p : Pkt) (off : Nat) (data : List Byte) (h : Keeps σ s) (e : execCairnData p off data s = .next t) : Keeps σ t := by
  refine guardWf_keeps e ?_
  beta_reduce
  repeat' (first
    | with_reducible assumption | with_reducible apply State.receive_keeps)

theorem execSeal_keeps {σ s t : State} (p : Pkt) (b : CtlB) (h : Keeps σ s) (e : execSeal p b s = .next t) : Keeps σ t := by
  refine guardWf_keeps e ?_
  beta_reduce
  repeat' (first
    | with_reducible assumption | with_reducible apply State.receive_keeps)

theorem execSealed_keeps {σ s t : State} (p : Pkt) (b : CtlB) (h : Keeps σ s) (e : execSealed p b s = .next t) : Keeps σ t := by
  refine guardWf_keeps e ?_
  beta_reduce
  repeat' (first
    | with_reducible assumption | with_reducible apply State.receive_keeps)

theorem execFetch_keeps {σ s t : State} (p : Pkt) (b : CtlB) (h : Keeps σ s) (e : execFetch p b s = .next t) : Keeps σ t := by
  refine guardWf_keeps e ?_
  beta_reduce
  repeat' (first
    | with_reducible assumption | with_reducible apply State.receive_keeps)

theorem execFetched_keeps {σ s t : State} (p : Pkt) (b : CtlB) (h : Keeps σ s) (e : execFetched p b s = .next t) : Keeps σ t := by
  refine guardWf_keeps e ?_
  beta_reduce
  repeat' (first
    | with_reducible assumption | with_reducible apply State.receive_keeps)

theorem execStepNow_keeps {σ s t : State} (p : Pkt) (r v : Nat) (h : Keeps σ s) (e : execStepNow p r v s = .next t) : Keeps σ t := by
  refine guardWf_keeps e ?_
  beta_reduce
  repeat' (first
    | with_reducible assumption | with_reducible apply State.receive_keeps)

theorem execLeakClr_keeps {σ s t : State} (p : Pkt) (r v : Nat) (h : Keeps σ s) (e : execLeakClr p r v s = .next t) : Keeps σ t := by
  refine guardWf_keeps e ?_
  beta_reduce
  repeat' (first
    | with_reducible assumption | with_reducible apply State.receive_keeps)

theorem execArithFlagClear_keeps {σ s t : State} (p : Pkt) (r c v : Nat) (h : Keeps σ s) (e : execArithFlagClear p r c v s = .next t) : Keeps σ t := by
  refine guardWf_keeps e ?_
  beta_reduce
  repeat' (first
    | with_reducible assumption | with_reducible apply State.receive_keeps)

theorem execTalModeWrite_keeps {σ s t : State} (p : Pkt) (r q v : Nat) (h : Keeps σ s) (e : execTalModeWrite p r q v s = .next t) : Keeps σ t := by
  refine guardWf_keeps e ?_
  beta_reduce
  repeat' (first
    | with_reducible assumption | with_reducible apply State.receive_keeps)

theorem execDigestRegionConfig_keeps {σ s t : State} (p : Pkt) (r n v : Nat) (h : Keeps σ s) (e : execDigestRegionConfig p r n v s = .next t) : Keeps σ t := by
  refine guardWf_keeps e ?_
  beta_reduce
  repeat' (first
    | with_reducible assumption | with_reducible apply State.receive_keeps)

theorem execStoreConfig_keeps {σ s t : State} (p : Pkt) (r v : Nat) (h : Keeps σ s) (e : execStoreConfig p r v s = .next t) : Keeps σ t := by
  refine guardWf_keeps e ?_
  beta_reduce
  repeat' (first
    | with_reducible assumption | with_reducible apply State.receive_keeps)

theorem execClientConfig_keeps {σ s t : State} (p : Pkt) (r v : Nat) (h : Keeps σ s) (e : execClientConfig p r v s = .next t) : Keeps σ t := by
  refine guardWf_keeps e ?_
  beta_reduce
  repeat' (first
    | with_reducible assumption | with_reducible apply State.receive_keeps)

theorem execTgOff_keeps {σ s t : State} (p : Pkt) (r q v : Nat) (h : Keeps σ s) (e : execTgOff p r q v s = .next t) : Keeps σ t := by
  refine guardWf_keeps e ?_
  beta_reduce
  repeat' (first
    | with_reducible assumption | with_reducible apply State.receive_keeps)

theorem execTgReadCheck_keeps {σ s t : State} (p : Pkt) (r q v : Nat) (h : Keeps σ s) (e : execTgReadCheck p r q v s = .next t) : Keeps σ t := by
  refine guardWf_keeps e ?_
  beta_reduce
  repeat' (first
    | with_reducible assumption | with_reducible apply State.receive_keeps)

theorem execTgWriteCompare_keeps {σ s t : State} (p : Pkt) (r q v : Nat) (h : Keeps σ s) (e : execTgWriteCompare p r q v s = .next t) : Keeps σ t := by
  refine guardWf_keeps e ?_
  beta_reduce
  repeat' (first
    | with_reducible assumption | with_reducible apply State.receive_keeps)

theorem execTgWriteOnly_keeps {σ s t : State} (p : Pkt) (r q v : Nat) (h : Keeps σ s) (e : execTgWriteOnly p r q v s = .next t) : Keeps σ t := by
  refine guardWf_keeps e ?_
  beta_reduce
  repeat' (first
    | with_reducible assumption | with_reducible apply State.receive_keeps)

/-! ### Machine/Tick -/

theorem State.tickArrays_keeps {σ s : State} (k : Nat) (h : Keeps σ s) : Keeps σ (State.tickArrays s k) := by
  unfold State.tickArrays
  repeat' (first
    | with_reducible assumption | with_reducible exact Keeps.refl _ | intro x
    | (lift_lets; intro x; with_reducible refine Keeps.cut x ?_ ?_; rotate_left 1; clear_value x; intro hx)
    | (lift_lets; intro x; clear_value x) | with_reducible apply Keeps.ite | with_reducible apply Keeps.foldl
    | with_reducible apply State.addFld_keeps | with_reducible apply State.updCore_keeps)

theorem State.tickStall_keeps {σ s : State} (k : Nat) (h : Keeps σ s) : Keeps σ (State.tickStall s k) := by
  unfold State.tickStall
  repeat' (first
    | with_reducible assumption | with_reducible apply Keeps.ite | with_reducible apply State.addFld_keeps)

theorem State.tick_keeps {σ s : State}  (h : Keeps σ s) : Keeps σ (State.tick s) := by
  unfold State.tick
  repeat' (first
    | with_reducible assumption | with_reducible exact Keeps.refl _ | intro x
    | (lift_lets; intro x; with_reducible refine Keeps.cut x ?_ ?_; rotate_left 1; clear_value x; intro hx)
    | with_reducible apply Keeps.foldl | with_reducible apply State.tickArrays_keeps
    | with_reducible apply State.tickBanks_keeps | with_reducible apply State.tickStall_keeps
    | with_reducible apply Keeps.mk_rest)

end Sys2Proof.Machine
end

