-- ==== Sys2Proof/Tests/Slice0.lean ====
section
/-! SUPPORT. Tests: ill-formed commands are refused, each statement's hypotheses are met by a named state, and commands do on one small state what the manual says. -/

namespace Sys2Proof.Tests

open Machine

set_option Elab.async false

/-! ### Small states -/


/-- The instruction that a command of a stream carries, its core and its stream. -/
def carries (i : Instr) : Option (Nat × Strm × Ovt) :=
  match i with
  | .nop c st => some (c, st, .nop)
  | .boundary c st => some (c, st, .boundary)
  | .endStream c st => some (c, st, .endS)
  | .phase c st e n => some (c, st, .phase e n)
  | .loop c st b => some (c, st, .loop b)
  | .fadd c st f n => some (c, st, .fadd f n)
  | .fwait c st f n => some (c, st, .fwait f n)
  | .agbase c g r o => some (c, .a, .agbase g r o)
  | .agstr c g h x y z => some (c, .a, .agstr g h x y z)
  | .ddesc c n d => some (c, .x, .ddesc n d)
  | .rebase c d st e => some (c, .x, .rebase d st e)
  | .cset c q v => some (c, .a, .cset q v)
  | i => issued i

/-- The state with a command's instruction next in the table of its stream (R125). -/
def placed (i : Instr) (s : State) : State :=
  match carries i with
  | some (c, st, o) =>
    match s.phys c with
    | some k => s.updCore k (fun x => x.updStream st (fun t => { t with table := t.table.set t.pc (BitVec.ofNat 128 (ovtEncode o)) }))
    | none => s
  | none => s

/-- The command, its instruction next in its stream, answers a next state of which `f` holds. -/
def after (i : Instr) (s : State) (f : State → Bool) : Bool :=
  match exec i (placed i s) with
  | .next t => f t
  | _ => false

/-- The state that a command leads to. -/
def next (i : Instr) (s : State) : State :=
  match exec i (placed i s) with
  | .next t => t
  | _ => s

/-- The command is refused for its operands. -/
def refused (i : Instr) (s : State) : Bool :=
  match exec i s with
  | .refused .reservedOperand => true
  | _ => false

/-- Every register of a list at its word. -/
def withRegs (s : State) (l : List (Nat × Nat)) : State := l.foldl (fun s e => s.setReg e.1 e.2) s

/-- A stream that may issue (R125). -/
def ready : Stream := { Stream.reset with state := 2, table := [0, 0, 0, 0] }

/-- Core 0, with both streams ready. -/
def core0 : Core := { Core.reset with a := ready, x := ready }

/-- A running program on logical core 0. -/
def prog : Part := { Part.reset with st := .running, num := 1, step := 1 }

/-- A device that is READY, with logical core 0 on physical core 5 and a program that runs on it. -/
def dev (c : Core) : State := withRegs { State.reset with cores := [(5, c)], parts := [(0, prog)] }
  [(rCmap 0, 2 ^ 63 + 5), (rBoot, 3 * 2 ^ 60), (rPwrStat, 8 * 2 ^ 60 + 2 * 2 ^ 56)]

/-! ### Operands that no field holds, or that the manual reserves, are refused (R13, R174) -/

/-- A plain transfer. -/
def xfer : XferB := ⟨0, 1, 0, 64, 0, 0, 0, false, false, 0⟩
/-- No completion flag. -/
def noCf : Cf := ⟨false, 0⟩
/-- A plain tile load. -/
def tile : SloadB := ⟨0, 0, 0, 0, 0, 0, 0, 0, 0, 0, 0, false⟩
/-- One step of one cell from the edge queues. -/
def oneOps : OpsB := ⟨0, false, 0, 0, 0, 0, 0, 0, 1, 0, 0, 0, 0, 0, 0, 0, 1⟩
/-- A plain drain descriptor. -/
def plainDesc : DescB := ⟨0, 2, 0, 0, 0, 0, 2, 0, 0, 0, 0, 0, 0, 0, 0⟩
/-- A copy of 16 elements by the row engine. -/
def plainRx : RxB := ⟨1, 0, 0, 0, 0, 1, 0, 0, 0, 16⟩
/-- A packet of the owner, on connection 7. -/
def pkt : Pkt := ⟨9, 7, 2, 0, 77, 5, 0, 0, 1, 0, false, false, false, true, true, none⟩
/-- The name of an epoch. -/
def ep : EpName := ⟨1, 2, 0, 1⟩
/-- A control message of the cairn store. -/
def ctl : CtlB := ⟨0, 0, 0, 3, 4096, 0⟩

theorem test_plain_terms_well_formed :
    [Instr.move 0 noCf xfer, .sload 0 noCf tile, .ops 0 noCf oneOps, .ddesc 0 0 plainDesc, .rx 0 noCf plainRx, .regRead pkt 0 1 0, .begin pkt ctl,
      .roll pkt ep 0 0 0, .nop 127 .a].all Instr.wf = true := by decide

theorem test_ill_formed_numbers : [Instr.nop 128 .a, .endStream 128 .x, .completionFlagAdd 0 64, .countSlotWrite 0 16, .queuePush 0 16, .queuePop 0 0 [⟨16, 0, false⟩], .claimGrant 0 .a 256,
    .modeChange 0 8, .preloadRowWrite 0 0 4 [], .streamStart 8, .sliceScrub 512 [] [], .sliceScrub 0 [256] [], .bridgeNack 4 0 0, .bridgeAck 0 4 0, .routerFailure 0 38,
    .marchComplete 0 ⟨[131072], []⟩, .refresh 0 128, .hmcScrub 256 .good false, .temperatureReadout 0 256, .digestSweepComplete 16, .epochDeadline 64,
    .sliceRead 0 [8] [], .powerOnReset ⟨[], [256]⟩, .computePowerUp ⟨false, [256], []⟩].all (fun i => refused i State.reset) = true := by decide

theorem test_ill_formed_control : [Instr.loop 0 .a ⟨true, 0, 1⟩, .loop 0 .a ⟨false, 1, 1⟩, .loop 0 .a ⟨false, 0, 2 ^ 24⟩, .phase 0 .a false 64, .fadd 0 .a 0 0, .fadd 0 .a 64 1, .fwait 0 .a 0 0,
    .faddr 0 noCf 0 0 0, .faddr 0 ⟨false, 1⟩ 0 0 1, .faddr 0 ⟨true, 64⟩ 0 0 1, .cset 0 16 0].all (fun i => refused i State.reset) = true := by decide

theorem test_ill_formed_transfers : [Instr.agbase 0 0 248 0, .agbase 0 64 0 0, .move 0 noCf { xfer with rbytes := 0 }, .move 0 noCf { xfer with gslot := 1 }, .qload 0 noCf { xfer with dstr := 1 },
    .qload 0 noCf { xfer with pot := true }, .qstore 0 noCf { xfer with sstr := 1 }, .pfetch 0 noCf { xfer with pot := true }, .sload 0 noCf { tile with type := 8 },
    .sload 0 noCf { tile with bax := 1 }, .sload 0 noCf { tile with tr := 3, tc := 2 }, .gather 0 noCf ⟨0, 0, 1, 0, 0, 0, 0, false⟩, .racc 0 noCf ⟨0, 0, 3, 0, 0, 0, 1, 0⟩,
    .racc 0 noCf ⟨0, 0, 0, 0, 1, 0, 1, 0⟩, .racc 0 noCf ⟨0, 0, 0, 0, 0, 0, 0, 0⟩].all (fun i => refused i State.reset) = true := by decide

theorem test_ill_formed_arrays : [Instr.ops 0 noCf { oneOps with ta := 9 }, .ops 0 noCf { oneOps with wsrc := 17 }, .ops 0 noCf { oneOps with wsq := 1 }, .ops 0 noCf { oneOps with ktail := 1 },
    .ops 0 noCf { oneOps with sbank := 1 }, .amode 0 noCf ⟨0, true, 0, 1⟩, .amode 0 noCf ⟨0, false, 1, 0⟩, .preload 0 noCf ⟨0, 0, 0, 1, 3, 0, 0, 0⟩, .preload 0 noCf ⟨0, 0, 0, 0, 1, 0, 0, 0⟩,
    .ddesc 0 0 { plainDesc with act := 8 }, .ddesc 0 0 { plainDesc with dmode := 3 }, .ddesc 0 0 { plainDesc with topk := 17 }, .ddesc 0 0 { plainDesc with otype := 8 },
    .ddesc 0 0 { plainDesc with osq := 1 }, .ddesc 0 0 { plainDesc with dmode := 0, sq := 1 }, .ddesc 0 0 { plainDesc with kq := 1 }, .ddesc 0 0 { plainDesc with rmode := 3 },
    .drain 0 noCf ⟨0, false, 0, 0, 0, 7, 0, 0, 0, 0, 0⟩].all (fun i => refused i State.reset) = true := by decide

theorem test_ill_formed_row_engine : [Instr.rx 0 noCf { plainRx with rop := 0 }, .rx 0 noCf { plainRx with rop := 0x16 }, .rx 0 noCf { plainRx with ts := 3 }, .rx 0 noCf { plainRx with td := 9 },
    .rx 0 noCf { plainRx with len := 0 }, .rx 0 noCf { plainRx with sb := 1 }, .rx 0 noCf { plainRx with sc := 1 }, .rx 0 noCf { plainRx with dst := 16 }, .rx 0 noCf { plainRx with rop := 0x12 },
    .rx 0 noCf { plainRx with rop := 0x15, len := 17 }, .rebase 0 7 0 0, .qmove 0 noCf 1 1 4, .qmove 0 noCf 0 1 0].all (fun i => refused i State.reset) = true := by decide

theorem test_ill_formed_messages : [Instr.regRead { pkt with conn := 2 ^ 32 } 0 1 0, .regRead pkt (2 ^ 32) 1 0, .regRead pkt 0 1 (2 ^ 64), .openConn pkt 1 2 0 0,
    .openAck pkt 4 1 0 0, .groupSet pkt 0 256 true 0 1 0 0 [], .fwImageFinish pkt 0 256, .attest pkt 0 (2 ^ 64) [], .roll pkt { ep with group := 256 } 0 0 0, .roster pkt ep 0 false [2, 1],
    .roster pkt ep 0 false [32768], .rack pkt ep 0 5 false false 0 0, .close pkt ep 6 (List.replicate 64 0) [], .close pkt ep 0 [] [], .abandon pkt ep 256, .result pkt ep 0 false false false 256 0 [],
    .begin pkt { ctl with status := 256 }, .begun pkt { ctl with status := 5 }, .begun pkt { ctl with slot := 2 }].all (fun i => refused i State.reset) = true := by decide

theorem test_ill_formed_length : refused (.memWrite pkt 0 0 (List.replicate 4097 0)) State.reset = true := by decide +kernel

theorem test_ill_formed_device : [Instr.supplySample 65536 0, .supplySample 0 131072, .coolantSample 32768 0 0 false, .valve 256 0, .hubDieTemperature 256 false, .linkLoss ⟨(2 ^ 32), true⟩, .linkUp ⟨true, [8], false⟩, .echoRequest 0 65536 0 [],
    .ptpSync (2 ^ 63), .stepNow pkt 0 0, .leakClr pkt 0 0, .tgOff pkt 0 0 (2 ^ 60), .tgReadCheck pkt 0 0 0, .tgWriteCompare pkt 0 256 (2 * 2 ^ 60), .tgRunComplete 0 201 0 0 0 0, .arithFlagClear pkt 0 128 0,
    .talModeWrite pkt 0 256 0, .digestRegionConfig pkt 0 16 0].all (fun i => refused i State.reset) = true := by decide

/-! ### The step, the invariant, time -/

theorem wit_step_runs_the_front : (({ (dev core0) with pending := [.nop 0 .a, .pauseFrame] } : State).pending = [.nop 0 .a, .pauseFrame]) ∧
    (match step { (dev core0) with pending := [.nop 0 .a, .pauseFrame] } with
      | .next t => t == { dev { core0 with a := { ready with pc := 1 } } with pending := [.pauseFrame] }
      | _ => false) = true := by decide +kernel

theorem wit_commands_complete : Instr.wf (.nop 127 .a) = true ∧ Instr.wf (.nop 128 .a) = false := by decide +kernel

theorem wit_step_keeps_invariant : (dev core0).Inv ∧
    (match step { (dev core0) with pending := [.pauseFrame] } with
      | .next _ => true
      | _ => false) = true := by
  refine ⟨⟨⟨List.Pairwise.nil, by simp [dev, withRegs, State.setReg, State.reset, Memory.empty], List.Pairwise.nil⟩, ⟨?_, by decide⟩, by decide⟩, by decide⟩
  unfold Tab.rising
  decide

theorem wit_idle_ticks : (dev core0).pending = [] ∧ Tab.rising (dev core0).cores ∧ (∀ e ∈ (dev core0).cores, Tab.rising e.2.arrays) ∧
    (match step (dev core0) with
      | .next t => t.clock.eclk == 1
      | _ => false) = true := by
  refine ⟨by decide +kernel, ?_, ?_, by decide +kernel⟩
  · exact List.pairwise_singleton _ _
  · intro e he
    obtain rfl := List.mem_singleton.1 he
    exact List.Pairwise.nil

/-- Memory on both sides of the scratchpad's and hampers' end: a byte that ends there and one that starts there. -/
theorem wit_memory_holds_writes : (stackDpa - 1 + [((7, true) : PByte)].length ≤ stackDpa) ∧ stackDpa ≤ stackDpa ∧
    (State.reset.mem.writeB (stackDpa - 1) [(7, true)]).byte (stackDpa - 1) = 7 ∧ (State.reset.mem.writeB (stackDpa - 1) [(7, true)]).bad (stackDpa - 1) = true ∧
    (State.reset.mem.writeB (stackDpa - 1) [(7, true)]).bad stackDpa = false ∧ (State.reset.mem.writeB stackDpa [(7, true)]).bad (stackDpa + 31) = true := by decide +kernel

/-! ### Streams, loops, flags, slots (05, 06) -/

theorem wit_streams_run : (0 : Nat) < 128 ∧ (placed (.nop 0 .a) (dev core0)).issuer 0 .a .nop = some (0, 5) ∧ Instr.wf (.phase 0 .x true 63) = true ∧ (dev core0).clock.ns < 2 ^ 64 := by decide +kernel

theorem test_boundary : after (.boundary 0 .x) (dev core0) (fun t => (t.core 5).x.state == 3 && (t.core 5).x.stall == 8 && (t.core 5).a == ready) = true := by decide +kernel

theorem test_end : after (.endStream 0 .a) (dev core0) (fun t => (t.core 5).a.state == 4 && t.reg (rTerm 0) == 0) = true := by decide +kernel

theorem test_phase : after (.phase 0 .a true 3) { (dev core0) with clock := ⟨0, 0, 900⟩ } (fun t => t.reg (rPhe 5 3) == 900 && t.reg (rPhs 5 3) == 0) = true ∧
    after (.phase 0 .a false 3) { (dev core0) with clock := ⟨0, 0, 900⟩ } (fun t => t.reg (rPhs 5 3) == 900) = true := by decide +kernel

/-- The words of LOOP and ENDLOOP: opcodes 0x02 and 0x03 in bits 127:120 (R173, R177). -/
def loopWord : Word128 := 2 * 2 ^ 120

def loopEnd : Word128 := 3 * 2 ^ 120

/-- A loop over table entry 1, LOOP at 0 and ENDLOOP at 2, in its pass `i` of `n`. -/
def looping (n i : Nat) : Stream := { ready with pc := 1, loops := [⟨n, i, 1, 2⟩] }

theorem wit_loops_run : (looping 3 1).loops = [⟨3, 1, 1, 2⟩] ∧ (looping 3 1).pc + 1 = 2 ∧ 1 + 1 < 3 ∧ ¬ (2 + 1 < 3) ∧ (looping 3 1).advance = looping 3 2 ∧
    (looping 3 2).advance = { ready with pc := 3 } ∧ ready.loops = [] ∧ ({ looping 3 1 with pc := 0 } : Stream).pc + 1 ≠ 2 := by decide +kernel

/-- A slot with a value that the A-stream has not latched. -/
def slot5 : Slot := { Slot.reset with max := 10, readA := true, value := 5, seq := 1 }

theorem wit_loops_slots : Instr.wf (.loop 0 .a ⟨false, 0, 0⟩) = true ∧ Instr.wf (.loop 0 .a ⟨true, 2, 0⟩) = true ∧ (Core.slot { core0 with slots := [(2, slot5)] } 2).fresh .a = true ∧
    (core0.slot 2).fresh .a = false ∧ core0.ops = [] := by decide +kernel

theorem test_loop : after (.loop 0 .a ⟨false, 0, 4⟩) (dev { core0 with a := { ready with table := [loopWord, 0, loopEnd, 0] } })
    (fun t => (t.core 5).a.loops == [⟨4, 0, 1, 2⟩] && (t.core 5).a.pc == 1) = true ∧
    after (.loop 0 .a ⟨false, 0, 0⟩) (dev { core0 with a := { ready with table := [loopWord, 0, loopEnd, 0] } }) (fun t => (t.core 5).a.loops == [] && (t.core 5).a.pc == 3) = true := by decide +kernel

theorem test_loop_slot : after (.loop 0 .a ⟨true, 2, 0⟩) (dev core0) (fun t => (t.core 5).a.stall == 5 && (t.core 5).a.obj == 2) = true ∧
    after (.loop 0 .a ⟨true, 2, 0⟩) (dev { core0 with slots := [(2, slot5)] }) (fun t => (t.core 5).a.loops.map Loop.count == [5] && ((t.core 5).slot 2).latA == 1) = true := by decide +kernel

theorem wit_flags_count : Instr.wf (.fadd 0 .a 63 1) = true ∧ core0.flag 63 + 1 < 2 ^ 32 ∧ 2 ^ 32 ≤ Core.flag { core0 with flags := [(63, 2 ^ 32 - 1)] } 63 + 1 ∧
    Instr.wf (.fwait 0 .a 63 1) = true ∧ core0.flag 63 < 1 ∧ 1 ≤ Core.flag { core0 with flags := [(63, 1)] } 63 := by decide +kernel

theorem test_fadd : after (.fadd 0 .a 3 7) (dev core0) (fun t => (t.core 5).flag 3 == 7 && (t.core 5).a.pc == 1) = true ∧
    after (.fadd 0 .a 3 7) (dev { core0 with flags := [(3, 2 ^ 32 - 7)] }) (fun t => t.fld (rTerm 0) 63 56 == 4 && (t.core 5).flag 3 == 2 ^ 32 - 7) = true := by decide +kernel

theorem test_fwait : after (.fwait 0 .x 3 7) (dev { core0 with flags := [(3, 9)] }) (fun t => (t.core 5).flag 3 == 2 && (t.core 5).x.pc == 1) = true ∧
    after (.fwait 0 .x 3 10) (dev { core0 with flags := [(3, 9)] }) (fun t => (t.core 5).flag 3 == 9 && (t.core 5).x.stall == 4 && (t.core 5).x.obj == 3) = true := by decide +kernel

theorem wit_completion_flag : (0 : Nat) < 128 ∧ (63 : Nat) < 64 ∧ (dev { core0 with comps := [⟨63, .x, 2⟩] }).phys 0 = some 5 ∧ (dev core0).partOf 0 = some 0 ∧
    Core.comps { core0 with comps := [⟨63, .x, 2⟩] } = [⟨63, .x, 2⟩] ∧ 2 ^ 32 ≤ Core.flag { core0 with flags := [(63, 2 ^ 32 - 1)] } 63 + 1 := by decide +kernel

theorem test_completion_flag : after (.completionFlagAdd 0 63) (dev { core0 with comps := [⟨63, .x, 2⟩] }) (fun t => (t.core 5).flag 63 == 1 && (t.core 5).comps == []) = true := by decide +kernel

/-- A FADDR of core 0 that has sent its request to core 0's flag 4. -/
def faddrOp : Op := ⟨0, .a, 0, noCf, .faddr noCf 0 4 6, 0, 1, .sure, [], [], [], 0, 0, 1, 0, [], 0, 0, 0, [], none, (0, 0), 0, 0, [], none, [], 0, none⟩

/-- The request of `faddrOp`. -/
def flagReq : FabReq := ⟨3, 5, 0, .flag 0 4 6, 0, 0, 0, [], 0, none, false, [], 0⟩

theorem wit_remote_flag : State.fabReq { (dev { core0 with ops := [faddrOp] }) with fab := [flagReq] } 3 = some flagReq ∧ flagReq.kind = .flag 0 4 6 ∧
    (Core.op { core0 with ops := [faddrOp] } 0) = some faddrOp ∧ (dev core0).logicalOf 5 = some 0 ∧ (dev core0).partOf 0 = some 0 ∧ (dev core0).phys 0 = some 5 ∧ (dev core0).route (coreDie 5) (coreDie 5) = true ∧ (dev core0).fenced 5 = false ∧
    (withRegs (dev core0) [(rDsup 0, 2 ^ 5)]).fenced 5 = true ∧ 2 ^ 32 ≤ Core.flag { core0 with flags := [(4, 2 ^ 32 - 6)] } 4 + 6 := by decide +kernel

theorem test_remote_flag : after (.remoteFlagAdd 3) { (dev { core0 with ops := [faddrOp] }) with fab := [flagReq] } (fun t => (t.core 5).flag 4 == 6 && t.fab == [] && (t.core 5).ops == []) = true := by decide +kernel

/-- Flag 4 holds 2^32 − 6, of which this ECLK has added 3. -/
def filled : State := dev { core0 with flags := [(4, 2 ^ 32 - 6)], adds := [(4, (0, 3))] }

theorem wit_flag_overflow : 2 ^ 32 ≤ (filled.core 5).flag 4 + 6 ∧ (filled.core 5).added 4 filled.clock.eclk = 3 ∧ (filled.core 5).added 5 filled.clock.eclk = 0 ∧ filled.partOf 0 = some 0 := by decide +kernel

theorem test_flag_overflow : ((filled.addFlag 5 4 6 0 .a 9).core 5).flag 4 = 2 ^ 32 - 9 ∧ (filled.addFlag 5 4 6 0 .a 9).fld (rTerm 0) 63 56 = tFlagOverflow ∧ ((filled.addFlag 5 4 5 0 .a 9).core 5).flag 4 = 2 ^ 32 - 1 := by decide +kernel

theorem wit_stream_setup : Instr.wf (.agbase 0 15 247 (2 ^ 40 - 1)) = true ∧ Instr.wf (.agstr 0 15 true 0 0 (2 ^ 32 - 1)) = true ∧ Instr.wf (.ddesc 0 7 plainDesc) = true ∧ Instr.wf (.rebase 0 6 0 0) = true ∧
    Instr.wf (.cset 0 15 1) = true ∧ (core0.slot 15).writes = [] ∧ (core0.slot 15).latched = true ∧ Slot.latched slot5 = false ∧
    Slot.writes { slot5 with writes := [⟨none, some 9⟩] } ≠ [] ∧ Slot.latched { slot5 with latA := 1, writes := [⟨none, some 9⟩] } = true := by decide +kernel

theorem test_agbase : after (.agbase 0 2 30 192) (dev core0) (fun t => ((t.core 5).ag 2) == ⟨some 30, 192, [0, 0, 0, 0, 0, 0]⟩) = true ∧
    after (.agstr 0 2 true 7 8 9) (dev core0) (fun t => ((t.core 5).ag 2).strides == [0, 0, 0, 7, 8, 9]) = true := by decide +kernel

theorem test_ddesc_rebase : after (.ddesc 0 3 plainDesc) (dev core0) (fun t => Tab.find (t.core 5).dds 3 == some plainDesc) = true ∧
    after (.rebase 0 1 2 3) (dev core0) (fun t => (t.core 5).rebase == some (1, 2, 3)) = true := by decide +kernel

theorem test_cset : after (.cset 0 2 9) (dev core0) (fun t => ((t.core 5).slot 2).value == 9 && (t.core 5).a.pc == 1) = true ∧
    after (.cset 0 2 9) (dev { core0 with slots := [(2, slot5)] }) (fun t => ((t.core 5).slot 2).value == 5 && (t.core 5).a.stall == 6) = true := by decide +kernel

theorem test_count_slot_write : after (.countSlotWrite 0 2) (dev { core0 with a := { ready with state := 3, stall := 6, slotw := true }, slots := [(2, { slot5 with latA := 1, writes := [⟨none, some 9⟩] })] })
    (fun t => ((t.core 5).slot 2).value == 9 && (t.core 5).a.pc == 1) = true := by decide +kernel

theorem wit_loop_entry : Stream.entry { ready with state := 3, stall := 5, entry := some 2 } = some 2 ∧ Slot.latX { slot5 with readX := true } ≠ slot5.seq := by decide +kernel

theorem test_loop_entry : after (.loopEntryLatch 0 .x) (dev { core0 with x := { ready with state := 3, stall := 5, entry := some 2, table := [loopWord, 0, loopEnd] }, slots := [(2, { slot5 with readX := true })] })
    (fun t => (t.core 5).x.loops.map Loop.count == [5] && ((t.core 5).slot 2).latX == 1) = true := by decide +kernel

/-! ### Instructions issue and move bytes (05, 06, 08, 09) -/

/-- Core 0 with two scratchpad regions and its own hamper, generators over them, and four queues, the first of which holds 64 bytes 1 to 64. -/
def coreT : Core := { core0 with
  regions := [(30, (0, 4096)), (31, (4096, 4096)), (32, (hamperDpa, 4096))]
  ags := [(0, ⟨some 30, 0, [0, 0, 0, 0, 0, 0]⟩), (1, ⟨some 31, 0, [0, 0, 0, 0, 0, 0]⟩), (2, ⟨some 32, 0, [0, 0, 0, 0, 0, 0]⟩)]
  queues := [(0, { Queue.reset with depth := 4, bytes := (List.range 64).map (fun i => BitVec.ofNat 8 (i + 1)) }), (1, { Queue.reset with depth := 4 }),
    (2, { Queue.reset with depth := 4 }), (3, { Queue.reset with depth := 4 })] }

/-- MOVE of 64 bytes from region 30 to region 31. -/
def moveI : Instr := .move 0 noCf xfer

theorem wit_instruction_issues : (placed moveI (dev coreT)).reaches moveI 0 .a (.move noCf xfer) 0 5 ∧ (placed moveI (dev coreT)).clear 5 (.move noCf xfer) ∧
    (∀ w ∈ claimsOf coreT (.move noCf xfer), coreT.free .a 0 [w] coreT.held = true) ∧ claimsOf coreT (.move noCf xfer) = [⟨30, .read⟩, ⟨31, .write⟩] := by
  unfold State.reaches State.clear
  decide +kernel

theorem wit_ops_issue : (placed (.ops 0 noCf oneOps) (dev coreT)).reaches (.ops 0 noCf oneOps) 0 .x (.ops noCf oneOps) 0 5 ∧ (dev coreT).clear 5 (.ops noCf oneOps) ∧ oneOps.steps ≠ 0 ∧
    (placed (.ops 0 noCf { oneOps with steps := 0 }) (dev coreT)).reaches (.ops 0 noCf { oneOps with steps := 0 }) 0 .x (.ops noCf { oneOps with steps := 0 }) 0 5 ∧
    (placed (.ops 0 noCf { oneOps with steps := 0 }) (dev coreT)).clear 5 (.ops noCf { oneOps with steps := 0 }) ∧ ∀ o ∈ coreT.ops, o.id < coreT.next := by
  unfold State.reaches State.clear
  decide +kernel

/-- One of each instruction that issues to run on. -/
def issuing : List Instr := [moveI, .qload 0 noCf { xfer with f1 := 1 }, .qstore 0 noCf xfer, .sload 0 noCf tile, .gather 0 noCf ⟨0, 0, 1, 0, 64, 1, 0, false⟩, .pfetch 0 noCf xfer,
  .faddr 0 noCf 0 4 6, .cload 0 noCf 0 2, .repoch 0 noCf 1 0 9, .racc 0 noCf ⟨0, 1, 0, 0, 0, 31, 1, 0⟩, .rwait 0 noCf 1 1 9, .ops 0 noCf oneOps, .amode 0 noCf ⟨0, true, 0, 0⟩,
  .preload 0 noCf ⟨0, 0, 0, 0, 0, 0, 0, 0⟩, .drain 0 noCf ⟨0, false, 0, 0, 0, 0, 0, 0, 0, 0, 0⟩, .rx 0 noCf plainRx, .qmove 0 noCf 0 1 64]

theorem test_each_issues : issuing.all (fun i => match issued i with
    | some (_, st, o) => Instr.wf i && ((dev coreT).core 5).queueHold o == none && after i (dev coreT) (fun t => (t.core 5).next == 1 && ((t.core 5).stream st).pc == 1)
    | none => false) = true := by decide +kernel

theorem test_move_issues : after moveI (dev coreT) (fun t => (t.core 5).ops.map (fun o => (o.src, o.dst, o.claims)) ==
    [([⟨some 0, 64⟩], [⟨some 4096, 64⟩], [⟨30, .read⟩, ⟨31, .write⟩])]) = true := by decide +kernel

/-- The core with queue 0 empty and queue 1 without room. -/
def coreQ : Core := { coreT with queues := [(0, { Queue.reset with depth := 4 }), (1, { Queue.reset with depth := 0 }), (2, { Queue.reset with depth := 4 })] }

theorem wit_issue_stalls_queues : (nthUnit (dstOf coreQ (.qstore noCf xfer)) 0 0).map Req.len = some 64 ∧ (coreQ.queue 0).bytes.length < 64 ∧
    (nthUnit (srcOf coreQ (.qload noCf { xfer with f1 := 1 })) 0 0).map Req.len = some 64 ∧ (coreQ.queue 1).free < 64 := by decide +kernel

theorem test_issue_stalls_queues : after (.qstore 0 noCf xfer) (dev coreQ) (fun t => (t.core 5).a.stall == 1 && (t.core 5).a.obj == 0) = true ∧
    after (.qload 0 noCf { xfer with f1 := 1 }) (dev coreQ) (fun t => (t.core 5).a.stall == 2 && (t.core 5).a.obj == 1) = true ∧
    after (.gather 0 noCf ⟨0, 0, 2, 0, 64, 1, 0, false⟩) (dev coreQ) (fun t => (t.core 5).a.stall == 1 && (t.core 5).a.obj == 0) = true := by decide +kernel

/-- A core whose ports of array 0 are full. -/
def coreP : Core := { coreT with arrays := [(0, { Arr.reset with ports := (List.range 16).map (fun n => (n, List.range 16)) })] }

theorem wit_issue_stalls_ports : coreP.queueHold (.preload noCf ⟨0, 0, 0, 0, 0, 0, 0, 0⟩) = none ∧ portRoom coreP (.preload noCf ⟨0, 0, 0, 0, 0, 0, 0, 0⟩) = false ∧
    after (.preload 0 noCf ⟨0, 0, 0, 0, 0, 0, 0, 0⟩) (dev coreP) (fun t => (t.core 5).x.stall == 9) = true := by decide +kernel

/-- The words of a linked group: OPS on array 0 with LINK (bit 108), then OPS on array 1 (ARR in bits 111:109, R208). -/
def groupTable : List Word128 := [0x40 * 2 ^ 120 + 2 ^ 108, 0x40 * 2 ^ 120 + 2 ^ 109]

/-- A core at a linked group whose second member's port is full. -/
def coreG : Core := { coreT with x := { ready with table := groupTable }, arrays := [(1, { Arr.reset with ports := (List.range 16).map (fun n => (n, List.range 16)) })] }

theorem wit_issue_stalls_groups : coreG.queueHold (.ops noCf { oneOps with link := true }) = none ∧ groupRoom coreG (.ops noCf { oneOps with link := true }) = false ∧
    portRoom coreG (.ops noCf { oneOps with link := true }) = true ∧ after (.ops 0 noCf { oneOps with link := true }) (dev coreG) (fun t => (t.core 5).x.stall == 9) = true := by decide +kernel

/-- A device whose core holds every tracker. -/
def fullFab : State := { (dev coreT) with fab := List.replicate 1536 flagReq }

theorem wit_issue_stalls_trackers : fabricUser coreT (.move noCf xfer) = true ∧ 1536 ≤ fullFab.trackers 5 ∧
    after moveI fullFab (fun t => (t.core 5).a.stall == 9) = true := by decide +kernel

/-- The claims of an instruction before this one. -/
def claims (n : Nat) (l : List Claim) : Op := { faddrOp with id := 0, ins := .move noCf xfer, claims := (List.replicate n l).flatten }

theorem wit_issue_stalls_claims : (∀ w ∈ claimsOf coreT (.move noCf xfer), (Core.free { coreT with ops := [claims 1 [⟨31, .read⟩]], next := 1 } .a 0 [w] (Core.held { coreT with ops := [claims 1 [⟨31, .read⟩]], next := 1 })) = (w.region == 30)) ∧
    64 < (Core.held { coreT with ops := [claims 32 [⟨40, .read⟩, ⟨41, .read⟩]], next := 1 }).length + (claimsOf coreT (.move noCf xfer)).length := by decide +kernel

theorem test_claim_waits : after moveI (dev { coreT with ops := [claims 1 [⟨31, .read⟩]], next := 1 }) (fun t => (t.core 5).a.stall == 3 && (t.core 5).a.obj == 31 &&
      ((t.core 5).a.hold.map (fun h => (h.got, h.want))) == some ([⟨30, .read⟩], [⟨31, .write⟩])) = true ∧
    after moveI (dev { coreT with ops := [claims 32 [⟨40, .read⟩, ⟨41, .read⟩]], next := 1 }) (fun t => (t.core 5).a.stall == 7) = true := by decide +kernel

/-- Core 0 whose MOVE waits for its claim on region 31. -/
def coreH : Core := { coreT with a := { ready with state := 3, stall := 3, obj := 31, hold := some ⟨1, .move noCf xfer, [⟨30, .read⟩], [⟨31, .write⟩]⟩ }, next := 2 }

theorem wit_claims_granted : (0 : Nat) < 128 ∧ (31 : Nat) < 256 ∧ (dev coreH).partOf 0 = some 0 ∧ (dev coreH).phys 0 = some 5 ∧ coreH.a.hold = some ⟨1, .move noCf xfer, [⟨30, .read⟩], [⟨31, .write⟩]⟩ ∧
    coreH.free .a 1 [⟨31, .write⟩] (coreH.heldBut .a) = true ∧ coreH.held.length < 64 ∧
    Core.free { coreH with ops := [claims 1 [⟨31, .read⟩]] } .a 1 [⟨31, .write⟩] (Core.heldBut { coreH with ops := [claims 1 [⟨31, .read⟩]] } .a) = false := by decide +kernel

theorem test_claim_grant : after (.claimGrant 0 .a 31) (dev coreH) (fun t => (t.core 5).a.hold == none && (t.core 5).a.pc == 1 && (t.core 5).ops.map Op.claims == [[⟨30, .read⟩, ⟨31, .write⟩]]) = true ∧
    after (.claimGrant 0 .a 31) (dev { coreH with ops := [claims 1 [⟨31, .read⟩]] }) (fun t => (t.core 5).a.hold.isSome && (t.core 5).a.stall == 3) = true := by decide +kernel

/-! ### Requests, queues, hampers (06, 08, 09) -/

/-- Bytes 0 to 3 of the scratchpad hold 1, 2, 3 and a poisoned 4. -/
def memT : Memory := State.reset.mem.writeB 0 [(1, false), (2, false), (3, false), (4, true)]

/-- The request that core 0 sends next. -/
def sending (s : State) : Option (Cand × Option Nat) :=
  let all := ((s.core 5).candsAt false).map (fun e => (e, s.stampOf 5 e))
  pickCand (all.filter (fun e => s.maySend 5 e && (e.2.isSome || !all.any (fun e => e.2.isSome))))

/-- A MOVE has issued; its read has been sent, served, and landed; its write has been sent and served. -/
def moved (n : Nat) : State :=
  ([moveI, .requestSend 0, .sliceRead 0 [] [], .readResponseLand 0, .requestSend 0, .sliceWrite 1].take n).foldl (fun s i => next i s) { (dev coreT) with mem := memT }

theorem wit_requests_travel : (dev coreT).phys 0 = some 5 ∧
    (sending (moved 1)).any (fun p => p.1.kind == .read && ((moved 1).keyOf p.1.req.addr).isSome) = true ∧
    ((moved 3).fabReq 0).any (fun r => r.kind == .read && (moved 3).route ((moved 3).dieOf r.core r.addr) (coreDie r.core) && r.served && r.data != [] && (moved 3).logicalOf r.core == some 0 && (((moved 3).core r.core).op r.op).isSome) = true ∧
    ((moved 6).fabReq 1).any (fun r => r.kind == .write && (moved 6).route ((moved 6).dieOf r.core r.addr) (coreDie r.core) && r.served && r.left == [] && (((moved 6).core r.core).op r.op).any (fun o => o.wdone + 1 == reqCount o.dst)) = true := by decide +kernel

/-- The last tracker free, and an A-stream that waits for a claim of an instruction that makes fabric requests. -/
def lastTracker : State :=
  let s := moved 1
  { (s.updCore 5 (fun c => { c with a := { c.a with state := 3, stall := 3, hold := some ⟨1, .move noCf xfer, [⟨30, .read⟩], [⟨31, .write⟩]⟩ } })) with fab := List.replicate 1535 flagReq }

theorem wit_last_tracker : (sending lastTracker).isSome = true ∧ lastTracker.trackers 5 + 1 = 1536 ∧ fabricUser (lastTracker.core 5) (.move noCf xfer) = true ∧
    after (.requestSend 0) lastTracker (fun t => (t.core 5).a.stall == 9 && (t.core 5).a.hold == none) = true := by decide +kernel

theorem test_request_send : after (.requestSend 0) (moved 1) (fun t => t.fab.map (fun r => (r.id, r.kind, r.addr, r.len)) == [(0, .read, 0, 64)]) = true := by decide +kernel

theorem test_read_lands : after (.readResponseLand 0) (moved 3) (fun t => t.fab == [] && (t.core 5).ops.map (fun o => ((Tab.find o.landed 1), (Tab.find o.landed 8))) == [(some (2, true), some (0, false))]) = true := by decide +kernel

theorem test_slice_write : after (.sliceWrite 1) (moved 5) (fun t => t.mem.byte 4097 == 2 && t.mem.bad 4097 && t.mem.byte 1 == 2) = true := by decide +kernel

theorem test_write_acknowledge : after (.writeAcknowledge 1) (moved 6) (fun t => t.fab == [] && (t.core 5).ops == []) = true := by decide +kernel

/-- The core with its first region where no memory is. -/
def coreU : Core := { coreT with regions := [(30, (2 ^ 47, 4096)), (31, (4096, 4096))] }

theorem wit_request_unmapped : (sending (next moveI (dev coreU))).any (fun p => p.1.kind == .read && (next moveI (dev coreU)).keyOf p.1.req.addr == none) = true ∧
    after (.requestSend 0) (next moveI (dev coreU)) (fun t => t.fld (rTerm 0) 63 56 == tAddressFault && t.fab == []) = true := by decide +kernel

/-- A count load whose response has come with a value; writes `l` of its slot come before it. -/
def cloaded (l : List SlotWrite) (v : Nat) (bad : Bool) : State :=
  let s := next (.cload 0 noCf 0 2) (dev { coreT with slots := [(2, { Slot.reset with max := 10, readA := true, writes := l })] })
  { (next (.requestSend 0) s) with fab := [⟨0, 5, 0, .read, 0, 4, 0, [(BitVec.ofNat 8 v, false), (0, bad), (0, false), (0, false)], 0, none, true, [], 0⟩] }

theorem wit_count_load : ((cloaded [⟨some 9, none⟩] 10 false).fabReq 0).any (fun r => r.kind == .read && r.served && ofLe (r.data.map (·.1)) == 10) = true ∧
    (((cloaded [⟨some 9, none⟩] 10 false).core 5).slot 2).writes = [⟨some 9, none⟩, ⟨some 0, none⟩] ∧ (((cloaded [⟨some 9, none⟩] 10 false).core 5).slot 2).max = 10 ∧ (10 : Nat) < 11 := by decide +kernel

theorem test_count_load : after (.readResponseLand 0) (cloaded [] 10 false) (fun t => ((t.core 5).slot 2).value == 10 && (t.core 5).ops == []) = true ∧
    after (.readResponseLand 0) (cloaded [⟨some 9, none⟩] 10 false) (fun t => ((t.core 5).slot 2).writes == [⟨some 9, none⟩, ⟨some 0, some 10⟩]) = true ∧
    after (.readResponseLand 0) (cloaded [] 11 false) (fun t => t.fld (rTerm 0) 63 56 == tCountBound) = true ∧ after (.readResponseLand 0) (cloaded [] 0 true) (fun t => t.fld (rTerm 0) 63 56 == tPoison) = true := by decide +kernel

/-- A tile load with one response to come. -/
def sloading : State := next (.sliceRead 0 [] []) (next (.requestSend 0) (next (.sload 0 noCf tile) { (dev coreT) with mem := memT }))

theorem wit_tile_load : (sloading.fabReq 0).any (fun r => r.kind == .read && r.served && r.data != []) = true ∧
    after (.readResponseLand 0) sloading (fun t => (t.core 5).ops.map (fun o => (o.rland, o.cnt)) == [(1, 1)]) = true := by decide +kernel

/-- A QLOAD into queue 1, its 64 bytes landed, the fourth poisoned. -/
def qloaded (depth : Nat) : State :=
  let s := ([Instr.qload 0 noCf { xfer with f1 := 1 }, .requestSend 0, .sliceRead 0 [] [], .readResponseLand 0].foldl (fun s i => next i s) { (dev coreT) with mem := memT })
  s.updCore 5 (fun c => { c with queues := Tab.put c.queues 1 { Queue.reset with depth := depth } })

theorem wit_queues_push : Instr.wf (.queuePush 0 1) = true ∧ (((qloaded 1).core 5).nextPush 1).any (fun e => e.2.1.len ≤ (((qloaded 1).core 5).queue 1).free && e.2.2.length == 64) = true ∧
    (((qloaded 0).core 5).nextPush 1).any (fun e => (((qloaded 0).core 5).queue 1).free < e.2.1.len) = true := by decide +kernel

theorem test_queue_push : after (.queuePush 0 1) (qloaded 1) (fun t => ((t.core 5).queue 1).bytes.take 4 == [1, 2, 3, 4] && ((t.core 5).queue 1).poison.length == 2 && ((t.core 5).queue 1).poison.all (fun n => decide (n < 2)) && (t.core 5).ops == []) = true ∧
    after (.queuePush 0 1) (qloaded 0) (fun t => ((t.core 5).queue 1).bytes == [] && (t.core 5).ops.length == 1) = true := by decide +kernel

theorem wit_queues_pop : Instr.wf (.queuePop 0 0 []) = true ∧
    ((((next (.qstore 0 noCf xfer) (dev coreT)).core 5).ops.filter (fun o => o.st == .a && o.popsFrom 0)).head?).any (fun o => ((nthUnit o.dst 0 o.cnt).any (fun u => u.len ≤ (coreT.queue 0).bytes.length))) = true := by decide +kernel

theorem test_queue_pop : after (.queuePop 0 0 []) (next (.qstore 0 noCf xfer) (dev coreT)) (fun t => ((t.core 5).queue 0).bytes == [] && (t.core 5).ops.map (fun o => Tab.find o.landed 63) == [some (64, false)]) = true := by decide +kernel

/-- A GATHER of rows of 64 bytes from region 30 by the indices in queue 0. -/
def gathering (bs : List Byte) (poison : List Nat) : State :=
  next (.gather 0 noCf ⟨0, 0, 1, 0, 64, 1, 0, false⟩) (dev { coreT with queues := Tab.put coreT.queues 0 { Queue.reset with depth := 4, bytes := bs, poison := poison } })

theorem wit_gather_pops : [gathering [63, 0, 0, 0] [], gathering [64, 0, 0, 0] [], gathering [255, 255, 255, 255] [], gathering [0, 0, 0, 0] [0]].all (fun s =>
      (((s.core 5).ops.filter (fun o => o.st == .a && o.popsFrom 0)).head?).any (fun o => o.region == (0, 4096)) && decide (4 ≤ ((s.core 5).queue 0).bytes.length)) = true := by decide +kernel

theorem test_gather_pops : after (.queuePop 0 0 []) (gathering [63, 0, 0, 0] []) (fun t => (t.core 5).ops.map Op.src == [[⟨some 4032, 64⟩]]) = true ∧
    after (.queuePop 0 0 []) (gathering [64, 0, 0, 0] []) (fun t => t.fld (rTerm 0) 63 56 == tAddressFault) = true ∧
    after (.queuePop 0 0 []) (gathering [255, 255, 255, 255] []) (fun t => (t.core 5).ops.map Op.src == [[⟨none, 64⟩]]) = true ∧
    after (.queuePop 0 0 []) (gathering [0, 0, 0, 0] [0]) (fun t => t.fld (rTerm 0) 63 56 == tPoison) = true := by decide +kernel

/-- A MOVE between core 0's hamper and the scratchpad. -/
def hampered (read : Bool) : State :=
  if read then next (.move 0 noCf { xfer with f0 := 2 }) (dev coreT)
  else
    let s := [moveI, .requestSend 0, .sliceRead 0 [] [], .readResponseLand 0].foldl (fun s i => next i s) { (dev { coreT with ags := Tab.put coreT.ags 1 ⟨some 32, 0, [0, 0, 0, 0, 0, 0]⟩ }) with mem := memT }
    s

theorem wit_hamper_accessed : Instr.wf (.hamperAccess 0 [] [7]) = true ∧
    (pickCand ((((hampered true).core 5).candsAt true).map (fun e => (e, (hampered true).stampOf 5 e)))).any (fun p => p.1.kind == .read && ((hampered true).keyOf p.1.req.addr).isSome && ((hampered true).core 5).op p.1.op.id == some p.1.op) = true ∧
    (pickCand ((((hampered false).core 5).candsAt true).map (fun e => (e, (hampered false).stampOf 5 e)))).any (fun p => p.1.kind == .write && (landedAt p.1.op.landed p.1.req.pos p.1.req.len).isSome) = true := by decide +kernel

theorem test_hamper_read : after (.hamperAccess 0 [] [7]) (hampered true) (fun t => t.events.map (fun e => (e.unit, e.kind)) == [(unitCore 5, evUe)] && (t.core 5).ops.map (fun o => (Tab.find o.landed 0, Tab.find o.landed 56)) == [(some (0, false), some (0, true))]) = true := by decide +kernel

theorem test_hamper_write : after (.hamperAccess 0 [] []) (hampered false) (fun t => (t.readMem hamperDpa 4) == [(1, true), (2, true), (3, true), (4, true)]) = true := by decide +kernel

/-! ### Slices, potluck, links, routers (08) -/

/-- A read of word 0 is in the fabric; the word was read at ECLK 0, and it is ECLK `t`. -/
def merging (t : Nat) : State := { (moved 2) with merge := [(0, 0)], clock := ⟨t, 0, 0⟩ }

/-- Two requests wait at a slice: that of the lower master goes first. -/
def twoWait : State := { (dev core0) with fab := [⟨0, 5, 0, .read, 0, 64, 0, [], 0, none, false, [], 0⟩, ⟨1, 4, 0, .read, 0, 64, 0, [], 0, none, false, [], 0⟩, ⟨2, 6, 0, .write, 0, 1, 0, [(7, true)], 0, none, false, [], 0⟩] }

theorem wit_slices_serve : ((merging 15).waits 0 .read false).any (fun r => (merging 15).sliceTurn r && decide (r.addr < hamperDpa) && decide (r.addr % 64 + r.len ≤ 64)) = true ∧ (merging 15).mergeOpen 0 = true ∧
    ((merging 16).waits 0 .read false).any (fun r => (merging 16).sliceTurn r) = true ∧ (merging 16).mergeOpen 0 = false ∧
    ((moved 5).waits 1 .write false).any (fun r => (moved 5).sliceTurn r && decide (r.addr < hamperDpa) && decide (r.addr % 64 + r.data.length ≤ 64)) = true ∧
    (twoWait.waits 1 .read false).any (fun r => !twoWait.sliceTurn r) = true ∧ (twoWait.waits 0 .read false).any twoWait.sliceTurn = true ∧ (twoWait.waits 2 .write false).any (fun r => !twoWait.sliceTurn r) = true ∧
    Instr.wf (.sliceScrub 511 [255] [255]) = true ∧ Instr.wf (.sliceScrub 511 [255] []) = true ∧ Instr.wf (.sliceRead 0 [7] [7]) = true := by decide +kernel

theorem test_slice_read : after (.sliceRead 0 [] []) (merging 15) (fun t => t.reg (rSlcMerge (sliceOf 0)) == 1 && Tab.find t.merge 0 == some 0) = true ∧
    after (.sliceRead 0 [] [7]) (merging 16) (fun t => t.reg (rSlcMerge (sliceOf 0)) == 0 && t.mem.bad 56 && (t.fabReq 0).any (fun r => r.served && r.data[56]? == some (0, true) && r.data[8]? == some (0, false))) = true := by decide +kernel

theorem test_slice_scrub : after (.sliceScrub 3 [] [0]) (dev core0) (fun t => t.mem.bad (sliceDpa 3 0 0) && Tab.get t.scrubRow 0 3 == 1) = true := by decide +kernel

/-- A march runs on slice 3: kind 1 read-only, 2 destructive. -/
def marching (kind : Nat) : State := withRegs (dev core0) [(rSlcMarch 3, kind * 2 ^ 60)]

theorem wit_march_complete : Instr.wf (.marchComplete 3 ⟨[131071, 5], [7]⟩) = true ∧ Instr.wf (.marchComplete 3 ⟨[], [131071]⟩) = true ∧ (marching 1).fld (rSlcMarch 3) 63 60 = 1 ∧ (marching 2).fld (rSlcMarch 3) 63 60 = 2 := by decide +kernel

theorem test_march_complete : after (.marchComplete 3 ⟨[], []⟩) (marching 1) (fun t => t.fld (rSlcMarch 3) 63 60 == 3 && t.events == []) = true ∧
    after (.marchComplete 3 ⟨[4096 * 9 + 17, 5], []⟩) (marching 1) (fun t => t.fld (rSlcMarch 3) 63 60 == 4 && t.fld (rSlcMarch 3) 28 24 == 9 && t.fld (rSlcMarch 3) 23 12 == 17 && t.events.length == 2 && t.flash.badRows.length == 2) = true := by decide +kernel

/-- A potluck MOVE of core 0, and its request: the FP32 values 1.0 and 2.0 for words 4096 and 4100. -/
def potOp : Op := { faddrOp with ins := .move noCf { xfer with pot := true } }

def potReq : FabReq := ⟨3, 5, 0, .pot, 4096, 8, 0, [(0, false), (0, false), (0x80, false), (0x3F, false), (0, false), (0, false), (0, false), (0x40, true)], 0, none, false, [4096, 4100], 0⟩

/-- That request has reached the fabric. -/
def contributing : State := { (dev { core0 with ops := [potOp] }) with fab := [potReq] }

theorem wit_potluck_contribution : contributing.fabReq 3 = some potReq ∧ potReq.served = false ∧ contributing.logicalOf 5 = some 0 ∧ (contributing.core 5).op 0 = some potOp ∧ contributing.partOf 0 = some 0 ∧ contributing.route (coreDie 5) (contributing.dieOf 5 4096) = true ∧ contributing.sliceTurn potReq = true ∧ hamperDpa ≤ stackDpa ∧
    potReq.left.Nodup ∧ (State.logicalOf { State.reset with fab := [potReq] } 5) = none ∧ (State.sliceTurn { State.reset with fab := [potReq] } potReq) = true := by decide +kernel

theorem test_potluck_contribution : after (.potluckContribution 3) contributing (fun t => (Tab.find t.pot 4100).any (fun w => w.contribs.map (fun x => (x.core, x.val)) == [(0, (0x40000000, true))]) && (t.fabReq 3).any FabReq.served) = true := by decide +kernel

/-- Word 4096 holds 1.0; cores `m` are its set, and core 0 has contributed 1.0. -/
def rounding (m : List Nat) : State :=
  { (dev core0) with mem := State.reset.mem.writeB 4096 [(0, false), (0, false), (0x80, false), (0x3F, false)], pot := [(4096, ⟨0, m, [⟨0, 3, 0, (0x3F800000, false), .a, 0⟩]⟩)] }

theorem wit_potluck_round : (Tab.find (rounding [0]).pot 4096).any (fun w => (w.members.mapM ((rounding [0]).nextContrib 4096 w)).any (fun xs => xs.length == 1)) = true ∧ 4096 + 4 ≤ hamperDpa ∧ 4096 % 4 = 0 ∧ Instr.wf (.potluckRoundApply 4096 .good) = true ∧
    (Tab.find (rounding [0, 1]).pot 4096).any (fun w => (w.members.mapM ((rounding [0, 1]).nextContrib 4096 w)).isNone) = true := by decide +kernel

theorem test_potluck_round : after (.potluckRoundApply 4096 .good) (rounding [0]) (fun t => t.mem.word32 4096 == 0x40000000 && (Tab.find t.pot 4096).all (fun w => w.contribs == [])) = true ∧
    after (.potluckRoundApply 4096 .good) (rounding [0, 1]) (fun t => t.mem.word32 4096 == 0x3F800000) = true := by decide +kernel

/-- Link 0 of die 0 is up, and expects block 4; the other end keeps blocks 3 and 4. -/
def linked4 (fails : Nat) (held : List Nat) : State :=
  { (withRegs State.reset ((linkRegs 0 0).map (fun a => (a, 0)))) with links := [(0, { Link.reset with recvSeq := 4, fails := [(4, fails)], held := held, replay := [9] }), (farEnd 0 0, { Link.reset with replay := [3, 4] })] }

/-- Link 0 of die 0 retrains; the end of die 0 expects block 4 and has retrained at the times `l`, and blocks `k` wait at it. -/
def relinking (l k : List Nat) : State := { State.reset with links := [(0, { Link.reset with recvSeq := 4, retrains := l, replay := k }), (farEnd 0 0, { Link.reset with recvSeq := 9 })] }

theorem wit_links : (linked4 2 []).fld (rLink 0 0) 63 62 = 0 ∧ ((linked4 2 []).link 0).recvSeq = 4 ∧ ((linked4 2 []).link (farEnd 0 0)).replay.contains 4 = true ∧ ((linked4 2 []).link 0).held = [] ∧
    Tab.get ((linked4 2 []).link 0).fails 0 4 < 3 ∧ 3 ≤ Tab.get ((linked4 3 []).link 0).fails 0 4 ∧ ((linked4 2 []).link (senderEnd 0 0)).replay.contains 9 = true ∧ (relinking [0, 0] []).fld (rLink 0 0) 63 62 = 1 ∧
    ((((relinking [0, 0] []).link 0).retrains ++ ((relinking [0, 0] []).link (farEnd 0 0)).retrains).filter (fun t => decide ((relinking [0, 0] []).now < t + 1000000000))).length < 3 ∧
    3 ≤ ((((relinking [0, 0, 0] [9]).link 0).retrains ++ ((relinking [0, 0, 0] [9]).link (farEnd 0 0)).retrains).filter (fun t => decide ((relinking [0, 0, 0] [9]).now < t + 1000000000))).length ∧
    ((relinking [0, 0, 0] [9]).link 0).replay = [((relinking [0, 0, 0] [9]).link (farEnd 0 0)).recvSeq] ∧ ((relinking [0, 0, 0] [9]).link (farEnd 0 0)).held = [] ∧
    (State.reset.fld (rLink 0 3) 63 62 = 1 ∧ (3 : Nat) < 4) := by decide +kernel

theorem test_bridge_block : after (.bridgeBlockReceive 0 0 4 true) (linked4 2 []) (fun t => t.outbox == [.bridgeAck 0 0 4] && (t.link 0).recvSeq == 5) = true ∧
    after (.bridgeBlockReceive 0 0 4 false) (linked4 2 []) (fun t => t.outbox == [.bridgeNack 0 0 4] && (t.link 0).recvSeq == 4 && t.fld (rLink 0 0) 63 62 == 0) = true ∧
    after (.bridgeBlockReceive 0 0 4 false) (linked4 3 []) (fun t => t.fld (rLink 0 0) 63 62 == 1) = true := by decide +kernel

theorem test_bridge_ack : after (.bridgeAck 0 0 9) (linked4 0 []) (fun t => (t.link 0).replay == []) = true ∧ after (.bridgeNack 0 0 9) (linked4 0 []) (fun t => t.fld (rLink 0 0) 31 0 == 1) = true := by decide +kernel

theorem test_link_retrain : after (.linkRetrainEnd 0 0 true) State.reset (fun t => t.fld (rLink 0 0) 63 62 == 0) = true ∧ after (.linkRetrainEnd 0 0 false) State.reset (fun t => t.fld (rLink 0 0) 63 62 == 2) = true := by decide +kernel

theorem wit_routers : (dev core0).fld (rRtr 0) 33 33 = 0 ∧ (withRegs (dev core0) [(rRtr 0, 2 ^ 37)]).fld (rRtr 0) 37 37 = 1 ∧ (dev core0).slicesLost 0 = false ∧
    ((withRegs (dev core0) [(rRtr 0, 2 ^ 4)]).setFld (rRtr 0) 5 5 1).slicesLost 0 = true := by decide +kernel

theorem test_router_failure : after (.routerFailure 0 5) (dev core0) (fun t => t.fld (rRtr 0) 5 5 == 1 && t.fenced 5 && t.fld (rTerm 0) 63 56 == tFenced) = true ∧
    after (.routerFailure 0 34) (dev core0) (fun t => t.fld (rRtr 0) 34 34 == 1 && t.fld (rTerm 0) 63 56 == 0) = true := by decide +kernel

/-! ### Stacked memory, digests, tally (10) -/

/-- The device with channel 0, which holds the first granule, in state `st`, level `lv`, and a read and a write of 64 bytes at the stack's first word. -/
def stk (st lv : Nat) : State :=
  { (withRegs (dev core0) [(rHmcStat 0, st * 2 ^ 60 + lv * 2 ^ 58 + 40 * 2 ^ 50)]) with
    fab := [⟨1, 5, 0, .read, stackDpa, 64, 0, [], 0, none, false, [], 0⟩, ⟨2, 5, 0, .write, stackDpa, 64, 0, List.replicate 64 (3, false), 0, none, false, [], 0⟩]
    chans := [(0, { Chan.reset with trained := some 20, due := false })] }

/-- Region 0 covers the first granule, and region 1 nothing; a sweep of region 0 runs; a write of `len` bytes waits. -/
def stkDg (len : Nat) : State :=
  { (withRegs (stk 2 0) [(rDgcfg 0, 2 ^ 63 + 1)]) with
    sweeps := [0]
    fab := [⟨2, 5, 0, .write, stackDpa, len, 0, List.replicate len (3, false), 0, none, false, [], 0⟩] }

/-- Two reads wait at the first word, that of the lower master first; two writes too. -/
def stkTwo : State := { (stk 2 0) with fab := [⟨1, 4, 0, .read, stackDpa, 64, 0, [], 0, none, false, [], 0⟩, ⟨2, 5, 0, .read, stackDpa, 64, 0, [], 0, none, false, [], 0⟩] }

theorem wit_channels_serve : ((stk 2 0).waits 1 .read true).any (fun r => (stk 2 0).chanAt r.addr == some 0 && (stk 2 0).chanTurn r) = true ∧
    (stkTwo.waits 1 .read true).any (fun r => stkTwo.chanAt r.addr == some 0 && !stkTwo.chanTurn r) = true ∧ (stkTwo.waits 2 .read true).any stkTwo.chanTurn = true ∧
    ((stk 2 0).waits 2 .write true).any (fun r => (stk 2 0).chanAt r.addr == some 0 && !(stk 2 0).chanTurn r) = true ∧
    ((stkDg 64).waits 2 .write true).any (fun r => (stkDg 64).chanAt r.addr == some 0 && (stkDg 64).keyOf r.addr == some r.addr && (stkDg 64).chanTurn r) = true ∧
    ((stk 5 0).waits 2 .write true).any (fun r => (stk 5 0).chanAt r.addr == some 0 && (stk 5 0).keyOf r.addr == some r.addr) = true ∧ ((stk 5 0).waits 1 .read true).isSome = true ∧ ((stk 3 0).waits 1 .read true).isSome = true ∧
    (stk 2 0).chanState 0 = 2 ∧ (stk 5 0).chanState 0 = 5 ∧ (stk 3 0).chanState 0 = 3 ∧ ((stk 2 0).homeOf stackDpa).isSome = true ∧ (stk 2 0).mem.bad stackDpa = false ∧ (∀ x ∈ (stk 2 0).fab, x.core < 136) ∧
    (stk 2 1).level 0 < 2 ∧ 2 ≤ (stk 2 2).level 0 ∧ granuleDpa (stk 2 0).removed 0 0 = some stackDpa := by decide +kernel

theorem test_hmc_read : after (.hmcRead 1 .bad .corrected false) (stk 2 0) (fun t => t.mem.bad (stackDpa + 31) && !t.mem.bad (stackDpa + 32) && (t.fabReq 1).any (fun r => r.served && r.data[0]? == some (0, true) && r.data[32]? == some (0, false)) &&
    t.fld (rHmcRdw 0) 63 0 == 1 && t.fld (rHmcEcc 0) 47 24 == 1 && t.flash.chanRows.length == 1) = true := by decide +kernel

theorem test_hmc_faulty : after (.hmcRead 1 .good .good false) (stk 5 0) (fun t => (t.fabReq 1).any (fun r => r.served && r.data[0]? == some (0, true))) = true ∧
    after (.hmcWrite 2) (stk 5 0) (fun t => t.mem.byte (stackDpa + 63) == 0 && (t.fabReq 2).any FabReq.served) = true := by decide +kernel

theorem test_hmc_scrub : after (.hmcScrub 0 .bad false) (stk 2 0) (fun t => t.mem.bad (stackDpa + 31) && !t.mem.bad (stackDpa + 32) && (t.chan 0).scrub == 1) = true ∧ after (.hmcScrub 0 .bad false) (stk 2 2) (fun t => t == stk 2 2) = true := by decide +kernel

theorem test_refresh : after (.refresh 0 127) (stk 2 0) (fun t => t == stk 2 0) = true ∧ after (.refreshManagement 0) (stk 2 0) (fun t => t == stk 2 0) = true := by decide +kernel

theorem test_interface_error : after (.interfaceError 0) { (stk 2 0) with chans := [(0, { Chan.reset with errs := List.replicate 15 0 })] } (fun t => (t.chan 0).due) = true ∧
    after (.interfaceError 0) (stk 2 0) (fun t => !(t.chan 0).due && (t.chan 0).errs == [0]) = true := by decide +kernel

theorem wit_temperature : (stk 2 0).computeOn = true ∧ (stk 2 0).levelAt 0 84 = 0 ∧ (stk 2 0).levelAt 0 85 = 1 ∧ (stk 2 0).levelAt 1 82 = 0 ∧ (stk 2 0).levelAt 1 83 = 1 ∧ (stk 2 0).levelAt 2 95 = 2 ∧ (stk 2 0).levelAt 0 105 = 3 ∧
    (stk 2 2).level 0 = 2 ∧ (stk 2 0).levelAt 0 95 = 2 ∧ (stk 2 0).level 0 < 2 ∧ ((stk 2 0).chan 0).trained = some 20 ∧ (State.reset.chan 0).trained = none := by decide +kernel

theorem test_temperature : after (.temperatureReadout 0 39) (stk 2 0) (fun t => t.fld (rHmcStat 0) 57 50 == 39 && t.level 0 == 0 && !(t.chan 0).due) = true ∧
    after (.temperatureReadout 0 40) (stk 2 0) (fun t => (t.chan 0).due) = true ∧ after (.temperatureReadout 0 96) (stk 2 2) (fun t => t.reg (rHmcThr 0) == 1000000) = true ∧
    after (.temperatureReadout 0 105) (stk 2 0) (fun t => t.fld rPwrStat 55 52 == 5 && t.fld rPwrStat 57 56 == 0 && t.cores == []) = true := by decide +kernel

/-- The same device with a retraining due. -/
def stkDue : State := { (stk 2 0) with chans := [(0, { Chan.reset with trained := some 20, due := true })] }

theorem wit_retraining : (stkDue.chan 0).due = true ∧ stkDue.chanState 0 = 2 ∧ stkDue.retraining = none ∧ stkDue.runs = [] ∧ (stk 2 0).retraining = none ∧ (stk 3 0).retraining ≠ none ∧ (stk 3 0).chanState 0 = 3 := by decide +kernel

theorem test_retraining : after (.channelRetraining 0) stkDue (fun t => t.chanState 0 == 3 && !(t.chan 0).due) = true ∧ after (.channelRetraining 0) (stk 2 0) (fun t => t == stk 2 0) = true := by decide +kernel

theorem test_retraining_end : after (.retrainingEnd 0 true 2 1) (stk 3 0) (fun t => t.chanState 0 == 2 && t.fld (rHmcStat 0) 49 48 == 2 && t.fld (rHmcStat 0) 47 46 == 1 && (t.chan 0).trained == some 40) = true ∧
    after (.retrainingEnd 0 true 3 0) (stk 3 0) (fun t => t.chanState 0 == 5) = true := by decide +kernel

/-- A traffic generator of channel 0 runs: MODE in bits 63:60. -/
def stkTg (mode : Nat) : State := { (stk 2 0) with chans := [(0, { Chan.reset with tg := some (mode * 2 ^ 60) })] }

theorem wit_tg_run : Instr.wf (.tgRunComplete 0 200 1 63 32767 5) = true ∧ ((stkTg 1).chan 0).tg = some (2 ^ 60) ∧ bits (2 ^ 60) 63 60 ≠ 2 ∧ ((stkTg 2).chan 0).tg = some (2 * 2 ^ 60) := by decide +kernel

theorem test_tg_run : after (.tgRunComplete 0 200 1 63 32767 5) (stkTg 1) (fun t => (t.chan 0).tg == none && t.reg (rTgstat 0) == 2 ^ 63 + 200 * 2 ^ 48 + 2 ^ 47 + 63 * 2 ^ 41 + 32767 * 2 ^ 26 + 5 && t.mem == (stkTg 1).mem) = true := by decide +kernel

theorem wit_digests_kept : ((stkDg 64).waits 2 .write true).any (fun r => (stkDg 64).chanAt r.addr == some 0 && r.data.length == 64 && (stkDg 64).chanTurn r && (stkDg 64).inDigest 0 r.addr && !(stkDg 64).inDigest 1 r.addr) = true ∧
    ((stkDg 4).waits 2 .write true).any (fun r => r.data.length == 4) = true ∧
    (stkDg 64).chanState 0 = 2 ∧ (0 : Nat) < 16 ∧ (stkDg 64).sweeps.contains 0 = true ∧ (stkDg 64).retraining = none ∧ (State.retraining { (stk 3 0) with sweeps := [0] }) ≠ none := by decide +kernel

theorem test_digest : after (.hmcWrite 2) (stkDg 64) (fun t => t.fld (rDgst 0) 4 4 == 1 && t.reg (rDgwacc 0 0) != 0 && Tab.get t.win 0 0 == 0 && t.mem.byte (stackDpa + 63) == 3) = true ∧
    after (.hmcWrite 2) (stkDg 4) (fun t => t.reg (rDgwacc 0 0) == 0 && Tab.get t.win 0 0 == 1) = true := by decide +kernel

/-! ### Arrays, drains, the row engine (03, 05) -/

/-- FP32 2.0 and 3.0, little-endian. -/
def two : List Byte := [0, 0, 0, 0x40]

def three : List Byte := [0, 0, 0x40, 0x40]

/-- The core with 2.0 in queue 0 and 3.0 in queue 1. -/
def coreE : Core := { coreT with queues := [(0, { Queue.reset with depth := 1, bytes := two }), (1, { Queue.reset with depth := 1, bytes := three }), (2, { Queue.reset with depth := 1 })] }

/-- An AMODE of array 0 to quadrant mode has issued. -/
def amoding : State := next (.amode 0 noCf ⟨0, true, 0, 0⟩) (dev coreE)

theorem wit_array_modes : (((amoding.core 5).arr 0).amode.bind (amoding.core 5).op).any (fun o => o.ins == .amode noCf ⟨0, true, 0, 0⟩) = true ∧
    (∀ y ∈ (amoding.core 5).ops, (setOf y.ins).map (·.1) ≠ some 0) ∧ (((next (.amode 0 noCf ⟨0, true, 0, 0⟩) (next (.ops 0 noCf oneOps) (dev coreE))).core 5).ops.any (fun y => (setOf y.ins).map (·.1) == some 0) && (((next (.amode 0 noCf ⟨0, true, 0, 0⟩) (next (.ops 0 noCf oneOps) (dev coreE))).core 5).arr 0).amode.isSome) = true := by decide +kernel

theorem test_mode_change : after (.modeChange 0 0) amoding (fun t => ((t.core 5).arr 0).qm && ((t.core 5).arr 0).amode == none && (t.core 5).ops == [] && t.free == 1) = true ∧
    after (.modeChange 0 0) (next (.amode 0 noCf ⟨0, true, 0, 0⟩) (next (.ops 0 noCf oneOps) (dev coreE))) (fun t => !((t.core 5).arr 0).qm && (t.core 5).ops.length == 2) = true := by decide +kernel

/-- A PRELOAD of 2 by 1 cells of array 0 has issued, in mode `p`, with 2.0 and 3.0 in queue 0. -/
def preloading (p : Nat) (bs : List Byte) : State := next (.preload 0 noCf ⟨0, 0, 0, p, 0, 0, 1, 0⟩) (dev { coreT with queues := [(0, { Queue.reset with depth := 1, bytes := bs })] })

/-- A FULL preload before row `cnt`. -/
def preloadingRow (cnt : Nat) : State := (preloading 3 (two ++ three)).updCore 5 (fun c => { c with ops := c.ops.map (fun o => { o with cnt := cnt }) })

theorem wit_preload : Instr.wf (.preloadRowWrite 0 0 0 []) = true ∧ [0, 1, 2, 3].all (fun p => (((preloading p (two ++ three)).core 5).inPort 0 0 1).any (fun o => o.cnt == 0 && ((preloading p (two ++ three)).core 5).setTurn o &&
      ((preloading p (two ++ three)).core 5).popTurn o 0 && o.ins == .preload noCf ⟨0, 0, 0, p, 0, 0, 1, 0⟩)) = true ∧
    (((preloadingRow 1).core 5).inPort 0 0 1).any (fun o => o.cnt == 1 && decide (0 < o.cnt ∧ o.cnt ≤ 1)) = true ∧ (((preloading 2 two).core 5).queue 0).bytes.length < 2 * (widthOf 0 / 8) := by decide +kernel

theorem test_preload : after (.preloadRowWrite 0 0 0 []) (preloading 0 []) (fun t => (((t.core 5).arr 0).set 0).region == some (2, 1) && (((t.core 5).arr 0).set 0).cell 1 0 == 0 && (t.core 5).ops == []) = true ∧
    after (.preloadRowWrite 0 0 0 []) (preloading 1 two) (fun t => (((t.core 5).arr 0).set 0).cell 0 0 == 0x40000000 && (((t.core 5).arr 0).set 0).cell 1 0 == 0x40000000 && ((t.core 5).queue 0).bytes == []) = true := by decide +kernel

theorem test_preload_columns : after (.preloadRowWrite 0 0 0 []) (preloading 2 (two ++ three)) (fun t => (((t.core 5).arr 0).set 0).cell 0 0 == 0x40000000 && (((t.core 5).arr 0).set 0).cell 1 0 == 0x40400000) = true ∧
    after (.preloadRowWrite 0 0 0 []) (preloadingRow 1) (fun t => (((t.core 5).arr 0).set 0).cell 1 0 == 0x40000000 && ((t.core 5).queue 0).bytes == three && (t.core 5).ops == []) = true := by decide +kernel

/-- An OPS of one step on one cell has issued. -/
def stepping : State := next (.ops 0 noCf oneOps) (dev coreE)

theorem wit_arrays_move : Instr.wf (.arrayStepEntry 0 0 0 [] [] []) = true ∧ ((stepping.core 5).inPort 0 0 0).any (fun o => o.ins == .ops noCf oneOps && (stepping.core 5).stepReady stepping.clock.eclk o && (stepping.core 5).setTurn o && (stepping.core 5).members o == [o]) = true ∧ (rankOf 0 0).isSome = true ∧
    (((next (.ops 0 noCf oneOps) (dev coreT)).core 5).inPort 0 0 0).any (fun o => !((next (.ops 0 noCf oneOps) (dev coreT)).core 5).stepReady 0 o) = true := by decide +kernel

/-- An OPS behind a FULL preload of its set, of one cell, whose row 0 stands and whose row 1 waits in the queue. -/
def behind : State :=
  let s := next (.preload 0 noCf ⟨0, 0, 0, 3, 0, 2, 1, 0⟩) (dev { coreE with queues := Tab.put coreE.queues 2 { Queue.reset with depth := 1, bytes := two ++ three } })
  next (.ops 0 noCf oneOps) (next (.preloadRowWrite 0 0 0 []) s)


theorem test_step_behind : ((behind.core 5).inPort 0 0 0).any (fun o => (behind.core 5).stepReady 0 o && !(behind.core 5).setTurn o) = true ∧
    after (.arrayStepEntry 0 0 0 [] [] []) behind (fun t => (((t.core 5).arr 0).set 0).cell 0 0 == 0x41000000 && (((t.core 5).arr 0).set 0).cell 1 0 == 0x40400000) = true := by decide +kernel

theorem test_array_step : after (.arrayStepEntry 0 0 0 [] [] []) stepping (fun t => (((t.core 5).arr 0).set 0).cell 0 0 == 0x40C00000 && (((t.core 5).arr 0).set 0).kc == 1 && ((t.core 5).queue 0).bytes == [] && (t.core 5).ops == []) = true := by decide +kernel

/-- Array 0 with its ramp, whose stage began 32 ECLK ago, after `g` ECLK of strolling. -/
def ramping (r : Ramp) (g : Nat) : State := { (dev { coreE with arrays := [(0, { Arr.reset with ramp := r, gap := g, gapMax := 64, stageAt := 0 })] }) with clock := ⟨32, 0, 0⟩ }

/-- The same in ECLK 31. -/
def earlyRamp (r : Ramp) : State := { (ramping r 0) with clock := ⟨31, 0, 0⟩ }

theorem wit_ramps : [Ramp.rest, .full, .up 7, .up 8, .idle, .down 7, .down 0].all (fun r => (((ramping r 64).core 5).arr 0).ramp == r) = true ∧
    (((ramping .full 64).core 5).arr 0).stepping 32 = false ∧ (((ramping .full 64).core 5).arr 0).gapLimit ((ramping .full 64).fld (rStroll 5) 6 0) ≤ 64 ∧ 63 < (((ramping .full 63).core 5).arr 0).gapLimit ((ramping .full 63).fld (rStroll 5) 6 0) ∧
    ((stepping.core 5).arr 0).stepping 0 = true ∧ (((ramping .full 64).core 5).arr 0).stageAt + 32 ≤ 32 ∧ (((ramping .full 0).core 5).arr 0).gap = 0 := by decide +kernel

theorem test_stroll_gap : [Ramp.full, .up 8].all (fun r => after (.strollGapExpiry 0 0) (ramping r 64) (fun t => ((t.core 5).arr 0).ramp == .down 7 && ((t.core 5).arr 0).stageAt == 32)) = true ∧
    [(Ramp.idle, 64), (.full, 63)].all (fun e => after (.strollGapExpiry 0 0) (ramping e.1 e.2) (fun t => t == ramping e.1 e.2)) = true := by decide +kernel

theorem test_ramp_stage : [(Ramp.down 0, Ramp.idle), (.up 8, .full), (.up 7, .up 8), (.down 5, .down 4), (.full, .full), (.rest, .rest)].all (fun e => after (.rampStage 0 0) (ramping e.1 0) (fun t => ((t.core 5).arr 0).ramp == e.2)) = true ∧
    after (.rampStage 0 0) (earlyRamp (.up 7)) (fun t => t == earlyRamp (.up 7)) = true := by decide +kernel

/-- Set 0 of array 0 holds 6.0 in a region of one cell, and a DRAIN with CLR and a descriptor with FP32 rows to queue 2 has issued. -/
def draining (rows : Nat) : State :=
  next (.drain 0 noCf ⟨0, true, 0, 0, 0, 0, 0, 0, 0, 0, 0⟩) (dev { coreE with
    dds := [(0, { plainDesc with dmode := 0, oq := 2 })]
    arrays := [(0, { Arr.reset with named := [(0, (rows, 1))], sets := [(0, { AccSet.reset with region := some (rows, 1), cells := [(0, 0x40C00000)] })] })] })

theorem wit_drains_run : Instr.wf (.drainRowRead 0 0 0 []) = true ∧ (((draining 1).core 5).inPort 0 0 2).any (fun o => o.region == (1, 1) && ((draining 1).core 5).setTurn o && o.desc.any (fun d => d.dmode != 1 && ((draining 1).core 5).readReady 0 o d 1)) = true ∧
    (((draining 0).core 5).inPort 0 0 2).any (fun o => o.region.1 == 0) = true := by decide +kernel

theorem test_drain_row : after (.drainRowRead 0 0 0 []) (draining 1) (fun t => ((t.core 5).arr 0).pushes.map (fun p => (p.kind, p.q, p.vals)) == [(.row, 2, [(0x40C00000, false)])] && (((t.core 5).arr 0).set 0).cell 0 0 == 0) = true ∧
    after (.drainRowRead 0 0 0 []) (draining 0) (fun t => (t.core 5).ops == []) = true := by decide +kernel

/-- The row has been read. -/
def pushing (depth : Nat) : State := (next (.drainRowRead 0 0 0 []) (draining 1)).updCore 5 (fun c => { c with queues := Tab.put c.queues 2 { Queue.reset with depth := depth } })

theorem wit_drain_push : (((pushing 1).core 5).arr 0).pushes.any (fun p => p.kind == .row && p.q == 2 && ((pushing 1).core 5).turnOf p.op 2 && (((pushing 1).core 5).op p.op).any (fun o => o.desc.any (fun d => !isMx d.otype &&
      (pushLoad d p).all (fun e => ((pushing 1).core 5).pushTurn o e.1 && decide (pullBytes (pushLoad d p) e.1 ≤ (((pushing 1).core 5).queue e.1).free))))) = true ∧ (((pushing 0).core 5).queue 2).free = 0 := by decide +kernel

theorem test_drain_push : after (.drainPush 0 0 2) (pushing 1) (fun t => ((t.core 5).queue 2).bytes == [0, 0, 0xC0, 0x40] && (t.core 5).ops == []) = true ∧ after (.drainPush 0 0 2) (pushing 0) (fun t => ((t.core 5).queue 2).bytes == [] && (t.core 5).ops.length == 1) = true := by decide +kernel

/-- A DRAIN of a descriptor with the top entry of each row, whose row (1.0, 3.0) has been read. -/
def topping (depth : Nat) : State :=
  let d := { plainDesc with dmode := 0, oq := 2, topk := 1, kq := 3 }
  let s := next (.drain 0 noCf ⟨0, false, 0, 0, 0, 0, 0, 0, 0, 0, 0⟩) (dev { coreE with
    queues := [(2, { Queue.reset with depth := 1 }), (3, { Queue.reset with depth := 1 })]
    dds := [(0, d)]
    arrays := [(0, { Arr.reset with named := [(0, (1, 2))], sets := [(0, { AccSet.reset with region := some (1, 2), cells := [(0, 0x3F800000), (1, 0x40400000)] })] })] })
  (next (.drainRowRead 0 0 0 []) s).updCore 5 (fun c => { c with queues := Tab.put c.queues 3 { Queue.reset with depth := depth } })

theorem wit_topk_push : ((((topping 1).core 5).arr 0).pushes.find? (fun p => p.kind == .topk && p.q == 3 && ((topping 1).core 5).turnOf p.op 3)).any (fun p => (((topping 1).core 5).op p.op).any (fun o => o.desc.any (fun d => d.topk == 1))) = true ∧
    8 * 1 ≤ (((topping 1).core 5).queue 3).free ∧ (((topping 0).core 5).queue 3).free < 8 := by decide +kernel

theorem test_topk_push : after (.topkPush 0 0 3) (topping 1) (fun t => ((t.core 5).queue 3).bytes.length == 8 && [0, 0, 0x40, 0x40].all (fun b => ((t.core 5).queue 3).bytes.contains b)) = true ∧ after (.topkPush 0 0 3) (topping 0) (fun t => ((t.core 5).queue 3).bytes == []) = true := by decide +kernel

/-- A full column block of a drain to MX elements by columns (queue 2, scales in queue 3): 32 rows of 1.0. -/
def blocking : State :=
  let d := { plainDesc with dmode := 0, otype := 3, baxis := 1, oq := 2, osq := 3 }
  let s := next (.drain 0 noCf ⟨0, false, 0, 0, 0, 0, 0, 0, 0, 0, 0⟩) (dev { coreE with
    queues := [(2, { Queue.reset with depth := 1 }), (3, { Queue.reset with depth := 1 })]
    dds := [(0, d)]
    arrays := [(0, { Arr.reset with named := [(0, (32, 1))], sets := [(0, { AccSet.reset with region := some (32, 1) })] })] })
  s.updCore 5 (fun c => c.setArr 0 { c.arr 0 with bufs := [⟨0, false, List.replicate 32 [(0x3F800000, false)], true, 0⟩] })

theorem wit_column_block : ((((blocking.core 5).arr 0).bufs).map (fun b => b.full)) = [true] ∧ ((blocking.core 5).op 0).any (fun o => o.desc.any (fun d => bufNext d ⟨0, false, [], true, 0⟩ == 3 && bufNext d ⟨0, false, [], true, 1⟩ == 2 && (blocking.core 5).pushTurn o 3)) = true := by decide +kernel

theorem test_column_block : after (.columnBlockEmit 0 0 3) blocking (fun t => ((t.core 5).queue 3).bytes.length == 1 && ((t.core 5).arr 0).bufs.map ColBuf.made == [1]) = true := by decide +kernel

/-- A QMOVE of `n` bytes from queue 0 to queue 2 has issued. -/
def qmoving (n : Nat) : State := next (.qmove 0 noCf 0 2 n) (dev coreE)

/-- A row-engine copy of one FP32 element from queue 0 to queue 2 has issued. -/
def rxing : State := next (.rx 0 noCf { plainRx with len := 1, dst := 2 }) (dev coreE)

theorem wit_row_groups : Instr.wf (.rxGroup 0 []) = true ∧ ((dev coreE).core 5).rowNext = none ∧ ((qmoving 4).core 5).rowNext.any (fun o => o.ins == .qmove noCf 0 2 4 && o.cnt == 0 && ((qmoving 4).core 5).rowPush 0 == (qmoving 4).core 5 && ((qmoving 4).core 5).popTurn o 0 && ((qmoving 4).core 5).pushTurn o 2 && o.groups == 1) = true ∧
    ((qmoving 8).core 5).rowNext.any (fun o => o.ins == .qmove noCf 0 2 8) = true ∧ (((qmoving 8).core 5).queue 0).bytes.length < 8 ∧
    (rxing.core 5).rowNext.any (fun o => (rxing.core 5).pullsReady o (rxPulls { plainRx with len := 1, dst := 2 } 0)) = true ∧
    ((next (.rx 0 noCf { plainRx with len := 2, dst := 2 }) (dev coreE)).core 5).rowNext.any (fun o => !((next (.rx 0 noCf { plainRx with len := 2, dst := 2 }) (dev coreE)).core 5).pullsReady o (rxPulls { plainRx with len := 2, dst := 2 } 0)) = true := by decide +kernel

/-- A QMOVE whose group has popped and holds, with `d` bytes of room in queue 2, before an RX of queue 1. -/
def rowHeld (d : Nat) : Core := ((next (.rx 0 noCf { plainRx with len := 1, dst := 2 }) (next (.rxGroup 0 []) ((qmoving 4).updCore 5 (fun c => { c with queues := Tab.put c.queues 2 { Queue.reset with depth := 0 } })))).core 5).setQueue 2 { Queue.reset with depth := d }

theorem wit_row_holds : (match (rowHeld 0).rowOps with
    | o :: e :: _ => decide (0 < o.cnt) && decide (o.groups ≤ o.cnt) && (o.res == [(2, [(0, false), (0, false), (0, false), (0x40, false)])]) && (e.cnt == 0) && ((rowHeld 0).pushAll o o.res 0 == none) && decide (((rowHeld 0).queue 2).free < 4) &&
        decide (4 ≤ ((rowHeld 1).queue 2).free) && (rowHeld 1).pushTurn o 2
    | _ => false) = true ∧ ((qmoving 400).core 5).rowOps.any (fun o => decide (o.cnt < o.groups) && o.res == []) = true ∧
    (Core.rowOps { coreE with ops := [{ faddrOp with ins := .qmove noCf 0 2 400, cnt := 1, res := [(2, [(0, false)])] }] }).any (fun o => decide (o.cnt < o.groups) && o.res != []) = true := by decide +kernel

theorem test_row_holds : ((rowHeld 0).rowNext.any (fun o => o.cnt == 0) && ((((rowHeld 1).rowPush 0).queue 2).bytes == two)) = true := by decide +kernel

theorem test_qmove_group : after (.rxGroup 0 []) (qmoving 4) (fun t => ((t.core 5).queue 2).bytes == two && ((t.core 5).queue 0).bytes == [] && (t.core 5).ops == []) = true := by decide +kernel

theorem test_rx_group : after (.rxGroup 0 []) rxing (fun t => ((t.core 5).queue 0).bytes == [] && (t.core 5).ops == []) = true := by decide +kernel

/-! ### Programs and steps (06, 07) -/

/-- The device with partition 0 in a state, and a command that waits. -/
def devP (st : PState) (cmd : Option StepCmd) (c : Core) : State := (dev c).updPart 0 (fun p => { p with st := st, cmd := cmd, extents := [⟨0, 4096, 2, []⟩] })

/-- A core at its boundary, and one at its end. -/
def coreB : Core := { core0 with a := { ready with state := 3, stall := 8 }, x := { ready with state := 3, stall := 8 } }

def coreEnd : Core := { core0 with a := { ready with state := 4 }, x := { ready with state := 4 } }

/-- A START or STEP with a step block of one byte 7 at DPA 64. -/
def stepCmd (first : Bool) : StepCmd := ⟨first, ⟨7, 9, 1⟩, ⟨0, true, 2, 0, 64, [7]⟩⟩

theorem wit_programs_terminate : ((dev core0).part 0).live = true ∧ ((dev core0).part 1).live = false ∧ (dev core0).epochs = [] ∧ (dev core0).restore = none ∧ (dev core0).collector.1 = 0 ∧ ((dev core0).part 0).cmd = none ∧
    ((dev core0).part 0).cores = [0] ∧ (dev core0).partOf 1 = none ∧ (devP .closed none core0).cairnOut = none ∧ ((devP .closed none core0).part 0).st = .closed ∧
    (State.cairnOut { (devP .closed none core0) with cairnOut := some ⟨0, 1, 7, [], false, false, 0, 0⟩ }).any (fun w => w.part == 0) = true := by decide +kernel

/-- A program that was terminated in this ECLK with HW_FAULT. -/
def justEnded : State := (dev coreT).terminate 0 tHwFault .none

theorem wit_causes_meet : (justEnded.part 0).live = false ∧ (justEnded.part 0).st = .ending ∧ (justEnded.part 0).endedAt = some justEnded.clock.eclk ∧ tPoison < justEnded.fld (rTerm 0) 63 56 ∧ justEnded.fld (rTerm 0) 63 56 ≤ tHwFault ∧
    (State.part { justEnded with clock := ⟨1, 0, 0⟩ } 0).endedAt ≠ some 1 := by decide +kernel

theorem test_causes_meet : (justEnded.terminate 0 tPoison .none).fld (rTerm 0) 63 56 = tPoison ∧ (State.terminate { justEnded with clock := ⟨1, 0, 0⟩ } 0 tPoison .none).fld (rTerm 0) 63 56 = tHwFault := by decide +kernel

theorem test_hw_fault : after (.hwFault 0) (dev coreT) (fun t => t.fld (rTerm 0) 63 56 == tHwFault && (t.core 5).a.state == 5 && (t.core 5).x.state == 5 && ((t.core 5).queue 0).bytes == [] && t.events.length == 1) = true ∧
    after (.hwFault 1) (dev coreT) (fun t => t == dev coreT) = true := by decide +kernel

theorem test_stall_timeout : [PState.loaded, .running, .closed].all (fun st => after (.stallTimeout 0) (devP st none core0) (fun t => t.fld (rTerm 0) 63 56 == tStall)) = true ∧
    after (.stallTimeout 0) { (devP .closed none core0) with cairnOut := some ⟨0, 1, 7, [], false, false, 0, 0⟩ } (fun t => t.fld (rTerm 0) 63 56 == 0) = true := by decide +kernel

theorem wit_steps_open : ((devP .running none core0).part 0).st = .running ∧ ((devP .loaded (some (stepCmd true)) core0).part 0).cmd = some (stepCmd true) ∧ (stepCmd true).start = true ∧
    ((devP .closed (some (stepCmd false)) core0).part 0).st = .closed ∧ (devP .closed (some (stepCmd false)) core0).cairnOut = none ∧ ((devP .loaded none core0).part 0).step + 1 < 2 ^ 32 ∧
    2 ^ 32 ≤ (((devP .closed (some (stepCmd false)) core0).updPart 0 (fun p => { p with step := 2 ^ 32 - 1 })).part 0).step + 1 ∧ (stepCmd true).body.sbdpa % 64 = 0 ∧ (stepCmd true).body.sbdpa + 64 ≤ hamperDpa := by decide +kernel

/-- The program to start is mapped on core 5, which is fenced; the first core of each die after it takes logical core 0 where `few` is false, else every core is fenced. -/
def fencedStart (few : Bool) : State :=
  withRegs (devP .loaded (some (stepCmd true)) core0) ((List.range 4).map (fun d => (rDsup d, if few then 2 ^ 34 - 1 else if d = 0 then 2 ^ 5 else 0)))

theorem wit_fenced_start : (devP .loaded (some (stepCmd true)) core0).fencedEntry = none ∧ (fencedStart false).fencedEntry = some 0 ∧ ((fencedStart false).part 0).st = .loaded ∧
    (match (fencedStart false).planMap (fencedStart false).waitingParts with
     | .ok _ => true
     | _ => false) = true ∧
    (match (fencedStart true).planMap (fencedStart true).waitingParts with
     | .few => true
     | _ => false) = true := by decide +kernel

/-- The same beside a program of partition 1 on logical core 1, which a new map would move. -/
def fencedBusy : State :=
  let s := (fencedStart false).updPart 1 (fun _ => { prog with first := 1 })
  withRegs s [(rCmap 1, 2 ^ 63 + 130)]

theorem wit_fenced_busy : fencedBusy.fencedEntry = some 0 ∧ (match fencedBusy.planMap fencedBusy.waitingParts with
     | .busy => true
     | _ => false) = true ∧ (withRegs (devP .loaded (some (stepCmd true)) core0) ((List.range 4).map (fun d => (rLink d 3, 2 ^ 63)))).hubCut = true ∧ (devP .loaded (some (stepCmd true)) core0).hubCut = false := by decide +kernel

theorem test_stream_start : after (.streamStart 0) (dev { core0 with a := { ready with state := 1 } }) (fun t => (t.core 5).a.state == 2 && t.started) = true := by decide +kernel

theorem test_step_open : after (.stepOpen 0) (devP .closed (some (stepCmd false)) coreB) (fun t => (t.part 0).step == 2 && (t.part 0).st == .running && (t.part 0).cmd == none && (t.core 5).a.state == 2 && (t.core 5).a.pc == 1 && t.mem.byte 64 == 2 && t.mem.byte 72 == 7) = true ∧
    after (.stepOpen 0) ((devP .closed (some (stepCmd false)) core0).updPart 0 (fun p => { p with step := 2 ^ 32 - 1 })) (fun t => t.fld (rTerm 0) 63 56 == tStepWrap) = true := by decide +kernel

/-- Partition 0's poison count is 1, at core 0's X-stream, index 9. -/
def poisonedAt (s : State) : State := withRegs s [(rPoison 0, 2 ^ 48 + 2 ^ 47 + 2 ^ 46 + 9)]

theorem wit_steps_close : (devP .running none coreB).allAt 0 Stream.atBoundary = true ∧ (devP .running none core0).allAt 0 Stream.atBoundary = false ∧ (poisonedAt (devP .running none coreB)).poisoned 0 = true ∧
    (devP .running none coreB).poisoned 0 = false ∧ ((devP .running none coreB).part 0).cmd = none := by decide +kernel

theorem test_step_close : after (.stepClose 0) (devP .running none coreB) (fun t => (t.part 0).st == .closed && (t.part 0).step == 1) = true ∧
    after (.stepClose 0) (devP .running none core0) (fun t => (t.part 0).st == .running) = true := by decide +kernel

theorem test_step_close_poison : after (.stepClose 0) (poisonedAt (devP .running none coreB)) (fun t => t.fld (rTerm 0) 63 56 == tPoison && t.fld (rTerm 0) 43 32 == 9 && t.fld (rTerm 0) 54 54 == 1) = true := by decide +kernel

theorem wit_programs_end : (devP .running none coreEnd).allAt 0 Stream.atEnd = true ∧ (poisonedAt (devP .running none coreEnd)).poisoned 0 = true ∧ (devP .running none coreEnd).collector.1 = 0 ∧ (devP .ending none coreEnd).canRelease 0 = true ∧
    (State.canRelease { (devP .ending none coreEnd) with fab := [flagReq] } 0) = false ∧ (∀ k ∈ (devP .running none coreEnd).coresOf 0, (devP .running none coreEnd).trackers k = 0) := by decide +kernel

theorem test_program_end : after (.programEnd 0) (devP .running none coreEnd) (fun t => t.fld (rTerm 0) 63 56 == tEnded && t.part 0 == Part.reset) = true ∧
    after (.programEnd 0) (poisonedAt (devP .running none coreEnd)) (fun t => t.fld (rTerm 0) 63 56 == tPoison) = true := by decide +kernel

theorem test_partition_release : after (.partitionRelease 0) (devP .ending none coreEnd) (fun t => t.part 0 == Part.reset) = true ∧
    after (.partitionRelease 0) { (devP .ending none coreEnd) with fab := [flagReq] } (fun t => (t.part 0).st == .ending) = true := by decide +kernel

/-! ### Messages (12) -/

/-- A connection of the owner 9, number 7 here and 3 there; its next SEQ is 5. -/
def conn7 : Conn := ⟨7, 3, 9, 0, 0, 2, false, 0, 0, 1, [], [], 100, 8, 5, [], [], 0, 100, 0, 0, [], false, 0, 0⟩

/-- A connection of the peer 11, number 8 here and 4 there. -/
def conn8 : Conn := { conn7 with mine := 8, theirs := 4, id := 11, cls := 1 }

/-- A claimed device with its owner key in slot 0 and its peer key in slot 2, and both connections. -/
def withKeys (s : State) : State :=
  { s with flash := { s.flash with claimed := true, keys := [(0, 77), (2, 78)] }, conns := [(7, conn7), (8, conn8)] }

/-- A packet of the peer. -/
def pktP : Pkt := ⟨11, 8, 2, 2, 78, 5, 0, 0, 1, 0, false, false, false, true, true, none⟩

/-- The turn of a message, as a check. -/
def inTurnB (s : State) (p : Pkt) (cls : Nat) : Bool :=
  !s.power.railsOff && s.checkHead p cls == none &&
  (match s.checkConn p cls with
   | .ok _ => true
   | _ => false) &&
  (match Tab.find (s.accept p 0).conns p.conn with
   | some c => c.theirs != 0 && p.seq == c.rxNext && decide (p.seq < 2 ^ 32) && c.rxSeen == [] && c.held == [] && !seqBefore c.granted p.seq
   | none => false)

theorem in_turn_of {s : State} {p : Pkt} {cls : Nat} (h : inTurnB s p cls = true) : s.inTurn p cls := by
  simp only [inTurnB, Bool.and_eq_true, Bool.not_eq_true', beq_iff_eq] at h
  obtain ⟨⟨⟨h1, h2⟩, h3⟩, h4⟩ := h
  refine ⟨h1, h2, ?_, ?_⟩
  · split at h3
    · exact ⟨_, ‹_›⟩
    · cases h3
  · split at h4
    · refine ⟨_, ‹_›, ?_⟩
      simpa [and_assoc] using h4
    · cases h4

/-- An owner request that the device's state lets through, as a check. -/
def asksB (s : State) (p : Pkt) (r : Nat) (early recov compute : Bool) : Bool :=
  inTurnB s p 0 && (s.received p).kept.all (fun k => k.owner != p.src || k.req != r) && !(s.received p).gated early recov compute

theorem asks_of {s : State} {p : Pkt} {r : Nat} {e rc c : Bool} (h : asksB s p r e rc c = true) : s.asks p r e rc c := by
  simp only [asksB, Bool.and_eq_true, Bool.not_eq_true', List.all_eq_true, Bool.or_eq_true, bne_iff_ne] at h
  exact ⟨in_turn_of h.1.1, h.1.2, h.2⟩

theorem wit_messages_take_turn : carried (.memRead pkt 0 4 0) = some (pkt, 0, false) ∧ Instr.wf (.memRead pkt 0 4 0) = true ∧ (withKeys (dev core0)).inTurn pkt 0 ∧ (withKeys (dev core0)).inTurn pktP 1 ∧
    (withKeys (dev core0)).checkHead { pkt with key := 1 } 0 = some .auth ∧ (withKeys (dev core0)).checkConn { pkt with conn := 8 } 0 = .error .noConn ∧
    (((withKeys (dev core0)).accept pkt 0).deferred (.memRead pkt 0 4 0)) = false ∧ (Tab.find (withKeys (dev core0)).conns 7).map Conn.mine = some 7 :=
  ⟨rfl, by decide, in_turn_of (by decide +kernel), in_turn_of (by decide +kernel), by decide +kernel, rfl, by decide +kernel, by decide +kernel⟩

theorem test_message_checks : after (.memRead { pkt with key := 1 } 0 4 0) (withKeys (dev core0)) (fun t => t.outbox == [] && t.conns == [(7, conn7), (8, conn8)]) = true ∧
    after (.memRead { pkt with pctr := 0 } 0 4 0) (withKeys (dev core0)) (fun t => t.outbox == []) = true := by decide +kernel

/-- What the device has sent as replies: REQID, status, data. -/
def replies (s : State) : List (Nat × Nat × List Byte) :=
  s.outbox.filterMap (fun o => match o with
    | .packet _ _ _ _ _ _ _ (.reply r st _ _ d) _ => some (r, st, d)
    | _ => none)

/-- The device, its link up. -/
def devM (s : State) : State := withRegs (withKeys s) [(rEthStat, 3 * 2 ^ 61)]

/-! ### The transport (12) -/

/-- A READY device with a program, connections and its link up. -/
def host : State := devM (dev core0)

theorem wit_connections_open : Instr.wf (.openConn pkt 1 0 42 5) = true ∧ host.checkHead pkt 0 = none ∧ host.checkHead { pkt with hcrc := false } 0 = some .hcrc ∧ State.connsOf { host with conns := [] } 9 0 = [] ∧
    host.nwtVersion ≤ 1 + 1 ∧ 0 + 1 < host.nwtVersion ∧ host.conns.length < 65536 ∧ host.halfOpen < 4096 ∧ host.connsUsed.length < 2 ^ 31 := by
  refine ⟨by decide, by decide +kernel, by decide +kernel, ?_, by decide +kernel, by decide +kernel, by decide +kernel, by decide +kernel, by decide +kernel⟩
  simp [State.connsOf]

/-- OPEN and OPENACK carry VER 0x01 whatever version the connection speaks (R560). -/
theorem test_open_version : (match host.packetOf { conn7 with ver := 2 } 0 1 (.opening 5) with | .openConn _ _ _ _ v _ e => (v, e.ver) | _ => (0, 0)) = (2, 1) ∧
    (match host.packetOf { conn7 with ver := 2 } 0 1 (.opened 0 5) with | .openAck _ _ _ _ _ _ v _ e => (v, e.ver) | _ => (0, 0)) = (2, 1) := ⟨rfl, rfl⟩

theorem wit_connections_full : 4096 ≤ State.halfOpen { host with conns := List.replicate 4096 (1, { conn7 with half := true }) } ∧ host.linkUp = true ∧ State.linkUp { host with regs := [] } = false := by
  refine ⟨?_, by decide +kernel, by decide +kernel⟩
  rw [State.halfOpen, List.filter_eq_self.mpr (fun e h => by rw [List.eq_of_mem_replicate h]), List.length_replicate]

/-- Its connection has a termination record that the peer has not acknowledged. -/
def withTerm : State := { (withRegs host [(rTelctl, 2 ^ 48 + 2 ^ 32), (rCollId, 9)]) with conns := [(7, { conn7 with sent := [⟨1, .termination 0 5 9, 0, false, 7⟩] }), (8, { conn7 with mine := 8, theirs := 4 })] }

theorem wit_connection_lost : withTerm.collector.1 ≠ 0 ∧ conn7.terminations = [] ∧ (Tab.find withTerm.conns 7).map Conn.terminations = some [.termination 0 5 9] := by decide +kernel

theorem test_connection_lost : ((withTerm.closeConn 7).conns.any (fun e => e.1 != 7 && (e.2.unsent ++ e.2.sent.map Sent.msg).contains (.termination 0 5 9))) = true := by decide +kernel

theorem wit_open_ack : Instr.wf (.openAck { pkt with seq := 0 } 0 2 6 9) = true ∧
    (let s : State := { host with conns := [(7, { conn7 with theirs := 0, half := true })] }
     (Tab.find (s.accept { pkt with seq := 0 } 0).conns 7).map Conn.theirs = some 0 ∧ (s.checkConn pkt 0).toOption.isSome = true) := by decide +kernel

theorem test_open_ack : after (.openAck { pkt with seq := 0 } 0 2 6 9) { host with conns := [(7, { conn7 with theirs := 0, half := true })] } (fun t => (Tab.find t.conns 7).any (fun c => c.theirs == 6 && !c.half && c.rxNext == 1)) = true ∧
    after (.openAck { pkt with seq := 0 } 1 2 6 9) { host with conns := [(7, { conn7 with theirs := 0, half := true })] } (fun t => Tab.find t.conns 7 == none) = true := by decide +kernel

theorem wit_half_open : Tab.find host.conns 7 = some conn7 ∧ conn7.half = false ∧ ({ conn7 with half := true } : Conn).half = true := by decide +kernel

theorem test_half_open : after (.halfOpenTimeout 7) { host with conns := [(7, { conn7 with half := true })] } (fun t => t.conns == []) = true ∧ after (.halfOpenTimeout 7) host (fun t => t.conns == host.conns) = true := by decide +kernel

/-- The connection has sent blocks 1, 2 and 3. -/
def sent3 : State := { host with conns := [(7, { conn7 with sent := [⟨1, .opening 1, 0, false, 7⟩, ⟨2, .opening 2, 0, false, 7⟩, ⟨3, .opening 3, 2, false, 7⟩], nextSeq := 4, since := 1 })] }

theorem wit_acks : Instr.wf (.ack { pkt with ackSeq := 2 } 0) = true ∧ sent3.checkHead pkt 0 = none ∧ (sent3.checkConn pkt 0).toOption.isSome = true ∧ sent3.cairnOut = none ∧ sent3.linkUp = true ∧
    (Tab.find host.conns 7 = some conn7 ∧ (sent3.outbox = [])) ∧ ((Tab.find sent3.conns 7).any (fun c => c.since != 0 && (c.sent.find? (fun e => e.seq == 3)).any (fun e => decide (e.resends < e.retry)))) = true ∧ (7 : Nat) ≤ 7 ∧ State.linkUp { sent3 with regs := [] } = false ∧ conn7.since = 0 ∧ host.fld rNwtCtrl 39 36 ≤ 15 := by decide +kernel

theorem test_ack : after (.ack { pkt with ackSeq := 2 } 0) sent3 (fun t => (Tab.find t.conns 7).any (fun c => c.sent.map Sent.seq == [2, 3])) = true ∧
    after (.ack { pkt with ackSeq := 2 } 1) sent3 (fun t => (Tab.find t.conns 7).any (fun c => c.sent.map Sent.seq == [2])) = true := by decide +kernel

theorem test_ack_timer : after (.ackTimer 7) sent3 (fun t => (match t.outbox with
      | [.ack 3 5 0 100 e] => e.conn == 3 && e.pctr == 1 && e.dport == t.fld rNwtCtrl 63 48
      | _ => false) && (Tab.find t.conns 7).any (fun c => c.since == 0)) = true ∧ after (.ackTimer 7) host (fun t => t.outbox == []) = true := by decide +kernel

theorem test_resend_timer : after (.resendTimer 7 3) sent3 (fun t => t.outbox.length == 1 && t.fld rNwtConn 15 0 == 1 && (Tab.find t.conns 7).any (fun c => (c.sent.map Sent.resends) == [0, 0, 3])) = true ∧
    after (.resendTimer 7 3) { sent3 with conns := [(7, { conn7 with sent := [⟨3, .opening 3, 15, false, 15⟩] })] } (fun t => t.conns == [] && t.fld rNwtConn 31 16 == 1) = true := by decide +kernel

/-- The collector is identity 9; one register is named for snapshots. -/
def collecting : State := withRegs host [(rTelctl, 2 ^ 48 + 2 ^ 32), (rCollId, 9), (rSnap 0, rBoot)]

theorem wit_telemetry : collecting.fld rTelctl 63 48 ≠ 0 ∧ collecting.collector.1 ≠ 0 ∧ collecting.fld rTelctl 40 32 ≤ 255 ∧ host.fld rTelctl 63 48 = 0 ∧ (withRegs host [(rTelctl, 2 ^ 48)]).collector.1 = 0 := by decide +kernel

theorem test_snapshot : after .counterSnapshot collecting (fun t => t.outbox.any (fun o => match o with
      | .packet _ _ _ _ _ _ _ (.telemetry 3 255 0 d) _ => d == toLe 8 0 ++ toLe 8 0 ++ toLe 8 rBoot ++ toLe 8 (3 * 2 ^ 60)
      | _ => false)) = true ∧
    after .counterSnapshot (withRegs host [(rTelctl, 2 ^ 48)]) (fun t => t.fld rTelstat 47 32 == 1) = true := by decide +kernel

theorem test_telemetry_drop : after .telemetryDropTimeout { host with conns := [(7, { conn7 with unsent := [.telemetry 2 0 0 [], .opening 1] })] } (fun t => t.fld rTelstat 63 48 == 1 && (Tab.find t.conns 7).any (fun c => c.unsent == [.opening 1])) = true := by decide +kernel

/-! ### Owner requests (12, 14) -/

/-- The device has answered request 3 of the owner. -/
def kept3 : State := { host with kept := [⟨9, 3, some (.reply 3 0 false false [1])⟩] }

theorem wit_requests_once : (kept3.kept.find? (fun k => k.owner == 9 && k.req == 3)).map Kept.reply = some (some (.reply 3 0 false false [1])) ∧ host.kept.find? (fun k => k.owner == 9 && k.req == 3) = none := by decide +kernel

theorem test_request_repeated : after (.memWrite pkt 3 8192 [5]) kept3 (fun t => t.mem.byte 8192 == 0 && replies t == [(3, 0, [1])]) = true := by decide +kernel

/-- A device that boots, one in recovery, one in Shade. -/
def booting : State := devM (withRegs (dev core0) [(rBoot, 2 * 2 ^ 60)])

def recovering : State := devM (withRegs (dev core0) [(rBoot, 5 * 2 ^ 60)])

def shaded : State := devM (withRegs (dev core0) [(rBoot, 6 * 2 ^ 60), (rPwrStat, 0)])

theorem wit_requests_gated : requested (.memRead pkt 3 4 0) = some (pkt, 3) ∧ booting.inTurn pkt 0 ∧ recovering.inTurn pkt 0 ∧ shaded.inTurn pkt 0 ∧ (∀ k ∈ (booting.received pkt).kept, k.owner ≠ 9 ∨ k.req ≠ 3) ∧
    (booting.asked pkt 3).fld rBoot 63 60 < 3 ∧ early (.memRead pkt 3 4 0) = false ∧ (recovering.asked pkt 3).fld rBoot 63 60 = 5 ∧ inRecovery (.memRead pkt 3 4 0) = false ∧ (shaded.asked pkt 3).computeOn = false :=
  ⟨rfl, in_turn_of (by decide +kernel), in_turn_of (by decide +kernel), in_turn_of (by decide +kernel), by decide +kernel, by decide +kernel, by decide, by decide +kernel, by decide +kernel, by decide +kernel⟩

theorem test_requests_gated : [booting, recovering, shaded].all (fun s => after (.memRead pkt 3 4 0) s (fun t => replies t == [(3, stBusy, [])])) = true ∧ after (.computePowerUp ⟨false, [], []⟩) recovering (fun t => t == recovering) = true := by decide +kernel

theorem wit_register_access : host.asks pkt 3 true (hubOrSec rBoot) (computeReg rBoot) ∧ Instr.wf (.regRead pkt 3 1 rBoot) = true ∧ rBoot % 8 = 0 ∧ instanceOf rBoot = instanceOf (rBoot + 8) ∧ (instanceOf rBoot).isSome = true ∧
    instanceOf (2 ^ 40) = none ∧ host.asks pkt 3 false false (computeReg rTelctl) ∧ (host.asked pkt 3).writeStatus rTelctl [2 ^ 48] = stOk ∧ (host.asked pkt 3).writeStatus (rTelctl + 1) [0] ≠ stOk :=
  ⟨asks_of (by decide +kernel), by decide, by decide, by decide +kernel, by decide +kernel, by decide +kernel, asks_of (by decide +kernel), by decide +kernel, by decide +kernel⟩

theorem test_reg_read : after (.regRead pkt 3 1 rBoot) host (fun t => replies t == [(3, stOk, toLe 8 (3 * 2 ^ 60))]) = true ∧ after (.regRead pkt 3 0 rBoot) host (fun t => replies t == [(3, stBadRequest, [])]) = true ∧
    after (.regRead pkt 3 513 rBoot) host (fun t => replies t == [(3, stBadRequest, [])]) = true ∧ after (.regRead pkt 3 1 (2 ^ 40)) host (fun t => replies t == [(3, stRange, [])]) = true := by decide +kernel

theorem test_reg_write : after (.regWrite pkt 3 rTelctl [2 ^ 48 + 5]) host (fun t => t.fld rTelctl 63 48 == 1 && t.fld rTelctl 15 0 == 0 && replies t == [(3, stOk, [])]) = true ∧
    after (.regWrite pkt 3 (rTelctl + 1) [0]) host (fun t => replies t == [(3, stBadRequest, [])]) = true := by decide +kernel

theorem wit_register_fields : (wregAt rTelctl).any (fun w => w.flds.any (fun f => f.acc == .rw && f.hi == 63)) = true ∧ rTelctl ≠ rCstore ∧ rTelctl ≠ rTherm ∧ rTelctl ≠ rPtpCtrl ∧ rTelctl ≠ rFacCtrl ∧
    regIndex rTelctl (rTgctl 0) 0x1000 256 = none ∧ regIndex rTelctl (rTalCtrl 0) 0x1000 256 = none ∧ regIndex rTelctl (rDgcfg 0) 8 16 = none ∧ (wregAt (rArith 5)).any (fun w => w.flds.any (fun f => f.acc == .w1c)) = true := by decide +kernel

theorem wit_acting_registers : host.asks pkt 3 false false (computeReg rPtpCtrl) ∧ Instr.wf (.stepNow pkt 3 (2 ^ 53)) = true ∧ bits (2 ^ 53) 53 53 = 1 ∧ Instr.wf (.leakClr pkt 3 1) = true ∧ host.power.wet = false ∧
    host.asks pkt 3 false false (computeReg (rArith 0)) ∧ (host.asked pkt 3).phys 0 = some 5 ∧ host.tally = [] ∧ Instr.wf (.tgReadCheck pkt 3 255 (2 ^ 60)) = true ∧
    (host.asked pkt 3).writeStatus rPtpCtrl [1000 * 2 ^ 16 + 2 ^ 53] = stOk ∧ (host.asked pkt 3).writeStatus rFacCtrl [1] = stOk ∧ (host.asked pkt 3).writeStatus (rArith 0) [255] = stOk ∧
    (host.asked pkt 3).writeStatus (rTalCtrl 255) [1] = stOk ∧ (host.asked pkt 3).writeStatus (rDgcfg 15) [1] = stOk ∧ (host.asked pkt 3).writeStatus rCstore [0] = stOk ∧ (host.asked pkt 3).writeStatus rClient [9] = stOk ∧ (host.asked pkt 3).writeStatus (rTgctl 255) [2 ^ 60 + 3 * 2 ^ 46] = stOk ∧
    [(0 : Nat), 1].all (fun m => bits (m * 2 ^ 60 + 3 * 2 ^ 46) 63 60 == m) = true :=
  ⟨asks_of (by decide +kernel), by decide, by decide, by decide, by decide +kernel, asks_of (by decide +kernel), by decide +kernel, by decide +kernel, by decide, by decide +kernel, by decide +kernel, by decide +kernel, by decide +kernel,
    by decide +kernel, by decide +kernel, by decide +kernel, by decide +kernel, by decide +kernel⟩

theorem test_leak_clr : after (.leakClr pkt 3 1) (host.setFld rFacStat 15 15 1) (fun t => t.fld rFacStat 15 15 == 0 && replies t == [(3, stOk, [])]) = true ∧
    after (.leakClr pkt 3 1) { (host.setFld rFacStat 15 15 1) with power := { host.power with wet := true } } (fun t => t.fld rFacStat 15 15 == 1) = true := by decide +kernel

theorem test_arith_clear : after (.arithFlagClear pkt 3 0 5) (withRegs host [(rArith 5, 7)]) (fun t => t.reg (rArith 5) == 2) = true := by decide +kernel

theorem test_tal_mode : after (.talModeWrite pkt 3 4 1) host (fun t => t.fld (rTalCtrl 4) 1 0 == 1) = true ∧ after (.clientConfig pkt 3 21) host (fun t => t.reg rClient == 21) = true := by decide +kernel

theorem test_digest_config : after (.digestRegionConfig pkt 3 15 (2 ^ 63 + 3 * 2 ^ 20 + 4)) (withRegs host [(rDgst 15, 8)]) (fun t => t.fld (rDgcfg 15) 39 20 == 3 && t.fld (rDgcfg 15) 19 0 == 4 && t.reg (rDgst 15) == 0) = true := by decide +kernel

theorem test_tg : after (.tgReadCheck pkt 3 4 (2 ^ 60 + 3 * 2 ^ 46)) (host.setFld (rHmcStat 4) 63 60 2) (fun t => (t.chan 4).tg.isSome) = true ∧ after (.tgOff pkt 3 4 (3 * 2 ^ 46)) host (fun t => t.fld (rTgctl 4) 63 60 == 0 && replies t == [(3, stOk, [])]) = true := by decide +kernel

theorem wit_swept_region : Instr.wf (.digestRegionConfig pkt 3 15 0) = true ∧ State.asks { host with sweeps := [15] } pkt 3 false false true ∧ valueOk (rDgcfg 15) 1 = true ∧ 15 ∈ (State.asked { host with sweeps := [15] } pkt 3).sweeps :=
  ⟨by decide, asks_of (by decide +kernel), by decide +kernel, by decide +kernel⟩

theorem test_swept_region : after (.digestRegionConfig pkt 3 15 1) { host with sweeps := [15] } (fun t => t.reg (rDgcfg 15) == 0 && replies t == [(3, stBusy, [])]) = true := by decide +kernel

theorem wit_memory_requests : host.asks pkt 3 false false true ∧ Instr.wf (.memRead pkt 3 4096 0) = true ∧ (host.asked pkt 3).mapped 0 4096 = true ∧ (host.asked pkt 3).mapped (hamperDpa - 4) 4096 = false ∧ Instr.wf (.memWrite pkt 3 0 [5]) = true ∧
    (host.asked pkt 3).touchesExtent 0 1 (fun _ => true) = false ∧ (host.asked pkt 3).storeOp = none ∧ (0 : Nat) + 1 ≤ hamperDpa ∧ shaded.inTurn pkt 0 ∧ (shaded.received pkt).computeOn = false ∧
    State.touchesExtent ((devM (devP .running none core0)).asked pkt 3) 4095 1 (fun _ => true) = true :=
  ⟨asks_of (by decide +kernel), by decide, by decide +kernel, by decide +kernel, by decide, by decide +kernel, by decide +kernel, by decide, in_turn_of (by decide +kernel), by decide +kernel, by decide +kernel⟩

/-- Every hub bridge is down. -/
def cutOff : State := withRegs host ((List.range 4).map (fun d => (rLink d 3, 2 ^ 63)))

theorem wit_hub_cut : (cutOff.asked pkt 3).hubCut = true ∧ cutOff.asks pkt 3 false false true ∧ (cutOff.asked pkt 3).mapped 0 4096 = true ∧ (cutOff.asked pkt 3).storeOp = none ∧ (host.asked pkt 3).hubCut = false ∧
    groupOf 0 = 0 ∧ Machine.groupSize 0 ≤ 8 := ⟨by decide +kernel, asks_of (by decide +kernel), by decide +kernel, by decide +kernel, by decide +kernel, by decide +kernel, by decide +kernel⟩

theorem test_hub_cut : after (.memWrite pkt 3 0 [5]) cutOff (fun t => t.mem.byte 0 == 0 && replies t == []) = true := by decide +kernel

theorem test_mem_read : after (.memRead pkt 3 4 0) { host with mem := memT } (fun t => replies t == [(3, stOk, [1, 2, 3, 4])]) = true ∧ after (.memRead pkt 3 4097 0) host (fun t => replies t == [(3, stBadRequest, [])]) = true ∧
    after (.memRead pkt 3 4 (hamperDpa - 3)) host (fun t => replies t == [(3, stRange, [])]) = true := by decide +kernel

theorem test_mem_write : after (.memWrite pkt 3 0 [9, 8, 7, 6, 5, 4, 3, 2]) { host with mem := memT } (fun t => t.mem.byte 7 == 2 && !t.mem.bad 0 && replies t == [(3, stOk, [])]) = true ∧
    after (.memWrite pkt 3 4095 [5]) (devM (devP .running none core0)) (fun t => t.mem.byte 4095 == 0 && replies t == [(3, stRange, [])]) = true := by decide +kernel

/-! ### Loading and requests about programs (04, 12, 14) -/
/-- SHA-256 of `image` with its hash field zero, computed by another program. -/
def imageHash : List Byte := [0x63, 0x2e, 0x09, 0x15, 0xb3, 0x15, 0xc0, 0xff, 0xd9, 0x4a, 0x5e, 0x5f, 0x7a, 0x82, 0xe0, 0xb9, 0x90, 0x6e, 0x19, 0x1a, 0x5e, 0x45, 0x9b, 0xe3, 0x82, 0xb7, 0x08, 0xbe, 0xc0, 0x87, 0x75, 0x3a]

/-- Two entries: BOUNDARY (0x04) and END (0x01). -/
def imageTable : List Byte := toLe 4 2 ++ toLe 16 (4 * 2 ^ 120) ++ toLe 16 (2 ^ 120)

/-- The smallest image (R167): one core of partition 1, a key, two tables, no data. -/
def image : List Byte :=
  [0x4C, 0x58, 0x49, 0x4D, 1, 0, 0, 0, 0, 0, 0, 0, 0, 1, 1, 0] ++ toLe 8 0x3000 ++ toLe 8 0x1000 ++ toLe 8 12 ++ toLe 8 0x2000 ++ toLe 8 72 ++ toLe 8 0x3000 ++ toLe 8 0 ++ imageHash ++ zeroBytes (0x1000 - 0x68) ++
  ([1, 0, 12, 0] ++ toLe 8 0x55 ++ zeroBytes (0x1000 - 12)) ++ (imageTable ++ imageTable ++ zeroBytes (0x1000 - 72))

/-- A READY device without a program that holds the image. -/
def idle : State := devM (withRegs State.reset [(rBoot, 3 * 2 ^ 60), (rPwrStat, 8 * 2 ^ 60 + 2 * 2 ^ 56)])

def loading (m : List Byte) : State := { idle with assembly := some ⟨7, [(0, m)]⟩ }

theorem image_of_one (c : Nat) (m : List Byte) : Assembly.image ⟨c, [(0, m)]⟩ m.length = some m := by
  have h : ∀ l : List Byte, (l.map some).mapM id = some l := by
    intro l
    induction l with
    | nil => rfl
    | cons a r ih => simp [List.mapM_cons, ih]
  simp [Assembly.image, splice, h]

theorem load_image (m : List Byte) : (loading m).assembly.bind (fun a => if a.conn = 7 then a.image m.length else none) = some m := by
  show (if (7 : Nat) = 7 then Assembly.image ⟨7, [(0, m)]⟩ m.length else none) = some m
  rw [if_pos rfl, image_of_one]

theorem wit_images : Instr.wf (.image pkt 3 67108860 [1, 2, 3, 4]) = true ∧ idle.asks pkt 3 false false false ∧ (67108860 : Nat) + [1, 2, 3, 4].length ≤ 67108864 ∧ (idle.asked pkt 3).loadWait = none ∧ (idle.asked pkt 3).assembly = none ∧
    Instr.wf (.load pkt 3 12288 none) = true ∧ idle.asks pkt 3 false false true ∧ (idle.asked pkt 3).loadPlan 7 12288 none = reject 0x0103 ∧ (idle.asked pkt 3).autoTests = [] ∧ (idle.asked pkt 3).coreTesting = false :=
  ⟨by decide, asks_of (by decide +kernel), by decide, by decide +kernel, by decide +kernel, by decide, asks_of (by decide +kernel), by rfl, by decide +kernel, by decide +kernel⟩

theorem test_image : after (.image pkt 3 67108860 [1, 2, 3, 4]) idle (fun t => t.assembly.any (fun x => x.conn == 7 && x.parts == [(67108860, [1, 2, 3, 4])]) && replies t == [(3, stOk, [])]) = true ∧
    after (.image pkt 3 67108861 [1, 2, 3, 4]) idle (fun t => t.assembly == none && replies t == [(3, stBadRequest, [])]) = true := by decide +kernel

theorem test_image_busy : after (.image pkt 3 0 [1]) { idle with assembly := some ⟨8, []⟩ } (fun t => replies t == [(3, stBusy, [])]) = true ∧ after .imageAssemblyTimeout { idle with assembly := some ⟨8, []⟩ } (fun t => t.assembly == none) = true := by decide +kernel

theorem test_load_refused : after (.load pkt 3 12288 none) idle (fun t => replies t == [(3, 0x0103, [])]) = true ∧ after (.load pkt 3 12288 (some ⟨0, 2, 0⟩)) idle (fun t => replies t == [(3, stBadRequest, [])]) = true := by decide +kernel

/-- A START or STEP body for partition 0, with a step block at DPA 64. -/
def stepBody : StepB := ⟨0, true, 2, 0, 64, [7]⟩

theorem wit_program_requests : Instr.wf (.start pkt 3 stepBody) = true ∧ (devM (devP .loaded none core0)).asks pkt 3 false false true ∧ stepBody.words.length ≤ 56 ∧ ((devM (devP .loaded none core0)).asked pkt 3).part 0 = (devP .loaded none core0).part 0 ∧
    ((devP .loaded none core0).part 0).st = .loaded ∧ ((devP .loaded none core0).part 0).blockOk stepBody = true ∧ ((devP .loaded none core0).part 0).blockOk { stepBody with sbdpa := 4096 } = false ∧ stepBody.instant = 0 ∧
    ((devM (devP .loaded none core0)).asked pkt 3).fld rPtpStat 61 61 = 0 ∧ (devM (devP .closed none core0)).asks pkt 3 false false true ∧ stepBody.exp = ((devP .closed none core0).part 0).step + 1 ∧
    ((devP .loaded (some (stepCmd true)) core0).part 0).cmd ≠ none :=
  ⟨by decide, asks_of (by decide +kernel), by decide, by decide +kernel, by decide +kernel, by decide +kernel, by decide +kernel, by decide, by decide +kernel, asks_of (by decide +kernel), by decide +kernel, by decide +kernel⟩

theorem test_start : after (.start pkt 3 stepBody) (devM (devP .loaded none core0)) (fun t => (t.part 0).cmd == some ⟨true, ⟨7, 9, 3⟩, stepBody⟩ && replies t == []) = true ∧
    after (.start pkt 3 { stepBody with part := 8 }) (devM (devP .loaded none core0)) (fun t => replies t == [(3, stBadRequest, [])]) = true ∧ after (.start pkt 3 { stepBody with part := 1 }) (devM (devP .loaded none core0)) (fun t => replies t == [(3, stNoProgram, [])]) = true ∧
    after (.start pkt 3 { stepBody with instant := 1 }) (devM (devP .loaded none core0)) (fun t => replies t == [(3, stNoTime, [])]) = true := by decide +kernel

theorem test_step : after (.step pkt 3 stepBody) (devM (devP .closed none core0)) (fun t => (t.part 0).cmd.any (fun c => !c.start)) = true ∧ after (.step pkt 3 { stepBody with exp := 3 }) (devM (devP .closed none core0)) (fun t => (t.part 0).cmd == none && replies t == [(3, stWrongStep, [])]) = true ∧
    after (.step pkt 3 stepBody) (devM (devP .running (some (stepCmd false)) core0)) (fun t => replies t == [(3, stBusy, [])]) = true ∧ after (.step pkt 3 stepBody) (devM (devP .loaded none core0)) (fun t => replies t == [(3, stBadRequest, [])]) = true := by decide +kernel

theorem test_kill : after (.partitionKill pkt 3 0) host (fun t => t.fld (rTerm 0) 63 56 == tKill && replies t == [(3, stOk, [])]) = true ∧ after (.partitionKill pkt 3 8) host (fun t => t.fld (rTerm 0) 63 56 == 0 && replies t == [(3, stBadRequest, [])]) = true := by decide +kernel

theorem wit_groups : Instr.wf (.groupSet pkt 3 15 true 0 2 1 0 [(9, 1), (11, 2)]) = true ∧ host.asks pkt 3 false false false ∧ (host.asked pkt 3).groupBusy 15 = false ∧ (2 : Nat) = [(9, 1), (11, 2)].length ∧ identities (host.asked pkt 3).groups = 0 :=
  ⟨by decide, asks_of (by decide +kernel), by decide +kernel, by decide, by decide +kernel⟩

theorem test_group_set : after (.groupSet pkt 3 15 true 0 2 1 0 [(9, 1), (11, 2)]) host (fun t => (Tab.find t.groups 15).any (fun g => g.size == 2 && g.rank == 1 && g.host == 0 && Tab.find g.ids 1 == some (11, 2)) && replies t == [(3, stOk, [])]) = true ∧
    after (.groupSet pkt 3 16 true 0 2 1 0 [(9, 1), (11, 2)]) host (fun t => t.groups == [] && replies t == [(3, stBadRequest, [])]) = true := by decide +kernel

/-! ### Tally units, maintenance, unit history (10, 13, 14) -/

/-- A reduction over 4,096 FP32 elements in group 1, on channel 2. -/
def descT : Desc := ⟨2, 1, 0, false, 2, 0, 0, 1, 4096, stackDpa, 4, 1000000, 100, none, zeroBytes 64⟩

def memberT : MemberSide := ⟨[], [], [], false, false, false, [], 0⟩

def holderT : HolderSide := ⟨[], [], [], none, [], [], [], false, false, false, false⟩

def hostT : HostSide := ⟨[(0, (7, 2)), (1, (7, 2))], [0, 1], [], [], [], 0, none, false, true, none, 0⟩

/-- The epoch `ep`, which this device hosts with ranks 0 and 1 admitted. -/
def epochT : Epoch := ⟨ep, 0, descT, 0, 0, 7, 1000000000, 500000000, true, true, some [0, 1], false, false, none, [], [], false, some hostT, memberT, holderT⟩

/-- The device within an epoch; the peer 11 is rank 1 of group 1. -/
def inEpoch (e : Epoch) : State :=
  { (host.updPart 0 (fun p => { p with descs := [descT], opens := [5], stageBase := 8192, staging := 1 })) with epochs := [(2, e)], groups := [(1, ⟨3, 0, 0, [(0, (1, 0)), (1, (11, 0)), (2, (13, 0))]⟩)] }

/-- A batch of one addition, on the first element, of the block of rank 1 that stands in staging entry 0. -/
def batchT : Batch := ⟨0, stackDpa, none, 2, 1, 0, 8192, 1⟩

/-- The batch waits at channel 0, in STATE `st`; its word is 1.0, its entry is taken, and `n` contributions of its element have been added. -/
def adding (st n : Nat) : State :=
  { (withRegs (inEpoch { epochT with holder := { holderT with staged := [⟨1, 0, 0, true⟩], counts := [(0, n)] } }) [(rHmcStat 0, st * 2 ^ 60)]) with
    tally := [batchT]
    mem := State.reset.mem.writeB 8192 [(0, false), (0, false), (0x80, false), (0x3F, true)] }

theorem wit_tally_adds : (adding 2 0).tally.find? (fun b => b.chan == 0) = some batchT ∧ ((adding 2 0).epoch batchT.rch).any (fun e => e.name.rch == batchT.rch) = true ∧ [2, 5].all (fun st => (adding st 0).batchReady batchT && (adding st 0).chanState 0 == st) = true ∧ (adding 3 0).batchReady batchT = false ∧
    batchT.comp = none ∧ batchT.len ≤ 16 ∧ batchT.addr % 64 = 0 ∧ (adding 2 0).keyOf batchT.addr = some batchT.addr ∧ (adding 2 0).faultyAt batchT.addr = false ∧ (∀ x ∈ (adding 2 0).tally.erase batchT, ¬ (x.rch = batchT.rch ∧ x.rank = batchT.rank ∧ x.first = batchT.first)) ∧
    (let s : State := { (adding 2 0) with tally := [batchT, { batchT with addr := stackDpa + 64 }] }
     (s.tally.erase batchT).any (fun x => x.rch == batchT.rch && x.rank == batchT.rank && x.first == batchT.first)) = true := by decide +kernel

theorem test_tally_add : after (.tallyAdd 0 ⟨false, [], []⟩) (adding 2 0) (fun t => t.mem.word32 stackDpa == 0x3F800000 && t.mem.bad (stackDpa + 3) && t.fld (rTalAdds 0) 63 0 == 1 && t.tally == [] && (t.epoch 2).any (fun e => e.holder.staged == [] && Tab.get e.holder.counts 0 0 == 1)) = true ∧
    after (.tallyAdd 0 ⟨false, [], []⟩) { (adding 2 1) with mem := (adding 2 1).mem.writeB stackDpa [(0, false), (0, false), (0x80, false), (0x3F, false)] } (fun t => t.mem.word32 stackDpa == 0x40000000) = true ∧
    after (.tallyAdd 0 ⟨false, [], []⟩) (adding 3 0) (fun t => t == adding 3 0) = true := by decide +kernel

/-- A pack for core units; the running firmware meets its MINFW. -/
def packT : Pack := ⟨3, 1, 2, 0, 5, []⟩

/-- A device with the pack, with no program. -/
def packed : State := { idle with flash := { idle.flash with packs := [(0, packT)] } }

theorem wit_maintenance_units : Instr.wf (.runTestPack pkt 3 3 0x1087) = true ∧ packed.asks pkt 3 false false true ∧ packed.asks pkt 3 false false false ∧ (packed.asked pkt 3).packOf 3 = some packT ∧ unitOk 0x1087 = true ∧ unitOk 0x1088 = false ∧
    (packed.asked pkt 3).packTests packT 0x1087 = true ∧ (packed.asked pkt 3).testBusy 0x1087 = false ∧ State.testBusy { packed with runs := [⟨3, 0x1087, 0⟩] } 0x1087 = true ∧ (packed.asked pkt 3).packOf 4 = none ∧
    packed.loadWait = none ∧ (State.runs { packed with runs := [⟨3, 0x1087, 0⟩] }).find? (fun x => x.unit == 0x1087) = some ⟨3, 0x1087, 0⟩ ∧ Instr.wf (.testComplete 0x1087 true) = true ∧
    (packed.asked pkt 3).update = none ∧ (State.asked { packed with update := some ⟨7, 1, false, [], [], 0⟩ } pkt 3).update ≠ none ∧ Instr.wf (.setModuleConfiguration pkt 3 factoryConfig) = true ∧ configOk factoryConfig = true ∧ configOk [] = false :=
  ⟨by decide, asks_of (by decide +kernel), asks_of (by decide +kernel), by decide +kernel, by decide, by decide, by decide +kernel, by decide +kernel, by decide +kernel, by decide +kernel, by decide +kernel, by decide +kernel, by decide, by decide +kernel, by decide +kernel,
    by decide +kernel, by decide +kernel, by decide⟩

theorem test_run_pack : after (.runTestPack pkt 3 3 0x1087) packed (fun t => t.runs == [⟨3, 0x1087, t.now⟩] && t.fld rTest 63 60 == 1 && t.fld rTest 47 32 == 3 && t.fld rTest 31 16 == 0x1087 && replies t == [(3, stOk, [])]) = true ∧
    after (.runTestPack pkt 3 4 0x1087) packed (fun t => t.runs == [] && t.fld rTest 63 60 == 4 && replies t == [(3, stBadRequest, [])]) = true ∧
    after (.runTestPack pkt 3 3 0x3000) packed (fun t => replies t == [(3, stBadRequest, [])]) = true := by decide +kernel

theorem test_test_ends : after (.testComplete 0x1087 true) { packed with runs := [⟨3, 0x1087, 0⟩] } (fun t => t.runs == [] && t.fld rTest 63 60 == 3 && t.events.map UEvent.kind == [evTestFail]) = true ∧
    after (.testComplete 0x1087 false) { packed with runs := [⟨3, 0x1087, 0⟩] } (fun t => t.fld rTest 63 60 == 2 && t.events.map UEvent.kind == [evTestPass]) = true ∧
    after (.testRunmaxExpiry 0x1087) { packed with runs := [⟨3, 0x1087, 0⟩] } (fun t => t.runs == [] && t.now == 5000000 && t.events.map UEvent.kind == [evTestFail]) = true := by decide +kernel

theorem test_fence_unit : after (.fenceUnit pkt 3 0x1087) packed (fun t => t.events.map (fun e => (e.unit, e.kind)) == [(0x1087, evDirect)] && replies t == [(3, stOk, [])]) = true ∧
    after (.fenceUnit pkt 3 0x1088) packed (fun t => t.events == [] && replies t == [(3, stBadRequest, [])]) = true := by decide +kernel

theorem test_clear_record : after (.clearUnitRecord pkt 3 0x1087) { packed with flash := { packed.flash with units := [(0x1087, { UnitRec.reset with state := 2, direct := true, ue := 4 })] } } (fun t => (t.unitRec 0x1087).state == 0 && !(t.unitRec 0x1087).direct && (t.unitRec 0x1087).ue == 4) = true := by decide +kernel

theorem test_delete_pack : after (.deleteTestPack pkt 3 3) packed (fun t => t.flash.packs == [] && replies t == [(3, stOk, [])]) = true ∧
    after (.deleteTestPack pkt 3 3) { packed with update := some ⟨7, 1, false, [], [], 0⟩ } (fun t => t.flash.packs == [(0, packT)] && replies t == [(3, stBusy, [])]) = true := by decide +kernel

theorem test_set_config : after (.setModuleConfiguration pkt 3 factoryConfig) packed (fun t => replies t == [(3, stOk, [])]) = true ∧ after (.setModuleConfiguration pkt 3 (factoryConfig.take 63 ++ [1])) packed (fun t => t.flash.stored == factoryConfig && replies t == [(3, stBadRequest, [])]) = true := by decide +kernel

theorem wit_maintenance_starts : Instr.wf (.startMarch pkt 3 511 true) = true ∧ idle.asks pkt 3 false false true ∧ (idle.asked pkt 3).fld (rSlcMarch 511) 63 60 = 0 ∧ (idle.asked pkt 3).anyLoaded = false ∧ (host.asked pkt 3).anyLoaded = true ∧
    host.asks pkt 3 false false true ∧ ((idle.setFld (rSlcMarch 511) 63 60 2).asked pkt 3).fld (rSlcMarch 511) 63 60 = 2 ∧ ((idle.setFld (rHmcStat 255) 63 60 2).asked pkt 3).chanState 255 = 2 ∧ (idle.asked pkt 3).channelTest 255 = false ∧
    (idle.asked pkt 3).retraining = none ∧ ((idle.setFld (rHmcStat 0) 63 60 3).asked pkt 3).retraining ≠ none ∧ ((idle.setReg (rDgcfg 15) (2 ^ 63)).asked pkt 3).fld (rDgcfg 15) 63 63 = 1 ∧ (idle.asked pkt 3).fld (rDgcfg 15) 63 63 = 0 ∧
    (idle.asked pkt 3).sweeps.contains 15 = false ∧ (idle.asked pkt 3).offTest = false ∧ (idle.asked pkt 3).tgWrites = false ∧ (idle.asked pkt 3).restore = none :=
  ⟨by decide, asks_of (by decide +kernel), by decide +kernel, by decide +kernel, by decide +kernel, asks_of (by decide +kernel), by decide +kernel, by decide +kernel, by decide +kernel, by decide +kernel, by decide +kernel, by decide +kernel, by decide +kernel,
    by decide +kernel, by decide +kernel, by decide +kernel, by decide +kernel⟩

theorem test_start_march : after (.startMarch pkt 3 511 false) host (fun t => t.fld (rSlcMarch 511) 63 60 == 1 && replies t == [(3, stOk, [])]) = true ∧ after (.startMarch pkt 3 511 true) host (fun t => t.fld (rSlcMarch 511) 63 60 == 0 && replies t == [(3, stBusy, [])]) = true ∧
    after (.startMarch pkt 3 512 false) host (fun t => replies t == [(3, stBadRequest, [])]) = true := by decide +kernel

/-- A march of slice 511 runs. -/
def marched (kind : Nat) : State := idle.setFld (rSlcMarch 511) 63 60 kind

theorem wit_stop_march : [1, 2].all (fun k => ((marched k).asked pkt 3).fld (rSlcMarch 511) 63 60 == k) = true ∧ (marched 2).asks pkt 3 false false true ∧ Instr.wf (.stopMarch pkt 3 511) = true ∧ (idle.asked pkt 3).fld (rSlcMarch 511) 63 60 ≠ 2 :=
  ⟨by decide +kernel, asks_of (by decide +kernel), by decide, by decide +kernel⟩

theorem test_stop_march : after (.stopMarch pkt 3 511) host (fun t => replies t == [(3, stOk, [])]) = true := by decide +kernel

theorem test_retrain : after (.retrainChannel pkt 3 255) (idle.setFld (rHmcStat 255) 63 60 2) (fun t => t.chanState 255 == 3 && replies t == [(3, stOk, [])]) = true ∧
    after (.retrainChannel pkt 3 255) idle (fun t => replies t == [(3, stBadRequest, [])]) = true := by decide +kernel

theorem test_sweep : after (.digestSweep pkt 3 15) (withRegs idle [(rDgcfg 15, 2 ^ 63), (rDgsacc 255 15, 6)]) (fun t => t.sweeps == [15] && t.reg (rDgsacc 255 15) == 0 && replies t == [(3, stOk, [])]) = true ∧
    after (.digestSweep pkt 3 15) idle (fun t => t.sweeps == [] && replies t == [(3, stBadRequest, [])]) = true := by decide +kernel

/-- An uncorrectable error of core unit 5 waits. -/
def eventful : State := { idle with events := [⟨0x1005, evUe, 7, 0⟩, ⟨0x1006, evCe, 8, 1⟩] }

theorem wit_unit_history : eventful.collector.1 = 0 ∧ eventful.loadWait = none ∧ eventful.events = [⟨0x1005, evUe, 7, 0⟩, ⟨0x1006, evCe, 8, 1⟩] ∧ idle.events = [] ∧
    (UnitRec.judge { UnitRec.reset with direct := true } ⟨1, 1, 1, 1⟩ 0).1 = 2 ∧ (UnitRec.judge UnitRec.reset ⟨1, 1, 1, 1⟩ 0).1 = 0 := by decide +kernel

theorem test_event_commit : after .unitEventCommit eventful (fun t => t.events == [⟨0x1006, evCe, 8, 1⟩] && (t.unitRec 0x1005).ue == 1 && (t.unitRec 0x1005).ueT == [7] && Tab.find t.flash.ring 0 == some ⟨0x1005, evUe, 7, 0⟩) = true ∧
    after .unitEventCommit idle (fun t => t.flash == idle.flash) = true ∧ after .hourlyClassification idle (fun t => t.flash == idle.flash) = true := by decide +kernel

/-! ### Resets, power, cooling (14, 15) -/

/-- Powered hub, supply and coolant as they should be; STATE 2. -/
def powering : State := withRegs State.reset [(rBoot, 2 * 2 ^ 60), (rFacStat, 2 ^ 13 + 2 ^ 14)]

/-- No unit is recorded as failing, no router and no channel has failed, no slot is removed. -/
def Sound (s : State) : Prop :=
  s.flash.units = [] ∧ s.flash.badRows = [] ∧ (∀ d < 4, s.reg (rRtr d) = 0) ∧ (∀ q < 256, s.fld (rHmcStat q) 63 60 ≠ 5) ∧ s.reg rMap = 0

/-- A register that `Sound` does not speak of. -/
def away (a : Nat) : Prop := (∀ d < 4, rRtr d ≠ a) ∧ (∀ q < 256, rHmcStat q ≠ a) ∧ rMap ≠ a

theorem sound_setReg {s : State} {a : Nat} (v : Nat) (ha : away a) (h : Sound s) : Sound (s.setReg a v) :=
  ⟨h.1, h.2.1, fun d hd => (s.reg_setReg_ne v (ha.1 d hd)).trans (h.2.2.1 d hd), fun q hq => by rw [s.fld_setReg_other v 63 60 (ha.2.1 q hq)]; exact h.2.2.2.1 q hq,
    (s.reg_setReg_ne v ha.2.2).trans h.2.2.2.2⟩

theorem sound_setFld {s : State} {a : Nat} (hi lo v : Nat) (ha : away a) (h : Sound s) : Sound (s.setFld a hi lo v) := sound_setReg _ ha h

theorem sound_fold {α : Type} {f : State → α → State} {l : List α} (hf : ∀ s, ∀ x ∈ l, Sound s → Sound (f s x)) : ∀ {s : State}, Sound s → Sound (l.foldl f s) := by
  induction l with
  | nil => exact id
  | cons a r ih => exact fun h => ih (fun s x hx => hf s x (List.mem_cons_of_mem _ hx)) (hf _ a List.mem_cons_self h)

theorem sound_lasting {s : State} (h : Sound s) (u : Nat) : s.lasting u = false := by simp [State.lasting, State.unitRec, h.1, Tab.get, UnitRec.reset]

theorem sound_unfit {s : State} (h : Sound s) : s.unfit = false := by
  have h1 : ∀ d ∈ List.range 4, s.slicesLost d = false := fun d hd => by
    simp only [State.slicesLost, State.fld, h.2.2.1 d (List.mem_range.1 hd)]; decide
  have h2 : s.faultySlots = [] := by
    simp only [State.faultySlots, List.filter_eq_nil_iff, List.mem_range]
    intro t ht
    have hq : chanOf t < 256 := by unfold chanOf; omega
    simpa [State.chanFaulty] using h.2.2.2.1 _ hq
  have h3 : (List.range 4).any s.slicesLost = false := by simpa using h1
  simp only [State.unfit, h.2.1, h2, State.fld, h.2.2.2.2, h3]
  decide

theorem rtr_ne {d q : Nat} (_ : d < 4) : rRtr d ≠ rHmcStat q := by
  simp only [rRtr, rHmcStat, fabDieB, hmcB]; omega

theorem map_ne {q : Nat} (_ : q < 256) : rMap ≠ rHmcStat q := by
  simp only [rMap, rHmcStat, hmcGlobB, hmcB]; omega

theorem stat_ne {q j : Nat} (h : j ≠ q) : rHmcStat j ≠ rHmcStat q := by
  simp only [rHmcStat]; omega

theorem sound_stat {s t : State} {q : Nat} (v : Nat) (hq : q < 256) (hv : v % 2 ^ (63 + 1 - 60) ≠ 5) (h : Sound s) (ht : t = s.setFld (rHmcStat q) 63 60 v) : Sound t := by
  obtain ⟨h1, h2, h3, h4, h5⟩ := h
  have hf : t.flash = s.flash := by rw [ht]; exact State.setFld_flash ..
  refine ⟨by rw [hf]; exact h1, by rw [hf]; exact h2, fun d hd => ?_, fun j hj => ?_, ?_⟩
  · rw [ht, State.reg_setFld_ne _ _ _ _ (rtr_ne hd)]; exact h3 d hd
  · by_cases e : j = q
    · rw [e, ht, State.fld_setFld_self _ _ _ _ _ (by decide) (by decide)]; exact hv
    · rw [ht, State.fld_setFld_other _ _ _ _ _ _ (stat_ne e)]; exact h4 j hj
  · rw [ht, State.reg_setFld_ne _ _ _ _ (map_ne hq)]; exact h5

theorem sound_channels {s : State} (h : Sound s) : Sound s.startChannels := by
  unfold State.startChannels
  refine sound_fold ?_ h
  intro s q hq h
  refine sound_stat _ (List.mem_range.1 hq) ?_ h rfl
  have := h.2.2.2.1 q (List.mem_range.1 hq)
  simp only [this, sound_lasting h, false_or, Bool.false_eq_true, if_false]
  split <;> decide

theorem away_of {a : Nat} (h : a < hmcB) (h0 : a < fabDieB ∨ fabDieB ≤ a ∧ a % 0x1000 < 0x130) : away a := by
  simp only [away, rRtr, rHmcStat, rMap, fabDieB, hmcB, hmcGlobB] at *
  exact ⟨fun d _ => by omega, fun q _ => by omega, by omega⟩

theorem away_over {a : Nat} (h : rMap < a) : away a := by
  simp only [away, rRtr, rHmcStat, rMap, fabDieB, hmcB, hmcGlobB] at *
  exact ⟨fun d _ => by omega, fun q _ => by omega, by omega⟩

theorem away_link : ∀ d < 4, ∀ n < 4, ∀ a ∈ rLink d n :: linkRegs d n, away a := by
  intro d hd n hn a ha
  have : a < hmcB ∧ fabDieB ≤ a ∧ a % 0x1000 < 0x130 := by
    revert a; revert n; revert d; decide
  exact away_of this.1 (.inr this.2)

theorem sound_links {s : State} (h : Sound s) : Sound s.startLinks := by
  have hm : ∀ e ∈ (List.range 4).flatMap (fun d => (List.range 4).map (fun n => (d, n))), e.1 < 4 ∧ e.2 < 4 := by decide
  unfold State.startLinks
  refine sound_fold (fun s e he h => ?_) (sound_fold (fun s e he h => ?_) h)
  · rw [sound_lasting h]; exact h
  · exact sound_setFld _ _ _ (away_link _ (hm e he).1 _ (hm e he).2 _ List.mem_cons_self) h

theorem sound_routers {s : State} (h : Sound s) : Sound s.startRouters := sound_fold (fun s r _ h => by rw [sound_lasting h]; exact h) h

theorem away_dsup {d : Nat} (h : d < 4) : away (rDsup d) := by
  refine away_of ?_ (.inl ?_) <;> simp only [rDsup, dsupB, hmcB, fabDieB] <;> omega

theorem away_hub {a : Nat} (h : a ≤ hubB + 0xF00) : away a := by
  have e : hubB = 0x7F0000000000 := rfl
  have e1 : fabDieB = 0x7F0400100000 := rfl
  have e2 : hmcB = 0x7F0500000000 := rfl
  exact away_of (by omega) (.inl (by omega))

theorem away_sum : away rCmapSum := away_hub (Nat.le_refl _)

theorem away_boot : away rBoot := away_hub (Nat.le_add_right hubB 0xF00)

theorem away_rmv : away rRmv := away_over (by simp only [rMap, rRmv]; omega)

theorem away_pwr : away rPwrStat := away_over (by simp only [rMap, rPwrStat, pwrB, hmcGlobB]; omega)

theorem away_fac : away rFacStat := away_over (by simp only [rMap, rFacStat, facB, hmcGlobB]; omega)

theorem away_arb {d : Nat} (h : d < 4) : away (rArbCtrl d) := by
  refine away_of ?_ (.inr ?_) <;> simp only [rArbCtrl, hmcB, fabDieB] <;> omega

theorem sound_dies {s : State} (h : Sound s) : Sound s.startDies := by
  refine sound_setFld _ _ _ away_sum (sound_setFld _ _ _ away_sum (sound_fold (fun s k hk h => ?_) (sound_fold (fun s d hd h => ?_) h)))
  · exact sound_setFld _ _ _ (away_dsup (by have := List.mem_range.1 hk; omega)) h
  · exact sound_setFld _ _ _ (away_dsup (List.mem_range.1 hd)) h

theorem sound_reset : Sound State.reset := ⟨rfl, rfl, by decide +kernel, by decide +kernel, by decide +kernel⟩

theorem sound_powering : Sound powering := sound_setReg _ away_fac (sound_setReg _ away_boot sound_reset)

theorem sound_map {s : State} (h : Sound s) : Sound ((s.setReg rMap 0).setReg rRmv 0) := by
  refine sound_setReg _ away_rmv ?_
  refine ⟨h.1, h.2.1, fun d hd => (State.reg_setReg_ne _ _ ?_).trans (h.2.2.1 d hd), fun q hq => ?_, ?_⟩
  · simp only [rRtr, rMap, hmcGlobB, fabDieB]; omega
  · rw [State.fld_setReg_other _ _ _ _ (map_ne hq).symm]; exact h.2.2.2.1 q hq
  · exact State.reg_setReg_self _ _ _

theorem sound_arb {s : State} (h : Sound s) : Sound s.setArb := by
  unfold State.setArb
  refine sound_fold ?_ h
  exact fun s d hd h => sound_setFld _ _ _ (away_arb (List.mem_range.1 hd)) h

theorem sound_compute {s : State} (h : Sound s.powerDies) (h1 : s.flash.mapWord = 0) (h2 : s.flash.removedWord = 0) : Sound s.startCompute := by
  unfold State.startCompute
  rw [h1, h2]
  exact sound_arb (sound_setFld _ _ _ away_boot (sound_setFld _ _ _ away_pwr (sound_setFld _ _ _ away_pwr (sound_dies (sound_routers (sound_links (sound_channels (sound_map h))))))))

theorem powering_fit : powering.startCompute.unfit = false := sound_unfit (sound_compute (s := powering) sound_powering rfl rfl)

/-- The same with the stacks in self-refresh. -/
def warmStacks : State := { powering with power := { powering.power with stacksOn := true } }

theorem warm_fit : warmStacks.startCompute.unfit = false := sound_unfit (sound_compute (s := warmStacks) sound_powering rfl rfl)

theorem train_none (s : State) (b : Bool) : s.trainFull b [] [] = s := rfl

theorem compute_up : exec (.computePowerUp ⟨false, [], []⟩) powering = .next powering.startCompute := by
  have h1 : powering.fld rBoot 63 60 = 2 := by decide +kernel
  have h2 : powering.canWake = true := by decide +kernel
  show execComputePowerUp ⟨false, [], []⟩ powering = _
  unfold execComputePowerUp guardWf
  simp [h1, h2, train_none, powering_fit, Instr.wf]

/-- The same with 17 failing rows in one bank of a slice. -/
def worn : State := { powering with flash := { powering.flash with badRows := (List.range 17).map (fun r => (0, 0, r)) } }

theorem wit_worn : worn.fld rBoot 63 60 = 2 ∧ worn.canWake = true ∧ (worn.startCompute.trainFull true [] []).unfit = true := by decide +kernel

/-- A running trial that has not reached READY. -/
def trying : State := withRegs State.reset [(rBoot, 2 * 2 ^ 60 + 2 ^ 58)]

theorem wit_resets : Instr.wf (.powerOnReset ⟨[0, 255], [1]⟩) = true ∧ State.reset.power.lockOut = false ∧ (Power.lockOut { Power.reset with lockOut := true }) = true ∧ State.reset.power.railsOff = false ∧ (Power.okIn { Power.reset with railsOff := true, okIn := 9999 }) < 10000 ∧ 10000 ≤ (Power.okIn { Power.reset with railsOff := true, okIn := 10000 }) ∧ Instr.wf (.warmReset pkt 3) = true ∧ recovering.asks pkt 3 false true false ∧
    trying.fld rBoot 58 58 = 1 ∧ trying.fld rBoot 63 60 ≠ 3 ∧ trying.fld rBoot 63 60 ≠ 6 ∧ host.fld rBoot 58 58 = 0 ∧ host.flash.pick.1 = some false ∧ (15 : Nat) < 16 :=
  ⟨by decide, by decide, by decide, by decide, by decide, by decide, by decide, asks_of (by decide +kernel), by decide +kernel, by decide +kernel, by decide +kernel, by decide +kernel, by rfl, by decide⟩

theorem test_power_on : after (.powerOnReset ⟨[0, 255], [1]⟩) { host with mem := memT } (fun t => t.flash.boots == 1 && t.mem.byte 0 == 0 && t.flash.keys == host.flash.keys && t.conns == [] && !t.power.railsOff && t.events.map UEvent.unit == [unitChan 0, unitChan 255]) = true ∧
    after (.powerOnReset ⟨[], []⟩) { host with power := { host.power with lockOut := true } } (fun t => t.conns == host.conns) = true := by decide +kernel

theorem test_power_on_repairs : after (.powerOnReset ⟨[], [1]⟩) { host with flash := { host.flash with chanRows := [(1, 0, 0, 7), (2, 0, 0, 7)] } } (fun t => t.flash.chanRows == [(1, 0, 0, 7)] && t.events.map UEvent.unit == [unitChan 1]) = true ∧
    [(9999, true), (10000, false)].all (fun e => after (.powerOnReset ⟨[], []⟩) { host with power := { host.power with railsOff := true, okIn := e.1 } } (fun t => t.power.railsOff == e.2)) = true := by decide +kernel

theorem test_warm_reset : after (.warmReset pkt 3) { idle with mem := memT.writeB stackDpa [(9, false)] } (fun t => t.mem.byte 0 == 0 && t.mem.byte stackDpa == 9 && t.flash.boots == 1 && t.conns == []) = true ∧
    after .trialWatchdog trying (fun t => t.flash.boots == 1) = true ∧ after .trialWatchdog idle (fun t => t == idle) = true := by decide +kernel

theorem wit_compute_power : powering.fld rBoot 63 60 = 2 ∧ powering.canWake = true ∧ (powering.startCompute.trainFull (!powering.power.stacksOn) [] []).unfit = false ∧ Instr.wf (.computePowerUp ⟨false, [255], [255]⟩) = true ∧ powering.power.stacksOn = false ∧ idle.fld rBoot 63 60 ≠ 2 ∧ (withRegs State.reset [(rBoot, 2 * 2 ^ 60)]).canWake = false ∧ idle.asks pkt 3 false false false ∧ shaded.asks pkt 3 false false false ∧
    Instr.wf (.enterShade pkt 3) = true ∧ Instr.wf (.leaveShade pkt 3) = true ∧ (shaded.asked pkt 3).fld rBoot 63 60 = 6 ∧ (idle.asked pkt 3).fld rBoot 63 60 ≠ 6 ∧ (idle.asked pkt 3).anyLoaded = false ∧ (idle.asked pkt 3).anyActivity = false ∧
    (host.asked pkt 3).anyLoaded = true ∧ host.asks pkt 3 false false false ∧ (shaded.asked pkt 3).canWake = false ∧ ((shaded.setFld rFacStat 13 13 1).asked pkt 3).canWake = true :=
  ⟨by decide +kernel, by decide +kernel, (congrArg State.unfit (train_none _ _)).trans powering_fit, by decide, by decide +kernel, by decide +kernel, by decide +kernel, asks_of (by decide +kernel), asks_of (by decide +kernel), by decide, by decide, by decide +kernel, by decide +kernel, by decide +kernel, by decide +kernel, by decide +kernel,
    asks_of (by decide +kernel), by decide +kernel, by decide +kernel⟩

theorem wit_warm_stacks : warmStacks.fld rBoot 63 60 = 2 ∧ warmStacks.canWake = true ∧ (warmStacks.startCompute.trainFull (!warmStacks.power.stacksOn) [] []).unfit = false ∧ warmStacks.power.stacksOn = true :=
  ⟨by decide +kernel, by decide +kernel, (congrArg State.unfit (train_none _ _)).trans warm_fit, by decide +kernel⟩

theorem test_compute_up : powering.startCompute.started = false ∧ powering.startCompute.power.stacksOn = true ∧ powering.startCompute.mem.byte 0 = 0 := by decide +kernel

theorem test_compute_up_twice : after (.computePowerUp ⟨true, [], []⟩) idle (fun t => t == idle) = true := by decide +kernel

theorem test_shade : after (.enterShade pkt 3) { idle with mem := memT.writeB stackDpa [(9, false)] } (fun t => t.fld rBoot 63 60 == 6 && t.fld rPwrStat 57 56 == 0 && t.mem.byte 0 == 0 && t.mem.byte stackDpa == 9 && t.fld (rDsup 3) 63 60 == 3 && replies t == [(3, stOk, [])]) = true ∧
    after (.enterShade pkt 3) host (fun t => t.fld rBoot 63 60 == 3 && replies t == [(3, stBusy, [])]) = true ∧ after (.leaveShade pkt 3) shaded (fun t => t.fld rBoot 63 60 == 6 && replies t == [(3, stBusy, [])]) = true ∧
    after (.leaveShade pkt 3) (shaded.setFld rFacStat 13 13 1) (fun t => t.fld rBoot 63 60 == 2 && t.fld rPwrStat 57 56 == 1) = true := by decide +kernel

theorem test_hub_die : after (.hubDieTemperature 110 false) { shaded with mem := Memory.empty.writeB stackDpa [(9, false)], power := { shaded.power with stacksOn := true } } (fun t => !t.power.stacksOn && t.mem.byte stackDpa == 0 && !t.power.railsOff) = true ∧
    after (.hubDieTemperature 115 false) shaded (fun t => t.power.railsOff && t.power.lockOut && t.flash.keys == shaded.flash.keys) = true ∧ after (.hubDieTemperature 109 false) shaded (fun t => t == shaded) = true ∧ after (.hubDieTemperature 200 true) host (fun t => t == host) = true := by decide +kernel

/-- A device with counts of bad samples. -/
def weak (a b : Nat) : State := { idle with power := { idle.power with under30 := a, under24 := b } }

theorem wit_supply : Instr.wf (.supplySample 42001 131071) = true ∧ Instr.wf (.supplySample 0 0) = true ∧ idle.power.railsOff = false ∧ (idle.dark).power.railsOff = true ∧ idle.computeOn = true ∧ shaded.computeOn = false ∧ idle.fld rPwrStat 63 60 ≤ 8 ∧
    (∃ e ∈ (State.limits { idle with power := { idle.power with samples := [(36000, 120000)] } }), 98 * e.2 < 100 * e.1) ∧ (∀ e ∈ (State.limits { (withRegs idle [(rPwrCtrl, 3000 * 2 ^ 48 + 3000 * 2 ^ 32)]) with power := { idle.power with samples := [(36000, 1000)] } }), 100 * e.1 < 95 * e.2) := by decide +kernel

theorem test_supply : after (.supplySample 36000 50000) idle (fun t => t.fld rPwrStat 59 58 == 0 && t.fld rPwrSense 63 48 == 36000 && t.fld rPwrSense 47 32 == 5000 && t.fld rPwrSense 31 16 == 1800 && t.fld rPwrSense 15 0 == 1800) = true ∧
    after (.supplySample 31999 0) idle (fun t => t.fld rPwrStat 59 58 == 1) = true ∧ after (.supplySample 42000 0) idle (fun t => t.fld rPwrStat 59 58 == 2 && !t.power.railsOff) = true ∧ after (.supplySample 42001 0) idle (fun t => t.power.railsOff) = true := by decide +kernel

theorem test_supply_zero : after (.supplySample 0 0) { ((idle.dark).setFld rFacStat 15 15 1) with power := { idle.dark.power with lockOut := true } } (fun t => t.power.railsOff && !t.power.lockOut && t.fld rFacStat 15 15 == 0) = true := by decide +kernel

/-- The limiter: stage 8, 3,000 W set, a sample of a given current, and the time since the last change. -/
def limited (stage ma at1 : Nat) : State := { (withRegs idle [(rPwrStat, stage * 2 ^ 60 + 2 * 2 ^ 56), (rPwrCtrl, 3000 * 2 ^ 48 + 3000 * 2 ^ 32)]) with power := { idle.power with samples := [(36000, ma)], stageAt := at1 } }

theorem test_limiter : after .limiterTick (limited 8 99000 0) (fun t => t.fld rPwrStat 63 60 == 7 && t.power.stageAt == 0) = true ∧ after .limiterTick (limited 1 99000 0) (fun t => t.fld rPwrStat 63 60 == 1) = true ∧
    after .limiterTick (limited 7 1000 9) (fun t => t.fld rPwrStat 63 60 == 8) = true ∧ after .limiterTick (limited 7 1000 8) (fun t => t.fld rPwrStat 63 60 == 7 && t.power.stageAt == 9) = true ∧ after .limiterTick shaded (fun t => t == shaded) = true := by decide +kernel

/-- Counts of coolant samples. -/
def cooled (ok low bad : Nat) : State := { idle with power := { idle.power with okMs := ok, lowMs := low, badMs := bad } }

theorem test_supply_dark : [(32000, 1), (40000, 1), (31999, 0), (40001, 0)].all (fun e => after (.supplySample e.1 0) idle.dark (fun t => t.power.railsOff && t.power.okIn == e.2)) = true := by decide +kernel

theorem wit_coolant : Instr.wf (.coolantSample (-32768) 32767 65535 true) = true ∧ (cooled 99 999 98).power.railsOff = false ∧ idle.dark.power.railsOff = true ∧ (idle.fld rFacStat 15 15 = 0) ∧ (idle.setFld rFacStat 15 15 1).fld rFacStat 15 15 = 1 := by decide +kernel

theorem test_coolant : after (.coolantSample 4000 5000 450 false) (cooled 99 0 0) (fun t => t.fld rFacStat 13 13 == 1 && t.fld rFacStat 63 48 == 4000 && t.fld rFacStat 47 32 == 5000 && t.fld rFacStat 31 16 == 450) = true ∧
    after (.coolantSample (-1) 0 449 false) (cooled 500 999 0) (fun t => t.fld rFacStat 13 13 == 0 && t.power.heldLow && t.fld rFacStat 63 48 == 65535) = true := by decide +kernel

theorem test_coolant_bad : after (.coolantSample 0 6001 500 false) (cooled 0 0 99) (fun t => t.fld rPwrStat 55 52 == 2 && t.fld rBoot 63 60 == 6) = true ∧ after (.coolantSample 0 6001 500 false) (cooled 0 0 98) (fun t => t.fld rBoot 63 60 == 3) = true := by decide +kernel

theorem test_leak : after (.coolantSample 0 0 500 true) (idle.setFld rFacStat 14 14 1) (fun t => t.fld rFacStat 15 15 == 1 && t.fld rFacStat 14 14 == 0 && t.fld rPwrStat 55 52 == 3 && t.fld rBoot 63 60 == 6 && !t.power.stacksOn) = true ∧
    after (.coolantSample 0 0 500 true) shaded (fun t => t.fld rFacStat 15 15 == 1) = true := by decide +kernel

theorem test_facility : after .facilityStatus (withRegs idle [(rFacStat, 2500 * 2 ^ 48 + 3000 * 2 ^ 32 + 800 * 2 ^ 16 + 2 ^ 14)]) (fun t => t.outbox == [.facStatus 2500 3000 800 0 1 2 0]) = true ∧
    after (.valve 9 1) idle (fun t => t.fld rFacStat 14 14 == 1 && t.fld rFacCnt 63 48 == 1 && t.outbox == [.facAck 9 0]) = true ∧ after (.valve 9 1) (idle.setFld rFacStat 15 15 1) (fun t => t.fld rFacStat 14 14 == 0 && t.outbox == [.facAck 9 1]) = true ∧
    after (.valve 9 2) idle (fun t => t.outbox == [.facAck 9 1]) = true := by decide +kernel

theorem test_facility_shuts : after (.valve 255 0) (idle.setFld rFacStat 14 14 1) (fun t => t.fld rFacStat 14 14 == 0 && t.fld rPwrStat 55 52 == 4 && t.fld rFacCnt 15 0 == 1 && t.outbox == [.facAck 255 0]) = true ∧
    after (.shutdown 9 77) idle (fun t => t.fld rPwrStat 55 52 == 4 && t.power.reason == 77 && t.fld rFacCnt 15 0 == 1 && t.outbox == [.facAck 9 0]) = true ∧
    after (.facilityBadFrame true) idle (fun t => t.fld rFacCnt 31 16 == 1) = true ∧ after (.facilityBadFrame false) idle (fun t => t.fld rFacCnt 47 32 == 1) = true := by decide +kernel

/-! ### Keys, attestation, firmware (14) -/

/-- 40 bytes that wrap a key, and the attest nonce. -/
def wrapped : List Byte := List.replicate 40 1

def nonceT : List Byte := List.replicate 32 2

/-- A report is held. -/
def reported : State := { idle with reports := [(nonceT, List.replicate 18112 3)] }

theorem wit_keys : idle.asks pkt 3 true false false ∧ idle.asks pkt 3 true true false ∧ Instr.wf (.installOwnerKey pkt 3 wrapped) = true ∧ Instr.wf (.installPeerKey pkt 3 []) = true ∧ (idle.asked pkt 3).unwrap [] = none ∧
    Instr.wf (.retireOwnerPrevious pkt 3) = true ∧ Instr.wf (.retirePeerPrevious pkt 3) = true ∧ Instr.wf (.release pkt 3) = true ∧ (idle.asked pkt 3).anyActivity = false ∧ State.anyActivity { idle with sweeps := [0] } = true ∧
    Instr.wf (.attest pkt 3 32768 nonceT) = true ∧ ((reported.asked pkt 3).reports.find? (fun e => e.1 == nonceT)).isSome = true ∧ (idle.asked pkt 3).reports.find? (fun e => e.1 == nonceT) = none ∧ nonceT.length = 32 :=
  ⟨asks_of (by decide +kernel), asks_of (by decide +kernel), by decide, by decide, by decide +kernel, by decide, by decide, by decide, by decide +kernel, by decide +kernel, by decide, by decide +kernel, by decide +kernel, by decide⟩

/-- The unwrapped key is open (log 11): whatever it is, the clause's hypothesis is met. -/
theorem wit_unwrap (k : Word256) (h : Config.aesUnwrap 77 wrapped = some k) : (idle.asked pkt 3).unwrap wrapped = some k := by
  have e : (idle.asked pkt 3).keySlot 0 = some 77 := by decide +kernel
  have l : wrapped.length = 40 := by decide
  simp only [State.unwrap, e, l, if_true, Option.bind_some, h]

theorem test_install_refused : after (.installOwnerKey pkt 3 (wrapped.take 39)) idle (fun t => t.flash == idle.flash && replies t == [(3, stBadRequest, [])]) = true := by decide +kernel

theorem test_retire : after (.retirePeerPrevious pkt 3) { idle with flash := { idle.flash with keys := [(0, 77), (1, 5), (2, 78), (3, 6)] } } (fun t => t.flash.keys == [(0, 77), (1, 5), (2, 78)] && t.flash.kseq == 1 && replies t == [(3, stOk, [])]) = true ∧
    after (.retireOwnerPrevious pkt 3) { idle with flash := { idle.flash with keys := [(0, 77), (1, 5), (2, 78), (3, 6)] } } (fun t => t.flash.keys == [(0, 77), (2, 78), (3, 6)]) = true := by decide +kernel

theorem test_release : after (.release pkt 3) { (idle.setReg rClient 11) with groups := [(1, ⟨1, 0, 0, []⟩)], mem := memT.writeB stackDpa [(9, false)] } (fun t => t.flash.keys == [] && !t.flash.claimed && t.groups == [] && t.reg rClient == 0 && t.mem.byte stackDpa == 0 && t.mem.byte 0 == 1) = true ∧
    after (.release pkt 3) { idle with sweeps := [0] } (fun t => t.flash.claimed && replies t == [(3, stBusy, [])]) = true := by decide +kernel

theorem wit_odd_operands : Instr.wf (.attest pkt 3 0 [1]) = true ∧ ([1] : List Byte).length ≠ 32 ∧ Instr.wf (.fwImageData pkt 3 2 0 [1]) = true ∧ Instr.wf (.fwImageFinish pkt 3 2) = true ∧ Instr.wf (.fwImageActivate pkt 3 2) = true ∧
    Instr.wf (.fwImageCommit pkt 3 2 0) = true ∧ Instr.wf (.fwImageAbort pkt 3 2) = true := by decide

theorem test_odd_operands : after (.attest pkt 3 0 [1]) idle (fun t => t.reports == [] && replies t == [(3, stBadRequest, [])]) = true ∧ after (.fwImageFinish pkt 3 2) idle (fun t => t.fld rFwstat 63 60 == 0 && replies t == [(3, stBadRequest, [])]) = true := by decide +kernel

theorem test_attest_held : after (.attest pkt 3 18111 nonceT) reported (fun t => replies t == [(3, stOk, [3])]) = true ∧ after (.attest pkt 3 18112 nonceT) reported (fun t => replies t == [(3, stBadRequest, [])]) = true ∧
    after (.attest pkt 3 4 nonceT) idle (fun t => replies t == [(3, stBadRequest, [])]) = true := by decide +kernel

/-- An update of a pack on connection 7, and one of the firmware. -/
def packUpdate : State := { idle with update := some ⟨7, 1, false, [], [], 0⟩ }

def fwUpdate : State := { idle with update := some ⟨7, 0, false, [⟨4, 5, [8, 9], ⟨7, 9, 2⟩⟩], [], 2⟩, flash := { idle.flash with bankB := ⟨false, []⟩ } }

theorem wit_firmware : Instr.wf (.fwImageData pkt 3 0 33554430 [1, 2]) = true ∧ idle.fwRefusal 7 0 33554430 2 = none ∧ idle.fwRefusal 7 0 33554431 2 = some stBadRequest ∧ fwUpdate.fwRefusal 8 0 0 2 = some stBusy ∧
    (idle.accept pkt 0).deferred (.fwImageData pkt 3 0 33554430 [1, 2]) = true ∧ (idle.accept pkt 0).deferred (.fwImageData pkt 3 0 33554431 [1, 2]) = false ∧ idle.inTurn pkt 0 ∧ (idle.accept pkt 0).update = none ∧
    (packUpdate.asked pkt 3).update = some ⟨7, 1, false, [], [], 0⟩ ∧ packUpdate.asks pkt 3 true true false ∧ fwUpdate.asks pkt 3 true true false ∧ (fwUpdate.asked pkt 3).idleBank.verify 0 ≠ 0 ∧ (packUpdate.asked pkt 3).verifyPack [] ≠ 0 ∧
    (packUpdate.asked pkt 3).packSlot 3 = some 0 ∧ (fwUpdate.asked pkt 3).updateElse 7 = false ∧ (fwUpdate.asked pkt 3).updateElse 8 = true ∧ ((idle.setReg rFwstat (3 * 2 ^ 60)).asked pkt 3).fld rFwstat 63 60 = 3 ∧
    ((idle.setReg rFwstat (3 * 2 ^ 60)).asked pkt 3).fld rFwstat 59 56 = 0 ∧ (idle.asked pkt 3).fld rBoot 58 58 = 0 ∧ ((idle.setFld rBoot 58 58 1).asked pkt 3).fld rBoot 58 58 = 1 :=
  ⟨by decide, by decide +kernel, by decide +kernel, by decide +kernel, by decide +kernel, by decide +kernel, in_turn_of (by decide +kernel), by decide +kernel, by decide +kernel, asks_of (by decide +kernel), asks_of (by decide +kernel), by decide +kernel, by decide +kernel,
    by decide +kernel, by decide +kernel, by decide +kernel, by decide +kernel, by decide +kernel, by decide +kernel, by decide +kernel⟩

/-- What the fused key verifies is open (log 11): where it verifies a pack's bytes, the pack passes. -/
theorem wit_pack_verifies (t : Tab Byte) (h0 : hasBytes t 0 32 = true) (h1 : (List.range 4).map (fun i => Tab.get t 0 (0 + i)) = [0x4C, 0x58, 0x54, 0x50])
    (h2 : fieldLe ((List.range 8).map (fun i => Tab.get t 0 (24 + i))) 0 8 = 0) (h3 : hasBytes t 0 29824 = true) (h4 : fieldLe ((List.range 4).map (fun i => Tab.get t 0 (12 + i))) 0 4 = 0)
    (h5 : Config.slhVerify ((List.range 32).map (fun i => Tab.get t 0 (0 + i))) ((List.range 29792).map (fun i => Tab.get t 0 (32 + i))) = true) : (packUpdate.asked pkt 3).verifyPack t = 0 := by
  have hp : (packUpdate.asked pkt 3).packOf (fieldLe ((List.range 2).map (fun i => Tab.get t 0 (4 + i))) 0 2) = none := by
    show List.find? _ ([] : List Pack) = none
    rfl
  unfold State.verifyPack
  simp only [h0, h1, h2, hp, sigLen, packMax]
  simp only [Nat.zero_add, BitVec.ofNat_eq_ofNat] at h4 h5
  simp [h3, h4, h5]

theorem wit_bank_verifies (b : Bank) (h0 : hasBytes b.bytes 0 4096 = true) (h1 : hasBytes b.bytes 4096 sigLen = true) (h2 : b.read 0 4 = [0x4C, 0x58, 0x46, 0x57]) (h3 : fieldLe (b.read 16 8) 0 8 = 0)
    (h4 : sha256 (b.read fwBodyAt 0) = b.read 24 32) (h5 : Config.slhVerify (b.read 0 4096) (b.read 4096 sigLen) = true) : b.verify 0 = 0 := by
  have e : hasBytes b.bytes fwBodyAt 0 = true := rfl
  simp only [Bank.verify, h0, h1, h2, h3, h4, h5, e]
  simp [fwMax, fwBodyAt]

theorem test_pack_data : after (.fwImageData pkt 3 1 1048575 [6]) idle (fun t => t.update.any (fun u => u.conn == 7 && u.target == 1 && u.received == 1 && u.buffer == [(1048575, 6)]) && t.fld rFwstat 63 60 == 1 && replies t == [(3, stOk, [])]) = true ∧
    after (.fwImageData pkt 3 1 1048576 [6]) idle (fun t => t.update == none && replies t == [(3, stBadRequest, [])]) = true := by decide +kernel

theorem test_fw_finish : after (.fwImageFinish pkt 3 1) packUpdate (fun t => t.fld rFwstat 63 60 == 5 && t.fld rFwstat 47 40 == 7 && replies t == [(3, stBadRequest, [])]) = true ∧
    after (.fwImageFinish pkt 3 0) packUpdate (fun t => replies t == [(3, stBusy, [])]) = true ∧ after (.fwImageFinish pkt 3 0) fwUpdate (fun t => t.fld rFwstat 47 40 == 7) = true ∧ after (.fwImageFinish pkt 3 0) idle (fun t => t.fld rFwstat 63 60 == 5 && t.fld rFwstat 47 40 == 7) = true := by decide +kernel

theorem test_fw_activate : after (.fwImageActivate pkt 3 0) (idle.setReg rFwstat (3 * 2 ^ 60)) (fun t => t.flash.trial == .pending && t.fld rFwstat 63 60 == 4 && replies t == [(3, stOk, [])]) = true ∧
    after (.fwImageActivate pkt 3 0) idle (fun t => t.flash.trial == .none && t.fld rFwstat 47 40 == 8 && replies t == [(3, stBadRequest, [])]) = true := by decide +kernel

theorem test_fw_commit : after (.fwImageCommit pkt 3 0 0) ((idle.setFld rBoot 58 58 1).setFld rBoot 59 59 1) (fun t => t.flash.active && t.fld rBoot 58 58 == 0 && t.flash.svnFloor == 0 && replies t == [(3, stOk, [])]) = true ∧
    after (.fwImageCommit pkt 3 0 0) idle (fun t => !t.flash.active && t.fld rFwstat 47 40 == 9 && replies t == [(3, stBadRequest, [])]) = true := by decide +kernel

theorem test_fw_abort : after (.fwImageAbort pkt 3 0) { fwUpdate with flash := { fwUpdate.flash with trial := .pending } } (fun t => t.update == none && t.flash.trial == .none && replies t == [(3, stOk, [])]) = true ∧
    after (.fwImageAbort { pkt with conn := 7 } 3 0) { fwUpdate with update := some ⟨9, 0, false, [], [], 0⟩ } (fun t => t.update != none && replies t == [(3, stBusy, [])]) = true := by decide +kernel

theorem test_flash_program : after .flashProgramComplete fwUpdate (fun t => t.flash.bankB == ⟨false, [(5, 8), (6, 9)]⟩ && t.update.any (fun u => u.queue == []) && replies t == [(2, stOk, [])]) = true ∧ after .flashProgramComplete idle (fun t => t == idle) = true := by decide +kernel

theorem wit_banks : (Bank.good ⟨true, []⟩ 0) = true ∧ (Bank.good ⟨false, []⟩ 0) = false ∧ ({ Flash.factory with trial := .pending } : Flash).pick = (some true, .running, false) ∧ Flash.factory.pick = (some false, .none, false) ∧
    ({ Flash.factory with bankA := ⟨false, []⟩ } : Flash).pick = (some true, .none, true) ∧ ({ Flash.factory with bankA := ⟨false, []⟩, bankB := ⟨false, []⟩, trial := .pending } : Flash).pick = (none, .none, false) := by decide +kernel

/-! ### Reductions (11) -/

/-- The device within an epoch that the peer, rank 1, hosts. -/
def memberOf (e : Epoch) : State := { inEpoch { e with host := none } with groups := [(1, ⟨3, 0, 1, [(0, (1, 0)), (1, (11, 0)), (2, (13, 0))]⟩)] }

/-- Opened here, without a ROLL or a ROSTER. -/
def opened : Epoch := { epochT with rolled := false, answered := false, admitted := none }

/-- A block of 1,024 FP32 elements: the first 1.0, the rest 0. -/
def blockT : List PByte := [(0, false), (0, false), (0x80, false), (0x3F, false)] ++ List.replicate 4092 (0, false)

/-- The message goes to connection 8. -/
def tells (s : State) : List Msg :=
  s.outbox.filterMap (fun o => match o with
    | .packet 8 _ _ _ _ _ _ m _ => some m
    | .packet 4 _ _ _ _ _ _ m _ => some m
    | _ => none)

theorem wit_reduction_messages : carried (.done pktP ep 1 false false) = some (pktP, 1, false) ∧ ((inEpoch epochT).received pktP).reduction (.done pktP ep 1 false false) = some (.done ep 1 false false, true) ∧
    ((inEpoch epochT).received pktP).reduction (.done pktP ep 2 false false) = some (.done ep 2 false false, false) ∧ Instr.wf (.done pktP ep 1 false false) = true ∧ (inEpoch epochT).inTurn pktP 1 ∧ ((inEpoch epochT).received pktP).fld rBoot 63 60 ≠ 5 ∧
    ((inEpoch epochT).received pktP).computeOn = true ∧ ((inEpoch epochT).setFld rPwrStat 57 56 0).inTurn pktP 1 ∧ (((inEpoch epochT).setFld rPwrStat 57 56 0).received pktP).computeOn = false ∧
    (((inEpoch epochT).setFld rBoot 63 60 5).received pktP).fld rBoot 63 60 = 5 ∧ (inEpoch epochT).named { ep with step := 2 } = none :=
  ⟨rfl, by decide +kernel, by decide +kernel, by decide, in_turn_of (by decide +kernel), by decide +kernel, by decide +kernel, in_turn_of (by decide +kernel), by decide +kernel, by decide +kernel, by decide +kernel⟩

theorem test_reduction_refused : after (.done pktP ep 2 false false) (inEpoch epochT) (fun t => t.fld rRdrop 15 0 == 1 && t.epochs == [(2, epochT)]) = true ∧ after (.done pktP ep 1 false false) ((inEpoch epochT).setFld rPwrStat 57 56 0) (fun t => t.fld rRdrop 63 48 == 1) = true ∧
    after (.done pktP { ep with step := 2 } 1 false false) (inEpoch epochT) (fun t => t.fld rRdrop 63 48 == 1) = true := by decide +kernel

theorem wit_roll_calls : (memberOf opened).current { opened with host := none } descT ∧ opened.closed = false ∧ opened.rolled = false ∧ opened.admitted = none ∧ epochT.rolled = true ∧ nameBelow { ep with step := 0 } ep = true ∧ nameBelow { ep with step := 2 } ep = false ∧
    (inEpoch epochT).current epochT descT ∧ epochT.host = some hostT ∧ hostT.outcome = none ∧ Tab.find hostT.answers 2 = none ∧ hostT.rollClosed = true ∧ ({ hostT with rollClosed := false } : HostSide).rollClosed = false ∧
    (inEpoch { epochT with host := some { hostT with rollClosed := false } }).current { epochT with host := some { hostT with rollClosed := false } } descT ∧ Tab.find hostT.answers 1 ≠ none ∧ ((memberOf opened).part 0).live = true ∧
    opened.rank ∉ [1, 2] ∧ opened.rank ∈ [0, 1] ∧ opened.digest = 7 ∧ (memberOf { opened with closed := true }).current { opened with closed := true, host := none } descT ∧
    (inEpoch { epochT with host := some { hostT with outcome := some 1 } }).current { epochT with host := some { hostT with outcome := some 1 } } descT := by
  refine ⟨⟨?_, ?_⟩, ?_, ?_, ?_, ?_, ?_, ?_, ⟨?_, ?_⟩, ?_, ?_, ?_, ?_, ?_, ⟨?_, ?_⟩, ?_, ?_, ?_, ?_, ?_, ⟨?_, ?_⟩, ⟨?_, ?_⟩⟩ <;> decide +kernel

theorem test_roll : after (.roll pktP ep 7 900 800) (memberOf opened) (fun t => (t.epoch 2).any (fun e => e.rolled && e.answered && e.deadline == 900 && e.rcDeadline == 800) && tells t == [.answer ep 7 2 0]) = true ∧
    after (.roll pktP ep 8 900 800) (memberOf opened) (fun t => t.fld (rTerm 0) 63 56 == tVersion && tells t == [.answer ep 7 2 0]) = true := by decide +kernel

theorem test_answer : after (.answer pktP ep 7 2 1) (inEpoch { opened with host := some { hostT with answers := [], rollClosed := false } }) (fun t => (t.epoch 2).any (fun e => e.host.any (fun h => h.answers == [(1, (7, 2))] && !h.rollClosed))) = true ∧
    after (.answer pktP ep 7 2 1) (inEpoch { epochT with host := some { hostT with answers := [(0, (7, 2))], adm := [0] } }) (fun t => (t.epoch 2).any (fun e => e.host.any (fun h => h.lis == [1])) && tells t == [.roster ep 1000000000 true [0]]) = true := by decide +kernel

theorem test_roll_timers : after (.rollCallTimeout 2) (memberOf opened) (fun t => t.fld (rTerm 0) 63 56 == tRemoteTimeout) = true ∧ after (.rollCallTimeout 2) (memberOf epochT) (fun t => t == memberOf epochT) = true ∧
    after (.rollResend 2) (memberOf opened) (fun t => t == memberOf opened) = true ∧ after (.rollResend 2) (inEpoch { opened with host := some { hostT with answers := [(0, (7, 2)), (2, (7, 2))], rollClosed := false } }) (fun t => tells t == [.roll ep 7 1000000000 500000000]) = true := by decide +kernel

theorem test_roster : after (.roster pktP ep 900 false [0, 1]) (memberOf opened) (fun t => (t.epoch 2).any (fun e => e.admitted == some [0, 1] && e.deadline == 900 && !e.listener)) = true ∧
    after (.roster pktP ep 900 false [1]) (memberOf opened) (fun t => t.fld (rTerm 0) 63 56 == tVersion) = true := by decide +kernel

/-- Rank 1's first block has been accepted, with a NaN. -/
def taken : Epoch := { epochT with holder := { holderT with staged := [⟨1, 0, 0, false⟩], accepted := [⟨1, 0, true, false⟩] } }

theorem wit_contributions : (inEpoch taken).current taken descT ∧ (inEpoch epochT).current epochT descT ∧ (memberOf opened).current { opened with host := none } descT ∧ taken.holder.accepted.find? (fun a => a.rank == 1 && a.first == 0) = some ⟨1, 0, true, false⟩ ∧
    epochT.holder.accepted.find? (fun a => a.rank == 1 && a.first == 0) = none ∧ epochT.admitted = some [0, 1] ∧ (0 : Nat) ∈ descT.shardBlocks descT.wireCode [0, 1] epochT.rank ∧ (2048 : Nat) ∉ descT.shardBlocks descT.wireCode [0, 1] epochT.rank ∧ epochT.holder.final = false ∧
    blockT.length = packedLen descT.wireCode (descT.blockLen descT.wireCode 0) ∧ holderT.staged.length < descT.blocks ∧ epochT.host = some hostT ∧ (1 : Nat) ∈ hostT.adm ∧ Tab.find hostT.resolved 1 = none ∧ hostT.rollClosed = true ∧
    (∀ j ∈ hostT.adm, j = 1 ∨ Tab.find ({ hostT with resolved := [(0, .included)] } : HostSide).resolved j ≠ none) ∧ (∃ j ∈ hostT.adm, j ≠ 1 ∧ Tab.find hostT.resolved j = none) ∧
    (∃ x ∈ ({ memberT with blocks := [⟨0, [], 1, true, false⟩] } : MemberSide).blocks, x.first = 0 ∧ x.holder = 1 ∧ x.sent = true ∧ x.acked = false) := by
  refine ⟨⟨?_, ?_⟩, ⟨?_, ?_⟩, ⟨?_, ?_⟩, ?_⟩ <;> decide +kernel

/-- The device is rank 1, the peer rank 0; three elements, which rank 1 holds. -/
def holding (e : Epoch) : State :=
  { ((inEpoch e).updPart 0 (fun p => { p with descs := [{ descT with elems := 3 }] })) with groups := [(1, ⟨3, 1, 1, [(0, (11, 0)), (1, (1, 0)), (2, (13, 0))]⟩)] }

theorem test_contrib : after (.contrib pktP ep 0 0 (blockT.take 12)) (holding { epochT with rank := 1, desc := { descT with elems := 3 } }) (fun t => (t.epoch 2).any (fun e => e.holder.accepted == [⟨0, 0, false, false⟩] && e.holder.staged == [⟨0, 0, 0, false⟩]) && t.mem.word32 8192 == 0x3F800000 && tells t == [.rack ep 1 0 false false 0 0]) = true := by decide +kernel

theorem test_contrib_refused : after (.contrib pktP ep 1 0 []) (inEpoch taken) (fun t => t.fld rRdrop 47 32 == 1 && tells t == [.rack ep 0 0 true false 0 0]) = true ∧ after (.contrib pktP ep 1 2048 blockT) (inEpoch epochT) (fun t => t.fld rRdrop 31 16 == 1 && tells t == [.rack ep 0 1 false false 0 2048]) = true ∧
    after (.contrib pktP ep 1 0 blockT) (inEpoch { epochT with admitted := some [0] }) (fun t => t.fld rRdrop 31 16 == 1 && tells t == [.rack ep 0 2 false false 0 0]) = true := by decide +kernel

theorem test_rack : after (.rack pktP ep 1 0 true false 0 0) (inEpoch { epochT with member := { memberT with blocks := [⟨0, [], 1, true, false⟩] } }) (fun t => (t.epoch 2).any (fun e => e.member.nan && e.member.blocks.map OutBlock.acked == [true])) = true ∧
    after (.rack pktP ep 1 0 true false 3 4) (inEpoch epochT) (fun t => (t.epoch 2).any (fun e => !e.member.nan && e.member.cred == [(1, 3)])) = true := by decide +kernel

theorem test_done : after (.done pktP ep 1 true false) (inEpoch epochT) (fun t => (t.epoch 2).any (fun e => e.host.any (fun h => Tab.find h.resolved 1 == some .included && h.census == [1]))) = true ∧
    after (.done pktP ep 1 false true) (inEpoch epochT) (fun t => (t.epoch 2).any (fun e => e.host.any (fun h => Tab.find h.resolved 1 == some .excluded && h.census == []))) = true := by decide +kernel

theorem wit_admission : (inEpoch epochT).current epochT descT ∧ (memberOf epochT).current { epochT with host := none } descT ∧ epochT.holder.ended = false ∧ epochT.host = some hostT ∧ (inEpoch epochT).now < epochT.deadline ∧ hostT.admitHeld = false ∧ hostT.rollClosed = true ∧
    (State.current { (inEpoch { epochT with host := some { hostT with admitHeld := true } }) with admitAt := [(2, 0)] } { epochT with host := some { hostT with admitHeld := true } } descT) ∧ epochT.admitted ≠ none ∧ epochT.outcome = none ∧
    descT.shardBlocks descT.resultCode [0, 1] epochT.rank ≠ [] ∧ descT.shardBlocks descT.resultCode [1] epochT.rank = [] ∧ epochT.holds = true ∧ ({ epochT with admitted := some [1] } : Epoch).holds = false ∧
    (inEpoch { epochT with closed := true, outcome := some 0, holder := { holderT with ended := true } }).current { epochT with closed := true, outcome := some 0, holder := { holderT with ended := true } } descT := by
  refine ⟨⟨?_, ?_⟩, ⟨?_, ?_⟩, ?_, ?_, ?_, ?_, ?_, ⟨?_, ?_⟩, ?_, ?_, ?_, ?_, ?_, ?_, ⟨?_, ?_⟩⟩ <;> decide +kernel

theorem test_outcome : descT.outcomeOf 3 3 = 0 ∧ descT.outcomeOf 3 2 = 1 ∧ ({ descT with policy := 1 } : Desc).outcomeOf 3 1 = 0 ∧ ({ descT with policy := 2, quorum := 2 } : Desc).outcomeOf 3 2 = 0 ∧ ({ descT with policy := 2, quorum := 2 } : Desc).outcomeOf 3 1 = 1 := by decide

theorem test_admit : after (.admitRanks pktP ep 900 none []) (memberOf epochT) (fun t => (t.epoch 2).any (fun e => e.deadline == 900)) = true ∧
    after (.late pktP ep 1 250) { (inEpoch epochT) with admitAt := [(2, 0)] } (fun t => (t.epoch 2).any (fun e => e.deadline == 1000100000 && e.host.any (fun h => h.ext == 100 && h.admitHeld)) && t.fld (rRchCnt 2) 15 0 == 1) = true := by decide +kernel

theorem test_epoch_deadline : after (.epochDeadline 2) (inEpoch { epochT with host := some { hostT with resolved := [(1, .included)] } }) (fun t => t.now == 1000000000 && (t.epoch 2).any (fun e => e.host.any (fun h => h.outcome == some 1 && h.resolved == [(1, .included), (0, .excluded)] || h.resolved == [(0, .excluded), (1, .included)]))) = true ∧
    after (.memberDeadline 2) (memberOf epochT) (fun t => (t.epoch 2).any (fun e => e.deadlinePassed)) = true := by decide +kernel

theorem test_close : after (.close pktP ep 3 (List.replicate 64 0) []) (memberOf epochT) (fun t => (t.epoch 2).any (fun e => e.closed && e.outcome == some 3 && e.holder.ended)) = true ∧
    after (.close pktP ep 0 (List.replicate 64 0) [1]) (memberOf { epochT with admitted := some [1] }) (fun t => (t.epoch 2).any (fun e => !e.closed && e.outcome == some 0 && e.holder.ended)) = true := by decide +kernel

theorem wit_results : (memberOf epochT).current { epochT with host := none } descT ∧ epochT.admitted = some [0, 1] ∧ ((memberOf epochT).part 0).live = true ∧ (2048 : Nat) ∈ descT.shardBlocks descT.resultCode [0, 1] 1 ∧ descT.rfmt = 0 ∧
    blockT.length = packedLen descT.resultCode (descT.blockLen descT.resultCode 2048) ∧ (∃ f ∈ descT.shardBlocks descT.resultCode [0, 1] 1, f ∉ epochT.member.landed) ∧ (∀ b ∈ (memberOf epochT).tally, b.rch ≠ 2) ∧
    (inEpoch { epochT with holder := { holderT with final := true } }).current { epochT with holder := { holderT with final := true } } descT ∧ stackDpa ≤ descT.tally ∧ descT.tally + 4 * 2048 + 4 * 1024 ≤ (memberOf epochT).stackEnd ∧ descT.tally % 64 = 0 ∧
    (memberOf epochT).redOps.find? (fun x => x.c == 0 && x.op.rch == 2) = none ∧ ((memberOf epochT).part 1).st = .none ∧ (memberOf epochT).hubCut = false ∧ (∀ q < 256, (memberOf epochT).chanFaulty q = false) ∧ epochT.rolled = true ∧ opened.rolled = false ∧ epochT.holder.ended = false := by
  refine ⟨⟨?_, ?_⟩, ?_, ?_, ?_, ?_, ?_, ?_, ?_, ⟨?_, ?_⟩, ?_, ?_, ?_, ?_, ?_, ?_, ?_, ?_, ?_, ?_⟩ <;> decide +kernel

/-- A core whose RWAIT of channel 2 has issued, and the device with it. -/
def waitOp : Op := { faddrOp with pc := 6, ins := .rwait noCf 2 0 50, wsent := 0, rch := 2 }

def waitingOn (e : Epoch) : State := (memberOf e).updCore 5 (fun c => { c with ops := [waitOp] })

theorem wit_rwait_timeout : ((waitingOn epochT).redOps.find? (fun x => x.c == 0 && x.op.rch == 2 && (match x.op.ins with
      | .rwait _ _ _ _ => true
      | _ => false))) = some ⟨0, 0, 5, waitOp⟩ ∧ (waitingOn epochT).epochOf ⟨0, 0, 5, waitOp⟩ = some { epochT with host := none } ∧ ((waitingOn epochT).part 0).live = true ∧ (waitingOn epochT).current { epochT with host := none } descT ∧
    (((memberOf epochT).updPart 0 (fun p => { p with st := .ending })).part 0).st = .ending ∧ 0 ∈ (((memberOf epochT).updPart 0 (fun p => { p with st := .ending })).part 0).cores := by
  refine ⟨?_, ?_, ?_, ⟨?_, ?_⟩, ?_, ?_⟩ <;> decide +kernel

theorem test_rwait_timeout : after (.rwaitTimeout 0 2) (waitingOn epochT) (fun t => t.now == 1000050000 && t.fld (rTerm 0) 63 56 == tRemoteTimeout) = true ∧ after (.rwaitTimeout 1 2) (waitingOn epochT) (fun t => t == waitingOn epochT) = true := by decide +kernel

theorem test_lost : after (.lost pktP ep 1) (memberOf epochT) (fun t => (t.epoch 2).any (fun e => e.closed && e.outcome == some 4)) = true ∧ after (.lost pktP ep 1) (memberOf { epochT with member := { memberT with landed := [2048, 3072] } }) (fun t => (t.epoch 2).any (fun e => !e.closed)) = true ∧
    after (.abandon pktP ep 0) (memberOf epochT) (fun t => (t.epoch 2).any (fun e => e.closed && e.outcome == some 2 && e.holder.ended)) = true := by decide +kernel

theorem test_result_refused : after (.result pktP ep 1 false false false 0 1024 blockT) (memberOf epochT) (fun t => t.epochs == (memberOf epochT).epochs) = true ∧ after (.holderResultSend 2) (memberOf epochT) (fun t => t == memberOf epochT) = true := by decide +kernel

/-! ### Cairns (13) -/

/-- A buddy for the peer: a store of 2 MiB at the foot of stacked memory, no program. -/
def buddy : State := withRegs idle [(rClient, 11), (rCstore, 2 * 2 ^ 16)]

/-- Slot 1 of the store holds a sealed cairn of partition 3, step 4, of one byte. -/
def sealed1 : State := { buddy with mem := (Memory.empty.writeB (stackDpa + 2 ^ 20) ((sealMagic ++ toLe 4 4 ++ toLe 1 3 ++ zeroBytes 7 ++ toLe 8 1 ++ toLe 8 6 ++ toLe 8 11 ++ toLe 8 50 ++ zeroBytes 16).map (fun b => (b, false)))).writeB (stackDpa + 2 ^ 20 + 4096) [(9, false)] }

/-- A write is open at the buddy: slot 0, one block of three bytes. -/
def receiving : State := { buddy with storeOp := some ⟨8, true, 0, 4, 3, 3, 6⟩ }

theorem wit_cairn_store : buddy.inTurn pktP 1 ∧ sealed1.inTurn pktP 1 ∧ receiving.inTurn pktP 1 ∧ Instr.wf (.begin pktP ctl) = true ∧ (buddy.received pktP).fld rBoot 63 60 ≠ 5 ∧ ((buddy.setFld rBoot 63 60 5).received pktP).fld rBoot 63 60 = 5 ∧
    ((buddy.received pktP).reg rClient ≠ 0 ∧ (buddy.received pktP).reg rClient = pktP.src) ∧ ¬ ((idle.received pktP).reg rClient ≠ 0 ∧ (idle.received pktP).reg rClient = pktP.src) ∧ (buddy.received pktP).storeBusy = false ∧ (receiving.received pktP).storeBusy = true ∧
    (buddy.received pktP).newestSeal (fun _ => true) = none ∧ (sealed1.received pktP).newestSeal (fun i => (sealed1.received pktP).sealPart i == 3) = some 1 ∧ (buddy.received pktP).storeRange.2 ≠ 0 ∧ (buddy.received pktP).slotBase 1 + 64 ≤ (buddy.received pktP).stackEnd ∧
    (∀ q < 256, (buddy.received pktP).chanFaulty q = false) ∧ (receiving.received pktP).storeOp = some ⟨8, true, 0, 4, 3, 3, 6⟩ ∧ (buddy.received pktP).storeOp = none ∧ Instr.wf (.cairnData pktP 0 [1, 2, 3]) = true ∧
    (receiving.received pktP).restoreOn 8 = none ∧ (0 : Nat) + [(1 : Byte), 2, 3].length ≤ 3 ∧ (3 : Nat) < 0 + [(1 : Byte), 2, 3, 4].length :=
  ⟨in_turn_of (by decide +kernel), in_turn_of (by decide +kernel), in_turn_of (by decide +kernel), by decide, by decide +kernel, by decide +kernel, by decide +kernel, by decide +kernel, by decide +kernel, by decide +kernel, by decide +kernel, by decide +kernel,
    by decide +kernel, by decide +kernel, by decide +kernel, by decide +kernel, by decide +kernel, by decide, by decide +kernel, by decide, by decide⟩

theorem test_begin : after (.begin pktP { ctl with part := 3, step := 4, length := 4096 }) buddy (fun t => t.storeOp == some ⟨8, true, 0, 4, 3, 4096, 0⟩ && tells t == [.cairnCtl 2 ⟨0, 3, 0, 4, 4096, 0⟩]) = true ∧
    after (.begin pktP { ctl with length := 2 ^ 20 - 4095 }) buddy (fun t => t.storeOp == none && tells t == [.cairnCtl 2 { ctl with length := 2 ^ 20 - 4095, status := 1 }]) = true := by decide +kernel

theorem test_begin_refused : after (.begin pktP ctl) receiving (fun t => t.storeOp == receiving.storeOp && tells t == [.cairnCtl 2 { ctl with status := 2 }]) = true ∧ after (.begin pktP ctl) idle (fun t => t.fld rStoreSt 15 0 == 1 && tells t == []) = true := by decide +kernel

theorem test_seal : after (.seal pktP { ctl with digest := 6 }) receiving (fun t => t.storeOp == none && t.sealed 0 && t.sealStep 0 == 4 && t.sealPart 0 == 3 && t.sealLen 0 == 3 && t.slotV 0 && tells t == [.cairnCtl 4 { ctl with digest := 6 }]) = true ∧
    after (.seal pktP { ctl with digest := 7 }) receiving (fun t => t.storeOp == none && !t.sealed 0 && tells t == [.cairnCtl 4 { ctl with digest := 7, status := 3 }]) = true := by decide +kernel

theorem test_fetch : after (.fetch pktP { ctl with part := 3 }) sealed1 (fun t => tells t == [.cairnCtl 6 ⟨0, 3, 1, 4, 1, 6⟩, .cairnData 0 [9]]) = true ∧ after (.fetch pktP { ctl with part := 2 }) sealed1 (fun t => tells t == [.cairnCtl 6 { ctl with part := 2, status := 4 }]) = true := by decide +kernel

theorem test_cairn_block : after (.cairnData pktP 0 [1, 2, 3, 4]) receiving (fun t => t.storeOp == receiving.storeOp && t.mem.byte (stackDpa + 4096) == 0) = true ∧ after (.cairnData pktP 0 [1, 2, 3]) idle (fun t => t.fld rStoreSt 15 0 == 1) = true := by decide +kernel

/-- A cairn write of this device to the peer, begun or not, sealing or not. -/
def writing (begun sealing : Bool) : State := { host with cairnOut := some ⟨0, 1, 8, [5, 6], begun, sealing, 0, 0⟩ }

/-- A restore of partition 0 from the peer; the program's hash and token are the header's. -/
def restoring (checked : Bool) : State := { (host.updPart 0 (fun p => { p with st := .restoring, hash := zeroBytes 32 })) with restore := some ⟨0, 4, 0, 0, 8, 0, 0, 0, checked, []⟩ }

/-- A whole cairn of one block, with the digest of its bytes. -/
def whole : Restore := ⟨0, 4, 0, 0, 8, 0, 4096, (cairnDigest (assemble [(0, zeroBytes 4096)] 4096)).toNat, true, [(0, zeroBytes 4096)]⟩

theorem wit_cairn_write : (writing false false).inTurn pktP 1 ∧ (restoring false).inTurn pktP 1 ∧ ((writing false false).received pktP).fld rBoot 63 60 ≠ 5 ∧ ((writing false false).received pktP).writeOn 8 = some ⟨0, 1, 8, [5, 6], false, false, 0, 0⟩ ∧ (host.received pktP).writeOn 8 = none ∧
    ((restoring false).received pktP).restoreOn 8 = some ⟨0, 4, 0, 0, 8, 0, 0, 0, false, []⟩ ∧ ((restoring false).received pktP).headerReason ⟨0, 4, 0, 0, 8, 0, 0, 0, false, []⟩ (zeroBytes 8 ++ toLe 4 4 ++ zeroBytes 52) = 0 ∧
    ((restoring false).received pktP).headerReason ⟨0, 4, 0, 0, 8, 0, 0, 0, false, []⟩ (zeroBytes 64) = 5 ∧ Instr.wf (.begun pktP ctl) = true ∧ host.restore = none ∧ host.cairnOut = none ∧ (State.restore { restoring false with restore := some whole }) = some whole :=
  ⟨in_turn_of (by decide +kernel), in_turn_of (by decide +kernel), by decide +kernel, by decide +kernel, by decide +kernel, by decide +kernel, by decide +kernel, by decide +kernel, by decide, by decide +kernel, by decide +kernel, rfl⟩

theorem wit_restore_complete : whole.checked = true ∧ whole.mode = 0 ∧ (cairnDigest (assemble whole.blocks whole.length)).toNat = whole.digest ∧ whole.whole = true ∧ ((restoring true).part 0).num = 1 ∧ (restoring true).phys 0 = some 5 ∧
    (Restore.whole ⟨0, 4, 0, 0, 8, 0, 4097, 0, true, [(0, zeroBytes 4096)]⟩) = false :=
  ⟨by decide +kernel, by decide +kernel, by simp only [whole], by decide +kernel, by decide +kernel, by decide +kernel, by decide +kernel⟩

/-- A restore that maps the cairn from this device's own store. -/
def mappedAs (d : Nat) : Restore := ⟨0, 4, 0, 1, 8, 1, 1, d, true, []⟩

def mapped1 : Restore := mappedAs (cairnDigest [9]).toNat

theorem slot_cairn_mapped : State.slotCairn { sealed1 with restore := some mapped1 } 1 = [9] := by decide +kernel

theorem mapped_as (d : Nat) : (mappedAs d).checked = true ∧ (mappedAs d).mode ≠ 0 ∧ (mappedAs d).digest = d ∧ (mappedAs d).slot = 1 := ⟨rfl, by show (1 : Nat) ≠ 0; decide, rfl, rfl⟩

theorem wit_restore_mapped : mapped1.checked = true ∧ mapped1.mode ≠ 0 ∧ (cairnDigest (State.slotCairn { sealed1 with restore := some mapped1 } 1)).toNat = mapped1.digest ∧
    (buddy.received pktP).hubCut = false ∧ (State.received (withRegs buddy ((List.range 4).map (fun d => (rLink d 3, 2 ^ 63)))) pktP).hubCut = true ∧ (mapped1.slot = 1 ∧ (1 : Nat) < 2) :=
  ⟨(mapped_as _).1, (mapped_as _).2.1, (congrArg (fun l => (cairnDigest l).toNat) slot_cairn_mapped).trans (mapped_as _).2.2.1.symm, by decide +kernel, by decide +kernel, (mapped_as _).2.2.2, by decide⟩

theorem test_stray_reply : after (.begun pktP ctl) host (fun t => t.fld rStoreSt 15 0 == 1 && t.cairnOut == none) = true ∧ after (.begun pktP ctl) buddy (fun t => t.fld rStoreSt 15 0 == 0) = true := by decide +kernel

theorem test_begun : after (.begun pktP { ctl with slot := 1 }) (writing false false) (fun t => t.cairnOut.any (fun w => w.begun && w.slot == 1) && tells t == [.cairnData 0 [5, 6]]) = true ∧ after (.begun pktP { ctl with status := 1 }) (writing false false) (fun t => t.cairnOut == none && t.fld rCstat 63 60 == 5 && t.fld rCstat 59 56 == 3) = true ∧
    after (.begun pktP { ctl with status := 2 }) (writing false false) (fun t => tells t == [.cairnCtl 1 ⟨0, 0, 0, 1, 2, 0⟩]) = true ∧ after (.cairnWriteTimeout) (writing true true) (fun t => t.fld rCstat 59 56 == 2 && t.cairnOut == none) = true := by decide +kernel

theorem test_sealed : after (.sealed pktP ctl) (writing true true) (fun t => t.cairnOut == none && t.fld rCstat 63 60 == 4 && t.fld rCstat 31 0 == 1) = true ∧ after (.sealed pktP { ctl with status := 3 }) (writing true true) (fun t => t.fld rCstat 63 60 == 5 && t.fld rCstat 59 56 == 4) = true ∧
    after (.sealed pktP ctl) (writing false false) (fun t => t.cairnOut != none) = true := by decide +kernel

theorem test_fetched : after (.fetched pktP { ctl with step := 4, length := 8192, digest := 7 }) (restoring false) (fun t => t.restore.any (fun r => r.length == 8192 && r.digest == 7)) = true ∧
    after (.fetched pktP { ctl with step := 3 }) (restoring false) (fun t => t.restore == none && t.fld rCstat 59 56 == 5 && t.fld (rTerm 0) 63 56 == tCairn) = true := by decide +kernel

theorem test_restore_header : after (.cairnData pktP 0 (zeroBytes 64)) (restoring false) (fun t => t.restore == none && t.fld rCstat 63 60 == 7 && t.fld rCstat 59 56 == 5) = true ∧ after .restoreComplete (restoring false) (fun t => t == restoring false) = true := by decide +kernel

/-! ### The Ethernet port and cluster time (12) -/

/-- The port trains: MODE 0, the third attempt; or MODE 1. -/
def trainingAt (a : Nat) : State := { withRegs host [(rEthStat, 2 ^ 61)] with attempt := a }

theorem wit_ethernet : (trainingAt 2).training = true ∧ host.training = false ∧ (trainingAt 1).fastAttempt = true ∧ (trainingAt 2).fastAttempt = false ∧ (trainingAt 4).fastAttempt = true ∧ (trainingAt 8).fastAttempt = false ∧ host.linkUp = true ∧ (trainingAt 0).linkUp = false ∧
    addressAt host.flash.config 0 = 0 ∧ Instr.wf (.echoRequest 5 1 2 [3]) = true ∧ Instr.wf (.linkUp ⟨true, [0, 7], false⟩) = true ∧ Instr.wf (.linkLoss ⟨(2 ^ 32 - 1), false⟩) = true := by decide +kernel

theorem test_link_attempts : after .linkAttemptTimeout (trainingAt 2) (fun t => t.attempt == 0 && t.fld rEthStat 63 61 == 1) = true ∧ after .linkAttemptTimeout (trainingAt 4) (fun t => t.attempt == 5) = true ∧ after .linkAttemptTimeout host (fun t => t == host) = true ∧
    after (.linkUp ⟨true, [], true⟩) (trainingAt 1) (fun t => t.fld rEthStat 63 61 == 3) = true ∧ after (.linkUp ⟨true, [], true⟩) (trainingAt 2) (fun t => t.fld rEthStat 63 61 == 1) = true ∧ after (.linkUp ⟨false, [], true⟩) (trainingAt 2) (fun t => t.fld rEthStat 63 61 == 4) = true := by decide +kernel

theorem test_link_loss : after (.linkLoss ⟨17, true⟩) (host.setFld rEthCtrl 63 62 1) (fun t => t.fld rEthStat 63 61 == 1 && t.fld rEthStat 47 32 == 1 && t.fld rEthStat 31 0 == 17 && t.attempt == 4) = true ∧
    after (.linkLoss ⟨(2 ^ 32 - 1), false⟩) ((trainingAt 2).setFld rEthStat 31 0 5) (fun t => t.fld rEthStat 31 0 == 2 ^ 32 - 1 && t.fld rEthStat 47 32 == 0 && t.attempt == 2) = true := by decide +kernel

theorem test_link_training : after (.linkUp ⟨true, [], false⟩) (trainingAt 1) (fun t => t.fld rEthStat 63 61 == 2 && t.outbox == []) = true ∧ after (.linkUp ⟨false, [3, 0], false⟩) (trainingAt 2) (fun t => t.events.map UEvent.unit == [unitLane 0, unitLane 3]) = true ∧ after (.linkUp ⟨false, List.range 8, false⟩) (trainingAt 2) (fun t => t.events == [] && t.attempt == 0) = true ∧
    after (.linkLoss ⟨16, true⟩) host (fun t => t.linkUp && t.fld rEthStat 31 0 == 16) = true ∧ after (.linkLoss ⟨0, false⟩) host (fun t => !t.linkUp) = true ∧
    after (.linkUp ⟨true, [], true⟩) { (trainingAt 1) with flash := { host.flash with config := zeroBytes 31 ++ [9] ++ factoryConfig.drop 32 } } (fun t => t.outbox == [.neighborSolicit 9]) = true := by decide +kernel

theorem test_discards : after .pauseFrame host (fun t => t.reg rEthDrop == 2 ^ 48) = true ∧ after .nonIpFrame host (fun t => t.reg rEthDrop == 2 ^ 32) = true ∧ after .extensionHeaderPacket host (fun t => t.reg rEthDrop == 2 ^ 16) = true ∧
    after .badUdpChecksum (host.setReg rEthDrop 65535) (fun t => t.reg rEthDrop == 65535) = true ∧ after .malformedPacket host (fun t => t.fld rNwtDrop 63 48 == 1) = true := by decide +kernel

/-- A device with the unicast address 6 (the first 16 bytes of its configuration record). -/
def addressed : State := { host with flash := { host.flash with config := zeroBytes 15 ++ [6] ++ factoryConfig.drop 16 } }

theorem wit_neighbor : addressed.linkUp = true ∧ addressAt addressed.flash.config 0 = 6 ∧ addressAt addressed.flash.config 0 ≠ 0 ∧ (6 : Nat) < 2 ^ 128 := by decide +kernel

theorem test_neighbor : exec (.neighborSolicitation 5 6) addressed = .next (addressed.emit (.neighborAdvert 5 6)) ∧ after (.neighborSolicitation 5 6) (trainingAt 0) (fun t => t.outbox == []) = true := by
  refine ⟨?_, by decide +kernel⟩
  have h : addressed.ownsAddress 6 = true := by
    simp only [State.ownsAddress, wit_neighbor.2.1]
    simp
  show execNeighborSolicitation 5 6 addressed = _
  unfold execNeighborSolicitation guardWf
  simp [Instr.wf, wit_neighbor.1, h, fits]

theorem test_echo : after (.echoRequest 5 1 2 [3]) { host with echoes := List.replicate 99 host.now } (fun t => t.outbox == [.echoReply 5 1 2 [3]] && t.echoes.length == 100) = true ∧
    after (.echoRequest 5 1 2 [3]) { host with echoes := List.replicate 100 host.now } (fun t => t.outbox == []) = true := by decide +kernel

/-- Locked, at 2,000 ns, with STEPTHR 100 ns. -/
def locked : State := { (withRegs host [(rPtpStat, 2 ^ 61), (rPtpCtrl, 100 * 2 ^ 16)]) with clock := { host.clock with ns := 2000 } }

theorem wit_cluster_time : Instr.wf (.ptpSync (-(2 ^ 63))) = true ∧ Instr.wf (.ptpSync (2 ^ 63 - 1)) = true ∧ (0 : Nat) = host.fld rPtpStat 61 61 ∧ locked.fld rPtpStat 61 61 = 1 ∧ ((locked.fld rPtpCtrl 31 16 : Int) < 101) ∧ ¬ ((locked.fld rPtpCtrl 31 16 : Int) < 100) ∧
    (((devP .closed (some { stepCmd false with body := { stepBody with instant := 1500 } }) core0).part 0).cmd).any (fun c => c.body.instant != 0) = true := by decide +kernel

theorem test_ptp : after (.ptpSync (-500)) { host with clock := { host.clock with ns := 2000 } } (fun t => t.now == 2500 && t.fld rPtpStat 63 61 == 5 && t.ptpOffset == -500) = true ∧
    after (.ptpSync 101) locked (fun t => t.now == 2000 && signed 16 (t.fld rPtpStat 15 0) == -10000 && t.fld rPtpStat 60 60 == 1) = true ∧ after (.ptpSync (-101)) locked (fun t => signed 16 (t.fld rPtpStat 15 0) == 10000) = true ∧
    after .ptpHoldover (locked.setFld rPtpStat 63 63 1) (fun t => t.fld rPtpStat 63 61 == 3) = true := by decide +kernel

theorem test_clock_steps : after (.ptpSync (-500)) { (devM (devP .closed (some { stepCmd false with body := { stepBody with instant := 400 } }) coreB)) with clock := { host.clock with ns := 0 } } (fun t => t.now == 500 && (t.part 0).st == .running && (t.part 0).step == 2) = true ∧
    after (.ptpSync (-300)) { (devM (devP .closed (some { stepCmd false with body := { stepBody with instant := 400 } }) coreB)) with clock := { host.clock with ns := 0 } } (fun t => t.now == 300 && (t.part 0).st == .closed) = true := by decide +kernel

/-! ### An image that Pyist accepts (04, 05) -/
theorem fieldLe_append {a l : List Byte} {k n : Nat} : fieldLe (a ++ l) (a.length + k) n = fieldLe l k n := by
  have e : (a ++ l).drop (a.length + k) = l.drop k := by rw [← List.drop_drop, List.drop_left]
  simp only [Machine.fieldLe, e]

theorem tableAt_append (a l : List Byte) (pos hi : Nat) : tableAt (a ++ l) (a.length + pos) (a.length + hi) = (tableAt l pos hi).andThen (fun x => .ok (x.1, a.length + x.2)) := by
  have e : ∀ i, a.length + pos + 4 + 16 * i = a.length + (pos + 4 + 16 * i) := fun i => by omega
  simp only [tableAt, fieldLe_append, e]
  by_cases h : pos + 4 ≤ hi ∧ pos + 4 + 16 * Machine.fieldLe l pos 4 ≤ hi
  · rw [if_pos h, if_pos ⟨by omega, by omega⟩]; rfl
  · rw [if_neg h, if_neg (fun x => h ⟨by omega, by omega⟩)]; rfl

theorem tablesAt_append (a l : List Byte) (hi : Nat) : ∀ n pos, tablesAt (a ++ l) (a.length + hi) n (a.length + pos) = tablesAt l hi n pos := by
  intro n
  induction n with
  | zero => intro pos; simp [tablesAt]
  | succ n ih =>
    intro pos
    simp only [tablesAt, tableAt_append]
    cases tableAt l pos hi with
    | error r => rfl
    | ok x =>
      simp only [Check.andThen, tableAt_append]
      cases tableAt l x.2 hi with
      | error r => rfl
      | ok y => simp only [ih]

/-- The header and its padding. -/
def part1 : List Byte :=
  [0x4C, 0x58, 0x49, 0x4D, 1, 0, 0, 0, 0, 0, 0, 0, 0, 1, 1, 0] ++ toLe 8 0x3000 ++ toLe 8 0x1000 ++ toLe 8 12 ++ toLe 8 0x2000 ++ toLe 8 72 ++ toLe 8 0x3000 ++ toLe 8 0 ++ imageHash ++ zeroBytes (0x1000 - 0x68)

/-- The packing list. -/
def part2 : List Byte := [1, 0, 12, 0] ++ toLe 8 0x55 ++ zeroBytes (0x1000 - 12)

/-- The instruction tables. -/
def part3 : List Byte := imageTable ++ imageTable ++ zeroBytes (0x1000 - 72)

theorem image_parts : image = (part1 ++ part2) ++ part3 := by simp only [image, part1, part2, part3]

theorem toLe_length (n v : Nat) : (toLe n v).length = n := by
  induction n generalizing v with
  | zero => rfl
  | succ n ih => simp [toLe, ih]

theorem part_lengths : (part1 ++ part2).length = 0x2000 ∧ part1.length = 0x1000 ∧ part3.length = 0x1000 := by
  simp only [part1, part2, part3, zeroBytes, imageTable, imageHash, toLe_length, List.length_append, List.length_replicate, List.length_cons, List.length_nil]
  decide

theorem image_length : image.length = 0x3000 := by
  rw [image_parts, List.length_append, part_lengths.1, part_lengths.2.2]

theorem image_tables : tablesAt image 0x2048 1 0x2000 = tablesAt part3 72 1 0 := by
  have h := tablesAt_append (part1 ++ part2) part3 72 1 0
  rw [part_lengths.1] at h
  rw [image_parts]
  exact h

theorem part3_tables : tablesAt part3 72 1 0 = .ok [([BitVec.ofNat 128 (4 * 2 ^ 120), BitVec.ofNat 128 (2 ^ 120)], [BitVec.ofNat 128 (4 * 2 ^ 120), BitVec.ofNat 128 (2 ^ 120)])] := by rfl

/-- The image's program after check 1. -/
def program : Prog := ⟨1, 0, 1, 0, [], [], [], [], [], 0, 0, [], [([BitVec.ofNat 128 (4 * 2 ^ 120), BitVec.ofNat 128 (2 ^ 120)], [BitVec.ofNat 128 (4 * 2 ^ 120), BitVec.ofNat 128 (2 ^ 120)])], [], imageHash⟩

theorem image_sections : sectionAt image 0 = (0x1000, 12) ∧ sectionAt image 1 = (0x2000, 72) ∧ sectionAt image 2 = (0x3000, 0) := by decide +kernel

theorem image_fields : image.take 4 = [0x4C, 0x58, 0x49, 0x4D] ∧ Machine.fieldLe image 0xC 1 = 0 ∧ Machine.fieldLe image 0xD 1 = 1 ∧ Machine.fieldLe image 0xE 1 = 1 ∧ Machine.fieldLe image 0xF 1 = 0 ∧ Machine.fieldLe image 4 2 = 1 ∧
  Machine.fieldLe image 6 2 = 0 ∧ Machine.fieldLe image 0x10 8 = 0x3000 ∧ Machine.fieldLe image 8 4 = 0 := by decide +kernel

theorem image_zero : allZero ((image.take 4096).drop 0x68) = true := by decide +kernel

theorem image_hash_field : (image.drop 0x48).take 32 = imageHash := by decide +kernel

theorem checked_of (m : List Byte) (fw : Nat) (x : List (List Word128 × List Word128)) (hash : List Byte) (l : m.length = 0x3000) (s0 : sectionAt m 0 = (0x1000, 12)) (s1 : sectionAt m 1 = (0x2000, 72)) (s2 : sectionAt m 2 = (0x3000, 0))
    (h0 : m.take 4 = [0x4C, 0x58, 0x49, 0x4D]) (hC : Machine.fieldLe m 0xC 1 = 0) (hD : Machine.fieldLe m 0xD 1 = 1) (hE : Machine.fieldLe m 0xE 1 = 1) (hF : Machine.fieldLe m 0xF 1 = 0) (h4 : Machine.fieldLe m 4 2 = 1)
    (h6 : Machine.fieldLe m 6 2 = 0) (h10 : Machine.fieldLe m 0x10 8 = 0x3000) (h8 : Machine.fieldLe m 8 4 = 0) (hz : allZero ((m.take 4096).drop 0x68) = true) (hh : (m.drop 0x48).take 32 = hash) (h : sha256 (unhashed m) = hash)
    (ht : tablesAt m 0x2048 1 0x2000 = .ok x) : checkHeader m fw = .ok ⟨1, 0, 1, 0, [], [], [], [], [], 0, 0, [], x, [], hash⟩ := by
  unfold checkHeader
  simp [s0, s1, s2, h0, hC, hD, hE, hF, h4, h6, h10, h8, hz, hh, h, l, sectionOk, need, Check.andThen, ht, segsAt]

theorem image_checked (h : sha256 (unhashed image) = imageHash) (fw : Nat) : checkHeader image fw = .ok program :=
  checked_of image fw _ imageHash image_length image_sections.1 image_sections.2.1 image_sections.2.2 image_fields.1 image_fields.2.1 image_fields.2.2.1 image_fields.2.2.2.1 image_fields.2.2.2.2.1 image_fields.2.2.2.2.2.1 image_fields.2.2.2.2.2.2.1 image_fields.2.2.2.2.2.2.2.1 image_fields.2.2.2.2.2.2.2.2 image_zero image_hash_field h (image_tables.trans part3_tables)

theorem image_packed : checkPacking image program = .ok { program with key := 0x55 } := by
  have h : (checkPacking image program).toOption = some { program with key := 0x55 } := by decide +kernel
  cases e : checkPacking image program with
  | ok a => rw [e] at h; exact congrArg Except.ok (Option.some.inj h)
  | error r => rw [e] at h; cases h

/-- The program that check 2 gives. -/
def programT : Prog := { program with key := 0x55 }

theorem pyist_of {m : List Byte} {fw hi : Nat} {p0 p : Prog} (h1 : checkHeader m fw = .ok p0) (h2 : checkPacking m p0 = .ok p) (h3 : (checkProgram p hi).toOption.isSome = true) (he : p.extents = []) : pyist m fw hi = .ok p := by
  unfold pyist
  rw [h1]
  simp only [Check.andThen, h2]
  split
  · have e : p.extents.map (fun e => { e with pot := ((p.potSets.find? (fun x => x.1 == e)).map (·.2)).getD [] }) = p.extents := by rw [he]; rfl
    rw [e]
  · rename_i e; rw [e] at h3; cases h3

theorem plan_of {s : State} {n : Nat} {m : List Byte} {p : Prog} (ext : Option LoadExt) (ha : s.assembly.bind (fun a => if a.conn = 7 then a.image n else none) = some m) (hp : pyist m (s.fld rFwver 63 32) s.nextEnd = .ok p)
    (hb : s.loadBusy p.part ext = false) (h1 : s.partBusy p = false) (h2 : ∃ map, s.planMap [p.part] = .ok map) (h3 : s.extentBusy p = false) (h4 : s.stagingHeld + p.stageLen / 4096 ≤ 131072) : ∃ map, s.loadPlan 7 n ext = .ok (p, map) := by
  unfold State.loadPlan
  rw [ha]
  simp only [hp, Check.andThen, hb, h1, need, Bool.not_false, if_true]
  obtain ⟨map, e⟩ := h2
  rw [e]
  exact ⟨map, by simp [h3, h4]⟩

/-- The device that has the image's bytes and has been asked to load them. -/
def asking (m : List Byte) : State := { idle.asked pkt 3 with assembly := some ⟨7, [(0, m)]⟩ }

theorem asked_loading (m : List Byte) : (loading m).asked pkt 3 = asking m := rfl

/-- The machine's state lets the program load. -/
def fit (s : State) : Bool :=
  (checkProgram programT s.nextEnd).toOption.isSome && !s.offTest && !s.destroying && !s.tgWrites && !s.restore.isSome && s.sweeps.isEmpty && !s.partBusy programT && s.parts.isEmpty && (List.range 136).all (fun k => !s.fenced k) && !s.extentBusy programT && decide (s.stagingHeld + programT.stageLen / 4096 ≤ 131072)

theorem map_built {s : State} (h : ∀ k < 136, s.fenced k = false) : s.buildMap.isSome = true := by
  have hd : ∀ d < 4, s.healthyOf d = (List.range 34).map (fun p => 34 * d + p) := by
    intro d hd
    refine List.filter_eq_self.2 (fun k hk => ?_)
    obtain ⟨p, hp, rfl⟩ := List.mem_map.1 hk
    have := List.mem_range.1 hp
    simp [h (34 * d + p) (by omega)]
  have e1 : (List.range 128).map (fun n => (s.healthyOf (n / 32))[n % 32]?) = (List.range 128).map (fun n => ((List.range 34).map (fun p => 34 * (n / 32) + p))[n % 32]?) := by
    refine List.map_congr_left (fun n hn => ?_)
    rw [hd _ (by have := List.mem_range.1 hn; omega)]
  have e2 : (List.range 4).flatMap (fun d => (s.healthyOf d).drop 32) = (List.range 4).flatMap (fun d => ((List.range 34).map (fun p => 34 * d + p)).drop 32) := by
    simp only [List.flatMap, List.map_congr_left (fun d hdm => by rw [hd d (List.mem_range.1 hdm)] : ∀ d ∈ List.range 4, (s.healthyOf d).drop 32 = ((List.range 34).map (fun p => 34 * d + p)).drop 32)]
  unfold State.buildMap
  rw [e1, e2]
  decide +kernel

theorem planned {s : State} (h : ∀ k < 136, s.fenced k = false) (hp : s.parts = []) (p : List Nat) : ∃ m, s.planMap p = .ok m := by
  have b := map_built h
  unfold State.planMap
  split
  · rename_i e; rw [e] at b; cases b
  · rename_i m _
    exact ⟨m, by simp [State.keptCores, hp]⟩

theorem fit_assembly (s : State) (a : Option Assembly) : fit { s with assembly := a } = fit s := rfl

theorem asking_fit (m : List Byte) : fit (asking m) = true := (fit_assembly _ _).trans (by decide +kernel)

/-- The hash itself is left to the program that computed it; with it, the image's plan is its program, whatever the extension of the LOAD. -/
theorem wit_programs_load (h : sha256 (unhashed image) = imageHash) (ext : Option LoadExt) : ∃ map, (asking image).loadPlan 7 0x3000 ext = .ok (programT, map) := by
  have f := asking_fit image
  simp only [fit, Bool.and_eq_true, Bool.not_eq_true', decide_eq_true_eq, List.isEmpty_iff] at f
  obtain ⟨⟨⟨⟨⟨⟨⟨⟨⟨⟨f0, f1⟩, f2⟩, f3⟩, f4⟩, f5⟩, f6⟩, fp⟩, f7⟩, f8⟩, f9⟩ := f
  have f7 := planned (s := asking image) (fun k hk => by simpa using List.all_eq_true.1 f7 k (List.mem_range.2 hk)) fp [programT.part]
  have ha : (asking image).assembly.bind (fun a => if a.conn = 7 then a.image 0x3000 else none) = some image := by
    have := load_image image
    rw [image_length] at this
    exact this
  refine plan_of ext ha (pyist_of (image_checked h _) image_packed f0 rfl) ?_ f6 f7 f8 f9
  simp [State.loadBusy, f1, f2, f3, f4, f5]

end Sys2Proof.Tests
end

section
/-! Chapter 0 of the manual: a step, the commands' outcomes, the invariant that every step keeps, and the state after reset. -/

namespace Sys2Proof.Machine

/-! ### A step (R3, R13) -/

/-- An empty queue lets one ECLK pass. -/
theorem step_of_empty {s : State} (h : s.pending = []) : step s = .next s.tick := by
  simp only [step, h]

/-- A waiting command runs on the state with the queue's rest. -/
theorem step_of_front {s : State} {c : Instr} {l : List Instr} (h : s.pending = c :: l) :
    step s = exec c { s with pending := l } := by
  simp only [step, h]

/-- Every meaning has the form that `guardWf` gives: an effect on every state, guarded by the command's well-formedness. -/
theorem exec_eq_guardWf (c : Instr) (s : State) : ∃ f : State → State, exec c s = guardWf (Instr.wf c) s f := by
  unfold exec
  cases c <;> exact ⟨_, rfl⟩

/-- Settles O1, by the step's equation for a queue that is not empty. -/
theorem stepRunsTheFront : Obligations.StepRunsTheFront := fun _ _ _ => step_of_front

/-- Settles O2: every meaning is an effect guarded by `Instr.wf`. -/
theorem commandsComplete : Obligations.CommandsComplete := by
  intro c s
  obtain ⟨f, hf⟩ := exec_eq_guardWf c s
  rw [hf]
  exact ⟨fun h => ⟨f s, if_pos h⟩, fun h => if_neg (by simp [h])⟩

/-! ### The invariant (R12, R280, R340, R490) -/

/-- No command undoes what `Keeps` says: its meaning does not. -/
theorem exec_keeps {s t : State} : ∀ {c : Instr}, exec c s = .next t → Keeps s t
  | .nop .., e => execNop_keeps (h := .refl s) (e := e) ..
  | .endStream .., e => execEndStream_keeps (h := .refl s) (e := e) ..
  | .loop .., e => execLoop_keeps (h := .refl s) (e := e) ..
  | .boundary .., e => execBoundary_keeps (h := .refl s) (e := e) ..
  | .phase .., e => execPhase_keeps (h := .refl s) (e := e) ..
  | .fadd .., e => execFadd_keeps (h := .refl s) (e := e) ..
  | .faddr .., e => execFaddr_keeps (h := .refl s) (e := e) ..
  | .fwait .., e => execFwait_keeps (h := .refl s) (e := e) ..
  | .agbase .., e => execAgbase_keeps (h := .refl s) (e := e) ..
  | .agstr .., e => execAgstr_keeps (h := .refl s) (e := e) ..
  | .cset .., e => execCset_keeps (h := .refl s) (e := e) ..
  | .cload .., e => execCload_keeps (h := .refl s) (e := e) ..
  | .move .., e => execMove_keeps (h := .refl s) (e := e) ..
  | .qload .., e => execQload_keeps (h := .refl s) (e := e) ..
  | .qstore .., e => execQstore_keeps (h := .refl s) (e := e) ..
  | .sload .., e => execSload_keeps (h := .refl s) (e := e) ..
  | .gather .., e => execGather_keeps (h := .refl s) (e := e) ..
  | .pfetch .., e => execPfetch_keeps (h := .refl s) (e := e) ..
  | .repoch .., e => execRepoch_keeps (h := .refl s) (e := e) ..
  | .racc .., e => execRacc_keeps (h := .refl s) (e := e) ..
  | .rwait .., e => execRwait_keeps (h := .refl s) (e := e) ..
  | .ops .., e => execOps_keeps (h := .refl s) (e := e) ..
  | .amode .., e => execAmode_keeps (h := .refl s) (e := e) ..
  | .preload .., e => execPreload_keeps (h := .refl s) (e := e) ..
  | .ddesc .., e => execDdesc_keeps (h := .refl s) (e := e) ..
  | .drain .., e => execDrain_keeps (h := .refl s) (e := e) ..
  | .rx .., e => execRx_keeps (h := .refl s) (e := e) ..
  | .rebase .., e => execRebase_keeps (h := .refl s) (e := e) ..
  | .qmove .., e => execQmove_keeps (h := .refl s) (e := e) ..
  | .modeChange .., e => execModeChange_keeps (h := .refl s) (e := e) ..
  | .preloadRowWrite .., e => execPreloadRowWrite_keeps (h := .refl s) (e := e) ..
  | .drainRowRead .., e => execDrainRowRead_keeps (h := .refl s) (e := e) ..
  | .drainPush .., e => execDrainPush_keeps (h := .refl s) (e := e) ..
  | .topkPush .., e => execTopkPush_keeps (h := .refl s) (e := e) ..
  | .columnBlockEmit .., e => execColumnBlockEmit_keeps (h := .refl s) (e := e) ..
  | .rxGroup .., e => execRxGroup_keeps (h := .refl s) (e := e) ..
  | .claimGrant .., e => execClaimGrant_keeps (h := .refl s) (e := e) ..
  | .completionFlagAdd .., e => execCompletionFlagAdd_keeps (h := .refl s) (e := e) ..
  | .loopEntryLatch .., e => execLoopEntryLatch_keeps (h := .refl s) (e := e) ..
  | .countSlotWrite .., e => execCountSlotWrite_keeps (h := .refl s) (e := e) ..
  | .queuePush .., e => execQueuePush_keeps (h := .refl s) (e := e) ..
  | .queuePop .., e => execQueuePop_keeps (h := .refl s) (e := e) ..
  | .requestSend .., e => execRequestSend_keeps (h := .refl s) (e := e) ..
  | .hamperAccess .., e => execHamperAccess_keeps (h := .refl s) (e := e) ..
  | .arrayStepEntry .., e => execArrayStepEntry_keeps (h := .refl s) (e := e) ..
  | .strollGapExpiry .., e => execStrollGapExpiry_keeps (h := .refl s) (e := e) ..
  | .rampStage .., e => execRampStage_keeps (h := .refl s) (e := e) ..
  | .hwFault .., e => execHwFault_keeps (h := .refl s) (e := e) ..
  | .streamStart .., e => execStreamStart_keeps (h := .refl s) (e := e) ..
  | .stepClose .., e => execStepClose_keeps (h := .refl s) (e := e) ..
  | .stepOpen .., e => execStepOpen_keeps (h := .refl s) (e := e) ..
  | .programEnd .., e => execProgramEnd_keeps (h := .refl s) (e := e) ..
  | .partitionRelease .., e => execPartitionRelease_keeps (h := .refl s) (e := e) ..
  | .stallTimeout .., e => execStallTimeout_keeps (h := .refl s) (e := e) ..
  | .sliceRead .., e => execSliceRead_keeps (h := .refl s) (e := e) ..
  | .sliceWrite .., e => execSliceWrite_keeps (h := .refl s) (e := e) ..
  | .sliceScrub .., e => execSliceScrub_keeps (h := .refl s) (e := e) ..
  | .potluckContribution .., e => execPotluckContribution_keeps (h := .refl s) (e := e) ..
  | .potluckRoundApply .., e => execPotluckRoundApply_keeps (h := .refl s) (e := e) ..
  | .remoteFlagAdd .., e => execRemoteFlagAdd_keeps (h := .refl s) (e := e) ..
  | .readResponseLand .., e => execReadResponseLand_keeps (h := .refl s) (e := e) ..
  | .writeAcknowledge .., e => execWriteAcknowledge_keeps (h := .refl s) (e := e) ..
  | .bridgeBlockReceive .., e => execBridgeBlockReceive_keeps (h := .refl s) (e := e) ..
  | .bridgeNack .., e => execBridgeNack_keeps (h := .refl s) (e := e) ..
  | .bridgeAck .., e => execBridgeAck_keeps (h := .refl s) (e := e) ..
  | .linkRetrainEnd .., e => execLinkRetrainEnd_keeps (h := .refl s) (e := e) ..
  | .routerFailure .., e => execRouterFailure_keeps (h := .refl s) (e := e) ..
  | .marchComplete .., e => execMarchComplete_keeps (h := .refl s) (e := e) ..
  | .hmcRead .., e => execHmcRead_keeps (h := .refl s) (e := e) ..
  | .hmcWrite .., e => execHmcWrite_keeps (h := .refl s) (e := e) ..
  | .refresh .., e => execRefresh_keeps (h := .refl s) (e := e) ..
  | .hmcScrub .., e => execHmcScrub_keeps (h := .refl s) (e := e) ..
  | .temperatureReadout .., e => execTemperatureReadout_keeps (h := .refl s) (e := e) ..
  | .channelRetraining .., e => execChannelRetraining_keeps (h := .refl s) (e := e) ..
  | .retrainingEnd .., e => execRetrainingEnd_keeps (h := .refl s) (e := e) ..
  | .tallyAdd .., e => execTallyAdd_keeps (h := .refl s) (e := e) ..
  | .digestSweepComplete .., e => execDigestSweepComplete_keeps (h := .refl s) (e := e) ..
  | .tgRunComplete .., e => execTgRunComplete_keeps (h := .refl s) (e := e) ..
  | .refreshManagement .., e => execRefreshManagement_keeps (h := .refl s) (e := e) ..
  | .interfaceError .., e => execInterfaceError_keeps (h := .refl s) (e := e) ..
  | .openConn .., e => execOpenConn_keeps (h := .refl s) (e := e) ..
  | .openAck .., e => execOpenAck_keeps (h := .refl s) (e := e) ..
  | .ack .., e => execAck_keeps (h := .refl s) (e := e) ..
  | .ackTimer .., e => execAckTimer_keeps (h := .refl s) (e := e) ..
  | .resendTimer .., e => execResendTimer_keeps (h := .refl s) (e := e) ..
  | .halfOpenTimeout .., e => execHalfOpenTimeout_keeps (h := .refl s) (e := e) ..
  | .regRead .., e => execRegRead_keeps (h := .refl s) (e := e) ..
  | .regWrite .., e => execRegWrite_keeps (h := .refl s) (e := e) ..
  | .memRead .., e => execMemRead_keeps (h := .refl s) (e := e) ..
  | .memWrite .., e => execMemWrite_keeps (h := .refl s) (e := e) ..
  | .image .., e => execImage_keeps (h := .refl s) (e := e) ..
  | .imageAssemblyTimeout .., e => execImageAssemblyTimeout_keeps (h := .refl s) (e := e) ..
  | .load .., e => execLoad_keeps (h := .refl s) (e := e) ..
  | .start .., e => execStart_keeps (h := .refl s) (e := e) ..
  | .step .., e => execStep_keeps (h := .refl s) (e := e) ..
  | .partitionKill .., e => execPartitionKill_keeps (h := .refl s) (e := e) ..
  | .groupSet .., e => execGroupSet_keeps (h := .refl s) (e := e) ..
  | .runTestPack .., e => execRunTestPack_keeps (h := .refl s) (e := e) ..
  | .testComplete .., e => execTestComplete_keeps (h := .refl s) (e := e) ..
  | .testRunmaxExpiry .., e => execTestRunmaxExpiry_keeps (h := .refl s) (e := e) ..
  | .startMarch .., e => execStartMarch_keeps (h := .refl s) (e := e) ..
  | .stopMarch .., e => execStopMarch_keeps (h := .refl s) (e := e) ..
  | .retrainChannel .., e => execRetrainChannel_keeps (h := .refl s) (e := e) ..
  | .digestSweep .., e => execDigestSweep_keeps (h := .refl s) (e := e) ..
  | .clearUnitRecord .., e => execClearUnitRecord_keeps (h := .refl s) (e := e) ..
  | .fenceUnit .., e => execFenceUnit_keeps (h := .refl s) (e := e) ..
  | .deleteTestPack .., e => execDeleteTestPack_keeps (h := .refl s) (e := e) ..
  | .setModuleConfiguration .., e => execSetModuleConfiguration_keeps (h := .refl s) (e := e) ..
  | .warmReset .., e => execWarmReset_keeps (h := .refl s) (e := e) ..
  | .enterShade .., e => execEnterShade_keeps (h := .refl s) (e := e) ..
  | .leaveShade .., e => execLeaveShade_keeps (h := .refl s) (e := e) ..
  | .installOwnerKey .., e => execInstallOwnerKey_keeps (h := .refl s) (e := e) ..
  | .installPeerKey .., e => execInstallPeerKey_keeps (h := .refl s) (e := e) ..
  | .retireOwnerPrevious .., e => execRetireOwnerPrevious_keeps (h := .refl s) (e := e) ..
  | .retirePeerPrevious .., e => execRetirePeerPrevious_keeps (h := .refl s) (e := e) ..
  | .release .., e => execRelease_keeps (h := .refl s) (e := e) ..
  | .fwImageData .., e => execFwImageData_keeps (h := .refl s) (e := e) ..
  | .fwImageFinish .., e => execFwImageFinish_keeps (h := .refl s) (e := e) ..
  | .fwImageActivate .., e => execFwImageActivate_keeps (h := .refl s) (e := e) ..
  | .fwImageCommit .., e => execFwImageCommit_keeps (h := .refl s) (e := e) ..
  | .fwImageAbort .., e => execFwImageAbort_keeps (h := .refl s) (e := e) ..
  | .attest .., e => execAttest_keeps (h := .refl s) (e := e) ..
  | .telemetryDropTimeout .., e => execTelemetryDropTimeout_keeps (h := .refl s) (e := e) ..
  | .counterSnapshot .., e => execCounterSnapshot_keeps (h := .refl s) (e := e) ..
  | .roll .., e => execRoll_keeps (h := .refl s) (e := e) ..
  | .rollResend .., e => execRollResend_keeps (h := .refl s) (e := e) ..
  | .answer .., e => execAnswer_keeps (h := .refl s) (e := e) ..
  | .rollCallDeadline .., e => execRollCallDeadline_keeps (h := .refl s) (e := e) ..
  | .roster .., e => execRoster_keeps (h := .refl s) (e := e) ..
  | .rollCallTimeout .., e => execRollCallTimeout_keeps (h := .refl s) (e := e) ..
  | .contrib .., e => execContrib_keeps (h := .refl s) (e := e) ..
  | .rack .., e => execRack_keeps (h := .refl s) (e := e) ..
  | .done .., e => execDone_keeps (h := .refl s) (e := e) ..
  | .epochDeadline .., e => execEpochDeadline_keeps (h := .refl s) (e := e) ..
  | .admitRanks .., e => execAdmit_keeps (h := .refl s) (e := e) ..
  | .late .., e => execLate_keeps (h := .refl s) (e := e) ..
  | .close .., e => execClose_keeps (h := .refl s) (e := e) ..
  | .holderResultSend .., e => execHolderResultSend_keeps (h := .refl s) (e := e) ..
  | .result .., e => execResult_keeps (h := .refl s) (e := e) ..
  | .abandon .., e => execAbandon_keeps (h := .refl s) (e := e) ..
  | .lost .., e => execLost_keeps (h := .refl s) (e := e) ..
  | .rwaitTimeout .., e => execRwaitTimeout_keeps (h := .refl s) (e := e) ..
  | .memberDeadline .., e => execMemberDeadline_keeps (h := .refl s) (e := e) ..
  | .admitIntervalExpiry .., e => execAdmitIntervalExpiry_keeps (h := .refl s) (e := e) ..
  | .begin .., e => execBegin_keeps (h := .refl s) (e := e) ..
  | .begun .., e => execBegun_keeps (h := .refl s) (e := e) ..
  | .cairnData .., e => execCairnData_keeps (h := .refl s) (e := e) ..
  | .seal .., e => execSeal_keeps (h := .refl s) (e := e) ..
  | .sealed .., e => execSealed_keeps (h := .refl s) (e := e) ..
  | .cairnWriteTimeout .., e => execCairnWriteTimeout_keeps (h := .refl s) (e := e) ..
  | .fetch .., e => execFetch_keeps (h := .refl s) (e := e) ..
  | .fetched .., e => execFetched_keeps (h := .refl s) (e := e) ..
  | .restoreComplete .., e => execRestoreComplete_keeps (h := .refl s) (e := e) ..
  | .unitEventCommit .., e => execUnitEventCommit_keeps (h := .refl s) (e := e) ..
  | .hourlyClassification .., e => execHourlyClassification_keeps (h := .refl s) (e := e) ..
  | .powerOnReset .., e => execPowerOnReset_keeps (h := .refl s) (e := e) ..
  | .computePowerUp .., e => execComputePowerUp_keeps (h := .refl s) (e := e) ..
  | .trialWatchdog .., e => execTrialWatchdog_keeps (h := .refl s) (e := e) ..
  | .supplySample .., e => execSupplySample_keeps (h := .refl s) (e := e) ..
  | .limiterTick .., e => execLimiterTick_keeps (h := .refl s) (e := e) ..
  | .coolantSample .., e => execCoolantSample_keeps (h := .refl s) (e := e) ..
  | .facilityStatus .., e => execFacilityStatus_keeps (h := .refl s) (e := e) ..
  | .valve .., e => execValve_keeps (h := .refl s) (e := e) ..
  | .shutdown .., e => execShutdown_keeps (h := .refl s) (e := e) ..
  | .hubDieTemperature .., e => execHubDieTemperature_keeps (h := .refl s) (e := e) ..
  | .facilityBadFrame .., e => execFacilityBadFrame_keeps (h := .refl s) (e := e) ..
  | .linkAttemptTimeout .., e => execLinkAttemptTimeout_keeps (h := .refl s) (e := e) ..
  | .linkLoss .., e => execLinkLoss_keeps (h := .refl s) (e := e) ..
  | .linkUp .., e => execLinkUp_keeps (h := .refl s) (e := e) ..
  | .pauseFrame .., e => execPauseFrame_keeps (h := .refl s) (e := e) ..
  | .nonIpFrame .., e => execNonIpFrame_keeps (h := .refl s) (e := e) ..
  | .neighborSolicitation .., e => execNeighborSolicitation_keeps (h := .refl s) (e := e) ..
  | .echoRequest .., e => execEchoRequest_keeps (h := .refl s) (e := e) ..
  | .extensionHeaderPacket .., e => execExtensionHeaderPacket_keeps (h := .refl s) (e := e) ..
  | .badUdpChecksum .., e => execBadUdpChecksum_keeps (h := .refl s) (e := e) ..
  | .malformedPacket .., e => execMalformedPacket_keeps (h := .refl s) (e := e) ..
  | .ptpSync .., e => execPtpSync_keeps (h := .refl s) (e := e) ..
  | .ptpHoldover .., e => execPtpHoldover_keeps (h := .refl s) (e := e) ..
  | .stepNow .., e => execStepNow_keeps (h := .refl s) (e := e) ..
  | .leakClr .., e => execLeakClr_keeps (h := .refl s) (e := e) ..
  | .arithFlagClear .., e => execArithFlagClear_keeps (h := .refl s) (e := e) ..
  | .talModeWrite .., e => execTalModeWrite_keeps (h := .refl s) (e := e) ..
  | .digestRegionConfig .., e => execDigestRegionConfig_keeps (h := .refl s) (e := e) ..
  | .storeConfig .., e => execStoreConfig_keeps (h := .refl s) (e := e) ..
  | .clientConfig .., e => execClientConfig_keeps (h := .refl s) (e := e) ..
  | .tgOff .., e => execTgOff_keeps (h := .refl s) (e := e) ..
  | .tgReadCheck .., e => execTgReadCheck_keeps (h := .refl s) (e := e) ..
  | .tgWriteCompare .., e => execTgWriteCompare_keeps (h := .refl s) (e := e) ..
  | .tgWriteOnly .., e => execTgWriteOnly_keeps (h := .refl s) (e := e) ..
  | .flashProgramComplete .., e => execFlashProgramComplete_keeps (h := .refl s) (e := e) ..

/-- No step undoes what `Keeps` says. -/
theorem step_keeps {s t : State} (h : step s = .next t) : Keeps s t := by
  cases hp : s.pending with
  | nil =>
    rw [step_of_empty hp] at h
    cases h
    exact State.tick_keeps (.refl s)
  | cons c l =>
    rw [step_of_front hp] at h
    have hq : Keeps s { s with pending := l } := Keeps.mk_rest (h := .refl s) ..
    exact hq.trans (exec_keeps h)

/-- Settles O3, by what each command and the tick keep. -/
theorem stepKeepsInvariant : Obligations.StepKeepsInvariant := fun _ _ hi h => (step_keeps h).inv hi

/-! ### Registers at reset (R12) -/

@[simp] theorem State.reg_reset (a : Nat) : State.reset.reg a = resetWord a := rfl

@[simp] theorem State.fld_reset (a hi lo : Nat) : State.reset.fld a hi lo = bits (resetWord a) hi lo := rfl

/-- Address `a` is one of the register's, as `wregAt` asks. -/
def WReg.has (r : WReg) (a : Nat) : Prop := r.base ≤ a ∧ (a - r.base) % r.stride = 0 ∧ (a - r.base) / r.stride < r.count

/-- The addresses of one register end before those of the other begin, or the two have one stride and different remainders by it. -/
def WReg.apart (r q : WReg) : Prop :=
  r.base + r.stride * (r.count - 1) < q.base ∨ q.base + q.stride * (q.count - 1) < r.base ∨
    r.stride = q.stride ∧ r.base % r.stride ≠ q.base % q.stride

theorem WReg.has_iff {r : WReg} {a : Nat} (hs : 0 < r.stride) : r.has a ↔ ∃ i < r.count, a = r.base + r.stride * i := by
  constructor
  · rintro ⟨hb, hm, hc⟩
    refine ⟨(a - r.base) / r.stride, hc, ?_⟩
    have := Nat.mul_div_cancel' (Nat.dvd_of_mod_eq_zero hm)
    omega
  · rintro ⟨i, hi, rfl⟩
    exact ⟨by omega, by simp, by simpa [Nat.mul_div_cancel_left _ hs] using hi⟩

theorem WReg.apart_symm : Std.Symm WReg.apart := by
  refine ⟨?_⟩
  rintro r q (h | h | ⟨hs, h⟩)
  · exact .inr (.inl h)
  · exact .inl h
  · exact .inr (.inr ⟨hs.symm, h.symm⟩)

/-- Registers that are apart have no address in common. -/
theorem WReg.apart.not_has {r q : WReg} {a : Nat} (h : r.apart q) (hr : 0 < r.stride) (hq : 0 < q.stride) (ha : r.has a) : ¬ q.has a := by
  intro hb
  obtain ⟨i, hi, rfl⟩ := (WReg.has_iff hr).1 ha
  obtain ⟨j, hj, hij⟩ := (WReg.has_iff hq).1 hb
  have hi' : r.stride * i ≤ r.stride * (r.count - 1) := Nat.mul_le_mul_left _ (by omega)
  have hj' : q.stride * j ≤ q.stride * (q.count - 1) := Nat.mul_le_mul_left _ (by omega)
  rcases h with h | h | ⟨hs, h⟩
  · omega
  · omega
  · refine h ?_
    rw [← Nat.add_mul_mod_self_left r.base r.stride i, ← Nat.add_mul_mod_self_left q.base q.stride j, hij, hs]

theorem wregs_stride_pos : ∀ r ∈ wregs, 0 < r.stride := by decide

theorem wregs_apart : wregs.Pairwise WReg.apart := by
  unfold WReg.apart
  decide

theorem wregAt_eq_some {r : WReg} {a : Nat} (h : wregAt a = some r) : r ∈ wregs ∧ r.has a := by
  unfold wregAt at h
  exact ⟨List.mem_of_find?_eq_some h, by simpa [WReg.has] using List.find?_some h⟩

theorem wregAt_eq_none {a : Nat} (h : wregAt a = none) : ∀ r ∈ wregs, ¬ r.has a := by
  unfold wregAt at h
  simpa [WReg.has] using h

/-- No two writable registers share an address, so the one that holds an address is the one found there. -/
theorem wregAt_of_has {r : WReg} {a : Nat} (hr : r ∈ wregs) (ha : r.has a) : wregAt a = some r := by
  cases hf : wregAt a with
  | none => exact absurd ha (wregAt_eq_none hf r hr)
  | some q =>
    obtain ⟨hq, hqa⟩ := wregAt_eq_some hf
    by_contra hne
    have hs := WReg.apart_symm
    have hap : r.apart q := wregs_apart.forall hr hq (fun h => hne (by rw [h]))
    exact hap.not_has (wregs_stride_pos r hr) (wregs_stride_pos q hq) ha hqa

/-- At each address of a writable register the reset word is that register's. -/
theorem resetWord_of_wreg {a i base count stride word : Nat}
    (hr : ∃ r ∈ wregs, r.base = base ∧ r.count = count ∧ r.stride = stride ∧ r.reset = word)
    (hi : i < count) (ha : a = base + stride * i) : resetWord a = word := by
  obtain ⟨r, hr, rfl, rfl, rfl, rfl⟩ := hr
  have h : r.has a := (WReg.has_iff (wregs_stride_pos r hr)).2 ⟨i, hi, ha⟩
  simp [resetWord, wregAt_of_has hr h]

theorem resetWord_rStroll {k : Nat} (h : k < 136) : resetWord (rStroll k) = 0x40 :=
  resetWord_of_wreg (base := rStroll 0) (stride := 0x10000) (by decide) h (by unfold rStroll; omega)

theorem resetWord_rArith {k : Nat} (h : k < 136) : resetWord (rArith k) = 0 :=
  resetWord_of_wreg (base := rArith 0) (stride := 0x10000) (by decide) h (by unfold rArith; omega)

theorem resetWord_rWdog {p : Nat} (h : p < 8) : resetWord (rWdog p) = 500 * 2 ^ 32 :=
  resetWord_of_wreg (base := rWdog 0) (stride := 8) (by decide) h (by unfold rWdog; omega)

theorem resetWord_rHmcCtrl {q : Nat} (h : q < 256) : resetWord (rHmcCtrl q) = 0x0C20 :=
  resetWord_of_wreg (base := rHmcCtrl 0) (stride := 0x1000) (by decide) h (by unfold rHmcCtrl; omega)

theorem resetWord_rTalCtrl {q : Nat} (h : q < 256) : resetWord (rTalCtrl q) = 0 :=
  resetWord_of_wreg (base := rTalCtrl 0) (stride := 0x1000) (by decide) h (by unfold rTalCtrl; omega)

theorem resetWord_rTerm : ∀ p < 8, resetWord (rTerm p) = 0 := by decide

theorem resetWord_rPoison : ∀ p < 8, resetWord (rPoison p) = 0 := by decide

theorem resetWord_rLink : ∀ d < 4, ∀ n < 4, resetWord (rLink d n) = 2 ^ 62 := by decide

/-! ### The state after reset (R12, R282, R532) -/

theorem State.regsWf_of_nil {s : State} (h : s.regs = []) : s.regsWf := by
  simp [State.regsWf, h, Tab.rising_nil]

/-- Settles O4: nothing is listed in memory or among the registers, and no fuse of the SVN floor is blown. -/
theorem resetHasInvariant : Obligations.ResetHasInvariant :=
  ⟨Memory.wf_empty, State.regsWf_of_nil rfl, Nat.zero_le _⟩

theorem Memory.byte_empty (k : Nat) : Memory.empty.byte k = 0 := rfl

theorem Memory.bad_empty (k : Nat) : Memory.empty.bad k = false := rfl

/-- Settles O6, from the reset word of each register named. -/
theorem resetState : Obligations.ResetState := by
  unfold Obligations.ResetState
  intro s
  refine ⟨rfl, rfl, rfl, rfl, rfl, rfl, rfl, rfl, fun k => ⟨Memory.byte_empty k, Memory.bad_empty k⟩,
    fun k hk => ?_, fun p hp => ?_, fun q hq => ?_, by decide, by decide, by decide, fun d hd n hn => ?_,
    by decide, by decide, by decide, by decide, by decide, by decide, by decide, by decide, by decide, by decide,
    by decide, by decide, by decide⟩
  · simp [s, resetWord_rStroll hk, resetWord_rArith hk, bits]
  · simp [s, resetWord_rWdog hp, resetWord_rTerm p hp, resetWord_rPoison p hp, bits]
  · simp [s, resetWord_rHmcCtrl hq, resetWord_rTalCtrl hq, bits]
  · simp [s, resetWord_rLink d hd n hn, bits]

end Sys2Proof.Machine
end

section
/-! SUPPORT. What the operations leave of the state: what a write of memory does outside its bytes, what sending and traffic change, what the hub's write stores, and what a change of the cores and their map leaves. -/

namespace Sys2Proof.Machine

/-! ### Poison marks outside a write (R280, R340) -/

/-- The groups of scratchpad and hampers are of 8 bytes, those of stacked memory of 32 (R280, R340). -/
theorem groupSize_cases (k : Nat) : groupSize k = 8 ∧ k < 2 ^ 40 ∨ groupSize k = 32 ∧ 2 ^ 40 ≤ k := by
  unfold groupSize stackDpa
  split <;> omega

/-- A poison group that a range touches reaches into the range. -/
theorem of_mem_groupsOf {k n g : Nat} (h : g ∈ groupsOf k n) :
    k / groupSize k * groupSize k ≤ g ∧ k < g + groupSize k ∧ g < k + n := by
  unfold groupsOf at h
  split at h
  · simp at h
  · obtain ⟨i, hi, rfl⟩ := List.mem_map.1 h
    have hi := List.mem_range.1 hi
    obtain ⟨hz, -⟩ | ⟨hz, -⟩ := groupSize_cases k <;> simp only [hz] at hi ⊢ <;> omega

theorem Memory.mem_poison_setPoison_ne (m : Memory) {g j : Nat} (p : Bool) (h : j ≠ g) :
    j ∈ (m.setPoison g p).poison ↔ j ∈ m.poison := by
  unfold Memory.setPoison
  cases p <;> simp [mem_insertNat, h]

/-- Marks set on other groups leave a group's mark. -/
theorem Memory.mem_poison_foldl_setPoison {l : List (Nat × Bool)} {j : Nat} (h : ∀ e ∈ l, j ≠ e.1) (m : Memory) :
    j ∈ (l.foldl (fun m e => m.setPoison e.1 e.2) m).poison ↔ j ∈ m.poison := by
  induction l generalizing m with
  | nil => rfl
  | cons e r ih =>
    obtain ⟨he, hr⟩ := List.forall_mem_cons.1 h
    rw [List.foldl_cons, ih hr, Memory.mem_poison_setPoison_ne _ _ he]

/-- A masked write leaves the mark of every group outside it. -/
theorem Memory.bad_writeB_outside (m : Memory) (k : Nat) (bs : List PByte) {j : Nat}
    (h : groupOf j + groupSize j ≤ k ∨ k + bs.length ≤ groupOf j) : (m.writeB k bs).bad j = m.bad j := by
  have hne : ∀ e ∈ (groupsOf k bs.length).map (fun g => (g, m.groupMark k bs g)), groupOf j ≠ e.1 := by
    intro e he
    obtain ⟨g, hg, rfl⟩ := List.mem_map.1 he
    obtain ⟨hlo, hk, hn⟩ := of_mem_groupsOf hg
    simp only [groupOf] at h ⊢
    obtain ⟨hj, _⟩ | ⟨hj, _⟩ := groupSize_cases j <;> obtain ⟨hz, _⟩ | ⟨hz, _⟩ := groupSize_cases k <;>
      simp only [hj, hz] at h hlo hk ⊢ <;> omega
  have hmem := Memory.mem_poison_foldl_setPoison hne (m.setBytes k (bs.map (·.1)))
  rw [Memory.poison_setBytes] at hmem
  rw [Memory.bad, Memory.bad, Memory.writeB, Bool.eq_iff_iff, List.contains_iff_mem, List.contains_iff_mem]
  exact hmem

/-- A write leaves every byte, and the mark of every group, outside it. -/
theorem State.sameMemBut_of_writeB {s t : State} {a n : Nat} {bs : List PByte} (hn : bs.length = n)
    (h : t.mem = s.mem.writeB a bs) : s.sameMemBut t a n := by
  subst hn
  intro k hk
  rw [h]
  exact ⟨Memory.byte_writeB_outside _ _ _ hk, Memory.bad_writeB_outside _ _ _⟩

/-! ### What sending changes (R410, R421, R427) -/

namespace State

/-- `t` is `s` but for connections and what was sent. -/
def SentOnly (s t : State) : Prop := t = { s with conns := t.conns, outbox := t.outbox }

namespace SentOnly

variable {σ s t : State}

/-- An update of connections and of what was sent. -/
theorem update (h : σ.SentOnly s) (conns : Tab Conn) (outbox : List Out) : σ.SentOnly { s with conns := conns, outbox := outbox } := by
  rw [h]
  rfl

theorem refl (s : State) : s.SentOnly s := rfl

theorem ite {c : Prop} [Decidable c] (hs : σ.SentOnly s) (ht : σ.SentOnly t) : σ.SentOnly (if c then s else t) := by
  split <;> assumption

theorem parts (h : s.SentOnly t) : t.parts = s.parts := by rw [h]

theorem mem (h : s.SentOnly t) : t.mem = s.mem := by rw [h]

theorem clock (h : s.SentOnly t) : t.clock = s.clock := by rw [h]

theorem kept (h : s.SentOnly t) : t.kept = s.kept := by rw [h]

theorem regs (h : s.SentOnly t) : t.regs = s.regs := by rw [h]

theorem emitUp (h : σ.SentOnly s) (o : Out) : σ.SentOnly (s.emitUp o) := .ite (h.update ..) h

theorem transmit (h : σ.SentOnly s) (c : Conn) (m : Msg) : σ.SentOnly (s.transmit c m) := emitUp (h.update ..) _

theorem drainMsgs (h : σ.SentOnly s) (n : Nat) (l : List Msg) : σ.SentOnly (s.drainMsgs n l) := by
  induction l generalizing s with
  | nil => exact h
  | cons m r ih =>
    unfold State.drainMsgs
    split
    · exact h
    · exact .ite (ih (h.transmit _ _)) h

theorem drain (h : σ.SentOnly s) (n : Nat) : σ.SentOnly (s.drain n) := by
  unfold State.drain
  split
  · exact h
  · exact h.drainMsgs _ _

theorem sendOn (h : σ.SentOnly s) (n : Nat) (m : Msg) : σ.SentOnly (s.sendOn n m) := by
  unfold State.sendOn
  split
  · exact h
  · exact .ite h (drain (h.update ..) _)

end SentOnly

end State

/-- A reply is kept, and sent (R427). -/
theorem State.answer_sentOnly (s : State) (a : Asker) (status : Nat) (late poison : Bool) (data : List Byte) :
    State.SentOnly { s with kept := keepReply a.owner a.req (.reply a.req status late poison data) s.kept }
      (s.answer a status late poison data) :=
  State.SentOnly.sendOn (.refl _) _ _

/-- The reply kept for a request is the one given. -/
theorem reply_of_mem_keepReply {owner req : Nat} {m : Msg} {l : List Kept} {e : Kept} (he : e ∈ keepReply owner req m l)
    (ho : e.owner = owner) (hr : e.req = req) : e.reply = some m := by
  obtain ⟨k, -, rfl⟩ := List.mem_map.1 he
  by_cases h : k.owner = owner ∧ k.req = req
  · rw [if_pos h]
  · rw [if_neg h] at ho hr
    exact absurd ⟨ho, hr⟩ h

/-! ### What traffic leaves behind -/

namespace State

/-- `t` is `s` but for what requests and messages leave behind on their way: registers, free values, connections, the fabric's banks, merge windows and credit, the controllers, digest windows and what was sent. -/
def TrafficOnly (s t : State) : Prop :=
  t = { s with
    free := t.free, regs := t.regs, busy := t.busy, merge := t.merge, chans := t.chans, conns := t.conns
    connsUsed := t.connsUsed, win := t.win, deficit := t.deficit, outbox := t.outbox }

namespace TrafficOnly

variable {σ s t : State}

/-- An update of what traffic moves. -/
theorem update (h : σ.TrafficOnly s) (free : Nat) (regs : Tab Word64) (busy merge : Tab Nat) (chans : Tab Chan) (conns : Tab Conn)
    (connsUsed : List Nat) (win deficit : Tab Nat) (outbox : List Out) :
    σ.TrafficOnly { s with
      free := free, regs := regs, busy := busy, merge := merge, chans := chans, conns := conns
      connsUsed := connsUsed, win := win, deficit := deficit, outbox := outbox } := by
  rw [h]
  rfl

theorem refl (s : State) : s.TrafficOnly s := rfl

theorem foldl {α : Type} {f : State → α → State} (h : σ.TrafficOnly s) (hf : ∀ {s : State} (a : α), σ.TrafficOnly s → σ.TrafficOnly (f s a))
    (l : List α) : σ.TrafficOnly (l.foldl f s) := by
  induction l generalizing s with
  | nil => exact h
  | cons a r ih => exact ih (hf a h)

theorem ite {c : Prop} [Decidable c] (hs : σ.TrafficOnly s) (ht : σ.TrafficOnly t) : σ.TrafficOnly (if c then s else t) := by
  split <;> assumption

theorem parts (h : s.TrafficOnly t) : t.parts = s.parts := by rw [h]

theorem mem (h : s.TrafficOnly t) : t.mem = s.mem := by rw [h]

theorem clock (h : s.TrafficOnly t) : t.clock = s.clock := by rw [h]

theorem part (h : s.TrafficOnly t) (p : Nat) : t.part p = s.part p := by simp only [State.part, h.parts]

/-! #### Registers -/

theorem setReg (h : σ.TrafficOnly s) (a v : Nat) : σ.TrafficOnly (s.setReg a v) := h.update ..

theorem setFld (h : σ.TrafficOnly s) (a hi lo v : Nat) : σ.TrafficOnly (s.setFld a hi lo v) := h.setReg _ _

theorem addFld (h : σ.TrafficOnly s) (a hi lo v : Nat) : σ.TrafficOnly (s.addFld a hi lo v) := h.setReg _ _

theorem maxFld (h : σ.TrafficOnly s) (a hi lo v : Nat) : σ.TrafficOnly (s.maxFld a hi lo v) := h.setReg _ _

/-! #### Messages (R410, R421, R427, R438) -/

/-- Sending is traffic. -/
theorem sent (h : σ.TrafficOnly s) (g : s.SentOnly t) : σ.TrafficOnly t := by
  rw [g]
  exact h.update ..

theorem transmit (h : σ.TrafficOnly s) (c : Conn) (m : Msg) : σ.TrafficOnly (s.transmit c m) := h.sent (.transmit (.refl s) c m)

theorem sendOn (h : σ.TrafficOnly s) (n : Nat) (m : Msg) : σ.TrafficOnly (s.sendOn n m) := h.sent (.sendOn (.refl s) n m)

theorem countDrop (h : σ.TrafficOnly s) (source part : Nat) : σ.TrafficOnly (s.countDrop source part) := by
  unfold State.countDrop
  split
  · exact .ite (h.addFld _ _ _ _) h
  · exact h.addFld _ _ _ _
  · exact h.addFld _ _ _ _
  · exact h.addFld _ _ _ _
  · exact h

theorem countLost (h : σ.TrafficOnly s) (l : List Msg) : σ.TrafficOnly (s.countLost l) := by
  unfold State.countLost
  refine foldl (foldl h (fun _ h => h.countDrop _ _) _) (fun m h => ?_) _
  split
  · exact .ite h (h.countDrop _ _)
  · exact h

theorem freshConn (h : σ.TrafficOnly s) : σ.TrafficOnly s.freshConn.2 := h.update ..

theorem sendTo (h : σ.TrafficOnly s) (cls id addr : Nat) (m : Msg) : σ.TrafficOnly (s.sendTo cls id addr m) := by
  unfold State.sendTo
  split
  · exact h.sendOn _ _
  · exact .ite (h.countLost _) (h.freshConn.transmit _ _)

theorem telemetry (h : σ.TrafficOnly s) (source part step : Nat) (data : List Byte) :
    σ.TrafficOnly (s.telemetry source part step data) := .ite (h.countDrop _ _) (h.sendTo _ _ _ _)

theorem sendTermination (h : σ.TrafficOnly s) (p w : Nat) : σ.TrafficOnly (s.sendTermination p w) := .ite h (h.sendTo _ _ _ _)

theorem dropPhase (h : σ.TrafficOnly s) (p : Nat) : σ.TrafficOnly (s.dropPhase p) := .ite (countDrop (h.update ..) _ _) h

theorem exportPhases (h : σ.TrafficOnly s) (p : Nat) (partly : Bool) : σ.TrafficOnly (s.exportPhases p partly) := by
  have hs := ((h.dropPhase p).setFld (rPhaseStat p) 63 32 ((s.dropPhase p).part p).step).setFld (rPhaseStat p) 29 16
    (s.phaseRecords p partly).length
  exact .ite (.ite hs (hs.countDrop _ _)) (foldl hs (fun _ h => h.telemetry _ _ _ _) _)

/-! #### The transport's words (R22, R284, R326) and digest windows (R352) -/

theorem waited (h : σ.TrafficOnly s) (m d n : Nat) : σ.TrafficOnly (s.waited m d n) :=
  have hs := h.maxFld (rMstarve m) 63 32 n
  .ite (hs.addFld _ _ _ _) hs

theorem spend (h : σ.TrafficOnly s) (d cls : Nat) : σ.TrafficOnly (s.spend d cls) := .ite h (h.update ..)

theorem bankAccess (h : σ.TrafficOnly s) (m a : Nat) : σ.TrafficOnly (s.bankAccess m a).1 := addFld (h.update ..) _ _ _ _

theorem closeMerge (h : σ.TrafficOnly s) (a : Nat) : σ.TrafficOnly (s.closeMerge a) := h.update ..

theorem sliceRead (h : σ.TrafficOnly s) (m a : Nat) : σ.TrafficOnly (s.sliceRead m a).1 := by
  unfold State.sliceRead
  split
  · exact h.addFld _ _ _ _
  · exact (h.bankAccess m a).update ..

theorem countAccess (h : σ.TrafficOnly s) (a : Nat) (wr : Bool) : σ.TrafficOnly (s.countAccess a wr) := by
  unfold State.countAccess
  split
  · exact h
  · exact .ite h (update (addFld (addFld (.ite (h.addFld _ _ _ _) (h.addFld _ _ _ _)) _ _ _ _) _ _ _ _) ..)

theorem hubWord (h : σ.TrafficOnly s) (a : Nat) (wr : Bool) : σ.TrafficOnly (s.hubWord a wr) := by
  unfold State.hubWord
  split
  · refine spend (waited ?_ _ _ _) _ _
    cases wr
    · exact h.sliceRead _ _
    · exact (h.bankAccess _ _).closeMerge _
  · split
    · exact (h.countAccess _ _).spend _ _
    · exact h

theorem hubOp (h : σ.TrafficOnly s) (a n : Nat) (wr : Bool) : σ.TrafficOnly (s.hubOp a n wr) :=
  maxFld (foldl h (fun _ h => h.hubWord _ _) _) _ _ _ _

theorem markWin (h : σ.TrafficOnly s) (n m : Nat) : σ.TrafficOnly (s.markWin n m) := h.update ..

theorem noteRegion (h : σ.TrafficOnly s) (q a : Nat) (bs : List PByte) (n : Nat) : σ.TrafficOnly (s.noteRegion q a bs n) := by
  have hw : σ.TrafficOnly (if bs.length = 64 then s.setReg (rDgwacc q n) (BitVec.ofNat 64 (s.reg (rDgwacc q n)) ^^^ contribution (bs.map (·.1)) a).toNat
      else s.markWin n 1) := .ite (h.setReg _ _) (h.markWin _ _)
  have hp : σ.TrafficOnly (if bs.any (·.2) then State.markWin _ n 2 else _) := .ite (hw.markWin _ _) hw
  exact .ite (.ite (hp.setFld _ _ _ _) hp) h

theorem noteWrite (h : σ.TrafficOnly s) (q a : Nat) (bs : List PByte) : σ.TrafficOnly (s.noteWrite q a bs) :=
  foldl h (fun _ h => h.noteRegion _ _ _ _) _

/-! #### The close of a step (R352, R478) -/

theorem govern (h : σ.TrafficOnly s) (p : Nat) : σ.TrafficOnly (s.govern p) :=
  .ite (setFld (setFld (setFld h _ _ _ _) _ _ _ _) _ _ _ _) h

theorem closeWindow (h : σ.TrafficOnly s) (n step : Nat) : σ.TrafficOnly (s.closeWindow n step) :=
  foldl (update (setFld (setFld (setFld (setFld (setReg h _ _) _ _ _ _) _ _ _ _) _ _ _ _) _ _ _ _) ..) (fun _ h => h.setReg _ _) _

theorem closeWindows (h : σ.TrafficOnly s) (p step : Nat) : σ.TrafficOnly (s.closeWindows p step) :=
  foldl h (fun _ h => .ite (h.closeWindow _ _) h) _

end TrafficOnly

end State

/-! ### The transport's writes (R248, R352) -/

/-- What no step of a fold changes, the fold leaves. -/
theorem State.foldl_leaves {α β : Type} (f : State → β) {g : State → α → State} (h : ∀ s a, f (g s a) = f s) (l : List α) (s : State) :
    f (l.foldl g s) = f s := by
  induction l generalizing s with
  | nil => rfl
  | cons a r ih => rw [List.foldl_cons, ih, h]

@[simp] theorem State.writeMem_parts (s : State) (a : Nat) (bs : List PByte) : (s.writeMem a bs).parts = s.parts := by
  unfold State.writeMem
  split <;> rfl

@[simp] theorem State.writeMem_clock (s : State) (a : Nat) (bs : List PByte) : (s.writeMem a bs).clock = s.clock := by
  unfold State.writeMem
  split <;> rfl

theorem State.storeWord_cases (s : State) (a : Nat) (bs : List PByte) :
    s.storeWord a bs = s ∨ (s.writeMem a bs).TrafficOnly (s.storeWord a bs) := by
  unfold State.storeWord
  split
  · exact .inl rfl
  · split
    · exact .inr (.noteWrite (.refl _) _ _ _)
    · exact .inr (.refl _)

@[simp] theorem State.storeWord_parts (s : State) (a : Nat) (bs : List PByte) : (s.storeWord a bs).parts = s.parts := by
  rcases s.storeWord_cases a bs with h | h
  · rw [h]
  · rw [h.parts, State.writeMem_parts]

@[simp] theorem State.storeWord_clock (s : State) (a : Nat) (bs : List PByte) : (s.storeWord a bs).clock = s.clock := by
  rcases s.storeWord_cases a bs with h | h
  · rw [h]
  · rw [h.clock, State.writeMem_clock]

@[simp] theorem State.storeBytes_parts (s : State) (a : Nat) (bs : List PByte) : (s.storeBytes a bs).parts = s.parts :=
  State.foldl_leaves State.parts (fun _ _ => State.storeWord_parts _ _ _) _ s

@[simp] theorem State.storeBytes_clock (s : State) (a : Nat) (bs : List PByte) : (s.storeBytes a bs).clock = s.clock :=
  State.foldl_leaves State.clock (fun _ _ => State.storeWord_clock _ _ _) _ s

/-- A word of the scratchpad takes its bytes, and no digest window sees it (R352). -/
theorem State.storeWord_of_scratchpad (s : State) {a : Nat} (bs : List PByte) (h : a < hamperDpa) :
    s.storeWord a bs = { s with mem := s.mem.writeB a bs } := by
  have hn : s.chanAt a = none := by
    simp only [State.chanAt, State.homeOf]
    unfold hamperDpa stackDpa at *
    rw [if_neg (by omega)]
    rfl
  have hk : s.keyOf a = some a := if_pos h
  simp [State.storeWord, State.faultyAt, hn, State.writeMem, hk]

/-- One whole word of the scratchpad (R248). -/
theorem State.storeBytes_of_word (s : State) {a : Nat} {bs : List PByte} (hl : bs.length = 64) (h64 : a % 64 = 0) (h : a + 64 ≤ hamperDpa) :
    s.storeBytes a bs = { s with mem := s.mem.writeB a bs } := by
  have hw : wordsOf a 64 = 1 := by simp only [wordsOf]; rw [if_neg (by omega)]; omega
  have hp : partOfWord a 64 0 0 = ⟨a, 64, 0⟩ := by simp only [partOfWord, Req.mk.injEq]; omega
  simp only [State.storeBytes, hl, hw, List.range_one, List.foldl_cons, List.foldl_nil, hp, List.drop_zero]
  rw [List.take_of_length_le (by omega), State.storeWord_of_scratchpad s bs (by omega)]

theorem State.hubWrite_of_cut {s : State} (h : s.hubCut = true) (a : Nat) (bs : List PByte) : s.hubWrite a bs = s := if_pos h

@[simp] theorem State.hubWrite_parts (s : State) (a : Nat) (bs : List PByte) : (s.hubWrite a bs).parts = s.parts := by
  unfold State.hubWrite
  split
  · rfl
  · rw [State.storeBytes_parts, (State.TrafficOnly.hubOp (.refl _) _ _ _).parts]

@[simp] theorem State.hubWrite_clock (s : State) (a : Nat) (bs : List PByte) : (s.hubWrite a bs).clock = s.clock := by
  unfold State.hubWrite
  split
  · rfl
  · rw [State.storeBytes_clock, (State.TrafficOnly.hubOp (.refl _) _ _ _).clock]

theorem State.hubWrite_mem_of_word {s : State} {a : Nat} {bs : List PByte} (hc : s.hubCut = false) (hl : bs.length = 64)
    (h64 : a % 64 = 0) (h : a + 64 ≤ hamperDpa) : (s.hubWrite a bs).mem = s.mem.writeB a bs := by
  unfold State.hubWrite
  rw [if_neg (by simp [hc]), State.storeBytes_of_word _ hl h64 h, (State.TrafficOnly.hubOp (.refl _) _ _ _).mem]

/-! ### What a change of the cores leaves -/

namespace State

/-- `t` is `s` but for physical cores and registers. -/
def CoresOnly (s t : State) : Prop := t = { s with cores := t.cores, regs := t.regs }

namespace CoresOnly

variable {σ s t : State}

/-- An update of cores and registers. -/
theorem update (h : σ.CoresOnly s) (cores : Tab Core) (regs : Tab Word64) : σ.CoresOnly { s with cores := cores, regs := regs } := by
  rw [h]
  rfl

theorem refl (s : State) : s.CoresOnly s := rfl

theorem foldl {α : Type} {f : State → α → State} (h : σ.CoresOnly s) (hf : ∀ {s : State} (a : α), σ.CoresOnly s → σ.CoresOnly (f s a))
    (l : List α) : σ.CoresOnly (l.foldl f s) := by
  induction l generalizing s with
  | nil => exact h
  | cons a r ih => exact ih (hf a h)

theorem ite {c : Prop} [Decidable c] (hs : σ.CoresOnly s) (ht : σ.CoresOnly t) : σ.CoresOnly (if c then s else t) := by
  split <;> assumption

theorem parts (h : s.CoresOnly t) : t.parts = s.parts := by rw [h]

theorem mem (h : s.CoresOnly t) : t.mem = s.mem := by rw [h]

theorem clock (h : s.CoresOnly t) : t.clock = s.clock := by rw [h]

theorem part (h : s.CoresOnly t) (p : Nat) : t.part p = s.part p := by simp only [State.part, h.parts]

theorem setReg (h : σ.CoresOnly s) (a v : Nat) : σ.CoresOnly (s.setReg a v) := h.update ..

theorem setFld (h : σ.CoresOnly s) (a hi lo v : Nat) : σ.CoresOnly (s.setFld a hi lo v) := h.setReg _ _

theorem clearRegs (h : σ.CoresOnly s) (lo hi : Nat) : σ.CoresOnly (s.clearRegs lo hi) := h.update ..

theorem setCore (h : σ.CoresOnly s) (k : Nat) (c : Core) : σ.CoresOnly (s.setCore k c) := h.update ..

theorem updCore (h : σ.CoresOnly s) (k : Nat) (f : Core → Core) : σ.CoresOnly (s.updCore k f) := h.setCore _ _

theorem updCores (h : σ.CoresOnly s) (p : Nat) (f : Core → Core) : σ.CoresOnly (s.updCores p f) := foldl h (fun _ h => h.updCore _ _) _

theorem setArb (h : σ.CoresOnly s) : σ.CoresOnly s.setArb := foldl h (fun _ h => h.setFld _ _ _ _) _

/-- A program that has started. -/
theorem started (h : s.CoresOnly t) : State.CoresOnly { s with started := true } { t with started := true } := by
  rw [h]
  rfl

theorem clearPhases (h : σ.CoresOnly s) (p : Nat) : σ.CoresOnly (s.clearPhases p) := by
  refine foldl h (fun c h => ?_) _
  split
  · exact (h.updCore _ _).clearRegs _ _
  · exact h

/-- The ordinals of a partition's epochs, and its epochs' records, are forgotten (R375). -/
theorem clearOrdinals (h : s.CoresOnly t) (p : Nat) :
    State.CoresOnly { s with past := s.past.filter (fun e => e.1 != p) } (t.clearOrdinals p) := by
  have hu := h.updCores p (fun c => { c with ords := [] })
  unfold State.clearOrdinals
  generalize t.updCores p _ = u at hu
  rw [hu]
  rfl

/-! #### The core map (R34, R37 to R39) -/

theorem countHealth (h : σ.CoresOnly s) : σ.CoresOnly s.countHealth := (h.setFld _ _ _ _).setFld _ _ _ _

theorem restSpares (h : σ.CoresOnly s) (m : List Nat) : σ.CoresOnly (s.restSpares m) := h.update ..

theorem putMap (h : σ.CoresOnly s) (m : List Nat) : σ.CoresOnly (s.putMap m) := by
  have hm := foldl (h.restSpares m) (fun (e : Nat × Nat) h => h.setReg (rCmap e.1) e.2) (m.zipIdx.map (fun e => (e.2, cmapWord e.2 e.1)))
  exact countHealth (setFld (setFld (ite (hm.setFld _ _ _ _) hm) _ _ _ _) _ _ _ _)

theorem clearCore (h : σ.CoresOnly s) (k c : Nat) : σ.CoresOnly (s.clearCore k c) :=
  clearRegs (setReg (setReg (setReg (setReg (setReg (clearRegs (setReg h _ _) _ _) _ _) _ _) _ _) _ _) _ _) _ _

theorem rehost (h : σ.CoresOnly s) (n k : Nat) (x : Core) : σ.CoresOnly (s.rehost n k x) := by
  unfold State.rehost
  split
  · exact .ite h ((h.setCore _ _).clearCore _ _)
  · exact h

theorem moveCores (h : σ.CoresOnly s) (m : List Nat) : σ.CoresOnly (s.moveCores m) :=
  foldl (h.putMap m) (fun _ h => h.rehost _ _ _) _

theorem refuseMap (h : σ.CoresOnly s) (few : Bool) : σ.CoresOnly (s.refuseMap few) := by
  cases few
  · exact (h.setFld _ _ _ _).countHealth
  · refine ((restSpares ?_ _).setFld _ _ _ _).countHealth
    exact foldl h (fun _ h => .ite h (h.setFld _ _ _ _)) _

end CoresOnly

end State

/-! ### Every core of a partition -/

theorem State.core_foldl_updCore_of_notMem {f : Core → Core} {k : Nat} {l : List Nat} (h : k ∉ l) (s : State) :
    (l.foldl (fun s j => s.updCore j f) s).core k = s.core k := by
  induction l generalizing s with
  | nil => rfl
  | cons j r ih =>
    rw [List.mem_cons, not_or] at h
    rw [List.foldl_cons, ih h.2, State.core_updCore_ne _ _ h.1]

/-- An idempotent change reaches each core of a list once, however often the list names it. -/
theorem State.core_foldl_updCore_of_mem {f : Core → Core} (hf : ∀ c, f (f c) = f c) {k : Nat} {l : List Nat} (h : k ∈ l) (s : State) :
    (l.foldl (fun s j => s.updCore j f) s).core k = f (s.core k) := by
  induction l generalizing s with
  | nil => cases h
  | cons j r ih =>
    rw [List.foldl_cons]
    by_cases hr : k ∈ r
    · rw [ih hr]
      by_cases hj : k = j
      · rw [hj, State.core_updCore_self, hf]
      · rw [State.core_updCore_ne _ _ hj]
    · obtain rfl : k = j := by simpa [hr] using h
      rw [State.core_foldl_updCore_of_notMem hr, State.core_updCore_self]

end Sys2Proof.Machine
end

section
/-! Chapter 1 of the manual: the steps of a program start, open and close. -/

namespace Sys2Proof.Machine

/-! ### The forms of the three commands -/

theorem exec_streamStart_eq (p : Nat) (s : State) : exec (.streamStart p) s = execStreamStart p s := rfl

theorem wf_streamStart {p : Nat} (hp : p < 8) : Instr.wf (.streamStart p) = true := decide_eq_true hp

theorem exec_stepOpen_eq (p : Nat) (s : State) : exec (.stepOpen p) s = execStepOpen p s := rfl

theorem wf_stepOpen {p : Nat} (hp : p < 8) : Instr.wf (.stepOpen p) = true := decide_eq_true hp

theorem exec_stepClose_eq (p : Nat) (s : State) : exec (.stepClose p) s = execStepClose p s := rfl

theorem wf_stepClose {p : Nat} (hp : p < 8) : Instr.wf (.stepClose p) = true := decide_eq_true hp

/-- A well-formed command has its effect. -/
theorem guardWf_of_wf {ok : Bool} (h : ok = true) (s : State) (f : State → State) : guardWf ok s f = .next (f s) := if_pos h

/-! ### STREAM_START (R171) -/

/-- A stream that is ready to start issues. -/
def Stream.start (t : Stream) : Stream := if t.state = 1 then { t with state := 2 } else t

theorem Stream.start_start (t : Stream) : t.start.start = t.start := by
  unfold Stream.start
  split <;> simp_all

/-- The streams of a core start. -/
def Core.start (c : Core) : Core := { c with a := c.a.start, x := c.x.start }

theorem Core.start_start (c : Core) : c.start.start = c.start := by
  simp only [Core.start, Stream.start_start]

/-- The program of a running partition starts. -/
def State.startStreams (s : State) (p : Nat) : State := ({ s.updCores p Core.start with started := true } : State).setArb

theorem exec_streamStart {s : State} {p : Nat} (hp : p < 8) (h : (s.part p).st = .running) :
    exec (.streamStart p) s = .next (s.startStreams p) := by
  rw [exec_streamStart_eq, execStreamStart, guardWf_of_wf (wf_streamStart hp), if_pos h]
  rfl

theorem State.startStreams_coresOnly (s : State) (p : Nat) : State.CoresOnly { s with started := true } (s.startStreams p) :=
  (State.CoresOnly.updCores (.refl s) p Core.start).started.setArb

theorem State.startStreams_core (s : State) (p k : Nat) :
    (s.startStreams p).core k = if k ∈ s.coresOf p then (s.core k).start else s.core k := by
  have ha : (s.startStreams p).cores = (s.updCores p Core.start).cores :=
    State.foldl_leaves State.cores (fun _ _ => State.setFld_cores _ _ _ _ _) _ _
  have hc : (s.startStreams p).core k = (s.updCores p Core.start).core k := by simp only [State.core, ha]
  rw [hc]
  split
  · exact State.core_foldl_updCore_of_mem Core.start_start ‹_› s
  · exact State.core_foldl_updCore_of_notMem ‹_› s

/-! ### Opening a step (R160, R247, R248, R274, R375, R432) -/

theorem length_toLe (n v : Nat) : (toLe n v).length = n := by
  induction n generalizing v with
  | zero => rfl
  | succ n ih => simp [toLe, ih]

theorem length_slice (l : List Byte) (off n : Nat) : (slice l off n).length = n := by
  simp [slice, zeroBytes]

theorem length_stepBlock (step : Nat) (words : List Byte) : (stepBlock step words).length = 64 := by
  simp [stepBlock, length_toLe, length_slice]

/-- The command's instant has come and the step counts, before the step block is written. -/
def State.beginStep (s : State) (p : Nat) (c : StepCmd) : State :=
  let t := s.reach c.body.instant
  t.updPart p (fun x => { x with
    cmd := none, step := (s.part p).step + 1, st := .running, opens := (t.now :: x.opens).take 16
    token := fieldLe (slice c.body.words 0 8) 0 8 })

/-- The step block is written where the command brings one. -/
def State.writeBlock (s : State) (p : Nat) (c : StepCmd) : State :=
  if c.body.block then (s.beginStep p c).hubWrite c.body.sbdpa (clean (stepBlock ((s.part p).step + 1) c.body.words)) else s.beginStep p c

/-- The step is open, and its command not yet answered. -/
def State.stepOpened (s : State) (p : Nat) (c : StepCmd) : State :=
  let t := (((s.writeBlock p c).clearPhases p).setReg (rPoison p) 0).clearOrdinals p
  if c.start then t else t.updCores p (fun x => { x with a := x.a.resume, x := x.x.resume })

/-- The reply to a command that opened a step. -/
def State.answerOpened (s : State) (p : Nat) (c : StepCmd) : State :=
  (s.stepOpened p c).answer c.ask stOk (c.body.instant != 0 && decide (c.body.instant < s.now)) false (toLe 4 ((s.part p).step + 1))

theorem State.openStep_of_fits {s : State} {p : Nat} (c : StepCmd) (h : (s.part p).step + 1 < 2 ^ 32) :
    s.openStep p c = s.answerOpened p c := if_neg (Nat.not_le.2 h)

theorem State.openStep_of_wraps {s : State} {p : Nat} (c : StepCmd) (h : 2 ^ 32 ≤ (s.part p).step + 1) :
    s.openStep p c = s.stepWrap p := if_pos h

/-! #### The instant and the step counter -/

theorem State.reach_mem (s : State) (t : Nat) : (s.reach t).mem = s.mem := by
  unfold State.reach
  split <;> rfl

theorem State.reach_regs (s : State) (t : Nat) : (s.reach t).regs = s.regs := by
  unfold State.reach
  split <;> rfl

theorem State.reach_part (s : State) (t q : Nat) : (s.reach t).part q = s.part q := by
  unfold State.reach
  split <;> rfl

theorem State.now_reach (s : State) (t : Nat) : (s.reach t).now = max s.now t := by
  unfold State.reach
  split
  · exact (Nat.max_eq_right (Nat.le_of_lt ‹_›)).symm
  · exact (Nat.max_eq_left (Nat.not_lt.1 ‹_›)).symm

theorem State.beginStep_mem (s : State) (p : Nat) (c : StepCmd) : (s.beginStep p c).mem = s.mem := s.reach_mem _

theorem State.hubCut_beginStep (s : State) (p : Nat) (c : StepCmd) : (s.beginStep p c).hubCut = s.hubCut := by
  have hr : (s.beginStep p c).regs = s.regs := s.reach_regs _
  simp only [State.hubCut, State.fld, State.reg, hr]

/-! #### The step block -/

theorem State.writeBlock_parts (s : State) (p : Nat) (c : StepCmd) : (s.writeBlock p c).parts = (s.beginStep p c).parts := by
  unfold State.writeBlock
  split
  · exact State.hubWrite_parts _ _ _
  · rfl

theorem State.writeBlock_clock (s : State) (p : Nat) (c : StepCmd) : (s.writeBlock p c).clock = (s.beginStep p c).clock := by
  unfold State.writeBlock
  split
  · exact State.hubWrite_clock _ _ _
  · rfl

/-- Without a step block, or with every hub bridge down, nothing is written. -/
theorem State.writeBlock_mem_of_none {s : State} (p : Nat) {c : StepCmd} (h : c.body.block = false ∨ s.hubCut = true) :
    (s.writeBlock p c).mem = s.mem := by
  unfold State.writeBlock
  split
  · rename_i hblock
    obtain hb | hc := h
    · cases hb.symm.trans hblock
    · rw [State.hubWrite_of_cut (by rw [State.hubCut_beginStep, hc]), State.beginStep_mem]
  · exact s.beginStep_mem p c

theorem State.writeBlock_mem {s : State} (p : Nat) {c : StepCmd} (hb : c.body.block = true) (hc : s.hubCut = false)
    (h64 : c.body.sbdpa % 64 = 0) (ha : c.body.sbdpa + 64 ≤ hamperDpa) :
    (s.writeBlock p c).mem = s.mem.writeB c.body.sbdpa (clean (stepBlock ((s.part p).step + 1) c.body.words)) := by
  rw [State.writeBlock, if_pos hb, State.hubWrite_mem_of_word (by rw [State.hubCut_beginStep, hc]) (by simp [clean, length_stepBlock]) h64 ha,
    State.beginStep_mem]

/-- The bytes of the step block stand where it was written. -/
theorem byte_writeB_clean {m : Memory} {a i : Nat} {bs : List Byte} {b : Byte} (h : bs[i]? = some b) :
    (m.writeB a (clean bs)).byte (a + i) = b := by
  obtain ⟨hi, rfl⟩ := List.getElem?_eq_some_iff.1 h
  rw [Memory.byte_writeB_inside m a (clean bs) (by simpa [clean] using hi)]
  simp [clean]

/-! #### The open step -/

theorem State.updCores_regs (s : State) (p : Nat) (f : Core → Core) : (s.updCores p f).regs = s.regs :=
  State.foldl_leaves State.regs (g := fun s k => s.updCore k f) (fun _ _ => rfl) _ s

theorem State.clearOrdinals_regs (s : State) (p : Nat) : (s.clearOrdinals p).regs = s.regs := s.updCores_regs p _

theorem State.stepOpened_coresOnly (s : State) (p : Nat) (c : StepCmd) :
    State.CoresOnly { s.writeBlock p c with past := (s.writeBlock p c).past.filter (fun e => e.1 != p) } (s.stepOpened p c) := by
  have h := (((State.CoresOnly.refl (s.writeBlock p c)).clearPhases p).setReg (rPoison p) 0).clearOrdinals p
  exact .ite h (h.updCores _ _)

/-- Poisoned stores count from 0 again (R447). -/
theorem State.reg_rPoison_stepOpened (s : State) (p : Nat) (c : StepCmd) : (s.stepOpened p c).reg (rPoison p) = 0 := by
  have h : (s.stepOpened p c).regs = (((s.writeBlock p c).clearPhases p).setReg (rPoison p) 0).regs := by
    unfold State.stepOpened
    split
    · exact State.clearOrdinals_regs _ _
    · exact (State.updCores_regs _ _ _).trans (State.clearOrdinals_regs _ _)
  have hr := ((s.writeBlock p c).clearPhases p).reg_setReg_self (rPoison p) 0
  rw [Nat.zero_mod] at hr
  simpa only [State.reg, h] using hr

theorem State.answerOpened_sentOnly (s : State) (p : Nat) (c : StepCmd) :
    let m : Msg := .reply c.ask.req stOk (c.body.instant != 0 && decide (c.body.instant < s.now)) false (toLe 4 ((s.part p).step + 1))
    State.SentOnly { s.stepOpened p c with kept := keepReply c.ask.owner c.ask.req m (s.stepOpened p c).kept } (s.answerOpened p c) :=
  State.answer_sentOnly _ _ _ _ _ _

theorem State.answerOpened_parts (s : State) (p : Nat) (c : StepCmd) : (s.answerOpened p c).parts = (s.beginStep p c).parts :=
  (s.answerOpened_sentOnly p c).parts.trans ((s.stepOpened_coresOnly p c).parts.trans (s.writeBlock_parts p c))

theorem State.answerOpened_mem (s : State) (p : Nat) (c : StepCmd) : (s.answerOpened p c).mem = (s.writeBlock p c).mem :=
  (s.answerOpened_sentOnly p c).mem.trans (s.stepOpened_coresOnly p c).mem

theorem State.now_answerOpened (s : State) (p : Nat) (c : StepCmd) : (s.answerOpened p c).now = max s.now c.body.instant := by
  have h : (s.answerOpened p c).clock = (s.beginStep p c).clock :=
    (s.answerOpened_sentOnly p c).clock.trans ((s.stepOpened_coresOnly p c).clock.trans (s.writeBlock_clock p c))
  rw [State.now, h]
  exact s.now_reach _

/-- The partition runs its next step, its command done with. -/
theorem State.answerOpened_part_self (s : State) (p : Nat) (c : StepCmd) :
    ((s.answerOpened p c).part p).step = (s.part p).step + 1 ∧ ((s.answerOpened p c).part p).st = .running ∧
      ((s.answerOpened p c).part p).cmd = none := by
  have h : (s.answerOpened p c).part p = (s.beginStep p c).part p := by simp only [State.part, State.answerOpened_parts]
  simp [h, State.beginStep]

theorem State.answerOpened_part_ne (s : State) {p q : Nat} (c : StepCmd) (hq : q ≠ p) : (s.answerOpened p c).part q = s.part q := by
  have h : (s.answerOpened p c).part q = (s.beginStep p c).part q := by simp only [State.part, State.answerOpened_parts]
  rw [h, State.beginStep, State.part_updPart_ne _ _ hq, State.reach_part]

theorem State.fld_rPoison_answerOpened (s : State) (p : Nat) (c : StepCmd) : (s.answerOpened p c).fld (rPoison p) 63 48 = 0 := by
  have h : (s.answerOpened p c).reg (rPoison p) = (s.stepOpened p c).reg (rPoison p) := by
    simp only [State.reg, (s.answerOpened_sentOnly p c).regs]
  rw [State.fld, h, State.reg_rPoison_stepOpened]
  decide

theorem State.answerOpened_reply {s : State} {p : Nat} {c : StepCmd} {e : Kept} (he : e ∈ (s.answerOpened p c).kept)
    (ho : e.owner = c.ask.owner) (hr : e.req = c.ask.req) :
    e.reply = some (.reply c.ask.req stOk (c.body.instant != 0 && decide (c.body.instant < s.now)) false (toLe 4 ((s.part p).step + 1))) := by
  rw [(s.answerOpened_sentOnly p c).kept] at he
  exact reply_of_mem_keepReply he ho hr

/-! ### The map under a first step (R34) -/

theorem State.fencedEntry_eq_none_iff (s : State) :
    s.fencedEntry = none ↔ ∀ n < 128, ∀ k, s.phys n = some k → s.fenced k = false := by
  simp [State.fencedEntry, List.find?_eq_none, Option.any_eq_true]

theorem State.restartRestore_part (s : State) (p : Nat) : s.restartRestore.part p = s.part p := by
  unfold State.restartRestore
  split
  · rfl
  · split
    · exact State.TrafficOnly.part (.sendTo (.refl { s with restore := _ }) _ _ _ _) p
    · rfl

theorem State.say_part (s : State) (a : Asker) (status q : Nat) : (s.say a status).part q = s.part q := by
  simp only [State.say, State.part, (s.answer_sentOnly a status false false []).parts]

theorem State.dropCmd_st (s : State) (p : Nat) : ((s.dropCmd p).part p).st = (s.part p).st := by
  unfold State.dropCmd
  split
  · rw [State.say_part, State.part_updPart_self]
  · rfl

theorem State.part_dropRestore (s : State) (p : Nat) :
    ((({ s with restore := none } : State).setFld rCstat 63 60 7).setArb).part p = s.part p :=
  State.CoresOnly.part (.setArb (.setFld (.refl _) _ _ _ _)) p

/-- A live program that is terminated has ended. -/
theorem State.terminate_st {s : State} {p : Nat} (code : Nat) (l : Loc) (h : (s.part p).live = true) :
    ((s.terminate p code l).part p).st = .ending := by
  unfold State.terminate
  rw [if_pos h]
  refine (State.dropCmd_st _ p).trans ((congrArg Part.st (State.TrafficOnly.part (.sendTermination (.refl _) _ _) p)).trans ?_)
  split
  · split
    · rw [State.part_dropRestore, State.part_updPart_self]
    · rw [State.part_updPart_self]
  · rw [State.part_updPart_self]

theorem State.remapAtStart_of_none {s : State} (p : Nat) (h : s.fencedEntry = none) : s.remapAtStart p = s := by
  simp only [State.remapAtStart, h]

theorem State.remapAtStart_of_some {s : State} {n : Nat} (p : Nat) (h : s.fencedEntry = some n) : s.remapAtStart p = s.remap [p] n := by
  simp only [State.remapAtStart, h]

/-- The start of partition `p` fails at fenced core `n`. -/
def State.failStart (s : State) (p n : Nat) (few : Bool) : State := (s.terminate p tFenced (.core n)).refuseMap few

theorem State.remap_of_few {s : State} (h : s.planMap s.waitingParts = .few) (p n : Nat) : s.remap [p] n = s.failStart p n true := by
  simp only [State.remap, h, State.failStart, List.foldl_cons, List.foldl_nil]

theorem State.remap_of_busy {s : State} (h : s.planMap s.waitingParts = .busy) (p n : Nat) : s.remap [p] n = s.failStart p n false := by
  simp only [State.remap, h, State.failStart, List.foldl_cons, List.foldl_nil]

theorem State.failStart_st {s : State} {p : Nat} (n : Nat) (few : Bool) (h : (s.part p).live = true) :
    ((s.failStart p n few).part p).st = .ending := by
  rw [State.failStart, State.CoresOnly.part (.refuseMap (.refl _) few), State.terminate_st _ _ h]

/-! ### The commands -/

theorem exec_stepOpen_of_none {s : State} {p : Nat} (hp : p < 8) (h : (s.part p).cmd = none) : exec (.stepOpen p) s = .next s := by
  rw [exec_stepOpen_eq, execStepOpen, guardWf_of_wf (wf_stepOpen hp)]
  simp only [h]

theorem exec_stepOpen_of_loaded {s : State} {p : Nat} {c : StepCmd} (hp : p < 8) (hc : (s.part p).cmd = some c)
    (hl : (s.part p).st = .loaded) (hs : c.start = true) :
    exec (.stepOpen p) s = .next (if ((s.remapAtStart p).part p).st = .loaded then (s.remapAtStart p).openStep p c else s.remapAtStart p) := by
  rw [exec_stepOpen_eq, execStepOpen, guardWf_of_wf (wf_stepOpen hp)]
  simp only [hc, hl, hs, if_true]

theorem exec_stepOpen_of_closed {s : State} {p : Nat} {c : StepCmd} (hp : p < 8) (hc : (s.part p).cmd = some c)
    (hl : (s.part p).st = .closed) (hs : c.start = false) (hw : ∀ w, s.cairnOut = some w → w.part ≠ p) :
    exec (.stepOpen p) s = .next (s.openStep p c) := by
  rw [exec_stepOpen_eq, execStepOpen, guardWf_of_wf (wf_stepOpen hp)]
  have hn : s.cairnOut.any (fun w => w.part == p) = false := by simpa [Option.any_eq_false] using hw
  simp [hc, hl, hs, hn]

/-- A command that may open a step opens it, on a map without fenced cores. -/
theorem exec_stepOpen_of_opens {s : State} {p : Nat} {c : StepCmd} (hp : p < 8) (hc : (s.part p).cmd = some c)
    (h : (s.part p).st = .loaded ∧ c.start = true ∨ (s.part p).st = .closed ∧ c.start = false ∧ ∀ w, s.cairnOut = some w → w.part ≠ p)
    (hf : c.start = true → s.fencedEntry = none) : exec (.stepOpen p) s = .next (s.openStep p c) := by
  obtain ⟨hl, hs⟩ | ⟨hl, hs, hw⟩ := h
  · rw [exec_stepOpen_of_loaded hp hc hl hs, State.remapAtStart_of_none p (hf hs), if_pos hl]
  · exact exec_stepOpen_of_closed hp hc hl hs hw

/-- A first step opens on the map that was built again (R34). -/
theorem exec_stepOpen_of_rebuilt {s : State} {p n : Nat} {c : StepCmd} {m : List Nat} (hp : p < 8) (hc : (s.part p).cmd = some c)
    (hl : (s.part p).st = .loaded) (hs : c.start = true) (hf : s.fencedEntry = some n) (hm : s.planMap s.waitingParts = .ok m) :
    exec (.stepOpen p) s = .next (((s.moveCores m).restartRestore).openStep p c) := by
  have hr : s.remapAtStart p = (s.moveCores m).restartRestore := by simp only [State.remapAtStart_of_some p hf, State.remap, hm]
  have hst : ((s.moveCores m).restartRestore.part p).st = .loaded := by
    rw [State.restartRestore_part, State.CoresOnly.part (.moveCores (.refl s) m), hl]
  rw [exec_stepOpen_of_loaded hp hc hl hs, hr, if_pos hst]

/-- Where the map cannot be built again, the program ends (R34). -/
theorem exec_stepOpen_of_refused {s : State} {p n : Nat} {c : StepCmd} {few : Bool} (hp : p < 8) (hc : (s.part p).cmd = some c)
    (hl : (s.part p).st = .loaded) (hs : c.start = true) (hr : s.remapAtStart p = s.failStart p n few) :
    exec (.stepOpen p) s = .next (s.failStart p n few) := by
  have hst : ((s.failStart p n few).part p).st = .ending := State.failStart_st n few (by simp [Part.live, hl])
  rw [exec_stepOpen_of_loaded hp hc hl hs, hr, if_neg (by simp [hst])]

/-! ### Closing a step (R160, R275, R352, R432, R447, R478) -/

/-- Every stream of a partition is where `f` says, and nothing that it issued is left. -/
theorem State.allAt_iff (s : State) (p : Nat) (f : Stream → Bool) :
    s.allAt p f = true ↔ ∀ c ∈ (s.part p).cores, ∃ k, s.phys c = some k ∧
      f (s.core k).a = true ∧ f (s.core k).x = true ∧ (s.core k).ops = [] ∧ (s.core k).comps = [] := by
  rw [State.allAt, List.all_eq_true]
  refine forall₂_congr fun c _ => ?_
  cases s.phys c <;> simp [Core.quiet, and_assoc]

/-- The step is closed, and what its close calls for is not yet done. -/
def State.closedStep (s : State) (p : Nat) : State :=
  (((s.govern p).closeWindows p (s.part p).step).exportPhases p false).updPart p (fun x => { x with st := .closed, closeAt := s.now })

theorem State.closing_traffic (s : State) (p : Nat) :
    s.TrafficOnly (((s.govern p).closeWindows p (s.part p).step).exportPhases p false) :=
  (((State.TrafficOnly.refl s).govern p).closeWindows p _).exportPhases p false

theorem State.closedStep_part (s : State) (p : Nat) : (s.closedStep p).part p = { s.part p with st := .closed, closeAt := s.now } := by
  rw [State.closedStep, State.part_updPart_self, (s.closing_traffic p).part]

theorem State.closedStep_mem (s : State) (p : Nat) : (s.closedStep p).mem = s.mem := by
  rw [State.closedStep, State.updPart_mem, (s.closing_traffic p).mem]

theorem State.checkStep_of_none {s : State} {p : Nat} (h : (s.part p).cmd = none) : s.checkStep p = s := by
  simp only [State.checkStep, h]

theorem exec_stepClose_of_not {s : State} {p : Nat} (hp : p < 8) (h : s.allAt p Stream.atBoundary ≠ true) :
    exec (.stepClose p) s = .next s := by
  rw [exec_stepClose_eq, execStepClose, guardWf_of_wf (wf_stepClose hp), if_neg fun hc => h hc.2]

theorem exec_stepClose_of_closes {s : State} {p : Nat} (hp : p < 8) (hr : (s.part p).st = .running) (h : s.allAt p Stream.atBoundary = true) :
    exec (.stepClose p) s = .next (
      let u := s.closedStep p
      if u.poisoned p then u.terminate p tPoison (u.poisonLoc p)
      else if 2 ^ 32 ≤ (s.part p).step + 1 then u.stepWrap p
      else if (u.checkStep p).secureDue p then (u.checkStep p).secure p else u.checkStep p) := by
  rw [exec_stepClose_eq, execStepClose, guardWf_of_wf (wf_stepClose hp), if_pos ⟨hr, h⟩]
  rfl

/-- STREAM_START: the streams of the partition's cores start, and nothing else moves but registers. -/
theorem streamStart_starts {s : State} {p : Nat} (hp : p < 8) (h : (s.part p).st = .running) :
    ∃ t : State, exec (.streamStart p) s = .next t ∧ t.started = true ∧ (∀ k ∈ s.coresOf p, t.core k = (s.core k).start) ∧
      (∀ k, k ∉ s.coresOf p → t.core k = s.core k) ∧ t = { s with cores := t.cores, started := true, regs := t.regs } := by
  have ht := s.startStreams_coresOnly p
  refine ⟨_, exec_streamStart hp h, by rw [ht], fun k hk => ?_, fun k hk => ?_, ht⟩
  · rw [State.startStreams_core, if_pos hk]
  · rw [State.startStreams_core, if_neg hk]

/-- The step block stands in memory, and every other byte and mark is as before. -/
theorem State.answerOpened_block {s : State} {p : Nat} {c : StepCmd} (hb : c.body.block = true) (hc : s.hubCut = false)
    (h64 : c.body.sbdpa % 64 = 0) (ha : c.body.sbdpa + 64 ≤ hamperDpa) :
    (∀ i b, (stepBlock ((s.part p).step + 1) c.body.words)[i]? = some b → (s.answerOpened p c).mem.byte (c.body.sbdpa + i) = b) ∧
      s.sameMemBut (s.answerOpened p c) c.body.sbdpa 64 := by
  have hm := (s.answerOpened_mem p c).trans (State.writeBlock_mem p hb hc h64 ha)
  refine ⟨fun i b hi => ?_, State.sameMemBut_of_writeB (by simp [clean, length_stepBlock]) hm⟩
  rw [hm, byte_writeB_clean hi]

/-- A core that is not at a BOUNDARY with all its work complete keeps the step open. -/
theorem State.not_allAt_of_busy {s : State} {p : Nat}
    (h : ∃ c ∈ (s.part p).cores, s.phys c = none ∨ ∃ k, s.phys c = some k ∧
      ((s.core k).a.atBoundary = false ∨ (s.core k).x.atBoundary = false ∨ (s.core k).ops ≠ [] ∨ (s.core k).comps ≠ [])) :
    s.allAt p Stream.atBoundary ≠ true := by
  rw [Ne, State.allAt_iff]
  intro hall
  obtain ⟨c, hc, hbusy⟩ := h
  obtain ⟨k, hk, ha, hx, hops, hcomps⟩ := hall c hc
  obtain hnone | ⟨j, hj, hbusy⟩ := hbusy
  · cases hk.symm.trans hnone
  · obtain rfl : k = j := Option.some.inj (hk.symm.trans hj)
    simp [ha, hx, hops, hcomps] at hbusy

/-- A poisoned store of the step ends the program (R447). -/
theorem exec_stepClose_of_poisoned {s : State} {p : Nat} (hp : p < 8) (hr : (s.part p).st = .running) (h : s.allAt p Stream.atBoundary = true)
    (hu : (s.closedStep p).poisoned p = true) :
    exec (.stepClose p) s = .next ((s.closedStep p).terminate p tPoison ((s.closedStep p).poisonLoc p)) := by
  simp only [exec_stepClose_of_closes hp hr h, hu, if_true]

/-- A step past 2^32 − 1 ends the program (R161). -/
theorem exec_stepClose_of_wraps {s : State} {p : Nat} (hp : p < 8) (hr : (s.part p).st = .running) (h : s.allAt p Stream.atBoundary = true)
    (hu : (s.closedStep p).poisoned p = false) (hw : 2 ^ 32 ≤ (s.part p).step + 1) :
    exec (.stepClose p) s = .next ((s.closedStep p).stepWrap p) := by
  simp only [exec_stepClose_of_closes hp hr h, hu, hw, if_true, if_false, Bool.false_eq_true]

/-- A step that closes with no poisoned store, no wrap and no command that waits is secured if that is due. -/
theorem exec_stepClose_of_plain {s : State} {p : Nat} (hp : p < 8) (hr : (s.part p).st = .running) (h : s.allAt p Stream.atBoundary = true)
    (hu : (s.closedStep p).poisoned p = false) (hw : (s.part p).step + 1 < 2 ^ 32) (hc : (s.part p).cmd = none) :
    exec (.stepClose p) s = .next (if (s.closedStep p).secureDue p then (s.closedStep p).secure p else s.closedStep p) := by
  have hk : (s.closedStep p).checkStep p = s.closedStep p := State.checkStep_of_none (by rw [State.closedStep_part, hc])
  simp only [exec_stepClose_of_closes hp hr h, hu, hk, Nat.not_le.2 hw, if_false, Bool.false_eq_true]

/-- Settles O31: each command's next state is named, and is read through what sending, the cores' changes and the hub's write leave. -/
theorem stepsOpenAndClose : Obligations.StepsOpenAndClose := by
  unfold Obligations.StepsOpenAndClose
  refine ⟨fun s p hp => ⟨streamStart_starts hp, fun c hc hready hmap => ⟨fun hfits => ?_, fun hwrap => ?_⟩,
    fun c n hc hl hs hf => ?_, s.fencedEntry_eq_none_iff, exec_stepOpen_of_none hp⟩, fun s p hp hr => ⟨fun hbusy => ?_, fun hall => ?_⟩⟩
  · obtain ⟨hstep, hst, hcmd⟩ := s.answerOpened_part_self p c
    have hnow := s.now_answerOpened p c
    refine ⟨s.answerOpened p c, by rw [exec_stepOpen_of_opens hp hc hready hmap, State.openStep_of_fits c hfits], hstep, hst, hcmd,
      fun q => s.answerOpened_part_ne c, by omega, by omega, s.fld_rPoison_answerOpened p c, fun hb => ?_, fun hcut => ?_,
      State.answerOpened_block, fun e => State.answerOpened_reply⟩
    · rw [State.answerOpened_mem, State.writeBlock_mem_of_none p (.inl hb)]
    · rw [State.answerOpened_mem, State.writeBlock_mem_of_none p (.inr hcut)]
  · rw [exec_stepOpen_of_opens hp hc hready hmap, State.openStep_of_wraps c hwrap]
  · have hremap := State.remapAtStart_of_some p hf
    exact ⟨fun m => exec_stepOpen_of_rebuilt hp hc hl hs hf,
      fun hm => exec_stepOpen_of_refused hp hc hl hs (hremap.trans (State.remap_of_few hm p n)),
      fun hm => exec_stepOpen_of_refused hp hc hl hs (hremap.trans (State.remap_of_busy hm p n))⟩
  · exact exec_stepClose_of_not hp (State.not_allAt_of_busy hbusy)
  · have hst : ((s.closedStep p).part p).st = .closed := by rw [State.closedStep_part]
    have hstep : ((s.closedStep p).part p).step = (s.part p).step := by rw [State.closedStep_part]
    exact ⟨hst, hstep, s.closedStep_mem p, exec_stepClose_of_poisoned hp hr hall, exec_stepClose_of_wraps hp hr hall,
      exec_stepClose_of_plain hp hr hall⟩

end Sys2Proof.Machine
end

section
/-! SUPPORT. What accesses to memory count, and what a write of words stores: the registers that traffic leaves, the bytes and marks of a stored range, and the 32-bit words in it. -/

namespace Sys2Proof.Machine

/-! ### Registers that traffic leaves (R326, R352, R356) -/

/-- The registers in which the transport and the channels count accesses, and digest windows gather writes. -/
def countReg (a : Nat) : Prop :=
  a = rXtrk ∨ (hmcB ≤ a ∧ a < hmcGlobB ∧ 0x18 ≤ (a - hmcB) % 0x1000) ∨ (hmcGlobB + 0x280 ≤ a ∧ a < hmcGlobB + 0x300)

theorem countReg_rXtrk : countReg rXtrk := .inl rfl

/-- A register of a channel behind HMC_ECC counts. -/
theorem countReg_of_chan {q x : Nat} (hq : q < 256) (h18 : 0x18 ≤ x) (hx : x < 0x1000) : countReg (hmcB + 0x1000 * q + x) := by
  right; left
  unfold hmcB hmcGlobB
  omega

/-- The words, turn-rounds and conflicts of a channel (R337, R356). -/
theorem countReg_rHmc {q : Nat} (hq : q < 256) :
    countReg (rHmcRdw q) ∧ countReg (rHmcWrw q) ∧ countReg (rHmcTurn q) ∧ countReg (rHmcConf q) := by
  unfold rHmcRdw rHmcWrw rHmcTurn rHmcConf
  refine ⟨?_, ?_, ?_, ?_⟩ <;> exact countReg_of_chan hq (by omega) (by omega)

theorem countReg_rDgwacc {q n : Nat} (hq : q < 256) (hn : n < 16) : countReg (rDgwacc q n) := by
  rw [rDgwacc, Nat.add_assoc]
  exact countReg_of_chan hq (by omega) (by omega)

theorem countReg_rDgst {n : Nat} (hn : n < 16) : countReg (rDgst n) := by
  right; right
  unfold rDgst
  omega

theorem not_countReg_rMap : ¬ countReg rMap := by
  unfold countReg rMap rXtrk hubB hmcB hmcGlobB
  omega

theorem not_countReg_rRmv : ¬ countReg rRmv := by
  unfold countReg rRmv rXtrk hubB hmcB hmcGlobB
  omega

theorem not_countReg_rHmcStat (q : Nat) : ¬ countReg (rHmcStat q) := by
  unfold countReg rHmcStat rXtrk hubB hmcB hmcGlobB
  omega

theorem not_countReg_rCmap {c : Nat} (h : c < 128) : ¬ countReg (rCmap c) := by
  unfold countReg rCmap rXtrk hubB hmcB hmcGlobB
  omega

theorem not_countReg_rTalAdds (q : Nat) : ¬ countReg (rTalAdds q) := by
  unfold countReg rTalAdds talB rXtrk hubB hmcB hmcGlobB
  omega

namespace State.sameRegsBut

variable {σ s t u : State} {p : Nat → Prop}

theorem refl (s : State) (p : Nat → Prop) : s.sameRegsBut s p := fun _ _ => rfl

theorem trans (h : s.sameRegsBut t p) (g : t.sameRegsBut u p) : s.sameRegsBut u p := fun a ha => (g a ha).trans (h a ha)

/-- An update that leaves the registers. -/
theorem update (h : σ.sameRegsBut s p) (hr : t.regs = s.regs) : σ.sameRegsBut t p :=
  h.trans fun a _ => by simp only [State.reg, hr]

theorem foldl {α : Type} {f : State → α → State} (h : σ.sameRegsBut s p) {l : List α}
    (hf : ∀ a ∈ l, ∀ {s : State}, σ.sameRegsBut s p → σ.sameRegsBut (f s a) p) : σ.sameRegsBut (l.foldl f s) p := by
  induction l generalizing s with
  | nil => exact h
  | cons a r ih => exact ih (hf a (List.mem_cons_self ..) h) fun x hx => hf x (List.mem_cons_of_mem a hx)

theorem ite {c : Prop} [Decidable c] (hs : σ.sameRegsBut s p) (ht : σ.sameRegsBut t p) : σ.sameRegsBut (if c then s else t) p := by
  split <;> assumption

theorem setReg (h : σ.sameRegsBut s p) {a : Nat} (ha : p a) (v : Nat) : σ.sameRegsBut (s.setReg a v) p :=
  h.trans fun _ hb => State.reg_setReg_ne s v fun e => hb (e ▸ ha)

theorem setFld (h : σ.sameRegsBut s p) {a : Nat} (ha : p a) (hi lo v : Nat) : σ.sameRegsBut (s.setFld a hi lo v) p := h.setReg ha _

theorem addFld (h : σ.sameRegsBut s p) {a : Nat} (ha : p a) (hi lo v : Nat) : σ.sameRegsBut (s.addFld a hi lo v) p := h.setReg ha _

theorem maxFld (h : σ.sameRegsBut s p) {a : Nat} (ha : p a) (hi lo v : Nat) : σ.sameRegsBut (s.maxFld a hi lo v) p := h.setReg ha _

theorem fld (h : s.sameRegsBut t p) {a : Nat} (ha : ¬ p a) (hi lo : Nat) : t.fld a hi lo = s.fld a hi lo := by
  simp only [State.fld, h a ha]

end State.sameRegsBut

/-! ### The channel of an address (R332) -/

theorem chanOf_lt {slot : Nat} (h : slot < 256) : chanOf slot < 256 := by
  unfold chanOf
  omega

theorem getD_liveSlots_lt (removed : List Nat) (i : Nat) : (liveSlots removed).getD i 0 < 256 := by
  rw [List.getD_eq_getElem?_getD]
  rcases h : (liveSlots removed)[i]? with _ | x
  · simp
  · have hx := List.mem_of_getElem? h
    unfold liveSlots at hx
    simpa using (List.mem_filter.1 hx).1

theorem home_chan_lt {removed : List Nat} {a : Nat} {h : Home} (hh : home removed a = some h) : h.chan < 256 := by
  have hs : ∀ g, bits g 7 0 ^^^ bits g 15 8 ^^^ bits g 23 16 ^^^ bits g 27 24 < 256 := fun g =>
    Nat.xor_lt_two_pow (n := 8) (Nat.xor_lt_two_pow (Nat.xor_lt_two_pow (bits_lt g 7 0) (bits_lt g 15 8)) (bits_lt g 23 16))
      ((bits_lt g 27 24).trans (by decide))
  unfold home at hh
  simp only at hh
  split at hh
  · cases hh
  · cases hh
    split
    · exact chanOf_lt (getD_liveSlots_lt _ _)
    · exact chanOf_lt (hs _)

theorem State.homeOf_chan_lt {s : State} {a : Nat} {h : Home} (hh : s.homeOf a = some h) : h.chan < 256 := by
  unfold State.homeOf at hh
  split at hh
  · exact home_chan_lt hh
  · cases hh

theorem State.chanAt_lt {s : State} {a q : Nat} (hq : s.chanAt a = some q) : q < 256 := by
  obtain ⟨h, hh, rfl⟩ := Option.map_eq_some_iff.1 hq
  exact State.homeOf_chan_lt hh

namespace State.sameRegsBut

variable {σ s t : State} {p : Nat → Prop}

theorem updChan (h : σ.sameRegsBut s p) (q : Nat) (f : Chan → Chan) : σ.sameRegsBut (s.updChan q f) p := h.update rfl

theorem countAccess (h : σ.sameRegsBut s countReg) (a : Nat) (wr : Bool) : σ.sameRegsBut (s.countAccess a wr) countReg := by
  unfold State.countAccess
  split
  · exact h
  · rename_i x hx
    obtain ⟨hrd, hwr, hturn, hconf⟩ := countReg_rHmc (State.homeOf_chan_lt hx)
    have hw : σ.sameRegsBut (if wr then s.addFld (rHmcWrw x.chan) 63 0 1 else s.addFld (rHmcRdw x.chan) 63 0 1) countReg :=
      .ite (h.addFld hwr _ _ _) (h.addFld hrd _ _ _)
    exact .ite h (((hw.addFld hturn _ _ _).addFld hconf _ _ _).updChan _ _)

theorem noteRegion (h : σ.sameRegsBut s countReg) {q : Nat} (hq : q < 256) (a : Nat) (bs : List PByte) {n : Nat} (hn : n < 16) :
    σ.sameRegsBut (s.noteRegion q a bs n) countReg := by
  have hw : σ.sameRegsBut (if bs.length = 64 then s.setReg (rDgwacc q n) (BitVec.ofNat 64 (s.reg (rDgwacc q n)) ^^^ contribution (bs.map (·.1)) a).toNat
      else s.markWin n 1) countReg := .ite (h.setReg (countReg_rDgwacc hq hn) _) (h.update rfl)
  have hp : σ.sameRegsBut (if bs.any (·.2) then State.markWin _ n 2 else _) countReg := .ite (hw.update rfl) hw
  exact .ite (.ite (hp.setFld (countReg_rDgst hn) _ _ _) hp) h

theorem noteWrite (h : σ.sameRegsBut s countReg) {q : Nat} (hq : q < 256) (a : Nat) (bs : List PByte) :
    σ.sameRegsBut (s.noteWrite q a bs) countReg :=
  h.foldl fun _ hn _ h => h.noteRegion hq a bs (List.mem_range.1 hn)

theorem writeMem (h : σ.sameRegsBut s p) (a : Nat) (bs : List PByte) : σ.sameRegsBut (s.writeMem a bs) p := by
  unfold State.writeMem
  split
  · exact h.update rfl
  · exact h

theorem storeWord (h : σ.sameRegsBut s countReg) (a : Nat) (bs : List PByte) : σ.sameRegsBut (s.storeWord a bs) countReg := by
  unfold State.storeWord
  split
  · exact h
  · split
    · exact (h.writeMem a bs).noteWrite (State.chanAt_lt ‹_›) _ _
    · exact h.writeMem a bs

theorem spend (h : σ.sameRegsBut s p) (d cls : Nat) : σ.sameRegsBut (s.spend d cls) p := .ite h (h.update rfl)

/-- A word of stacked memory that the transport reads or writes. -/
theorem hubWord (h : σ.sameRegsBut s countReg) {a : Nat} (ha : hamperDpa ≤ a) (wr : Bool) : σ.sameRegsBut (s.hubWord a wr) countReg := by
  unfold State.hubWord
  rw [if_neg (Nat.not_lt.2 ha)]
  split
  · exact (h.countAccess _ _).spend _ _
  · exact h

theorem hubOp (h : σ.sameRegsBut s countReg) {a : Nat} (ha : stackDpa ≤ a) (n : Nat) (wr : Bool) : σ.sameRegsBut (s.hubOp a n wr) countReg := by
  refine maxFld (h.foldl fun i _ _ h => h.hubWord ?_ wr) countReg_rXtrk _ _ _
  unfold hamperDpa
  unfold stackDpa at ha
  omega

/-! #### What these registers decide: where an address lands (R29, R332, R333, R346) -/

theorem phys (h : s.sameRegsBut t countReg) (c : Nat) : t.phys c = s.phys c := by
  by_cases hc : c < 128
  · simp only [State.phys, h _ (not_countReg_rCmap hc)]
  · simp only [State.phys, hc, false_and, if_false]

theorem keyOf (h : s.sameRegsBut t countReg) (a : Nat) : t.keyOf a = s.keyOf a := by
  simp only [State.keyOf, h.phys, h.fld not_countReg_rMap]

theorem homeOf (h : s.sameRegsBut t countReg) (a : Nat) : t.homeOf a = s.homeOf a := by
  simp only [State.homeOf, State.removed, h.fld not_countReg_rMap, h.fld not_countReg_rRmv]

theorem chanAt (h : s.sameRegsBut t countReg) (a : Nat) : t.chanAt a = s.chanAt a := by
  simp only [State.chanAt, h.homeOf]

theorem chanFaulty (h : s.sameRegsBut t countReg) (q : Nat) : t.chanFaulty q = s.chanFaulty q := by
  simp only [State.chanFaulty, h.fld (not_countReg_rHmcStat q)]

theorem faultyAt (h : s.sameRegsBut t countReg) (a : Nat) : t.faultyAt a = s.faultyAt a := by
  simp only [State.faultyAt, h.chanAt, funext h.chanFaulty]

end State.sameRegsBut

end Sys2Proof.Machine
end

section
/-! SUPPORT. Words of memory: the bytes that 32-bit words are stored as, the marks that a write sets, and what a range stored word by word leaves. -/

namespace Sys2Proof.Machine

/-! ### Bytes of 32-bit words (R6) -/

theorem ofLe_toLe (n v : Nat) : ofLe (toLe n v) = v % 256 ^ n := by
  induction n generalizing v with
  | zero => simp [toLe, ofLe, Nat.mod_one]
  | succ n ih =>
    rw [toLe, ofLe, ih, BitVec.toNat_ofNat, show (2 : Nat) ^ 8 = 256 from rfl, Nat.pow_succ, Nat.mul_comm (256 ^ n), Nat.mod_mul]

/-- A word's four bytes are the word. -/
theorem ofNat_ofLe_toLe (w : Word32) : BitVec.ofNat 32 (ofLe (toLe 4 w.toNat)) = w := by
  rw [ofLe_toLe, show 256 ^ 4 = 2 ^ 32 by norm_num, Nat.mod_eq_of_lt w.isLt, BitVec.ofNat_toNat, BitVec.setWidth_eq]

theorem length_pbytes (ws : List PWord) : (pbytes ws).length = 4 * ws.length := by
  induction ws with
  | nil => rfl
  | cons w r ih =>
    simp only [pbytes, List.flatMap_cons, List.length_append, List.length_map, length_toLe, List.length_cons] at ih ⊢
    omega

/-- Byte `j` of word `i` of stored words. -/
theorem getElem?_pbytes {ws : List PWord} {i j : Nat} {w : PWord} (hw : ws[i]? = some w) (hj : j < 4) :
    (pbytes ws)[4 * i + j]? = ((toLe 4 w.1.toNat)[j]?).map (fun v => (v, w.2)) := by
  induction ws generalizing i with
  | nil => simp at hw
  | cons x r ih =>
    have hl : ((toLe 4 x.1.toNat).map (fun v => (v, x.2))).length = 4 := by simp [length_toLe]
    rw [pbytes, List.flatMap_cons]
    cases i with
    | zero =>
      obtain rfl : x = w := by simpa using hw
      rw [List.getElem?_append_left (by omega), Nat.mul_zero, Nat.zero_add, List.getElem?_map]
    | succ i =>
      rw [List.getElem?_append_right (by omega), hl, show 4 * (i + 1) + j - 4 = 4 * i + j by omega]
      exact ih (by simpa using hw)

/-- A word stands where its bytes do. -/
theorem Memory.word32_of_pbytes {m : Memory} {a i : Nat} {ws : List PWord} {w : PWord} (hw : ws[i]? = some w)
    (h : ∀ n b, 4 * i ≤ n → n < 4 * i + 4 → (pbytes ws)[n]? = some b → m.byte (a + n) = b.1) : m.word32 (a + 4 * i) = w.1 := by
  have hb : (m.readB (a + 4 * i) 4).map (·.1) = toLe 4 w.1.toNat := by
    apply List.ext_getElem
    · simp [Memory.readB, length_toLe]
    · intro j hj hj'
      rw [length_toLe] at hj'
      have hp := getElem?_pbytes hw hj'
      rw [List.getElem?_eq_getElem (by rw [length_toLe]; exact hj' : j < (toLe 4 w.1.toNat).length), Option.map_some] at hp
      simp only [Memory.readB, List.map_map, List.getElem_map, List.getElem_range, Function.comp_apply, Nat.add_assoc]
      exact h _ _ (by omega) (by omega) hp
  rw [Memory.word32, hb, ofNat_ofLe_toLe]

theorem Memory.drop_take_readB (m : Memory) {k n a c : Nat} (h : a + c ≤ n) : ((m.readB k n).drop a).take c = m.readB (k + a) c := by
  apply List.ext_getElem
  · simp [Memory.readB]; omega
  · intro j _ _
    simp [Memory.readB, Nat.add_assoc]

/-! ### Marks of a 4-byte word (R280, R340) -/

/-- A 64-byte word holds whole poison groups, and a group whole 4-byte words. -/
theorem groupOf_add {a j : Nat} (i : Nat) (ha : a % 64 = 0) (hj : j < 4) : groupOf (a + 4 * i + j) = groupOf (a + 4 * i) := by
  simp only [groupOf]
  obtain ⟨h, _⟩ | ⟨h, _⟩ := groupSize_cases (a + 4 * i + j) <;> obtain ⟨h', _⟩ | ⟨h', _⟩ := groupSize_cases (a + 4 * i) <;>
    rw [h, h'] <;> omega

theorem Memory.any_bad_readB (m : Memory) {a : Nat} (i : Nat) (ha : a % 64 = 0) :
    (m.readB (a + 4 * i) 4).any (·.2) = m.bad (a + 4 * i) := by
  have h := fun j hj => groupOf_add (j := j) i ha hj
  have h1 := h 1 (by omega)
  have h2 := h 2 (by omega)
  have h3 := h 3 (by omega)
  simp [Memory.readB, Memory.bad, List.range_succ, h1, h2, h3]

/-- The sixteen words of a 64-byte word of memory (R350). -/
theorem Memory.getElem?_pwords_readB (m : Memory) {a i : Nat} (ha : a % 64 = 0) (hi : i < 16) :
    (pwords (m.readB a 64))[i]? = some (m.word32 (a + 4 * i), m.bad (a + 4 * i)) := by
  simp only [pwords, List.getElem?_map, List.getElem?_range hi, Option.map_some, m.drop_take_readB (show 4 * i + 4 ≤ 64 by omega),
    Memory.any_bad_readB m i ha]
  rfl

theorem length_pwords (bs : List PByte) : (pwords bs).length = 16 := by simp [pwords]

/-- Setting marks by a function of the group: a group named takes its own, another keeps the one it has. -/
theorem Memory.mem_poison_foldl_marks (f : Nat → Bool) (l : List Nat) (m : Memory) (j : Nat) :
    j ∈ ((l.map (fun g => (g, f g))).foldl (fun m e => m.setPoison e.1 e.2) m).poison ↔ if j ∈ l then f j = true else j ∈ m.poison := by
  induction l generalizing m with
  | nil => simp
  | cons g r ih =>
    rw [List.map_cons, List.foldl_cons, ih]
    by_cases hr : j ∈ r
    · simp [hr]
    · by_cases hg : j = g
      · subst hg
        simp only [hr, if_false, List.mem_cons_self, if_true]
        cases hf : f j <;> simp [Memory.setPoison, mem_insertNat]
      · simp [hr, hg, Memory.mem_poison_setPoison_ne _ _ hg]

/-- A group that a write touches takes the mark that the write gives it. -/
theorem Memory.bad_writeB_of_mem (m : Memory) {k j : Nat} {bs : List PByte} (h : groupOf j ∈ groupsOf k bs.length) :
    (m.writeB k bs).bad j = m.groupMark k bs (groupOf j) := by
  have hm := Memory.mem_poison_foldl_marks (m.groupMark k bs) (groupsOf k bs.length) (m.setBytes k (bs.map (·.1))) (groupOf j)
  rw [if_pos h] at hm
  rw [Memory.bad, Memory.writeB, Bool.eq_iff_iff, List.contains_iff_mem]
  exact hm

/-- The range lies on one side of the border between poison groups of 8 and of 32 bytes. -/
theorem groupOf_mem_groupsOf {k len n : Nat} (hk : k + len ≤ stackDpa ∨ stackDpa ≤ k) (hn : n < len) : groupOf (k + n) ∈ groupsOf k len := by
  have hs : groupSize (k + n) = groupSize k := by
    unfold groupSize
    split <;> split <;> omega
  rw [groupsOf, if_neg (by omega), groupOf, hs]
  refine List.mem_map.2 ⟨(k + n) / groupSize k - k / groupSize k, List.mem_range.2 ?_, ?_⟩ <;>
    obtain ⟨h, _⟩ | ⟨h, _⟩ := groupSize_cases k <;> simp only [h] <;> omega

/-- A marked byte marks its group, whole in the write or not. -/
theorem Memory.bad_writeB_of_marked (m : Memory) {k n : Nat} {bs : List PByte} {b : Byte} (hk : k + bs.length ≤ stackDpa ∨ stackDpa ≤ k)
    (h : bs[n]? = some (b, true)) : (m.writeB k bs).bad (k + n) = true := by
  have hn : n < bs.length := (List.getElem?_eq_some_iff.1 h).1
  have hs : groupSize (groupOf (k + n)) = groupSize (k + n) := by
    simp only [groupOf]
    obtain ⟨h', _⟩ | ⟨h', _⟩ := groupSize_cases (k + n) <;> rw [h'] <;> unfold groupSize stackDpa <;> split <;> omega
  have hc : markAt k bs (groupOf (k + n)) (groupOf (k + n) + groupSize (groupOf (k + n))) = true := by
    refine List.any_eq_true.2 ⟨k + n - groupOf (k + n), List.mem_range.2 ?_, ?_⟩
    · rw [hs]
      simp only [groupOf]
      obtain ⟨h', _⟩ | ⟨h', _⟩ := groupSize_cases (k + n) <;> rw [h'] <;> omega
    · have hg : groupOf (k + n) ≤ k + n := Nat.div_mul_le_self _ _
      rw [Nat.add_sub_cancel' hg, if_pos (by omega), Nat.add_sub_cancel_left, List.getD_eq_getElem?_getD, h]
      rfl
  rw [Memory.bad_writeB_of_mem m (groupOf_mem_groupsOf hk hn), Memory.groupMark]
  simp [hc]

end Sys2Proof.Machine
end

section
/-! SUPPORT. What a stored word leaves of the state besides memory, and the parts of an epoch that an update of it changes. -/

namespace Sys2Proof.Machine

namespace State

/-- `t` is `s` but for memory and what traffic leaves behind. -/
def StoredOnly (s t : State) : Prop := State.TrafficOnly { s with mem := t.mem } t

namespace StoredOnly

variable {σ s t : State}

theorem refl (s : State) : s.StoredOnly s := rfl

/-- Traffic after a store. -/
theorem traffic (h : σ.StoredOnly s) (g : s.TrafficOnly t) : σ.StoredOnly t := by
  rw [StoredOnly, TrafficOnly, g, h]

theorem mem (h : σ.StoredOnly s) (m : Memory) : σ.StoredOnly { s with mem := m } := by
  rw [StoredOnly, TrafficOnly, h]

theorem foldl {α : Type} {f : State → α → State} (h : σ.StoredOnly s) (hf : ∀ {s : State} (a : α), σ.StoredOnly s → σ.StoredOnly (f s a))
    (l : List α) : σ.StoredOnly (l.foldl f s) := by
  induction l generalizing s with
  | nil => exact h
  | cons a r ih => exact ih (hf a h)

theorem ite {c : Prop} [Decidable c] (hs : σ.StoredOnly s) (ht : σ.StoredOnly t) : σ.StoredOnly (if c then s else t) := by
  split <;> assumption

theorem epochs (h : s.StoredOnly t) : t.epochs = s.epochs := by rw [h]

theorem tally (h : s.StoredOnly t) : t.tally = s.tally := by rw [h]

theorem groups (h : s.StoredOnly t) : t.groups = s.groups := by rw [h]

theorem cores (h : s.StoredOnly t) : t.cores = s.cores := by rw [h]

theorem epoch (h : s.StoredOnly t) (ch : Nat) : t.epoch ch = s.epoch ch := by simp only [State.epoch, h.epochs]

theorem setFld (h : σ.StoredOnly s) (a hi lo v : Nat) : σ.StoredOnly (s.setFld a hi lo v) := h.traffic (.setFld (.refl s) a hi lo v)

theorem addFld (h : σ.StoredOnly s) (a hi lo v : Nat) : σ.StoredOnly (s.addFld a hi lo v) := h.traffic (.addFld (.refl s) a hi lo v)

theorem maxFld (h : σ.StoredOnly s) (a hi lo v : Nat) : σ.StoredOnly (s.maxFld a hi lo v) := h.traffic (.maxFld (.refl s) a hi lo v)

theorem countAccess (h : σ.StoredOnly s) (a : Nat) (wr : Bool) : σ.StoredOnly (s.countAccess a wr) := h.traffic (.countAccess (.refl s) a wr)

theorem writeMem (h : σ.StoredOnly s) (a : Nat) (bs : List PByte) : σ.StoredOnly (s.writeMem a bs) := by
  unfold State.writeMem
  split
  · exact h.mem _
  · exact h

theorem storeWord (h : σ.StoredOnly s) (a : Nat) (bs : List PByte) : σ.StoredOnly (s.storeWord a bs) := by
  obtain he | ht := s.storeWord_cases a bs
  · rw [he]
    exact h
  · exact (h.writeMem a bs).traffic ht

theorem storeBytes (h : σ.StoredOnly s) (a : Nat) (bs : List PByte) : σ.StoredOnly (s.storeBytes a bs) :=
  foldl h (fun _ h => h.storeWord _ _) _

theorem hubOp (h : σ.StoredOnly s) (a n : Nat) (wr : Bool) : σ.StoredOnly (s.hubOp a n wr) := h.traffic (.hubOp (.refl s) a n wr)

theorem hubWrite (h : σ.StoredOnly s) (a : Nat) (bs : List PByte) : σ.StoredOnly (s.hubWrite a bs) :=
  .ite h ((h.hubOp _ _ _).storeBytes _ _)

theorem putWord (h : σ.StoredOnly s) (a : Nat) (ws : List PWord) : σ.StoredOnly (s.putWord a ws) :=
  ((h.countAccess _ _).countAccess _ _).storeWord _ _

end StoredOnly

end State

/-- A word that is mapped, on a channel that is not faulty, takes its bytes (R346). -/
theorem State.storeWord_mem {s : State} {a : Nat} (bs : List PByte) (hk : s.keyOf a = some a) (hf : s.faultyAt a = false) :
    (s.storeWord a bs).mem = s.mem.writeB a bs := by
  have hw : (s.writeMem a bs).mem = s.mem.writeB a bs := by simp only [State.writeMem, hk]
  unfold State.storeWord
  rw [if_neg (by simp [hf])]
  split
  · rw [(State.TrafficOnly.noteWrite (.refl _) _ _ _).mem, hw]
  · exact hw

theorem State.loadWord_of_mapped {s : State} {a : Nat} (n : Nat) (hk : s.keyOf a = some a) (hf : s.faultyAt a = false) :
    s.loadWord a n = s.mem.readB a n := by
  simp only [State.loadWord, hf, State.readMem, hk, if_false, Bool.false_eq_true]

/-! ### Epochs (R375) -/

@[simp] theorem State.epoch_putEpoch_self (s : State) (e : Epoch) : (s.putEpoch e).epoch e.name.rch = some e :=
  Tab.find_put_self _ _ _

theorem State.epoch_putEpoch {s : State} {e : Epoch} {ch : Nat} (h : e.name.rch = ch) : (s.putEpoch e).epoch ch = some e := by
  rw [← h, State.epoch_putEpoch_self]

theorem State.updEpoch_of_epoch {s : State} {ch : Nat} {e : Epoch} (h : s.epoch ch = some e) (f : Epoch → Epoch) :
    s.updEpoch ch f = s.putEpoch (f e) := by
  simp only [State.updEpoch, h]

theorem State.updHolder_of_epoch {s : State} {ch : Nat} {e : Epoch} (h : s.epoch ch = some e) (f : HolderSide → HolderSide) :
    s.updHolder ch f = s.putEpoch { e with holder := f e.holder } := State.updEpoch_of_epoch h _

/-- The epoch that an update of the holder leaves. -/
theorem State.epoch_updHolder {s : State} {ch : Nat} {e : Epoch} (h : s.epoch ch = some e) (hn : e.name.rch = ch) (f : HolderSide → HolderSide) :
    (s.updHolder ch f).epoch ch = some { e with holder := f e.holder } := by
  rw [State.updHolder_of_epoch h]
  exact State.epoch_putEpoch hn

theorem State.updEpoch_tally (s : State) (ch : Nat) (f : Epoch → Epoch) : (s.updEpoch ch f).tally = s.tally := by
  unfold State.updEpoch
  split <;> rfl

theorem State.updHolder_tally (s : State) (ch : Nat) (f : HolderSide → HolderSide) : (s.updHolder ch f).tally = s.tally := s.updEpoch_tally _ _

/-- The counters of staging entries are registers alone (R405). -/
theorem State.countStage_storedOnly (s : State) : s.StoredOnly s.countStage := ((StoredOnly.refl s).setFld _ _ _ _).maxFld _ _ _ _

end Sys2Proof.Machine
end

section
/-! Chapter 2 of the manual: the tally units add what is staged (02 R66 to R69, 10 R350). -/

namespace Sys2Proof.Machine

/-! ### The sums of a batch (R66, R68) -/

theorem length_elemsOf (code n : Nat) (bs : List PByte) : (elemsOf code n bs).length = n := by
  simp [elemsOf, unpackElems]

theorem length_addsOf (s : State) (e : Epoch) (b : Batch) : (s.addsOf e b).length = b.len := by
  simp [State.addsOf, length_elemsOf]

/-- The first part of a two-sum is the rounded sum (R68). -/
theorem twoSum_fst (s x : Word32) : (twoSum s x).1 = (add32 s x).1 := by
  unfold twoSum
  simp only
  split <;> rfl

theorem tallyAdd_sum (n : Nat) (comp : Bool) (s c x : PWord) :
    (tallyAdd n comp s c x).sum = ((add32 (if n = 1 then (0, false) else s).1 x.1).1, (if n = 1 then ((0, false) : PWord) else s).2 || x.2) := by
  simp only [tallyAdd, twoSum_fst]

/-! ### The batch's words -/

/-- A batch's sums, companions, counts and flags are in memory and registers; the epoch has not noted them. -/
def State.batchStored (s : State) (e : Epoch) (b : Batch) : State :=
  let rs := s.addsOf e b
  let t := if b.src % 64 = 0 then s.countAccess b.src false else s
  let t := (t.putWord b.addr (rs.map Tallied.sum)).addFld (rTalAdds b.chan) 63 0 rs.length
  let t := match b.comp with
    | some c => t.putWord c (rs.map Tallied.comp)
    | none => t
  let t := if rs.any (·.nan) then t.setFld (rTalStat b.chan) 32 32 1 else t
  if rs.any (·.long) then t.setFld (rTalStat b.chan) 33 33 1 else t

/-- What the epoch notes of a batch: each element's count, a long sum, a NaN that arose. -/
def HolderSide.noteBatch (h : HolderSide) (at' : Nat) (rs : List Tallied) : HolderSide :=
  { h with
    counts := (List.range rs.length).foldl (fun t i => Tab.upd t 0 (at' + i) (fun n => min (n + 1) (2 ^ 20))) h.counts
    longSum := h.longSum || rs.any (·.long)
    sumNan := h.sumNan || rs.any (·.nan) }

theorem State.tallyBatch_of_epoch {s : State} {b : Batch} {e : Epoch} (h : s.epoch b.rch = some e) :
    s.tallyBatch b = (s.batchStored e b).updHolder b.rch (fun x => x.noteBatch ((b.addr - e.desc.tally) / 4) (s.addsOf e b)) := by
  unfold State.tallyBatch
  rw [h]
  rfl

theorem State.batchStored_storedOnly (s : State) (e : Epoch) (b : Batch) : s.StoredOnly (s.batchStored e b) := by
  have hsrc : s.StoredOnly (if b.src % 64 = 0 then s.countAccess b.src false else s) := .ite ((StoredOnly.refl s).countAccess _ _) (.refl s)
  have hsum := (hsrc.putWord b.addr ((s.addsOf e b).map Tallied.sum)).addFld (rTalAdds b.chan) 63 0 (s.addsOf e b).length
  unfold State.batchStored
  cases b.comp with
  | none => exact .ite (.setFld (.ite (hsum.setFld _ _ _ _) hsum) _ _ _ _) (.ite (hsum.setFld _ _ _ _) hsum)
  | some c =>
    have hcomp := hsum.putWord c ((s.addsOf e b).map Tallied.comp)
    exact .ite (.setFld (.ite (hcomp.setFld _ _ _ _) hcomp) _ _ _ _) (.ite (hcomp.setFld _ _ _ _) hcomp)

theorem State.tallyBatch_tally (s : State) (b : Batch) : (s.tallyBatch b).tally = s.tally := by
  cases h : s.epoch b.rch with
  | none => simp only [State.tallyBatch, h]
  | some e => rw [State.tallyBatch_of_epoch h, State.updHolder_tally, (s.batchStored_storedOnly e b).tally]

/-- The epoch of a batch notes its sums and leaves its staging as it is. -/
theorem State.tallyBatch_epoch {s : State} {b : Batch} {e : Epoch} (h : s.epoch b.rch = some e) (hn : e.name.rch = b.rch) :
    (s.tallyBatch b).epoch b.rch = some { e with holder := e.holder.noteBatch ((b.addr - e.desc.tally) / 4) (s.addsOf e b) } := by
  have he : (s.batchStored e b).epoch b.rch = some e := ((s.batchStored_storedOnly e b).epoch _).trans h
  rw [State.tallyBatch_of_epoch h, State.epoch_updHolder he hn]

/-! ### Taking a batch (R346, R397, R406) -/

/-- A mode change of the unit touches registers and what waits for it alone (R406). -/
theorem State.applyTalMode_storedOnly (s : State) (q : Nat) : State.StoredOnly { s with talPend := (s.applyTalMode q).talPend } (s.applyTalMode q) := by
  unfold State.applyTalMode
  split
  · split
    · exact .refl s
    · exact ((StoredOnly.refl { s with talPend := Tab.del s.talPend q }).setFld _ _ _ _).setFld _ _ _ _
  · exact .refl s

theorem State.applyTalMode_tally (s : State) (q : Nat) : (s.applyTalMode q).tally = s.tally := (s.applyTalMode_storedOnly q).tally

theorem State.applyTalMode_epoch (s : State) (q ch : Nat) : (s.applyTalMode q).epoch ch = s.epoch ch := (s.applyTalMode_storedOnly q).epoch ch

theorem State.freeBlock_tally (s : State) (ch rank first : Nat) : (s.freeBlock ch rank first).tally = s.tally := by
  unfold State.freeBlock
  split
  · rfl
  · rw [(State.countStage_storedOnly _).tally, State.updHolder_tally]

/-- A block's entry is free once no batch of it is left (R397). -/
theorem State.freeBlock_epoch {s : State} {ch : Nat} {e : Epoch} (h : s.epoch ch = some e) (hn : e.name.rch = ch) (rank first : Nat) :
    (s.freeBlock ch rank first).epoch ch = some (if s.tally.any (fun b => b.rch == ch && b.rank == rank && b.first == first) then e
      else { e with holder := { e.holder with staged := e.holder.staged.filter (fun b => !(b.fed && b.rank == rank && b.first == first)) } }) := by
  unfold State.freeBlock
  split
  · exact h
  · rw [(State.countStage_storedOnly _).epoch, State.epoch_updHolder h hn]

/-- What a channel makes of a batch off its queue: its sums, or nothing where it is faulty. -/
def State.batchTaken (s : State) (b : Batch) : State :=
  if s.chanFaulty b.chan then { s with tally := s.tally.erase b } else State.tallyBatch { s with tally := s.tally.erase b } b

theorem State.takeBatch_eq (s : State) (b : Batch) :
    s.takeBatch b = ((s.batchTaken b).freeBlock b.rch b.rank b.first).applyTalMode b.chan := rfl

theorem State.batchTaken_tally (s : State) (b : Batch) : (s.batchTaken b).tally = s.tally.erase b := by
  unfold State.batchTaken
  split
  · rfl
  · exact State.tallyBatch_tally _ _

theorem State.batchTaken_epoch {s : State} {b : Batch} {e : Epoch} (h : s.epoch b.rch = some e) (hn : e.name.rch = b.rch) :
    ∃ f, (s.batchTaken b).epoch b.rch = some f ∧ f.name.rch = b.rch ∧ f.holder.staged = e.holder.staged := by
  unfold State.batchTaken
  split
  · exact ⟨e, h, hn, rfl⟩
  · exact ⟨_, State.tallyBatch_epoch h hn, hn, rfl⟩

theorem State.takeBatch_tally (s : State) (b : Batch) : (s.takeBatch b).tally = s.tally.erase b := by
  rw [State.takeBatch_eq, State.applyTalMode_tally, State.freeBlock_tally, State.batchTaken_tally]

/-- The staging entry of a block is freed with its last batch (R397). -/
theorem State.takeBatch_staged {s : State} {b : Batch} {e : Epoch} (h : s.epoch b.rch = some e) (hn : e.name.rch = b.rch) :
    ∃ f, (s.takeBatch b).epoch b.rch = some f ∧
      ((∃ x ∈ s.tally.erase b, x.rch = b.rch ∧ x.rank = b.rank ∧ x.first = b.first) → f.holder.staged = e.holder.staged) ∧
      ((∀ x ∈ s.tally.erase b, ¬ (x.rch = b.rch ∧ x.rank = b.rank ∧ x.first = b.first)) →
        f.holder.staged = e.holder.staged.filter (fun y => !(y.fed && y.rank == b.rank && y.first == b.first))) := by
  obtain ⟨f, hf, hfn, hstaged⟩ := State.batchTaken_epoch h hn
  have hiff : ((s.tally.erase b).any fun x => x.rch == b.rch && x.rank == b.rank && x.first == b.first) = true ↔
      ∃ x ∈ s.tally.erase b, x.rch = b.rch ∧ x.rank = b.rank ∧ x.first = b.first := by
    simp [List.any_eq_true, and_assoc]
  rw [State.takeBatch_eq, State.applyTalMode_epoch, State.freeBlock_epoch hf hfn, State.batchTaken_tally]
  refine ⟨_, rfl, fun hleft => ?_, fun hlast => ?_⟩
  · rw [if_pos (hiff.2 hleft), hstaged]
  · rw [if_neg fun hany => by obtain ⟨x, hx, hxb⟩ := hiff.1 hany; exact hlast x hx hxb]
    exact congrArg _ hstaged

/-! ### What a batch without a companion leaves (R66, R340, R350, R370) -/

theorem State.updHolder_eq (s : State) (ch : Nat) (f : HolderSide → HolderSide) :
    s.updHolder ch f = { s with epochs := (s.updHolder ch f).epochs } := by
  unfold State.updHolder State.updEpoch
  split <;> rfl

/-- One write of a tally word: the elements given, and what the word held behind them (R336, R350). -/
theorem State.putWord_mem {s : State} {a : Nat} (ws : List PWord) (hk : s.keyOf a = some a) (hf : s.faultyAt a = false) :
    (s.putWord a ws).mem = s.mem.writeB a (pbytes (ws ++ (pwords (s.mem.readB a 64)).drop ws.length)) := by
  have hr : s.sameRegsBut ((s.countAccess a false).countAccess a true) countReg := ((sameRegsBut.refl s _).countAccess a false).countAccess a true
  have hm : ((s.countAccess a false).countAccess a true).mem = s.mem := (((TrafficOnly.refl s).countAccess a false).countAccess a true).mem
  rw [State.putWord, State.storeWord_mem _ (by rw [hr.keyOf, hk]) (by rw [hr.faultyAt, hf]), hm, State.loadWord_of_mapped 64 hk hf]

theorem State.sameRegsBut.putWord {σ s : State} (h : σ.sameRegsBut s countReg) (a : Nat) (ws : List PWord) :
    σ.sameRegsBut (s.putWord a ws) countReg := ((h.countAccess _ _).countAccess _ _).storeWord _ _

/-- The state in which a batch's words are written: its staged words have been read. -/
def State.batchRead (s : State) (b : Batch) : State := if b.src % 64 = 0 then s.countAccess b.src false else s

theorem State.batchRead_traffic (s : State) (b : Batch) : s.TrafficOnly (s.batchRead b) := .ite (.countAccess (.refl s) _ _) (.refl s)

theorem State.batchRead_regs (s : State) (b : Batch) : s.sameRegsBut (s.batchRead b) countReg := .ite (.countAccess (.refl s _) _ _) (.refl s _)

/-- The sixteen words that a batch leaves in its tally word. -/
def State.batchWords (s : State) (e : Epoch) (b : Batch) : List PWord :=
  (s.addsOf e b).map Tallied.sum ++ (pwords (s.mem.readB b.addr 64)).drop b.len

theorem State.setFld_ite_mem (s : State) (c : Prop) [Decidable c] (a hi lo v : Nat) : (if c then s.setFld a hi lo v else s).mem = s.mem := by
  by_cases h : c
  · rw [if_pos h, State.setFld_mem]
  · rw [if_neg h]

theorem State.setFld_ite_fld (s : State) (c : Prop) [Decidable c] {a r : Nat} (hi lo v h2 l2 : Nat) (h : r ≠ a) :
    (if c then s.setFld a hi lo v else s).fld r h2 l2 = s.fld r h2 l2 := by
  by_cases hc : c
  · rw [if_pos hc, State.fld_setFld_other s _ _ _ _ _ h]
  · rw [if_neg hc]

theorem State.batchStored_mem {s : State} {e : Epoch} {b : Batch} (hc : b.comp = none) (hk : s.keyOf b.addr = some b.addr)
    (hf : s.faultyAt b.addr = false) : (s.batchStored e b).mem = s.mem.writeB b.addr (pbytes (s.batchWords e b)) := by
  have hw := State.putWord_mem (s := s.batchRead b) ((s.addsOf e b).map Tallied.sum) (by rw [(s.batchRead_regs b).keyOf, hk])
    (by rw [(s.batchRead_regs b).faultyAt, hf])
  rw [(s.batchRead_traffic b).mem, List.length_map, length_addsOf] at hw
  unfold State.batchStored
  simp only [hc]
  rw [State.setFld_ite_mem, State.setFld_ite_mem, State.addFld_mem]
  exact hw

/-- Each addition is counted (R406). -/
theorem State.batchStored_adds {s : State} {e : Epoch} {b : Batch} (hc : b.comp = none) :
    (s.batchStored e b).fld (rTalAdds b.chan) 63 0 = min (s.fld (rTalAdds b.chan) 63 0 + b.len) (2 ^ 64 - 1) := by
  have hne : rTalAdds b.chan ≠ rTalStat b.chan := by unfold rTalAdds rTalStat; omega
  have hr := (s.batchRead_regs b).putWord b.addr ((s.addsOf e b).map Tallied.sum)
  unfold State.batchStored
  simp only [hc, State.setFld_ite_fld _ _ _ _ _ _ _ hne]
  rw [State.fld_addFld_self _ _ _ _ _ (by omega) (by omega), length_addsOf]
  exact congrArg (fun n => min (n + b.len) (2 ^ 64 - 1)) (hr.fld (not_countReg_rTalAdds _) 63 0)

/-- Counting each of a run of keys once. -/
theorem Tab.get_foldl_upd (t : Tab Nat) (f : Nat → Nat) (a n j : Nat) :
    Tab.get ((List.range n).foldl (fun t i => Tab.upd t 0 (a + i) f) t) 0 j = if a ≤ j ∧ j < a + n then f (Tab.get t 0 j) else Tab.get t 0 j := by
  induction n with
  | zero => rw [if_neg (by omega)]; rfl
  | succ n ih =>
    rw [List.range_succ, List.foldl_append, List.foldl_cons, List.foldl_nil, Tab.upd]
    by_cases hj : j = a + n
    · subst hj
      rw [Tab.get_put_self, ih, if_neg (by omega), if_pos (by omega)]
    · rw [Tab.get_put_ne _ _ _ hj, ih]
      exact ite_congr (by simp only [eq_iff_iff]; omega) (fun _ => rfl) (fun _ => rfl)

theorem State.length_batchWords {s : State} {e : Epoch} {b : Batch} (hlen : b.len ≤ 16) : (s.batchWords e b).length = 16 := by
  simp only [State.batchWords, List.length_append, List.length_map, List.length_drop, length_addsOf, length_pwords]
  omega

/-- Behind the batch, the tally word keeps its words. -/
theorem State.getElem?_batchWords_kept {s : State} {e : Epoch} {b : Batch} {i : Nat} (ha : b.addr % 64 = 0) (hi : b.len ≤ i) (h16 : i < 16) :
    (s.batchWords e b)[i]? = some (s.mem.word32 (b.addr + 4 * i), s.mem.bad (b.addr + 4 * i)) := by
  have hl : ((s.addsOf e b).map Tallied.sum).length = b.len := by rw [List.length_map, length_addsOf]
  rw [State.batchWords, List.getElem?_append_right (by omega), hl, List.getElem?_drop, Nat.add_sub_cancel' hi,
    s.mem.getElem?_pwords_readB ha h16]

/-- What an element's addition starts from (R370): +0 at the first of the epoch, else what memory holds. -/
def State.tallyOld (s : State) (n a : Nat) : PWord := if n = 1 then (0, false) else (s.mem.word32 a, s.mem.bad a)

/-- Each element of the batch becomes its sum, and is poisoned by either operand (R66, R340). -/
theorem State.getElem?_batchWords_added {s : State} {e : Epoch} {b : Batch} {i : Nat} {x : PWord} (hc : b.comp = none) (hlen : b.len ≤ 16)
    (ha : b.addr % 64 = 0) (hk : s.keyOf b.addr = some b.addr) (hf : s.faultyAt b.addr = false)
    (hx : (elemsOf e.desc.wireCode b.len (s.loadBytes b.src (packedLen e.desc.wireCode b.len)))[i]? = some x) :
    (s.batchWords e b)[i]? = some (
      let old := s.tallyOld (Tab.get e.holder.counts 0 ((b.addr - e.desc.tally) / 4 + i) + 1) (b.addr + 4 * i)
      ((add32 old.1 x.1).1, old.2 || x.2)) := by
  have hi : i < b.len := by
    have hlt := (List.getElem?_eq_some_iff.1 hx).1
    rwa [length_elemsOf] at hlt
  have hold : (pwords (s.loadWord b.addr 64)).getD i (0, false) = (s.mem.word32 (b.addr + 4 * i), s.mem.bad (b.addr + 4 * i)) := by
    rw [State.loadWord_of_mapped 64 hk hf, List.getD_eq_getElem?_getD, s.mem.getElem?_pwords_readB ha (by omega)]
    rfl
  have hl : i < ((s.addsOf e b).map Tallied.sum).length := by rwa [List.length_map, length_addsOf]
  rw [State.batchWords, List.getElem?_append_left hl, List.getElem?_map, State.addsOf]
  simp only [List.getElem?_map, List.getElem?_zipIdx, hx, Option.map_some, Nat.zero_add, hc, tallyAdd_sum, hold]
  rfl

theorem State.tallyBatch_eq {s : State} {b : Batch} {e : Epoch} (h : s.epoch b.rch = some e) :
    s.tallyBatch b = { s.batchStored e b with epochs := (s.tallyBatch b).epochs } := by
  rw [State.tallyBatch_of_epoch h]
  exact State.updHolder_eq _ _ _

/-- A word of the 64 bytes that a batch writes. -/
theorem State.word32_batch {s t : State} {e : Epoch} {b : Batch} {i : Nat} {w : PWord} (hm : t.mem = s.mem.writeB b.addr (pbytes (s.batchWords e b)))
    (hw : (s.batchWords e b)[i]? = some w) : t.mem.word32 (b.addr + 4 * i) = w.1 := by
  refine Memory.word32_of_pbytes hw fun n x _ _ hx => ?_
  obtain ⟨hn, rfl⟩ := List.getElem?_eq_some_iff.1 hx
  rw [hm, Memory.byte_writeB_inside _ _ _ hn]

/-- A marked word of the 64 bytes that a batch writes. -/
theorem State.bad_batch {s t : State} {e : Epoch} {b : Batch} {i : Nat} {w : PWord} (hlen : b.len ≤ 16) (ha : b.addr % 64 = 0)
    (hm : t.mem = s.mem.writeB b.addr (pbytes (s.batchWords e b))) (hw : (s.batchWords e b)[i]? = some w) (hp : w.2 = true) :
    t.mem.bad (b.addr + 4 * i) = true := by
  have hl : (pbytes (s.batchWords e b)).length = 64 := by rw [length_pbytes, State.length_batchWords hlen]
  have h0 := getElem?_pbytes hw (show 0 < 4 by omega)
  rw [List.getElem?_eq_getElem (by rw [length_toLe]; omega : 0 < (toLe 4 w.1.toNat).length), Option.map_some, hp] at h0
  rw [hm]
  exact Memory.bad_writeB_of_marked _ (by rw [hl]; unfold stackDpa; omega) h0

/-! ### TALLY_ADD -/

theorem exec_tallyAdd_eq (q : Nat) (x : AddB) (s : State) : exec (.tallyAdd q x) s = execTallyAdd q x s := rfl

theorem wf_tallyAdd_clean {q : Nat} (hq : q < 256) : Instr.wf (.tallyAdd q ⟨false, [], []⟩) = true := by
  simp [Instr.wf, hq]

/-- No burst of the batch meets an error (R340). -/
theorem State.batchErrs_nil (s : State) (b : Batch) : s.batchErrs b [] [] = s := by
  unfold State.batchErrs
  refine State.foldl_leaves id (fun s x => ?_) _ s
  rcases x.1 with _ | a
  · rfl
  · rcases (some a).bind s.chanAt with _ | q <;> simp

/-- A batch is ready once its channel, and its companion's, serve (R345). -/
theorem State.batchReady_iff (s : State) (b : Batch) : s.batchReady b = true ↔ (s.chanState b.chan = 2 ∨ s.chanState b.chan = 5) ∧
    ∀ c r, b.comp = some c → s.chanAt c = some r → s.chanState r = 2 ∨ s.chanState r = 5 := by
  have hall : ((b.comp.bind s.chanAt).all s.serves) = true ↔ ∀ c r, b.comp = some c → s.chanAt c = some r → s.chanState r = 2 ∨ s.chanState r = 5 := by
    rcases b.comp with _ | c
    · simp
    · rcases hq : s.chanAt c with _ | q
      · simp only [Option.bind_some, hq, Option.all_none, true_iff]
        rintro _ r ⟨⟩ hr
        cases hq.symm.trans hr
      · simp only [Option.bind_some, hq, Option.all_some, State.serves, Bool.or_eq_true, beq_iff_eq]
        exact ⟨fun h _ r hc hr => by cases hc; cases hq.symm.trans hr; exact h, fun h => h c q rfl hq⟩
  rw [State.batchReady, Bool.and_eq_true, hall, State.serves, Bool.or_eq_true, beq_iff_eq, beq_iff_eq]

/-- The oldest batch of a channel, with nothing found wrong. -/
theorem exec_tallyAdd_clean {s : State} {q : Nat} {b : Batch} (hq : q < 256) (hb : s.tally.find? (fun b => b.chan == q) = some b) :
    exec (.tallyAdd q ⟨false, [], []⟩) s = .next (
      if s.batchReady b then
        if s.chanFaulty q then (((s.takeBatch b).grantCredit b.rch).holderLost b.rch).settleRed
        else ((s.takeBatch b).grantCredit b.rch).settleRed
      else s) := by
  rw [exec_tallyAdd_eq, execTallyAdd, guardWf_of_wf (wf_tallyAdd_clean hq)]
  simp only [hb, State.batchErrs_nil, ite_self, Bool.false_eq_true, false_and, if_false]
  congr 1
  split
  · split <;> rfl
  · rfl

theorem State.chanFaulty_iff (s : State) (q : Nat) : s.chanFaulty q = true ↔ s.chanState q = 5 := beq_iff_eq

/-- Settles O25: what the command does is read off its one equation; what the batch leaves in memory, off the sixteen words it writes. -/
theorem tallyAdds : Obligations.TallyAdds := by
  unfold Obligations.TallyAdds
  intro s q b hq hb
  have hbq : b.chan = q := by simpa using List.find?_some hb
  refine ⟨fun hready hup => ?_, fun hready hfaulty => ?_, fun hwait => ?_, ?_, s.takeBatch_tally b, fun e => State.takeBatch_staged,
    fun e he hn hc hlen ha hk hf => ?_⟩
  · rw [exec_tallyAdd_clean hq hb, if_pos hready, if_neg (by rw [State.chanFaulty_iff, hup]; decide)]
  · rw [exec_tallyAdd_clean hq hb, if_pos hready, if_pos ((s.chanFaulty_iff q).2 hfaulty)]
  · rw [exec_tallyAdd_clean hq hb, if_neg (by simp [hwait])]
  · rw [← hbq, State.batchReady_iff]
  · have hs := State.batchStored_mem (e := e) hc hk hf
    have ht := State.tallyBatch_eq he
    have hm : (s.tallyBatch b).mem = s.mem.writeB b.addr (pbytes (s.batchWords e b)) := by rw [ht, hs]
    have hl : (pbytes (s.batchWords e b)).length = 64 := by rw [length_pbytes, State.length_batchWords hlen]
    refine ⟨fun i x hx => ?_, fun i hi h16 => State.word32_batch hm (State.getElem?_batchWords_kept ha hi h16),
      State.sameMemBut_of_writeB hl hm, ?_, ?_⟩
    · have hw := State.getElem?_batchWords_added hc hlen ha hk hf hx
      have hi : i < b.len := by
        have hlt := (List.getElem?_eq_some_iff.1 hx).1
        rwa [length_elemsOf] at hlt
      refine ⟨State.word32_batch hm hw, State.bad_batch hlen ha hm hw, _, State.tallyBatch_epoch he hn, ?_⟩
      simp only [HolderSide.noteBatch, length_addsOf]
      rw [Tab.get_foldl_upd, if_pos (by omega)]
    · rw [ht]
      exact State.batchStored_adds hc
    · rw [ht]
      exact (s.batchStored_storedOnly e b).cores

end Sys2Proof.Machine
end

section
/-! SUPPORT. A range of bytes stored word by word: what stands in it, and what stays outside it. -/

namespace Sys2Proof.Machine

namespace State.sameMemBut

variable {s t u : State} {a n b m : Nat}

theorem refl (s : State) (a n : Nat) : s.sameMemBut s a n := fun _ _ => ⟨rfl, fun _ => rfl⟩

theorem trans (h : s.sameMemBut t a n) (g : t.sameMemBut u a n) : s.sameMemBut u a n := fun k hk =>
  ⟨(g k hk).1.trans (h k hk).1, fun hg => ((g k hk).2 hg).trans ((h k hk).2 hg)⟩

/-- A wider range. -/
theorem mono (h : s.sameMemBut t a n) (hlo : b ≤ a) (hhi : a + n ≤ b + m) : s.sameMemBut t b m := fun k hk =>
  have hout := h k (by omega)
  ⟨hout.1, fun hg => hout.2 (by omega)⟩

theorem of_mem (h : t.mem = u.mem) (hs : s.sameMemBut t a n) : s.sameMemBut u a n := fun k hk => h ▸ hs k hk

end State.sameMemBut

/-- The first `m` words of a range, stored. -/
def State.storeParts (s : State) (a : Nat) (bs : List PByte) (m : Nat) : State :=
  (List.range m).foldl (fun s i => s.storeWord (partOfWord a bs.length i 0).addr
    ((bs.drop (partOfWord a bs.length i 0).pos).take (partOfWord a bs.length i 0).len)) s

theorem State.storeBytes_eq (s : State) (a : Nat) (bs : List PByte) : s.storeBytes a bs = s.storeParts a bs (wordsOf a bs.length) := rfl

theorem State.storeParts_succ (s : State) (a : Nat) (bs : List PByte) (m : Nat) :
    s.storeParts a bs (m + 1) = (s.storeParts a bs m).storeWord (partOfWord a bs.length m 0).addr
      ((bs.drop (partOfWord a bs.length m 0).pos).take (partOfWord a bs.length m 0).len) := by
  rw [State.storeParts, List.range_succ, List.foldl_append]
  rfl

/-- The part of a range in one of its words lies in the range and in the word, and begins where the last ended. -/
theorem partOfWord_bounds {a len m : Nat} (hm : m < wordsOf a len) :
    let r := partOfWord a len m 0
    r.addr = a + r.pos ∧ r.pos + r.len ≤ len ∧ 0 < r.len ∧
      (∀ n, n < len → a + n < (a / 64 + (m + 1)) * 64 → r.pos ≤ n → n < r.pos + r.len) ∧ (∀ n, n < r.pos → a + n < (a / 64 + m) * 64) := by
  unfold wordsOf at hm
  split at hm
  · omega
  · simp only [partOfWord]
    exact ⟨by omega, by omega, by omega, fun n _ _ _ => by omega, fun n _ => by omega⟩

/-- Every byte of a mapped range on channels that are not faulty takes its value, and what lies outside stays. -/
theorem State.storeParts_range {s : State} {a m : Nat} {bs : List PByte}
    (hmap : ∀ x, a ≤ x → x < a + bs.length → s.keyOf x = some x ∧ s.faultyAt x = false) (hm : m ≤ wordsOf a bs.length) :
    (∀ n b, bs[n]? = some b → a + n < (a / 64 + m) * 64 → (s.storeParts a bs m).mem.byte (a + n) = b.1) ∧
      s.sameMemBut (s.storeParts a bs m) a bs.length ∧ s.sameRegsBut (s.storeParts a bs m) countReg := by
  induction m with
  | zero => exact ⟨fun n b _ hlt => by omega, .refl s _ _, .refl s _⟩
  | succ m ih =>
    obtain ⟨hin, hout, hregs⟩ := ih (by omega)
    obtain ⟨haddr, hend, hpos, hlast, hfirst⟩ := partOfWord_bounds (show m < wordsOf a bs.length by omega)
    rw [State.storeParts_succ]
    generalize s.storeParts a bs m = t at hin hout hregs ⊢
    generalize partOfWord a bs.length m 0 = r at haddr hend hpos hlast hfirst ⊢
    have hl : ((bs.drop r.pos).take r.len).length = r.len := by simp; omega
    obtain ⟨hk, hf⟩ := hmap r.addr (by omega) (by omega)
    have hmem := State.storeWord_mem (s := t) ((bs.drop r.pos).take r.len) (by rw [hregs.keyOf, hk]) (by rw [hregs.faultyAt, hf])
    refine ⟨fun n b hb hlt => ?_, hout.trans ((State.sameMemBut_of_writeB hl hmem).mono (by omega) (by omega)), hregs.storeWord _ _⟩
    obtain ⟨hn, rfl⟩ := List.getElem?_eq_some_iff.1 hb
    rw [hmem]
    by_cases hp : r.pos ≤ n
    · have hlen := hlast n hn hlt hp
      have hbyte := t.mem.byte_writeB_inside r.addr ((bs.drop r.pos).take r.len) (i := n - r.pos) (by omega)
      rw [haddr, Nat.add_assoc, Nat.add_sub_cancel' hp] at hbyte
      rw [haddr, hbyte]
      simp [Nat.add_sub_cancel' hp]
    · rw [Memory.byte_writeB_outside _ _ _ (by omega)]
      exact hin n _ hb (hfirst n (by omega))

theorem State.storeBytes_range {s : State} {a : Nat} {bs : List PByte}
    (hmap : ∀ x, a ≤ x → x < a + bs.length → s.keyOf x = some x ∧ s.faultyAt x = false) :
    (∀ n b, bs[n]? = some b → (s.storeBytes a bs).mem.byte (a + n) = b.1) ∧ s.sameMemBut (s.storeBytes a bs) a bs.length := by
  rw [State.storeBytes_eq]
  obtain ⟨hin, hout, -⟩ := State.storeParts_range hmap (Nat.le_refl _)
  refine ⟨fun n b hb => hin n b hb ?_, hout⟩
  have hn := (List.getElem?_eq_some_iff.1 hb).1
  unfold wordsOf
  split <;> omega

/-! ### Mapped stacked memory (R333, R346) -/

theorem State.keyOf_of_stacked {s : State} {x : Nat} (hlo : stackDpa ≤ x) (hhi : x < s.stackEnd) : s.keyOf x = some x := by
  have h1 : ¬ x < 0x100000000 := by unfold stackDpa at hlo; omega
  have h2 : ¬ x < 0x110000000 := by unfold stackDpa at hlo; omega
  rw [State.keyOf, if_neg h1, if_neg h2]
  exact if_pos ⟨hlo, hhi⟩

theorem State.faultyAt_of_up {s : State} (h : ∀ q < 256, s.chanFaulty q = false) (x : Nat) : s.faultyAt x = false := by
  rw [State.faultyAt]
  rcases hq : s.chanAt x with _ | q
  · rfl
  · exact h q (State.chanAt_lt hq)

/-- The transport's write of a range of stacked memory. -/
theorem State.hubWrite_range {s : State} {a : Nat} {bs : List PByte} (hc : s.hubCut = false) (hlo : stackDpa ≤ a) (hhi : a + bs.length ≤ s.stackEnd)
    (hup : ∀ q < 256, s.chanFaulty q = false) :
    (∀ n b, bs[n]? = some b → (s.hubWrite a bs).mem.byte (a + n) = b.1) ∧ s.sameMemBut (s.hubWrite a bs) a bs.length := by
  have hr : s.sameRegsBut (s.hubOp a bs.length true) countReg := (sameRegsBut.refl s _).hubOp hlo _ _
  have hm : (s.hubOp a bs.length true).mem = s.mem := ((TrafficOnly.refl s).hubOp a bs.length true).mem
  have hmap : ∀ x, a ≤ x → x < a + bs.length → (s.hubOp a bs.length true).keyOf x = some x ∧ (s.hubOp a bs.length true).faultyAt x = false :=
    fun x hax hx => ⟨by rw [hr.keyOf, State.keyOf_of_stacked (by omega) (by omega)], by rw [hr.faultyAt, State.faultyAt_of_up hup]⟩
  obtain ⟨hin, hout⟩ := State.storeBytes_range hmap
  rw [State.hubWrite, if_neg (by simp [hc])]
  exact ⟨hin, fun k hk => hm ▸ hout k hk⟩

end Sys2Proof.Machine
end

section
/-! Chapter 11 of the manual: the results of an epoch, and its end. -/

namespace Sys2Proof.Machine

theorem State.current.named {s : State} {e : Epoch} {d : Desc} (h : s.current e d) : s.named e.name = some e := by
  rw [State.named, h.1, Option.bind_some, if_pos rfl]

/-! ### A result block lands (R387, R395, R446) -/

/-- The bytes of a result block, and the poisoned words it counts. -/
def State.resultStored (s : State) (e : Epoch) (d : Desc) (first : Nat) (ws : List PWord) : State :=
  let t := s.hubWrite (d.tally + 4 * first) (pbytes ws)
  let loc := t.rwaitAt e.part e.name.rch
  if (t.part e.part).live then t.poisonStore e.part (ws.filter (·.2)).length loc.1 .a loc.2 else t

theorem State.landResult_eq (s : State) (e : Epoch) (d : Desc) (first flags : Nat) (ws : List PWord) :
    s.landResult e d first flags ws = (s.resultStored e d first ws).updMember e.name.rch (fun m =>
      { m with landed := insertNat first m.landed, flags := m.flags ||| flags }) := rfl

theorem State.TrafficOnly.poisonStore {σ s : State} (h : σ.TrafficOnly s) (p n c : Nat) (st : Strm) (pc : Nat) :
    σ.TrafficOnly (s.poisonStore p n c st pc) :=
  .ite h (.ite (h.addFld _ _ _ _) ((((h.addFld _ _ _ _).setFld _ _ _ _).setFld _ _ _ _).setFld _ _ _ _ |>.setFld _ _ _ _))

theorem State.resultStored_traffic (s : State) (e : Epoch) (d : Desc) (first : Nat) (ws : List PWord) :
    (s.hubWrite (d.tally + 4 * first) (pbytes ws)).TrafficOnly (s.resultStored e d first ws) :=
  .ite (.poisonStore (.refl _) _ _ _ _ _) (.refl _)

theorem State.resultStored_storedOnly (s : State) (e : Epoch) (d : Desc) (first : Nat) (ws : List PWord) :
    s.StoredOnly (s.resultStored e d first ws) := ((StoredOnly.refl s).hubWrite _ _).traffic (s.resultStored_traffic e d first ws)

theorem State.updEpoch_eq (s : State) (ch : Nat) (f : Epoch → Epoch) : s.updEpoch ch f = { s with epochs := (s.updEpoch ch f).epochs } := by
  unfold State.updEpoch
  split <;> rfl

theorem State.landResult_groups (s : State) (e : Epoch) (d : Desc) (first flags : Nat) (ws : List PWord) :
    (s.landResult e d first flags ws).groups = s.groups := by
  rw [State.landResult_eq, State.updMember, State.updEpoch_eq]
  exact (s.resultStored_storedOnly e d first ws).groups

theorem State.landResult_mem (s : State) (e : Epoch) (d : Desc) (first flags : Nat) (ws : List PWord) :
    (s.landResult e d first flags ws).mem = (s.hubWrite (d.tally + 4 * first) (pbytes ws)).mem := by
  rw [State.landResult_eq, State.updMember, State.updEpoch_eq]
  exact (s.resultStored_traffic e d first ws).mem

/-- The epoch notes a block that has landed, with its flags. -/
theorem State.landResult_epoch {s : State} {e : Epoch} {d : Desc} (h : s.current e d) (first flags : Nat) (ws : List PWord) :
    (s.landResult e d first flags ws).epoch e.name.rch =
      some { e with member := { e.member with landed := insertNat first e.member.landed, flags := e.member.flags ||| flags } } := by
  have he : (s.resultStored e d first ws).epoch e.name.rch = some e := ((s.resultStored_storedOnly e d first ws).epoch _).trans h.1
  rw [State.landResult_eq, State.updMember, State.updEpoch_of_epoch he]
  exact State.epoch_putEpoch rfl

/-- Result words stand in the tally area, and memory outside them stays. -/
theorem State.landResult_words {s : State} {e : Epoch} {d : Desc} {f : Nat} {ws : List PWord} (flags : Nat) (hc : s.hubCut = false)
    (hlo : stackDpa ≤ d.tally) (hhi : d.tally + 4 * f + 4 * ws.length ≤ s.stackEnd) (hup : ∀ q < 256, s.chanFaulty q = false) :
    (∀ i w, ws[i]? = some w → (s.landResult e d f flags ws).mem.word32 (d.tally + 4 * f + 4 * i) = w.1) ∧
      s.sameMemBut (s.landResult e d f flags ws) (d.tally + 4 * f) (4 * ws.length) := by
  have hl := length_pbytes ws
  obtain ⟨hin, hout⟩ := State.hubWrite_range (bs := pbytes ws) hc (show stackDpa ≤ d.tally + 4 * f by omega) (by omega) hup
  have hm := s.landResult_mem e d f flags ws
  refine ⟨fun i w hw => ?_, ?_⟩
  · rw [hm]
    exact Memory.word32_of_pbytes hw fun n b _ _ hb => hin n b hb
  · rw [← hl]
    exact .of_mem hm.symm hout

/-! ### The messages of an epoch's end (R387, R388, R390, R400) -/

section

variable {s : State} {e : Epoch} {d : Desc} (h : s.current e d)

include h

theorem State.gotResult_of_current {adm : List Nat} (ha : e.admitted = some adm) (k : Nat) (a b c : Bool) (rf f : Nat) (data : List PByte) :
    s.gotResult e.name k a b c rf f data =
      if e.closed = true ∨ (!(s.part e.part).live) = true then s.stale
      else if rf ≠ d.rfmt ∨ (!(d.shardBlocks d.resultCode adm k).contains f) = true ∨ data.length ≠ packedLen d.resultCode (d.blockLen d.resultCode f) then s
      else (s.landResult e d f (bit a + 2 * bit b + 4 * bit c) (elemsOf d.resultCode (d.blockLen d.resultCode f) data)).checkLanded e.name.rch := by
  obtain ⟨-, rfl⟩ := id h
  simp only [State.gotResult, h.named, ha]

theorem State.gotLost_of_current {adm : List Nat} (ha : e.admitted = some adm) (k : Nat) :
    s.gotLost e.name k =
      if e.closed = true then s.stale
      else if (d.shardBlocks d.resultCode adm k).all (fun f => e.member.landed.contains f) = true then s
      else (if e.holder.final = true then s else s.dropHolder e.name.rch).endEpoch e.name.rch 4 := by
  obtain ⟨-, rfl⟩ := id h
  simp only [State.gotLost, h.named, ha]

theorem State.gotAbandon_of_current :
    s.gotAbandon e.name = if e.closed = true ∧ e.holder.ended = true then s.stale else (s.dropHolder e.name.rch).endEpoch e.name.rch 2 := by
  simp only [State.gotAbandon, h.named]

theorem State.checkLanded_of_current :
    s.checkLanded e.name.rch = if e.outcome = some 0 ∧ (List.range (ceilDiv d.elems (perBlock d.resultCode))).all
      (fun i => e.member.landed.contains (perBlock d.resultCode * i)) = true then s.endEpoch e.name.rch 0 else s := by
  obtain ⟨he, rfl⟩ := h
  simp only [State.checkLanded, he]

end

/-! ### The holder sends its shard (R387, R394) -/

theorem State.allRanks_of_groups {s t : State} (h : t.groups = s.groups) (g : Nat) : t.allRanks g = s.allRanks g := by
  simp only [State.allRanks, State.group, h]

/-- The words of a result block, narrowed as they are sent. -/
def State.resultWords (s : State) (e : Epoch) (d : Desc) (f : Nat) : List (Nat × Bool) :=
  (List.range (d.blockLen d.resultCode f)).map (fun i =>
    let x := (s.sumOfElem e (f + i)).1
    ((narrowFp d.resultCode .rne x.1).1, x.2))

theorem State.map_sumsOf (s : State) (e : Epoch) (f : Nat) :
    (s.sumsOf e f).map (fun w => ((narrowFp e.desc.resultCode .rne w.1.1).1, w.1.2)) = s.resultWords e e.desc f := by
  simp only [State.sumsOf, List.map_map]
  rfl

/-- The state in which a block's RESULT goes out: the shard has taken its words, but where the epoch has closed here without FINAL (R374). -/
def State.resultHeld (s : State) (e : Epoch) (d : Desc) (f : Nat) : State :=
  let v := s.hubOp (d.tally + 4 * f) (4 * d.blockLen d.resultCode f) false
  let ws := v.resultWords e d f
  if e.closed = true ∧ (∃ o, e.outcome = some o ∧ o ≠ 0) then v
  else v.landResult e d f (bit e.holder.longSum + 2 * bit e.holder.sumNan + 4 * bit (ws.any (·.2))) (ws.map (fun w => (widenFp d.resultCode w.1, w.2)))

theorem State.resultHeld_groups (s : State) (e : Epoch) (d : Desc) (f : Nat) : (s.resultHeld e d f).groups = s.groups := by
  have hv := ((StoredOnly.refl s).hubOp (d.tally + 4 * f) (4 * d.blockLen d.resultCode f) false).groups
  unfold State.resultHeld
  simp only
  split
  · exact hv
  · rw [State.landResult_groups, hv]

theorem outcome_any_iff (o : Option Nat) : o.any (· != 0) = true ↔ ∃ x, o = some x ∧ x ≠ 0 := by
  rcases o with _ | x <;> simp

theorem State.sendResult_of_current {s : State} {e : Epoch} {d : Desc} (h : s.current e d) (f : Nat) :
    let ws := (s.hubOp (d.tally + 4 * f) (4 * d.blockLen d.resultCode f) false).resultWords e d f
    s.sendResult e.name.rch f = (s.resultHeld e d f).toRanks e.name.group ((s.allRanks e.name.group).filter (fun r => r != e.rank))
      (.result e.name e.rank e.holder.longSum e.holder.sumNan (ws.any (·.2)) d.rfmt f (packMarked d.resultCode ws)) := by
  obtain ⟨he, rfl⟩ := h
  intro ws
  rw [← State.allRanks_of_groups (s.resultHeld_groups e e.desc f)]
  unfold State.sendResult
  simp only [he, State.map_sumsOf]
  have hheld : (if (e.closed && e.outcome.any (· != 0)) = true then s.hubOp (e.desc.tally + 4 * f) (4 * e.desc.blockLen e.desc.resultCode f) false
      else (s.hubOp (e.desc.tally + 4 * f) (4 * e.desc.blockLen e.desc.resultCode f) false).landResult e e.desc f
        (bit e.holder.longSum + 2 * bit e.holder.sumNan + 4 * bit (ws.any (·.2))) (ws.map (fun w => (widenFp e.desc.resultCode w.1, w.2)))) =
      s.resultHeld e e.desc f := if_congr (by rw [Bool.and_eq_true, outcome_any_iff]) rfl rfl
  rw [hheld]

theorem exec_holderResultSend_eq (ch : Nat) (s : State) : exec (.holderResultSend ch) s = execHolderResultSend ch s := rfl

theorem wf_holderResultSend {ch : Nat} (h : ch < 64) : Instr.wf (.holderResultSend ch) = true := decide_eq_true h

/-- A NaN that the reading of a shard's sums makes (R394). -/
def State.shardNan (s : State) (e : Epoch) (d : Desc) (fs : List Nat) : Bool :=
  fs.any (fun f => (List.range (d.blockLen d.resultCode f)).any (fun i => (s.sumOfElem e (f + i)).2))

theorem exec_holderResultSend_of_current {s : State} {e : Epoch} {d : Desc} {adm : List Nat} (h : s.current e d) (hch : e.name.rch < 64)
    (ha : e.admitted = some adm) :
    exec (.holderResultSend e.name.rch) s = .next (
      if (!e.holder.final) = true ∨ e.holder.ended = true ∨ s.tally.any (fun b => b.rch == e.name.rch) = true then s
      else
        let fs := d.shardBlocks d.resultCode adm e.rank
        let v := s.putEpoch { e with holder := { e.holder with sumNan := e.holder.sumNan || s.shardNan e d fs } }
        (((fs.foldl (fun t f => t.sendResult e.name.rch f) v).dropHolder e.name.rch).checkLanded e.name.rch).settleRed) := by
  obtain ⟨he, rfl⟩ := h
  rw [exec_holderResultSend_eq, execHolderResultSend, guardWf_of_wf (wf_holderResultSend hch)]
  simp only [he, ha, State.updHolder_of_epoch he, State.sumsOf, List.any_map, Function.comp_def]
  rfl

/-! ### The RWAIT timeout (R200, R376, R388) -/

theorem exec_rwaitTimeout_eq (c ch : Nat) (s : State) : exec (.rwaitTimeout c ch) s = execRwaitTimeout c ch s := rfl

theorem wf_rwaitTimeout {c ch : Nat} (hc : c < 128) (h : ch < 64) : Instr.wf (.rwaitTimeout c ch) = true := by
  simp [Instr.wf, wfCore, hc, h]

/-- An RWAIT of a core on a channel. -/
def RedOp.waits (c ch : Nat) (x : RedOp) : Bool :=
  x.c == c && x.op.rch == ch && (match x.op.ins with
    | .rwait _ _ _ _ => true
    | _ => false)

/-- The member gives the epoch up: a holder that has had no CLOSE waits no longer. -/
def State.giveUp (s : State) (e : Epoch) : State :=
  ((if e.outcome = none then s.dropHolder e.name.rch else s).shutEpoch e.name.rch).settleRed

section

variable {s : State} {e : Epoch} {d : Desc} (h : s.current e d) (hch : e.name.rch < 64) {c : Nat} (hc : c < 128)

include h hch hc

theorem exec_rwaitTimeout_of_live (hl : (s.part e.part).live = true) :
    exec (.rwaitTimeout c e.name.rch) s = .next (
      match s.redOps.find? (RedOp.waits c e.name.rch) with
      | none => s
      | some x =>
        if e.closed = true ∨ (!e.rolled) = true ∨ s.epochOf x ≠ some e then s
        else
          let tout := match x.op.ins with
            | .rwait _ _ _ t => t
            | _ => 0
          ((s.reach (e.deadline + 1000 * tout)).terminate e.part tRemoteTimeout (.at c .a x.op.pc)).giveUp e) := by
  obtain ⟨he, -⟩ := h
  rw [exec_rwaitTimeout_eq, execRwaitTimeout, guardWf_of_wf (wf_rwaitTimeout hc hch)]
  simp only [he, hl, if_true, Option.isNone_iff_eq_none]
  rfl

theorem exec_rwaitTimeout_of_ended (hl : (s.part e.part).live = false) :
    exec (.rwaitTimeout c e.name.rch) s = .next (
      if (s.part e.part).st = .ending ∧ (s.part e.part).cores.contains c = true ∧ e.outcome = none then (s.reach e.deadline).giveUp e else s) := by
  obtain ⟨he, -⟩ := h
  rw [exec_rwaitTimeout_eq, execRwaitTimeout, guardWf_of_wf (wf_rwaitTimeout hc hch)]
  simp only [he, hl, if_false, Bool.false_eq_true, Option.isNone_iff_eq_none]
  rfl

/-- The epoch has not closed TOUT after its deadline: the program ends. -/
theorem exec_rwaitTimeout_of_late {x : RedOp} {cf : Cf} {r dag tout : Nat} (hl : (s.part e.part).live = true)
    (hx : s.redOps.find? (RedOp.waits c e.name.rch) = some x) (hi : x.op.ins = .rwait cf r dag tout) (ho : e.closed = false) (hr : e.rolled = true)
    (hex : s.epochOf x = some e) :
    exec (.rwaitTimeout c e.name.rch) s =
      .next (((s.reach (e.deadline + 1000 * tout)).terminate e.part tRemoteTimeout (.at c .a x.op.pc)).giveUp e) := by
  rw [exec_rwaitTimeout_of_live h hch hc hl]
  simp [hx, ho, hr, hex, hi]

/-- No RWAIT waits for the epoch, it has closed, or its host has told no deadline. -/
theorem exec_rwaitTimeout_of_not (hl : (s.part e.part).live = true)
    (hn : s.redOps.find? (RedOp.waits c e.name.rch) = none ∨ e.closed = true ∨ e.rolled = false) : exec (.rwaitTimeout c e.name.rch) s = .next s := by
  rw [exec_rwaitTimeout_of_live h hch hc hl]
  rcases hx : s.redOps.find? (RedOp.waits c e.name.rch) with _ | x
  · rfl
  · have hn : e.closed = true ∨ (!e.rolled) = true ∨ s.epochOf x ≠ some e := by
      obtain hnone | hclosed | hrolled := hn
      · cases hx.symm.trans hnone
      · exact .inl hclosed
      · exact .inr (.inl (by rw [hrolled]; rfl))
    simp only [if_pos hn]

end

/-- Settles O56: each message and event by its equation on the epoch it names; what lands, by the transport's write of a range. -/
theorem epochResults : Obligations.EpochResults := by
  unfold Obligations.EpochResults
  intro s e d h
  refine ⟨fun adm ha => ⟨fun k a b c rf f data => ⟨fun hend => ?_, fun hopen hlive hbad => ?_, fun hopen hlive hfit => ?_⟩,
    fun k => ⟨fun hclosed => ?_, fun hopen hall => ?_, fun hopen hleft => ?_⟩, fun hch => ⟨fun hfinal hduty hdone => ?_, fun hnot => ?_⟩⟩,
    fun f => ⟨s.resultHeld e d f, rfl, State.sendResult_of_current h f⟩,
    fun f fl ws hcut hlo hhi hup _ => ?_, ?_, fun hclosed hended => ?_, fun hopen => ?_,
    fun hch c hc => ⟨fun hlive x cf r dag tout hx hi ho hr hex => ?_, fun hlive hn => ?_, fun hst hcore hout => ?_, fun hst => ?_⟩⟩
  · rw [State.gotResult_of_current h ha, if_pos (by simpa using hend)]
  · rw [State.gotResult_of_current h ha, if_neg (by simp [hopen, hlive])]
    refine if_pos ?_
    by_contra hn
    simp only [not_or, ne_eq, not_not, Bool.not_eq_true', Bool.not_eq_false, List.contains_iff_mem] at hn
    exact hbad hn
  · obtain ⟨hfmt, hmem, hlen⟩ := hfit
    rw [State.gotResult_of_current h ha, if_neg (by simp [hopen, hlive]), if_neg (by simp [hfmt, hmem, hlen])]
  · rw [State.gotLost_of_current h ha, if_pos hclosed]
  · rw [State.gotLost_of_current h ha, if_neg (by simp [hopen]), if_pos (by simpa using hall)]
  · rw [State.gotLost_of_current h ha, if_neg (by simp [hopen]), if_neg (by simpa using hleft)]
  · rw [exec_holderResultSend_of_current h hch ha, if_neg (by simpa [hfinal, hduty] using hdone)]
    rfl
  · rw [exec_holderResultSend_of_current h hch ha, if_pos (by simpa using hnot)]
  · obtain ⟨hwords, hout⟩ := State.landResult_words (e := e) (f := f) (ws := ws) fl hcut hlo hhi hup
    exact ⟨hwords, hout, State.landResult_epoch h f fl ws⟩
  · simpa using State.checkLanded_of_current h
  · rw [State.gotAbandon_of_current h, if_pos ⟨hclosed, hended⟩]
  · rw [State.gotAbandon_of_current h, if_neg (by rintro ⟨hc, he⟩; simp [hc, he] at hopen)]
  · exact exec_rwaitTimeout_of_late h hch hc hlive hx hi ho hr hex
  · exact exec_rwaitTimeout_of_not h hch hc hlive hn
  · rw [exec_rwaitTimeout_of_ended h hch hc (by simp [Part.live, hst]), if_pos ⟨hst, by simpa using hcore, hout⟩]
    rfl
  · rw [exec_rwaitTimeout_of_ended h hch hc (by simp [Part.live, hst]), if_neg (by simp [hst])]

end Sys2Proof.Machine
end

section
/-! SUPPORT. Parts of a core: what each operation on queues, ports, instructions and accumulator sets leaves, and what an operation on one core leaves of the state. -/

namespace Sys2Proof.Machine

/-! ### Arrays, queues and instructions of a core -/

@[simp] theorem Core.arr_setArr_self (c : Core) (n : Nat) (a : Arr) : (c.setArr n a).arr n = a := Tab.get_put_self _ _ _ _

theorem Core.arr_setArr_ne (c : Core) {n m : Nat} (a : Arr) (h : m ≠ n) : (c.setArr n a).arr m = c.arr m := Tab.get_put_ne _ _ _ h

@[simp] theorem Core.queue_setQueue_self (c : Core) (q : Nat) (v : Queue) : (c.setQueue q v).queue q = v := Tab.get_put_self _ _ _ _

theorem Core.queue_setQueue_ne (c : Core) {q r : Nat} (v : Queue) (h : r ≠ q) : (c.setQueue q v).queue r = c.queue r := Tab.get_put_ne _ _ _ h

theorem Core.freePort_eq (c : Core) : ∃ x, c.freePort = { c with x := x } := by
  unfold Core.freePort
  split
  · exact ⟨_, rfl⟩
  · exact ⟨c.x, rfl⟩

/-- An instruction that leaves its port changes ports of arrays, and may let the X-stream go on (R565). -/
theorem Core.leavePort_eq (c : Core) (o : Op) :
    c.leavePort o = { c with x := (c.leavePort o).x, arrays := (c.leavePort o).arrays } ∧
      ∀ n, ∃ l, (c.leavePort o).arr n = { c.arr n with ports := l } := by
  unfold Core.leavePort
  split
  · rename_i a q p _
    obtain ⟨x, hx⟩ := (c.updArr a (fun y => y.setPort q p ((y.port q p).filter (fun i => i != o.id)))).freePort_eq
    rw [hx]
    refine ⟨rfl, fun n => ?_⟩
    by_cases hn : n = a
    · subst hn
      exact ⟨_, Core.arr_setArr_self _ _ _⟩
    · exact ⟨(c.arr n).ports, Core.arr_setArr_ne _ _ hn⟩
  · exact ⟨rfl, fun n => ⟨(c.arr n).ports, rfl⟩⟩

@[simp] theorem Core.queue_leavePort (c : Core) (o : Op) (q : Nat) : (c.leavePort o).queue q = c.queue q := by
  rw [(c.leavePort_eq o).1]
  rfl

@[simp] theorem Core.ops_leavePort (c : Core) (o : Op) : (c.leavePort o).ops = c.ops := by
  rw [(c.leavePort_eq o).1]

/-- Leaving out an instruction that has been replaced. -/
theorem Core.filter_ops_setOp (c : Core) (o : Op) : (c.setOp o).ops.filter (fun x => x.id != o.id) = c.ops.filter (fun x => x.id != o.id) := by
  rw [Core.setOp]
  induction c.ops with
  | nil => rfl
  | cons a r ih =>
    rw [List.map_cons]
    by_cases h : a.id = o.id
    · rw [if_pos h, List.filter_cons_of_neg (by simp), List.filter_cons_of_neg (by simp [h]), ih]
    · rw [if_neg h, List.filter_cons_of_pos (by simp [h]), List.filter_cons_of_pos (by simp [h]), ih]

/-! ### The mode of an array (R91) -/

/-- Every array of `d` is in the mode that it has in `c`. -/
structure Core.SameModes (c d : Core) : Prop where
  qm : ∀ n, (d.arr n).qm = (c.arr n).qm

namespace Core.SameModes

variable {b c : Core}

theorem refl (c : Core) : c.SameModes c := ⟨fun _ => rfl⟩

theorem ite {p : Prop} [Decidable p] {d : Core} (hc : b.SameModes c) (hd : b.SameModes d) : b.SameModes (if p then c else d) := by
  split <;> assumption

theorem setQueue (h : b.SameModes c) (q : Nat) (v : Queue) : b.SameModes (c.setQueue q v) := ⟨h.qm⟩

theorem setOp (h : b.SameModes c) (o : Op) : b.SameModes (c.setOp o) := ⟨h.qm⟩

theorem finish (h : b.SameModes c) (o : Op) : b.SameModes (c.finish o) := ⟨h.qm⟩

theorem putSet (h : b.SameModes c) (n key : Nat) (v : AccSet) : b.SameModes (c.updArr n (fun a => a.putSet key v)) := ⟨fun m => by
  by_cases hm : m = n
  · subst hm
    rw [Core.updArr, Core.arr_setArr_self, ← h.qm]
    rfl
  · rw [Core.updArr, Core.arr_setArr_ne _ _ hm, h.qm]⟩

theorem leavePort (h : b.SameModes c) (o : Op) : b.SameModes (c.leavePort o) := ⟨fun n => by
  obtain ⟨l, hl⟩ := (c.leavePort_eq o).2 n
  rw [hl, ← h.qm n]⟩

end Core.SameModes

/-! ### Cells of an accumulator set (R83, R90) -/

@[simp] theorem Arr.set_putSet_self (a : Arr) (key : Nat) (v : AccSet) : (a.putSet key v).set key = v := Tab.get_put_self _ _ _ _

/-- A cell's value and mark (R90). -/
def AccSet.at (v : AccSet) (i j : Nat) : Word32 × Bool := (v.cell i j, v.bad i j)

theorem AccSet.at_putCell_self (v : AccSet) (i j : Nat) (w : Word32) (p : Bool) : (v.putCell i j w p).at i j = (w, p) := by
  have hc : (v.putCell i j w p).cell i j = w := by simp [AccSet.cell, AccSet.putCell]
  have hb : (v.putCell i j w p).bad i j = p := by
    rw [Bool.eq_iff_iff, AccSet.bad, List.contains_iff_mem]
    cases p <;> simp [AccSet.putCell, mem_insertNat]
  rw [AccSet.at, hc, hb]

theorem AccSet.at_putCell_ne (v : AccSet) {i j i' j' : Nat} (w : Word32) (p : Bool) (h : 32 * i' + j' ≠ 32 * i + j) :
    (v.putCell i j w p).at i' j' = v.at i' j' := by
  have hc : (v.putCell i j w p).cell i' j' = v.cell i' j' := by simp only [AccSet.cell, AccSet.putCell, Tab.find_put_ne _ _ h]
  have hb : (v.putCell i j w p).bad i' j' = v.bad i' j' := by
    rw [Bool.eq_iff_iff, AccSet.bad, AccSet.bad, List.contains_iff_mem, List.contains_iff_mem]
    cases p <;> simp [AccSet.putCell, mem_insertNat, h]
  rw [AccSet.at, hc, hb, AccSet.at]

/-- Cells set one after another, each by a function of its place: a cell among them has its value. -/
theorem AccSet.at_foldl_putCell {g : Nat → Nat → Word32 × Bool × Fl} {l : List (Nat × Nat × Word32 × Bool × Fl)}
    (hg : ∀ e ∈ l, e.2.1 < 32 ∧ e.2.2 = g e.1 e.2.1) {i j : Nat} (hj : j < 32) (v : AccSet) (h : (i, j, g i j) ∈ l ∨ v.at i j = ((g i j).1, (g i j).2.1)) :
    (l.foldl (fun (t : AccSet) e => t.putCell e.1 e.2.1 e.2.2.1 e.2.2.2.1) v).at i j = ((g i j).1, (g i j).2.1) := by
  induction l generalizing v with
  | nil => exact h.resolve_left (by simp)
  | cons e r ih =>
    obtain ⟨⟨he, hval⟩, hr⟩ := List.forall_mem_cons.1 hg
    rw [List.foldl_cons]
    refine ih hr _ ?_
    by_cases hk : 32 * i + j = 32 * e.1 + e.2.1
    · obtain ⟨rfl, rfl⟩ : i = e.1 ∧ j = e.2.1 := by omega
      right
      rw [AccSet.at_putCell_self, hval]
    · rw [AccSet.at_putCell_ne _ _ _ hk]
      refine h.imp_left fun hm => (List.mem_cons.1 hm).resolve_left fun heq => hk ?_
      rw [← heq]

/-- One K-step of a set: each cell of the region by `cellStep`, the count one higher, the region named (R65, R75, R94). -/
theorem AccSet.step_at (v : AccSet) {west north : List (List (PNum × Fl))} (real : Nat) (hn : north.length ≤ 32) {i j : Nat}
    (hi : i < west.length) (hj : j < north.length) :
    let r := cellStep (v.cell i j) (v.bad i j) (west.getD i []) (north.getD j []) real
    (v.step west north real).1.at i j = (r.1, r.2.1) := by
  let g := fun i j => cellStep (v.cell i j) (v.bad i j) (west.getD i []) (north.getD j []) real
  refine AccSet.at_foldl_putCell (g := g) (fun e he => ?_) (by omega) v (.inl ?_)
  · obtain ⟨wi, hwi, he⟩ := List.mem_flatMap.1 he
    obtain ⟨nj, hnj, rfl⟩ := List.mem_map.1 he
    have hw := List.getElem?_of_mem hwi
    have hwi := List.mem_zipIdx' hwi
    have hnj := List.mem_zipIdx' hnj
    obtain ⟨hwl, hwv⟩ := hwi
    obtain ⟨hnl, hnv⟩ := hnj
    refine ⟨by simp only; omega, ?_⟩
    simp [g, List.getD_eq_getElem?_getD, List.getElem?_eq_getElem hwl, List.getElem?_eq_getElem hnl, hwv, hnv]
  · refine List.mem_flatMap.2 ⟨(west[i], i), List.mk_mem_zipIdx_iff_getElem?.2 (List.getElem?_eq_getElem hi), List.mem_map.2 ⟨(north[j], j),
      List.mk_mem_zipIdx_iff_getElem?.2 (List.getElem?_eq_getElem hj), ?_⟩⟩
    simp [g, List.getD_eq_getElem?_getD, hi, hj]

theorem AccSet.step_kc (v : AccSet) (west north : List (List (PNum × Fl))) (real : Nat) :
    (v.step west north real).1.kc = min (2 ^ 24) (v.kc + 1) := rfl

theorem AccSet.step_region (v : AccSet) (west north : List (List (PNum × Fl))) (real : Nat) :
    (v.step west north real).1.region = some (west.length, north.length) := rfl

/-! ### What an operation on one core leaves of the state -/

theorem State.CoresOnly.trans {s t u : State} (h : s.CoresOnly t) (g : t.CoresOnly u) : s.CoresOnly u := by
  rw [g]
  exact h.update _ _

/-- `t` is `s` but for core `k` and the registers that `p` holds of. -/
structure State.OnCore (s t : State) (k : Nat) (p : Nat → Prop) : Prop where
  only : s.CoresOnly t
  cores : s.sameCoresBut t k
  regs : s.sameRegsBut t p

namespace State.OnCore

variable {σ s : State} {k : Nat} {p : Nat → Prop}

theorem refl (s : State) (k : Nat) (p : Nat → Prop) : s.OnCore s k p := ⟨.refl s, fun _ _ => rfl, .refl s p⟩

theorem ite {c : Prop} [Decidable c] {t : State} (hs : σ.OnCore s k p) (ht : σ.OnCore t k p) : σ.OnCore (if c then s else t) k p := by
  split <;> assumption

theorem setCore (h : σ.OnCore s k p) (c : Core) : σ.OnCore (s.setCore k c) k p :=
  ⟨h.only.setCore k c, fun j hj => (State.core_setCore_ne s c hj).trans (h.cores j hj), h.regs.update rfl⟩

theorem setFld (h : σ.OnCore s k p) {a : Nat} (ha : p a) (hi lo v : Nat) : σ.OnCore (s.setFld a hi lo v) k p :=
  ⟨h.only.setFld a hi lo v, h.cores, h.regs.setFld ha hi lo v⟩

theorem raise (h : σ.OnCore s k p) (hp : p (rArith k)) (f : Fl) : σ.OnCore (s.raise k f) k p := .ite h (h.setFld hp _ _ _)

theorem trans {t : State} (h : σ.OnCore s k p) (g : s.OnCore t k p) : σ.OnCore t k p :=
  ⟨h.only.trans g.only, fun j hj => (g.cores j hj).trans (h.cores j hj), h.regs.trans g.regs⟩

theorem mono (h : σ.OnCore s k p) {q : Nat → Prop} (hpq : ∀ a, p a → q a) : σ.OnCore s k q :=
  ⟨h.only, h.cores, fun a ha => h.regs a fun hp => ha (hpq a hp)⟩

end State.OnCore

@[simp] theorem State.core_raise (s : State) (k : Nat) (f : Fl) (j : Nat) : (s.raise k f).core j = s.core j := by
  unfold State.raise
  split
  · rfl
  · exact State.core_setFld _ _ _ _ _ _

@[simp] theorem State.clock_raise (s : State) (k : Nat) (f : Fl) : (s.raise k f).clock = s.clock := by
  unfold State.raise
  split
  · rfl
  · exact State.setFld_clock _ _ _ _ _

theorem State.fld_raise_ne (s : State) {k a : Nat} (f : Fl) (hi lo : Nat) (h : a ≠ rArith k) : (s.raise k f).fld a hi lo = s.fld a hi lo := by
  unfold State.raise
  split
  · rfl
  · exact State.fld_setFld_other s _ _ _ _ _ h

/-- No error is met: the core is written back as it is. -/
theorem State.meetErrs_nil (s : State) (k : Nat) : s.meetErrs k [] = s.setCore k (s.core k) := rfl

end Sys2Proof.Machine
end

section
/-! Chapter 3 of the manual: steps, strolls and ramps of the outer-product arrays. -/

namespace Sys2Proof.Machine

/-! ### What a step enters behind (R86, R87): a FULL preload and a drain are settled first -/

/-- The elements that one effect of a preload takes from its queue (R85). -/
def Core.preloadElems (x : Core) (b : PreloadB) : List PWord :=
  if b.pmode = 0 then [] else elemsOf b.pt (preloadCount b) ((x.queue b.pq).front (preloadCount b * (widthOf b.pt / 8)))

/-- The core with those elements popped. -/
def Core.preloadPop (x : Core) (t : Nat) (b : PreloadB) : Core :=
  if b.pmode = 0 then x else x.setQueue b.pq ((x.queue b.pq).pop (preloadCount b * (widthOf b.pt / 8)) t)

/-- The set after one effect of a preload: ZERO, ROWB, COLB or a row. -/
def preloadVal (v : AccSet) (o : Op) (b : PreloadB) (es : List PWord) : AccSet :=
  match b.pmode with
  | 0 => v
  | 1 => (List.range (b.m + 1)).foldl (fun v i => v.putRow i es) v
  | 2 => (List.range (b.m + 1)).foldl (fun v i => v.putRow i (List.replicate (b.n + 1) (es.getD i (0, false)))) v
  | _ => v.putRow o.cnt es

/-- A preload with one effect more: complete, or further on. -/
def Core.preloadOn (x : Core) (o : Op) (b : PreloadB) : Core :=
  if b.pmode != 3 || decide (o.cnt = b.m + 1) then (x.leavePort o).finish o else x.setOp o

/-- A core after one effect of a preload at ECLK `t`. -/
def Core.preloadRow (x : Core) (t arr quad : Nat) (o : Op) (b : PreloadB) : Core :=
  ((x.preloadPop t b).updArr arr (fun a => a.putSet (setKey quad b.set)
    (preloadVal (if o.cnt = 0 then preloadBase b else ((x.preloadPop t b).arr arr).set (setKey quad b.set)) o b (x.preloadElems b)))).preloadOn
      { o with cnt := o.cnt + 1 } b

theorem State.preloadRow_eq (s : State) (k arr quad : Nat) (o : Op) (b : PreloadB) :
    s.preloadRow k arr quad o b =
      (s.setCore k ((s.core k).preloadRow s.clock.eclk arr quad o b)).raise k (nanIn (((s.core k).preloadElems b).map (·.1))) := rfl

namespace Core.SameModes

variable {c x : Core}

theorem preloadPop (h : c.SameModes x) (t : Nat) (b : PreloadB) : c.SameModes (x.preloadPop t b) := .ite h (h.setQueue _ _)

theorem preloadOn (h : c.SameModes x) (o : Op) (b : PreloadB) : c.SameModes (x.preloadOn o b) := .ite ((h.leavePort _).finish _) (h.setOp _)

theorem preloadRow (h : c.SameModes x) (t arr quad : Nat) (o : Op) (b : PreloadB) : c.SameModes (x.preloadRow t arr quad o b) :=
  ((h.preloadPop t b).putSet arr _ _).preloadOn _ b

end Core.SameModes

/-- A core after the rows that a preload has still to write. -/
def Core.preloadRest (t arr quad id : Nat) (b : PreloadB) : Nat → Core → Core
  | 0, x => x
  | n + 1, x =>
    match x.op id with
    | some o => Core.preloadRest t arr quad id b n (x.preloadRow t arr quad o b)
    | none => x

theorem Core.SameModes.preloadRest {c x : Core} (h : c.SameModes x) (t arr quad id : Nat) (b : PreloadB) (n : Nat) :
    c.SameModes (Core.preloadRest t arr quad id b n x) := by
  induction n generalizing x with
  | zero => exact h
  | succ n ih =>
    unfold Core.preloadRest
    split
    · exact ih (h.preloadRow t arr quad _ b)
    · exact h

/-- What a settling operation does: core `k` by `f`, at the same instant, and flags of the core. -/
structure State.SettlesTo (s t : State) (k : Nat) (c : Core) : Prop where
  core : t.core k = c
  clock : t.clock = s.clock
  on : s.OnCore t k (· = rArith k)

theorem State.SettlesTo.refl (s : State) (k : Nat) : s.SettlesTo s k (s.core k) := ⟨rfl, rfl, .refl s k _⟩

theorem State.SettlesTo.trans {s t u : State} {k : Nat} {c d : Core} (h : s.SettlesTo t k c) (g : t.SettlesTo u k d) : s.SettlesTo u k d :=
  ⟨g.core, g.clock.trans h.clock, h.on.trans g.on⟩

theorem State.preloadRow_settlesTo (s : State) (k arr quad : Nat) (o : Op) (b : PreloadB) :
    s.SettlesTo (s.preloadRow k arr quad o b) k ((s.core k).preloadRow s.clock.eclk arr quad o b) := by
  rw [State.preloadRow_eq]
  exact ⟨by rw [State.core_raise, State.core_setCore_self], by rw [State.clock_raise]; rfl, ((OnCore.refl s k (· = rArith k)).setCore _).raise rfl _⟩

theorem State.preloadRest_settlesTo (k arr quad id : Nat) (b : PreloadB) (n : Nat) (s : State) :
    s.SettlesTo (State.preloadRest k arr quad id b n s) k (Core.preloadRest s.clock.eclk arr quad id b n (s.core k)) := by
  induction n generalizing s with
  | zero => exact .refl s k
  | succ n ih =>
    unfold State.preloadRest Core.preloadRest
    rcases (s.core k).op id with _ | o
    · exact .refl s k
    · have hrow := s.preloadRow_settlesTo k arr quad o b
      have hrest := ih (s.preloadRow k arr quad o b)
      rw [hrow.core, hrow.clock] at hrest
      exact hrow.trans hrest

/-- A core on which a step has entered behind drain `x`: the drain reads on from what the set held, and a drain that clears has cleared (R87). -/
def Core.drainSettled (c : Core) (x : Op) (b : DrainB) : Core :=
  let v := (c.arr b.arr).set (setKey b.quad b.set)
  let d := c.setOp { x with snap := some v }
  if b.clr then d.updArr b.arr (fun a => a.putSet (setKey b.quad b.set) (v.cleared x.region.1)) else d

/-- A core on which a step enters behind operation `x`. -/
def Core.settleOp (t : Nat) (c : Core) (x : Op) : Core :=
  match x.ins with
  | .preload _ b => Core.preloadRest t b.arr b.quad x.id b (preloadLeft x b).1 c
  | .drain _ b => if x.snap.isSome then c else c.drainSettled x b
  | _ => c

theorem Core.SameModes.settleOp {c x : Core} (h : c.SameModes x) (t : Nat) (o : Op) : c.SameModes (Core.settleOp t x o) := by
  unfold Core.settleOp
  split
  · exact h.preloadRest ..
  · exact .ite h (.ite ((h.setOp _).putSet _ _ _) (h.setOp _))
  · exact h

/-- The operations on a step's set that have not finished with it. -/
def Core.behind (c : Core) (o : Op) : List Op := c.ops.filter (fun x => decide (x.id < o.id) && setOf x.ins == setOf o.ins && !x.setDone)

/-- A step enters behind operation `x` on core `k` (R86, R87). -/
def State.settleOp (k : Nat) (s : State) (x : Op) : State :=
  match x.ins with
  | .preload _ b => State.preloadRest k b.arr b.quad x.id b (preloadLeft x b).1 s
  | .drain _ b => if x.snap.isSome then s else s.updCore k (fun c => c.drainSettled x b)
  | _ => s

theorem State.settleSet_eq (s : State) (k : Nat) (o : Op) : s.settleSet k o = ((s.core k).behind o).foldl (State.settleOp k) s := rfl

theorem State.settleOp_settlesTo (s : State) (k : Nat) (x : Op) : s.SettlesTo (State.settleOp k s x) k (Core.settleOp s.clock.eclk (s.core k) x) := by
  unfold State.settleOp Core.settleOp
  split
  · exact State.preloadRest_settlesTo ..
  · split
    · exact .refl s k
    · exact ⟨State.core_updCore_self _ _ _, rfl, (OnCore.refl s k _).setCore _⟩
  · exact .refl s k

theorem State.settleOps_settlesTo (s : State) (k : Nat) (l : List Op) :
    s.SettlesTo (l.foldl (State.settleOp k) s) k (l.foldl (Core.settleOp s.clock.eclk) (s.core k)) := by
  induction l generalizing s with
  | nil => exact .refl s k
  | cons x r ih =>
    have hx := s.settleOp_settlesTo k x
    have hr := ih (State.settleOp k s x)
    rw [hx.core, hx.clock] at hr
    exact hx.trans hr

/-- The core that a step enters, with what it enters behind settled. -/
def Core.settleSet (t : Nat) (c : Core) (o : Op) : Core := (c.behind o).foldl (Core.settleOp t) c

theorem State.settleSet_settlesTo (s : State) (k : Nat) (o : Op) : s.SettlesTo (s.settleSet k o) k ((s.core k).settleSet s.clock.eclk o) := by
  rw [State.settleSet_eq]
  exact s.settleOps_settlesTo k _

theorem Core.settleSet_sameModes (t : Nat) (c : Core) (o : Op) : c.SameModes (c.settleSet t o) := by
  have hl : ∀ (l : List Op) (x : Core), c.SameModes x → c.SameModes (l.foldl (Core.settleOp t) x) := by
    intro l
    induction l with
    | nil => exact fun _ h => h
    | cons o r ih => exact fun x h => ih _ (h.settleOp t o)
  exact hl _ c (.refl c)

/-- With no earlier operation left on the set, there is nothing to settle (R83). -/
theorem Core.settleSet_of_setTurn {c : Core} {o : Op} (t : Nat) (h : c.setTurn o = true) : c.settleSet t o = c := by
  have hb : c.behind o = [] := List.filter_eq_nil_iff.2 fun x hx hx' => by
    have hall := List.all_eq_true.1 h x hx
    rw [hx'] at hall
    cases hall
  rw [Core.settleSet, hb]
  rfl

/-! ### The step (R62, R65, R75 to R77, R90, R94, R205) -/

theorem memberPulls_of_ops {o : Op} {cf : Cf} {b : OpsB} {r : Nat} (hi : o.ins = .ops cf b) (hr : rankOf b.ta b.tb = some r) :
    memberPulls o = stepPulls b r o.cnt := by
  simp only [memberPulls, hi, hr]

/-- Queues popped once each: a queue of the list loses its bytes, another keeps them. -/
theorem Core.queue_foldl_pop (f : Nat → Nat) (t q : Nat) {l : List Nat} (hl : l.Nodup) (c : Core) :
    ((l.foldl (fun c q => c.setQueue q ((c.queue q).pop (f q) t)) c).queue q).bytes =
      if q ∈ l then ((c.queue q).bytes).drop (f q) else (c.queue q).bytes := by
  induction l generalizing c with
  | nil => rfl
  | cons r l ih =>
    obtain ⟨hr, hl⟩ := List.nodup_cons.1 hl
    rw [List.foldl_cons, ih hl]
    by_cases hq : q = r
    · subst hq
      rw [if_neg hr, if_pos (List.mem_cons_self ..), Core.queue_setQueue_self]
      rfl
    · rw [Core.queue_setQueue_ne _ _ hq]
      simp only [List.mem_cons, hq, false_or]

theorem pullBytes_of_notMem {l : List (Nat × Nat)} {q : Nat} (h : q ∉ l.map (·.1)) : pullBytes l q = 0 := by
  have hl : l.filter (fun p => p.1 == q) = [] := List.filter_eq_nil_iff.2 fun p hp => by
    simp only [beq_iff_eq]
    rintro rfl
    exact h (List.mem_map_of_mem hp)
  rw [pullBytes, hl]
  rfl

/-- A single member pops what it pulls (R205). -/
theorem Core.queue_popShared (c : Core) (o : Op) (t q : Nat) :
    ((c.popShared [o] t).queue q).bytes = ((c.queue q).bytes).drop (pullBytes (memberPulls o) q) := by
  have hmax : ∀ n, maxOf [n] = n := fun n => Nat.zero_max n
  unfold Core.popShared
  simp only [List.flatMap_singleton, List.map_singleton, hmax]
  rw [Core.queue_foldl_pop _ t q (List.nodup_dedup _)]
  split
  · rfl
  · rw [pullBytes_of_notMem (fun hm => ‹¬ _› (List.mem_dedup.2 hm)), List.drop_zero]

theorem Core.popShared_eq (c : Core) (l : List Op) (t : Nat) : c.popShared l t = { c with queues := (c.popShared l t).queues } := by
  unfold Core.popShared
  generalize (l.flatMap fun o => (memberPulls o).map (·.1)).dedup = qs
  simp only
  induction qs generalizing c with
  | nil => rfl
  | cons q r ih =>
    rw [List.foldl_cons, ih]
    rfl

theorem length_stepLanes (c : Core) (o : Op) (b : OpsB) (r : Nat) :
    (stepLanes c o b r).1.length = b.m + 1 ∧ (stepLanes c o b r).2.1.length = b.n + 1 := by
  constructor
  · unfold stepLanes
    simp only
    split <;> simp [queueLanes, columnPort]
  · unfold stepLanes
    simp only
    split <;> simp [queueLanes, rowPort]

theorem stepLanes_id (c : Core) (o : Op) (b : OpsB) (r : Nat) : (stepLanes c o b r).2.2.id = o.id ∧ (stepLanes c o b r).2.2.cnt = o.cnt := by
  unfold stepLanes
  simp only
  split <;> split <;> exact ⟨rfl, rfl⟩

/-- The ramp of an array that takes a step leaves its sets, its mode and when its quadrants are free, and notes the step. -/
theorem Arr.stepRamp_eq (a : Arr) (t : Nat) : ∃ r st, a.stepRamp t = { a with ramp := r, lastStep := t, stageAt := st, gap := 0 } := by
  unfold Arr.stepRamp
  split <;> exact ⟨_, _, rfl⟩

/-- An array after a step of `b` with the set `v` at ECLK `t` (R75, R77, R119). -/
def Arr.stepOnce (a : Arr) (t : Nat) (b : OpsB) (v : AccSet) : Arr :=
  { (a.putSet (setKey b.quad b.set) v).stepRamp t with nextAt := Tab.put a.nextAt b.quad (t + stepTime b) }

/-- The set that a step of `b` leaves, of the operands that core `c0` holds, and the flags it raises. -/
def Arr.stepSet (a : Arr) (c0 : Core) (o : Op) (b : OpsB) (r : Nat) : AccSet × Fl :=
  (a.set (setKey b.quad b.set)).step (stepLanes c0 o b r).1 (stepLanes c0 o b r).2.1 (realK b r o.cnt)

/-- An OPS with one step more: further on, or complete with its last (R75, R205). -/
def Core.opsOn (c : Core) (o : Op) (b : OpsB) : Core := if o.cnt = b.steps then ((c.setOp o).leavePort o).finish o else c.setOp o

/-- A core after one step of `b` at ECLK `t`. -/
def Core.stepOnce (c c0 : Core) (t : Nat) (o : Op) (b : OpsB) (r : Nat) : Core :=
  (({ c with portUse := (spreadPorts b).foldl (fun u p => Tab.put u p (t, b.arr)) c.portUse } : Core).setArr b.arr
    ((c.arr b.arr).stepOnce t b ((c.arr b.arr).stepSet c0 o b r).1)).opsOn { (stepLanes c0 o b r).2.2 with cnt := o.cnt + 1 } b

theorem Arr.stepOnce_qm (t : Nat) (b : OpsB) (a : Arr) (v : AccSet) : (a.stepOnce t b v).qm = a.qm := by
  obtain ⟨x, st, h⟩ := (a.putSet (setKey b.quad b.set) v).stepRamp_eq t
  rw [Arr.stepOnce, h]
  rfl

theorem State.stepOne_of_ops (s : State) (k : Nat) {o : Op} (c0 : Core) {cf : Cf} {b : OpsB} {r : Nat} (hi : o.ins = .ops cf b)
    (hr : rankOf b.ta b.tb = some r) :
    s.stepOne k o c0 = ((s.setCore k ((s.core k).stepOnce c0 s.clock.eclk o b r)).raise k (((s.core k).arr b.arr).stepSet c0 o b r).2).addFld
      (rAstep k b.arr) 63 0 (if ((s.core k).arr b.arr).qm then 1 else 4) := by
  rw [← Arr.stepOnce_qm s.clock.eclk b ((s.core k).arr b.arr) (((s.core k).arr b.arr).stepSet c0 o b r).1]
  simp only [State.stepOne, hi, hr]
  rfl

section

variable (c c0 : Core) (t : Nat) (o : Op) (b : OpsB) (r : Nat)

theorem Arr.stepOnce_set (a : Arr) (v : AccSet) : (a.stepOnce t b v).set (setKey b.quad b.set) = v := by
  obtain ⟨x, st, h⟩ := (a.putSet (setKey b.quad b.set) v).stepRamp_eq t
  rw [Arr.stepOnce, h]
  exact a.set_putSet_self _ v

theorem Arr.stepOnce_times (a : Arr) (v : AccSet) :
    Tab.get (a.stepOnce t b v).nextAt 0 b.quad = t + stepTime b ∧ (a.stepOnce t b v).lastStep = t := by
  obtain ⟨x, st, h⟩ := (a.putSet (setKey b.quad b.set) v).stepRamp_eq t
  rw [Arr.stepOnce, h]
  exact ⟨Tab.get_put_self _ _ _ _, rfl⟩

theorem Core.arr_opsOn (n : Nat) : ∃ l, (c.opsOn o b).arr n = { c.arr n with ports := l } := by
  unfold Core.opsOn
  split
  · exact ((c.setOp o).leavePort_eq o).2 n
  · exact ⟨(c.arr n).ports, rfl⟩

theorem Core.queue_opsOn (q : Nat) : (c.opsOn o b).queue q = c.queue q := by
  unfold Core.opsOn
  split
  · exact Core.queue_leavePort (c.setOp o) o q
  · rfl

/-- The last step completes the OPS (R205). -/
theorem Core.ops_opsOn (h : o.cnt = b.steps) : (c.opsOn o b).ops = c.ops.filter (fun x => x.id != o.id) := by
  rw [Core.opsOn, if_pos h]
  exact (congrArg _ (Core.ops_leavePort (c.setOp o) o)).trans (c.filter_ops_setOp o)

/-- The array that a step has entered. -/
theorem Core.arr_stepOnce :
    ∃ l, (c.stepOnce c0 t o b r).arr b.arr = { (c.arr b.arr).stepOnce t b ((c.arr b.arr).stepSet c0 o b r).1 with ports := l } := by
  obtain ⟨l, h⟩ := Core.arr_opsOn (({ c with portUse := (spreadPorts b).foldl (fun u p => Tab.put u p (t, b.arr)) c.portUse } : Core).setArr b.arr
    ((c.arr b.arr).stepOnce t b ((c.arr b.arr).stepSet c0 o b r).1)) { (stepLanes c0 o b r).2.2 with cnt := o.cnt + 1 } b b.arr
  rw [Core.arr_setArr_self] at h
  exact ⟨l, h⟩

theorem Core.queue_stepOnce (q : Nat) : (c.stepOnce c0 t o b r).queue q = c.queue q := Core.queue_opsOn _ _ _ _

theorem Core.ops_stepOnce (h : o.cnt + 1 = b.steps) : (c.stepOnce c0 t o b r).ops = c.ops.filter (fun x => x.id != o.id) := by
  have hops := Core.ops_opsOn (({ c with portUse := (spreadPorts b).foldl (fun u p => Tab.put u p (t, b.arr)) c.portUse } : Core).setArr b.arr
    ((c.arr b.arr).stepOnce t b ((c.arr b.arr).stepSet c0 o b r).1)) { (stepLanes c0 o b r).2.2 with cnt := o.cnt + 1 } b h
  rw [Core.stepOnce, hops]
  simp only [(stepLanes_id c0 o b r).1]
  rfl

end

/-! #### The command -/

theorem exec_arrayStepEntry_eq (c n u : Nat) (s : State) : exec (.arrayStepEntry c n u [] [] []) s = execArrayStepEntry c n u [] [] [] s := rfl

/-- The core as the step finds it: what it enters behind is settled. -/
def State.entered (s : State) (k : Nat) (o : Op) : State := (s.setCore k (s.core k)).settleSet k o

/-- The step has entered: its queues are popped, and it is made of the operands that the core held. -/
def State.afterStep (s : State) (k : Nat) (o : Op) : State :=
  let v := s.entered k o
  (v.setCore k ((v.core k).popShared [o] v.clock.eclk)).stepOne k o (v.core k)

theorem State.entered_settlesTo (s : State) (k : Nat) (o : Op) : s.SettlesTo (s.entered k o) k ((s.settleSet k o).core k) := by
  have h := (s.setCore k (s.core k)).settleSet_settlesTo k o
  rw [State.core_setCore_self] at h
  rw [(s.settleSet_settlesTo k o).core]
  exact ⟨h.core, h.clock, ((OnCore.refl s k _).setCore _).trans h.on⟩

theorem exec_arrayStepEntry_of_alone {s : State} {c k n u : Nat} {o : Op} {cf : Cf} {b : OpsB} (hwf : Instr.wf (.arrayStepEntry c n u [] [] []) = true)
    (hk : s.phys c = some k) (ho : (s.core k).inPort n u 0 = some o) (hi : o.ins = .ops cf b) (hm : (s.core k).members o = [o]) :
    exec (.arrayStepEntry c n u [] [] []) s =
      .next (if (s.core k).stepReady s.clock.eclk o = true then s.afterStep k o else s.setCore k (s.core k)) := by
  rw [exec_arrayStepEntry_eq, execArrayStepEntry, guardWf_of_wf hwf]
  simp only [hk, State.meetErrs_nil, State.core_setCore_self, ho, hm, List.all_cons, List.all_nil, Bool.and_true, List.foldl_cons, List.foldl_nil,
    State.spreadErrs, State.parity, hi, ite_self]
  rfl

theorem rAstep_ne_rArith (k n : Nat) : rAstep k n ≠ rArith k := by
  unfold rAstep rArith
  omega

/-- What a step does, of the core `y` that it enters. -/
theorem State.afterStep_of_ops {s : State} {k : Nat} {o : Op} {cf : Cf} {b : OpsB} {r : Nat} (hi : o.ins = .ops cf b)
    (hr : rankOf b.ta b.tb = some r) :
    let y := (s.settleSet k o).core k
    let t := s.afterStep k o
    t.core k = (y.popShared [o] s.clock.eclk).stepOnce y s.clock.eclk o b r ∧
      t.fld (rAstep k b.arr) 63 0 = min (s.fld (rAstep k b.arr) 63 0 + (if ((s.core k).arr b.arr).qm then 1 else 4)) (2 ^ 64 - 1) ∧
      s.OnCore t k (fun a => a = rAstep k b.arr ∨ a = rArith k) := by
  intro y t
  have hv := s.entered_settlesTo k o
  have hpop : (y.popShared [o] s.clock.eclk).arr b.arr = y.arr b.arr := by
    rw [Core.popShared_eq]
    rfl
  have hmode : (y.arr b.arr).qm = ((s.core k).arr b.arr).qm := by
    have hy : y = (s.core k).settleSet s.clock.eclk o := (s.settleSet_settlesTo k o).core
    rw [hy]
    exact (Core.settleSet_sameModes _ _ _).qm _
  have ht : t = (((s.entered k o).setCore k ((y.popShared [o] s.clock.eclk).stepOnce y s.clock.eclk o b r)).raise k
      ((y.arr b.arr).stepSet y o b r).2).addFld (rAstep k b.arr) 63 0 (if ((s.core k).arr b.arr).qm then 1 else 4) := by
    simp only [t, State.afterStep]
    rw [State.stepOne_of_ops _ k _ hi hr, State.core_setCore_self, State.setCore_setCore, hv.core, State.setCore_clock, hv.clock, hpop, hmode]
  have hne := rAstep_ne_rArith k b.arr
  rw [ht]
  refine ⟨by rw [State.core_addFld, State.core_raise, State.core_setCore_self], ?_, ?_⟩
  · rw [State.fld_addFld_self _ _ _ _ _ (by omega) (by omega), State.fld_raise_ne _ _ _ _ hne, State.fld_setCore, hv.on.regs.fld hne]
  · exact (((hv.on.mono fun a => .inr).setCore _).raise (.inr rfl) _).setFld (.inl rfl) _ _ _

/-- The cells, the count and the region of the set that the step has entered (R62, R65, R75, R90, R94). -/
theorem Core.stepOnce_set (y : Core) (t : Nat) (o : Op) (b : OpsB) (r : Nat) (hn : b.n < 32) :
    let key := setKey b.quad b.set
    let v := (y.arr b.arr).set key
    let c := (y.popShared [o] t).stepOnce y t o b r
    let cell := fun (i j : Nat) => cellStep (v.cell i j) (v.bad i j) ((stepLanes y o b r).1.getD i []) ((stepLanes y o b r).2.1.getD j []) (realK b r o.cnt)
    (∀ i j, i ≤ b.m → j ≤ b.n → (((c.arr b.arr).set key).cell i j, ((c.arr b.arr).set key).bad i j) = ((cell i j).1, (cell i j).2.1)) ∧
      ((c.arr b.arr).set key).kc = min (2 ^ 24) (v.kc + 1) ∧ ((c.arr b.arr).set key).region = some (b.m + 1, b.n + 1) := by
  intro key v c cell
  obtain ⟨hw, hz⟩ := length_stepLanes y o b r
  have hpop : (y.popShared [o] t).arr b.arr = y.arr b.arr := by
    rw [Core.popShared_eq]
    rfl
  have hset : (c.arr b.arr).set key = (v.step (stepLanes y o b r).1 (stepLanes y o b r).2.1 (realK b r o.cnt)).1 := by
    obtain ⟨l, hl⟩ := Core.arr_stepOnce (y.popShared [o] t) y t o b r
    rw [hl, hpop]
    exact Arr.stepOnce_set t b (y.arr b.arr) _
  rw [hset]
  exact ⟨fun i j hi hj => AccSet.step_at v _ (by omega) (by omega) (by omega), AccSet.step_kc .., by rw [AccSet.step_region, hw, hz]⟩

/-! ### Strolls and ramps (R117 to R121) -/

theorem exec_strollGapExpiry_eq (c n : Nat) (s : State) : exec (.strollGapExpiry c n) s = execStrollGapExpiry c n s := rfl

theorem exec_rampStage_eq (c n : Nat) (s : State) : exec (.rampStage c n) s = execRampStage c n s := rfl

theorem Arr.stepping_iff (a : Arr) (t : Nat) : a.stepping t = true ↔ (∃ q < 4, a.port q 0 ≠ []) ∨ ∃ e ∈ a.nextAt, t < e.2 := by
  simp [Arr.stepping, List.any_eq_true]

/-- The array strolls: it runs at full rate or ramps up (R117). -/
def Ramp.strolls : Ramp → Bool
  | .full => true
  | .up _ => true
  | _ => false

/-- The stage that follows once a stage has lasted its 32 ECLK (R118, R119). -/
def Ramp.next : Ramp → Ramp
  | .down 0 => .idle
  | .down (m + 1) => .down m
  | .up m => if 8 ≤ m then .full else .up (m + 1)
  | x => x

section

variable {s : State} {c k n : Nat} (hc : c < 128) (hn : n < 8) (hk : s.phys c = some k)

include hc hn hk

theorem exec_strollGapExpiry_of_phys :
    let a := (s.core k).arr n
    exec (.strollGapExpiry c n) s = .next (
      if a.ramp.strolls = true ∧ ¬ (a.stepping s.clock.eclk = true ∨ a.gap < a.gapLimit (s.fld (rStroll k) 6 0)) then
        s.setCore k ((s.core k).setArr n { a with ramp := .down 7, stageAt := s.clock.eclk, gap := 0 })
      else s) := by
  have hwf : Instr.wf (.strollGapExpiry c n) = true := by simp [Instr.wf, wfCore, hc, hn]
  intro a
  rw [exec_strollGapExpiry_eq, execStrollGapExpiry, guardWf_of_wf hwf]
  simp only [hk, a]
  generalize (s.core k).arr n = a
  cases hr : a.ramp with
  | rest => exact (congrArg _ (if_neg (by simp [Ramp.strolls]))).symm
  | idle => exact (congrArg _ (if_neg (by simp [Ramp.strolls]))).symm
  | down => exact (congrArg _ (if_neg (by simp [Ramp.strolls]))).symm
  | full =>
    simp only [Ramp.strolls, true_and, ite_not]
    rfl
  | up =>
    simp only [Ramp.strolls, true_and, ite_not]
    rfl

theorem exec_rampStage_of_phys :
    let a := (s.core k).arr n
    exec (.rampStage c n) s = .next (
      if a.ramp.next = a.ramp ∨ s.clock.eclk < a.stageAt + 32 then s
      else s.setCore k ((s.core k).setArr n { a with ramp := a.ramp.next, stageAt := a.stageAt + 32 })) := by
  have hwf : Instr.wf (.rampStage c n) = true := by simp [Instr.wf, wfCore, hc, hn]
  intro a
  rw [exec_rampStage_eq, execRampStage, guardWf_of_wf hwf]
  simp only [hk]
  rfl

end

/-! ### The obligation -/

/-- Settles O27: a step is made of the operands that the settled core holds, and the array alone keeps what it leaves; strolls and ramps move one stage at a time. -/
theorem arraysMove : Obligations.ArraysMove := by
  unfold Obligations.ArraysMove
  refine ⟨?_, ?_⟩
  · intro s c k n u r o cf b hwf hk x ho hi harr hquad _ hn hr hm y key v w z cell
    subst harr hquad
    have hy : y = x.settleSet s.clock.eclk o := (s.settleSet_settlesTo k o).core
    have hexec := exec_arrayStepEntry_of_alone hwf hk ho hi hm
    refine ⟨fun hturn => by rw [hy, Core.settleSet_of_setTurn _ hturn], fun hready => ?_, fun hready => by rw [hexec, if_neg (by rw [hready]; decide)]⟩
    rw [if_pos hready] at hexec
    obtain ⟨hcore, hcount, hon⟩ := State.afterStep_of_ops (s := s) (k := k) hi hr
    obtain ⟨hcell, hkc, hregion⟩ := Core.stepOnce_set y s.clock.eclk o b r hn
    obtain ⟨l, hl⟩ := Core.arr_stepOnce (y.popShared [o] s.clock.eclk) y s.clock.eclk o b r
    obtain ⟨hnext, hlast⟩ := Arr.stepOnce_times s.clock.eclk b ((y.popShared [o] s.clock.eclk).arr b.arr)
      (((y.popShared [o] s.clock.eclk).arr b.arr).stepSet y o b r).1
    have hops : (y.popShared [o] s.clock.eclk).ops = y.ops := by rw [Core.popShared_eq]
    refine ⟨s.afterStep k o, hexec, ?_⟩
    rw [hcore]
    refine ⟨hcell, hkc, hregion, fun q => ?_, by rw [hl]; exact hnext, by rw [hl]; exact hlast, fun hend => ?_, hcount, hon.cores, hon.regs, hon.only⟩
    · rw [Core.queue_stepOnce, Core.queue_popShared, memberPulls_of_ops hi hr]
    · rw [Core.ops_stepOnce _ _ _ _ _ _ hend, hops]
  · intro s c k n hc hn hk x a t goes due
    have hstroll := exec_strollGapExpiry_of_phys hc hn hk
    have hramp := exec_rampStage_of_phys hc hn hk
    have hstage : ∀ {r : Ramp}, a.ramp.next = r → r ≠ a.ramp → due → exec (.rampStage c n) s = goes r := by
      rintro r rfl hne hdue
      rw [hramp, if_neg (not_or.2 ⟨hne, Nat.not_lt.2 hdue⟩)]
    refine ⟨fun hr hstep hgap => ?_, fun h => ?_, fun hr => ?_, a.stepping_iff t, fun hgap => if_pos hgap, fun m hr => ?_, fun hr => ?_, fun m hr hm => ?_,
      fun m hr hm => ?_, fun h => ?_⟩
    · have hs : a.ramp.strolls = true := by rcases hr with hr | ⟨m, hr⟩ <;> rw [hr] <;> rfl
      rw [hstroll, if_pos ⟨hs, not_or.2 ⟨ne_true_of_eq_false hstep, Nat.not_lt.2 hgap⟩⟩]
    · rw [hstroll, if_neg fun hp => hp.2 h]
    · have hs : a.ramp.strolls = false := by rcases hr with hr | hr | ⟨m, hr⟩ <;> rw [hr] <;> rfl
      rw [hstroll, if_neg fun hp => ne_true_of_eq_false hs hp.1]
    · exact hstage (by rw [hr]; rfl) (by simp [hr])
    · exact hstage (by rw [hr]; rfl) (by simp [hr])
    · exact hstage (by rw [hr]; exact if_neg (by omega)) (by simp [hr])
    · exact hstage (by rw [hr]; exact if_pos hm) (by simp [hr])
    · have hstay : a.ramp.next = a.ramp ∨ t < a.stageAt + 32 := by
        rcases h with hr | hr | hr | hr
        · exact .inl (by rw [hr]; rfl)
        · exact .inl (by rw [hr]; rfl)
        · exact .inl (by rw [hr]; rfl)
        · exact .inr (Nat.lt_of_not_le hr)
      rw [hramp, if_pos hstay]

end Sys2Proof.Machine
end

section
/-! SUPPORT. Rows of an accumulator set: what a cell reads as after rows are written one after another. -/

namespace Sys2Proof.Machine

/-- Cells set one after another. -/
def AccSet.putCells (v : AccSet) (l : List (Nat × Nat × Word32 × Bool × Fl)) : AccSet :=
  l.foldl (fun (t : AccSet) e => t.putCell e.1 e.2.1 e.2.2.1 e.2.2.2.1) v

/-- The cells of a row of values. -/
def rowCells (i : Nat) (l : List PWord) : List (Nat × Nat × Word32 × Bool × Fl) := l.zipIdx.map fun e => (i, e.2, e.1.1, e.1.2, 0)

theorem mem_rowCells {i : Nat} {l : List PWord} {e : Nat × Nat × Word32 × Bool × Fl} :
    e ∈ rowCells i l ↔ ∃ j < l.length, e = (i, j, (l.getD j (0, false)).1, (l.getD j (0, false)).2, 0) := by
  constructor
  · intro he
    obtain ⟨⟨w, j⟩, hw, rfl⟩ := List.mem_map.1 he
    obtain ⟨hj, hv⟩ := List.mem_zipIdx' hw
    exact ⟨j, hj, by rw [List.getD_eq_getElem _ _ hj, ← hv]⟩
  · rintro ⟨j, hj, rfl⟩
    refine List.mem_map.2 ⟨(l[j], j), List.mk_mem_zipIdx_iff_getElem?.2 (List.getElem?_eq_getElem hj), ?_⟩
    rw [List.getD_eq_getElem _ _ hj]

theorem AccSet.putRow_eq (v : AccSet) (i : Nat) (l : List PWord) : v.putRow i l = v.putCells (rowCells i l) := by
  rw [AccSet.putCells, rowCells, List.foldl_map]
  rfl

theorem AccSet.putRows_eq (v : AccSet) (m : Nat) (f : Nat → List PWord) :
    (List.range m).foldl (fun v i => v.putRow i (f i)) v = v.putCells ((List.range m).flatMap fun i => rowCells i (f i)) := by
  rw [AccSet.putCells, List.foldl_flatMap]
  simp only [AccSet.putRow_eq, AccSet.putCells]

/-- Setting cells leaves the region, the count and what unlisted cells hold. -/
theorem AccSet.putCells_eq (v : AccSet) (l : List (Nat × Nat × Word32 × Bool × Fl)) :
    v.putCells l = { v with cells := (v.putCells l).cells, poison := (v.putCells l).poison } := by
  induction l generalizing v with
  | nil => rfl
  | cons e r ih => exact ih (v.putCell e.1 e.2.1 e.2.2.1 e.2.2.2.1)

theorem AccSet.at_putCells_of_notMem {l : List (Nat × Nat × Word32 × Bool × Fl)} {i j : Nat} (h : ∀ e ∈ l, 32 * i + j ≠ 32 * e.1 + e.2.1) (v : AccSet) :
    (v.putCells l).at i j = v.at i j := by
  induction l generalizing v with
  | nil => rfl
  | cons e r ih =>
    obtain ⟨he, hr⟩ := List.forall_mem_cons.1 h
    exact (ih hr _).trans (AccSet.at_putCell_ne v _ _ he)

/-- Rows written one after another: a cell of one of them has its row's value. -/
theorem AccSet.at_putRows (v : AccSet) {m : Nat} {f : Nat → List PWord} (hf : ∀ i, (f i).length ≤ 32) {i j : Nat} (hi : i < m) (hj : j < (f i).length) :
    ((List.range m).foldl (fun v i => v.putRow i (f i)) v).at i j = (f i).getD j (0, false) := by
  have hlen := hf i
  rw [AccSet.putRows_eq]
  refine AccSet.at_foldl_putCell (g := fun i j => (((f i).getD j (0, false)).1, ((f i).getD j (0, false)).2, 0)) (fun e he => ?_) (by omega) v (.inl ?_)
  · obtain ⟨i', -, he⟩ := List.mem_flatMap.1 he
    obtain ⟨j', hj', rfl⟩ := mem_rowCells.1 he
    exact ⟨Nat.lt_of_lt_of_le hj' (hf i'), rfl⟩
  · exact List.mem_flatMap.2 ⟨i, List.mem_range.2 hi, mem_rowCells.2 ⟨j, hj, rfl⟩⟩

theorem AccSet.at_putRow_self (v : AccSet) (i : Nat) {l : List PWord} (hl : l.length ≤ 32) {j : Nat} (hj : j < l.length) :
    (v.putRow i l).at i j = l.getD j (0, false) := by
  rw [AccSet.putRow_eq]
  refine AccSet.at_foldl_putCell (g := fun _ j => ((l.getD j (0, false)).1, (l.getD j (0, false)).2, 0)) (fun e he => ?_) (by omega) v
    (.inl (mem_rowCells.2 ⟨j, hj, rfl⟩))
  obtain ⟨j', hj', rfl⟩ := mem_rowCells.1 he
  exact ⟨Nat.lt_of_lt_of_le hj' hl, rfl⟩

theorem AccSet.at_putRow_ne (v : AccSet) {i i' : Nat} {l : List PWord} (hl : l.length ≤ 32) {j : Nat} (hj : j < 32) (h : i' ≠ i) :
    (v.putRow i l).at i' j = v.at i' j := by
  rw [AccSet.putRow_eq]
  refine AccSet.at_putCells_of_notMem (fun e he => ?_) v
  obtain ⟨j', hj', rfl⟩ := mem_rowCells.1 he
  simp only
  omega

/-- A cleared row is a row of +0 without poison (R87, R90). -/
theorem AccSet.clearRow_eq_putRow (v : AccSet) (i : Nat) : v.clearRow i = v.putRow i (List.replicate 32 (0, false)) := rfl

theorem AccSet.at_clearRow (v : AccSet) (i : Nat) {j : Nat} (hj : j < 32) : (v.clearRow i).at i j = (0, false) := by
  have hl : (List.replicate 32 ((0, false) : PWord)).length = 32 := List.length_replicate
  rw [AccSet.clearRow_eq_putRow, AccSet.at_putRow_self v i (Nat.le_of_eq hl) (by rwa [hl]), List.getD_replicate _ hj]

end Sys2Proof.Machine
end

section
/-! Chapter 3 of the manual: the mode of an array changes, and preloads write its sets. -/

namespace Sys2Proof.Machine

/-! ### MODE_CHANGE (R91 to R93, R201) -/

theorem exec_modeChange_eq (c n : Nat) (s : State) : exec (.modeChange c n) s = execModeChange c n s := rfl

/-- An array in the mode and the pair types of `b`, every set of it undefined under `tag` (R91 to R93). -/
def Arr.inMode (a : Arr) (b : AmodeB) (tag : Nat) : Arr :=
  { a with qm := b.qm, ta := b.ta, tb := b.tb, sets := [], named := [], amode := none, undef := some tag }

/-- A set of an array that has changed its mode is undefined, without poison, its count 0 (R93). -/
theorem Arr.set_inMode (a : Arr) (b : AmodeB) (tag key : Nat) : (a.inMode b tag).set key = { AccSet.reset with undef := some tag } := rfl

theorem exec_modeChange_of_amode {s : State} {c k n : Nat} {o : Op} {cf : Cf} {b : AmodeB} (hc : c < 128) (hn : n < 8) (hk : s.phys c = some k)
    (ho : ((s.core k).arr n).amode.bind (s.core k).op = some o) (hi : o.ins = .amode cf b) :
    exec (.modeChange c n) s = .next (
      if ((s.core k).ops.all (fun y => !((setOf y.ins).map (·.1) == some n))) = true then
        { s with free := s.free + 1 }.setCore k (((s.core k).setArr n (((s.core k).arr n).inMode b s.free)).finish o)
      else s) := by
  have hwf : Instr.wf (.modeChange c n) = true := by simp [Instr.wf, wfCore, hc, hn]
  rw [exec_modeChange_eq, execModeChange, guardWf_of_wf hwf]
  simp only [hk, ho, hi]
  rfl

/-! ### PRELOAD_ROW_WRITE (R73, R85, R86, R90, R202) -/

theorem exec_preloadRowWrite_eq (c n u : Nat) (s : State) : exec (.preloadRowWrite c n u []) s = execPreloadRowWrite c n u [] s := rfl

/-- The whole vector or row that a preload's next effect takes is there, and it is its turn to pop it. -/
def Core.preloadReady (x : Core) (o : Op) (b : PreloadB) : Prop :=
  b.pmode ≠ 0 → x.popTurn o b.pq = true ∧ preloadCount b * (widthOf b.pt / 8) ≤ (x.queue b.pq).bytes.length

section

variable {s : State} {c k n u : Nat} {o : Op} {cf : Cf} {b : PreloadB} (hwf : Instr.wf (.preloadRowWrite c n u []) = true) (hk : s.phys c = some k)
  (ho : (s.core k).inPort n u 1 = some o) (hi : o.ins = .preload cf b) (ht : (s.core k).setTurn o = true)

include hwf hk ho hi ht

theorem exec_preloadRowWrite_of_ready (h : (s.core k).preloadReady o b) :
    exec (.preloadRowWrite c n u []) s =
      .next ((s.setCore k ((s.core k).preloadRow s.clock.eclk n u o b)).raise k (nanIn (((s.core k).preloadElems b).map (·.1)))) := by
  have hgo : (!(s.core k).setTurn o || (b.pmode != 0 && (!(s.core k).popTurn o b.pq ||
      decide (((s.core k).queue b.pq).bytes.length < preloadCount b * (widthOf b.pt / 8))))) = false := by
    by_cases hm : b.pmode = 0
    · simp [ht, hm]
    · obtain ⟨hpop, hlen⟩ := h hm
      simp [ht, hpop, hlen]
  rw [exec_preloadRowWrite_eq, execPreloadRowWrite, guardWf_of_wf hwf]
  simp only [hk, State.meetErrs_nil, State.core_setCore_self, ho, hi, hgo, State.preloadRow_eq, State.setCore_setCore]
  rfl

theorem exec_preloadRowWrite_of_short (hm : b.pmode ≠ 0) (h : ((s.core k).queue b.pq).bytes.length < preloadCount b * (widthOf b.pt / 8)) :
    exec (.preloadRowWrite c n u []) s = .next (s.setCore k (s.core k)) := by
  rw [exec_preloadRowWrite_eq, execPreloadRowWrite, guardWf_of_wf hwf]
  simp [hk, State.meetErrs_nil, ho, hi, ht, hm, h]

end

theorem preloadCount_of_ne_zero {b : PreloadB} (h : b.pmode ≠ 0) : preloadCount b = if b.pmode = 2 then b.m + 1 else b.n + 1 := by
  unfold preloadCount
  split
  · exact absurd ‹_› h
  · rw [if_pos ‹_›]
  · rw [if_neg ‹_›]

theorem Core.preloadElems_of_ne_zero (x : Core) {b : PreloadB} (h : b.pmode ≠ 0) :
    x.preloadElems b = elemsOf b.pt (preloadCount b) ((x.queue b.pq).front (preloadCount b * (widthOf b.pt / 8))) := if_neg h

section

variable (x : Core) (t n u : Nat) (o : Op) (b : PreloadB)

/-- Popping a preload's elements leaves the arrays. -/
theorem Core.arr_preloadPop (m : Nat) : (x.preloadPop t b).arr m = x.arr m := by
  unfold Core.preloadPop
  split <;> rfl

theorem Core.ops_preloadPop : (x.preloadPop t b).ops = x.ops := by
  unfold Core.preloadPop
  split <;> rfl

theorem Core.arr_preloadOn (m : Nat) : ∃ l, (x.preloadOn o b).arr m = { x.arr m with ports := l } := by
  unfold Core.preloadOn
  split
  · exact (x.leavePort_eq o).2 m
  · exact ⟨(x.arr m).ports, rfl⟩

theorem Core.queues_preloadOn : (x.preloadOn o b).queues = x.queues := by
  unfold Core.preloadOn
  split
  · change (x.leavePort o).queues = x.queues
    rw [(x.leavePort_eq o).1]
  · rfl

/-- A preload's last row completes it. -/
theorem Core.ops_preloadOn (h : b.pmode ≠ 3 ∨ o.cnt = b.m + 1) : (x.preloadOn o b).ops = x.ops.filter (fun e => e.id != o.id) := by
  have hlast : (b.pmode != 3 || decide (o.cnt = b.m + 1)) = true := by simpa using h
  rw [Core.preloadOn, if_pos hlast]
  exact congrArg _ (x.ops_leavePort o)

/-- The set that one effect of a preload leaves. -/
theorem Core.set_preloadRow : ((x.preloadRow t n u o b).arr n).set (setKey u b.set) =
    preloadVal (if o.cnt = 0 then preloadBase b else (x.arr n).set (setKey u b.set)) o b (x.preloadElems b) := by
  rw [Core.preloadRow]
  obtain ⟨l, hl⟩ := Core.arr_preloadOn ((x.preloadPop t b).updArr n (fun a => a.putSet (setKey u b.set)
    (preloadVal (if o.cnt = 0 then preloadBase b else ((x.preloadPop t b).arr n).set (setKey u b.set)) o b (x.preloadElems b))))
    { o with cnt := o.cnt + 1 } b n
  rw [hl, Core.updArr, Core.arr_setArr_self, Core.arr_preloadPop]
  exact Arr.set_putSet_self _ _ _

theorem Core.queues_preloadRow : (x.preloadRow t n u o b).queues = (x.preloadPop t b).queues := Core.queues_preloadOn _ _ _

theorem Core.bytes_preloadRow (h : b.pmode ≠ 0) :
    ((x.preloadRow t n u o b).queue b.pq).bytes = (x.queue b.pq).bytes.drop (preloadCount b * (widthOf b.pt / 8)) := by
  rw [Core.queue, Core.queues_preloadRow, ← Core.queue, Core.preloadPop, if_neg h, Core.queue_setQueue_self]
  rfl

theorem Core.ops_preloadRow (h : b.pmode ≠ 3 ∨ o.cnt = b.m) : (x.preloadRow t n u o b).ops = x.ops.filter (fun e => e.id != o.id) := by
  rw [Core.preloadRow, Core.ops_preloadOn _ _ _ (h.imp_right (congrArg (· + 1)))]
  exact congrArg _ (x.ops_preloadPop t b)

end

/-! #### What the modes write (R85, R86) -/

section

variable {b : PreloadB} {es : List PWord} {i j : Nat} (v : AccSet) (o : Op)

/-- Writing a preload's rows leaves the region and the count that stand. -/
theorem preloadVal_kc_region : (preloadVal v o b es).kc = v.kc ∧ (preloadVal v o b es).region = v.region := by
  have hput : ∀ l : List (Nat × Nat × Word32 × Bool × Fl), (v.putCells l).kc = v.kc ∧ (v.putCells l).region = v.region := fun l => by
    rw [AccSet.putCells_eq]
    exact ⟨rfl, rfl⟩
  unfold preloadVal
  split
  · exact ⟨rfl, rfl⟩
  · rw [AccSet.putRows_eq v (b.m + 1) fun _ => es]
    exact hput _
  · rw [AccSet.putRows_eq]
    exact hput _
  · rw [AccSet.putRow_eq]
    exact hput _

theorem at_preloadVal_of_rowb (h : b.pmode = 1) (hes : es.length = b.n + 1) (hn : b.n < 32) (hi : i ≤ b.m) (hj : j ≤ b.n) :
    (preloadVal v o b es).at i j = es.getD j (0, false) := by
  rw [preloadVal, h]
  exact v.at_putRows (f := fun _ => es) (fun _ => hes.trans_le hn) (Nat.lt_succ_of_le hi) (Nat.lt_of_lt_of_eq (Nat.lt_succ_of_le hj) hes.symm)

theorem at_preloadVal_of_colb (h : b.pmode = 2) (hn : b.n < 32) (hi : i ≤ b.m) (hj : j ≤ b.n) :
    (preloadVal v o b es).at i j = es.getD i (0, false) := by
  have hlen : ∀ i, (List.replicate (b.n + 1) (es.getD i (0, false))).length = b.n + 1 := fun _ => List.length_replicate
  rw [preloadVal, h]
  exact (v.at_putRows (fun i => (hlen i).trans_le hn) (Nat.lt_succ_of_le hi) (Nat.lt_of_lt_of_eq (Nat.lt_succ_of_le hj) (hlen i).symm)).trans
    (List.getD_replicate _ (Nat.lt_succ_of_le hj))

theorem preloadVal_of_full (h : b.pmode = 3) : preloadVal v o b es = v.putRow o.cnt es := by simp only [preloadVal, h]

end

/-! ### The obligation -/

/-- Settles O26: the array takes the waiting mode under a fresh tag; a preload's set is written row by row, and its queue popped by the whole vector or row. -/
theorem arrayModes : Obligations.ArrayModes := by
  unfold Obligations.ArrayModes
  refine ⟨?_, ?_⟩
  · intro s c k n o cf b hc hn hk x ho hi
    have hexec := exec_modeChange_of_amode hc hn hk ho hi
    refine ⟨fun hfree => ⟨(x.setArr n ((x.arr n).inMode b s.free)).finish o, ?_⟩, fun ⟨y, hy, hset⟩ => ?_⟩
    · have harr : ((x.setArr n ((x.arr n).inMode b s.free)).finish o).arr n = (x.arr n).inMode b s.free := Core.arr_setArr_self _ _ _
      rw [harr]
      refine ⟨?_, rfl, rfl, rfl, rfl, fun key i j => ?_, fun m hm => Core.arr_setArr_ne _ _ hm, rfl, rfl⟩
      · rw [hexec, if_pos (by simpa using hfree)]
      · rw [Arr.set_inMode]
        exact ⟨rfl, rfl, rfl⟩
    · rw [hexec, if_neg]
      intro hall
      simpa [hset] using List.all_eq_true.1 hall y hy
  · intro s c k n u o cf b hwf hk x ho hi _ hn ht cnt len es key v runs
    let y := x.preloadRow s.clock.eclk n u o b
    have hready := exec_preloadRowWrite_of_ready hwf hk ho hi ht
    have hset := x.set_preloadRow s.clock.eclk n u o b
    have hops := x.ops_preloadRow s.clock.eclk n u o b
    have hcnt : b.pmode ≠ 0 → preloadCount b = cnt := preloadCount_of_ne_zero
    have hes : b.pmode ≠ 0 → x.preloadElems b = es := fun h => by rw [x.preloadElems_of_ne_zero h, hcnt h]
    have hlen : b.pmode ≠ 2 → es.length = b.n + 1 := fun h => (length_elemsOf _ _ _).trans (if_neg h)
    have hruns : b.pmode ≠ 0 → x.popTurn o b.pq = true → len ≤ (x.queue b.pq).bytes.length → runs y := fun h hp hq => by
      simp only [runs]
      rw [hready fun _ => ⟨hp, by rwa [hcnt h]⟩, hes h]
    have hbytes : b.pmode ≠ 0 → (y.queue b.pq).bytes = (x.queue b.pq).bytes.drop len := fun h => by rw [x.bytes_preloadRow _ _ _ _ _ h, hcnt h]
    refine ⟨fun hzero hc => ⟨y, ?_, ?_, hops (.inl (by omega)), ?_⟩, fun hrowb hc hp hq => ⟨y, hruns (by omega) hp hq, ?_⟩,
      fun hcolb hc hp hq => ⟨y, hruns (by omega) hp hq, ?_⟩, fun hfull hpos _ hp hq => ⟨y, hruns (by omega) hp hq, ?_⟩, fun hm hshort => ?_⟩
    · rw [hready fun h => absurd hzero h, Core.preloadElems, if_pos hzero]
      rfl
    · rw [hset, if_pos hc, preloadVal, hzero]
      rfl
    · rw [Core.queues_preloadRow, Core.preloadPop, if_pos hzero]
    · obtain ⟨hkc, hregion⟩ := preloadVal_kc_region (b := b) (es := es) (preloadBase b) o
      rw [hset, if_pos hc, hes (by omega)]
      exact ⟨fun i j => at_preloadVal_of_rowb _ o hrowb (hlen (by omega)) hn, hkc, hregion, hops (.inl (by omega)), hbytes (by omega)⟩
    · rw [hset, if_pos hc, hes (by omega)]
      exact ⟨fun i j => at_preloadVal_of_colb _ o hcolb hn, hops (.inl (by omega)), hbytes (by omega)⟩
    · have hw : es.length = b.n + 1 := hlen (by omega)
      rw [hset, if_neg (by omega), hes (by omega), preloadVal_of_full v o hfull]
      exact ⟨fun j hj => v.at_putRow_self _ (hw.trans_le hn) (Nat.lt_of_lt_of_eq (Nat.lt_succ_of_le hj) hw.symm),
        fun i j hj hi => Prod.mk.inj (v.at_putRow_ne (hw.trans_le hn) hj hi), fun hend => hops (.inr hend), hbytes (by omega)⟩
    · refine exec_preloadRowWrite_of_short hwf hk ho hi ht hm (Nat.lt_of_lt_of_le hshort (Nat.mul_le_mul_right _ ?_))
      rw [preloadCount_of_ne_zero hm]
      split
      · rw [if_pos ‹_›]
      · rw [if_neg ‹_›]

end Sys2Proof.Machine
end

section
/-! SUPPORT. Top-k order: the values of a row as a linear order, and what putting the entries in one after another leaves. -/

namespace Sys2Proof.Machine

/-! ### The order of values (R102) -/

/-- The rational number that a finite value is. -/
def Num.value : Num → ℚ
  | .fin n m e => (if n then -1 else 1) * m * 2 ^ e
  | _ => 0

/-- The place of a value in ascending order: NaN lowest, and the finite values between the infinities. -/
def Num.place (x : Num) : ℕ ×ₗ ℚ :=
  match x with
  | .nan => toLex (0, 0)
  | .inf true => toLex (1, 0)
  | .fin _ _ _ => toLex (2, x.value)
  | .inf false => toLex (3, 0)

/-- A finite value as a multiple of 2^k. -/
theorem Num.value_eq_toInt (n : Bool) (m : Nat) {e k : Int} (h : k ≤ e) : (Num.fin n m e).value = (Num.fin n m e).toInt k * 2 ^ k := by
  have hpow : (2 : ℚ) ^ e = 2 ^ (e - k).toNat * 2 ^ k := by
    rw [← zpow_natCast, Int.toNat_of_nonneg (Int.sub_nonneg.2 h), ← zpow_add₀ two_ne_zero, Int.sub_add_cancel]
  rw [Num.value, Num.toInt, hpow]
  push_cast
  ring

theorem Num.value_lt_iff (n n' : Bool) (m m' : Nat) (e e' : Int) :
    (Num.fin n m e).value < (Num.fin n' m' e').value ↔ (Num.fin n m e).toInt (min e e') < (Num.fin n' m' e').toInt (min e e') := by
  rw [Num.value_eq_toInt n m (min_le_left e e'), Num.value_eq_toInt n' m' (min_le_right e e'), mul_lt_mul_iff_left₀ (zpow_pos two_pos _), Int.cast_lt]

theorem Num.toInt_eq_zero_iff (n : Bool) (m : Nat) (e k : Int) : (Num.fin n m e).toInt k = 0 ↔ m = 0 := by
  rw [Num.toInt]
  cases n <;> simp

/-- Of finite values that are not both zero, the sign of a zero decides nothing. -/
theorem numLt_fin_iff {n n' : Bool} {m m' : Nat} {e e' : Int} (h : ¬ (m = 0 ∧ m' = 0)) :
    numLt (.fin n m e) (.fin n' m' e') = true ↔ (Num.fin n m e).value < (Num.fin n' m' e').value := by
  let i := (Num.fin n m e).toInt (min e e')
  let j := (Num.fin n' m' e').toInt (min e e')
  have htie : i = j → n = true → n' = true := fun hij hn => by
    by_contra hn'
    have hi : i ≤ 0 := by simp only [i, Num.toInt, if_pos hn]; omega
    have hj : 0 ≤ j := by simp only [j, Num.toInt, if_neg hn']; omega
    exact h ⟨(Num.toInt_eq_zero_iff n m e (min e e')).1 (by omega), (Num.toInt_eq_zero_iff n' m' e' (min e e')).1 (by omega)⟩
  have hlt : numLt (.fin n m e) (.fin n' m' e') = (decide (i < j) || (decide (i = j) && n && !n')) := rfl
  rw [hlt, Num.value_lt_iff, Bool.or_eq_true, decide_eq_true_iff, or_iff_left]
  simp only [Bool.and_eq_true, decide_eq_true_iff, Bool.not_eq_true']
  rintro ⟨⟨hij, hn⟩, hn'⟩
  rw [htie hij hn] at hn'
  cases hn'

theorem Num.value_of_zero (n : Bool) (e : Int) : (Num.fin n 0 e).value = 0 := by simp [Num.value]

/-- To outrank is to have the higher place (R102): −0 has the place of +0, NaN the lowest. -/
theorem outranks_iff (a b : Word32) : outranks a b = true ↔ (val32 b).place < (val32 a).place := by
  rw [outranks]
  generalize val32 a = x
  generalize val32 b = y
  match x, y with
  | .nan, .nan => simp
  | .nan, .inf true => simp [Num.place, Prod.Lex.toLex_lt_toLex]
  | .nan, .inf false => simp [Num.place, Prod.Lex.toLex_lt_toLex]
  | .nan, .fin .. => simp [Num.place, Prod.Lex.toLex_lt_toLex]
  | .inf true, .nan => simp [Num.place, Prod.Lex.toLex_lt_toLex]
  | .inf false, .nan => simp [Num.place, Prod.Lex.toLex_lt_toLex]
  | .fin .., .nan => simp [Num.place, Prod.Lex.toLex_lt_toLex]
  | .inf n, .inf n' => cases n <;> cases n' <;> simp [Num.place, Num.isZero, numLt, Prod.Lex.toLex_lt_toLex]
  | .inf n, .fin .. => cases n <;> simp [Num.place, Num.isZero, numLt, Prod.Lex.toLex_lt_toLex]
  | .fin .., .inf n => cases n <;> simp [Num.place, Num.isZero, numLt, Prod.Lex.toLex_lt_toLex]
  | .fin n m e, .fin n' m' e' =>
    have hplace : (Num.fin n' m' e').place < (Num.fin n m e).place ↔ (Num.fin n' m' e').value < (Num.fin n m e).value := by
      simp [Num.place, Prod.Lex.toLex_lt_toLex]
    rw [hplace]
    by_cases hz : m = 0 ∧ m' = 0
    · obtain ⟨rfl, rfl⟩ := hz
      simp [Num.isZero, Num.value_of_zero]
    · rw [← numLt_fin_iff fun h => hz h.symm]
      simp [Num.isZero, hz]

theorem outranks_eq_false_iff (a b : Word32) : outranks a b = false ↔ (val32 a).place ≤ (val32 b).place := by
  rw [← Bool.not_eq_true, outranks_iff, not_lt]

/-! ### Entries in order (R102, R238) -/

/-- Entry `a` may stand before entry `b`: it ranks no lower, and an equal one has the lower column. -/
def rankedBefore (a b : Nat × Word32) : Prop := outranks b.2 a.2 = false ∧ (outranks a.2 b.2 = false → a.1 < b.1)

/-- What outranks an entry outranks all that may stand behind it. -/
theorem rankedBefore_of_outranks {e x y : Nat × Word32} (he : outranks e.2 x.2 = true) (hy : y = x ∨ rankedBefore x y) : rankedBefore e y := by
  have hlt : (val32 y.2).place < (val32 e.2).place := by
    refine lt_of_le_of_lt ?_ ((outranks_iff _ _).1 he)
    rcases hy with rfl | ⟨hle, -⟩
    · exact le_refl _
    · exact (outranks_eq_false_iff _ _).1 hle
  refine ⟨(outranks_eq_false_iff _ _).2 hlt.le, fun h => ?_⟩
  rw [(outranks_iff _ _).2 hlt] at h
  cases h

theorem rankIn_eq_orderedInsert (f : Nat × Word32 → Nat × Word32 → Bool) (e : Nat × Word32) (l : List (Nat × Word32)) :
    rankIn f e l = l.orderedInsert (fun a b => f a b = true) e := by
  induction l with
  | nil => rfl
  | cons x r ih => rw [rankIn, ih, List.orderedInsert_cons]

theorem perm_rankIn (f : Nat × Word32 → Nat × Word32 → Bool) (e : Nat × Word32) (l : List (Nat × Word32)) : (rankIn f e l).Perm (e :: l) := by
  rw [rankIn_eq_orderedInsert]
  exact List.perm_orderedInsert _ e l

/-- An entry of a later column goes in before the first entry that it outranks. -/
theorem pairwise_rankIn {e : Nat × Word32} {l : List (Nat × Word32)} (hl : l.Pairwise rankedBefore) (he : ∀ x ∈ l, x.1 < e.1) :
    (rankIn (fun a b => outranks a.2 b.2) e l).Pairwise rankedBefore := by
  induction l with
  | nil => exact List.pairwise_singleton _ _
  | cons x r ih =>
    obtain ⟨hx, hr⟩ := List.pairwise_cons.1 hl
    obtain ⟨hxe, hre⟩ := List.forall_mem_cons.1 he
    rw [rankIn]
    split
    · exact List.pairwise_cons.2 ⟨fun y hy => rankedBefore_of_outranks ‹_› ((List.mem_cons.1 hy).imp_right (hx y)), hl⟩
    · refine List.pairwise_cons.2 ⟨fun y hy => ?_, ih hr hre⟩
      rcases List.mem_cons.1 ((perm_rankIn _ e r).mem_iff.1 hy) with rfl | hy
      · exact ⟨Bool.eq_false_iff.2 ‹_›, fun _ => hxe⟩
      · exact hx y hy

/-- The entries of a row from column `n` on, put in one after another among the entries `l` of the columns before it. -/
theorem ranked_foldl (ws : List Word32) {n : Nat} {l : List (Nat × Word32)} (hl : l.Pairwise rankedBefore) (hn : ∀ x ∈ l, x.1 < n) :
    let r := (ws.zipIdx n).foldl (fun l e => rankIn (fun a b => outranks a.2 b.2) (e.2, e.1) l) l
    r.Pairwise rankedBefore ∧ r.Perm (l ++ (ws.zipIdx n).map (fun e => (e.2, e.1))) := by
  induction ws generalizing n l with
  | nil => exact ⟨hl, by simp⟩
  | cons w ws ih =>
    have hperm := perm_rankIn (fun a b => outranks a.2 b.2) (n, w) l
    have hnext : ∀ x ∈ rankIn (fun a b => outranks a.2 b.2) (n, w) l, x.1 < n + 1 := fun x hx => by
      rcases List.mem_cons.1 (hperm.mem_iff.1 hx) with rfl | hx
      · exact Nat.lt_succ_self n
      · exact Nat.lt_succ_of_lt (hn x hx)
    obtain ⟨hsorted, hall⟩ := ih (pairwise_rankIn hl hn) hnext
    refine ⟨hsorted, hall.trans ?_⟩
    exact (hperm.append_right _).trans List.perm_middle.symm

/-- The entries of a row are its values in descending order, equal values in column order (R102, R238). -/
theorem ranked_spec (ws : List Word32) : (ranked ws).Pairwise rankedBefore ∧ (ranked ws).Perm (ws.zipIdx.map (fun e => (e.2, e.1))) :=
  ranked_foldl ws List.Pairwise.nil (by simp)

end Sys2Proof.Machine
end

section
/-! Chapter 3 of the manual: drains read rows and push them. -/

namespace Sys2Proof.Machine

/-! ### A drain's row (R83, R87, R94, R98, R99, R107) -/

/-- The values of a drain's next row with their poison, of the set's contents `v`. -/
def Op.drainVals (o : Op) (v : AccSet) : List PWord := (List.range o.region.2).map (fun j => (v.cell o.cnt j, v.bad o.cnt j))

/-- A set after a drain has read its next row (R87): the row cleared where the drain clears the set that it reads, the count too with its last row. -/
def AccSet.drained (v : AccSet) (o : Op) (b : DrainB) : AccSet :=
  if b.clr = true ∧ o.snap = none then (if decide (o.cnt + 1 = o.region.1) then { v.clearRow o.cnt with kc := 0 } else v.clearRow o.cnt) else v

/-- An array after a drain has read its next row `row`, activated `y`. -/
def Arr.rowRead (a : Arr) (key : Nat) (o : Op) (b : DrainB) (d : DescB) (row y : List PWord) : Arr :=
  ({ a.putSet key ((a.set key).drained o b) with
      pushes := a.pushes ++ rowPushes o d o.cnt row y, bufs := a.bufs ++ (if o.cnt = 0 then newBufs o d else []) } : Arr).store o row y (decide (o.cnt + 1 = o.region.1))

/-- A drain with one row more: at its port, or past it with its last row; complete once it has pushed everything. -/
def Core.drainOn (x : Core) (n : Nat) (o : Op) : Core :=
  (if decide (o.cnt = o.region.1) then x.leavePort o else x).drainEnd n o

/-- A core after a drain that is not fused has read its next row. -/
def Core.rowRead (x : Core) (n quad : Nat) (o : Op) (b : DrainB) (d : DescB) : Core :=
  let row := o.drainVals (o.snap.getD ((x.arr n).set (setKey quad b.set)))
  (x.updArr n (fun a => a.rowRead (setKey quad b.set) o b d row (drainRow d row []).1)).drainOn n { o with cnt := o.cnt + 1 }

/-- A drain that is not fused reads no side row (R99). -/
theorem State.readRow_of_plain (s : State) (k n quad : Nat) (o : Op) (b : DrainB) {d : DescB} (h : d.dmode ≠ 1) :
    s.readRow k n quad o b d = (s.setCore k ((s.core k).rowRead n quad o b d)).raise k
      (0 ||| (drainRow d (o.drainVals (o.snap.getD (((s.core k).arr n).set (setKey quad b.set)))) []).2) := by
  simp only [State.readRow, if_neg h]
  rfl

/-- The row that a drain pushes when it is not fused: each value activated, its poison kept (R98, R99). -/
theorem drainRow_of_plain {d : DescB} (h : d.dmode ≠ 1) (row z : List PWord) :
    (drainRow d row z).1 = row.map (fun e => ((actF d.act e.1).1, e.2)) := by
  have hfst : row.zipIdx.map Prod.fst = row := List.zipIdx_map_fst 0 row
  simp only [drainRow, if_neg h, List.map_map]
  conv_rhs => rw [← hfst, List.map_map]
  rfl

theorem AccSet.at_count (v : AccSet) (kc i j : Nat) : ({ v with kc := kc } : AccSet).at i j = v.at i j := rfl

theorem AccSet.at_drained (v : AccSet) {o : Op} {b : DrainB} (hb : b.clr = true) (ho : o.snap = none) {j : Nat} (hj : j < 32) :
    (v.drained o b).at o.cnt j = (0, false) := by
  rw [AccSet.drained, if_pos ⟨hb, ho⟩]
  split
  · rw [AccSet.at_count, v.at_clearRow o.cnt hj]
  · exact v.at_clearRow o.cnt hj

theorem AccSet.drained_of_kept (v : AccSet) {o : Op} {b : DrainB} (h : b.clr = false ∨ o.snap ≠ none) : v.drained o b = v := by
  refine if_neg fun ⟨hb, ho⟩ => ?_
  rcases h with h | h
  · rw [h] at hb
    cases hb
  · exact h ho

theorem Core.arr_leavePort_ne (x : Core) {o : Op} {n q p m : Nat} (h : portOf o.ins = some (n, q, p)) (hm : m ≠ n) : (x.leavePort o).arr m = x.arr m := by
  simp only [Core.leavePort, h]
  obtain ⟨y, hy⟩ := (x.updArr n (fun a => a.setPort q p ((a.port q p).filter (fun i => i != o.id)))).freePort_eq
  rw [hy]
  exact Core.arr_setArr_ne _ _ hm

section

variable (x : Core) (n quad : Nat) (o : Op) (b : DrainB) (d : DescB)

theorem Core.drainEnd_eq : x.drainEnd n o = { x with ops := (x.drainEnd n o).ops, comps := (x.drainEnd n o).comps } := by
  unfold Core.drainEnd
  split <;> rfl

@[simp] theorem Core.arr_drainEnd (m : Nat) : (x.drainEnd n o).arr m = x.arr m := by
  rw [Core.drainEnd_eq]
  rfl

theorem Core.arr_drainOn (m : Nat) : ∃ l, (x.drainOn n o).arr m = { x.arr m with ports := l } := by
  rw [Core.drainOn, Core.arr_drainEnd]
  split
  · exact (x.leavePort_eq o).2 m
  · exact ⟨(x.arr m).ports, rfl⟩

theorem Core.arr_drainOn_ne {o : Op} {q p m : Nat} (h : portOf o.ins = some (n, q, p)) (hm : m ≠ n) : (x.drainOn n o).arr m = x.arr m := by
  rw [Core.drainOn, Core.arr_drainEnd]
  split
  · exact x.arr_leavePort_ne h hm
  · rfl

theorem Core.queues_drainOn : (x.drainOn n o).queues = x.queues := by
  rw [Core.drainOn, Core.drainEnd_eq]
  simp only
  split
  · rw [(x.leavePort_eq o).1]
  · rfl

/-- The array that a drain has read a row of. -/
theorem Core.arr_rowRead :
    let row := o.drainVals (o.snap.getD ((x.arr n).set (setKey quad b.set)))
    ∃ l, (x.rowRead n quad o b d).arr n = { (x.arr n).rowRead (setKey quad b.set) o b d row (drainRow d row []).1 with ports := l } := by
  intro row
  obtain ⟨l, hl⟩ := (x.updArr n (fun a => a.rowRead (setKey quad b.set) o b d row (drainRow d row []).1)).arr_drainOn n { o with cnt := o.cnt + 1 } n
  rw [Core.updArr, Core.arr_setArr_self] at hl
  exact ⟨l, hl⟩

theorem Core.arr_rowRead_ne {o : Op} {q p m : Nat} (h : portOf o.ins = some (n, q, p)) (hm : m ≠ n) : (x.rowRead n quad o b d).arr m = x.arr m := by
  rw [Core.rowRead, Core.arr_drainOn_ne _ _ (o := { o with cnt := o.cnt + 1 }) h hm]
  exact Core.arr_setArr_ne _ _ hm

theorem Core.queues_rowRead : (x.rowRead n quad o b d).queues = x.queues := Core.queues_drainOn _ _ _

theorem Core.set_rowRead : ((x.rowRead n quad o b d).arr n).set (setKey quad b.set) = ((x.arr n).set (setKey quad b.set)).drained o b := by
  obtain ⟨l, hl⟩ := x.arr_rowRead n quad o b d
  rw [hl]
  exact (x.arr n).set_putSet_self (setKey quad b.set) _

/-- The outputs of the row join those that wait to be pushed (R98, R99, R111). -/
theorem Core.pushes_rowRead (h : d.dmode ≠ 1) :
    let row := o.drainVals (o.snap.getD ((x.arr n).set (setKey quad b.set)))
    ((x.rowRead n quad o b d).arr n).pushes = (x.arr n).pushes ++ rowPushes o d o.cnt row (row.map (fun e => ((actF d.act e.1).1, e.2))) := by
  intro row
  obtain ⟨l, hl⟩ := x.arr_rowRead n quad o b d
  rw [hl, drainRow_of_plain h]
  rfl

end

/-! ### DRAIN_ROW_READ -/

theorem exec_drainRowRead_eq (c n u : Nat) (s : State) : exec (.drainRowRead c n u []) s = execDrainRowRead c n u [] s := rfl

theorem exec_drainRowRead_of_drain {s : State} {c k n u : Nat} {o : Op} {cf : Cf} {b : DrainB} {d : DescB} (hwf : Instr.wf (.drainRowRead c n u []) = true)
    (hk : s.phys c = some k) (ho : (s.core k).inPort n u 2 = some o) (hi : o.ins = .drain cf b) (hd : o.desc = some d) (ht : (s.core k).setTurn o = true) :
    exec (.drainRowRead c n u []) s = .next (
      if o.region.1 = 0 then s.setCore k (((s.core k).leavePort o).finish o)
      else if (s.core k).readReady n o d o.region.2 = true then (s.setCore k (s.core k)).readRow k n u o b d
      else s.setCore k (s.core k)) := by
  rw [exec_drainRowRead_eq, execDrainRowRead, guardWf_of_wf hwf]
  simp only [hk, State.meetErrs_nil, State.core_setCore_self, ho, hi, hd, ht, Bool.not_true, Bool.false_eq_true, if_false, State.setCore_setCore]

/-! ### DRAIN_PUSH and TOPK_PUSH (R102 to R106, R109, R111, R238) -/

theorem exec_drainPush_eq (c n q : Nat) (s : State) : exec (.drainPush c n q) s = execDrainPush c n q s := rfl

theorem exec_topkPush_eq (c n q : Nat) (s : State) : exec (.topkPush c n q) s = execTopkPush c n q s := rfl

theorem exec_columnBlockEmit_eq (c n q : Nat) (s : State) : exec (.columnBlockEmit c n q) s = execColumnBlockEmit c n q s := rfl

/-- Every queue of a pending push has room for it, and it is its instruction's turn. -/
def Core.pushFits (x : Core) (o : Op) (d : DescB) (p : Push) : Bool :=
  (pushLoad d p).all (fun e => x.pushTurn o e.1 && decide (pullBytes (pushLoad d p) e.1 ≤ (x.queue e.1).free))

/-- A core with the bytes `r` of a drained or side row pushed at ECLK `t`: a side row's scale byte behind its elements, a drained row's to its own queue (R106). -/
def Core.pushOut (x : Core) (t q : Nat) (d : DescB) (kind : PushKind) (r : List PByte × List PByte × Fl) : Core :=
  match kind with
  | .side => x.setQueue q ((x.queue q).push (r.1 ++ r.2.1) t)
  | _ =>
    let y := x.setQueue q ((x.queue q).push r.1 t)
    if isMx d.otype then y.setQueue d.osq ((y.queue d.osq).push r.2.1 t) else y

theorem Core.pushOut_row_plain (x : Core) (t q : Nat) {d : DescB} (r : List PByte × List PByte × Fl) (hmx : isMx d.otype = false) :
    x.pushOut t q d .row r = x.setQueue q ((x.queue q).push r.1 t) := by
  simp only [Core.pushOut, hmx, Bool.false_eq_true, if_false]

theorem Core.pushOut_row_mx (x : Core) (t : Nat) {q : Nat} {d : DescB} (r : List PByte × List PByte × Fl) (hmx : isMx d.otype = true) (hq : d.osq ≠ q) :
    x.pushOut t q d .row r = (x.setQueue q ((x.queue q).push r.1 t)).setQueue d.osq ((x.queue d.osq).push r.2.1 t) := by
  simp only [Core.pushOut, hmx, if_true, Core.queue_setQueue_ne _ _ hq]

section

variable {s : State} {c k n q : Nat} {o : Op} {d : DescB} (hc : c < 128) (hn : n < 8) (hq : q < 16) (hk : s.phys c = some k)

include hc hn hq hk

theorem exec_drainPush_of_pending {p : Push} (hp : ((s.core k).arr n).pushes.find? (fun p => p.kind != .topk && p.q == q && (s.core k).turnOf p.op q) = some p)
    (ho : (s.core k).op p.op = some o) (hd : o.desc = some d) :
    exec (.drainPush c n q) s = .next (
      if (s.core k).pushFits o d p = true then
        (s.setCore k ((((s.core k).pushOut s.clock.eclk q d p.kind (s.rowOut c o d p)).updArr n (fun a => a.dropPush p)).drainEnd n o)).raise k (s.rowOut c o d p).2.2
      else s) := by
  have hwf : Instr.wf (.drainPush c n q) = true := by simp [Instr.wf, wfCore, hc, hn, hq]
  rw [exec_drainPush_eq, execDrainPush, guardWf_of_wf hwf]
  simp only [hk, hp, ho, hd]
  rfl

theorem exec_topkPush_of_pending {p : Push} (hp : ((s.core k).arr n).pushes.find? (fun p => p.kind == .topk && p.q == q && (s.core k).turnOf p.op q) = some p)
    (ho : (s.core k).op p.op = some o) (hd : o.desc = some d) :
    exec (.topkPush c n q) s = .next (
      if 8 * d.topk ≤ ((s.core k).queue q).free then
        s.setCore k ((((s.core k).setQueue q (((s.core k).queue q).push (entryBytes (topEntries d.topk p.row o.col0 p.vals)) s.clock.eclk)).updArr n
          (fun a => a.dropPush p)).drainEnd n o)
      else s) := by
  have hwf : Instr.wf (.topkPush c n q) = true := by simp [Instr.wf, wfCore, hc, hn, hq]
  rw [exec_topkPush_eq, execTopkPush, guardWf_of_wf hwf]
  simp only [hk, hp, ho, hd]

end

/-! ### COLUMN_BLOCK_EMIT (R107, R109, R111) -/

/-- The type code that a buffer's output is narrowed to. -/
def bufCode (d : DescB) (b : ColBuf) : Nat := if b.side then d.stype else d.otype

/-- The bytes of a full buffer's next push: the scale bytes of its narrowed columns, then one row after another. -/
def emitBytes (code width made : Nat) (cols : List (List (Nat × Bool) × List PByte × Fl)) : List PByte :=
  if made = 0 then cols.flatMap (fun e => e.2.1)
  else ((packMarked code ((List.range 32).flatMap (fun i => cols.map (fun e => e.1.getD i (0, false))))).drop (rowStart code width (made - 1))).take
    (rowStart code width made - rowStart code width (made - 1))

/-- The column-block buffers of an array after one push of buffer `b`, which its last row frees. -/
def Arr.emitted (a : Arr) (b : ColBuf) : Arr :=
  { a with bufs := if b.made + 1 = 33 then a.bufs.erase b else a.bufs.map (fun f => if f = b then { b with made := b.made + 1 } else f) }

theorem Arr.emitted_of_single {a : Arr} {b : ColBuf} (h : a.bufs = [b]) :
    a.emitted b = { a with bufs := if b.made = 32 then [] else [{ b with made := b.made + 1 }] } := by
  simp [Arr.emitted, h]

/-- A core after one push `bs` of a full buffer. -/
def Core.emitted (x : Core) (t n q : Nat) (o : Op) (b : ColBuf) (bs : List PByte) : Core :=
  ((x.setQueue q ((x.queue q).push bs t)).updArr n (fun a => a.emitted b)).drainEnd n o

theorem Core.emitted_of_single {x : Core} {n : Nat} {b : ColBuf} (h : (x.arr n).bufs = [b]) (t q : Nat) (o : Op) (bs : List PByte) :
    x.emitted t n q o b bs = ((x.setQueue q ((x.queue q).push bs t)).updArr n (fun a =>
      { a with bufs := if b.made = 32 then [] else [{ b with made := b.made + 1 }] })).drainEnd n o := by
  have hbufs : ((x.setQueue q ((x.queue q).push bs t)).arr n).bufs = [b] := h
  rw [Core.emitted, Core.updArr, Arr.emitted_of_single hbufs]
  rfl

theorem State.colBlocks_eq (s : State) (c : Nat) (o : Op) (d : DescB) (b : ColBuf) :
    s.colBlocks c o d b = (List.range o.region.2).map (fun j =>
      narrowRow (bufCode d b) (if b.side then d.srmode else d.rmode) (s.genKey c) o.step d.stream (colBlock b j) (colIndex o d j)) := by
  rw [State.colBlocks, bufCode]
  cases b.side <;> rfl

theorem exec_columnBlockEmit_of_single {s : State} {c k n q : Nat} {o : Op} {d : DescB} {b : ColBuf} (hc : c < 128) (hn : n < 8) (hq : q < 16)
    (hk : s.phys c = some k) (hb : ((s.core k).arr n).bufs = [b]) (hf : b.full = true) (ho : (s.core k).op b.op = some o) (hd : o.desc = some d)
    (hnext : bufNext d b = q) (ht : (s.core k).pushTurn o q = true) :
    let cols := (List.range o.region.2).map (fun j =>
      narrowRow (bufCode d b) (if b.side then d.srmode else d.rmode) (s.genKey c) o.step d.stream (colBlock b j) (colIndex o d j))
    let bs := emitBytes (bufCode d b) o.region.2 b.made cols
    let t := s.setCore k ((s.core k).emitted s.clock.eclk n q o b bs)
    exec (.columnBlockEmit c n q) s = .next (
      if bs.length ≤ ((s.core k).queue q).free then (if b.made = 0 then t.raise k (cols.foldl (fun f e => f ||| e.2.2) 0) else t) else s) := by
  have hwf : Instr.wf (.columnBlockEmit c n q) = true := by simp [Instr.wf, wfCore, hc, hn, hq]
  have hready : (b.full && bufNext d b == q && (s.core k).pushTurn o q) = true := by simp [hf, hnext, ht]
  have hcols := s.colBlocks_eq c o d b
  intro cols bs t
  rw [exec_columnBlockEmit_eq, execColumnBlockEmit, guardWf_of_wf hwf]
  simp only [hk, hb, List.filterMap_cons, List.filterMap_nil, ho, hd, Option.bind_some, Option.map_some, hready, if_true, List.head?_cons, hcols]
  rfl

/-! ### The obligation -/

/-- Settles O28: a drain's row is read off the set that it drains, a pending push leaves by its kind, a buffer's by the count it has made; a row's entries are put in order one after another. -/
theorem drainsRun : Obligations.DrainsRun := by
  unfold Obligations.DrainsRun
  refine ⟨?_, ?_, ranked_spec⟩
  · intro s c k n u o cf b d hwf hk x ho hi hd ht _ harr key v h row
    subst harr
    have hexec := exec_drainRowRead_of_drain hwf hk ho hi hd ht
    have hport : portOf o.ins = some (b.arr, b.quad, 2) := by rw [hi]; rfl
    refine ⟨fun hnone => by rw [hexec, if_pos hnone], fun hrows hplain hready => ?_,
      fun hrows hready => by rw [hexec, if_neg (by omega), if_neg (ne_true_of_eq_false hready)]⟩
    have hset := x.set_rowRead b.arr u o b d
    refine ⟨x.rowRead b.arr u o b d, 0 ||| (drainRow d row []).2, ?_, x.pushes_rowRead b.arr u o b d hplain, fun j hj hclr hsnap => ?_, fun hkept => ?_,
      x.queues_rowRead .., fun m hm => x.arr_rowRead_ne _ _ _ _ hport hm⟩
    · rw [hexec, if_neg (by omega), if_pos hready, State.readRow_of_plain _ _ _ _ _ _ hplain, State.core_setCore_self, State.setCore_setCore]
      rfl
    · rw [hset]
      exact Prod.mk.inj (v.at_drained hclr hsnap hj)
    · rw [hset]
      exact v.drained_of_kept hkept
  · intro s c k n q o d hc hn hq hk x v t
    refine ⟨fun p hp ho hd => ?_, fun p hp ho hd => ?_, fun b hb hf ho hd hnext ht => ?_⟩
    · intro r
      have hexec := exec_drainPush_of_pending hc hn hq hk hp ho hd
      refine ⟨fun (hfits : x.pushFits o d p = true) => ⟨fun hside => ?_, fun hrow hmx => ?_, fun hrow hmx hosq => ?_⟩, fun (hfull : x.pushFits o d p = false) => ?_⟩
      · rw [hexec, if_pos hfits, hside]
        rfl
      · rw [hexec, if_pos hfits, hrow, x.pushOut_row_plain t q r hmx]
        rfl
      · rw [hexec, if_pos hfits, hrow, x.pushOut_row_mx t r hmx hosq]
        rfl
      · rw [hexec, if_neg (ne_true_of_eq_false hfull)]
    · have hexec := exec_topkPush_of_pending hc hn hq hk hp ho hd
      refine ⟨fun hfits => ?_, fun hfull => ?_⟩
      · rw [hexec, if_pos hfits]
        rfl
      · rw [hexec, if_neg (Nat.not_le.2 hfull)]
    · intro code cols all at' bs r
      have hexec := exec_columnBlockEmit_of_single hc hn hq hk hb hf ho hd hnext ht
      have hr : s.setCore k (x.emitted t n q o b bs) = r := congrArg (s.setCore k) (Core.emitted_of_single hb t q o bs)
      rw [← hr]
      refine ⟨fun hfits => ?_, fun hfull => ?_⟩
      · exact hexec.trans (congrArg _ (if_pos hfits))
      · exact hexec.trans (congrArg _ (if_neg (Nat.not_le.2 hfull)))

end Sys2Proof.Machine
end

section
/-! SUPPORT. Streams of a core: what a stream's update leaves of its core, which command a stream may issue, and what issuing a control instruction leaves. -/

namespace Sys2Proof.Machine

/-! ### Streams of a core -/

section

variable (x : Core) (st : Strm) (t u : Stream)

@[simp] theorem Core.stream_setStream_self : (x.setStream st t).stream st = t := by cases st <;> rfl
@[simp] theorem Core.setStream_setStream : (x.setStream st t).setStream st u = x.setStream st u := by cases st <;> rfl
@[simp] theorem Core.flags_setStream : (x.setStream st t).flags = x.flags := by cases st <;> rfl
@[simp] theorem Core.adds_setStream : (x.setStream st t).adds = x.adds := by cases st <;> rfl

theorem Core.updStream_eq (f : Stream → Stream) : x.updStream st f = x.setStream st (f (x.stream st)) := rfl

end

/-! ### The stream that a command issues on (R125) -/

section

variable {s : State} {c p k : Nat} {st : Strm} {i : Ovt}

/-- What the issue condition says: the running partition, the core that hosts it, and a ready stream with the instruction next. -/
theorem State.issuer_eq_some_iff : s.issuer c st i = some (p, k) ↔
    s.partOf c = some p ∧ s.phys c = some k ∧ (s.part p).st = .running ∧ ((s.core k).stream st).ready = true ∧ ((s.core k).stream st).next = some i := by
  unfold State.issuer
  cases hp : s.partOf c <;> cases hk : s.phys c <;> simp only [reduceCtorEq, false_and, and_false, Option.some.injEq, Bool.and_eq_true, beq_iff_eq]
  rename_i q j
  constructor
  · intro h
    split at h
    · rename_i hcond
      obtain ⟨⟨hrun, hready⟩, hnext⟩ := hcond
      obtain ⟨rfl, rfl⟩ := Prod.mk.inj (Option.some.inj h)
      exact ⟨rfl, rfl, hrun, hready, hnext⟩
    · cases h
  · rintro ⟨rfl, rfl, hrun, hready, hnext⟩
    exact if_pos ⟨⟨hrun, hready⟩, hnext⟩

theorem State.partOf_of_issuer (h : s.issuer c st i = some (p, k)) : s.partOf c = some p := (State.issuer_eq_some_iff.1 h).1

theorem State.phys_of_issuer (h : s.issuer c st i = some (p, k)) : s.phys c = some k := (State.issuer_eq_some_iff.1 h).2.1

/-- The issue condition reads partitions, cores and the core map alone. -/
theorem State.issuer_setReg (s : State) {a : Nat} (v c : Nat) (st : Strm) (i : Ovt) (h : a ≠ rCmap c) : (s.setReg a v).issuer c st i = s.issuer c st i := by
  have hp : (s.setReg a v).phys c = s.phys c := by simp only [State.phys, State.reg_setReg_ne s v h.symm]
  rw [State.issuer, State.issuer, State.partOf_setReg, hp]
  rfl

/-- A control instruction that is next has its effect on the core, and the stream goes on. -/
theorem State.control_of_issuer (h : s.issuer c st i = some (p, k)) (f : Core → Core) :
    s.control c st i f = s.setCore k ((f (s.core k)).setStream st ((f (s.core k)).stream st).advance) := by
  simp only [State.control, h]
  rfl

end

theorem State.stall_eq (s : State) (k : Nat) (st : Strm) (why obj : Nat) :
    s.stall k st why obj = s.setCore k ((s.core k).setStream st { (s.core k).stream st with state := 3, stall := why, obj := obj }) := rfl

/-- A core that the map gives belongs to a logical core that there is (R29). -/
theorem State.lt_of_phys {s : State} {c k : Nat} (h : s.phys c = some k) : c < 128 := by
  by_contra hc
  simp [State.phys, hc] at h

/-- The map gives physical cores within the four dies' fields (R38). -/
theorem State.phys_lt {s : State} {c k : Nat} (h : s.phys c = some k) : k < 166 := by
  unfold State.phys at h
  simp only at h
  split at h
  · have hd := Nat.mod_lt (s.reg (rCmap c) / 2 ^ 8) (show 0 < 2 ^ (9 + 1 - 8) by decide)
    have hn := Nat.mod_lt (s.reg (rCmap c) / 2 ^ 0) (show 0 < 2 ^ (5 + 1 - 0) by decide)
    have hk := Option.some.inj h
    simp only [bits] at hk
    omega
  · cases h

end Sys2Proof.Machine
end

section
/-! Chapter 4 of the manual: NOP, BOUNDARY, END and PHASE. -/

namespace Sys2Proof.Machine

section

variable {s : State} {c p k : Nat} {st : Strm}

/-- NOP: the stream goes on (R176). -/
theorem exec_nop_of_issuer (hc : c < 128) (h : s.issuer c st .nop = some (p, k)) :
    exec (.nop c st) s = .next (s.setCore k ((s.core k).setStream st ((s.core k).stream st).advance)) := by
  have hwf : Instr.wf (.nop c st) = true := decide_eq_true hc
  show execNop c st s = _
  rw [execNop, guardWf_of_wf hwf, State.control_of_issuer h]
  rfl

/-- BOUNDARY: the stream stops at it (R160). -/
theorem exec_boundary_of_issuer (hc : c < 128) (h : s.issuer c st .boundary = some (p, k)) :
    exec (.boundary c st) s = .next (s.setCore k ((s.core k).setStream st { (s.core k).stream st with state := 3, stall := 8, obj := 0 })) := by
  have hwf : Instr.wf (.boundary c st) = true := decide_eq_true hc
  show execBoundary c st s = _
  rw [execBoundary, guardWf_of_wf hwf]
  simp only [h, State.stall_eq]

/-- END: the stream stops issuing (R126). -/
theorem exec_endStream_of_issuer (hc : c < 128) (h : s.issuer c st .endS = some (p, k)) :
    exec (.endStream c st) s = .next (s.setCore k ((s.core k).setStream st { (s.core k).stream st with state := 4, stall := 0, obj := 0 })) := by
  have hwf : Instr.wf (.endStream c st) = true := decide_eq_true hc
  show execEndStream c st s = _
  rw [execEndStream, guardWf_of_wf hwf]
  simp only [h]
  rfl

end

/-! ### PHASE (R180, R273, R274) -/

/-- The phase's edges noted so far in the step. -/
def Core.phase (x : Core) (pid : Nat) : Phase := Tab.get x.phases ⟨0, false, false, false, false⟩ pid

/-- The registers after an edge: an end edge sets END, the step's first start edge START (R274). -/
def State.stampPhase (s : State) (k pid : Nat) (edge : Bool) : State :=
  if edge then s.setReg (rPhe k pid) s.now else if ((s.core k).phase pid).started then s else s.setReg (rPhs k pid) s.now

/-- The core after an edge: the edge noted, the stream gone on. -/
def Core.edged (x : Core) (st : Strm) (edge : Bool) (pid : Nat) : Core :=
  ({ x with phases := Tab.put x.phases pid ((x.phase pid).mark edge st) } : Core).setStream st (x.stream st).advance

/-- The phase registers stand above the core map's (R503). -/
theorem rPhe_ne_rCmap {k pid c : Nat} (hc : c < 128) : rPhe k pid ≠ rCmap c := by
  unfold rPhe rCmap coreB hubB
  omega

theorem rPhs_ne_rCmap {k pid c : Nat} (hc : c < 128) : rPhs k pid ≠ rCmap c := by
  unfold rPhs rCmap coreB hubB
  omega

theorem State.stampPhase_issuer (s : State) (k pid : Nat) (edge : Bool) {c : Nat} (hc : c < 128) (st : Strm) (i : Ovt) :
    (s.stampPhase k pid edge).issuer c st i = s.issuer c st i := by
  unfold State.stampPhase
  split
  · exact s.issuer_setReg _ _ _ _ (rPhe_ne_rCmap hc)
  · split
    · rfl
    · exact s.issuer_setReg _ _ _ _ (rPhs_ne_rCmap hc)

/-- The stamp of an edge changes registers alone. -/
theorem State.stampPhase_eq (s : State) (k pid : Nat) (edge : Bool) : s.stampPhase k pid edge = { s with regs := (s.stampPhase k pid edge).regs } := by
  unfold State.stampPhase
  split
  · rfl
  · split <;> rfl

theorem State.stampPhase_core (s : State) (k pid : Nat) (edge : Bool) (j : Nat) : (s.stampPhase k pid edge).core j = s.core j := by
  rw [State.stampPhase_eq]
  rfl

theorem exec_phase_of_issuer {s : State} {c p k : Nat} {st : Strm} {edge : Bool} {pid : Nat}
    (h : s.issuer c st (.phase edge pid) = some (p, k)) (hwf : Instr.wf (.phase c st edge pid) = true) :
    exec (.phase c st edge pid) s = .next ((s.stampPhase k pid edge).setCore k ((s.core k).edged st edge pid)) := by
  have hi : (s.stampPhase k pid edge).issuer c st (.phase edge pid) = some (p, k) := by
    rw [State.stampPhase_issuer _ _ _ _ (State.lt_of_phys (State.phys_of_issuer h)), h]
  have hc := State.control_of_issuer hi (fun x => { x with phases := Tab.put x.phases pid (((s.core k).phase pid).mark edge st) })
  rw [State.stampPhase_core] at hc
  show execPhase c st edge pid s = _
  rw [execPhase, guardWf_of_wf hwf]
  simp only [h]
  refine congrArg Host.Outcome.next (hc.trans ?_)
  cases st <;> rfl

/-- The registers that an edge sets: END by every end edge, START by the first start edge of the step alone (R274). -/
theorem State.stampPhase_regs (s : State) (k pid : Nat) (edge : Bool) (hns : s.clock.ns < 2 ^ 64) :
    let t := s.stampPhase k pid edge
    (edge = true → t.reg (rPhe k pid) = s.clock.ns ∧ s.sameRegsBut t (· = rPhe k pid)) ∧
      (edge = false → ((s.core k).phase pid).started = false → t.reg (rPhs k pid) = s.clock.ns ∧ s.sameRegsBut t (· = rPhs k pid)) ∧
      (edge = false → ((s.core k).phase pid).started = true → s.sameRegsBut t (fun _ => False)) := by
  intro t
  have hset : ∀ a, (s.setReg a s.now).reg a = s.clock.ns ∧ s.sameRegsBut (s.setReg a s.now) (· = a) := fun a =>
    ⟨(s.reg_setReg_self a s.now).trans (Nat.mod_eq_of_lt hns), fun b hb => s.reg_setReg_ne s.now hb⟩
  refine ⟨fun he => ?_, fun he hs => ?_, fun he hs => ?_⟩
  · have ht : t = s.setReg (rPhe k pid) s.now := if_pos he
    rw [ht]
    exact hset _
  · have ht : t = s.setReg (rPhs k pid) s.now := (if_neg (by simp [he])).trans (if_neg (by simp [hs]))
    rw [ht]
    exact hset _
  · have ht : t = s := (if_neg (by simp [he])).trans (if_pos hs)
    rw [ht]
    exact fun _ _ => rfl

/-- Settles O9: each of the four has its own next state. -/
theorem streamsRun : Obligations.StreamsRun := by
  unfold Obligations.StreamsRun
  refine ⟨fun s c st p k hc => ⟨exec_nop_of_issuer hc, exec_boundary_of_issuer hc, exec_endStream_of_issuer hc⟩, ?_⟩
  intro s c st p k edge pid h hwf hns x f
  obtain ⟨hend, hstart, hlater⟩ := s.stampPhase_regs k pid edge hns
  refine ⟨_, exec_phase_of_issuer h hwf, ?_, ?_, hend, hstart, hlater⟩
  · rw [State.core_setCore_self]
    rfl
  · rw [State.core_setCore_self, State.stampPhase_eq]
    rfl

end Sys2Proof.Machine
end

section
/-! SUPPORT. What the end of a program leaves of the cores: each operation that `State.terminate` makes on epochs, rounds, messages and cores. -/

namespace Sys2Proof.Machine

/-! ### Cores that an operation leaves -/

theorem State.TrafficOnly.cores {s t : State} (h : s.TrafficOnly t) : t.cores = s.cores := by rw [h]

theorem State.SentOnly.cores {s t : State} (h : s.SentOnly t) : t.cores = s.cores := by rw [h]

theorem State.core_of_cores {s t : State} (h : t.cores = s.cores) (k : Nat) : t.core k = s.core k := by simp only [State.core, h]

@[simp] theorem State.setArb_cores (s : State) : s.setArb.cores = s.cores := State.foldl_leaves State.cores (fun _ _ => State.setFld_cores _ _ _ _ _) _ _

theorem State.answer_cores (s : State) (a : Asker) (status : Nat) (late poison : Bool) (data : List Byte) :
    (s.answer a status late poison data).cores = s.cores := (s.answer_sentOnly a status late poison data).cores

theorem State.dropCmd_cores (s : State) (p : Nat) : (s.dropCmd p).cores = s.cores := by
  unfold State.dropCmd
  split
  · exact State.answer_cores _ _ _ _ _ _
  · rfl

theorem State.sendTermination_cores (s : State) (p w : Nat) : (s.sendTermination p w).cores = s.cores :=
  (State.TrafficOnly.sendTermination (.refl s) p w).cores

theorem State.exportPhases_cores (s : State) (p : Nat) (partly : Bool) : (s.exportPhases p partly).cores = s.cores :=
  (State.TrafficOnly.exportPhases (.refl s) p partly).cores

/-! #### Epochs (R374, R397, R400, R406) -/

theorem State.updHolder_cores (s : State) (ch : Nat) (f : HolderSide → HolderSide) : (s.updHolder ch f).cores = s.cores := by
  rw [State.updHolder, State.updEpoch_eq]

theorem State.countStage_cores (s : State) : s.countStage.cores = s.cores := s.countStage_storedOnly.cores

theorem State.dropHolder_cores (s : State) (ch : Nat) : (s.dropHolder ch).cores = s.cores :=
  (State.countStage_cores _).trans (s.updHolder_cores ch _)

theorem State.tallyBatch_cores (s : State) (b : Batch) : (s.tallyBatch b).cores = s.cores := by
  unfold State.tallyBatch
  split
  · rfl
  · have hw : ∀ (nan long : Bool) (rs : List Tallied),
        let t := if b.src % 64 = 0 then s.countAccess b.src false else s
        let t := (t.putWord b.addr (rs.map Tallied.sum)).addFld (rTalAdds b.chan) 63 0 rs.length
        let t := match b.comp with
          | some c => t.putWord c (rs.map Tallied.comp)
          | none => t
        let t := if nan then t.setFld (rTalStat b.chan) 32 32 1 else t
        s.StoredOnly (if long then t.setFld (rTalStat b.chan) 33 33 1 else t) := by
      intro nan long rs t u v w
      have ht : s.StoredOnly t := .ite ((State.StoredOnly.refl s).countAccess _ _) (.refl s)
      have hu : s.StoredOnly u := (ht.putWord _ _).addFld _ _ _ _
      have hv : s.StoredOnly v := by
        show State.StoredOnly s (match b.comp with | some c => u.putWord c (rs.map Tallied.comp) | none => u)
        split
        · exact hu.putWord _ _
        · exact hu
      have hw : s.StoredOnly w := .ite (hv.setFld _ _ _ _) hv
      exact .ite (hw.setFld _ _ _ _) hw
    exact (State.updHolder_cores _ _ _).trans (hw _ _ _).cores

theorem State.freeBlock_cores (s : State) (ch rank first : Nat) : (s.freeBlock ch rank first).cores = s.cores := by
  unfold State.freeBlock
  split
  · rfl
  · exact (State.countStage_cores _).trans (s.updHolder_cores ch _)

theorem State.takeBatch_cores (s : State) (b : Batch) : (s.takeBatch b).cores = s.cores := by
  have ht : (s.batchTaken b).cores = s.cores := by
    unfold State.batchTaken
    split
    · rfl
    · exact State.tallyBatch_cores _ b
  rw [State.takeBatch_eq, (State.applyTalMode_storedOnly _ _).cores, ← ht]
  exact State.freeBlock_cores _ _ _ _

theorem State.applyGroup_cores (s : State) (g : Nat) : (s.applyGroup g).cores = s.cores := by
  unfold State.applyGroup
  split
  · split <;> rfl
  · rfl

theorem State.closeEpoch_cores (s : State) (ch outcome : Nat) : (s.closeEpoch ch outcome).cores = s.cores := by
  unfold State.closeEpoch
  split
  · rfl
  · split
    · rfl
    · rw [State.applyGroup_cores, State.setFld_cores, State.updEpoch_eq]
      exact State.foldl_leaves State.cores State.takeBatch_cores _ s

theorem State.shutEpoch_cores (s : State) (ch : Nat) : (s.shutEpoch ch).cores = s.cores := by
  unfold State.shutEpoch
  split
  · rfl
  · exact State.applyGroup_cores _ _

theorem State.toRank_cores (s : State) (g r : Nat) (m : Msg) : (s.toRank g r m).cores = s.cores := by
  unfold State.toRank
  split
  · split
    · rfl
    · exact (State.TrafficOnly.sendTo (.refl s) _ _ _ _).cores
  · rfl

theorem State.abandonEpoch_cores (s : State) (ch reason : Nat) : (s.abandonEpoch ch reason).cores = s.cores := by
  unfold State.abandonEpoch
  split
  · rfl
  · split
    · split
      · rfl
      · rw [State.applyGroup_cores, State.closeEpoch_cores, State.dropHolder_cores]
        exact State.foldl_leaves State.cores (fun _ _ => State.toRank_cores _ _ _ _) _ _
    · rfl

theorem State.abandonAll_cores (s : State) (p : Option Nat) (reason : Nat) : (s.abandonAll p reason).cores = s.cores :=
  State.foldl_leaves State.cores (fun t e => by split <;> simp only [State.abandonEpoch_cores]) _ s

/-! #### Potluck rounds (R298) -/

theorem State.countPot_cores (s : State) (a : Nat) : (s.countPot a).cores = s.cores := by
  unfold State.countPot
  split
  · rfl
  · exact (State.maxFld_cores _ _ _ _ _).trans (State.setFld_cores _ _ _ _ _)

theorem State.dropRounds_cores (s : State) (p : Nat) : (s.dropRounds p).cores = s.cores :=
  State.foldl_leaves State.cores State.countPot_cores _ _

/-! ### The cores of a program that ends (R127, R549) -/

theorem State.killCore_cores_of_phys {s : State} {c k : Nat} (h : s.phys c = some k) :
    (s.killCore c).cores = (s.updCore k (fun x => x.kill s.free)).cores := by
  have hc := s.addFld_cores (rMevt c) 31 0 (s.core k).unbound
  have hf := s.addFld_free (rMevt c) 31 0 (s.core k).unbound
  simp only [State.killCore, h]
  generalize s.addFld (rMevt c) 31 0 (s.core k).unbound = t at hc hf
  show Tab.put t.cores k ((t.core k).kill t.free) = Tab.put s.cores k ((s.core k).kill s.free)
  rw [State.core_of_cores hc, hc, hf]

/-- One core of the program is stopped; every other is as it was. -/
theorem State.core_killCore (s : State) (c j : Nat) :
    (s.killCore c).core j = if s.phys c = some j then (s.core j).kill s.free else s.core j := by
  cases h : s.phys c with
  | none => simp only [State.killCore, h, reduceCtorEq, if_false]
  | some k =>
    rw [State.core_of_cores (State.killCore_cores_of_phys h)]
    by_cases hk : j = k
    · subst hk
      rw [if_pos rfl, State.core_updCore_self]
    · rw [if_neg (fun hj => hk (Option.some.inj hj).symm), State.core_updCore_ne _ _ hk]

/-! ### The stages of a termination (R127, R223, R275, R400) -/

/-- HUB_TERMp shows the end, and the phase records of the step in progress have gone out (R224, R275). -/
def State.reported (s : State) (p code : Nat) (l : Loc) : State :=
  let t := s.setReg (rTerm p) (termWord code (s.part p).step l)
  if (s.part p).st = .running then t.exportPhases p true else t

/-- The program's cores are stopped (R549). -/
def State.stopped (s : State) (p code : Nat) (l : Loc) : State := (s.part p).cores.foldl State.killCore (s.reported p code l)

/-- The partition has ended: its rounds are discarded and its hosted epochs abandoned (R298, R400). -/
def State.ended (s : State) (p code : Nat) : State :=
  ((s.dropRounds p).abandonAll (some p) (if code = 0x0A then 1 else 0)).updPart p (fun x => { x with st := .ending, endedAt := some s.clock.eclk })

/-- A restore of the partition ends with it (R300). -/
def State.dropRestore (s : State) (p : Nat) : State :=
  match s.restore with
  | some r => if r.part = p then (({ s with restore := none } : State).setFld rCstat 63 60 7).setArb else s
  | none => s

theorem State.terminate_of_live {s : State} {p : Nat} (h : (s.part p).live = true) (code : Nat) (l : Loc) :
    s.terminate p code l =
      (((((s.stopped p code l).ended p code).dropRestore p).sendTermination p (termWord code (s.part p).step l)).dropCmd p) := by
  rw [State.terminate, if_pos h]
  rfl

theorem State.terminate_of_ended {s : State} {p : Nat} (h : (s.part p).live = false) (code : Nat) (l : Loc) :
    s.terminate p code l = s.recode p code l := if_neg (by simp [h])

theorem State.recode_cores (s : State) (p code : Nat) (l : Loc) : (s.recode p code l).cores = s.cores := by
  unfold State.recode
  exact (apply_ite State.cores _ _ _).trans (ite_self _)

theorem State.reported_cores (s : State) (p code : Nat) (l : Loc) : (s.reported p code l).cores = s.cores := by
  unfold State.reported
  simp only
  split
  · exact State.exportPhases_cores _ _ _
  · rfl

theorem State.ended_cores (s : State) (p code : Nat) : (s.ended p code).cores = s.cores :=
  (State.abandonAll_cores _ _ _).trans (s.dropRounds_cores p)

theorem State.dropRestore_cores (s : State) (p : Nat) : (s.dropRestore p).cores = s.cores := by
  unfold State.dropRestore
  split
  · split
    · rw [State.setArb_cores, State.setFld_cores]
    · rfl
  · rfl

/-- Stopping them is all that a termination does to the cores. -/
theorem State.terminate_cores {s : State} {p : Nat} (h : (s.part p).live = true) (code : Nat) (l : Loc) :
    (s.terminate p code l).cores = (s.stopped p code l).cores := by
  rw [State.terminate_of_live h, State.dropCmd_cores, State.sendTermination_cores, State.dropRestore_cores, State.ended_cores]

/-- A termination leaves the counting flags of every core (R148). -/
theorem State.flags_terminate (s : State) (p code : Nat) (l : Loc) (j : Nat) : ((s.terminate p code l).core j).flags = (s.core j).flags := by
  have hkill : ∀ (s : State) (c : Nat), ((s.killCore c).core j).flags = (s.core j).flags := fun s c => by
    rw [State.core_killCore]
    split <;> rfl
  cases h : (s.part p).live
  · rw [State.terminate_of_ended h, State.core_of_cores (s.recode_cores p code l)]
  · rw [State.core_of_cores (State.terminate_cores h code l)]
    exact (State.foldl_leaves (fun s => (s.core j).flags) hkill _ _).trans (congrArg Core.flags (State.core_of_cores (s.reported_cores p code l) j))

end Sys2Proof.Machine
end

section
/-! Chapter 4 of the manual: the counting flags. -/

namespace Sys2Proof.Machine

/-! ### A flag's value (R142) -/

@[simp] theorem Core.flag_setFlag_self (x : Core) (n v : Nat) : (x.setFlag n v).flag n = v := by
  unfold Core.setFlag Core.flag
  split
  · rename_i h
    simp [Tab.get, h]
  · exact Tab.get_put_self _ _ _ _

theorem Core.flag_setFlag_ne (x : Core) {n m : Nat} (v : Nat) (h : m ≠ n) : (x.setFlag n v).flag m = x.flag m := by
  unfold Core.setFlag Core.flag
  split
  · simp only [Tab.get, Tab.find_del_ne _ h]
  · exact Tab.get_put_ne _ _ _ h

theorem Core.flag_of_flags {x y : Core} (h : y.flags = x.flags) (n : Nat) : y.flag n = x.flag n := by simp only [Core.flag, h]

theorem Core.added_of_adds {x y : Core} (h : y.adds = x.adds) (n t : Nat) : y.added n t = x.added n t := by simp only [Core.added, h]

/-! ### An add to a flag (R143, R148, R182) -/

/-- The core after an add to a flag in ECLK `t`. -/
def Core.addTo (x : Core) (n amount t : Nat) : Core :=
  { x.setFlag n (x.flag n + amount) with adds := Tab.put x.adds n (t, x.added n t + amount) }

/-- The core after an add that does not take effect: those of ECLK `t` before it do not either. -/
def Core.takeBack (x : Core) (n t : Nat) : Core := x.setFlag n (x.flag n - x.added n t)

section

variable {s : State} {k n amount : Nat}

theorem State.addFlag_of_fits (h : (s.core k).flag n + amount < 2 ^ 32) (c : Nat) (st : Strm) (pc : Nat) :
    s.addFlag k n amount c st pc = s.setCore k ((s.core k).addTo n amount s.clock.eclk) := by
  have hno : (s.core k).flagOverflows n amount = false := decide_eq_false (by omega)
  simp only [State.addFlag, hno, Bool.false_eq_true, if_false]
  rfl

theorem State.addFlag_of_overflows (h : 2 ^ 32 ≤ (s.core k).flag n + amount) (c : Nat) (st : Strm) (pc : Nat) :
    s.addFlag k n amount c st pc = (s.setCore k ((s.core k).takeBack n s.clock.eclk)).abort c tFlagOverflow st pc := if_pos (decide_eq_true h)

/-- The program that holds the adding core ends with FLAG_OVERFLOW (R148). -/
theorem State.addFlag_of_overflows_of_partOf (h : 2 ^ 32 ≤ (s.core k).flag n + amount) {c p : Nat} (hp : s.partOf c = some p) (st : Strm) (pc : Nat) :
    s.addFlag k n amount c st pc = (s.setCore k ((s.core k).takeBack n s.clock.eclk)).terminate p tFlagOverflow (.at c st pc) := by
  rw [State.addFlag_of_overflows h, State.abort, State.partOf_setCore, hp]

theorem State.addFlag_setCore_of_fits (s : State) {k n amount : Nat} {y : Core} (h : y.flag n + amount < 2 ^ 32) (c : Nat) (st : Strm) (pc : Nat) :
    (s.setCore k y).addFlag k n amount c st pc = s.setCore k (y.addTo n amount s.clock.eclk) := by
  have hy : ((s.setCore k y).core k).flag n + amount < 2 ^ 32 := by rwa [State.core_setCore_self]
  rw [State.addFlag_of_fits hy, State.core_setCore_self, State.setCore_setCore, State.setCore_clock]

theorem State.addFlag_setCore_of_overflows {s : State} {k n amount : Nat} {y : Core} (h : 2 ^ 32 ≤ y.flag n + amount) {c p : Nat} (hp : s.partOf c = some p)
    (st : Strm) (pc : Nat) :
    (s.setCore k y).addFlag k n amount c st pc = (s.setCore k (y.takeBack n s.clock.eclk)).terminate p tFlagOverflow (.at c st pc) := by
  have hy : 2 ^ 32 ≤ ((s.setCore k y).core k).flag n + amount := by rwa [State.core_setCore_self]
  have hp' : (s.setCore k y).partOf c = some p := by rwa [State.partOf_setCore]
  rw [State.addFlag_of_overflows_of_partOf hy hp', State.core_setCore_self, State.setCore_setCore, State.setCore_clock]

end

theorem State.flags_abort (s : State) (c code : Nat) (st : Strm) (pc j : Nat) : ((s.abort c code st pc).core j).flags = (s.core j).flags := by
  unfold State.abort
  split
  · exact State.flags_terminate _ _ _ _ _
  · rfl

/-- An add past 2^32 − 1 changes no flag but that it was made to, which loses what its ECLK had added (R148, R182). -/
theorem State.flag_addFlag_of_overflows {s : State} {k n amount : Nat} (h : 2 ^ 32 ≤ (s.core k).flag n + amount) (c : Nat) (st : Strm) (pc j f : Nat) :
    ((s.addFlag k n amount c st pc).core j).flag f =
      if j = k ∧ f = n then (s.core k).flag n - (s.core k).added n s.clock.eclk else (s.core j).flag f := by
  rw [State.addFlag_of_overflows h, Core.flag_of_flags (State.flags_abort _ _ _ _ _ _)]
  by_cases hj : j = k
  · subst hj
    rw [State.core_setCore_self]
    by_cases hf : f = n
    · subst hf
      rw [if_pos ⟨rfl, rfl⟩]
      exact Core.flag_setFlag_self _ _ _
    · rw [if_neg (fun hjf => hf hjf.2)]
      exact Core.flag_setFlag_ne _ _ hf
  · rw [State.core_setCore_ne _ _ hj, if_neg (fun hjf => hj hjf.1)]

/-! ### FADD and FWAIT (R143, R148, R182) -/

section

variable {s : State} {c p k f n : Nat} {st : Strm}

theorem exec_fadd_of_issuer (h : s.issuer c st (.fadd f n) = some (p, k)) (hwf : Instr.wf (.fadd c st f n) = true) :
    exec (.fadd c st f n) s = .next ((s.setCore k ((s.core k).setStream st ((s.core k).stream st).advance)).addFlag k f n c st ((s.core k).stream st).pc) := by
  show execFadd c st f n s = _
  rw [execFadd, guardWf_of_wf hwf]
  simp only [h, State.control_of_issuer h]
  rfl

theorem exec_fadd_of_fits (h : s.issuer c st (.fadd f n) = some (p, k)) (hwf : Instr.wf (.fadd c st f n) = true) (hfit : (s.core k).flag f + n < 2 ^ 32) :
    exec (.fadd c st f n) s = .next (s.setCore k (((s.core k).setStream st ((s.core k).stream st).advance).addTo f n s.clock.eclk)) := by
  rw [exec_fadd_of_issuer h hwf, State.addFlag_setCore_of_fits]
  rwa [Core.flag_of_flags (Core.flags_setStream _ _ _)]

theorem exec_fadd_of_overflows (h : s.issuer c st (.fadd f n) = some (p, k)) (hwf : Instr.wf (.fadd c st f n) = true) (hover : 2 ^ 32 ≤ (s.core k).flag f + n) :
    exec (.fadd c st f n) s = .next ((s.setCore k (((s.core k).setStream st ((s.core k).stream st).advance).takeBack f s.clock.eclk)).terminate p
      tFlagOverflow (.at c st ((s.core k).stream st).pc)) := by
  rw [exec_fadd_of_issuer h hwf, State.addFlag_setCore_of_overflows _ (State.partOf_of_issuer h)]
  rwa [Core.flag_of_flags (Core.flags_setStream _ _ _)]

theorem exec_fwait_of_reached (h : s.issuer c st (.fwait f n) = some (p, k)) (hwf : Instr.wf (.fwait c st f n) = true) (hn : n ≤ (s.core k).flag f) :
    exec (.fwait c st f n) s = .next (s.setCore k (((s.core k).setStream st ((s.core k).stream st).advance).setFlag f ((s.core k).flag f - n))) := by
  show execFwait c st f n s = _
  rw [execFwait, guardWf_of_wf hwf]
  simp only [h, hn, if_true, State.control_of_issuer h]
  cases st <;> rfl

theorem exec_fwait_of_short (h : s.issuer c st (.fwait f n) = some (p, k)) (hwf : Instr.wf (.fwait c st f n) = true) (hn : (s.core k).flag f < n) :
    exec (.fwait c st f n) s = .next (s.setCore k ((s.core k).setStream st { (s.core k).stream st with state := 3, stall := 4, obj := f })) := by
  show execFwait c st f n s = _
  rw [execFwait, guardWf_of_wf hwf]
  simp only [h, Nat.not_le.2 hn, if_false, State.stall_eq]

end

/-! ### COMPLETION_FLAG_ADD (R147, R148, R182) -/

theorem exec_completionFlagAdd_of_comp {s : State} {c k f : Nat} {e : Comp} (hc : c < 128) (hf : f < 64) (hk : s.phys c = some k)
    (he : (s.core k).comps.find? (fun e => e.flag == f) = some e) :
    exec (.completionFlagAdd c f) s =
      .next ((s.setCore k { s.core k with comps := (s.core k).comps.erase e }).addFlag k f 1 c e.st e.pc) := by
  have hwf : Instr.wf (.completionFlagAdd c f) = true := by simp [Instr.wf, wfCore, hc, hf]
  show execCompletionFlagAdd c f s = _
  rw [execCompletionFlagAdd, guardWf_of_wf hwf]
  simp only [hk, he]
  rfl

/-! ### REMOTE_FLAG_ADD (R143, R148, R182, R450) -/

/-- A freed tracker may let the core's A-stream go on, and changes nothing else (R323). -/
theorem State.freeStream_eq (s : State) (k : Nat) : ∃ cores, s.freeStream k = { s with cores := cores } := by
  unfold State.freeStream
  simp only
  split
  · exact ⟨_, rfl⟩
  · exact ⟨s.cores, rfl⟩

theorem State.setFld_freeStream_eq (s : State) (a hi lo v k : Nat) : ∃ regs cores, (s.setFld a hi lo v).freeStream k = { s with regs := regs, cores := cores } ∧
    ∀ b, b ≠ a → State.reg { s with regs := regs } b = s.reg b := by
  obtain ⟨cores, h⟩ := (s.setFld a hi lo v).freeStream_eq k
  exact ⟨(s.setFld a hi lo v).regs, cores, h, fun b hb => s.reg_setFld_ne hi lo v hb⟩

/-- What freeing a tracker leaves: all but requests in flight, the tracker count and cores (R322). -/
theorem State.freeReq_eq (s : State) (r : FabReq) : ∃ fab regs cores, s.freeReq r = { s with fab := fab, regs := regs, cores := cores } ∧
    ∀ b, b ≠ rFeedStat r.core → State.reg { s with regs := regs } b = s.reg b := by
  obtain ⟨regs, cores, h, hregs⟩ := State.setFld_freeStream_eq { s with fab := s.fab.filter (fun x => x.id != r.id) } (rFeedStat r.core) 63 53
    (State.trackers { s with fab := s.fab.filter (fun x => x.id != r.id) } r.core) r.core
  exact ⟨_, regs, cores, h, hregs⟩

theorem State.reg_freeReq_ne (s : State) (r : FabReq) {a : Nat} (h : a ≠ rFeedStat r.core) : (s.freeReq r).reg a = s.reg a := by
  obtain ⟨fab, regs, cores, hr, hregs⟩ := s.freeReq_eq r
  rw [hr]
  exact hregs a h

theorem State.clock_freeReq (s : State) (r : FabReq) : (s.freeReq r).clock = s.clock := by
  obtain ⟨fab, regs, cores, h, -⟩ := s.freeReq_eq r
  rw [h]

theorem State.part_freeReq (s : State) (r : FabReq) (p : Nat) : (s.freeReq r).part p = s.part p := by
  obtain ⟨fab, regs, cores, h, -⟩ := s.freeReq_eq r
  rw [h]
  rfl

theorem State.partOf_freeReq (s : State) (r : FabReq) (c : Nat) : (s.freeReq r).partOf c = s.partOf c := by
  simp only [State.partOf, State.part_freeReq]

/-- The core map stands below the tracker counts (R503). -/
theorem State.phys_freeReq (s : State) (r : FabReq) (c : Nat) : (s.freeReq r).phys c = s.phys c := by
  by_cases hc : c < 128
  · have hne : rCmap c ≠ rFeedStat r.core := by
      unfold rCmap rFeedStat hubB coreB
      omega
    simp only [State.phys, State.reg_freeReq_ne s r hne]
  · simp only [State.phys, hc, false_and, if_false]

theorem State.logicalOf_freeReq (s : State) (r : FabReq) (k : Nat) : (s.freeReq r).logicalOf k = s.logicalOf k := by
  simp only [State.logicalOf, State.phys_freeReq]

theorem State.fenced_freeReq (s : State) (r : FabReq) {k : Nat} (h : k < 166) : (s.freeReq r).fenced k = s.fenced k := by
  have hd : k / 34 < 5 := Nat.div_lt_of_lt_mul (h.trans (by decide : 166 < 34 * 5))
  have hne : rDsup (k / 34) ≠ rFeedStat r.core := by
    unfold rDsup rFeedStat dsupB coreB
    omega
  simp only [State.fenced, State.fld, State.reg_freeReq_ne s r hne]

/-- The sender's FADDR has completed and its tracker is free (R322). -/
def State.flagSent (s : State) (r : FabReq) (o : Op) : State := (s.updCore r.core (fun x => x.finish o)).freeReq r

/-- The add reaches its target, which takes it unless the core is fenced (R450). -/
theorem exec_remoteFlagAdd_of_flag {s : State} {id tc n m c k : Nat} {r : FabReq} {o : Op} (hr : s.fabReq id = some r) (hkind : r.kind = .flag tc n m)
    (ho : (s.core r.core).op r.op = some o) (hl : s.logicalOf r.core = some c) (hk : s.phys tc = some k)
    (hroute : s.route (coreDie r.core) (coreDie k) = true) :
    exec (.remoteFlagAdd id) s = .next (
      if s.fenced k then s.flagSent r o else (s.flagSent r o).addFlag k n m c o.st o.pc) := by
  have hk' : ((s.updCore r.core (fun x => x.finish o)).freeReq r).phys tc = some k := by rw [State.phys_freeReq, State.phys_updCore, hk]
  have hl' : ((s.updCore r.core (fun x => x.finish o)).freeReq r).logicalOf r.core = some c := by
    rw [State.logicalOf_freeReq]
    exact hl
  have hf' : ((s.updCore r.core (fun x => x.finish o)).freeReq r).fenced k = s.fenced k := State.fenced_freeReq _ r (State.phys_lt hk)
  show execRemoteFlagAdd id s = _
  rw [execRemoteFlagAdd, guardWf_of_wf (rfl : Instr.wf (.remoteFlagAdd id) = true)]
  simp only [hr, hkind, hk, Option.getD_some, hroute, Bool.not_true, Bool.false_eq_true, if_false, ho, hk', hl', hf']
  rfl

/-- Settles O11: each command's add is an add to a flag, which either takes effect or ends the program. -/
theorem flagsCount : Obligations.FlagsCount := by
  unfold Obligations.FlagsCount
  refine ⟨?_, ?_, ?_, ?_⟩
  · intro s c st p k f n x y t
    refine ⟨fun h hwf hfit => ?_, fun h hwf hover => ?_, exec_fwait_of_reached, exec_fwait_of_short⟩
    · rw [exec_fadd_of_fits h hwf hfit]
      cases st <;> rfl
    · rw [exec_fadd_of_overflows h hwf hover]
      cases st <;> rfl
  · intro s c k f e hc hf hk x y t he
    have hexec := exec_completionFlagAdd_of_comp hc hf hk he
    refine ⟨fun hfit => ?_, fun p hp hover => ?_⟩
    · exact hexec.trans (congrArg _ (State.addFlag_setCore_of_fits s (y := y) hfit _ _ _))
    · exact hexec.trans (congrArg _ (State.addFlag_setCore_of_overflows (y := y) hover hp _ _))
  · intro s id tc n m c p k r o hr hkind ho hl hp hk hroute f y t
    have hf : s.flagSent r o = f := rfl
    have hclock : f.clock = s.clock := State.clock_freeReq _ _
    have hpart : f.partOf c = some p := (State.partOf_freeReq _ _ _).trans hp
    have hexec := exec_remoteFlagAdd_of_flag hr hkind ho hl hk hroute
    rw [hf] at hexec
    refine ⟨fun hfence => ?_, fun hfence hfit => ?_, fun hfence hover => ?_⟩
    · rw [hexec, if_pos hfence]
    · rw [hexec, if_neg (ne_true_of_eq_false hfence), State.addFlag_of_fits hfit, hclock]
      rfl
    · rw [hexec, if_neg (ne_true_of_eq_false hfence), State.addFlag_of_overflows_of_partOf hover hpart, hclock]
      rfl
  · intro s k n m c pc st h x kept
    refine ⟨State.flag_addFlag_of_overflows h c st pc, fun hzero j f => ?_, rfl, fun p hp => State.addFlag_of_overflows_of_partOf h hp st pc⟩
    rw [State.flag_addFlag_of_overflows h]
    split
    · rename_i hjf
      obtain ⟨rfl, rfl⟩ := hjf
      rw [hzero, Nat.sub_zero]
    · rfl

end Sys2Proof.Machine
end

section
/-! SUPPORT. Issuing an instruction that runs on: the command's form, what each part of the issue leaves of the core, and what holds the instruction. -/

namespace Sys2Proof.Machine

/-! ### The command (R125) -/

/-- Every command of an instruction that runs on asks for its issue, and the reductions settle after one of theirs. -/
theorem exec_of_issued {i : Instr} {c : Nat} {st : Strm} {o : Ovt} (h : issued i = some (c, st, o)) (hwf : Instr.wf i = true) (s : State) :
    exec i s = .next (afterIssue o (s.request c st o)) := by
  cases i <;> simp only [issued, reduceCtorEq, Option.some.injEq, Prod.mk.injEq] at h
  all_goals
    obtain ⟨rfl, rfl, rfl⟩ := h
    exact if_pos hwf

/-- OPS is the X-stream's. -/
theorem stream_of_issued_ops {i : Instr} {c : Nat} {st : Strm} {cf : Cf} {b : OpsB} (h : issued i = some (c, st, .ops cf b)) : st = .x := by
  cases i <;> simp_all [issued]

/-! ### The parts of an issue -/

section

variable (x : Core) (i : Ovt) (id : Nat)

theorem Core.arr_of_arrays {x y : Core} (h : y.arrays = x.arrays) (n : Nat) : y.arr n = x.arr n := by simp only [Core.arr, h]

@[simp] theorem Core.arr_updArr_self (n : Nat) (f : Arr → Arr) : (x.updArr n f).arr n = f (x.arr n) := Core.arr_setArr_self _ _ _

theorem Core.arr_updArr_ne {n m : Nat} (f : Arr → Arr) (h : m ≠ n) : (x.updArr n f).arr m = x.arr m := Core.arr_setArr_ne _ _ h

/-- The operation stands on its port (R565). -/
def Core.onPort : Core :=
  match portOf i with
  | some (a, q, p) => x.updArr a (fun y => y.setPort q p (y.port q p ++ [id]))
  | none => x

/-- An AMODE waits on its array (R565). -/
def Core.onArray : Core :=
  match i with
  | .amode _ b => x.updArr b.arr (fun y => { y with amode := some id })
  | _ => x

/-- The instruction names the region of its set (R94). -/
def Core.onSet : Core :=
  match namesRegion i with
  | some (a, k, m, n) => x.updArr a (fun y => { y with named := Tab.put y.named k (m, n) })
  | none => x

theorem Core.enterPort_eq : x.enterPort i id = ((x.onPort i id).onArray i id).onSet i := rfl

theorem Core.onPort_eq : x.onPort i id = { x with arrays := (x.onPort i id).arrays } := by
  unfold Core.onPort
  split <;> rfl

theorem Core.onArray_eq : x.onArray i id = { x with arrays := (x.onArray i id).arrays } := by
  unfold Core.onArray
  split <;> rfl

theorem Core.onSet_eq : x.onSet i = { x with arrays := (x.onSet i).arrays } := by
  unfold Core.onSet
  split <;> rfl

/-- Taking its port changes arrays alone. -/
theorem Core.enterPort_arrays : x.enterPort i id = { x with arrays := (x.enterPort i id).arrays } := by
  rw [Core.enterPort_eq, Core.onSet_eq, Core.onArray_eq, Core.onPort_eq]

theorem Core.ports_onArray (n : Nat) : ((x.onArray i id).arr n).ports = (x.arr n).ports := by
  unfold Core.onArray
  split
  · rename_i b
    by_cases hn : n = b.arr
    · subst hn
      rw [Core.arr_updArr_self]
    · rw [Core.arr_updArr_ne _ _ hn]
  · rfl

theorem Core.onSet_arr (n : Nat) : ∃ named, ((x.onSet i).arr n) = { x.arr n with named := named } := by
  unfold Core.onSet
  split
  · rename_i a _ _ _ _
    by_cases hn : n = a
    · subst hn
      exact ⟨_, Core.arr_updArr_self _ _ _⟩
    · exact ⟨(x.arr n).named, Core.arr_updArr_ne _ _ hn⟩
  · exact ⟨(x.arr n).named, rfl⟩

theorem Core.port_enterPort {a q p : Nat} (h : portOf i = some (a, q, p)) :
    ((x.enterPort i id).arr a).port q p = (x.arr a).port q p ++ [id] := by
  obtain ⟨named, hset⟩ := ((x.onPort i id).onArray i id).onSet_arr i a
  have harr : (((x.onPort i id).onArray i id).arr a).port q p = ((x.onPort i id).arr a).port q p := by
    simp only [Arr.port, Core.ports_onArray]
  have hport : ((x.onPort i id).arr a).port q p = (x.arr a).port q p ++ [id] := by
    simp only [Core.onPort, h, Core.arr_updArr_self]
    exact Tab.get_put_self _ _ _ _
  rw [Core.enterPort_eq, hset, ← hport, ← harr]
  rfl

theorem Core.amode_enterPort {cf : Cf} {b : AmodeB} (h : i = .amode cf b) : ((x.enterPort i id).arr b.arr).amode = some id := by
  obtain ⟨named, hset⟩ := ((x.onPort i id).onArray i id).onSet_arr i b.arr
  rw [Core.enterPort_eq, hset, h]
  exact congrArg Arr.amode (Core.arr_updArr_self _ _ _)

theorem Core.named_enterPort {a k m n : Nat} (h : namesRegion i = some (a, k, m, n)) :
    Tab.find ((x.enterPort i id).arr a).named k = some (m, n) := by
  rw [Core.enterPort_eq]
  simp only [Core.onSet, h, Core.arr_updArr_self, Tab.find_put_self]

/-- The linked group that an instruction joins or closes changes the group that the X-stream collects, and the ids its members know (R208). -/
theorem Core.linkGroup_eq : x.linkGroup i id = { x with x := { x.x with link := (x.linkGroup i id).x.link }, ops := (x.linkGroup i id).ops } := by
  unfold Core.linkGroup
  split
  · simp only
    split
    · rfl
    · split <;> rfl
  · rfl

theorem Core.linkGroup_of_ne (h : ∀ cf b, i ≠ .ops cf b) : x.linkGroup i id = x := by
  unfold Core.linkGroup
  split
  · exact absurd rfl (h _ _)
  · rfl

/-- Of an instruction, all but its linked group. -/
def Op.bare (o : Op) : Op := { o with group := [] }

theorem Core.bare_linkGroup : (x.linkGroup i id).ops.map Op.bare = x.ops.map Op.bare := by
  unfold Core.linkGroup
  split
  · simp only
    split
    · rfl
    · split
      · rfl
      · rw [List.map_map]
        refine List.map_congr_left fun o _ => ?_
        simp only [Function.comp]
        split <;> rfl
  · rfl

/-- With its member without LINK a group closes: every member knows the group's ids (R208). -/
theorem Core.group_linkGroup {cf : Cf} {b : OpsB} (hs : b.steps ≠ 0) (hl : b.link = false) {e : Op} (he : e ∈ (x.linkGroup (.ops cf b) id).ops)
    (hm : (x.x.link ++ [id]).contains e.id = true) : e.group = x.x.link ++ [id] := by
  simp only [Core.linkGroup, if_neg hs, hl, Bool.false_eq_true, if_false, List.mem_map] at he
  obtain ⟨o, -, rfl⟩ := he
  split
  · rfl
  · rename_i hno
    rw [if_neg hno] at hm
    exact absurd hm hno

/-- A place among a slot's writes changes slots alone (R156). -/
theorem Core.queueWrite_eq : x.queueWrite i id = { x with slots := (x.queueWrite i id).slots } := by
  unfold Core.queueWrite
  split <;> rfl

theorem Core.slot_queueWrite (cf : Cf) (g q : Nat) :
    (x.queueWrite (.cload cf g q) id).slot q = { x.slot q with writes := (x.slot q).writes ++ [⟨some id, none⟩] } := Tab.get_put_self _ _ _ _

/-- A REPOCH counts on its channel (R375). -/
def Core.countOrd : Core :=
  match i with
  | .repoch _ r _ _ => { x with ords := Tab.upd x.ords 0 r (· + 1) }
  | _ => x

theorem Core.countOrd_eq : x.countOrd i = { x with ords := (x.countOrd i).ords } := by
  unfold Core.countOrd
  split <;> rfl

theorem Core.ords_countOrd (cf : Cf) (r d l : Nat) : Tab.get (x.countOrd (.repoch cf r d l)).ords 0 r = Tab.get x.ords 0 r + 1 := Tab.get_put_self _ _ _ _

theorem Core.setStream_eq (st : Strm) (t : Stream) : x.setStream st t = { x with a := (x.setStream st t).a, x := (x.setStream st t).x } := by
  cases st <;> rfl

end

/-! ### The core after an issue -/

/-- The record joins the core's instructions and takes what it needs of port, group and slot. -/
def Core.takeOp (x : Core) (i : Ovt) (r : Op) : Core :=
  ((({ x with next := x.next + 1, ops := x.ops ++ [r] } : Core).enterPort i r.id).linkGroup i r.id).queueWrite i r.id

/-- The core after the issue of an instruction that does not complete at once. -/
def Core.issueOp (x : Core) (st : Strm) (i : Ovt) (r : Op) : Core := ((x.takeOp i r).updStream st Stream.advance).countOrd i

/-- An OPS with STEPS 0 (R207). -/
def noSteps (i : Ovt) : Bool :=
  match i with
  | .ops _ b => b.steps == 0
  | _ => false

theorem State.issueOp_eq (s : State) (k : Nat) (st : Strm) (step : Nat) {i : Ovt} (cl : List Claim) (h : noSteps i = false) :
    s.issueOp k st step i cl = s.setCore k ((s.core k).issueOp st i (mkOp s (s.core k) st step i cl)) := by
  cases i
  case ops cf b =>
    have hs : b.steps ≠ 0 := by simpa [noSteps] using h
    simp only [State.issueOp, if_neg hs]
    rfl
  all_goals rfl

section

variable (x : Core) (st : Strm) (i : Ovt) (r : Op)

theorem Core.takeOp_eq : x.takeOp i r = { x with
    x := { x.x with link := (x.takeOp i r).x.link }, ops := (x.takeOp i r).ops, next := x.next + 1
    arrays := (x.takeOp i r).arrays, slots := (x.takeOp i r).slots } := by
  unfold Core.takeOp
  rw [Core.queueWrite_eq, Core.linkGroup_eq, Core.enterPort_arrays]

theorem Core.takeOp_arrays : (x.takeOp i r).arrays = (({ x with next := x.next + 1, ops := x.ops ++ [r] } : Core).enterPort i r.id).arrays := by
  unfold Core.takeOp
  rw [Core.queueWrite_eq, Core.linkGroup_eq]

theorem Core.takeOp_ops : (x.takeOp i r).ops =
    ((({ x with next := x.next + 1, ops := x.ops ++ [r] } : Core).enterPort i r.id).linkGroup i r.id).ops := by
  unfold Core.takeOp
  rw [Core.queueWrite_eq]

/-- What an issue leaves of the core: all but its streams, instructions, arrays, slots and ordinals. -/
theorem Core.issueOp_frame : x.issueOp st i r = { x with
    a := (x.issueOp st i r).a, x := (x.issueOp st i r).x, ops := (x.issueOp st i r).ops, next := x.next + 1
    arrays := (x.issueOp st i r).arrays, slots := (x.issueOp st i r).slots, ords := (x.issueOp st i r).ords } := by
  unfold Core.issueOp Core.updStream
  rw [Core.countOrd_eq, Core.setStream_eq, Core.takeOp_eq]

theorem Core.issueOp_ops : (x.issueOp st i r).ops = (x.takeOp i r).ops := by
  unfold Core.issueOp Core.updStream
  rw [Core.countOrd_eq, Core.setStream_eq]

theorem Core.issueOp_arrays : (x.issueOp st i r).arrays = (x.takeOp i r).arrays := by
  unfold Core.issueOp Core.updStream
  rw [Core.countOrd_eq, Core.setStream_eq]

theorem Core.issueOp_slots : (x.issueOp st i r).slots = (x.takeOp i r).slots := by
  unfold Core.issueOp Core.updStream
  rw [Core.countOrd_eq, Core.setStream_eq]

theorem Core.issueOp_streams : (x.issueOp st i r).a = ((x.takeOp i r).updStream st Stream.advance).a ∧
    (x.issueOp st i r).x = ((x.takeOp i r).updStream st Stream.advance).x := by
  unfold Core.issueOp
  rw [Core.countOrd_eq]
  exact ⟨rfl, rfl⟩

theorem Core.bare_issueOp : (x.issueOp st i r).ops.map Op.bare = x.ops.map Op.bare ++ [r.bare] := by
  rw [Core.issueOp_ops, Core.takeOp_ops, Core.bare_linkGroup, Core.enterPort_arrays, List.map_append]
  rfl

theorem Core.arr_issueOp (n : Nat) : (x.issueOp st i r).arr n = (({ x with next := x.next + 1, ops := x.ops ++ [r] } : Core).enterPort i r.id).arr n :=
  Core.arr_of_arrays ((x.issueOp_arrays st i r).trans (x.takeOp_arrays i r)) n

/-- The stream goes on, but for the linked group that it collects. -/
theorem Core.stream_issueOp : ∃ l, (x.issueOp st i r).stream st = { (x.stream st).advance with link := l } := by
  obtain ⟨ha, hx⟩ := x.issueOp_streams st i r
  cases st
  · refine ⟨x.a.link, ha.trans ?_⟩
    rw [Core.takeOp_eq]
    rfl
  · refine ⟨(x.takeOp i r).x.link, hx.trans ?_⟩
    rw [Core.takeOp_eq]
    rfl

/-- An issue on one stream leaves the other. -/
theorem Core.x_issueOp_a (h : ∀ cf b, i ≠ .ops cf b) : (x.issueOp .a i r).x = x.x := by
  refine (x.issueOp_streams .a i r).2.trans ?_
  show (x.takeOp i r).x = x.x
  unfold Core.takeOp
  rw [Core.queueWrite_eq, Core.linkGroup_of_ne _ _ _ h, Core.enterPort_arrays]

theorem Core.a_issueOp_x : (x.issueOp .x i r).a = x.a := by
  refine (x.issueOp_streams .x i r).1.trans ?_
  rw [Core.takeOp_eq]
  rfl

theorem Core.slot_issueOp_cload (cf : Cf) (g q : Nat) : (x.issueOp st (.cload cf g q) r).slot q =
    { x.slot q with writes := (x.slot q).writes ++ [⟨some r.id, none⟩] } := by
  have h : (x.issueOp st (.cload cf g q) r).slots = (x.takeOp (.cload cf g q) r).slots := x.issueOp_slots _ _ _
  rw [Core.slot, h]
  exact Core.slot_queueWrite _ _ _ _ _

theorem Core.ords_issueOp_repoch (cf : Cf) (h d l : Nat) : Tab.get (x.issueOp st (.repoch cf h d l) r).ords 0 h = Tab.get x.ords 0 h + 1 := by
  have ho : ((x.takeOp (.repoch cf h d l) r).updStream st Stream.advance).ords = x.ords := by
    unfold Core.updStream
    rw [Core.setStream_eq, Core.takeOp_eq]
  exact (Core.ords_countOrd _ _ _ _ _).trans (by rw [ho])

theorem Core.group_issueOp {cf : Cf} {b : OpsB} (hs : b.steps ≠ 0) (hl : b.link = false) {e : Op} (he : e ∈ (x.issueOp st (.ops cf b) r).ops)
    (hm : (x.x.link ++ [r.id]).contains e.id = true) : e.group = x.x.link ++ [r.id] := by
  rw [Core.issueOp_ops, Core.takeOp_ops] at he
  have hx : (({ x with next := x.next + 1, ops := x.ops ++ [r] } : Core).enterPort (.ops cf b) r.id).x = x.x := by rw [Core.enterPort_arrays]
  rw [← hx] at hm ⊢
  exact Core.group_linkGroup _ _ hs hl he hm

end

/-- An OPS with STEPS 0 completes as it issues: its stream goes on, its completion add falls due (R207). -/
theorem State.issueOp_of_noSteps {s : State} {k : Nat} {cf : Cf} {b : OpsB} (hs : b.steps = 0) (step : Nat) (cl : List Claim)
    (hid : ∀ o ∈ (s.core k).ops, o.id < (s.core k).next) :
    s.issueOp k .x step (.ops cf b) cl = s.setCore k { s.core k with
      x := (s.core k).x.advance, next := (s.core k).next + 1
      comps := if cf.cfe then (s.core k).comps ++ [⟨cf.cfn, .x, (s.core k).x.pc⟩] else (s.core k).comps } := by
  have hops : ((s.core k).ops ++ [mkOp s (s.core k) .x step (.ops cf b) cl]).filter (fun o => o.id != (s.core k).next) = (s.core k).ops := by
    rw [List.filter_append, List.filter_eq_self.2 fun o ho => by simpa using (hid o ho).ne]
    simp [mkOp]
  have hfin : ∀ (y : Core) (o : Op), y.finish o = { y with
      ops := y.ops.filter (fun e => e.id != o.id), comps := if o.cf.cfe then y.comps ++ [⟨o.cf.cfn, o.st, o.pc⟩] else y.comps } := fun _ _ => rfl
  simp only [State.issueOp, Core.enterPort, portOf, namesRegion, Core.linkGroup, Core.queueWrite, hs, if_true, hfin]
  refine congrArg (s.setCore k) ?_
  refine Eq.trans ?_ (congrArg (fun l => ({ s.core k with
    ops := l, x := (s.core k).x.advance, next := (s.core k).next + 1
    comps := if cf.cfe then (s.core k).comps ++ [⟨cf.cfn, .x, (s.core k).x.pc⟩] else (s.core k).comps } : Core)) hops)
  rfl

end Sys2Proof.Machine
end

section
/-! Chapter 4 of the manual: instructions that run on issue, stall, or wait for their claims. -/

namespace Sys2Proof.Machine

/-! ### What a request for issue comes to (R125, R138, R323, R565) -/

/-- A stream that stalls, with what it waits for. -/
def State.holdStream (s : State) (k : Nat) (st : Strm) (why obj : Nat) (h : Option Hold) : State :=
  s.setCore k ((s.core k).setStream st { (s.core k).stream st with state := 3, stall := why, obj := obj, hold := h })

/-- The claims of an instruction that the scoreboard has room for: it issues where none conflicts, else those in conflict wait (R138). -/
def State.claim (s : State) (k : Nat) (st : Strm) (step : Nat) (o : Ovt) : State :=
  match (claimsOf (s.core k) o).filter (fun w => !(s.core k).free st s.clock.eclk [w] (s.core k).held) with
  | [] => s.issueOp k st step o (claimsOf (s.core k) o)
  | w :: _ => s.holdStream k st 3 w.region (some ⟨s.clock.eclk, o,
      (claimsOf (s.core k) o).filter (fun w => (s.core k).free st s.clock.eclk [w] (s.core k).held),
      (claimsOf (s.core k) o).filter (fun w => !(s.core k).free st s.clock.eclk [w] (s.core k).held)⟩)

section

variable {s : State} {c p k : Nat} {st : Strm} {o : Ovt} (h : s.issuer c st o = some (p, k))

include h

theorem State.request_of_queueHold {why q : Nat} (hq : (s.core k).queueHold o = some (why, q)) : s.request c st o = s.stall k st why q := by
  simp only [State.request, h, hq]

theorem State.request_of_noPort (hq : (s.core k).queueHold o = none) (hp : portRoom (s.core k) o = false ∨ groupRoom (s.core k) o = false) :
    s.request c st o = s.stall k st 9 0 := by
  have hno : (!(portRoom (s.core k) o && groupRoom (s.core k) o)) = true := by
    obtain hp | hp := hp <;> simp [hp]
  simp only [State.request, h, hq, hno, if_true]

theorem State.request_of_noTracker (hq : (s.core k).queueHold o = none) (hf : fabricUser (s.core k) o = true) (ht : 1536 ≤ s.trackers k) :
    s.request c st o = s.stall k st 9 0 := by
  simp only [State.request, h, hq, hf, ht, decide_true, Bool.and_self, if_true, ite_self]

/-- With a port, a tracker and no queue in the way, the scoreboard decides. -/
theorem State.request_of_ready (hq : (s.core k).queueHold o = none) (hp : portRoom (s.core k) o = true) (hg : groupRoom (s.core k) o = true)
    (ht : fabricUser (s.core k) o = true → s.trackers k < 1536) :
    s.request c st o =
      if 64 < (s.core k).held.length + (claimsOf (s.core k) o).length then s.holdStream k st 7 0 (some ⟨s.clock.eclk, o, [], claimsOf (s.core k) o⟩)
      else s.claim k st (s.part p).step o := by
  have hno : (!(portRoom (s.core k) o && groupRoom (s.core k) o)) = false := by simp [hp, hg]
  have htr : (fabricUser (s.core k) o && decide (1536 ≤ s.trackers k)) = false := by
    cases hf : fabricUser (s.core k) o
    · rfl
    · simpa using ht hf
  simp only [State.request, h, hq, hno, htr, Bool.false_eq_true, if_false]
  rfl

theorem State.request_of_full (hq : (s.core k).queueHold o = none) (hp : portRoom (s.core k) o = true) (hg : groupRoom (s.core k) o = true)
    (ht : fabricUser (s.core k) o = true → s.trackers k < 1536) (hfull : 64 < (s.core k).held.length + (claimsOf (s.core k) o).length) :
    s.request c st o = s.holdStream k st 7 0 (some ⟨s.clock.eclk, o, [], claimsOf (s.core k) o⟩) :=
  (State.request_of_ready h hq hp hg ht).trans (if_pos hfull)

/-- Claims in conflict wait, the others are granted (R138). -/
theorem State.request_of_conflict (hclear : s.clear k o) {w : Claim} {r : List Claim}
    (hw : (claimsOf (s.core k) o).filter (fun e => !(s.core k).free st s.clock.eclk [e] (s.core k).held) = w :: r) :
    s.request c st o = s.holdStream k st 3 w.region (some ⟨s.clock.eclk, o,
      (claimsOf (s.core k) o).filter (fun e => (s.core k).free st s.clock.eclk [e] (s.core k).held), w :: r⟩) := by
  obtain ⟨hq, hp, hg, ht, hroom⟩ := hclear
  rw [State.request_of_ready h hq hp hg ht, if_neg (Nat.not_lt.2 hroom)]
  simp only [State.claim, hw]

/-- With no claim in conflict the instruction issues (R125). -/
theorem State.request_of_free (hclear : s.clear k o) (hfree : ∀ w ∈ claimsOf (s.core k) o, (s.core k).free st s.clock.eclk [w] (s.core k).held = true) :
    s.request c st o = s.issueOp k st (s.part p).step o (claimsOf (s.core k) o) := by
  obtain ⟨hq, hp, hg, ht, hroom⟩ := hclear
  have hw : (claimsOf (s.core k) o).filter (fun e => !(s.core k).free st s.clock.eclk [e] (s.core k).held) = [] :=
    List.filter_eq_nil_iff.2 fun w hw => by simp [hfree w hw]
  rw [State.request_of_ready h hq hp hg ht, if_neg (Nat.not_lt.2 hroom)]
  simp only [State.claim, hw]

end

section

variable {s : State} {i : Instr} {c p k : Nat} {st : Strm} {o : Ovt}

theorem exec_of_reaches (h : s.reaches i c st o p k) : exec i s = .next (afterIssue o (s.request c st o)) := by
  obtain ⟨hi, hwf, -⟩ := h
  exact exec_of_issued hi hwf s

theorem exec_of_issues (h : s.reaches i c st o p k) (hclear : s.clear k o)
    (hfree : ∀ w ∈ claimsOf (s.core k) o, (s.core k).free st s.clock.eclk [w] (s.core k).held = true) (hs : noSteps o = false) :
    exec i s = .next (afterIssue o (s.setCore k ((s.core k).issueOp st o (mkOp s (s.core k) st (s.part p).step o (claimsOf (s.core k) o))))) := by
  rw [exec_of_reaches h, State.request_of_free h.2.2 hclear hfree, State.issueOp_eq _ _ _ _ _ hs]

/-- An OPS with STEPS 0 claims nothing (R207). -/
theorem exec_ops_of_noSteps {cf : Cf} {b : OpsB} (h : s.reaches (.ops c cf b) c .x (.ops cf b) p k) (hclear : s.clear k (.ops cf b)) (hs : b.steps = 0)
    (hid : ∀ e ∈ (s.core k).ops, e.id < (s.core k).next) :
    exec (.ops c cf b) s = .next (s.setCore k { s.core k with
      x := (s.core k).x.advance, next := (s.core k).next + 1
      comps := if cf.cfe then (s.core k).comps ++ [⟨cf.cfn, .x, (s.core k).x.pc⟩] else (s.core k).comps }) := by
  have hcl : claimsOf (s.core k) (.ops cf b) = [] := if_neg fun hb => hb.1 hs
  rw [exec_of_reaches h, State.request_of_free h.2.2 hclear (by simp [hcl]), State.issueOp_of_noSteps hs _ _ hid]
  rfl

end

/-- Settles O13: each instruction's issue is `Core.issueOp` of its record, whose parts are read one by one; an OPS with STEPS 0 has its own. -/
theorem instructionIssues : Obligations.InstructionIssues := by
  unfold Obligations.InstructionIssues
  refine ⟨?_, fun s c cf b p k h hclear hs => exec_ops_of_noSteps h hclear hs⟩
  intro s c p k x able issued
  have main : ∀ i st o, able i st o → noSteps o = false → ∃ t : State, exec i s = .next t ∧ issued st o t := by
    rintro i st o ⟨hreach, hclear, hfree⟩ hs
    have hops : ∀ cf b, o = .ops cf b → st = .x := by
      rintro cf b rfl
      exact stream_of_issued_ops hreach.1
    obtain ⟨l, hstream⟩ := x.stream_issueOp st o (mkOp s x st (s.part p).step o (claimsOf x o))
    refine ⟨_, exec_of_issues hreach hclear hfree hs, _, mkOp s x st (s.part p).step o (claimsOf x o), rfl, x.bare_issueOp st o _, ?_,
      ⟨rfl, rfl, rfl, rfl, rfl, rfl, rfl⟩, ⟨rfl, rfl, rfl, rfl, rfl, rfl, rfl, rfl, rfl, rfl⟩, by rw [hstream], ?_, ?_, ?_, ?_, ?_, x.issueOp_frame st o _, ?_⟩
    · rintro cf b rfl hl e he hm
      exact x.group_issueOp st _ (by simpa [noSteps] using hs) hl he hm
    · intro a q n hp
      rw [Core.arr_issueOp]
      exact Core.port_enterPort _ _ _ hp
    · intro cf b ho
      rw [Core.arr_issueOp]
      exact Core.amode_enterPort _ _ _ ho
    · intro a n m l hn
      rw [Core.arr_issueOp]
      exact Core.named_enterPort _ _ _ hn
    · rintro cf g q rfl
      rw [Core.slot_issueOp_cload]
      exact ⟨rfl, rfl⟩
    · rintro cf h d l rfl
      exact x.ords_issueOp_repoch st _ cf h d l
    · cases st
      · exact x.x_issueOp_a o _ fun cf b ho => nomatch hops cf b ho
      · exact x.a_issueOp_x o _
  exact ⟨fun _ _ _ _ h => main _ _ _ h rfl, fun _ _ _ h => main _ _ _ h rfl, fun _ _ h => main _ _ _ h rfl, fun _ _ h => main _ _ _ h rfl,
    fun _ _ h => main _ _ _ h rfl, fun _ _ h => main _ _ _ h rfl, fun _ _ h => main _ _ _ h rfl, fun _ _ h => main _ _ _ h rfl,
    fun _ _ _ _ h => main _ _ _ h rfl, fun _ _ h => main _ _ _ h rfl, fun _ _ _ _ h => main _ _ _ h rfl,
    fun _ _ h hs => main _ _ _ h (by simpa [noSteps] using hs), fun _ _ h => main _ _ _ h rfl, fun _ _ h => main _ _ _ h rfl,
    fun _ _ h => main _ _ _ h rfl, fun _ _ h => main _ _ _ h rfl, fun _ _ _ _ h => main _ _ _ h rfl⟩

/-! ### What holds an instruction (R125, R130) -/

section

variable {x : Core} {cf : Cf} {r : Req}

theorem Core.queueHold_qstore {b : XferB} (hu : nthUnit (dstOf x (.qstore cf b)) 0 0 = some r) (hq : (x.queue b.f0).bytes.length < r.len) :
    x.queueHold (.qstore cf b) = some (1, b.f0) := by
  simp [Core.queueHold, Core.lacks, hu, hq]

theorem Core.queueHold_qload {b : XferB} (hu : nthUnit (srcOf x (.qload cf b)) 0 0 = some r) (hq : (x.queue b.f1).free < r.len) :
    x.queueHold (.qload cf b) = some (2, b.f1) := by
  have ht : x.tight b.f1 r.len = true := decide_eq_true (by omega)
  simp [Core.queueHold, hu, ht]

theorem Core.queueHold_gather {b : GatherB} (hq : (x.queue b.qi).bytes.length < 4) : x.queueHold (.gather cf b) = some (1, b.qi) := by
  simp [Core.queueHold, Core.lacks, hq]

end

/-- Settles O14: each cause is the first that a request for issue meets. -/
theorem issueStalls : Obligations.IssueStalls := by
  unfold Obligations.IssueStalls
  intro s i c st o p k h x t stalls
  have hi : s.issuer c st o = some (p, k) := h.2.2
  have hreq : ∀ {u : State}, s.request c st o = u → exec i s = .next (afterIssue o u) := fun hu => (exec_of_reaches h).trans (by rw [hu])
  refine ⟨?_, ?_, ?_, fun hq hp => ?_, fun hq hg => ?_, fun hq hf ht => ?_, fun hq hp hg ht hfull => ?_, fun hclear w r hw => ?_⟩
  · rintro cf b r rfl hu hq
    exact hreq (State.request_of_queueHold hi (Core.queueHold_qstore hu hq))
  · rintro cf b r rfl hu hq
    exact hreq (State.request_of_queueHold hi (Core.queueHold_qload hu hq))
  · rintro cf b rfl hq
    exact hreq (State.request_of_queueHold hi (Core.queueHold_gather hq))
  · exact hreq (State.request_of_noPort hi hq (.inl hp))
  · exact hreq (State.request_of_noPort hi hq (.inr hg))
  · exact hreq (State.request_of_noTracker hi hq hf ht)
  · exact hreq (State.request_of_full hi hq hp hg ht hfull)
  · exact hreq (State.request_of_conflict hi hclear hw)

/-! ### CLAIM_GRANT (R137 to R140) -/

section

variable {s : State} {c p k n : Nat} {st : Strm} {h : Hold} {w : Claim} (hp : s.partOf c = some p) (hk : s.phys c = some k)
  (hh : ((s.core k).stream st).hold = some h) (hw : h.want.find? (fun e => e.region == n) = some w)

include hp hk hh hw

theorem State.grantClaim_of_conflict (hfree : (s.core k).free st h.t [w] ((s.core k).heldBut st) = false) : s.grantClaim c st n = s := by
  simp only [State.grantClaim, hp, hk, hh, hw, hfree, Bool.false_and, Bool.false_eq_true, if_false]

section

variable (hfree : (s.core k).free st h.t [w] ((s.core k).heldBut st) = true) (hroom : (s.core k).held.length + h.want.length ≤ 64)

include hfree hroom

/-- With its last claim the instruction issues (R139). -/
theorem State.grantClaim_of_last (hl : h.want.erase w = []) :
    s.grantClaim c st n = (s.setCore k ((s.core k).setStream st { (s.core k).stream st with hold := none })).issueOp k st (s.part p).step h.ins (h.got ++ [w]) := by
  simp only [State.grantClaim, hp, hk, hh, hw, hfree, hroom, hl, decide_true, Bool.and_self, if_true, State.updCore_setCore, Core.updStream_eq,
    Core.stream_setStream_self, Core.setStream_setStream, State.part_setCore]

/-- Claims left keep the instruction waiting. -/
theorem State.grantClaim_of_more {v : Claim} {r : List Claim} (hl : h.want.erase w = v :: r) :
    s.grantClaim c st n = s.holdStream k st 3 v.region (some { h with got := h.got ++ [w], want := h.want.erase w }) := by
  simp only [State.grantClaim, hp, hk, hh, hw, hfree, hroom, hl, decide_true, Bool.and_self, if_true, State.updCore_setCore, Core.updStream_eq,
    Core.stream_setStream_self, Core.setStream_setStream]
  rfl

end

end

theorem exec_claimGrant_of_wf {c n : Nat} (hc : c < 128) (hn : n < 256) (st : Strm) (s : State) :
    exec (.claimGrant c st n) s = .next (s.grantClaim c st n).settleRed := by
  have hwf : Instr.wf (.claimGrant c st n) = true := by simp [Instr.wf, wfCore, hc, hn]
  exact if_pos hwf

/-- Claims conflict on one region, unless both read or both accumulate (R137). -/
theorem Claim.conflicts_iff (a b : Claim) :
    a.conflicts b = true ↔ a.region = b.region ∧ ¬ (a.mode = .read ∧ b.mode = .read) ∧ ¬ (a.mode = .acc ∧ b.mode = .acc) := by
  simp only [Claim.conflicts, Bool.and_eq_true, Bool.not_eq_true', Bool.or_eq_false_iff, Bool.and_eq_false_imp, beq_iff_eq, beq_eq_false_iff_ne, ne_eq,
    not_and]

/-- Settles O15: a free claim is granted, with the last of them the instruction issues; a claim in conflict is not granted. -/
theorem claimsGranted : Obligations.ClaimsGranted := by
  unfold Obligations.ClaimsGranted
  refine ⟨?_, Claim.conflicts_iff⟩
  intro s c st n p k h w hc hn hp hk x t g hh hw
  have hexec := exec_claimGrant_of_wf hc hn st s
  refine ⟨fun hfree hroom => ⟨fun v r hv => ?_, fun hnil => ?_⟩, fun hfree => ?_⟩
  · exact hexec.trans (congrArg _ (congrArg State.settleRed (State.grantClaim_of_more hp hk hh hw hfree hroom hv)))
  · rw [hexec, State.grantClaim_of_last hp hk hh hw hfree hroom hnil]
  · rw [hexec, State.grantClaim_of_conflict hp hk hh hw hfree]

end Sys2Proof.Machine
end

section
/-! Chapter 4 of the manual: transfers and gathers push to queues and pop from them. -/

namespace Sys2Proof.Machine

/-! ### The marks of a queue's words (R132) -/

/-- Marked bytes mark their words. -/
theorem mem_markWords (bs : List PByte) (pos : Nat) (l : List Nat) (n : Nat) :
    n ∈ markWords pos bs l ↔ n ∈ l ∨ ∃ (i : Nat) (b : Byte), bs[i]? = some (b, true) ∧ n = (pos + i) / 4 := by
  induction bs generalizing pos l with
  | nil => simp [markWords]
  | cons e r ih =>
    obtain ⟨v, m⟩ := e
    have hhead : (n ∈ if m then insertNat (pos / 4) l else l) ↔ n ∈ l ∨ (m = true ∧ n = pos / 4) := by
      cases m <;> simp [mem_insertNat, or_comm]
    have htail : (∃ (i : Nat) (b : Byte), ((v, m) :: r)[i]? = some (b, true) ∧ n = (pos + i) / 4) ↔
        (m = true ∧ n = pos / 4) ∨ ∃ (i : Nat) (b : Byte), r[i]? = some (b, true) ∧ n = (pos + 1 + i) / 4 := by
      constructor
      · rintro ⟨i, b, hi, hn⟩
        cases i with
        | zero =>
          obtain ⟨-, rfl⟩ : v = b ∧ m = true := by simpa using hi
          exact .inl ⟨rfl, hn⟩
        | succ i => exact .inr ⟨i, b, by simpa using hi, by rw [hn]; congr 1; omega⟩
      · rintro (⟨rfl, hn⟩ | ⟨i, b, hi, hn⟩)
        · exact ⟨0, v, rfl, hn⟩
        · exact ⟨i + 1, b, by simpa using hi, by rw [hn]; congr 1; omega⟩
    rw [markWords, ih, hhead, htail, or_assoc]

theorem Queue.poison_push (v : Queue) (bs : List PByte) (t n : Nat) :
    (v.push bs t).poison.contains n = true ↔ v.poison.contains n = true ∨
      ∃ (i : Nat) (b : Byte), bs[i]? = some (b, true) ∧ n = (v.head + v.bytes.length + i) / 4 := by
  rw [List.contains_iff_mem, List.contains_iff_mem]
  exact mem_markWords bs _ _ n

/-- A word's mark goes with its last byte. -/
theorem Queue.poison_pop (v : Queue) (n t m : Nat) :
    (v.pop n t).poison.contains m = true ↔ v.poison.contains m = true ∧ v.head + n < 4 * m + 4 := by
  rw [List.contains_iff_mem, List.contains_iff_mem]
  exact List.mem_filter.trans (and_congr_right fun _ => decide_eq_true_iff)

theorem Queue.bytes_front (v : Queue) (n : Nat) : (v.front n).map (·.1) = v.bytes.take n := by
  simp only [Queue.front, List.map_map]
  exact List.zipIdx_map_fst ..

/-- The front carries a mark where the word of one of its bytes is marked. -/
theorem Queue.any_front {v : Queue} {n : Nat} (h : n ≤ v.bytes.length) :
    (v.front n).any (·.2) = true ↔ ∃ i < n, v.poison.contains ((v.head + i) / 4) = true := by
  have hl : (v.bytes.take n).length = n := List.length_take_of_le h
  simp only [Queue.front, List.any_map, List.any_eq_true, Function.comp]
  constructor
  · rintro ⟨⟨b, i⟩, hm, hi⟩
    have hlt := (List.mem_zipIdx' hm).1
    exact ⟨i, by simpa [hl] using hlt, hi⟩
  · rintro ⟨i, hi, hm⟩
    have hi' : i < (v.bytes.take n).length := by rwa [hl]
    exact ⟨((v.bytes.take n)[i], i), List.mk_mem_zipIdx_iff_getElem?.2 (List.getElem?_eq_getElem hi'), hm⟩

/-! ### QUEUE_PUSH (R130, R132, R188) -/

section

variable {s : State} {c q k : Nat} {o : Op} {u : Req} {bs : List PByte}

theorem exec_queuePush_of_nextPush (hwf : Instr.wf (.queuePush c q) = true) (hk : s.phys c = some k) (hn : (s.core k).nextPush q = some (o, u, bs)) :
    exec (.queuePush c q) s = .next (
      if u.len ≤ ((s.core k).queue q).free then
        s.setCore k (((s.core k).setQueue q (((s.core k).queue q).push bs s.clock.eclk)).settle
          { o with pushed := o.pushed + u.len, cnt := o.cnt + 1, landed := dropLanded o.landed u.pos u.len })
      else s) := by
  show execQueuePush c q s = _
  rw [execQueuePush, guardWf_of_wf hwf]
  simp only [hk, hn]

end

/-! ### QUEUE_POP (R130, R132, R188, R196) -/

section

variable {s : State} {c q k : Nat} {o : Op} {cf : Cf} (hwf : Instr.wf (.queuePop c q []) = true) (hk : s.phys c = some k)
  (ho : ((s.core k).ops.filter (fun o => o.st == .a && o.popsFrom q)).head? = some o)

include hwf hk ho

theorem exec_queuePop_of_qstore {b : XferB} (hi : o.ins = .qstore cf b) {u : Req} (hu : nthUnit o.dst 0 o.cnt = some u)
    (hl : u.len ≤ ((s.core k).queue q).bytes.length) :
    exec (.queuePop c q []) s = .next (s.setCore k (((s.core k).setQueue q (((s.core k).queue q).pop u.len s.clock.eclk)).setOp
      { o with popped := o.popped + u.len, cnt := o.cnt + 1, landed := putLanded o.landed u.pos (((s.core k).queue q).front u.len) })) := by
  show execQueuePop c q [] s = _
  rw [execQueuePop, guardWf_of_wf hwf]
  simp only [hk, State.meetErrs_nil, State.core_setCore_self, ho, hi, hu, hl, if_true, State.setCore_setCore, State.setCore_clock]

theorem exec_queuePop_of_gather {b : GatherB} (hi : o.ins = .gather cf b) (hl : 4 ≤ ((s.core k).queue q).bytes.length) :
    exec (.queuePop c q []) s = .next ((s.setCore k ((s.core k).setQueue q (((s.core k).queue q).pop 4 s.clock.eclk))).gatherIndex k c o b
      (((s.core k).queue q).front 4)) := by
  show execQueuePop c q [] s = _
  rw [execQueuePop, guardWf_of_wf hwf]
  simp only [hk, State.meetErrs_nil, State.core_setCore_self, ho, hi, hl, if_true, State.setCore_setCore, State.setCore_clock]

end

/-! #### What a gather makes of an index (R196) -/

section

variable (s : State) (k c : Nat) (y : Core) (o : Op) (b : GatherB) {bs : List PByte} {n : Nat} (hn : ofLe (bs.map (·.1)) = n)

theorem State.gatherIndex_of_poisoned (hp : bs.any (·.2) = true) :
    (s.setCore k y).gatherIndex k c o b bs = (s.setCore k y).abort c tPoison o.st o.pc := if_pos hp

variable (hp : bs.any (·.2) = false)

include hn hp

/-- The null index adds a row of zeros. -/
theorem State.gatherIndex_of_null (hnull : n = 0xFFFFFFFF) :
    (s.setCore k y).gatherIndex k c o b bs = s.setCore k (y.settle { o with
      popped := o.popped + 4, src := o.src ++ [⟨none, b.rbytes⟩]
      landed := putLanded o.landed (segBytes o.src) (List.replicate b.rbytes (0, false)) }) := by
  subst hn
  simp only [State.gatherIndex, hp, hnull, Bool.false_eq_true, if_false, if_true, State.core_setCore_self, State.setCore_setCore]

theorem State.gatherIndex_of_inside (hnull : n ≠ 0xFFFFFFFF) (hlo : o.region.1 ≤ o.col0 + n * b.istr * 64)
    (hhi : o.col0 + n * b.istr * 64 + b.rbytes ≤ o.region.1 + o.region.2) :
    (s.setCore k y).gatherIndex k c o b bs = s.setCore k (y.settle { o with
      popped := o.popped + 4, src := o.src ++ [⟨some (o.col0 + n * b.istr * 64), b.rbytes⟩] }) := by
  subst hn
  have hin : ¬ (o.col0 + ofLe (bs.map (·.1)) * b.istr * 64 < o.region.1 ∨ o.region.1 + o.region.2 < o.col0 + ofLe (bs.map (·.1)) * b.istr * 64 + b.rbytes) := by
    omega
  simp only [State.gatherIndex, hp, hnull, hin, Bool.false_eq_true, if_false, State.core_setCore_self, State.setCore_setCore]

theorem State.gatherIndex_of_outside (hnull : n ≠ 0xFFFFFFFF)
    (hout : o.col0 + n * b.istr * 64 < o.region.1 ∨ o.region.1 + o.region.2 < o.col0 + n * b.istr * 64 + b.rbytes) :
    (s.setCore k y).gatherIndex k c o b bs = (s.setCore k y).abort c tAddressFault o.st o.pc := by
  subst hn
  simp only [State.gatherIndex, hp, hnull, hout, Bool.false_eq_true, if_false, if_true]

end

theorem State.abort_setCore {s : State} {c p : Nat} (hp : s.partOf c = some p) (k : Nat) (y : Core) (code : Nat) (st : Strm) (pc : Nat) :
    (s.setCore k y).abort c code st pc = (s.setCore k y).terminate p code (.at c st pc) := by
  rw [State.abort, State.partOf_setCore, hp]

/-- Settles O17: a push is `Queue.push` of the landed bytes, a pop `Queue.pop` of the unit's. -/
theorem queuesMove : Obligations.QueuesMove := by
  unfold Obligations.QueuesMove
  refine ⟨?_, ?_, ?_⟩
  · intro s c q k o u bs hwf hk x v hn
    have hexec := exec_queuePush_of_nextPush hwf hk hn
    refine ⟨fun hfree => ⟨v.push bs s.clock.eclk, ?_, rfl, rfl, rfl, rfl, v.poison_push bs _⟩, fun hfull => ?_⟩
    · rw [hexec, if_pos hfree]
    · rw [hexec, if_neg (Nat.not_le.2 hfull)]
  · intro s c q k o u cf b hwf hk x v ho hi hu hl
    exact ⟨v.pop u.len s.clock.eclk, exec_queuePop_of_qstore hwf hk ho hi hu hl, rfl, rfl, rfl, rfl, v.poison_pop _ _⟩
  · intro s c q k p o cf b hwf hk hp x v n y a d ho hi hl marked
    have hexec := exec_queuePop_of_gather hwf hk ho hi hl
    have hn : ofLe ((v.front 4).map (·.1)) = n := by rw [Queue.bytes_front]
    have hmark : (v.front 4).any (·.2) = true ↔ marked := Queue.any_front hl
    have hclean : ¬ marked → (v.front 4).any (·.2) = false := fun h => Bool.eq_false_iff.2 fun ht => h (hmark.1 ht)
    refine ⟨fun h => ?_, fun h hnull => ?_, fun h hnull hlo hhi => ?_, fun h hnull hout => ?_⟩
    · rw [hexec, State.gatherIndex_of_poisoned _ _ _ _ _ _ (hmark.2 h), State.abort_setCore hp]
    · rw [hexec, State.gatherIndex_of_null s k c _ o b hn (hclean h) hnull]
    · rw [hexec, State.gatherIndex_of_inside s k c _ o b hn (hclean h) hnull hlo hhi]
    · rw [hexec, State.gatherIndex_of_outside s k c _ o b hn (hclean h) hnull hout, State.abort_setCore hp]

end Sys2Proof.Machine
end

section
/-! SUPPORT. What the end of a program leaves of the state: everything but what it reports, its cores, its requests and its rounds; and which registers it changes. -/

namespace Sys2Proof.Machine

/-! ### What the stages of a termination change (R127, R223, R275, R298, R549) -/

namespace State

/-- Core `k` is stopped (R127, R549). -/
def stopCore (s : State) (k : Nat) : State := { (s.updCore k (fun x => x.kill s.free)) with free := s.free + killTags }

theorem killCore_of_phys {s : State} {c k : Nat} (h : s.phys c = some k) :
    s.killCore c = (s.addFld (rMevt c) 31 0 (s.core k).unbound).stopCore k := by
  rw [State.killCore, h]
  rfl

theorem killCore_of_none {s : State} {c : Nat} (h : s.phys c = none) : s.killCore c = s := by
  rw [State.killCore, h]

/-- `t` is `s` but for what traffic leaves behind, cores, requests in flight and potluck rounds. -/
def EndingOnly (s t : State) : Prop := State.TrafficOnly { s with cores := t.cores, fab := t.fab, pot := t.pot } t

namespace EndingOnly

variable {σ s t : State}

theorem refl (s : State) : s.EndingOnly s := rfl

theorem traffic (h : σ.EndingOnly s) (g : s.TrafficOnly t) : σ.EndingOnly t := by
  rw [EndingOnly, TrafficOnly, g, h]

/-- An update of cores, requests and rounds. -/
theorem update (h : σ.EndingOnly s) (free : Nat) (cores : Tab Core) (fab : List FabReq) (pot : Tab PotWord) :
    σ.EndingOnly { s with free := free, cores := cores, fab := fab, pot := pot } := by
  rw [EndingOnly, TrafficOnly, h]

theorem foldl {α : Type} {f : State → α → State} (h : σ.EndingOnly s) (hf : ∀ {s : State} (a : α), σ.EndingOnly s → σ.EndingOnly (f s a))
    (l : List α) : σ.EndingOnly (l.foldl f s) := by
  induction l generalizing s with
  | nil => exact h
  | cons a r ih => exact ih (hf a h)

theorem ite {c : Prop} [Decidable c] (hs : σ.EndingOnly s) (ht : σ.EndingOnly t) : σ.EndingOnly (if c then s else t) := by
  split <;> assumption

theorem parts (h : s.EndingOnly t) : t.parts = s.parts := by rw [h]

theorem mem (h : s.EndingOnly t) : t.mem = s.mem := by rw [h]

theorem clock (h : s.EndingOnly t) : t.clock = s.clock := by rw [h]

theorem epochs (h : s.EndingOnly t) : t.epochs = s.epochs := by rw [h]

theorem restore (h : s.EndingOnly t) : t.restore = s.restore := by rw [h]

theorem part (h : s.EndingOnly t) (p : Nat) : t.part p = s.part p := by simp only [State.part, h.parts]

theorem setReg (h : σ.EndingOnly s) (a v : Nat) : σ.EndingOnly (s.setReg a v) := h.traffic (.setReg (.refl s) a v)

theorem addFld (h : σ.EndingOnly s) (a hi lo v : Nat) : σ.EndingOnly (s.addFld a hi lo v) := h.traffic (.addFld (.refl s) a hi lo v)

theorem stopCore (h : σ.EndingOnly s) (k : Nat) : σ.EndingOnly (s.stopCore k) := h.update _ _ _ _

theorem killCore (h : σ.EndingOnly s) (c : Nat) : σ.EndingOnly (s.killCore c) := by
  cases hk : s.phys c with
  | none => rwa [killCore_of_none hk]
  | some k =>
    rw [killCore_of_phys hk]
    exact (h.addFld ..).stopCore k

theorem countPot (h : σ.EndingOnly s) (a : Nat) : σ.EndingOnly (s.countPot a) :=
  .ite h (h.traffic (.maxFld (.setFld (.refl s) _ _ _ _) _ _ _ _))

theorem dropRounds (h : σ.EndingOnly s) (p : Nat) : σ.EndingOnly (s.dropRounds p) :=
  foldl (h.update s.free s.cores _ _) (fun _ h => h.countPot _) _

theorem reported (h : σ.EndingOnly s) (p code : Nat) (l : Loc) : σ.EndingOnly (s.reported p code l) := by
  have hs := h.setReg (rTerm p) (termWord code (s.part p).step l)
  exact .ite (hs.traffic (.exportPhases (.refl _) _ _)) hs

theorem stopped (h : σ.EndingOnly s) (p code : Nat) (l : Loc) : σ.EndingOnly (s.stopped p code l) :=
  foldl (h.reported p code l) (fun _ h => h.killCore _) _

end EndingOnly

end State

/-! ### The registers that an end changes besides HUB_TERMp (R224) -/

/-- Export status of the partition, guard events of its cores, and potluck counts of slices (R276, R298, R311, R313). -/
def endReg (p a : Nat) : Prop := a = rPhaseStat p ∨ (∃ c < 128, a = rMevt c) ∨ ∃ n < 512, a = rSlcPot n

theorem not_endReg_rTerm {p : Nat} (hp : p < 8) : ¬ endReg p (rTerm p) := by
  unfold endReg rTerm rPhaseStat rMevt rSlcPot hubB fabB slcB
  rintro (h | ⟨c, hc, h⟩ | ⟨n, hn, h⟩) <;> omega

theorem not_endReg_rCmap {p c : Nat} (hp : p < 8) (hc : c < 128) : ¬ endReg p (rCmap c) := by
  unfold endReg rCmap rPhaseStat rMevt rSlcPot hubB fabB slcB
  rintro (h | ⟨c, hc, h⟩ | ⟨n, hn, h⟩) <;> omega

theorem not_endReg_rCollId {p : Nat} (hp : p < 8) : ¬ endReg p rCollId := by
  unfold endReg rCollId rPhaseStat rMevt rSlcPot nwtB hubB fabB slcB
  rintro (h | ⟨c, hc, h⟩ | ⟨n, hn, h⟩) <;> omega

theorem rTerm_ne_rCmap {p c : Nat} (hp : p < 8) : rCmap c ≠ rTerm p := by
  unfold rTerm rCmap hubB
  omega

theorem rTerm_ne_rCollId {p : Nat} (hp : p < 8) : rCollId ≠ rTerm p := by
  unfold rTerm rCollId hubB nwtB
  omega

theorem sliceOf_lt (a : Nat) : sliceOf a < 512 := by
  have h1 := bits_lt a 19 11
  have h2 := bits_lt a 28 20
  have h3 := bits_lt a 31 29
  exact Nat.xor_lt_two_pow (n := 9) (Nat.xor_lt_two_pow h1 h2) (by simp only [Nat.reduceAdd, Nat.reduceSub, Nat.reducePow] at h3 ⊢; omega)

/-- A partition's logical cores are among those there are (R29). -/
theorem Part.lt_of_mem_cores {q : Part} {c : Nat} (h : c ∈ q.cores) : c < 128 := by
  have h := (List.mem_filter.1 h).2
  simpa using h

theorem State.reg_of_regs {s t : State} (h : t.regs = s.regs) (a : Nat) : t.reg a = s.reg a := by simp only [State.reg, h]

theorem State.collector_of_sameRegs {s t : State} {r : Nat → Prop} (h : s.sameRegsBut t r) (hr : ¬ r rCollId) : t.collector.1 = s.collector.1 := h _ hr

namespace State.sameRegsBut

variable {σ s : State} {p : Nat}

theorem countDrop_phase (h : σ.sameRegsBut s (endReg p)) : σ.sameRegsBut (s.countDrop 1 p) (endReg p) :=
  .ite (h.addFld (.inl rfl) _ _ _) h

/-- With no collector phase records change their own status alone (R275, R276). -/
theorem exportPhases (h : σ.sameRegsBut s (endReg p)) (hp : p < 8) (hc : s.collector.1 = 0) (partly : Bool) :
    σ.sameRegsBut (s.exportPhases p partly) (endReg p) := by
  have hd : s.sameRegsBut (s.dropPhase p) (endReg p) :=
    .ite (.countDrop_phase (State.sameRegsBut.update (.refl s _) rfl)) (.refl s _)
  have hs := (hd.setFld (.inl rfl) 63 32 ((s.dropPhase p).part p).step).setFld (.inl rfl) 29 16 (s.phaseRecords p partly).length
  have hz := (State.collector_of_sameRegs hs (not_endReg_rCollId hp)).trans hc
  refine h.trans ?_
  unfold State.exportPhases
  simp only
  rw [if_pos hz]
  exact .ite hs hs.countDrop_phase

theorem stopCore (h : σ.sameRegsBut s (endReg p)) (k : Nat) : σ.sameRegsBut (s.stopCore k) (endReg p) := h.update rfl

theorem killCore (h : σ.sameRegsBut s (endReg p)) {c : Nat} (hc : c < 128) : σ.sameRegsBut (s.killCore c) (endReg p) := by
  cases hk : s.phys c with
  | none => rwa [State.killCore_of_none hk]
  | some k =>
    rw [State.killCore_of_phys hk]
    exact stopCore (h.addFld (p := endReg p) (.inr (.inl ⟨c, hc, rfl⟩)) 31 0 (s.core k).unbound) k

theorem countPot (h : σ.sameRegsBut s (endReg p)) (a : Nat) : σ.sameRegsBut (s.countPot a) (endReg p) := by
  have hr : endReg p (rSlcPot (sliceOf a)) := .inr (.inr ⟨_, sliceOf_lt a, rfl⟩)
  exact .ite h ((h.setFld hr _ _ _).maxFld hr _ _ _)

theorem dropRounds (h : σ.sameRegsBut s (endReg p)) (q : Nat) : σ.sameRegsBut (s.dropRounds q) (endReg p) := by
  unfold State.dropRounds
  exact foldl (f := State.countPot) (by exact h.update rfl) fun a _ _ h => h.countPot a

end State.sameRegsBut

/-- An end leaves the core map (R224). -/
theorem State.phys_of_endReg {s t : State} {p : Nat} (hp : p < 8) (h : s.sameRegsBut t (endReg p)) (c : Nat) : t.phys c = s.phys c := by
  by_cases hc : c < 128
  · simp only [State.phys, h _ (not_endReg_rCmap hp hc)]
  · simp only [State.phys, hc, false_and, if_false]

theorem State.phys_setReg_rTerm (s : State) {p : Nat} (hp : p < 8) (v c : Nat) : (s.setReg (rTerm p) v).phys c = s.phys c := by
  simp only [State.phys, State.reg_setReg_ne s v (rTerm_ne_rCmap hp)]

theorem State.collector_setReg_rTerm (s : State) {p : Nat} (hp : p < 8) (v : Nat) : (s.setReg (rTerm p) v).collector.1 = s.collector.1 :=
  State.reg_setReg_ne s v (rTerm_ne_rCollId hp)

/-! ### Stopped cores (R127, R549) -/

theorem Tab.find_map {α β : Type} (t : Tab α) (f : α → β) (k : Nat) : Tab.find (t.map (fun e => (e.1, f e.2))) k = (Tab.find t k).map f := by
  induction t with
  | nil => rfl
  | cons e r ih =>
    rw [List.map_cons, Tab.find, Tab.find]
    split
    · rfl
    · exact ih

/-- A queue that a stop has emptied (R127). -/
def Queue.emptied (v : Queue) : Queue := { v with head := 0, bytes := [], poison := [] }

theorem Core.queues_kill (x : Core) (tag : Nat) : (x.kill tag).queues = x.queues.map (fun e => (e.1, e.2.emptied)) := rfl

/-- The queues of a stopped core are empty. -/
theorem Core.queue_kill (x : Core) (tag q : Nat) : ((x.kill tag).queue q).bytes = [] := by
  rw [Core.queue, Core.queues_kill, Tab.get, Tab.find_map]
  cases Tab.find x.queues q <;> rfl

/-- Cores stopped one after another: one that a logical core of the list is hosted on is stopped, however often the list reaches it. -/
theorem State.core_foldl_killCore_of_mem {p k : Nat} (hp : p < 8) {l : List Nat} (hl : ∀ c ∈ l, c < 128) {c : Nat} (hc : c ∈ l) (s : State) (hk : s.phys c = some k) :
    ∃ x tag, (l.foldl State.killCore s).core k = Core.kill x tag := by
  have stays : ∀ (l : List Nat) (s : State), (∃ x tag, s.core k = Core.kill x tag) → ∃ x tag, (l.foldl State.killCore s).core k = Core.kill x tag := by
    intro l
    induction l with
    | nil => exact fun s h => h
    | cons a r ih =>
      intro s h
      refine ih _ ?_
      rw [State.core_killCore]
      split
      · exact ⟨_, _, rfl⟩
      · exact h
  induction l generalizing s with
  | nil => cases hc
  | cons a r ih =>
    obtain ⟨ha, hr⟩ := List.forall_mem_cons.1 hl
    by_cases hm : s.phys a = some k
    · refine stays r _ ?_
      rw [State.core_killCore, if_pos hm]
      exact ⟨_, _, rfl⟩
    · obtain rfl | hcr := List.mem_cons.1 hc
      · exact absurd hk hm
      · exact ih hr hcr _ ((State.phys_of_endReg hp (.killCore (.refl s (endReg p)) ha) c).trans hk)

theorem State.core_foldl_killCore_of_notMem {p k : Nat} (hp : p < 8) {l : List Nat} (hl : ∀ c ∈ l, c < 128) (s : State) (hk : ∀ c ∈ l, s.phys c ≠ some k) :
    (l.foldl State.killCore s).core k = s.core k := by
  induction l generalizing s with
  | nil => rfl
  | cons a r ih =>
    obtain ⟨ha, hr⟩ := List.forall_mem_cons.1 hl
    obtain ⟨hka, hkr⟩ := List.forall_mem_cons.1 hk
    rw [List.foldl_cons, ih hr, State.core_killCore, if_neg hka]
    intro c hc
    rw [State.phys_of_endReg hp (.killCore (.refl s (endReg p)) ha)]
    exact hkr c hc

/-! ### A termination without epochs, restore, collector or command (R127, R223) -/

/-- No round of the partition is left. -/
theorem State.pot_dropRounds (s : State) (p : Nat) : (s.dropRounds p).pot = s.pot.filter (fun e => e.2.part != p) := by
  refine (State.foldl_leaves State.pot (fun s a => ?_) _ _).trans rfl
  unfold State.countPot
  split
  · rfl
  · exact (State.maxFld_pot _ _ _ _ _).trans (State.setFld_pot _ _ _ _ _)

theorem State.sendTermination_of_none {s : State} (h : s.collector.1 = 0) (p w : Nat) : s.sendTermination p w = s := if_pos h

theorem State.dropCmd_of_none {s : State} {p : Nat} (h : (s.part p).cmd = none) : s.dropCmd p = s := by simp only [State.dropCmd, h]

theorem State.dropRestore_of_none {s : State} (h : s.restore = none) (p : Nat) : s.dropRestore p = s := by simp only [State.dropRestore, h]

theorem State.abandonAll_of_none {s : State} (h : s.epochs = []) (p : Option Nat) (reason : Nat) : s.abandonAll p reason = s := by
  simp only [State.abandonAll, h, List.foldl_nil]

section

variable {s : State} {p : Nat} (hp : p < 8) (code : Nat) (l : Loc)

include hp

theorem State.reported_regs (hc : s.collector.1 = 0) : (s.setReg (rTerm p) (termWord code (s.part p).step l)).sameRegsBut (s.reported p code l) (endReg p) :=
  .ite (.exportPhases (.refl _ _) hp ((s.collector_setReg_rTerm hp _).trans hc) _) (.refl _ _)

theorem State.stopped_regs (hc : s.collector.1 = 0) : (s.setReg (rTerm p) (termWord code (s.part p).step l)).sameRegsBut (s.stopped p code l) (endReg p) :=
  .foldl (State.reported_regs hp code l hc) fun _ hm _ h => h.killCore (Part.lt_of_mem_cores hm)

theorem State.phys_reported (hc : s.collector.1 = 0) (c : Nat) : (s.reported p code l).phys c = s.phys c :=
  (State.phys_of_endReg hp (State.reported_regs hp code l hc) c).trans (s.phys_setReg_rTerm hp _ c)

/-- The program's cores are stopped, each other is as it was. -/
theorem State.core_stopped_of_mem (hc : s.collector.1 = 0) {c k : Nat} (hm : c ∈ (s.part p).cores) (hk : s.phys c = some k) :
    ∃ x tag, (s.stopped p code l).core k = Core.kill x tag :=
  State.core_foldl_killCore_of_mem hp (fun _ h => Part.lt_of_mem_cores h) hm _ ((State.phys_reported hp code l hc c).trans hk)

theorem State.core_stopped_of_notMem (hc : s.collector.1 = 0) {k : Nat} (hk : ∀ c ∈ (s.part p).cores, s.phys c ≠ some k) :
    (s.stopped p code l).core k = s.core k := by
  refine (State.core_foldl_killCore_of_notMem hp (fun _ h => Part.lt_of_mem_cores h) _ fun c hm => ?_).trans
    (State.core_of_cores (s.reported_cores p code l) k)
  rw [State.phys_reported hp code l hc]
  exact hk c hm

/-- Nothing but the report, the stopped cores and the dropped rounds is left to do. -/
theorem State.terminate_of_plain (hlive : (s.part p).live = true) (he : s.epochs = []) (hr : s.restore = none) (hc : s.collector.1 = 0)
    (hcmd : (s.part p).cmd = none) :
    s.terminate p code l = ((s.stopped p code l).dropRounds p).updPart p (fun x => { x with st := .ending, endedAt := some s.clock.eclk }) := by
  have hend : s.EndingOnly (s.stopped p code l) := .stopped (.refl s) p code l
  have hdrop : s.EndingOnly ((s.stopped p code l).dropRounds p) := hend.dropRounds p
  have hregs := (State.stopped_regs hp code l hc).dropRounds p
  have hcoll : ((s.stopped p code l).dropRounds p).collector.1 = 0 :=
    (State.collector_of_sameRegs hregs (not_endReg_rCollId hp)).trans ((s.collector_setReg_rTerm hp _).trans hc)
  rw [State.terminate_of_live hlive, State.ended, State.abandonAll_of_none (hdrop.epochs.trans he), hend.clock]
  generalize (s.stopped p code l).dropRounds p = u at hdrop hcoll
  have hr' : (u.updPart p (fun x => { x with st := .ending, endedAt := some s.clock.eclk })).restore = none := hdrop.restore.trans hr
  have hcoll' : (u.updPart p (fun x => { x with st := .ending, endedAt := some s.clock.eclk })).collector.1 = 0 := hcoll
  have hcmd' : ((u.updPart p (fun x => { x with st := .ending, endedAt := some s.clock.eclk })).part p).cmd = none := by
    rw [State.part_updPart_self, hdrop.part]
    exact hcmd
  rw [State.dropRestore_of_none hr', State.sendTermination_of_none hcoll', State.dropCmd_of_none hcmd']

end

/-! ### A cause after the end (R225) -/

theorem State.recode_of_not {s : State} {p code : Nat} (l : Loc)
    (h : (s.part p).st ≠ .ending ∨ (s.part p).endedAt ≠ some s.clock.eclk ∨ s.fld (rTerm p) 63 56 ≤ code) : s.recode p code l = s :=
  if_neg fun ⟨h1, h2, h3⟩ => by
    obtain h | h | h := h
    · exact h h1
    · exact h h2
    · omega

/-- Another cause of the same ECLK with a lower code is the one reported. -/
theorem State.recode_of_lower {s : State} {p code : Nat} (l : Loc) (h1 : (s.part p).st = .ending) (h2 : (s.part p).endedAt = some s.clock.eclk)
    (h3 : code < s.fld (rTerm p) 63 56) :
    ∃ conns outbox, s.recode p code l = { s.setReg (rTerm p) (termWord code (s.part p).step l) with conns := conns, outbox := outbox } :=
  ⟨_, _, if_pos ⟨h1, h2, h3⟩⟩

end Sys2Proof.Machine
end

section
/-! Chapter 4 of the manual: programs are terminated. -/

namespace Sys2Proof.Machine

/-! ### HW_FAULT and STALL_TIMEOUT (R149, R223, R444) -/

section

variable {s : State} {c p : Nat}

theorem exec_hwFault_of_partOf (hc : c < 128) {k : Nat} (hp : s.partOf c = some p) (hk : s.phys c = some k) :
    exec (.hwFault c) s = .next ((s.unitEvent (unitCore k) evUe 0).terminate p tHwFault (.core c)) := by
  have hwf : Instr.wf (.hwFault c) = true := decide_eq_true hc
  show execHwFault c s = _
  rw [execHwFault, guardWf_of_wf hwf]
  simp only [hp, hk]

theorem exec_hwFault_of_none (hc : c < 128) (hp : s.partOf c = none) : exec (.hwFault c) s = .next s := by
  have hwf : Instr.wf (.hwFault c) = true := decide_eq_true hc
  show execHwFault c s = _
  rw [execHwFault, guardWf_of_wf hwf]
  simp only [hp]

theorem exec_stallTimeout_of_open (hp : p < 8) (h : (s.part p).st = .running ∨ (s.part p).st = .loaded) :
    exec (.stallTimeout p) s = .next (s.terminate p tStall .none) := by
  have hwf : Instr.wf (.stallTimeout p) = true := decide_eq_true hp
  show execStallTimeout p s = _
  rw [execStallTimeout, guardWf_of_wf hwf]
  obtain h | h := h <;> simp only [h]

/-- At a closed step the program ends unless the step is being secured. -/
theorem exec_stallTimeout_of_closed (hp : p < 8) (h : (s.part p).st = .closed) :
    exec (.stallTimeout p) s = .next (if s.cairnOut.any (fun w => w.part == p) then s else s.terminate p tStall .none) := by
  have hwf : Instr.wf (.stallTimeout p) = true := decide_eq_true hp
  show execStallTimeout p s = _
  rw [execStallTimeout, guardWf_of_wf hwf]
  simp only [h]

end

/-- Settles O30: a termination is read off its stages, a later cause off `State.recode`. -/
theorem programsTerminate : Obligations.ProgramsTerminate := by
  unfold Obligations.ProgramsTerminate
  refine ⟨fun s p code l hp => ⟨fun hdead hlate => ?_, fun hst hat hlow => ?_, fun hlive he hr hc hcmd => ?_⟩, fun s c p k hc hp =>
    ⟨exec_hwFault_of_partOf hc, exec_hwFault_of_none hc, exec_stallTimeout_of_open hp, fun hst hfree => ?_, fun w hst hw hwp => ?_⟩⟩
  · rw [State.terminate_of_ended hdead, State.recode_of_not l hlate]
  · intro t
    have hdead : (s.part p).live = false := by simp [Part.live, hst]
    obtain ⟨conns, outbox, ht⟩ := State.recode_of_lower l hst hat hlow
    have ht : t = { s.setReg (rTerm p) (termWord code (s.part p).step l) with conns := conns, outbox := outbox } :=
      (State.terminate_of_ended hdead code l).trans ht
    have hreg : ∀ a, t.reg a = (s.setReg (rTerm p) (termWord code (s.part p).step l)).reg a := fun a => by
      rw [ht]
      exact State.reg_of_regs rfl a
    refine ⟨(hreg _).trans (State.reg_setReg_self _ _ _), fun a ha => (hreg a).trans (State.reg_setReg_ne _ _ ha), ?_⟩
    rw [ht]
    rfl
  · intro t
    have ht : t = _ := State.terminate_of_plain hp code l hlive he hr hc hcmd
    have hend : s.EndingOnly ((s.stopped p code l).dropRounds p) := (State.EndingOnly.stopped (.refl s) p code l).dropRounds p
    have hcore : ∀ k, t.core k = (s.stopped p code l).core k := fun k =>
      (congrArg (State.core · k) ht).trans (State.core_of_cores (State.dropRounds_cores _ p) k)
    have hreg : t.reg (rTerm p) = ((s.stopped p code l).dropRounds p).reg (rTerm p) := by
      rw [ht]
      rfl
    refine ⟨?_, ?_, ?_, fun c k hm hk => ?_, fun k hk => ?_, ?_, fun q hq => ?_, fun e hm => ?_⟩
    · rw [hreg, ((State.stopped_regs hp code l hc).dropRounds p) _ (not_endReg_rTerm hp), State.reg_setReg_self]
    · rw [ht, State.part_updPart_self]
    · rw [ht, State.part_updPart_self]
    · obtain ⟨x, tag, hx⟩ := State.core_stopped_of_mem hp code l hc hm hk
      rw [hcore, hx]
      exact ⟨rfl, rfl, rfl, rfl, x.queue_kill tag⟩
    · rw [hcore, State.core_stopped_of_notMem hp code l hc hk]
    · rw [ht]
      exact hend.mem
    · rw [ht, State.part_updPart_ne _ _ hq, hend.part]
    · rw [ht] at hm
      have hm : e ∈ ((s.stopped p code l).dropRounds p).pot := hm
      rw [State.pot_dropRounds] at hm
      simpa using (List.mem_filter.1 hm).2
  · have hno : s.cairnOut.any (fun w => w.part == p) = false := by simpa [Option.any_eq_false] using hfree
    rw [exec_stallTimeout_of_closed hp hst, hno]
    rfl
  · have hany : s.cairnOut.any (fun w => w.part == p) = true := by simp [hw, hwp]
    rw [exec_stallTimeout_of_closed hp hst, if_pos hany]

end Sys2Proof.Machine
end

section
/-! Chapter 4 of the manual: programs end and partitions are released. -/

namespace Sys2Proof.Machine

/-! ### The end of an epoch without an outcome changes epochs and group tables (R359, R551) -/

namespace State

/-- `t` is `s` but for its epochs and its group tables. -/
def EpochsOnly (s t : State) : Prop := t = { s with epochs := t.epochs, groups := t.groups, groupPend := t.groupPend }

namespace EpochsOnly

variable {σ s t : State}

theorem refl (s : State) : s.EpochsOnly s := rfl

/-- An update of epochs and group tables. -/
theorem update (h : σ.EpochsOnly s) (epochs : Tab Epoch) (groups groupPend : Tab Group) :
    σ.EpochsOnly { s with epochs := epochs, groups := groups, groupPend := groupPend } := by
  rw [h]
  rfl

theorem applyGroup (h : σ.EpochsOnly s) (g : Nat) : σ.EpochsOnly (s.applyGroup g) := by
  unfold State.applyGroup
  split
  · split
    · exact h
    · exact h.update _ _ _
  · exact h

theorem shutEpoch (h : σ.EpochsOnly s) (ch : Nat) : σ.EpochsOnly (s.shutEpoch ch) := by
  unfold State.shutEpoch
  split
  · exact h
  · exact applyGroup (h.update _ _ _) _

theorem foldl {α : Type} {f : State → α → State} (h : σ.EpochsOnly s) (hf : ∀ {s : State} (a : α), σ.EpochsOnly s → σ.EpochsOnly (f s a))
    (l : List α) : σ.EpochsOnly (l.foldl f s) := by
  induction l generalizing s with
  | nil => exact h
  | cons a r ih => exact ih (hf a h)

end EpochsOnly

/-! ### A released partition (R551) -/

/-- A release takes the partition's entry, and leaves everything but epochs, group tables and the past. -/
theorem release_eq (s : State) (p : Nat) : ∃ epochs groups pend past,
    s.release p = { s with parts := Tab.del s.parts p, epochs := epochs, groups := groups, groupPend := pend, past := past } := by
  have h : s.EpochsOnly (s.epochs.foldl (fun s (e : Nat × Epoch) => if e.2.part = p then s.shutEpoch e.1 else s) s) := by
    refine (EpochsOnly.refl s).foldl (fun e h => ?_) _
    split
    · exact h.shutEpoch _
    · exact h
  unfold State.release
  generalize s.epochs.foldl (fun s (e : Nat × Epoch) => if e.2.part = p then s.shutEpoch e.1 else s) s = t at h
  exact ⟨_, _, _, _, by rw [h]⟩

theorem release_part_self (s : State) (p : Nat) : (s.release p).part p = Part.reset := by
  obtain ⟨_, _, _, _, h⟩ := s.release_eq p
  rw [h]
  simp only [State.part, Tab.get, Tab.find_del_self, Option.getD_none]

theorem release_part_ne (s : State) {p q : Nat} (hq : q ≠ p) : (s.release p).part q = s.part q := by
  obtain ⟨_, _, _, _, h⟩ := s.release_eq p
  rw [h]
  simp only [State.part, Tab.get, Tab.find_del_ne _ hq]

theorem release_leaves (s : State) (p : Nat) : (s.release p).mem = s.mem ∧ (s.release p).cores = s.cores ∧ (s.release p).regs = s.regs := by
  obtain ⟨_, _, _, _, h⟩ := s.release_eq p
  rw [h]
  exact ⟨rfl, rfl, rfl⟩

/-! ### A program that has reached its end (R126, R224) -/

/-- The end is shown in HUB_TERMp, and the step's phase records have gone out. -/
def endShown (s : State) (p : Nat) : State := (s.setReg (rTerm p) (termWord tEnded (s.part p).step .none)).exportPhases p false

/-- The partition's program runs no longer, and nothing else changes. -/
def endPart (s : State) (p : Nat) : State := s.updPart p (fun x => { x with st := .ending })

theorem endPart_reg (s : State) (p a : Nat) : (s.endPart p).reg a = s.reg a := rfl

theorem endPart_collector (s : State) (p : Nat) : (s.endPart p).collector = s.collector := rfl

theorem endPart_phys (s : State) (p c : Nat) : (s.endPart p).phys c = s.phys c := rfl

/-- The end is shown and the program no longer runs. -/
def endedNormally (s : State) (p : Nat) : State := (s.endShown p).endPart p

/-- A normal end: the report, the message to the collector, the answer to a command that waits, the release. -/
theorem endProgram_eq (s : State) (p : Nat) :
    s.endProgram p =
      let t := ((s.endedNormally p).sendTermination p (termWord tEnded (s.part p).step .none)).dropCmd p
      if t.canRelease p then t.release p else t := by
  rw [State.endProgram, endedNormally, endPart, endShown]

theorem endShown_traffic (s : State) (p : Nat) : s.TrafficOnly (s.endShown p) :=
  ((TrafficOnly.refl s).setReg _ _).exportPhases p false

theorem endedNormally_part_self (s : State) (p : Nat) : (s.endedNormally p).part p = { s.part p with st := .ending } := by
  rw [endedNormally, endPart, State.part_updPart_self, (s.endShown_traffic p).part]

theorem endedNormally_part_ne (s : State) {p q : Nat} (hq : q ≠ p) : (s.endedNormally p).part q = s.part q := by
  rw [endedNormally, endPart, State.part_updPart_ne _ _ hq, (s.endShown_traffic p).part]

theorem endedNormally_live (s : State) (p : Nat) : ((s.endedNormally p).part p).live = false := by
  rw [endedNormally_part_self]
  rfl

theorem TrafficOnly.leaves {s t : State} (h : s.TrafficOnly t) : t.mem = s.mem ∧ t.cores = s.cores ∧ t.fab = s.fab ∧ t.epochs = s.epochs := by
  rw [h]
  exact ⟨rfl, rfl, rfl, rfl⟩

theorem endPart_leaves (s : State) (p : Nat) :
    (s.endPart p).mem = s.mem ∧ (s.endPart p).cores = s.cores ∧ (s.endPart p).fab = s.fab ∧ (s.endPart p).epochs = s.epochs :=
  ⟨rfl, rfl, rfl, rfl⟩

theorem endedNormally_leaves (s : State) (p : Nat) :
    (s.endedNormally p).mem = s.mem ∧ (s.endedNormally p).cores = s.cores ∧ (s.endedNormally p).fab = s.fab ∧ (s.endedNormally p).epochs = s.epochs := by
  obtain ⟨hm, hc, hf, he⟩ := (s.endShown_traffic p).leaves
  obtain ⟨hm', hc', hf', he'⟩ := (s.endShown p).endPart_leaves p
  exact ⟨hm'.trans hm, hc'.trans hc, hf'.trans hf, he'.trans he⟩

section

variable {s : State} {p : Nat} (hp : p < 8) (hc : s.collector.1 = 0)

include hp hc

theorem endShown_regs : (s.setReg (rTerm p) (termWord tEnded (s.part p).step .none)).sameRegsBut (s.endShown p) (endReg p) :=
  .exportPhases (.refl _ _) hp ((s.collector_setReg_rTerm hp _).trans hc) false

theorem endShown_reg_rTerm : (s.endShown p).reg (rTerm p) = termWord tEnded (s.part p).step .none % 2 ^ 64 :=
  (endShown_regs hp hc _ (not_endReg_rTerm hp)).trans (State.reg_setReg_self _ _ _)

theorem endedNormally_reg_rTerm : (s.endedNormally p).reg (rTerm p) = termWord tEnded (s.part p).step .none % 2 ^ 64 := by
  rw [endedNormally, endPart_reg, endShown_reg_rTerm hp hc]

theorem endedNormally_phys (c : Nat) : (s.endedNormally p).phys c = s.phys c := by
  rw [endedNormally, endPart_phys, State.phys_of_endReg hp (endShown_regs hp hc), s.phys_setReg_rTerm hp]

theorem endedNormally_coresOf : (s.endedNormally p).coresOf p = s.coresOf p := by
  rw [State.coresOf, endedNormally_part_self]
  have h : (s.endedNormally p).phys = s.phys := funext (endedNormally_phys hp hc)
  rw [h]
  rfl

/-- With no collector and no command that waits, the report is all, and the partition is released once it may be. -/
theorem endProgram_of_plain (hcmd : (s.part p).cmd = none) :
    s.endProgram p = if (s.endedNormally p).canRelease p then (s.endedNormally p).release p else s.endedNormally p := by
  have hcoll : (s.endShown p).collector.1 = 0 :=
    (State.collector_of_sameRegs (endShown_regs hp hc) (not_endReg_rCollId hp)).trans ((s.collector_setReg_rTerm hp _).trans hc)
  have hdrop : ((s.endedNormally p).part p).cmd = none := by
    rw [endedNormally_part_self]
    exact hcmd
  have hcoll : (s.endedNormally p).collector.1 = 0 := by rw [endedNormally, endPart_collector, hcoll]
  rw [endProgram_eq, State.sendTermination_of_none hcoll, State.dropCmd_of_none hdrop]

/-- With no tracker held and no epoch of the partition left, it may be released. -/
theorem endedNormally_canRelease (ht : ∀ k ∈ s.coresOf p, s.trackers k = 0) (he : ∀ e ∈ s.epochs, e.2.part ≠ p) :
    (s.endedNormally p).canRelease p = true := by
  obtain ⟨-, -, hfab, hepochs⟩ := s.endedNormally_leaves p
  rw [State.canRelease, endedNormally_coresOf hp hc, hepochs, Bool.and_eq_true, List.all_eq_true, List.all_eq_true]
  refine ⟨fun k hk => ?_, fun e hm => by simp [he e hm]⟩
  rw [State.trackers, hfab]
  exact beq_iff_eq.2 (ht k hk)

end

end State

/-! ### The commands -/

section

variable {s : State} {p : Nat}

theorem exec_programEnd_of_end (hp : p < 8) (hr : (s.part p).st = .running) (h : s.allAt p Stream.atEnd = true) :
    exec (.programEnd p) s = .next (if s.poisoned p then s.terminate p tPoison (s.poisonLoc p) else s.endProgram p) := by
  have hwf : Instr.wf (.programEnd p) = true := decide_eq_true hp
  show execProgramEnd p s = _
  rw [execProgramEnd, guardWf_of_wf hwf, if_pos ⟨hr, h⟩]

theorem exec_partitionRelease_eq (hp : p < 8) (hr : (s.part p).st = .ending) :
    exec (.partitionRelease p) s = .next (if s.canRelease p then s.release p else s) := by
  have hwf : Instr.wf (.partitionRelease p) = true := decide_eq_true hp
  show execPartitionRelease p s = _
  rw [execPartitionRelease, guardWf_of_wf hwf]
  simp only [hr, true_and]

end

/-- Settles O32: the end is read off the shown end, the release off the partition's entry that it takes. -/
theorem programsEnd : Obligations.ProgramsEnd := by
  unfold Obligations.ProgramsEnd
  refine fun s p hp => ⟨fun hr hall => ⟨fun hpo => ?_, fun hpo hc hcmd => ?_⟩, fun hr hcan => ?_, fun hr hcan => ?_⟩
  · rw [exec_programEnd_of_end hp hr hall, hpo, if_pos rfl]
  · rw [exec_programEnd_of_end hp hr hall, hpo, if_neg (Bool.false_ne_true), State.endProgram_of_plain hp hc hcmd]
    have hterm := State.endedNormally_reg_rTerm hp hc
    obtain ⟨hmem, hcores, -, -⟩ := s.endedNormally_leaves p
    by_cases hrel : (s.endedNormally p).canRelease p = true
    · obtain ⟨hm, hk, hg⟩ := (s.endedNormally p).release_leaves p
      refine ⟨_, by rw [if_pos hrel], (State.reg_of_regs hg _).trans hterm, ?_, hm.trans hmem, hk.trans hcores, fun q hq => ?_, fun _ _ =>
        State.release_part_self _ p⟩
      · rw [State.release_part_self]
        rfl
      · rw [State.release_part_ne _ hq, s.endedNormally_part_ne hq]
    · exact ⟨_, by rw [if_neg hrel], hterm, s.endedNormally_live p, hmem, hcores, fun q hq => s.endedNormally_part_ne hq, fun ht he =>
        absurd (State.endedNormally_canRelease hp hc ht he) hrel⟩
  · obtain ⟨hm, hk, hg⟩ := s.release_leaves p
    exact ⟨_, by rw [exec_partitionRelease_eq hp hr, if_pos hcan], s.release_part_self p, fun q hq => s.release_part_ne hq, hm, hk, hg⟩
  · rw [exec_partitionRelease_eq hp hr, hcan, if_neg (Bool.false_ne_true)]

end Sys2Proof.Machine
end

section
/-! SUPPORT. A message in its turn: the connection takes note of it, it acts, and the connection settles; an owner request that is new and let through runs its handler (12 R416 to R427). -/

namespace Sys2Proof.Machine

/-! ### A connection that takes the next message (R421, R423) -/

theorem seqBefore_self (q : Nat) : seqBefore q q = false := by
  rw [seqBefore, decide_eq_false_iff_not]
  omega

theorem seqBefore_next (q : Nat) : seqBefore q ((q + 1) % 2 ^ 32) = true := by
  rw [seqBefore, decide_eq_true_iff]
  omega

/-- What the transport notes of the next message (R421). -/
def Conn.noted (c : Conn) (q : Nat) : Conn := { c with rxNext := (q + 1) % 2 ^ 32, since := c.since + 1 }

/-- The connection that has noted a message and holds it. -/
def Conn.holding (c : Conn) (q : Nat) (i : Instr) : Conn := { c.noted q with held := [(q, i)] }

/-- No SEQ waits, so the next one alone moves the window. -/
theorem Conn.take_none {c : Conn} (hs : c.rxSeen = []) : c.take c.rxNext none = c.noted c.rxNext := by
  simp [Conn.take, Conn.advance, Conn.noted, hs]

theorem Conn.take_some {c : Conn} (hs : c.rxSeen = []) (hh : c.held = []) (i : Instr) :
    c.take c.rxNext (some i) = c.holding c.rxNext i := by
  simp [Conn.take, Conn.advance, Conn.holding, Conn.noted, hs, hh]

theorem Conn.length_holding (c : Conn) (q : Nat) (i : Instr) : (c.holding q i).held.length = 1 := rfl

theorem Conn.holding_done {c : Conn} (hh : c.held = []) (q : Nat) (i : Instr) : { c.holding q i with held := [] } = c.noted q := by
  rw [← hh]
  rfl

/-- The one message held is ready once its SEQ is below the next expected. -/
theorem Conn.ready_of_one {c : Conn} {q : Nat} {i : Instr} (hh : c.held = [(q, i)]) (hn : seqBefore q c.rxNext = true) (hq : seqBefore q q = false) :
    c.ready = some (i, { c with held := [] }) := by
  simp [Conn.ready, hh, hn, hq]

theorem Conn.isNew_next {c : Conn} (hs : c.rxSeen = []) (hg : seqBefore c.granted c.rxNext = false) :
    c.isNew c.rxNext = true := by
  simp [Conn.isNew, seqBefore_self, hs, hg]

/-! ### A message in its turn acts (R416 to R424) -/

namespace State

variable {s : State} {p : Pkt} {i : Instr}

/-- The messages of a connection that waited for the one before have acted. -/
def pumped (s : State) (n : Nat) : State := State.pump n (s.heldCount n) s

theorem updConn_of_find {n : Nat} {c : Conn} (h : Tab.find s.conns n = some c) (f : Conn → Conn) :
    s.updConn n f = { s with conns := Tab.put s.conns n (f c) } := by simp only [State.updConn, h]

theorem takeBlock_false (s : State) (p : Pkt) (i : Instr) :
    s.takeBlock p false i = (s.updConn p.conn (fun c => c.take p.seq (some i))).pumped p.conn := rfl

theorem takeBlock_true (s : State) (p : Pkt) (i : Instr) :
    s.takeBlock p true i = ((s.updConn p.conn (fun c => c.take p.seq none)).act i).pumped p.conn := rfl

theorem settled_false (s : State) (p : Pkt) : s.settled p false = s.settleConn p.conn p.ackNow := rfl

theorem settled_true (s : State) (p : Pkt) : s.settled p true = (s.pumped p.conn).settleConn p.conn p.ackNow := rfl

/-- A connection with one message held, which is ready: it acts. -/
theorem pumped_of_one {n : Nat} {c d : Conn} (h : Tab.find s.conns n = some c) (hl : c.held.length = 1) (hr : c.ready = some (i, d)) :
    s.pumped n = ({ s with conns := Tab.put s.conns n d } : State).act i := by
  simp only [pumped, heldCount, h, Option.map_some, Option.getD_some, hl, pump, Option.bind_some, hr]

/-- A message that waits for no other acts as soon as it is held. -/
theorem takeBlock_of_next {c : Conn} (bulk : Bool) (h : Tab.find s.conns p.conn = some c) (hn : p.seq = c.rxNext)
    (hs : c.rxSeen = []) (hh : c.held = []) :
    (s.takeBlock p bulk i).settleConn p.conn p.ackNow =
      ((({ s with conns := Tab.put s.conns p.conn (c.noted p.seq) } : State).act i).settled p bulk) := by
  cases bulk
  · have hready := Conn.ready_of_one (c := c.holding p.seq i) rfl (seqBefore_next p.seq) (seqBefore_self p.seq)
    have hfind : Tab.find (Tab.put s.conns p.conn (c.holding p.seq i)) p.conn = some (c.holding p.seq i) := Tab.find_put_self ..
    rw [takeBlock_false, updConn_of_find h, hn, Conn.take_some hs hh, ← hn, pumped_of_one hfind (Conn.length_holding c _ i) hready,
      Conn.holding_done hh, settled_false]
    simp only [Tab.put_put]
  · rw [takeBlock_true, updConn_of_find h, hn, Conn.take_none hs, settled_true]

/-- A message whose turn has come acts in the state that has noted it. -/
theorem receive_of_inTurn {cls : Nat} (h : s.inTurn p cls) (bulk : Bool) (hd : (s.accept p 0).deferred i = false) :
    s.receive p cls bulk i = ((s.received p).act i).settled p bulk := by
  obtain ⟨hrails, hhead, ⟨c', hconn⟩, c, hc, htheirs, hn, -, hs, hh, hg⟩ := h
  have hnew : c.isNew p.seq = true := by
    rw [hn] at hg ⊢
    exact Conn.isNew_next hs hg
  simp only [State.receive, hrails, hhead, hconn, hc, htheirs, hnew, hd, Bool.false_eq_true, Bool.not_true, if_false]
  rw [takeBlock_of_next bulk hc hn hs hh, received, updConn_of_find hc]
  rfl

/-- A request that is new and let through runs its handler. -/
theorem ask_of_open {r : Nat} {blocked : Bool} (hk : ∀ k ∈ (s.received p).kept, k.owner ≠ p.src ∨ k.req ≠ r) (hb : blocked = false)
    (f : Asker → State → State) : (s.received p).ask p r blocked f = f (asker p r) (s.asked p r) := by
  have hnone : (s.received p).kept.find? (fun k => k.owner == p.src && k.req == r) = none := by
    rw [List.find?_eq_none]
    intro k hm
    obtain ho | hr := hk k hm
    · simp [ho]
    · simp [hr]
  simp only [State.ask, hnone, hb, Bool.false_eq_true, if_false]
  rfl

end State

/-! ### Owner requests for programs and group tables (R165, R358, R431, R432) -/

section

variable {s : State} {p : Pkt} {r : Nat}

/-- IMAGE, with whatever it answers. -/
theorem exec_image_of_asks {off : Nat} {d : List Byte} (hwf : Instr.wf (.image p r off d) = true) (h : s.asks p r false false false) :
    exec (.image p r off d) s = .next (((s.asked p r).putImage (asker p r) off d).settled p true) := by
  obtain ⟨hturn, hkept, hgate⟩ := h
  show execImage p r off d s = _
  rw [execImage, guardWf_of_wf hwf, State.receive_of_inTurn hturn true rfl]
  exact congrArg (fun t => Host.Outcome.next (State.settled t p true)) (State.ask_of_open hkept hgate fun k s => s.putImage k off d)

theorem exec_load_of_asks {n : Nat} {ext : Option LoadExt} (hwf : Instr.wf (.load p r n ext) = true)
    (h : s.asks p r false false ((s.received p).fld rBoot 63 60 != 4)) :
    exec (.load p r n ext) s = .next (((s.asked p r).load (asker p r) n ext).settled p false) := by
  obtain ⟨hturn, hkept, hgate⟩ := h
  show execLoad p r n ext s = _
  rw [execLoad, guardWf_of_wf hwf, State.receive_of_inTurn hturn false rfl]
  exact congrArg (fun t => Host.Outcome.next (State.settled t p false)) (State.ask_of_open hkept hgate fun k s => s.load k n ext)

theorem exec_partitionKill_of_asks {n : Nat} (hwf : Instr.wf (.partitionKill p r n) = true) (h : s.asks p r false false false) :
    exec (.partitionKill p r n) s = .next ((if 8 ≤ n then (s.asked p r).say (asker p r) stBadRequest
      else (((s.asked p r).terminate n tKill .none).setArb.settleRed).say (asker p r) stOk).settled p false) := by
  obtain ⟨hturn, hkept, hgate⟩ := h
  show execPartitionKill p r n s = _
  rw [execPartitionKill, guardWf_of_wf hwf, State.receive_of_inTurn hturn false rfl]
  exact congrArg (fun t => Host.Outcome.next (State.settled t p false)) (State.ask_of_open hkept hgate fun k s =>
    if 8 ≤ n then s.say k stBadRequest else ((s.terminate n tKill .none).setArb.settleRed).say k stOk)

end

end Sys2Proof.Machine
end

section
/-! Chapter 12 of the manual: START, STEP, PARTITION_KILL and GROUP_SET. -/

namespace Sys2Proof.Machine

/-! ### START and STEP (R432) -/

namespace State

/-- A START (`start` true) or STEP that the device lets through. -/
def commanded (s : State) (a : Asker) (start : Bool) (b : StepB) : State :=
  if 8 ≤ b.part ∨ 56 < b.words.length then s.say a stBadRequest
  else if !(s.part b.part).live then s.say a stNoProgram
  else if start ≠ ((s.part b.part).st == PState.loaded) then s.say a stBadRequest
  else if b.instant ≠ 0 ∧ s.fld rPtpStat 61 61 = 0 then s.say a stNoTime
  else if (s.part b.part).cmd.isSome then s.say a stBusy
  else if start && !(s.part b.part).blockOk b then s.say a stBadStepBlock
  else
    let t := s.updPart b.part (fun x => { x with cmd := some ⟨start, a, b⟩ })
    if (s.part b.part).st = .closed then t.checkStep b.part else t

section

variable {s : State} {a : Asker} {start : Bool} {b : StepB}

theorem commanded_of_badPart (h : 8 ≤ b.part) : s.commanded a start b = s.say a stBadRequest := if_pos (.inl h)

section

variable (hp : b.part < 8) (hw : b.words.length ≤ 56)

include hp hw

theorem commanded_of_noProgram (hl : (s.part b.part).live = false) : s.commanded a start b = s.say a stNoProgram := by
  rw [commanded, if_neg (by omega), if_pos (by simp [hl])]

theorem commanded_of_wrongState (hl : (s.part b.part).live = true) (hs : start ≠ ((s.part b.part).st == PState.loaded)) :
    s.commanded a start b = s.say a stBadRequest := by
  rw [commanded, if_neg (by omega), if_neg (by simp [hl]), if_pos hs]

variable (hl : (s.part b.part).live = true) (hs : start = ((s.part b.part).st == PState.loaded))

include hl hs

theorem commanded_of_noTime (hi : b.instant ≠ 0) (ht : s.fld rPtpStat 61 61 = 0) : s.commanded a start b = s.say a stNoTime := by
  rw [commanded, if_neg (by omega), if_neg (by simp [hl]), if_neg (not_not_intro hs), if_pos ⟨hi, ht⟩]

variable (ht : b.instant = 0 ∨ s.fld rPtpStat 61 61 = 1)

include ht

theorem commanded_of_timed :
    s.commanded a start b =
      if (s.part b.part).cmd.isSome then s.say a stBusy
      else if start && !(s.part b.part).blockOk b then s.say a stBadStepBlock
      else
        let t := s.updPart b.part (fun x => { x with cmd := some ⟨start, a, b⟩ })
        if (s.part b.part).st = .closed then t.checkStep b.part else t := by
  have htime : ¬ (b.instant ≠ 0 ∧ s.fld rPtpStat 61 61 = 0) := by omega
  rw [commanded, if_neg (by omega), if_neg (by simp [hl]), if_neg (not_not_intro hs), if_neg htime]

theorem commanded_of_waiting (hc : (s.part b.part).cmd ≠ none) : s.commanded a start b = s.say a stBusy := by
  rw [commanded_of_timed hp hw hl hs ht, if_pos (Option.isSome_iff_ne_none.2 hc)]

theorem commanded_of_badBlock (hc : (s.part b.part).cmd = none) (hst : start = true) (hb : (s.part b.part).blockOk b = false) :
    s.commanded a start b = s.say a stBadStepBlock := by
  rw [commanded_of_timed hp hw hl hs ht, if_neg (by simp [hc]), if_pos (by simp [hst, hb])]

/-- It waits; a STEP at BOUNDARY is checked at once. -/
theorem commanded_of_taken (hc : (s.part b.part).cmd = none) (hb : start = true → (s.part b.part).blockOk b = true) :
    s.commanded a start b =
      let t := s.updPart b.part (fun x => { x with cmd := some ⟨start, a, b⟩ })
      if (s.part b.part).st = .closed then t.checkStep b.part else t := by
  have hgood : ¬ (start && !(s.part b.part).blockOk b) = true := by
    rw [Bool.and_eq_true, Bool.not_eq_true']
    rintro ⟨hst, hbad⟩
    exact Bool.false_ne_true (hbad.symm.trans (hb hst))
  rw [commanded_of_timed hp hw hl hs ht, if_neg (by simp [hc]), if_neg hgood]

end

end

/-! ### A STEP at BOUNDARY is checked (R432) -/

section

variable {s : State} {a : Asker} {b : StepB}

/-- A STEP waits for its partition. -/
def stepWaits (s : State) (a : Asker) (b : StepB) : State := s.updPart b.part (fun x => { x with cmd := some ⟨false, a, b⟩ })

/-- Nothing waits for the partition. -/
def unwaited (s : State) (p : Nat) : State := s.updPart p (fun x => { x with cmd := none })

theorem part_stepWaits (s : State) (a : Asker) (b : StepB) : (s.stepWaits a b).part b.part = { s.part b.part with cmd := some ⟨false, a, b⟩ } := by
  rw [stepWaits, State.part_updPart_self]

/-- Where nothing waited, taking the STEP away leaves the partition as it was. -/
theorem part_unwaited_stepWaits (h : (s.part b.part).cmd = none) : ((s.stepWaits a b).unwaited b.part).part b.part = s.part b.part := by
  rw [unwaited, State.part_updPart_self, part_stepWaits, ← h]

theorem checkStep_stepWaits (s : State) (a : Asker) (b : StepB) :
    (s.stepWaits a b).checkStep b.part =
      if b.exp ≠ (s.part b.part).step + 1 then ((s.stepWaits a b).unwaited b.part).say a stWrongStep
      else if (s.part b.part).blockOk b then s.stepWaits a b
      else ((s.stepWaits a b).unwaited b.part).say a stBadStepBlock := by
  have hcmd : ((s.stepWaits a b).part b.part).cmd = some ⟨false, a, b⟩ := by rw [part_stepWaits]
  have hstep : ((s.stepWaits a b).part b.part).step = (s.part b.part).step := by rw [part_stepWaits]
  have hblock : ((s.stepWaits a b).part b.part).blockOk b = (s.part b.part).blockOk b := by
    rw [part_stepWaits]
    rfl
  simp only [State.checkStep, hcmd, Bool.false_eq_true, if_false, hstep, hblock]
  rfl

variable (hp : b.part < 8) (hw : b.words.length ≤ 56) (hst : (s.part b.part).st = .running ∨ (s.part b.part).st = .closed)
  (ht : b.instant = 0 ∨ s.fld rPtpStat 61 61 = 1) (hc : (s.part b.part).cmd = none)

include hst in
/-- A started program is live, and takes no START. -/
theorem live_of_started : (s.part b.part).live = true ∧ false = ((s.part b.part).st == PState.loaded) := by
  obtain hst | hst := hst <;> simp [Part.live, hst]

include hp hw ht hc

theorem commanded_step_of_running (hst : (s.part b.part).st = .running) : s.commanded a false b = s.stepWaits a b := by
  obtain ⟨hl, hs⟩ := live_of_started (.inl hst)
  rw [commanded_of_taken hp hw hl hs ht hc nofun]
  simp only [hst, reduceCtorEq, if_false]
  rfl

theorem commanded_step_of_closed (hst : (s.part b.part).st = .closed) : s.commanded a false b = (s.stepWaits a b).checkStep b.part := by
  obtain ⟨hl, hs⟩ := live_of_started (.inr hst)
  rw [commanded_of_taken hp hw hl hs ht hc nofun]
  exact if_pos hst

include hst in
theorem commanded_step_of_fits (hok : (s.part b.part).st = .running ∨ b.exp = (s.part b.part).step + 1 ∧ (s.part b.part).blockOk b = true) :
    s.commanded a false b = s.stepWaits a b := by
  obtain hrun | hclosed := hst
  · exact commanded_step_of_running hp hw ht hc hrun
  · obtain hrun | ⟨hx, hb⟩ := hok
    · exact commanded_step_of_running hp hw ht hc hrun
    · rw [commanded_step_of_closed hp hw ht hc hclosed, checkStep_stepWaits, if_neg (not_not_intro hx), if_pos hb]

variable (hclosed : (s.part b.part).st = .closed)

include hclosed

theorem commanded_step_of_wrongStep (hx : b.exp ≠ (s.part b.part).step + 1) :
    s.commanded a false b = ((s.stepWaits a b).unwaited b.part).say a stWrongStep := by
  rw [commanded_step_of_closed hp hw ht hc hclosed, checkStep_stepWaits, if_pos hx]

theorem commanded_step_of_badBlock (hx : b.exp = (s.part b.part).step + 1) (hb : (s.part b.part).blockOk b = false) :
    s.commanded a false b = ((s.stepWaits a b).unwaited b.part).say a stBadStepBlock := by
  rw [commanded_step_of_closed hp hw ht hc hclosed, checkStep_stepWaits, if_neg (not_not_intro hx), if_neg (by simp [hb])]

end

end State

section

variable {s : State} {p : Pkt} {r : Nat} {b : StepB}

theorem exec_start_of_asks (hwf : Instr.wf (.start p r b) = true) (h : s.asks p r false false true) :
    exec (.start p r b) s = .next (((s.asked p r).commanded (asker p r) true b).settled p false) := by
  obtain ⟨hturn, hkept, hgate⟩ := h
  show execStart p r b s = _
  rw [execStart, guardWf_of_wf hwf, State.receive_of_inTurn hturn false rfl]
  exact congrArg (fun t => Host.Outcome.next (State.settled t p false)) (State.ask_of_open hkept hgate fun k s => s.commanded k true b)

theorem exec_step_of_asks (hwf : Instr.wf (.step p r b) = true) (h : s.asks p r false false true) :
    exec (.step p r b) s = .next (((s.asked p r).commanded (asker p r) false b).settled p false) := by
  obtain ⟨hturn, hkept, hgate⟩ := h
  show execStep p r b s = _
  rw [execStep, guardWf_of_wf hwf, State.receive_of_inTurn hturn false rfl]
  exact congrArg (fun t => Host.Outcome.next (State.settled t p false)) (State.ask_of_open hkept hgate fun k s => s.commanded k false b)

end

/-! ### GROUP_SET (R358, R359, R428) -/

/-- The identities of a table that comes in one part. -/
def groupIds (es : List (Nat × Nat)) : Tab (Nat × Nat) := es.zipIdx.foldl (fun m e => Tab.put m (0 + e.2) e.1) []

/-- A key above all that are listed goes to the end. -/
theorem Tab.put_above {α : Type} {t : Tab α} {k : Nat} (h : ∀ e ∈ t, e.1 < k) (v : α) : Tab.put t k v = t ++ [(k, v)] := by
  induction t with
  | nil => rfl
  | cons e l ih =>
    obtain ⟨he, hl⟩ := List.forall_mem_cons.1 h
    rw [Tab.put, if_neg (by omega), if_neg (by omega), ih hl]
    rfl

/-- Entries put at rising ranks stand in the order they came. -/
theorem foldl_put_zipIdx {α : Type} (es : List α) (n : Nat) {t : Tab α} (h : ∀ e ∈ t, e.1 < n) :
    (es.zipIdx n).foldl (fun m e => Tab.put m (0 + e.2) e.1) t = t ++ (es.zipIdx n).map (fun e => (e.2, e.1)) := by
  induction es generalizing n t with
  | nil => simp
  | cons x l ih =>
    rw [List.zipIdx_cons, List.foldl_cons, Nat.zero_add, Tab.put_above h, ih (n + 1), List.map_cons, List.append_assoc]
    · rfl
    · intro e he
      obtain he | he := List.mem_append.1 he
      · exact Nat.lt_succ_of_lt (h e he)
      · obtain rfl := List.mem_singleton.1 he
        exact Nat.lt_succ_self n

theorem groupIds_eq (es : List (Nat × Nat)) : groupIds es = es.zipIdx.map (fun e => (e.2, e.1)) := by
  rw [groupIds, foldl_put_zipIdx es 0 (by simp), List.nil_append]

theorem length_groupIds (es : List (Nat × Nat)) : (groupIds es).length = es.length := by
  rw [groupIds_eq, List.length_map, List.length_zipIdx]

theorem find_zipIdx {α : Type} (es : List α) (n k : Nat) :
    Tab.find ((es.zipIdx n).map (fun e => (e.2, e.1))) (n + k) = es[k]? := by
  induction es generalizing n k with
  | nil => rfl
  | cons x l ih =>
    rw [List.zipIdx_cons, List.map_cons, Tab.find]
    cases k with
    | zero => simp
    | succ k =>
      rw [if_neg (by omega), show n + (k + 1) = n + 1 + k by omega, ih (n + 1) k]
      rfl

theorem find_groupIds (es : List (Nat × Nat)) (k : Nat) : Tab.find (groupIds es) k = es[k]? := by
  rw [groupIds_eq]
  simpa using find_zipIdx es 0 k

section

variable {s : State} {p : Pkt} {r g host size rank first : Nat} {last : Bool} {es : List (Nat × Nat)}

theorem exec_groupSet_of_refused (hwf : Instr.wf (.groupSet p r g last host size rank first es) = true) (h : s.asks p r false false false)
    (hbad : 16 ≤ g ∨ size = 0 ∨ 32768 < size ∨ size ≤ host ∨ size ≤ rank ∨ size < first + es.length) :
    exec (.groupSet p r g last host size rank first es) s = .next (((s.asked p r).say (asker p r) stBadRequest).settled p false) := by
  obtain ⟨hturn, hkept, hgate⟩ := h
  show execGroupSet p r g last host size rank first es s = _
  rw [execGroupSet, guardWf_of_wf hwf, State.receive_of_inTurn hturn false rfl]
  show Host.Outcome.next (((s.received p).askGroup p r g last host size rank first es).settled p false) = _
  rw [State.askGroup, State.ask_of_open hkept hgate, if_pos hbad]

/-- A table that comes in one part is complete. -/
theorem exec_groupSet_of_whole (hwf : Instr.wf (.groupSet p r g true host size rank 0 es) = true) (h : s.asks p r false false false)
    (hg : g < 16) (hne : es ≠ []) (hsize : size = es.length) (hhost : host < size) (hrank : rank < size) :
    exec (.groupSet p r g true host size rank 0 es) s =
      .next (((s.asked p r).putGroup (asker p r) g ⟨size, rank, host, groupIds es⟩).settled p false) := by
  have hfew : es.length ≤ 170 := by
    simp only [Instr.wf, Bool.and_eq_true, decide_eq_true_eq] at hwf
    exact hwf.1.2
  obtain ⟨hturn, hkept, hgate⟩ := h
  show execGroupSet p r g true host size rank 0 es s = _
  rw [execGroupSet, guardWf_of_wf hwf, State.receive_of_inTurn hturn false rfl]
  show Host.Outcome.next (((s.received p).askGroup p r g true host size rank 0 es).settled p false) = _
  have hpos := List.length_pos_of_ne_nil hne
  have hok : ¬ (16 ≤ g ∨ size = 0 ∨ 32768 < size ∨ size ≤ host ∨ size ≤ rank ∨ size < 0 + es.length) := by omega
  rw [State.askGroup, State.ask_of_open hkept hgate, if_neg hok]
  cases Tab.find (s.asked p r).groupParts g <;> simp only [ne_eq, not_true_eq_false, false_and, if_true, if_false, groupIds]

end

/-! ### A complete group table (R359) -/

section

variable {s : State} {a : Asker} {g : Nat} {t : Group} (hlen : t.ids.length = t.size)

include hlen

theorem State.putGroup_of_limit (hmany : 65536 < identities (Tab.put s.groups g t ++ Tab.del s.groupPend g)) :
    s.putGroup a g t = ({ s with groupParts := Tab.del s.groupParts g } : State).say a stGroupLimit := by
  rw [State.putGroup, if_neg (not_not_intro hlen)]
  exact if_pos hmany

theorem State.putGroup_of_open (hfew : identities (Tab.put s.groups g t ++ Tab.del s.groupPend g) ≤ 65536) (hb : s.groupBusy g = true) :
    s.putGroup a g t = ({ s with groupPend := Tab.put s.groupPend g t, groupParts := Tab.del s.groupParts g } : State).say a stOk := by
  rw [State.putGroup, if_neg (not_not_intro hlen)]
  exact (if_neg (Nat.not_lt.2 hfew)).trans (if_pos hb)

theorem State.putGroup_of_free (hfew : identities (Tab.put s.groups g t ++ Tab.del s.groupPend g) ≤ 65536) (hb : s.groupBusy g = false) :
    s.putGroup a g t =
      ({ s with groups := Tab.put s.groups g t, groupPend := Tab.del s.groupPend g, groupParts := Tab.del s.groupParts g } : State).say a stOk := by
  rw [State.putGroup, if_neg (not_not_intro hlen)]
  exact (if_neg (Nat.not_lt.2 hfew)).trans (if_neg (Bool.eq_false_iff.1 hb))

end

/-- Settles O42: each request runs its handler in its turn, and the handler's case is the one whose conditions hold. -/
theorem programRequests : Obligations.ProgramRequests := by
  unfold Obligations.ProgramRequests
  intro s p r u a
  refine ⟨fun b hwf h hw => ?_, fun b hwf h hw => ?_, fun n hwf h => ?_, fun g last host size rank first es hwf h => ⟨fun hbad =>
    exec_groupSet_of_refused hwf h hbad, fun hg hne hsize hhost hrank hfirst hlast => ?_⟩⟩
  · have hexec : exec (.start p r b) s = .next ((u.commanded a true b).settled p false) := exec_start_of_asks hwf h
    clear_value u a
    refine ⟨fun hp => ?_, fun hp hl => ?_, fun hp hl hs => ?_, fun hp hs => ?_⟩
    · rw [hexec, State.commanded_of_badPart hp]
    · rw [hexec, State.commanded_of_noProgram hp hw hl]
    · rw [hexec, State.commanded_of_wrongState hp hw hl (by simpa using hs)]
    · have hl : (u.part b.part).live = true := by simp [Part.live, hs]
      have hs' : true = ((u.part b.part).st == PState.loaded) := by simp [hs]
      refine ⟨fun hi ht => ?_, fun ht => ⟨fun hc => ?_, fun hc hb => ?_, fun hc hb => ?_⟩⟩
      · rw [hexec, State.commanded_of_noTime hp hw hl hs' hi ht]
      · rw [hexec, State.commanded_of_waiting hp hw hl hs' ht hc]
      · rw [hexec, State.commanded_of_badBlock hp hw hl hs' ht hc rfl hb]
      · rw [hexec, State.commanded_of_taken hp hw hl hs' ht hc fun _ => hb]
        simp only [hs, reduceCtorEq, if_false]
  · have hexec : exec (.step p r b) s = .next ((u.commanded a false b).settled p false) := exec_step_of_asks hwf h
    clear_value u a
    refine ⟨fun hp => ?_, fun hp hl => ?_, fun hp hs => ?_, fun hp hs => ?_⟩
    · rw [hexec, State.commanded_of_badPart hp]
    · rw [hexec, State.commanded_of_noProgram hp hw hl]
    · rw [hexec, State.commanded_of_wrongState hp hw (by simp [Part.live, hs]) (by simp [hs])]
    · obtain ⟨hl, hs'⟩ := State.live_of_started hs
      refine ⟨fun hi ht => ?_, fun ht => ⟨fun hc => ?_, fun hc hok => ?_, fun hc hst hx => ?_, fun hc hst hx hb => ?_⟩⟩
      · rw [hexec, State.commanded_of_noTime hp hw hl hs' hi ht]
      · rw [hexec, State.commanded_of_waiting hp hw hl hs' ht hc]
      · rw [hexec, State.commanded_step_of_fits hp hw hs ht hc hok]
        rfl
      · exact ⟨_, by rw [hexec, State.commanded_step_of_wrongStep hp hw ht hc hst hx], State.part_unwaited_stepWaits hc⟩
      · exact ⟨_, by rw [hexec, State.commanded_step_of_badBlock hp hw ht hc hst hx hb], State.part_unwaited_stepWaits hc⟩
  · exact ⟨fun hn => by rw [exec_partitionKill_of_asks hwf h, if_neg (Nat.not_le.2 hn)],
      fun hn => by rw [exec_partitionKill_of_asks hwf h, if_pos hn]⟩
  · subst hfirst hlast
    have hlen : (groupIds es).length = size := (length_groupIds es).trans hsize.symm
    have hexec := exec_groupSet_of_whole hwf h hg hne hsize hhost hrank
    refine ⟨⟨size, rank, host, groupIds es⟩, rfl, rfl, rfl, fun k e hk => (find_groupIds es k).trans hk, fun hfew =>
      ⟨fun hb => ?_, fun hb => ?_⟩, fun hmany => ⟨{ u with groupParts := Tab.del u.groupParts g }, ?_, rfl⟩⟩
    · rw [hexec, State.putGroup_of_free hlen hfew hb]
    · rw [hexec, State.putGroup_of_open hlen hfew hb]
    · rw [hexec, State.putGroup_of_limit hlen hmany]

end Sys2Proof.Machine
end

section
/-! SUPPORT. Loading a program: what a load leaves of the other partitions, and the registers it clears (04 R171, 10 R334). -/

namespace Sys2Proof.Machine

namespace State

/-! ### The partitions through a load (R31, R171, R334) -/

theorem setV_parts (s : State) (i : Nat) (v : Bool) : (s.setV i v).parts = s.parts := by rw [setV, setFld_parts]

theorem checkSlot_parts (s : State) (i : Nat) : (s.checkSlot i).parts = s.parts := by
  unfold checkSlot
  split
  · rw [setFld_parts, setV_parts]
  · rw [setV_parts]

section

variable {s : State} {old new : List Nat}

theorem storeRebuilt_of_none (h : s.storeRange.2 = 0) : s.storeRebuilt old new = s := if_pos h

theorem storeRebuilt_of_unmapped (h : s.storeRange.2 ≠ 0) (hm : s.stackEnd < s.storeRange.1 + 2 * s.storeRange.2) :
    s.storeRebuilt old new = ((s.setFld rCstore 39 16 0).setV 0 false).setV 1 false := (if_neg h).trans (if_pos hm)

theorem storeRebuilt_of_mapped (h : s.storeRange.2 ≠ 0) (hm : ¬ s.stackEnd < s.storeRange.1 + 2 * s.storeRange.2) :
    s.storeRebuilt old new = (List.range 2).foldl (fun t i =>
      if t.sealed i && movedIn old new (t.slotBase i) (4096 + min s.storeRange.2 (t.sealLen i)) then t.setV i false else t.checkSlot i) s :=
  (if_neg h).trans (if_neg hm)

end

theorem storeRebuilt_parts (s : State) (old new : List Nat) : (s.storeRebuilt old new).parts = s.parts := by
  by_cases h : s.storeRange.2 = 0
  · rw [storeRebuilt_of_none h]
  · by_cases hm : s.stackEnd < s.storeRange.1 + 2 * s.storeRange.2
    · rw [storeRebuilt_of_unmapped h hm, setV_parts, setV_parts, setFld_parts]
    · rw [storeRebuilt_of_mapped h hm]
      refine foldl_leaves State.parts (fun t i => ?_) _ _
      split
      · exact setV_parts t i false
      · exact checkSlot_parts t i

/-- Unit history keeps the map. -/
theorem flash_parts (s : State) (f : Flash) : ({ s with flash := f } : State).parts = s.parts := rfl

theorem writeMap_parts (s : State) (new : List Nat) (moved : Nat) : (s.writeMap new moved).parts = s.parts := by
  rw [writeMap, flash_parts, setReg_parts, setFld_parts, setFld_parts, setFld_parts]

/-- The granules that a rebuild moves are undefined. -/
def laid (s : State) (old new : List Nat) : State :=
  { s.fresh.2 with mem := s.fresh.2.mem.lay ⟨stackDpa, stackTop, .moved old new, some s.fresh.1⟩ }

theorem laid_parts (s : State) (old new : List Nat) : (s.laid old new).parts = s.parts := rfl

theorem rebuild_of_due {s : State} (h : s.rebuildDue = true) :
    s.rebuild = ((((s.nextRemoved.filter (fun x => !s.removed.contains x)).foldl (fun s x => s.setFld (rHmcStat (chanOf x)) 63 60 6)
      (s.laid s.removed s.nextRemoved)).writeMap s.nextRemoved (movedCount s.removed s.nextRemoved)).storeRebuilt s.removed s.nextRemoved) := by
  rw [rebuild, if_pos h]
  rfl

theorem rebuild_parts (s : State) : s.rebuild.parts = s.parts := by
  by_cases h : s.rebuildDue = true
  · rw [rebuild_of_due h, storeRebuilt_parts, writeMap_parts]
    exact (foldl_leaves State.parts (fun t x => t.setFld_parts _ _ _ _) _ _).trans (s.laid_parts _ _)
  · rw [rebuild, if_neg h]

theorem restSpares_parts (s : State) (m : List Nat) : (s.restSpares m).parts = s.parts := rfl

theorem countHealth_parts (s : State) : s.countHealth.parts = s.parts := by rw [countHealth, setFld_parts, setFld_parts]

theorem putMap_parts (s : State) (m : List Nat) : (s.putMap m).parts = s.parts := by
  have hset : ∀ (l : List (Nat × Nat)) (t : State), (l.foldl (fun s e => s.setReg (rCmap e.1) e.2) t).parts = t.parts := fun l t =>
    foldl_leaves State.parts (fun t e => t.setReg_parts _ _) l t
  rw [putMap, countHealth_parts, setFld_parts, setFld_parts]
  split
  · rw [setFld_parts, hset, restSpares_parts]
  · rw [hset, restSpares_parts]

theorem clearCore_parts (s : State) (k c : Nat) : (s.clearCore k c).parts = s.parts := by
  rw [clearCore, clearRegs_parts, setReg_parts, setReg_parts, setReg_parts, setReg_parts, setReg_parts, clearRegs_parts, setReg_parts]

theorem loadCore_parts (s : State) (q : Prog) (c : Nat) : (s.loadCore q c).parts = s.parts := by
  unfold loadCore
  split
  · rfl
  · exact clearCore_parts _ _ _

/-- Window `n` begins again: its count and every channel's sum are clear (R352). -/
def clearWindow (s : State) (n : Nat) : State :=
  (List.range 256).foldl (fun s q => s.setReg (rDgwacc q n) 0) { s with win := Tab.put s.win n 0 }

theorem clearWindow_parts (s : State) (n : Nat) : (s.clearWindow n).parts = s.parts :=
  (foldl_leaves State.parts (fun t _ => t.setReg_parts _ _) _ _).trans rfl

theorem clearWindows_eq (s : State) (p : Nat) :
    s.clearWindows p = (List.range 16).foldl (fun s n => if s.boundTo n p then s.clearWindow n else s) s := rfl

theorem clearWindows_parts (s : State) (p : Nat) : (s.clearWindows p).parts = s.parts := by
  refine foldl_leaves State.parts (fun t n => ?_) _ _
  split
  · exact t.clearWindow_parts n
  · rfl

theorem cstat_parts (s : State) (state reason step : Nat) : (s.cstat state reason step).parts = s.parts := by
  rw [cstat, setFld_parts, setFld_parts, setFld_parts]

/-! ### The program stands in its partition (R171) -/

/-- The cores and the memory of a program are loaded under a core map. -/
def filled (s : State) (q : Prog) (m : List Nat) : State :=
  q.segs.foldl (fun s g => s.hubWrite g.1 (clean g.2)) (q.cores.foldl (fun s c => s.loadCore q c) (s.rebuild.putMap m))

/-- The partition is the program's. -/
def placed (s : State) (q : Prog) (st : PState) (step : Nat) : State := s.updPart q.part (fun _ => q.partition st step)

theorem install_eq (s : State) (q : Prog) (m : List Nat) (st : PState) (step : Nat) :
    s.install q m st step =
      ((((s.filled q m).placed q st step).setReg (rTerm q.part) 0).setReg (rPhaseStat q.part) 0).setReg (rPoison q.part) 0 := by
  rw [install, placed, filled]

theorem filled_parts (s : State) (q : Prog) (m : List Nat) : (s.filled q m).parts = s.parts := by
  have hseg : ∀ t : State, (q.segs.foldl (fun s g => s.hubWrite g.1 (clean g.2)) t).parts = t.parts :=
    foldl_leaves State.parts (fun t g => t.hubWrite_parts _ _) q.segs
  have hcore : ∀ t : State, (q.cores.foldl (fun s c => s.loadCore q c) t).parts = t.parts :=
    foldl_leaves State.parts (fun t c => t.loadCore_parts q c) q.cores
  rw [filled, hseg, hcore, putMap_parts, rebuild_parts]

theorem part_of_parts {s t : State} (h : t.parts = s.parts) (p : Nat) : t.part p = s.part p := by simp only [State.part, h]

theorem install_part (s : State) (q : Prog) (m : List Nat) (st : PState) (step p : Nat) :
    (s.install q m st step).part p = ((s.filled q m).placed q st step).part p :=
  part_of_parts (by rw [install_eq, setReg_parts, setReg_parts, setReg_parts]) p

theorem install_part_self (s : State) (q : Prog) (m : List Nat) (st : PState) (step : Nat) :
    (s.install q m st step).part q.part = q.partition st step := by
  rw [install_part, placed, State.part_updPart_self]

theorem install_part_ne (s : State) (q : Prog) (m : List Nat) (st : PState) (step : Nat) {p : Nat} (hp : p ≠ q.part) :
    (s.install q m st step).part p = s.part p := by
  rw [install_part, placed, State.part_updPart_ne _ _ hp, part_of_parts (s.filled_parts q m)]

/-! ### The registers that a load clears (R224, R447) -/

theorem install_reg_rTerm (s : State) (q : Prog) (m : List Nat) (st : PState) (step : Nat) :
    (s.install q m st step).reg (rTerm q.part) = 0 := by
  have hpo : rTerm q.part ≠ rPoison q.part := by
    unfold rTerm rPoison hubB mntB
    omega
  have hph : rTerm q.part ≠ rPhaseStat q.part := by
    unfold rTerm rPhaseStat
    omega
  rw [install_eq, State.reg_setReg_ne _ _ hpo, State.reg_setReg_ne _ _ hph, State.reg_setReg_self, Nat.zero_mod]

theorem install_reg_rPoison (s : State) (q : Prog) (m : List Nat) (st : PState) (step : Nat) : (s.install q m st step).reg (rPoison q.part) = 0 := by
  rw [install_eq, State.reg_setReg_self, Nat.zero_mod]

theorem clearWindow_regs (s : State) {n : Nat} (hn : n < 16) : s.sameRegsBut (s.clearWindow n) countReg := by
  have hwin : s.sameRegsBut { s with win := Tab.put s.win n 0 } countReg := State.sameRegsBut.update (.refl s _) rfl
  rw [clearWindow]
  exact State.sameRegsBut.foldl hwin fun q hq _ h => h.setReg (countReg_rDgwacc (List.mem_range.1 hq) hn) 0

/-- The digest windows bound to the partition are cleared, and no register but theirs (R352). -/
theorem clearWindows_regs (s : State) (p : Nat) : s.sameRegsBut (s.clearWindows p) countReg := by
  rw [clearWindows_eq]
  exact State.sameRegsBut.foldl (.refl s _) fun n hn t h => .ite (h.trans (t.clearWindow_regs (List.mem_range.1 hn))) h

theorem not_countReg_rTerm {p : Nat} (hp : p < 8) : ¬ countReg (rTerm p) := by
  unfold countReg rTerm rXtrk hubB hmcB hmcGlobB
  omega

theorem not_countReg_rPoison (p : Nat) : ¬ countReg (rPoison p) := by
  unfold countReg rPoison rXtrk mntB hubB hmcB hmcGlobB
  omega

theorem cstat_state (s : State) {state reason step : Nat} (h : state < 16) : (s.cstat state reason step).fld rCstat 63 60 = state := by
  rw [cstat, State.fld_setFld_ne _ _ _ _ _ _ _ (by omega) (by omega) (by omega), State.fld_setFld_ne _ _ _ _ _ _ _ (by omega) (by omega) (by omega),
    State.fld_setFld_self _ _ _ _ _ (by omega) (by omega)]
  exact Nat.mod_eq_of_lt h

end State

end Sys2Proof.Machine
end

section
/-! Chapter 12 of the manual: IMAGE and LOAD. -/

namespace Sys2Proof.Machine

/-! ### IMAGE (R431) -/

namespace State

variable {s : State} {a : Asker} {off : Nat} {d : List Byte}

theorem putImage_of_long (h : 67108864 < off + d.length) : s.putImage a off d = s.say a stBadRequest := if_pos h

section

variable (hfit : off + d.length ≤ 67108864) (hw : s.loadWait = none)

include hfit hw

theorem putImage_of_none (h : s.assembly = none) : s.putImage a off d = ({ s with assembly := some ⟨a.conn, [(off, d)]⟩ } : State).say a stOk := by
  have hmax : ¬ imageMax < off + d.length := Nat.not_lt.2 hfit
  simp only [putImage, hmax, hw, h, if_false, Option.isSome_none, Bool.false_eq_true]

theorem putImage_of_own {x : Assembly} (h : s.assembly = some x) (hc : x.conn = a.conn) :
    s.putImage a off d = ({ s with assembly := some { x with parts := x.parts ++ [(off, d)] } } : State).say a stOk := by
  have hmax : ¬ imageMax < off + d.length := Nat.not_lt.2 hfit
  simp only [putImage, hmax, hw, h, hc, if_false, if_true, Option.isSome_none, Bool.false_eq_true]

theorem putImage_of_other {x : Assembly} (h : s.assembly = some x) (hc : x.conn ≠ a.conn) : s.putImage a off d = s.say a stBusy := by
  have hmax : ¬ imageMax < off + d.length := Nat.not_lt.2 hfit
  simp only [putImage, hmax, hw, h, hc, if_false, Option.isSome_none, Bool.false_eq_true]

end

end State

theorem exec_imageAssemblyTimeout_of_free {s : State} (h : s.loadWait = none) : exec .imageAssemblyTimeout s = .next { s with assembly := none } := by
  show execImageAssemblyTimeout s = _
  have hwf : Instr.wf .imageAssemblyTimeout = true := rfl
  rw [execImageAssemblyTimeout, guardWf_of_wf hwf]
  simp only [h, Option.isSome_none, Bool.false_eq_true, if_false]

/-! ### LOAD (R431, R475 to R477) -/

namespace State

variable {s : State} {a : Asker} {n : Nat} {ext : Option LoadExt}

/-- Without an image there is nothing to check. -/
theorem loadPlan_of_none (h : s.assembly = none) (conn : Nat) : s.loadPlan conn n ext = reject 0x0103 := by
  simp only [loadPlan, h, Option.bind_none]

section

variable (hw : s.loadWait = none) (ha : ∀ x, s.assembly = some x → x.conn = a.conn)
  (he : ∀ x, ext = some x → x.mode < 3 ∧ (x.mode = 2 → x.cstep ≠ 0))

include hw ha he

/-- No other LOAD or connection holds the buffer, and the extension has a mode and a step that R475 admits. -/
theorem load_admitted : ¬ (s.loadWait.isSome = true ∨ s.assembly.any (fun x => x.conn != a.conn) = true) ∧
    ext.any (fun x => decide (3 ≤ x.mode) || (x.mode == 2 && x.cstep == 0)) = false := by
  constructor
  · rintro (h | h)
    · simp [hw] at h
    · obtain ⟨x, hx, hne⟩ := (Option.any_eq_true _ _).1 h
      simp [ha x hx] at hne
  · rw [Option.any_eq_false]
    intro x hx
    obtain ⟨hm, hc⟩ := he x hx
    have h3 : ¬ 3 ≤ x.mode := Nat.not_le.2 hm
    by_cases h2 : x.mode = 2
    · simp [h2, hc h2]
    · simp [h2, h3]

theorem load_of_refused {e : Reject} (h : s.loadPlan a.conn n ext = .error e) : s.load a n ext = s.endLoad a e.reason := by
  obtain ⟨hbusy, hext⟩ := load_admitted hw ha he
  rw [load, if_neg hbusy, hext, if_neg Bool.false_ne_true, h]

/-- With no test to wait for it takes effect at once. -/
theorem load_of_accepted {q : Prog} {m : List Nat} (h : s.loadPlan a.conn n ext = .ok (q, m)) (ht : s.autoTests = []) (hc : s.coreTesting = false) :
    s.load a n ext = s.doLoad a q m ext := by
  obtain ⟨hbusy, hext⟩ := load_admitted hw ha he
  rw [load, if_neg hbusy, hext, if_neg Bool.false_ne_true, h]
  simp only [ht, List.foldl_nil, hc, Bool.false_eq_true, if_false, loadNow, h]

end

variable {q : Prog} {m : List Nat} {x : LoadExt}

theorem doLoad_of_fresh (s : State) (a : Asker) (q : Prog) (m : List Nat) :
    s.doLoad a q m none = ((s.install q m .loaded 0).clearWindows q.part).endLoad a stOk := rfl

theorem doLoad_of_resume (h : x.mode = 2) :
    s.doLoad a q m (some x) = (((s.install q m .loaded (x.cstep - 1)).clearWindows q.part).addFld rGovSt 31 0 1).endLoad a stOk := by
  rw [doLoad, if_pos h]

theorem doLoad_of_cairn (h : x.mode < 2) :
    s.doLoad a q m (some x) =
      ((((s.install q m .restoring 0).cstat 3 0 x.cstep).endLoad a stOk).openRestore ⟨q.part, x.cstep, x.token, x.mode, 0, 0, 0, 0, false, []⟩).setArb := by
  rw [doLoad, if_neg (by omega)]

end State

/-- Settles O41: each request runs its handler in its turn; what a load leaves is read off its stages. -/
theorem programsLoad : Obligations.ProgramsLoad := by
  unfold Obligations.ProgramsLoad
  intro s p r u a
  refine ⟨fun off d hwf h => ?_, exec_imageAssemblyTimeout_of_free, fun n ext hwf h hw ha he => ⟨fun hnone => State.loadPlan_of_none hnone _,
    fun e hplan => ?_, fun q m hplan ht hc hq => ?_⟩⟩
  · have hexec : exec (.image p r off d) s = .next ((u.putImage a off d).settled p true) := exec_image_of_asks hwf h
    refine ⟨fun hlong => ?_, fun hfit hw => ⟨fun hnone => ?_, fun x hx hown => ?_, fun x hx hother => ?_⟩⟩
    · rw [hexec, State.putImage_of_long hlong]
    · rw [hexec, State.putImage_of_none hfit hw hnone]
      rfl
    · rw [hexec, State.putImage_of_own hfit hw hx hown]
    · rw [hexec, State.putImage_of_other hfit hw hx hother]
  · have hexec : exec (.load p r n ext) s = .next ((u.load a n ext).settled p false) := exec_load_of_asks hwf h
    rw [hexec, State.load_of_refused hw ha he hplan]
  · have hexec : exec (.load p r n ext) s = .next ((u.load a n ext).settled p false) := exec_load_of_asks hwf h
    rw [State.load_of_accepted hw ha he hplan ht hc] at hexec
    refine ⟨fun hfresh => ?_, fun x hx hmode => ?_, fun x hx hmode => ?_⟩
    · subst hfresh
      have hparts := (u.install q m .loaded 0).clearWindows_parts q.part
      have hregs := (u.install q m .loaded 0).clearWindows_regs q.part
      refine ⟨(u.install q m .loaded 0).clearWindows q.part, by rw [hexec, State.doLoad_of_fresh], ?_, ?_, ?_, fun j hj => ?_⟩
      · rw [State.part_of_parts hparts, State.install_part_self]
      · rw [hregs _ (State.not_countReg_rTerm hq), State.install_reg_rTerm]
      · rw [hregs _ (State.not_countReg_rPoison _), State.install_reg_rPoison]
      · rw [State.part_of_parts hparts, State.install_part_ne _ _ _ _ _ hj]
    · subst hx
      have hparts := (u.install q m .loaded (x.cstep - 1)).clearWindows_parts q.part
      refine ⟨_, by rw [hexec, State.doLoad_of_resume hmode], ?_⟩
      rw [State.part_of_parts ((State.addFld_parts ..).trans hparts), State.install_part_self]
    · subst hx
      refine ⟨_, by rw [hexec, State.doLoad_of_cairn hmode], ?_, State.cstat_state _ (by omega)⟩
      rw [State.part_of_parts (State.cstat_parts ..), State.install_part_self]

end Sys2Proof.Machine
end

section
/-! Chapter 5 of the manual: where a stream goes on after an instruction, and how a loop is entered. -/

namespace Sys2Proof.Machine

/-! ### Loop tails and the next instruction (R177, R179) -/

section

variable {l : Loop} {r : List Loop} {pc : Nat}

theorem loopTail_of_inside (h : pc ≠ l.tail) : loopTail (l :: r) pc = (l :: r, pc) := if_neg h

theorem loopTail_of_again (h : pc = l.tail) (hi : l.index + 1 < l.count) : loopTail (l :: r) pc = ({ l with index := l.index + 1 } :: r, l.body) := by
  rw [loopTail, if_pos h, if_pos hi]

theorem loopTail_of_last (h : pc = l.tail) (hi : l.count ≤ l.index + 1) : loopTail (l :: r) pc = loopTail r (l.tail + 1) := by
  rw [loopTail, if_pos h, if_neg (Nat.not_lt.2 hi)]

end

section

variable {t : Stream} {l : Loop} {r : List Loop}

theorem Stream.advance_of_noLoop (h : t.loops = []) : t.advance = { t with pc := t.pc + 1, state := 2, stall := 0, obj := 0 } := by
  simp only [Stream.advance, Stream.goto, h, loopTail]

theorem Stream.advance_of_inside (h : t.loops = l :: r) (hp : t.pc + 1 ≠ l.tail) :
    t.advance = { t with pc := t.pc + 1, state := 2, stall := 0, obj := 0 } := by
  simp only [Stream.advance, Stream.goto, h, loopTail_of_inside hp]

theorem Stream.advance_of_again (h : t.loops = l :: r) (hp : t.pc + 1 = l.tail) (hi : l.index + 1 < l.count) :
    t.advance = { t with loops := { l with index := l.index + 1 } :: r, pc := l.body, state := 2, stall := 0, obj := 0 } := by
  simp only [Stream.advance, Stream.goto, h, loopTail_of_again hp hi]

/-- After the last pass the stream is behind the ENDLOOP, in the enclosing loop. -/
theorem Stream.advance_of_last (h : t.loops = l :: r) (hp : t.pc + 1 = l.tail) (hi : l.count ≤ l.index + 1) :
    t.advance = ({ t with loops := r, pc := l.tail } : Stream).advance := by
  simp only [Stream.advance, Stream.goto, h, loopTail_of_last hp hi]

/-- A stream that may issue waits for no slot value (R125). -/
theorem Stream.entry_of_ready (h : t.ready = true) : t.entry = none := by
  simp only [Stream.ready, Bool.and_eq_true, Option.isNone_iff_eq_none] at h
  exact h.1.2

/-- A stream that may issue has no slot write waiting (R125). -/
theorem Stream.slotw_of_ready (h : t.ready = true) : t.slotw = false := by
  simp only [Stream.ready, Bool.and_eq_true, Bool.not_eq_true'] at h
  exact h.2

end

/-! ### Latching a slot's value (R156, R179, R191) -/

/-- The slot once a stream has latched its value. -/
def Slot.latch (v : Slot) (st : Strm) : Slot :=
  match st with
  | .a => { v with latA := v.seq }
  | .x => { v with latX := v.seq }

/-- The core once a stream has latched a slot's value and entered its loop with it. -/
def Core.enterLoop (x : Core) (q : Nat) (st : Strm) : Core :=
  (x.setSlot q ((x.slot q).latch st)).setStream st (({ x.stream st with entry := none } : Stream).enter (x.slot q).value)

theorem Core.ops_enterLoop (x : Core) (q : Nat) (st : Strm) : (x.enterLoop q st).ops = x.ops := by cases st <;> rfl

section

variable {s : State} {k : Nat}

/-- With no PFETCH that waits on a guard, a latch binds none (R191). -/
theorem State.guardLatch_of_none (h : ∀ o ∈ (s.core k).ops, o.bound ≠ .waiting) (c p q n : Nat) : s.guardLatch k c p q n = s := by
  unfold State.guardLatch
  rw [List.filter_eq_nil_iff.2]
  · rfl
  · intro o ho
    split
    · simp [h o ho]
    · exact Bool.false_ne_true

theorem State.latch_x (s : State) (k c p q : Nat) : s.latch k c p q .x = s.setCore k ((s.core k).enterLoop q .x) := rfl

theorem State.latch_of_noGuard {st : Strm} (h : st = .a → ∀ o ∈ (s.core k).ops, o.bound ≠ .waiting) (c p q : Nat) :
    s.latch k c p q st = s.setCore k ((s.core k).enterLoop q st) := by
  cases st with
  | a =>
    have hops : ∀ o ∈ ((s.setCore k ((s.core k).enterLoop q .a)).core k).ops, o.bound ≠ .waiting := by
      rw [State.core_setCore_self, Core.ops_enterLoop]
      exact h rfl
    exact State.guardLatch_of_none hops c p q _
  | x => rfl

end

/-! ### LOOP (R150 to R153, R156, R179) -/

section

variable {s : State} {c p k q n : Nat} {st : Strm}

theorem exec_loop_eq (c : Nat) (st : Strm) (b : LoopB) (s : State) : exec (.loop c st b) s = execLoop c st b s := rfl

theorem exec_loop_of_count (h : s.issuer c st (.loop ⟨false, 0, n⟩) = some (p, k)) (hwf : Instr.wf (.loop c st ⟨false, 0, n⟩) = true) :
    exec (.loop c st ⟨false, 0, n⟩) s = .next (s.setCore k ((s.core k).setStream st (((s.core k).stream st).enter n))) := by
  rw [exec_loop_eq, execLoop, guardWf_of_wf hwf]
  simp only [h]
  rfl

/-- The entry waits for a value that the stream has not latched. -/
theorem exec_loop_of_stale (h : s.issuer c st (.loop ⟨true, q, 0⟩) = some (p, k)) (hwf : Instr.wf (.loop c st ⟨true, q, 0⟩) = true)
    (hv : ((s.core k).slot q).fresh st = false) :
    exec (.loop c st ⟨true, q, 0⟩) s =
      .next (s.setCore k ((s.core k).setStream st { (s.core k).stream st with state := 3, stall := 5, obj := q, entry := some q })) := by
  rw [exec_loop_eq, execLoop, guardWf_of_wf hwf]
  simp only [h, hv, if_true, Bool.false_eq_true, if_false]
  rfl

theorem exec_loop_of_fresh (h : s.issuer c st (.loop ⟨true, q, 0⟩) = some (p, k)) (hwf : Instr.wf (.loop c st ⟨true, q, 0⟩) = true)
    (hv : ((s.core k).slot q).fresh st = true) : exec (.loop c st ⟨true, q, 0⟩) s = .next (s.latch k c p q st) := by
  rw [exec_loop_eq, execLoop, guardWf_of_wf hwf]
  simp only [h, hv, if_true]

/-- Of a stream with no entry waiting, the one that enters the loop is the stream as it is. -/
theorem Core.enterLoop_of_ready {x : Core} (h : (x.stream st).ready = true) (q : Nat) :
    x.enterLoop q st = (x.setSlot q ((x.slot q).latch st)).setStream st ((x.stream st).enter (x.slot q).value) := by
  have he : ({ x.stream st with entry := none } : Stream) = x.stream st := by rw [← Stream.entry_of_ready h]
  rw [Core.enterLoop, he]

end

/-- Settles O10: the next instruction by what the innermost loop's tail says, a loop's entry by what its count is. -/
theorem loopsRun : Obligations.LoopsRun := by
  unfold Obligations.LoopsRun
  refine ⟨fun t => ⟨Stream.advance_of_noLoop, fun _ _ => Stream.advance_of_inside, fun _ _ => Stream.advance_of_again, fun _ _ => Stream.advance_of_last⟩, ?_⟩
  intro s c st p k q n x t v tail go
  refine ⟨exec_loop_of_count, exec_loop_of_stale, fun h hwf hv hguard => ?_⟩
  obtain ⟨-, -, -, hready, -⟩ := State.issuer_eq_some_iff.1 h
  rw [exec_loop_of_fresh h hwf hv, State.latch_of_noGuard hguard, Core.enterLoop_of_ready hready]
  rfl

end Sys2Proof.Machine
end

section
/-! Chapter 5 of the manual: address generators, drain descriptors, the row engine's rebase, and writes and latches of count slots. -/

namespace Sys2Proof.Machine

/-! ### AGBASE, AGSTR, DDESC and REBASE (R184, R186, R209, R215) -/

section

variable {s : State} {c p k : Nat}

theorem exec_agbase_of_issuer {g r o : Nat} (h : s.issuer c .a (.agbase g r o) = some (p, k)) (hwf : Instr.wf (.agbase c g r o) = true) :
    exec (.agbase c g r o) s = .next (s.setCore k { s.core k with
      a := (s.core k).a.advance, ags := Tab.put (s.core k).ags g ⟨some r, o, ((s.core k).ag g).strides⟩ }) := by
  show execAgbase c g r o s = _
  rw [execAgbase, guardWf_of_wf hwf, State.control_of_issuer h]
  rfl

theorem exec_agstr_of_issuer {g : Nat} {hi : Bool} {s0 s1 s2 : Nat} (h : s.issuer c .a (.agstr g hi s0 s1 s2) = some (p, k))
    (hwf : Instr.wf (.agstr c g hi s0 s1 s2) = true) :
    exec (.agstr c g hi s0 s1 s2) s = .next (s.setCore k { s.core k with
      a := (s.core k).a.advance
      ags := Tab.put (s.core k).ags g { (s.core k).ag g with strides := setStrides ((s.core k).ag g).strides hi s0 s1 s2 } }) := by
  show execAgstr c g hi s0 s1 s2 s = _
  rw [execAgstr, guardWf_of_wf hwf, State.control_of_issuer h]
  rfl

theorem exec_ddesc_of_issuer {n : Nat} {d : DescB} (h : s.issuer c .x (.ddesc n d) = some (p, k)) (hwf : Instr.wf (.ddesc c n d) = true) :
    exec (.ddesc c n d) s = .next (s.setCore k { s.core k with x := (s.core k).x.advance, dds := Tab.put (s.core k).dds n d }) := by
  show execDdesc c n d s = _
  rw [execDdesc, guardWf_of_wf hwf, State.control_of_issuer h]
  rfl

theorem exec_rebase_of_issuer {d sd eb : Nat} (h : s.issuer c .x (.rebase d sd eb) = some (p, k)) (hwf : Instr.wf (.rebase c d sd eb) = true) :
    exec (.rebase c d sd eb) s = .next (s.setCore k { s.core k with x := (s.core k).x.advance, rebase := some (d, sd, eb) }) := by
  show execRebase c d sd eb s = _
  rw [execRebase, guardWf_of_wf hwf, State.control_of_issuer h]
  rfl

end

/-! ### A slot's first waiting write (R155, R156) -/

section

variable {x : Core} {q : Nat}

/-- A CSET's value enters the slot, and its stream goes on. -/
theorem Core.slotWrite_of_cset {n : Nat} {r : List SlotWrite} (hw : (x.slot q).writes = ⟨none, some n⟩ :: r) (hl : (x.slot q).latched = true) :
    x.slotWrite q = { x with
      a := ({ x.a with slotw := false } : Stream).advance
      slots := Tab.put x.slots q { x.slot q with value := n, seq := (x.slot q).seq + 1, writes := r } } := by
  simp only [Core.slotWrite, hw, hl, if_true]
  rfl

/-- While a reader has not latched the last value, every write waits. -/
theorem Core.slotWrite_of_unlatched (hl : (x.slot q).latched = false) : x.slotWrite q = x := by
  simp only [Core.slotWrite, hl, Bool.false_eq_true, if_false]
  split <;> rfl

end

/-! ### CSET (R154 to R156, R183) -/

/-- The core whose A-stream waits for its CSET to write the slot, behind the writes that wait already. -/
def Core.csetWaits (x : Core) (q val : Nat) : Core :=
  { x with
    a := { x.a with state := 3, stall := 6, obj := q, slotw := true }
    slots := Tab.put x.slots q { x.slot q with writes := (x.slot q).writes ++ [⟨none, some val⟩] } }

theorem Core.slot_csetWaits (x : Core) (q val : Nat) : (x.csetWaits q val).slot q = { x.slot q with writes := (x.slot q).writes ++ [⟨none, some val⟩] } :=
  Tab.get_put_self _ _ _ _

/-- How a CSET waits reads neither the values latched nor the slot's value. -/
theorem Core.latched_csetWaits (x : Core) (q val : Nat) : ((x.csetWaits q val).slot q).latched = (x.slot q).latched := by
  rw [Core.slot_csetWaits]
  rfl

/-- A CSET with nothing before it takes effect where every reader has latched. -/
theorem Core.slotWrite_csetWaits {x : Core} {q : Nat} (hw : (x.slot q).writes = []) (hl : (x.slot q).latched = true) (hs : x.a.slotw = false) (val : Nat) :
    (x.csetWaits q val).slotWrite q = { x with
      a := x.a.advance
      slots := Tab.put x.slots q { x.slot q with value := val, seq := (x.slot q).seq + 1 } } := by
  have hwrites : ((x.csetWaits q val).slot q).writes = ⟨none, some val⟩ :: [] := by rw [Core.slot_csetWaits, hw, List.nil_append]
  have hslot : ({ (x.csetWaits q val).slot q with value := val, seq := ((x.csetWaits q val).slot q).seq + 1, writes := [] } : Slot) =
      { x.slot q with value := val, seq := (x.slot q).seq + 1 } := by rw [Core.slot_csetWaits, ← hw]
  have hstream : ({ (x.csetWaits q val).a with slotw := false } : Stream).advance = x.a.advance := by rw [← hs]; rfl
  rw [Core.slotWrite_of_cset hwrites ((x.latched_csetWaits q val).trans hl), hslot, hstream]
  simp only [Core.csetWaits, Tab.put_put]

section

variable {s : State} {c p k q val : Nat} (h : s.issuer c .a (.cset q val) = some (p, k)) (hwf : Instr.wf (.cset c q val) = true)

include h hwf

theorem exec_cset_of_first (hw : ((s.core k).slot q).writes = []) :
    exec (.cset c q val) s = .next (s.setCore k (((s.core k).csetWaits q val).slotWrite q)) := by
  show execCset c q val s = _
  rw [execCset, guardWf_of_wf hwf]
  simp only [h, State.updCore, Core.csetWaits, hw]
  rfl

theorem exec_cset_of_behind (hw : ((s.core k).slot q).writes ≠ []) :
    exec (.cset c q val) s = .next (s.setCore k ((s.core k).csetWaits q val)) := by
  obtain ⟨w, r, hwr⟩ := List.exists_cons_of_ne_nil hw
  show execCset c q val s = _
  rw [execCset, guardWf_of_wf hwf]
  simp only [h, State.updCore, Core.csetWaits, hwr]
  rfl

theorem exec_cset_of_latched (hw : ((s.core k).slot q).writes = []) (hl : ((s.core k).slot q).latched = true) :
    exec (.cset c q val) s = .next (s.setCore k { s.core k with
      a := (s.core k).a.advance
      slots := Tab.put (s.core k).slots q { (s.core k).slot q with value := val, seq := ((s.core k).slot q).seq + 1 } }) := by
  obtain ⟨-, -, -, hready, -⟩ := State.issuer_eq_some_iff.1 h
  rw [exec_cset_of_first h hwf hw, Core.slotWrite_csetWaits hw hl (Stream.slotw_of_ready hready)]

theorem exec_cset_of_waits (hn : ((s.core k).slot q).writes ≠ [] ∨ ((s.core k).slot q).latched = false) :
    exec (.cset c q val) s = .next (s.setCore k ((s.core k).csetWaits q val)) := by
  by_cases hw : ((s.core k).slot q).writes = []
  · have hl := (Core.latched_csetWaits (s.core k) q val).trans (hn.resolve_left (not_not_intro hw))
    rw [exec_cset_of_first h hwf hw, Core.slotWrite_of_unlatched hl]
  · exact exec_cset_of_behind h hwf hw

end

/-! ### COUNT_SLOT_WRITE and LOOP_ENTRY_LATCH (R156) -/

section

variable {s : State} {c k q : Nat} (hc : c < 128) (hk : s.phys c = some k)

include hc hk

theorem exec_countSlotWrite_of_phys (hq : q < 16) : exec (.countSlotWrite c q) s = .next (s.setCore k ((s.core k).slotWrite q)) := by
  have hwf : Instr.wf (.countSlotWrite c q) = true := by simp [Instr.wf, wfCore, hc, hq]
  show execCountSlotWrite c q s = _
  rw [execCountSlotWrite, guardWf_of_wf hwf]
  simp only [hk]
  rfl

/-- A waiting loop entry latches a value that its stream has not latched. -/
theorem exec_loopEntryLatch_of_fresh {p : Nat} {st : Strm} (hp : s.partOf c = some p) (he : ((s.core k).stream st).entry = some q)
    (hv : ((s.core k).slot q).fresh st = true) : exec (.loopEntryLatch c st) s = .next (s.latch k c p q st) := by
  have hwf : Instr.wf (.loopEntryLatch c st) = true := decide_eq_true hc
  show execLoopEntryLatch c st s = _
  rw [execLoopEntryLatch, guardWf_of_wf hwf]
  simp only [hp, hk, he, hv, if_true]

end

/-- Settles O12: the control instructions by their effect on the core, the slot's writes by whether every reader has latched. -/
theorem streamSetup : Obligations.StreamSetup := by
  unfold Obligations.StreamSetup
  refine ⟨fun s c p k => ⟨fun _ _ _ => exec_agbase_of_issuer, fun g hi s0 s1 s2 h hwf => ?_, fun _ _ => exec_ddesc_of_issuer, fun _ _ _ =>
    exec_rebase_of_issuer⟩, fun s c k q val => ⟨fun p => exec_cset_of_latched, fun p => exec_cset_of_waits, fun hc hq hk n r hw hl => ?_,
    fun hc hk p hp he hv => ?_⟩⟩
  · rw [exec_agstr_of_issuer h hwf]
    cases hi <;> rfl
  · rw [exec_countSlotWrite_of_phys hc hk hq, Core.slotWrite_of_cset hw hl]
  · have hfresh : ((s.core k).slot q).fresh .x = true := bne_iff_ne.2 hv
    rw [exec_loopEntryLatch_of_fresh (st := .x) hc hk hp he hfresh, State.latch_x]
    rfl

end Sys2Proof.Machine
end

section
/-! Chapter 5 of the manual: the row engine's groups and queue moves. -/

namespace Sys2Proof.Machine

/-! ### The operation whose next group may start (R218, R258) -/

section

variable {c : Core} {o : Op} {r : List Op}

theorem Core.rowNext_of_started (h : c.rowOps = o :: r) (hc : o.cnt < o.groups) (hr : o.res = []) : c.rowNext = some o := by
  simp only [Core.rowNext, h, hc, hr, if_true]

theorem Core.rowNext_of_holds (h : c.rowOps = o :: r) (hc : o.cnt < o.groups) (hr : o.res ≠ []) : c.rowNext = none := by
  simp only [Core.rowNext, h, hc, hr, if_true, if_false]

/-- While the results of a final group hold, the next operation may start its first group. -/
theorem Core.rowNext_of_final {e : Op} (h : c.rowOps = o :: e :: r) (hc : o.groups ≤ o.cnt) : c.rowNext = if e.cnt = 0 then some e else none := by
  simp only [Core.rowNext, h, Nat.not_lt.2 hc, if_false, List.head?_cons]
  by_cases he : e.cnt = 0 <;> simp [Option.filter, he]

end

/-! ### Pulls and pushes of one queue (R130) -/

@[simp] theorem pullBytes_one (q n : Nat) : pullBytes [(q, n)] q = n := by simp [pullBytes, sumOf]

theorem Core.popPulls_one (c : Core) (q n t : Nat) : c.popPulls [(q, n)] t = c.setQueue q ((c.queue q).pop n t) := by
  simp [Core.popPulls]

theorem Core.pullsReady_one (c : Core) (o : Op) (q n : Nat) :
    c.pullsReady o [(q, n)] = (c.popTurn o q && decide (n ≤ (c.queue q).bytes.length)) := by
  simp [Core.pullsReady]

/-- One result is pushed in its turn where its queue has room. -/
theorem Core.pushAll_one {bs : List PByte} (hb : bs ≠ []) (c : Core) (o : Op) (q t : Nat) :
    c.pushAll o [(q, bs)] t =
      if c.pushTurn o q = true ∧ bs.length ≤ (c.queue q).free then some (c.setQueue q ((c.queue q).push bs t)) else none := by
  simp [Core.pushAll, hb]

theorem Queue.length_front (v : Queue) (n : Nat) : (v.front n).length = min n v.bytes.length := by
  simp [Queue.front]

/-! ### Results are pushed (R218) -/

section

variable {c : Core} {o : Op} {r : List Op} (h : c.rowOps = o :: r) (hc : 0 < o.cnt) {t : Nat}

include h hc

theorem Core.rowPush_of_full (hp : c.pushAll o o.res t = none) : c.rowPush t = c := by
  simp only [Core.rowPush, h, List.head?_cons, Nat.ne_of_gt hc, if_false, hp]

theorem Core.rowPush_of_room {y : Core} (hp : c.pushAll o o.res t = some y) :
    c.rowPush t = if o.cnt = o.groups then y.finish o else y.setOp { o with res := [] } := by
  simp only [Core.rowPush, h, List.head?_cons, Nat.ne_of_gt hc, if_false, hp]

variable {q : Nat} {bs : List PByte} (hr : o.res = [(q, bs)]) (hb : bs ≠ [])

include hr hb

theorem Core.rowPush_of_noRoom (hn : c.pushTurn o q = false ∨ (c.queue q).free < bs.length) : c.rowPush t = c := by
  refine Core.rowPush_of_full h hc ?_
  rw [hr, Core.pushAll_one hb, if_neg]
  rintro ⟨hturn, hroom⟩
  obtain hno | hno := hn
  · exact Bool.false_ne_true (hno.symm.trans hturn)
  · omega

/-- The result enters its queue; the operation completes with its final group. -/
theorem Core.rowPush_of_result (hturn : c.pushTurn o q = true) (hroom : bs.length ≤ (c.queue q).free) :
    (c.rowPush t).queues = (c.setQueue q ((c.queue q).push bs t)).queues ∧
      (c.rowPush t).ops = if o.cnt = o.groups then c.ops.filter (fun e => e.id != o.id) else (c.setOp { o with res := [] }).ops := by
  have hp : c.pushAll o o.res t = some (c.setQueue q ((c.queue q).push bs t)) := by rw [hr, Core.pushAll_one hb, if_pos ⟨hturn, hroom⟩]
  rw [Core.rowPush_of_room h hc hp]
  split <;> exact ⟨rfl, rfl⟩

end

theorem Core.queue_of_queues {c d : Core} (h : c.queues = d.queues) (q : Nat) : c.queue q = d.queue q := by simp only [Core.queue, h]

/-! ### A group pops and holds (R218, R219) -/

section

variable (x : Core) (o : Op) (q d n t : Nat) (bs : List PByte)

/-- A queue move's group pops its bytes from one queue. -/
theorem Core.queues_rowHold_one : (x.rowHold o [(q, n)] [(d, bs)] t).queues = (x.setQueue q ((x.queue q).pop n t)).queues := by
  rw [Core.rowHold, Core.popPulls_one]
  rfl

theorem Core.ops_rowHold_one (hb : bs ≠ []) :
    (x.rowHold o [(q, n)] [(d, bs)] t).ops = (x.setOp { o with cnt := o.cnt + 1, res := [(d, bs)] }).ops := by
  have hres : [(d, bs)].filter (fun e => !e.2.isEmpty) = [(d, bs)] := by simp [hb]
  rw [Core.rowHold, Core.popPulls_one, hres]
  rfl

end

/-! ### One group of an operation on the state (R218, R219) -/

theorem State.genKey_setCore (s : State) (k : Nat) (x : Core) (c : Nat) : (s.setCore k x).genKey c = s.genKey c := rfl

/-- Flags are raised in a register: a core set before or after is the same. -/
theorem State.setCore_raise (s : State) (k j : Nat) (f : Fl) (x : Core) : (s.raise k f).setCore j x = (s.setCore j x).raise k f := by
  unfold State.raise
  split <;> rfl

/-- What the next group of an RX delivers, with its scalar operands read at the first group (R213). -/
def Core.rxResult (x : Core) (o : Op) (b : RxB) (key : Nat) : Op × RxOut :=
  rxGroup (if o.cnt = 0 then { o with scal := (List.range 16).map x.scalar } else o) b key (pullData x [] (rxPulls b o.cnt))

/-- The core once that group has popped its operands, and holds its results or has set its scalar. -/
def Core.rxHeld (x : Core) (o : Op) (b : RxB) (key t : Nat) : Core :=
  let r := x.rxResult o b key
  let y := x.rowHold r.1 (rxPulls b o.cnt) [(b.dst, r.2.bytes), (b.sc, r.2.scales)] t
  { y with scalars := match r.2.scalar with
    | some v => Tab.put y.scalars (b.dst - 16) v
    | none => y.scalars }

section

variable {s : State} {k c : Nat} {x : Core} {o : Op}

theorem State.rxStep_of_ready {b : RxB} (h : x.pullsReady o (rxPulls b o.cnt) = true) :
    (s.setCore k x).rxStep k c o b =
      (s.setCore k (x.rxHeld o b (s.genKey c) s.clock.eclk)).raise k (x.rxResult o b (s.genKey c)).2.fl := by
  rcases hv : (x.rxResult o b (s.genKey c)).2.scalar with _ | v <;>
    (unfold Core.rxResult at hv
     simp only [State.rxStep, State.core_setCore_self, h, Bool.not_true, Bool.false_eq_true, if_false, State.setCore_setCore, State.genKey_setCore,
       State.setCore_clock, Core.rxHeld, Core.rxResult, hv])

theorem State.rxStep_of_short {b : RxB} (h : x.pullsReady o (rxPulls b o.cnt) = false) : (s.setCore k x).rxStep k c o b = s.setCore k x := by
  simp only [State.rxStep, State.core_setCore_self, h, Bool.not_false, if_true]

/-- The bytes that the next group of a queue move of `m` bytes passes (R219). -/
def moveBytes (o : Op) (m : Nat) : Nat := min 128 (m - 128 * o.cnt)

theorem State.qmoveStep_of_ready {qs qd m : Nat} (h : x.pullsReady o [(qs, moveBytes o m)] = true) :
    (s.setCore k x).qmoveStep k o qs qd m =
      s.setCore k (x.rowHold o [(qs, moveBytes o m)] [(qd, (x.queue qs).front (moveBytes o m))] s.clock.eclk) := by
  unfold moveBytes at h ⊢
  simp only [State.qmoveStep, State.core_setCore_self, h, Bool.not_true, Bool.false_eq_true, if_false, State.setCore_setCore, State.setCore_clock]

theorem State.qmoveStep_of_short {qs qd m : Nat} (h : x.pullsReady o [(qs, moveBytes o m)] = false) :
    (s.setCore k x).qmoveStep k o qs qd m = s.setCore k x := by
  unfold moveBytes at h
  simp only [State.qmoveStep, State.core_setCore_self, h, Bool.not_false, if_true]

end

/-! ### RX_GROUP (R218) -/

theorem exec_rxGroup_eq (c : Nat) (s : State) : exec (.rxGroup c []) s = execRxGroup c [] s := rfl

section

variable {s : State} {c k : Nat} {x : Core} (hwf : Instr.wf (.rxGroup c []) = true) (hk : s.phys c = some k)
  (hx : (s.core k).rowPush s.clock.eclk = x)

include hwf hk hx

theorem exec_rxGroup_of_none (hn : x.rowNext = none) : exec (.rxGroup c []) s = .next (s.setCore k x) := by
  rw [exec_rxGroup_eq, execRxGroup, guardWf_of_wf hwf]
  simp only [hk, State.meetErrs_nil, State.updCore_setCore, State.core_setCore_self, hx, hn]

variable {o : Op} (hn : x.rowNext = some o)

include hn

section

variable {cf : Cf} {b : RxB} (hi : o.ins = .rx cf b)

include hi

theorem exec_rxGroup_of_rx :
    exec (.rxGroup c []) s = .next (
      let u := (s.setCore k x).rxStep k c o b
      u.setCore k ((u.core k).rowPush s.clock.eclk)) := by
  rw [exec_rxGroup_eq, execRxGroup, guardWf_of_wf hwf]
  simp only [hk, State.meetErrs_nil, State.updCore_setCore, State.core_setCore_self, hx, hn, hi]

/-- The group computes, and what it holds is pushed where there is room. -/
theorem exec_rxGroup_of_rxReady (h : x.pullsReady o (rxPulls b o.cnt) = true) :
    exec (.rxGroup c []) s = .next ((s.setCore k ((x.rxHeld o b (s.genKey c) s.clock.eclk).rowPush s.clock.eclk)).raise k
      (x.rxResult o b (s.genKey c)).2.fl) := by
  rw [exec_rxGroup_of_rx hwf hk hx hn hi, State.rxStep_of_ready h]
  simp only [State.core_raise, State.core_setCore_self, State.setCore_raise, State.setCore_setCore]

theorem exec_rxGroup_of_rxShort (h : x.pullsReady o (rxPulls b o.cnt) = false) :
    exec (.rxGroup c []) s = .next (s.setCore k (x.rowPush s.clock.eclk)) := by
  rw [exec_rxGroup_of_rx hwf hk hx hn hi, State.rxStep_of_short h]
  simp only [State.core_setCore_self, State.setCore_setCore]

end

section

variable {cf : Cf} {qs qd m : Nat} (hi : o.ins = .qmove cf qs qd m)

include hi

theorem exec_rxGroup_of_qmove :
    exec (.rxGroup c []) s = .next (
      let u := (s.setCore k x).qmoveStep k o qs qd m
      u.setCore k ((u.core k).rowPush s.clock.eclk)) := by
  rw [exec_rxGroup_eq, execRxGroup, guardWf_of_wf hwf]
  simp only [hk, State.meetErrs_nil, State.updCore_setCore, State.core_setCore_self, hx, hn, hi]

/-- The group's bytes leave their queue with their marks, and are pushed where there is room. -/
theorem exec_rxGroup_of_qmoveReady (hturn : x.popTurn o qs = true) (hlen : moveBytes o m ≤ (x.queue qs).bytes.length) :
    exec (.rxGroup c []) s = .next (s.setCore k
      ((x.rowHold o [(qs, moveBytes o m)] [(qd, (x.queue qs).front (moveBytes o m))] s.clock.eclk).rowPush s.clock.eclk)) := by
  have h : x.pullsReady o [(qs, moveBytes o m)] = true := by
    rw [Core.pullsReady_one, hturn, Bool.true_and]
    exact decide_eq_true hlen
  rw [exec_rxGroup_of_qmove hwf hk hx hn hi, State.qmoveStep_of_ready h]
  simp only [State.core_setCore_self, State.setCore_setCore]

theorem exec_rxGroup_of_qmoveShort (hno : x.popTurn o qs = false ∨ (x.queue qs).bytes.length < moveBytes o m) :
    exec (.rxGroup c []) s = .next (s.setCore k (x.rowPush s.clock.eclk)) := by
  have h : x.pullsReady o [(qs, moveBytes o m)] = false := by
    rw [Core.pullsReady_one, Bool.and_eq_false_iff, decide_eq_false_iff_not, Nat.not_le]
    exact hno
  rw [exec_rxGroup_of_qmove hwf hk hx hn hi, State.qmoveStep_of_short h]
  simp only [State.core_setCore_self, State.setCore_setCore]

end

end

/-- Settles O29: a group by whether its operands are in the queues, its results by whether their queues have room. -/
theorem rowGroups : Obligations.RowGroups := by
  unfold Obligations.RowGroups
  intro s c k hwf hk t x
  refine ⟨exec_rxGroup_of_none hwf hk rfl, fun o cf qs qd m hn hi => ?_, fun o cf b hn hi => ?_, fun v o r h => ⟨Core.rowNext_of_started h,
    Core.rowNext_of_holds h, fun hc e l hr => Core.rowNext_of_final (hr ▸ h) hc, fun hc => Core.rowPush_of_full h hc, fun q bs hc hr hb =>
    ⟨Core.rowPush_of_noRoom h hc hr hb, fun hturn hroom => ?_⟩⟩⟩
  · intro z y
    refine ⟨fun hturn hlen => ⟨exec_rxGroup_of_qmoveReady hwf hk rfl hn hi hturn hlen, ?_, fun q hq => ?_, fun hz => ?_⟩,
      exec_rxGroup_of_qmoveShort hwf hk rfl hn hi⟩
    · rw [Core.queue_of_queues (Core.queues_rowHold_one ..), Core.queue_setQueue_self]
      rfl
    · rw [Core.queue_of_queues (Core.queues_rowHold_one ..), Core.queue_setQueue_ne _ _ hq]
    · refine Core.ops_rowHold_one _ _ _ _ _ _ _ (List.ne_nil_of_length_pos ?_)
      rw [Queue.length_front]
      omega
  · exact ⟨exec_rxGroup_of_rxReady hwf hk rfl hn hi, exec_rxGroup_of_rxShort hwf hk rfl hn hi⟩
  · obtain ⟨hqueues, hops⟩ := Core.rowPush_of_result (t := t) h hc hr hb hturn hroom
    refine ⟨?_, fun e he => ?_, hops⟩
    · rw [Core.queue_of_queues hqueues, Core.queue_setQueue_self]
      rfl
    · rw [Core.queue_of_queues hqueues, Core.queue_setQueue_ne _ _ he]

end Sys2Proof.Machine
end

section
/-! SUPPORT. Parts of an epoch: its host's part, what messages to ranks leave of the state, the fields of a status record, and the additions made before a close. -/

namespace Sys2Proof.Machine

/-! ### The host's part (R378 to R392) -/

section

variable {s : State} {ch : Nat} {e : Epoch} {h : HostSide}

theorem State.updHost_of_host (he : s.epoch ch = some e) (hh : e.host = some h) (f : HostSide → HostSide) :
    s.updHost ch f = s.putEpoch { e with host := some (f h) } := by
  rw [State.updHost, State.updEpoch_of_epoch he, hh, Option.map_some]

theorem State.hosted_of_none (he : s.epoch ch = some e) (hh : e.host = none) : s.hosted ch = none := by
  simp only [State.hosted, he, hh, Option.bind_some, Option.bind_none]

theorem State.hosted_of_open (he : s.epoch ch = some e) (hh : e.host = some h) (ho : h.outcome = none) : s.hosted ch = some (e, h) := by
  simp only [State.hosted, he, hh, ho, Option.bind_some, Option.isNone_none, if_true]

theorem State.hosted_of_closed (he : s.epoch ch = some e) (hh : e.host = some h) (ho : h.outcome ≠ none) : s.hosted ch = none := by
  simp [State.hosted, he, hh, ho]

/-- The host's part of an epoch just set. -/
theorem State.updHost_putEpoch (s : State) (hn : e.name.rch = ch) (hh : e.host = some h) (f : HostSide → HostSide) :
    (s.putEpoch e).updHost ch f = s.putEpoch { e with host := some (f h) } := by
  rw [State.updHost_of_host (State.epoch_putEpoch hn) hh]
  simp only [State.putEpoch, Tab.put_put]

end

theorem State.reach_eq (s : State) (t : Nat) : s.reach t = { s with clock := (s.reach t).clock } := by
  unfold State.reach
  split <;> rfl

theorem State.epoch_reach (s : State) (t ch : Nat) : (s.reach t).epoch ch = s.epoch ch := by
  rw [State.reach_eq]
  rfl

theorem State.epoch_addFld (s : State) (a hi lo n ch : Nat) : (s.addFld a hi lo n).epoch ch = s.epoch ch := by
  simp only [State.epoch, State.addFld_epochs]

theorem State.now_addFld (s : State) (a hi lo n : Nat) : (s.addFld a hi lo n).now = s.now := by
  simp only [State.now, State.addFld_clock]

/-! ### What a message to ranks leaves (R358, R382) -/

namespace State

/-- `t` is `s` but for this device's messages to itself and what traffic leaves behind. -/
def ToldOnly (s t : State) : Prop := State.TrafficOnly { s with localQ := t.localQ } t

namespace ToldOnly

variable {σ s t : State}

theorem refl (s : State) : s.ToldOnly s := rfl

theorem traffic (h : σ.ToldOnly s) (g : s.TrafficOnly t) : σ.ToldOnly t := by
  rw [ToldOnly, TrafficOnly, g, h]

theorem queue (h : σ.ToldOnly s) (l : List Msg) : σ.ToldOnly { s with localQ := l } := by
  rw [ToldOnly, TrafficOnly, h]

theorem toRank (h : σ.ToldOnly s) (g r : Nat) (m : Msg) : σ.ToldOnly (s.toRank g r m) := by
  unfold State.toRank
  split
  · split
    · exact h.queue _
    · exact h.traffic (.sendTo (.refl s) _ _ _ _)
  · exact h

theorem toRanks (h : σ.ToldOnly s) (g : Nat) (rs : List Nat) (m : Msg) : σ.ToldOnly (s.toRanks g rs m) := by
  unfold State.toRanks
  induction rs generalizing s with
  | nil => exact h
  | cons r l ih => exact ih (h.toRank g r m)

theorem epoch (h : s.ToldOnly t) (ch : Nat) : t.epoch ch = s.epoch ch := by
  rw [h]
  rfl

theorem now (h : s.ToldOnly t) : t.now = s.now := by
  rw [h]
  rfl

end ToldOnly

theorem exportCensus_traffic (s : State) (e : Epoch) (l : List Nat) : s.TrafficOnly (s.exportCensus e l) :=
  (TrafficOnly.refl s).foldl (fun _ h => h.telemetry _ _ _ _) _

end State

/-! ### The fields of a status record (R389) -/

theorem fieldLe_toLe (n v : Nat) (l : List Byte) : fieldLe (toLe n v ++ l) 0 n = v % 256 ^ n := by
  rw [fieldLe, List.drop_zero, List.take_left' (length_toLe n v), ofLe_toLe]

/-- A field behind the first one of a record. -/
theorem fieldLe_skip {m off : Nat} (h : m ≤ off) (w n : Nat) (l : List Byte) : fieldLe (toLe m w ++ l) off n = fieldLe l (off - m) n := by
  rw [fieldLe, fieldLe, List.drop_append, List.drop_eq_nil_of_le (by rw [length_toLe]; exact h), List.nil_append, length_toLe]

section

variable (n : EpName) (outcome flags head g : Nat) (divisor recip : Word32) (nans missing first time host ext : Nat)

/-- The counts, times and outcome that a record holds, each at its place. -/
theorem recordOf_fields :
    let r := recordOf n outcome flags head g divisor recip nans missing first time host ext
    fieldLe r 0 4 = n.step % 2 ^ 32 ∧ fieldLe r 6 1 = outcome % 256 ∧ fieldLe r 12 4 = head % 2 ^ 32 ∧ fieldLe r 16 4 = g % 2 ^ 32 ∧
      fieldLe r 28 4 = nans % 2 ^ 32 ∧ fieldLe r 32 4 = missing % 2 ^ 32 ∧ fieldLe r 40 8 = time % 2 ^ 64 ∧ fieldLe r 52 4 = ext % 2 ^ 32 := by
  intro r
  unfold r recordOf
  simp only [List.append_assoc]
  refine ⟨fieldLe_toLe .., ?_, ?_, ?_, ?_, ?_, ?_, ?_⟩ <;>
    · repeat rw [fieldLe_skip (by decide)]
      exact fieldLe_toLe ..

theorem recordOf_apply :
    fieldLe (recordOf n outcome flags head g divisor recip nans missing first time host ext) 8 4 = if outcome = 0 then 1 else 0 := by
  unfold recordOf
  simp only [List.append_assoc]
  repeat rw [fieldLe_skip (by decide)]
  refine (fieldLe_toLe ..).trans ?_
  by_cases h : outcome = 0 <;> simp [h, bit]

theorem length_recordOf : (recordOf n outcome flags head g divisor recip nans missing first time host ext).length = 64 := by
  unfold recordOf
  simp [length_toLe, zeroBytes]

end

/-! ### The additions made before a close (R336, R374) -/

/-- Taking away every member that a predicate holds of leaves the others in their order. -/
theorem diff_filter_self {α : Type} [DecidableEq α] (p : α → Bool) (l : List α) : l.diff (l.filter p) = l.filter (fun x => !p x) := by
  induction l with
  | nil => rfl
  | cons a r ih =>
    by_cases ha : p a = true
    · rw [List.filter_cons_of_pos ha, List.diff_cons, List.erase_cons_head, ih, List.filter_cons_of_neg (by simp [ha])]
    · rw [List.filter_cons_of_neg ha, List.cons_diff_of_not_mem (by simp [ha]), ih, List.filter_cons_of_pos (by simp [ha])]

namespace State

theorem foldl_takeBatch_tally (l : List Batch) (s : State) : (l.foldl State.takeBatch s).tally = s.tally.diff l := by
  induction l generalizing s with
  | nil => exact (List.diff_nil _).symm
  | cons b r ih => rw [List.foldl_cons, ih, takeBatch_tally, List.diff_cons]

theorem finishAdds_tally (s : State) (ch : Nat) : (s.finishAdds ch).tally = s.tally.filter (fun b => b.rch != ch) := by
  rw [finishAdds, foldl_takeBatch_tally, diff_filter_self]
  rfl

/-- A batch changes the holder's part of its epoch alone. -/
theorem takeBatch_epoch {s : State} {b : Batch} {e : Epoch} (h : s.epoch b.rch = some e) (hn : e.name.rch = b.rch) :
    ∃ x, (s.takeBatch b).epoch b.rch = some { e with holder := x } := by
  have htaken : ∃ x, (s.batchTaken b).epoch b.rch = some { e with holder := x } := by
    unfold batchTaken
    split
    · exact ⟨e.holder, h⟩
    · exact ⟨_, tallyBatch_epoch h hn⟩
  obtain ⟨x, hx⟩ := htaken
  rw [takeBatch_eq, applyTalMode_epoch, freeBlock_epoch hx hn]
  split
  · exact ⟨_, rfl⟩
  · exact ⟨_, rfl⟩

theorem foldl_takeBatch_epoch {ch : Nat} {l : List Batch} (hl : ∀ b ∈ l, b.rch = ch) {s : State} {e : Epoch} (h : s.epoch ch = some e) (hn : e.name.rch = ch) :
    ∃ x, (l.foldl State.takeBatch s).epoch ch = some { e with holder := x } := by
  induction l generalizing s e with
  | nil => exact ⟨e.holder, h⟩
  | cons b r ih =>
    obtain ⟨rfl, hr⟩ := List.forall_mem_cons.1 hl
    obtain ⟨x, hx⟩ := takeBatch_epoch h hn
    obtain ⟨y, hy⟩ := ih hr hx hn
    exact ⟨y, hy⟩

theorem finishAdds_epoch {s : State} {ch : Nat} {e : Epoch} (h : s.epoch ch = some e) (hn : e.name.rch = ch) :
    ∃ x, (s.finishAdds ch).epoch ch = some { e with holder := x } :=
  foldl_takeBatch_epoch (fun _ hb => by simpa using (List.mem_filter.1 hb).2) h hn

end State

end Sys2Proof.Machine
end

section
/-! Chapter 11 of the manual: admission, deadlines and the close of an epoch. -/

namespace Sys2Proof.Machine

/-! ### ADMIT and LATE (R384, R385, R399, R404) -/

section

variable {s : State} {e : Epoch} {d : Desc} (h : s.current e d)

include h

theorem State.gotAdmit_of_ended (he : e.holder.ended = true) (hc : e.closed = true) (t : Nat) (up : Option Nat) (ex : List Nat) :
    s.gotAdmit e.name t up ex = s.stale := by
  simp only [State.gotAdmit, h.named, he, hc, and_self, if_true]

omit h in
theorem Epoch.not_over (hn : e.holder.ended = false ∨ e.closed = false) : ¬ (e.holder.ended = true ∧ e.closed = true) := by
  rintro ⟨he, hc⟩
  simp [he, hc] at hn

/-- An ADMIT that names no rank gives the current deadline alone. -/
theorem State.gotAdmit_of_deadline (hn : e.holder.ended = false ∨ e.closed = false) (t : Nat) (ex : List Nat) :
    s.gotAdmit e.name t none ex = s.putEpoch { e with deadline := t } := by
  simp only [State.gotAdmit, h.named, Epoch.not_over hn, if_false, State.updEpoch_of_epoch h.1]

/-- With a rank up to which all are resolved, it gives the counts so far and lets the holder add. -/
theorem State.gotAdmit_of_upTo (hn : e.holder.ended = false ∨ e.closed = false) (t u : Nat) (ex : List Nat) :
    s.gotAdmit e.name t (some u) ex =
      ((s.putEpoch { e with deadline := t }).announce e.name.rch ((e.admitted.getD []).filter (fun r => decide (r ≤ u) && !ex.contains r)).length
        (s.groupSize e.name.group - (e.admitted.getD []).length + ex.length)).catchUp e.name.rch u ex := by
  simp only [State.gotAdmit, h.named, Epoch.not_over hn, if_false, State.updEpoch_of_epoch h.1]
  rfl

theorem State.gotLate_of_noHost (hh : e.host = none) (x : Nat) : s.gotLate e.name x = s.stale := by
  simp only [State.gotLate, h.named, hh]

variable {v : HostSide} (hh : e.host = some v)

include hh

/-- A LATE counts; before the deadline, the delay that LATEX leaves extends it. -/
theorem State.gotLate_of_host (x : Nat) :
    s.gotLate e.name x =
      let w := s.addFld (rRchCnt e.name.rch) 15 0 1
      if v.outcome.isSome = true ∨ e.deadline ≤ s.now then w
      else if min x (d.latex - v.ext) = 0 then w
      else (w.putEpoch { e with deadline := e.deadline + 1000 * min x (d.latex - v.ext), host := some { v with ext := v.ext + min x (d.latex - v.ext) } }).wantAdmit
        e.name.rch := by
  obtain ⟨he, rfl⟩ := id h
  have hw := (s.epoch_addFld (rRchCnt e.name.rch) 15 0 1 e.name.rch).trans he
  simp only [State.gotLate, h.named, hh, State.updEpoch_of_epoch hw, State.now_addFld]
  exact if_congr Iff.rfl rfl (if_congr Iff.rfl rfl (congrArg (State.wantAdmit · _) (State.updHost_putEpoch _ rfl rfl _)))

/-! ### Sending ADMIT (R384) -/

theorem State.sendAdmit_of_host :
    s.sendAdmit e.name.rch =
      ({ s.putEpoch { e with host := some { v with announced := admittedPrefix v v.adm, admitHeld := false } } with
        admitAt := Tab.put s.admitAt e.name.rch s.now } : State).toRanks e.name.group v.adm
          (.admitRanks e.name e.deadline (admittedPrefix v v.adm) (v.ranksOf .excluded)) := by
  simp only [State.sendAdmit, h.1, hh, State.updHost_of_host h.1 hh]

theorem State.wantAdmit_of_host :
    s.wantAdmit e.name.rch =
      if (∀ t, Tab.find s.admitAt e.name.rch = some t → t + 10000 ≤ s.now) then s.sendAdmit e.name.rch
      else s.putEpoch { e with host := some { v with admitHeld := true } } := by
  refine if_congr ?_ rfl (State.updHost_of_host h.1 hh _)
  cases Tab.find s.admitAt e.name.rch <;> simp

end

theorem admittedPrefix_of_unresolved {h : HostSide} {r : Nat} (hr : Tab.find h.resolved r = none) (l : List Nat) : admittedPrefix h (r :: l) = none := by
  simp [admittedPrefix, hr]

theorem admittedPrefix_of_resolved {h : HostSide} {r : Nat} (hr : Tab.find h.resolved r ≠ none) (l : List Nat) :
    admittedPrefix h (r :: l) = some ((admittedPrefix h l).getD r) := by
  rw [admittedPrefix, if_pos (Option.isSome_iff_ne_none.2 hr)]

/-! ### The deadlines' commands (R199, R384, R387) -/

theorem exec_epochDeadline_eq (ch : Nat) (s : State) : exec (.epochDeadline ch) s = execEpochDeadline ch s := rfl

theorem exec_admitIntervalExpiry_eq (ch : Nat) (s : State) : exec (.admitIntervalExpiry ch) s = execAdmitIntervalExpiry ch s := rfl

theorem exec_memberDeadline_eq (ch : Nat) (s : State) : exec (.memberDeadline ch) s = execMemberDeadline ch s := rfl

section

variable {s : State} {ch : Nat} (hch : ch < 64)

include hch

/-- With no open epoch hosted on the channel, neither timer does anything. -/
theorem exec_hostTimers_of_none (h : s.hosted ch = none) : exec (.epochDeadline ch) s = .next s ∧ exec (.admitIntervalExpiry ch) s = .next s := by
  have hdead : Instr.wf (.epochDeadline ch) = true := decide_eq_true hch
  have hadmit : Instr.wf (.admitIntervalExpiry ch) = true := decide_eq_true hch
  rw [exec_epochDeadline_eq, exec_admitIntervalExpiry_eq, execEpochDeadline, execAdmitIntervalExpiry, guardWf_of_wf hdead, guardWf_of_wf hadmit]
  simp only [h, and_self]

variable {e : Epoch} {v : HostSide} (h : s.hosted ch = some (e, v))

include h

theorem exec_epochDeadline_of_hosted :
    exec (.epochDeadline ch) s = .next (if v.rollClosed = true then ((s.reach e.deadline).excludeRest ch).settleRed else s) := by
  have hwf : Instr.wf (.epochDeadline ch) = true := decide_eq_true hch
  rw [exec_epochDeadline_eq, execEpochDeadline, guardWf_of_wf hwf]
  simp only [h]

theorem exec_admitIntervalExpiry_of_hosted :
    exec (.admitIntervalExpiry ch) s =
      .next (if v.admitHeld = true then ((s.reach (Tab.get s.admitAt 0 ch + 10000)).sendAdmit ch).settleRed else s) := by
  have hwf : Instr.wf (.admitIntervalExpiry ch) = true := decide_eq_true hch
  rw [exec_admitIntervalExpiry_eq, execAdmitIntervalExpiry, guardWf_of_wf hwf]
  simp only [h]

end

theorem exec_memberDeadline_of_epoch {s : State} {ch : Nat} {e : Epoch} (hch : ch < 64) (h : s.epoch ch = some e) :
    exec (.memberDeadline ch) s = .next (if e.closed = true ∨ e.admitted.isNone = true then s
      else ((s.reach e.deadline).putEpoch { e with deadlinePassed := true }).settleRed) := by
  have hwf : Instr.wf (.memberDeadline ch) = true := decide_eq_true hch
  rw [exec_memberDeadline_eq, execMemberDeadline, guardWf_of_wf hwf]
  simp only [h, State.updEpoch_of_epoch ((s.epoch_reach e.deadline ch).trans h)]

/-! ### The host closes (R384, R387, R391 to R393) -/

/-- Resolutions with every rank of a list that has none excluded. -/
def excludeAll (l : List Nat) (t : Tab Resolved) : Tab Resolved :=
  l.foldl (fun t r => if (Tab.find t r).isSome then t else Tab.put t r .excluded) t

theorem find_excludeAll (l : List Nat) (t : Tab Resolved) (r : Nat) :
    Tab.find (excludeAll l t) r = if r ∈ l then some ((Tab.find t r).getD .excluded) else Tab.find t r := by
  induction l generalizing t with
  | nil => rfl
  | cons a l ih =>
    rw [excludeAll, List.foldl_cons, ← excludeAll, ih]
    rcases ha : Tab.find t a with _ | x
    · by_cases hr : r = a
      · subst hr
        simp [ha]
      · simp [Tab.find_put_ne, hr]
    · by_cases hr : r = a
      · subst hr
        simp [ha]
      · simp [hr]

/-- The state after the last ADMIT, if one is due (R387). -/
def State.lastAdmit (s : State) (ch : Nat) (v : HostSide) : State :=
  if v.admitHeld = true ∨ v.announced ≠ admittedPrefix v v.adm then s.sendAdmit ch else s

/-- The state in which CLOSE goes out: the outcome and its time are noted, the census exported (R393). -/
def State.closeNoted (s : State) (e : Epoch) (v : HostSide) (out : Nat) : State :=
  let t := s.lastAdmit e.name.rch v
  let t := t.updHost e.name.rch (fun x => { x with outcome := some out, closeAt := t.now, admitHeld := false })
  if v.census.isEmpty then t else t.exportCensus e v.census

/-- The record that CLOSE carries (R389, R392). -/
def State.closeRecord (s : State) (e : Epoch) (v : HostSide) (out : Nat) : List Byte :=
  let t := s.lastAdmit e.name.rch v
  let g := s.groupSize e.name.group
  let inc := v.ranksOf .included
  let div := if out = 0 then fpOfNat (if e.desc.policy = 0 then g else inc.length) else 0
  recordOf e.name out (16 * bit (v.ext != 0)) inc.length g div (if out = 0 then (div32 0x3F800000 div).1 else 0) v.census.length (v.missing g)
    (v.census.headD 0xFFFFFFFF) t.now (t.hostRank e.name.group) v.ext

theorem State.closeRecord_fields (s : State) (e : Epoch) (v : HostSide) (out : Nat) :
    let r := s.closeRecord e v out
    fieldLe r 0 4 = e.name.step % 2 ^ 32 ∧ fieldLe r 6 1 = out % 256 ∧ fieldLe r 12 4 = (v.ranksOf .included).length % 2 ^ 32 ∧
      fieldLe r 16 4 = s.groupSize e.name.group % 2 ^ 32 ∧ fieldLe r 28 4 = v.census.length % 2 ^ 32 ∧
      fieldLe r 32 4 = v.missing (s.groupSize e.name.group) % 2 ^ 32 ∧ fieldLe r 40 8 = (s.lastAdmit e.name.rch v).now % 2 ^ 64 ∧
      fieldLe r 52 4 = v.ext % 2 ^ 32 := recordOf_fields ..

section

variable {s : State} {e : Epoch} {d : Desc} (h : s.current e d) {v : HostSide} (hh : e.host = some v)

include h hh

theorem State.excludeRest_of_host :
    s.excludeRest e.name.rch = (s.putEpoch { e with host := some { v with resolved := excludeAll v.adm v.resolved } }).hostClose e.name.rch none := by
  rw [State.excludeRest, State.updHost_of_host h.1 hh]
  rfl

theorem State.hostClose_of_closed (ho : v.outcome ≠ none) (f : Option Nat) : s.hostClose e.name.rch f = s := by
  simp only [State.hostClose, h.1, hh, Option.isSome_iff_ne_none.2 ho, if_true]

theorem State.hostClose_of_open (ho : v.outcome = none) (f : Option Nat) :
    let inc := v.ranksOf .included
    let out := f.getD (d.outcomeOf (s.groupSize e.name.group) inc.length)
    s.hostClose e.name.rch f =
      ((s.closeNoted e v out).toRanks e.name.group v.audience (.close e.name out (s.closeRecord e v out) inc)).applyGroup e.name.group := by
  obtain ⟨he, rfl⟩ := h
  unfold State.hostClose
  simp only [he, hh, ho, Option.isSome_none, Bool.false_eq_true, if_false]
  rfl

/-- The last ADMIT leaves the epoch but for what it notes of itself, and the time. -/
theorem State.lastAdmit_leaves :
    (∃ x : HostSide, (s.lastAdmit e.name.rch v).epoch e.name.rch = some { e with host := some x } ∧ x.resolved = v.resolved) ∧
      (s.lastAdmit e.name.rch v).now = s.now := by
  unfold State.lastAdmit
  split
  · rw [State.sendAdmit_of_host h hh]
    have htold := (ToldOnly.refl { s.putEpoch { e with host := some { v with announced := admittedPrefix v v.adm, admitHeld := false } } with
      admitAt := Tab.put s.admitAt e.name.rch s.now }).toRanks e.name.group v.adm
        (.admitRanks e.name e.deadline (admittedPrefix v v.adm) (v.ranksOf .excluded))
    exact ⟨⟨_, (htold.epoch _).trans (State.epoch_putEpoch rfl), rfl⟩, htold.now⟩
  · exact ⟨⟨v, by rw [h.1, ← hh], rfl⟩, rfl⟩

theorem State.closeNoted_host (out : Nat) :
    ∃ x : HostSide, ((s.closeNoted e v out).epoch e.name.rch).bind Epoch.host = some x ∧ x.outcome = some out ∧ x.closeAt = s.now ∧ x.resolved = v.resolved := by
  obtain ⟨⟨x, hx, hres⟩, hnow⟩ := State.lastAdmit_leaves h hh
  have hput : ((s.lastAdmit e.name.rch v).updHost e.name.rch (fun x => { x with outcome := some out, closeAt := (s.lastAdmit e.name.rch v).now, admitHeld := false })).epoch
      e.name.rch = some { e with host := some { x with outcome := some out, closeAt := (s.lastAdmit e.name.rch v).now, admitHeld := false } } := by
    rw [State.updHost_of_host hx rfl]
    exact State.epoch_putEpoch rfl
  have hepoch : (s.closeNoted e v out).epoch e.name.rch =
      some { e with host := some { x with outcome := some out, closeAt := (s.lastAdmit e.name.rch v).now, admitHeld := false } } := by
    unfold State.closeNoted
    simp only
    split
    · exact hput
    · rw [State.epoch, (State.exportCensus_traffic _ _ _).leaves.2.2.2]
      exact hput
  exact ⟨{ x with outcome := some out, closeAt := (s.lastAdmit e.name.rch v).now, admitHeld := false }, by rw [hepoch, Option.bind_some], rfl, hnow, hres⟩

end

theorem Desc.outcomeOf_zero (d : Desc) (g : Nat) : d.outcomeOf g 0 = 1 := if_pos rfl

theorem Desc.outcomeOf_all {g hd : Nat} (d : Desc) (h0 : hd ≠ 0) (hg : hd = g) : d.outcomeOf g hd = 0 := by
  rw [Desc.outcomeOf, if_neg h0, if_pos hg]

theorem Desc.outcomeOf_some {g hd : Nat} (d : Desc) (h0 : hd ≠ 0) (hg : hd ≠ g) :
    d.outcomeOf g hd = if d.policy = 0 then 1 else if d.policy = 1 ∨ d.quorum ≤ hd then 0 else 1 := by
  rw [Desc.outcomeOf, if_neg h0, if_neg hg]
  split
  · rfl
  · by_cases hp : d.policy = 1 <;> simp [hp]

/-! ### CLOSE (R386 to R388, R404) -/

/-- The host's counts are entered, but for a holder's INCONSISTENT (R404). -/
def State.closeCounted (s : State) (ch o : Nat) (rec1 : List Byte) : State := if o = 5 then s else s.countClose ch rec1

section

variable {s : State} {e : Epoch} {d : Desc} (h : s.current e d)

include h

theorem State.gotClose_of_closed (hc : e.closed = true) (o : Nat) (rec1 : List Byte) (inc : List Nat) :
    s.gotClose e.name o rec1 inc =
      if e.holder.ended = true then (s.closeCounted e.name.rch o rec1).stale else (s.closeCounted e.name.rch o rec1).closeHolder e.name.rch o inc := by
  simp only [State.gotClose, h.named, hc, true_and, if_true]
  rfl

theorem State.gotClose_of_open (hc : e.closed = false) (o : Nat) (rec1 : List Byte) (inc : List Nat) :
    s.gotClose e.name o rec1 inc =
      let t := (s.closeCounted e.name.rch o rec1).closeHolder e.name.rch o inc
      if e.outcome.isSome = true then (if o = 0 then t else t.endEpoch e.name.rch o)
      else
        let w := t.updEpoch e.name.rch (fun x => if x.closed then x else { x with outcome := some o, record := rec1, included := inc })
        if o = 0 then w.checkLanded e.name.rch else w.endEpoch e.name.rch o := by
  simp only [State.gotClose, h.named, hc, Bool.false_eq_true, false_and, if_false]
  rfl

theorem State.closeHolder_of_ended (he : e.holder.ended = true) (o : Nat) (inc : List Nat) : s.closeHolder e.name.rch o inc = s := by
  simp only [State.closeHolder, h.1, he, if_true]

/-- A holder completes its additions, and owes its results if the outcome is FINAL. -/
theorem State.closeHolder_of_duty (he : e.holder.ended = false) (o : Nat) (inc : List Nat) :
    s.closeHolder e.name.rch o inc =
      let adm := e.admitted.getD []
      let t := if o = 5 then s else s.catchUp e.name.rch (maxOf adm) (adm.filter (fun r => !inc.contains r))
      if o = 0 ∧ e.holds = true then t.updHolder e.name.rch (fun x => { x with final := true }) else t.dropHolder e.name.rch := by
  simp only [State.closeHolder, h.1, he, Bool.false_eq_true, if_false]

theorem Epoch.holds_iff : e.holds = true ↔ ∃ l, e.admitted = some l ∧ d.shardBlocks 1 l e.rank ≠ [] := by
  obtain ⟨-, rfl⟩ := h
  cases ha : e.admitted <;> simp [Epoch.holds, Desc.holds, ha]

end

/-! ### An epoch closes here (R374, R388, R390) -/

theorem State.ownRecord_state (s : State) (e : Epoch) (o : Nat) : (s.ownRecord e o).2 = { s with free := (s.ownRecord e o).2.free } := by
  unfold State.ownRecord
  simp only
  split
  · rfl
  · split <;> rfl

/-- The state whose epoch has the record that it closes with: the host's where CLOSE has brought it with this outcome, else its own. -/
def State.recorded (s : State) (e : Epoch) (o : Nat) : State :=
  if e.outcome = some o ∧ e.record ≠ [] then s else (s.ownRecord e o).2.putEpoch { e with record := (s.ownRecord e o).1 }

section

variable {s : State} {e : Epoch} {d : Desc} (h : s.current e d) (o : Nat)

include h

theorem State.recorded_leaves :
    s.recorded e o = { s with epochs := (s.recorded e o).epochs, free := (s.recorded e o).free } ∧
      ∃ rec1, (s.recorded e o).epoch e.name.rch = some { e with record := rec1 } ∧ (e.record ≠ [] → e.outcome = some o → rec1 = e.record) := by
  unfold State.recorded
  split
  · exact ⟨rfl, e.record, h.1, fun _ _ => rfl⟩
  · rename_i hn
    refine ⟨?_, _, State.epoch_putEpoch rfl, fun hr ho => absurd ⟨ho, hr⟩ hn⟩
    rw [State.ownRecord_state]
    rfl

theorem State.endEpoch_of_open (hc : e.closed = false) : s.endEpoch e.name.rch o = (s.recorded e o).closeEpoch e.name.rch o := by
  unfold State.endEpoch State.recorded
  simp only [h.1, hc, Bool.false_eq_true, if_false]
  split <;> rfl

end

/-- An epoch that is open closes once its additions are made. -/
theorem State.closeEpoch_of_open {s : State} {ch : Nat} {e : Epoch} (he : s.epoch ch = some e) (hc : e.closed = false) {y : Epoch}
    (hy : (s.finishAdds ch).epoch ch = some y) (o : Nat) :
    s.closeEpoch ch o = (((s.finishAdds ch).putEpoch { y with closed := true, outcome := some o }).setFld (rRchStat ch) 59 56 o).applyGroup e.name.group := by
  simp only [State.closeEpoch, he, hc, Bool.false_eq_true, if_false, State.updEpoch_of_epoch hy]

/-- An epoch that ends here is open in a state that differs in its record alone, makes its additions, and closes. -/
theorem State.endEpoch_closes {s : State} {e : Epoch} {d : Desc} (h : s.current e d) (hc : e.closed = false) (o : Nat) :
    ∃ (x : State) (rec1 : List Byte), x = { s with epochs := x.epochs, free := x.free } ∧ x.epoch e.name.rch = some { e with record := rec1 } ∧
      (e.record ≠ [] → e.outcome = some o → rec1 = e.record) ∧ (x.finishAdds e.name.rch).tally = s.tally.filter (fun b => b.rch != e.name.rch) ∧
      ∃ y : Epoch, (x.finishAdds e.name.rch).epoch e.name.rch = some y ∧ y = { e with record := rec1, holder := y.holder } ∧
        s.endEpoch e.name.rch o =
          (((x.finishAdds e.name.rch).putEpoch { y with closed := true, outcome := some o }).setFld (rRchStat e.name.rch) 59 56 o).applyGroup e.name.group := by
  obtain ⟨hx, rec1, hrec, hkept⟩ := State.recorded_leaves h o
  obtain ⟨y, hy⟩ := State.finishAdds_epoch hrec rfl
  refine ⟨s.recorded e o, rec1, hx, hrec, hkept, ?_, _, hy, rfl, ?_⟩
  · rw [State.finishAdds_tally, hx]
  · rw [State.endEpoch_of_open h o hc]
    exact State.closeEpoch_of_open hrec hc hy o

/-- Settles O55: each message and timer by its equation on the epoch it names; the close by the host's record, the epoch's end by its additions. -/
theorem admissionAndClose : Obligations.AdmissionAndClose := by
  unfold Obligations.AdmissionAndClose
  intro s e d h
  refine ⟨fun t up ex => ⟨fun he hc => State.gotAdmit_of_ended h he hc t up ex, fun hn => ?_⟩, fun _ _ => rfl, fun hh => ?_, fun v hh => ?_, fun hd => ?_,
    fun hch => ?_, fun o rec1 inc => ?_, State.closeHolder_of_ended h, fun o inc he => ?_, fun o _ _ hc => State.endEpoch_closes h hc o⟩
  · constructor
    · rintro rfl
      exact State.gotAdmit_of_deadline h hn t ex
    · rintro u rfl
      exact State.gotAdmit_of_upTo h hn t u ex
  · exact ⟨State.gotLate_of_noHost h hh, fun hch => exec_hostTimers_of_none hch (State.hosted_of_none h.1 hh)⟩
  · refine ⟨fun x => ⟨fun hlate => ?_, fun ho hnow => ?_⟩, State.wantAdmit_of_host h hh, State.sendAdmit_of_host h hh,
      fun l r => ⟨fun hr => admittedPrefix_of_unresolved hr l, fun hr => admittedPrefix_of_resolved hr l⟩, fun hch ho => ?_, fun hch ho => ?_,
      ⟨excludeAll v.adm v.resolved, fun r hr => ?_, fun r hr => ?_, State.excludeRest_of_host h hh⟩, fun ho f => ?_⟩
    · rw [State.gotLate_of_host h hh]
      exact if_pos (hlate.imp_left Option.isSome_iff_ne_none.2)
    · rw [State.gotLate_of_host h hh]
      exact if_neg (by simp [ho, hnow])
    · have hosted := State.hosted_of_open h.1 hh ho
      rw [exec_epochDeadline_of_hosted hch hosted, exec_admitIntervalExpiry_of_hosted hch hosted]
      exact ⟨fun hv => by rw [if_pos hv], fun hv => by rw [hv]; rfl, fun hv => by rw [if_pos hv], fun hv => by rw [hv]; rfl⟩
    · obtain ⟨hdead, hadmit⟩ := exec_hostTimers_of_none hch (State.hosted_of_closed h.1 hh ho)
      exact ⟨hdead, hadmit, State.hostClose_of_closed h hh ho⟩
    · rw [find_excludeAll, if_pos hr]
      cases Tab.find v.resolved r <;> rfl
    · rw [find_excludeAll, if_neg hr]
    · intro inc out
      obtain ⟨x, hx, hout, hat, hres⟩ := State.closeNoted_host h hh out
      have hclose := State.hostClose_of_open h hh ho f
      obtain ⟨-, hnow⟩ := State.lastAdmit_leaves h hh
      obtain ⟨hstep, houtcome, hhead, hsize, hnans, hmissing, htime, hext⟩ := s.closeRecord_fields e v out
      rw [hnow] at htime
      exact ⟨_, x, _, hclose, hx, hout, hat, hres, hstep, houtcome, hhead, hsize, hnans, hmissing, htime, hext, recordOf_apply .., length_recordOf ..⟩
  · exact ⟨fun h0 => h0 ▸ d.outcomeOf_zero _, d.outcomeOf_all, d.outcomeOf_some⟩
  · rw [exec_memberDeadline_of_epoch hch h.1]
    exact ⟨fun hc ha => by rw [if_neg (by simp [hc, ha])], fun hn => by rw [if_pos (hn.imp_right Option.isNone_iff_eq_none.2)]⟩
  · refine ⟨fun hc he => ?_, fun hc he => ?_, fun hc ho => ?_, fun hc ho => ?_⟩
    · exact (State.gotClose_of_closed h hc o rec1 inc).trans (if_pos he)
    · exact (State.gotClose_of_closed h hc o rec1 inc).trans (if_neg (by simp [he]))
    · exact (State.gotClose_of_open h hc o rec1 inc).trans (if_neg (by simp [ho]))
    · exact (State.gotClose_of_open h hc o rec1 inc).trans (if_pos (Option.isSome_iff_ne_none.2 ho))
  · rw [State.closeHolder_of_duty h he]
    exact ⟨fun ho => if_neg fun hn => ho hn.1, Epoch.holds_iff h, fun ho hh => if_pos ⟨ho, hh⟩, fun _ hh => if_neg (by simp [hh])⟩

end Sys2Proof.Machine
end

section
/-! SUPPORT. Poison marks that a write of any length leaves: which bytes share a mark, and the marks that the bytes of a write carry. -/

namespace Sys2Proof.Machine

theorem groupSize_pos (k : Nat) : 0 < groupSize k := by obtain ⟨h, _⟩ | ⟨h, _⟩ := groupSize_cases k <;> omega

/-- The bytes of a poison group share its mark. -/
theorem groupOf_of_mem_group {j x : Nat} (hlo : groupOf j ≤ x) (hhi : x < groupOf j + groupSize j) : groupOf x = groupOf j := by
  simp only [groupOf] at *
  obtain ⟨hj, _⟩ | ⟨hj, _⟩ := groupSize_cases j <;> obtain ⟨hx, _⟩ | ⟨hx, _⟩ := groupSize_cases x <;> simp only [hj, hx] at * <;> omega

/-- A group's own size is that of each of its bytes. -/
theorem groupSize_groupOf (j : Nat) : groupSize (groupOf j) = groupSize j := by
  simp only [groupOf]
  obtain ⟨hj, _⟩ | ⟨hj, _⟩ := groupSize_cases j <;> rw [hj] <;>
    obtain ⟨hg, _⟩ | ⟨hg, _⟩ := groupSize_cases (j / _ * _) <;> rw [hg] <;> omega

/-- The mark that written bytes carry into a range is that of any of them there. -/
theorem markAt_iff (k : Nat) (bs : List PByte) (lo hi : Nat) :
    markAt k bs lo hi = true ↔ ∃ i b, bs[i]? = some b ∧ b.2 = true ∧ lo ≤ k + i ∧ k + i < hi := by
  simp only [markAt, List.any_eq_true, List.mem_range]
  constructor
  · rintro ⟨i, hi, hm⟩
    split at hm
    · rename_i hin
      have hb : lo + i - k < bs.length := by omega
      refine ⟨lo + i - k, bs[lo + i - k], List.getElem?_eq_getElem hb, ?_, by omega, by omega⟩
      simpa [List.getD_eq_getElem?_getD, List.getElem?_eq_getElem hb] using hm
    · cases hm
  · rintro ⟨i, b, hb, hmark, hlo, hhi⟩
    have hi := (List.getElem?_eq_some_iff.1 hb).1
    refine ⟨k + i - lo, by omega, ?_⟩
    rw [Nat.add_sub_cancel' hlo, if_pos (by omega), Nat.add_sub_cancel_left, List.getD_eq_getElem?_getD, hb]
    exact hmark

/-- A group that a write reaches takes the mark that the write gives it. -/
theorem Memory.bad_writeB_of_reached (m : Memory) {k j : Nat} {bs : List PByte} (hk : k + bs.length ≤ stackDpa ∨ stackDpa ≤ k)
    (hn : 0 < bs.length) (hlo : groupOf j < k + bs.length) (hhi : k < groupOf j + groupSize j) : (m.writeB k bs).bad j = m.groupMark k bs (groupOf j) := by
  have hpos := groupSize_pos j
  have hmem := groupOf_mem_groupsOf hk (n := max (groupOf j) k - k) (by omega)
  rw [groupOf_of_mem_group (j := j) (by omega) (by omega)] at hmem
  exact Memory.bad_writeB_of_mem m hmem

/-- The bytes of a write carry a mark into a byte's group. -/
def carriesMark (k : Nat) (bs : List PByte) (j : Nat) : Prop :=
  ∃ i b, bs[i]? = some b ∧ b.2 = true ∧ groupOf j ≤ k + i ∧ k + i < groupOf j + groupSize j

theorem markAt_group (k : Nat) (bs : List PByte) (j : Nat) : markAt k bs (groupOf j) (groupOf j + groupSize (groupOf j)) = true ↔ carriesMark k bs j := by
  rw [groupSize_groupOf, markAt_iff, carriesMark]

section

variable (m : Memory) {k j : Nat} {bs : List PByte} (hk : k + bs.length ≤ stackDpa ∨ stackDpa ≤ k)

include hk

/-- A group written whole takes the mark that its bytes carry. -/
theorem Memory.bad_writeB_of_whole (hlo : k ≤ groupOf j) (hhi : groupOf j + groupSize j ≤ k + bs.length) :
    (m.writeB k bs).bad j = true ↔ carriesMark k bs j := by
  have hpos := groupSize_pos j
  rw [m.bad_writeB_of_reached hk (by omega) (by omega) (by omega), Memory.groupMark, groupSize_groupOf, if_pos ⟨hlo, hhi⟩, ← groupSize_groupOf j,
    markAt_group]

/-- A group written in part keeps its mark or takes theirs. -/
theorem Memory.bad_writeB_of_part (hlo : groupOf j < k + bs.length) (hhi : k < groupOf j + groupSize j)
    (hpart : groupOf j < k ∨ k + bs.length < groupOf j + groupSize j) :
    (m.writeB k bs).bad j = true ↔ m.bad j = true ∨ carriesMark k bs j := by
  obtain rfl | hne := eq_or_ne bs []
  · simp [carriesMark, Memory.writeB, Memory.setBytes, groupsOf]
  · rw [m.bad_writeB_of_reached hk (List.length_pos_iff.2 hne) hlo hhi, Memory.groupMark, groupSize_groupOf, if_neg (by omega), ← groupSize_groupOf j,
      Bool.or_eq_true, markAt_group, Or.comm]
    rfl

end

end Sys2Proof.Machine
end

section
/-! Chapter 8 of the manual: memory holds what was written. -/

namespace Sys2Proof.Machine

/-- Settles O8: a group that the write reaches takes `Memory.groupMark`, any other is outside it. -/
theorem memoryHoldsWrites : Obligations.MemoryHoldsWrites := by
  intro m k bs hk w
  refine ⟨fun i b hb => ?_, fun j hj => m.byte_writeB_outside k bs hj, Memory.wf_writeB k bs, fun j => ?_⟩
  · obtain ⟨hi, rfl⟩ := List.getElem?_eq_some_iff.1 hb
    exact m.byte_writeB_inside k bs hi
  · exact ⟨m.bad_writeB_outside k bs, m.bad_writeB_of_whole hk, m.bad_writeB_of_part hk⟩

end Sys2Proof.Machine
end

section
/-! SUPPORT. Where the words of the scratchpad lie: the slice, bank and row of a word named by them, and of the bytes of a poison group. -/

namespace Sys2Proof.Machine

/-! ### The word of a slice, bank and row (R278) -/

/-- The line of 2 KiB, within its row of 1 MiB, that holds a slice's words. -/
def lineOf (slice row : Nat) : Nat := slice ^^^ row % 512 ^^^ (row / 512 % 8 * 64)

theorem lineOf_lt {slice : Nat} (h : slice < 512) (row : Nat) : lineOf slice row < 512 :=
  Nat.xor_lt_two_pow (n := 9) (Nat.xor_lt_two_pow h (Nat.mod_lt _ (by norm_num))) (by omega)

theorem bank_xor_line_lt {bank : Nat} (h : bank < 32) (line : Nat) : bank ^^^ line % 32 < 32 :=
  Nat.xor_lt_two_pow (n := 5) h (Nat.mod_lt _ (by norm_num))

theorem sliceDpa_eq {slice bank row : Nat} (hs : slice < 512) :
    sliceDpa slice bank row = row * 2 ^ 20 + lineOf slice row * 2 ^ 11 + (bank ^^^ lineOf slice row % 32) * 64 := by
  have hl := lineOf_lt hs row
  have h1 : bits (row * 2 ^ 20) 28 20 = row % 512 := by unfold bits; omega
  have h2 : bits (row * 2 ^ 20) 31 29 = row / 512 % 8 := by unfold bits; omega
  have h3 : bits (row * 2 ^ 20 + lineOf slice row * 2 ^ 11) 15 11 = lineOf slice row % 32 := by unfold bits; omega
  simp only [sliceDpa, h1, h2]
  rw [← lineOf, h3]

section

variable {slice bank row : Nat} (hs : slice < 512) (hb : bank < 32) (hr : row < 4096)

include hs

theorem sliceDpa_mod : sliceDpa slice bank row % 64 = 0 := by
  rw [sliceDpa_eq hs]
  omega

include hb

theorem bankOf_sliceDpa : bankOf (sliceDpa slice bank row) = bank := by
  have hl := lineOf_lt hs row
  have hx := bank_xor_line_lt hb (lineOf slice row)
  rw [sliceDpa_eq hs, bankOf]
  generalize h : bank ^^^ lineOf slice row % 32 = x at hx
  have h1 : bits (row * 2 ^ 20 + lineOf slice row * 2 ^ 11 + x * 64) 10 6 = x := by unfold bits; omega
  have h2 : bits (row * 2 ^ 20 + lineOf slice row * 2 ^ 11 + x * 64) 15 11 = lineOf slice row % 32 := by unfold bits; omega
  rw [h1, h2, ← h, Nat.xor_assoc, Nat.xor_self, Nat.xor_zero]

theorem sliceOf_sliceDpa : sliceOf (sliceDpa slice bank row) = slice := by
  have hl := lineOf_lt hs row
  have hx := bank_xor_line_lt hb (lineOf slice row)
  rw [sliceDpa_eq hs, sliceOf]
  generalize bank ^^^ lineOf slice row % 32 = x at hx
  have h1 : bits (row * 2 ^ 20 + lineOf slice row * 2 ^ 11 + x * 64) 19 11 = lineOf slice row := by unfold bits; omega
  have h2 : bits (row * 2 ^ 20 + lineOf slice row * 2 ^ 11 + x * 64) 28 20 = row % 512 := by unfold bits; omega
  have h3 : bits (row * 2 ^ 20 + lineOf slice row * 2 ^ 11 + x * 64) 31 29 = row / 512 % 8 := by unfold bits; omega
  rw [h1, h2, h3, lineOf, Nat.xor_assoc, Nat.xor_assoc, Nat.xor_left_comm (row / 512 % 8 * 64), Nat.xor_self, Nat.xor_zero,
    Nat.xor_assoc, Nat.xor_self, Nat.xor_zero]

/-- Each bank of a slice has its own key. -/
theorem bankKey_sliceDpa : bankKey (sliceDpa slice bank row) = 32 * slice + bank := by
  rw [bankKey, sliceOf_sliceDpa hs hb, bankOf_sliceDpa hs hb]

include hr in
theorem sliceDpa_lt : sliceDpa slice bank row + 64 ≤ hamperDpa := by
  have hl := lineOf_lt hs row
  have hx := bank_xor_line_lt hb (lineOf slice row)
  rw [sliceDpa_eq hs, hamperDpa]
  omega

end

/-! ### Poison groups of the scratchpad (R280) -/

theorem groupOf_of_scratchpad {k : Nat} (h : k < hamperDpa) : groupOf k = k / 8 * 8 := by
  unfold hamperDpa at h
  obtain ⟨hz, _⟩ | ⟨_, hk⟩ := groupSize_cases k
  · rw [groupOf, hz]
  · omega

/-- A group of the scratchpad is named by its first byte. -/
theorem groupOf_of_aligned {g : Nat} (h : g < hamperDpa) (h8 : g % 8 = 0) : groupOf g = g := by
  rw [groupOf_of_scratchpad h]
  omega

theorem groupOf_lt {k : Nat} (h : k < hamperDpa) : groupOf k < hamperDpa := by
  rw [groupOf_of_scratchpad h]
  omega

/-- A poison group lies in one slice. -/
theorem sliceOf_groupOf {k : Nat} (h : k < hamperDpa) : sliceOf (groupOf k) = sliceOf k := by
  rw [groupOf_of_scratchpad h]
  have h1 : bits (k / 8 * 8) 19 11 = bits k 19 11 := by unfold bits; omega
  have h2 : bits (k / 8 * 8) 28 20 = bits k 28 20 := by unfold bits; omega
  have h3 : bits (k / 8 * 8) 31 29 = bits k 31 29 := by unfold bits; omega
  rw [sliceOf, sliceOf, h1, h2, h3]

end Sys2Proof.Machine
end

section
/-! SUPPORT. What the fabric's accounts of a word and the errors found in it leave of the state. -/

namespace Sys2Proof.Machine

/-! ### Registers alone -/

namespace State

/-- `t` is `s` but for registers. -/
def RegsOnly (s t : State) : Prop := t = { s with regs := t.regs }

namespace RegsOnly

variable {σ s t : State}

theorem refl (s : State) : s.RegsOnly s := rfl

theorem update (h : σ.RegsOnly s) (regs : Tab Word64) : σ.RegsOnly { s with regs := regs } := by
  rw [h]
  rfl

theorem trans (h : σ.RegsOnly s) (g : s.RegsOnly t) : σ.RegsOnly t := by
  rw [g]
  exact h.update _

theorem foldl {α : Type} {f : State → α → State} (h : σ.RegsOnly s) (hf : ∀ {s : State} (a : α), σ.RegsOnly s → σ.RegsOnly (f s a))
    (l : List α) : σ.RegsOnly (l.foldl f s) := by
  induction l generalizing s with
  | nil => exact h
  | cons a r ih => exact ih (hf a h)

theorem ite {c : Prop} [Decidable c] (hs : σ.RegsOnly s) (ht : σ.RegsOnly t) : σ.RegsOnly (if c then s else t) := by
  split <;> assumption

theorem mem (h : s.RegsOnly t) : t.mem = s.mem := by rw [h]

theorem setReg (h : σ.RegsOnly s) (a v : Nat) : σ.RegsOnly (s.setReg a v) := h.update _

theorem setFld (h : σ.RegsOnly s) (a hi lo v : Nat) : σ.RegsOnly (s.setFld a hi lo v) := h.setReg _ _

theorem addFld (h : σ.RegsOnly s) (a hi lo v : Nat) : σ.RegsOnly (s.addFld a hi lo v) := h.setReg _ _

theorem maxFld (h : σ.RegsOnly s) (a hi lo v : Nat) : σ.RegsOnly (s.maxFld a hi lo v) := h.setReg _ _

theorem setArb (h : σ.RegsOnly s) : σ.RegsOnly s.setArb := foldl h (fun _ h => h.setFld _ _ _ _) _

end RegsOnly

end State

/-- An update of one register leaves the others. -/
theorem State.sameRegsBut.setFld_self {σ s : State} {a : Nat} (h : σ.sameRegsBut s (· = a)) (hi lo v : Nat) :
    σ.sameRegsBut (s.setFld a hi lo v) (· = a) := h.setFld (p := (· = a)) rfl hi lo v

theorem State.sameRegsBut.addFld_self {σ s : State} {a : Nat} (h : σ.sameRegsBut s (· = a)) (hi lo v : Nat) :
    σ.sameRegsBut (s.addFld a hi lo v) (· = a) := h.setFld_self hi lo _

/-! ### The registers that the fabric's accounts leave (R301 to R304, R311, R312) -/

/-- The fabric's registers, and those above them. -/
def fabReg (a : Nat) : Prop := ∃ x, a = fabB + x

theorem fabReg_rMbconf (m : Nat) : fabReg (rMbconf m) := ⟨_, rfl⟩

theorem fabReg_rMstarve (m : Nat) : fabReg (rMstarve m) := ⟨_, Nat.add_assoc ..⟩

theorem fabReg_rMevt (m : Nat) : fabReg (rMevt m) := ⟨_, Nat.add_assoc ..⟩

theorem not_fabReg_of_lt {a : Nat} (h : a < fabB) : ¬ fabReg a := by
  rintro ⟨x, rfl⟩
  omega

theorem not_fabReg_rCmap {c : Nat} (h : c < 128) : ¬ fabReg (rCmap c) := by
  refine not_fabReg_of_lt ?_
  unfold rCmap fabB hubB
  omega

/-- The registers of the slices stand below the fabric's (R503). -/
theorem not_fabReg_rSlcEcc {n : Nat} (h : n < 512) : ¬ fabReg (rSlcEcc n) := by
  refine not_fabReg_of_lt ?_
  unfold rSlcEcc fabB slcB
  omega

theorem not_fabReg_rSlcMarch {n : Nat} (h : n < 512) : ¬ fabReg (rSlcMarch n) := by
  refine not_fabReg_of_lt ?_
  unfold rSlcMarch fabB slcB
  omega

namespace State

variable {σ s t : State}

/-- The fabric's accounts leave the core map. -/
theorem phys_of_fabReg (h : s.sameRegsBut t fabReg) (c : Nat) : t.phys c = s.phys c := by
  by_cases hc : c < 128
  · simp only [State.phys, h _ (not_fabReg_rCmap hc)]
  · simp only [State.phys, hc, false_and, if_false]

theorem logicalOf_of_fabReg (h : s.sameRegsBut t fabReg) (k : Nat) : t.logicalOf k = s.logicalOf k := by
  simp only [State.logicalOf, phys_of_fabReg h]

theorem masterOf_of_fabReg (h : s.sameRegsBut t fabReg) (r : FabReq) : t.masterOf r = s.masterOf r := by
  simp only [State.masterOf, logicalOf_of_fabReg h]

/-- The wait of an access for the march of its slice (R309). -/
theorem marchWait_of_fabReg (h : s.sameRegsBut t fabReg) (hm : t.marchAt = s.marchAt) (hc : t.clock = s.clock) (a : Nat) :
    t.marchWait a = s.marchWait a := by
  simp only [State.marchWait, h.fld (not_fabReg_rSlcMarch (sliceOf_lt a)), hm, hc]

/-! ### Accounts of a word (R277, R284, R301 to R304) -/

/-- The ECLK from which a bank is free again after the next access to it (R277, R284, R309). -/
def freeAt (s : State) (a : Nat) : Nat := max (s.clock.eclk + s.marchWait a) (Tab.get s.busy 0 (bankKey a)) + 2

/-- The bank of the word is taken until then. -/
def bankTaken (s : State) (a : Nat) : State := { s with busy := Tab.put s.busy (bankKey a) (s.freeAt a) }

theorem bankAccess_eq (s : State) (m a : Nat) : (s.bankAccess m a).1 = (s.bankTaken a).addFld (rMbconf m) 63 0 (s.bankAccess m a).2 := rfl

theorem bankAccess_regsOnly (s : State) (m a : Nat) : (s.bankTaken a).RegsOnly (s.bankAccess m a).1 := .addFld (.refl _) _ _ _ _

theorem bankAccess_regs (s : State) (m a : Nat) : s.sameRegsBut (s.bankAccess m a).1 fabReg := by
  have ht : s.sameRegsBut (s.bankTaken a) fabReg := (State.sameRegsBut.refl s _).update rfl
  rw [bankAccess_eq]
  exact ht.addFld (fabReg_rMbconf m) _ _ _

theorem waited_regsOnly (h : σ.RegsOnly s) (m d n : Nat) : σ.RegsOnly (s.waited m d n) :=
  have hs := h.maxFld (rMstarve m) 63 32 n
  .ite (hs.addFld _ _ _ _) hs

theorem waited_regs (h : σ.sameRegsBut s fabReg) (m d n : Nat) : σ.sameRegsBut (s.waited m d n) fabReg := by
  have hs := h.maxFld (fabReg_rMstarve m) 63 32 n
  unfold State.waited
  exact .ite (hs.addFld (fabReg_rMstarve m) 31 0 1) hs

/-- A point has granted one word of a request: the grant's burst and the master are noted. -/
def granted (s : State) (point burst master : Nat) (deficit : Tab Nat) : State :=
  { s with grants := Tab.put s.grants point burst, turns := Tab.put s.turns point master, deficit := deficit }

theorem RegsOnly.granted (h : s.RegsOnly t) {point burst master : Nat} {deficit : Tab Nat} :
    (s.granted point burst master deficit).RegsOnly (t.granted point burst master deficit) := by
  rw [h]
  rfl

/-- The burst that loses the grant counts in its master's register (R303). -/
def preempted (s : State) (point : Nat) (l : List FabReq) (r : FabReq) : State :=
  match s.holder point l with
  | some h => if h.burst = r.burst then s else s.addFld (rMevt (s.masterOf h)) 63 32 1
  | none => s

theorem preempted_leaves (s : State) (point : Nat) (l : List FabReq) (r : FabReq) :
    s.RegsOnly (s.preempted point l r) ∧ s.sameRegsBut (s.preempted point l r) fabReg := by
  unfold State.preempted
  split
  · exact ⟨.ite (.refl s) (.addFld (.refl s) _ _ _ _), .ite (.refl s _) (.addFld (.refl s _) (fabReg_rMevt _) _ _ _)⟩
  · exact ⟨.refl s, .refl s _⟩

theorem spend_eq (s : State) (d cls : Nat) : ∃ deficit, s.spend d cls = { s with deficit := deficit } := by
  unfold State.spend
  split
  · exact ⟨s.deficit, rfl⟩
  · exact ⟨_, rfl⟩

theorem grant_leaves (s : State) (point d : Nat) (l : List FabReq) (r : FabReq) : ∃ deficit,
    (s.granted point r.burst (s.masterOf r) deficit).RegsOnly (s.grant point d l r) ∧
      (s.granted point r.burst (s.masterOf r) deficit).sameRegsBut (s.grant point d l r) fabReg := by
  obtain ⟨honly, hregs⟩ := s.preempted_leaves point l r
  obtain ⟨deficit, hspend⟩ := ({ s.preempted point l r with
    grants := Tab.put (s.preempted point l r).grants point r.burst
    turns := Tab.put (s.preempted point l r).turns point ((s.preempted point l r).masterOf r) } : State).spend_eq d 0
  have hg : s.grant point d l r = (s.preempted point l r).granted point r.burst (s.masterOf r) deficit := by
    refine Eq.trans ?_ (hspend.trans ?_)
    · rfl
    · rw [masterOf_of_fabReg hregs]
      rfl
  rw [hg]
  refine ⟨deficit, ?_, fun a ha => hregs a ha⟩
  rw [honly]
  rfl

/-- A slice that grants a word notes the burst and the master, and counts. -/
theorem sliceGrant_leaves (s : State) (r : FabReq) (w : Nat) : ∃ deficit,
    (s.granted (sliceOf r.addr) r.burst (s.masterOf r) deficit).RegsOnly (s.sliceGrant r w) ∧
      (s.granted (sliceOf r.addr) r.burst (s.masterOf r) deficit).sameRegsBut (s.sliceGrant r w) fabReg := by
  obtain ⟨deficit, honly, hregs⟩ := s.grant_leaves (sliceOf r.addr) (sliceOf r.addr / 128) (s.atSlice (sliceOf r.addr)) r
  exact ⟨deficit, waited_regsOnly honly _ _ _, waited_regs hregs _ _ _⟩

theorem sliceGrant_mem (s : State) (r : FabReq) (w : Nat) : (s.sliceGrant r w).mem = s.mem := by
  obtain ⟨deficit, honly, -⟩ := s.sliceGrant_leaves r w
  exact honly.mem

end State

/-! ### Errors in a word (R280) -/

/-- A group marked leaves the marks of the others. -/
theorem Memory.bad_setPoison (m : Memory) (g k : Nat) : (m.setPoison g true).bad k = true ↔ m.bad k = true ∨ groupOf k = g := by
  simp only [Memory.bad, Memory.setPoison, if_true, List.contains_iff_mem, mem_insertNat]
  exact Or.comm

namespace State

variable {σ s t : State}

/-- `t` is `s` but for the marks of memory, registers and unit events. -/
def ErrorsOnly (s t : State) : Prop := t = { s with mem := t.mem, regs := t.regs, events := t.events }

namespace ErrorsOnly

theorem refl (s : State) : s.ErrorsOnly s := rfl

theorem update (h : σ.ErrorsOnly s) (mem : Memory) (regs : Tab Word64) (events : List UEvent) :
    σ.ErrorsOnly { s with mem := mem, regs := regs, events := events } := by
  rw [h]
  rfl

theorem foldl {α : Type} {f : State → α → State} (h : σ.ErrorsOnly s) (hf : ∀ {s : State} (a : α), σ.ErrorsOnly s → σ.ErrorsOnly (f s a))
    (l : List α) : σ.ErrorsOnly (l.foldl f s) := by
  induction l generalizing s with
  | nil => exact h
  | cons a r ih => exact ih (hf a h)

theorem ite {c : Prop} [Decidable c] (hs : σ.ErrorsOnly s) (ht : σ.ErrorsOnly t) : σ.ErrorsOnly (if c then s else t) := by
  split <;> assumption

theorem busy (h : s.ErrorsOnly t) : t.busy = s.busy := by rw [h]

theorem setFld (h : σ.ErrorsOnly s) (a hi lo v : Nat) : σ.ErrorsOnly (s.setFld a hi lo v) := h.update _ _ _

theorem addFld (h : σ.ErrorsOnly s) (a hi lo v : Nat) : σ.ErrorsOnly (s.addFld a hi lo v) := h.update _ _ _

theorem sliceEcc (h : σ.ErrorsOnly s) (slice bank : Nat) (ue : Bool) : σ.ErrorsOnly (s.sliceEcc slice bank ue) :=
  ((ite (h.addFld _ _ _ _) (h.addFld _ _ _ _)).setFld _ _ _ _).setFld _ _ _ _

theorem unitEvent (h : σ.ErrorsOnly s) (u k d : Nat) : σ.ErrorsOnly (s.unitEvent u k d) := h.update _ _ _

theorem groupCorrected (h : σ.ErrorsOnly s) (a g : Nat) : σ.ErrorsOnly (s.groupCorrected a g) := .ite h ((h.sliceEcc _ _ _).unitEvent _ _ _)

theorem groupLost (h : σ.ErrorsOnly s) (a g : Nat) : σ.ErrorsOnly (s.groupLost a g) :=
  .ite h (((h.update (s.mem.setPoison g true) s.regs s.events).sliceEcc _ _ _).unitEvent _ _ _)

theorem wordErrors (h : σ.ErrorsOnly s) (a : Nat) (ce ue : List Nat) : σ.ErrorsOnly (s.wordErrors a ce ue) :=
  foldl (foldl h (fun _ h => h.groupCorrected _ _) ce) (fun _ h => h.groupLost _ _) ue

end ErrorsOnly

theorem sliceEcc_regsOnly (s : State) (slice bank : Nat) (ue : Bool) : s.RegsOnly (s.sliceEcc slice bank ue) :=
  .setFld (.setFld (.ite (.addFld (.refl s) _ _ _ _) (.addFld (.refl s) _ _ _ _)) _ _ _ _) _ _ _ _

theorem unitEvent_sliceEcc_mem (s : State) (slice bank : Nat) (ue : Bool) (u k d : Nat) :
    ((s.sliceEcc slice bank ue).unitEvent u k d).mem = s.mem := (s.sliceEcc_regsOnly slice bank ue).mem

theorem groupCorrected_mem (s : State) (a g : Nat) : (s.groupCorrected a g).mem = s.mem := by
  unfold State.groupCorrected
  split
  · rfl
  · exact unitEvent_sliceEcc_mem ..

theorem groupLost_of_marked {g : Nat} (h : s.mem.bad g = true) (a : Nat) : s.groupLost a g = s := if_pos h

theorem groupLost_mem (s : State) (a g : Nat) : (s.groupLost a g).mem = if s.mem.bad g then s.mem else s.mem.setPoison g true := by
  unfold State.groupLost
  split
  · rfl
  · exact unitEvent_sliceEcc_mem ..

theorem byte_groupLost (s : State) (a g k : Nat) : (s.groupLost a g).mem.byte k = s.mem.byte k := by
  rw [groupLost_mem]
  split <;> rfl

/-- A group found uncorrectable is marked; every other keeps its mark. -/
theorem bad_groupLost (s : State) (a k : Nat) {g : Nat} (hg : groupOf g = g) :
    (s.groupLost a g).mem.bad k = true ↔ s.mem.bad k = true ∨ groupOf k = g := by
  rw [groupLost_mem]
  split
  · rename_i hbad
    refine ⟨.inl, Or.rec id fun hk => ?_⟩
    rw [Memory.bad, hg] at hbad
    rwa [Memory.bad, hk]
  · exact s.mem.bad_setPoison g k

section

variable {α : Type} (a g : α → Nat)

/-- Groups found correctable leave memory. -/
theorem foldl_groupCorrected_mem (l : List α) (s : State) : (l.foldl (fun s x => s.groupCorrected (a x) (g x)) s).mem = s.mem :=
  foldl_leaves State.mem (fun _ _ => groupCorrected_mem ..) l s

theorem byte_foldl_groupLost (l : List α) (s : State) (k : Nat) : (l.foldl (fun s x => s.groupLost (a x) (g x)) s).mem.byte k = s.mem.byte k :=
  foldl_leaves (fun s => s.mem.byte k) (fun _ _ => byte_groupLost ..) l s

theorem bad_foldl_groupLost {l : List α} (hg : ∀ x ∈ l, groupOf (g x) = g x) (s : State) (k : Nat) :
    (l.foldl (fun s x => s.groupLost (a x) (g x)) s).mem.bad k = true ↔ s.mem.bad k = true ∨ ∃ x ∈ l, groupOf k = g x := by
  induction l generalizing s with
  | nil => simp
  | cons x r ih =>
    obtain ⟨hx, hr⟩ := List.forall_mem_cons.1 hg
    rw [List.foldl_cons, ih hr, bad_groupLost _ _ _ hx, or_assoc, List.exists_mem_cons_iff]

end

end State

end Sys2Proof.Machine
end

section
/-! SUPPORT. Requests in flight, and what the hub and the slices read of the scratchpad. -/

namespace Sys2Proof.Machine

namespace State

variable {s t : State}

/-! ### Requests in flight (R279) -/

theorem id_of_fabReq {id : Nat} {r : FabReq} (h : s.fabReq id = some r) : r.id = id := by
  simpa using List.find?_some h

/-- A request that is changed is found changed. -/
theorem fabReq_setReq {id : Nat} {r r' : FabReq} (h : s.fabReq id = some r) (hid : r'.id = r.id) : (s.setReq r').fabReq id = some r' := by
  have hsame : ((fun x : FabReq => x.id == id) ∘ fun x => if x.id = r'.id then r' else x) = fun x => x.id == id := by
    funext x
    by_cases hx : x.id = r'.id <;> simp [hx]
  have hfind : s.fab.find? (fun x => x.id == id) = some r := h
  rw [fabReq, setReq, List.find?_map, hsame, hfind]
  simp [hid]

theorem fabReq_of_fab (h : t.fab = s.fab) (id : Nat) : t.fabReq id = s.fabReq id := by simp only [State.fabReq, h]

theorem waits_iff {id : Nat} {kind : FKind} {stack : Bool} {r : FabReq} :
    s.waits id kind stack = some r ↔ s.fabReq id = some r ∧ r.kind = kind ∧ r.served = false ∧ decide (stackDpa ≤ r.addr) = stack := by
  simp only [State.waits, Option.bind_eq_some_iff, Option.ite_none_right_eq_some, Option.some.injEq, Bool.not_eq_true']
  constructor
  · rintro ⟨x, hx, ⟨hkind, hserved, hstack⟩, rfl⟩
    exact ⟨hx, hkind, hserved, hstack⟩
  · rintro ⟨hr, h⟩
    exact ⟨r, hr, h, rfl⟩

/-! ### Reads and writes of the scratchpad (R278) -/

theorem chanAt_of_scratchpad (s : State) {a : Nat} (h : a < hamperDpa) : s.chanAt a = none := by
  simp only [State.chanAt, State.homeOf]
  unfold hamperDpa stackDpa at *
  rw [if_neg (by omega)]
  rfl

theorem faultyAt_of_scratchpad (s : State) {a : Nat} (h : a < hamperDpa) : s.faultyAt a = false := by
  simp [State.faultyAt, s.chanAt_of_scratchpad h]

theorem readMem_of_scratchpad (s : State) {a : Nat} (h : a < hamperDpa) (n : Nat) : s.readMem a n = s.mem.readB a n := by
  have hk : s.keyOf a = some a := if_pos h
  simp only [State.readMem, hk]

theorem loadWord_of_scratchpad (s : State) {a : Nat} (h : a < hamperDpa) (n : Nat) : s.loadWord a n = s.mem.readB a n :=
  loadWord_of_mapped n (if_pos h) (s.faultyAt_of_scratchpad h)

/-! ### Poisoned stores (R446) -/

namespace CoresOnly

variable {σ : State}

theorem addFld (h : σ.CoresOnly s) (a hi lo v : Nat) : σ.CoresOnly (s.addFld a hi lo v) := h.setReg _ _

theorem poisonStore (h : σ.CoresOnly s) (p n c : Nat) (st : Strm) (pc : Nat) : σ.CoresOnly (s.poisonStore p n c st pc) :=
  have hs := h.addFld (rPoison p) 63 48 n
  .ite h (.ite hs ((((hs.setFld _ _ _ _).setFld _ _ _ _).setFld _ _ _ _).setFld _ _ _ _))

/-- What a core notes of its write at the destination. -/
theorem wrote (h : σ.CoresOnly s) (k c id a : Nat) (bs : List PByte) : σ.CoresOnly (s.wrote k c id a bs) := by
  unfold State.wrote
  split
  · exact .ite (h.updCore _ _) (h.poisonStore _ _ _ _ _)
  · exact h

end CoresOnly

/-- A write request's bytes are stored, and it is served. -/
def stored (s : State) (r : FabReq) : State := State.setReq { s with mem := s.mem.writeB r.addr r.data } { r with served := true }

theorem fabReq_stored {id : Nat} {r : FabReq} (h : s.fabReq id = some r) : (s.stored r).fabReq id = some { r with served := true } :=
  fabReq_setReq (s := { s with mem := s.mem.writeB r.addr r.data }) h rfl

theorem writeReq_of_scratchpad (s : State) {r : FabReq} (h : r.addr < hamperDpa) : (s.stored r).CoresOnly (s.writeReq r) := by
  have hs : (s.storeWord r.addr r.data).serve r r.data = s.stored r := by
    rw [storeWord_of_scratchpad s r.data h]
    rfl
  unfold State.writeReq
  rw [hs]
  simp only
  split
  · exact .wrote (.refl _) _ _ _ _ _
  · exact .refl _

end State

end Sys2Proof.Machine
end

section
/-! Chapter 8 of the manual: the scratchpad slices serve reads, writes and scrubs. -/

namespace Sys2Proof.Machine

/-! ### SLICE_READ (R277, R280, R284, R299, R301 to R304) -/

section

variable {s : State} {id : Nat} {ce ue : List Nat} {r : FabReq}

theorem exec_sliceRead_of_waits (hwf : Instr.wf (.sliceRead id ce ue) = true) (hw : s.waits id .read false = some r) :
    exec (.sliceRead id ce ue) s = .next (if !s.sliceTurn r then s else
      let x := s.sliceRead (s.masterOf r) r.addr
      let t := x.1.sliceGrant r x.2.2
      let t := if x.2.1 then t.wordErrors r.addr ce ue else t
      t.serve r (t.loadWord r.addr r.len)) := by
  show execSliceRead id ce ue s = _
  rw [execSliceRead, guardWf_of_wf hwf, hw]

/-- Within the merge window the read is answered from it (R299). -/
theorem exec_sliceRead_of_merge (hwf : Instr.wf (.sliceRead id ce ue) = true) (hw : s.waits id .read false = some r) (ha : r.addr < hamperDpa)
    (hturn : s.sliceTurn r = true) (hopen : s.mergeOpen r.addr = true) : exec (.sliceRead id ce ue) s =
      .next (((s.addFld (rSlcMerge (sliceOf r.addr)) 63 0 1).sliceGrant r 0).setReq { r with served := true, data := s.readMem r.addr r.len }) := by
  have hx : s.sliceRead (s.masterOf r) r.addr = (s.addFld (rSlcMerge (sliceOf r.addr)) 63 0 1, false, 0) := if_pos hopen
  have hmem : ((s.addFld (rSlcMerge (sliceOf r.addr)) 63 0 1).sliceGrant r 0).mem = s.mem := (State.sliceGrant_mem _ _ _).trans (s.addFld_mem _ _ _ _)
  rw [exec_sliceRead_of_waits hwf hw, hturn, hx, s.readMem_of_scratchpad ha, ← hmem, ← State.loadWord_of_scratchpad _ ha]
  simp only [Bool.not_true, Bool.false_eq_true, if_false, State.serve]

/-- The word's merge window opens (R299). -/
def State.openMerge (s : State) (a : Nat) : State := { s with merge := Tab.put s.merge (a / 64) s.clock.eclk }

theorem State.RegsOnly.openMerge {s t : State} (h : s.RegsOnly t) (a : Nat) : (s.openMerge a).RegsOnly (t.openMerge a) := by
  rw [h]
  rfl

/-- The bank has been accessed for the read, and the slice has granted it. -/
def State.bankRead (s : State) (r : FabReq) : State :=
  ((s.bankAccess (s.masterOf r) r.addr).1.openMerge r.addr).sliceGrant r (s.bankAccess (s.masterOf r) r.addr).2

theorem exec_sliceRead_of_bank (hwf : Instr.wf (.sliceRead id ce ue) = true) (hw : s.waits id .read false = some r) (ha : r.addr < hamperDpa)
    (hturn : s.sliceTurn r = true) (hopen : s.mergeOpen r.addr = false) : exec (.sliceRead id ce ue) s =
      .next (((s.bankRead r).wordErrors r.addr ce ue).setReq
        { r with served := true, data := ((s.bankRead r).wordErrors r.addr ce ue).readMem r.addr r.len }) := by
  have hx : s.sliceRead (s.masterOf r) r.addr =
      ((s.bankAccess (s.masterOf r) r.addr).1.openMerge r.addr, true, (s.bankAccess (s.masterOf r) r.addr).2) := if_neg (by simp [hopen])
  rw [exec_sliceRead_of_waits hwf hw, hturn, hx, State.readMem_of_scratchpad _ ha, ← State.loadWord_of_scratchpad _ ha]
  simp only [Bool.not_true, Bool.false_eq_true, if_false, if_true, State.serve]
  rfl

theorem State.bankRead_leaves (s : State) (r : FabReq) : ∃ deficit,
    (((s.bankTaken r.addr).openMerge r.addr).granted (sliceOf r.addr) r.burst (s.masterOf r) deficit).RegsOnly (s.bankRead r) := by
  have haccess := s.bankAccess_regsOnly (s.masterOf r) r.addr
  have hregs := s.bankAccess_regs (s.masterOf r) r.addr
  unfold State.bankRead
  generalize (s.bankAccess (s.masterOf r) r.addr).1 = u at haccess hregs
  generalize (s.bankAccess (s.masterOf r) r.addr).2 = w
  have hopen : s.sameRegsBut (u.openMerge r.addr) fabReg := hregs.update rfl
  have hm := State.masterOf_of_fabReg hopen r
  obtain ⟨deficit, honly, -⟩ := (u.openMerge r.addr).sliceGrant_leaves r w
  rw [hm] at honly
  exact ⟨deficit, (haccess.openMerge r.addr).granted.trans honly⟩

/-- A read that takes its bank (R277, R280, R284, R299). -/
theorem sliceRead_of_bank (hwf : Instr.wf (.sliceRead id ce ue) = true) (hw : s.waits id .read false = some r) (ha : r.addr < hamperDpa)
    (hturn : s.sliceTurn r = true) (hopen : s.mergeOpen r.addr = false) : ∃ t : State, exec (.sliceRead id ce ue) s = .next t ∧
      (∀ k, t.mem.byte k = s.mem.byte k) ∧
      (∀ k, t.mem.bad k = true ↔ s.mem.bad k = true ∨ ∃ g ∈ ue, groupOf k = r.addr / 64 * 64 + 8 * g) ∧
      t.fabReq id = some { r with served := true, data := t.readMem r.addr r.len } ∧
      Tab.find t.merge (r.addr / 64) = some s.clock.eclk ∧
      Tab.get t.busy 0 (bankKey r.addr) = s.freeAt r.addr ∧
      Tab.get t.grants 0 (sliceOf r.addr) = r.burst ∧ Tab.get t.turns 135 (sliceOf r.addr) = s.masterOf r ∧
      t = { s with mem := t.mem, regs := t.regs, events := t.events, busy := t.busy, merge := t.merge, fab := t.fab, grants := t.grants, turns := t.turns, deficit := t.deficit } := by
  obtain ⟨hr, -⟩ := State.waits_iff.1 hw
  obtain ⟨deficit, hread⟩ := s.bankRead_leaves r
  have herrs : (s.bankRead r).ErrorsOnly ((s.bankRead r).wordErrors r.addr ce ue) := .wordErrors (.refl _) _ _ _
  have hwfue : ∀ g ∈ ue, g < 8 := by
    simp only [Instr.wf, wfGroups, Bool.and_eq_true, List.all_eq_true, decide_eq_true_eq] at hwf
    exact hwf.2
  have hgroup : ∀ g ∈ ue, groupOf (r.addr / 64 * 64 + 8 * g) = r.addr / 64 * 64 + 8 * g := fun g hg => by
    have hg := hwfue g hg
    unfold hamperDpa at ha
    exact groupOf_of_aligned (by unfold hamperDpa; omega) (by omega)
  have hmem : (s.bankRead r).mem = s.mem := hread.mem
  have hbyte : ∀ k, ((s.bankRead r).wordErrors r.addr ce ue).mem.byte k = s.mem.byte k := fun k => by
    rw [State.wordErrors, State.byte_foldl_groupLost, State.foldl_groupCorrected_mem, hmem]
  have hbad : ∀ k, ((s.bankRead r).wordErrors r.addr ce ue).mem.bad k = true ↔ s.mem.bad k = true ∨ ∃ g ∈ ue, groupOf k = r.addr / 64 * 64 + 8 * g := fun k => by
    rw [State.wordErrors, State.bad_foldl_groupLost _ _ hgroup, State.foldl_groupCorrected_mem, hmem]
  refine ⟨_, exec_sliceRead_of_bank hwf hw ha hturn hopen, hbyte, hbad, ?_⟩
  generalize (s.bankRead r).wordErrors r.addr ce ue = v at herrs
  rw [hread] at herrs
  refine ⟨?_, ?_, ?_, ?_, ?_, ?_⟩
  · have hv : v.fabReq id = some r := (State.fabReq_of_fab (by rw [herrs]; rfl) id).trans hr
    rw [State.readMem_of_scratchpad v ha, State.readMem_of_scratchpad _ ha]
    exact State.fabReq_setReq (r' := { r with served := true, data := v.mem.readB r.addr r.len }) hv rfl
  all_goals rw [herrs]
  · exact Tab.find_put_self ..
  · exact Tab.get_put_self ..
  · exact Tab.get_put_self ..
  · exact Tab.get_put_self ..
  · rfl

end

/-! ### SLICE_WRITE (R277, R280, R284, R286, R301 to R304) -/

section

variable {s : State} {id : Nat} {r : FabReq}

/-- The bank has been accessed for the write, the slice has granted it, and the word's merge window is closed. -/
def State.bankWritten (s : State) (r : FabReq) : State :=
  ((s.bankAccess (s.masterOf r) r.addr).1.sliceGrant r (s.bankAccess (s.masterOf r) r.addr).2).closeMerge r.addr

theorem exec_sliceWrite_of_waits (hw : s.waits id .write false = some r) :
    exec (.sliceWrite id) s = .next (if !s.sliceTurn r then s else (s.bankWritten r).writeReq r) := by
  show execSliceWrite id s = _
  rw [execSliceWrite, guardWf_of_wf (rfl : Instr.wf (.sliceWrite id) = true), hw]
  rfl

theorem State.RegsOnly.closeMerge {s t : State} (h : s.RegsOnly t) (a : Nat) : (s.closeMerge a).RegsOnly (t.closeMerge a) := by
  rw [h]
  rfl

theorem State.bankWritten_leaves (s : State) (r : FabReq) : ∃ deficit,
    (((s.bankTaken r.addr).granted (sliceOf r.addr) r.burst (s.masterOf r) deficit).closeMerge r.addr).RegsOnly (s.bankWritten r) := by
  have haccess := s.bankAccess_regsOnly (s.masterOf r) r.addr
  have hregs := s.bankAccess_regs (s.masterOf r) r.addr
  unfold State.bankWritten
  generalize (s.bankAccess (s.masterOf r) r.addr).1 = u at haccess hregs
  generalize (s.bankAccess (s.masterOf r) r.addr).2 = w
  obtain ⟨deficit, honly, -⟩ := u.sliceGrant_leaves r w
  rw [State.masterOf_of_fabReg hregs r] at honly
  exact ⟨deficit, (haccess.granted.trans honly).closeMerge r.addr⟩

/-- A write that the arbiter picks. -/
theorem sliceWrite_of_turn (hw : s.waits id .write false = some r) (hturn : s.sliceTurn r = true) (ha : r.addr < hamperDpa) :
    ∃ t : State, exec (.sliceWrite id) s = .next t ∧
      (∀ i b, r.data[i]? = some b → t.mem.byte (r.addr + i) = b.1) ∧ s.sameMemBut t r.addr r.data.length ∧
      t.fabReq id = some { r with served := true } ∧ Tab.find t.merge (r.addr / 64) = none ∧
      Tab.get t.busy 0 (bankKey r.addr) = s.freeAt r.addr ∧
      Tab.get t.grants 0 (sliceOf r.addr) = r.burst ∧ Tab.get t.turns 135 (sliceOf r.addr) = s.masterOf r := by
  obtain ⟨hr, -⟩ := State.waits_iff.1 hw
  obtain ⟨deficit, hwritten⟩ := s.bankWritten_leaves r
  have hstored := (s.bankWritten r).writeReq_of_scratchpad ha
  refine ⟨(s.bankWritten r).writeReq r, (exec_sliceWrite_of_waits hw).trans (congrArg _ (if_neg (by simp [hturn]))), ?_⟩
  generalize (s.bankWritten r).writeReq r = t at hstored
  generalize s.bankWritten r = b at hstored hwritten
  have hbmem : b.mem = s.mem := hwritten.mem
  have hmem : t.mem = s.mem.writeB r.addr r.data := hbmem ▸ hstored.mem
  have hb : b.fabReq id = some r := (State.fabReq_of_fab (by rw [hwritten]; rfl) id).trans hr
  have ht : t.fabReq id = (b.stored r).fabReq id := State.fabReq_of_fab (by rw [hstored]) id
  refine ⟨fun i x hx => ?_, State.sameMemBut_of_writeB rfl hmem, ht.trans (State.fabReq_stored hb), ?_⟩
  · obtain ⟨hi, rfl⟩ := List.getElem?_eq_some_iff.1 hx
    rw [hmem]
    exact Memory.byte_writeB_inside _ _ _ hi
  · rw [hstored, hwritten]
    exact ⟨Tab.find_del_self .., Tab.get_put_self .., Tab.get_put_self .., Tab.get_put_self ..⟩

end

end Sys2Proof.Machine
end

section
/-! Chapter 8 of the manual: a scrub reads one row of a slice. -/

namespace Sys2Proof.Machine

/-! ### The banks of one row (R277, R284, R301) -/

/-- A master of a die reads a bank's word in its class. -/
def State.visitBank (s : State) (m d cls a : Nat) : State := ((s.bankAccess m a).1.waited m d (s.bankAccess m a).2).spend d cls

/-- `t` is `s` but for registers, busy banks and class credit. -/
def State.BanksOnly (s t : State) : Prop := t = { s with regs := t.regs, busy := t.busy, deficit := t.deficit }

namespace State.BanksOnly

variable {σ s t : State}

theorem update (h : σ.BanksOnly s) (regs : Tab Word64) (busy deficit : Tab Nat) :
    σ.BanksOnly { s with regs := regs, busy := busy, deficit := deficit } := by
  rw [h]
  rfl

theorem regsOnly (h : σ.BanksOnly s) (g : s.RegsOnly t) : σ.BanksOnly t := by
  rw [g]
  exact h.update _ _ _

theorem bankAccess (h : σ.BanksOnly s) (m a : Nat) : σ.BanksOnly (s.bankAccess m a).1 :=
  regsOnly (h.update s.regs (Tab.put s.busy (bankKey a) (s.freeAt a)) s.deficit) (s.bankAccess_regsOnly m a)

theorem waited (h : σ.BanksOnly s) (m d n : Nat) : σ.BanksOnly (s.waited m d n) := h.regsOnly (State.waited_regsOnly (.refl s) m d n)

theorem mem (h : s.BanksOnly t) : t.mem = s.mem := by rw [h]

theorem events (h : s.BanksOnly t) : t.events = s.events := by rw [h]

theorem spend (h : σ.BanksOnly s) (d cls : Nat) : σ.BanksOnly (s.spend d cls) := by
  obtain ⟨deficit, hs⟩ := s.spend_eq d cls
  rw [hs]
  exact h.update _ _ _

theorem visitBank (h : σ.BanksOnly s) (m d cls a : Nat) : σ.BanksOnly (s.visitBank m d cls a) := ((h.bankAccess m a).waited _ _ _).spend _ _

end State.BanksOnly

theorem State.busy_spend (s : State) (d cls : Nat) : (s.spend d cls).busy = s.busy := by
  obtain ⟨deficit, hs⟩ := s.spend_eq d cls
  rw [hs]

theorem State.busy_waited (s : State) (m d n : Nat) : (s.waited m d n).busy = s.busy := by rw [State.waited_regsOnly (.refl s) m d n]

theorem State.busy_bankAccess (s : State) (m a : Nat) : (s.bankAccess m a).1.busy = Tab.put s.busy (bankKey a) (s.freeAt a) := by
  rw [State.bankAccess_eq, State.addFld_busy, State.bankTaken]

theorem State.busy_visitBank (s : State) (m d cls a : Nat) : (s.visitBank m d cls a).busy = Tab.put s.busy (bankKey a) (s.freeAt a) := by
  rw [State.visitBank, State.busy_spend, State.busy_waited, State.busy_bankAccess]

theorem State.visitBank_regs (s : State) (m d cls a : Nat) : s.sameRegsBut (s.visitBank m d cls a) fabReg :=
  .spend (State.waited_regs (s.bankAccess_regs _ _) _ _ _) _ _

/-- The die supervisor has read the first `n` banks of a slice's row. -/
def State.scrubBanks (s : State) (slice row n : Nat) : State :=
  (List.range n).foldl (fun s b => s.visitBank (132 + slice / 128) (slice / 128) 2 (sliceDpa slice b row)) s

theorem State.scrubBanks_succ (s : State) (slice row n : Nat) :
    s.scrubBanks slice row (n + 1) = (s.scrubBanks slice row n).visitBank (132 + slice / 128) (slice / 128) 2 (sliceDpa slice n row) := by
  unfold State.scrubBanks
  rw [List.range_succ, List.foldl_append, List.foldl_cons, List.foldl_nil]

section

variable {slice row : Nat} (hs : slice < 512)

include hs

/-- Each bank that has been read is taken once, from what it was taken by before. -/
theorem State.scrubBanks_leaves (s : State) (row : Nat) {n : Nat} (hn : n ≤ 32) :
    s.BanksOnly (s.scrubBanks slice row n) ∧ s.sameRegsBut (s.scrubBanks slice row n) fabReg ∧
      ∀ b < 32, Tab.get (s.scrubBanks slice row n).busy 0 (bankKey (sliceDpa slice b row)) =
        if b < n then s.freeAt (sliceDpa slice b row) else Tab.get s.busy 0 (bankKey (sliceDpa slice b row)) := by
  induction n with
  | zero => exact ⟨rfl, .refl s _, fun b _ => rfl⟩
  | succ n ih =>
    obtain ⟨honly, hregs, hbusy⟩ := ih (by omega)
    rw [State.scrubBanks_succ]
    generalize s.scrubBanks slice row n = u at honly hregs hbusy
    refine ⟨honly.visitBank _ _ _ _, hregs.trans (u.visitBank_regs _ _ _ _), fun b hb => ?_⟩
    have hfree : u.freeAt (sliceDpa slice n row) = s.freeAt (sliceDpa slice n row) := by
      have hn := hbusy n (by omega)
      rw [if_neg (by omega)] at hn
      have hm : u.marchWait (sliceDpa slice n row) = s.marchWait (sliceDpa slice n row) :=
        State.marchWait_of_fabReg hregs (by rw [honly]) (by rw [honly]) _
      have hc : u.clock = s.clock := by rw [honly]
      simp only [State.freeAt, hm, hc, hn]
    rw [State.busy_visitBank]
    by_cases hbn : b = n
    · subst hbn
      rw [if_pos (by omega)]
      exact (Tab.get_put_self ..).trans hfree
    · have hne : bankKey (sliceDpa slice b row) ≠ bankKey (sliceDpa slice n row) := by
        rw [bankKey_sliceDpa hs hb, bankKey_sliceDpa hs (show n < 32 by omega)]
        omega
      rw [Tab.get_put_ne _ _ _ hne, hbusy b hb]
      exact if_congr (by omega) rfl rfl

end

/-! ### Groups found correctable are counted (R280, R313) -/

theorem State.fld_sliceEcc_corrected (s : State) (n bank : Nat) :
    (s.sliceEcc n bank false).fld (rSlcEcc n) 47 16 = min (s.fld (rSlcEcc n) 47 16 + 1) (2 ^ 32 - 1) := by
  simp only [State.sliceEcc, Bool.false_eq_true, if_false]
  rw [State.fld_setFld_ne _ _ _ _ _ _ _ (by omega) (by omega) (by omega), State.fld_setFld_ne _ _ _ _ _ _ _ (by omega) (by omega) (by omega),
    State.fld_addFld_self _ _ _ _ _ (by omega) (by omega)]

/-- A group that carries no mark is counted, and reported as an event of its slice. -/
theorem State.groupCorrected_of_clear {s : State} {g : Nat} (h : s.mem.bad g = false) (a : Nat) : s.groupCorrected a g =
    (s.sliceEcc (sliceOf a) (bankOf a) false).unitEvent (unitSlice (sliceOf a)) evCe (detailOf [bankOf a, rowOf a]) := if_neg (by simp [h])

@[simp] theorem State.fld_unitEvent (s : State) (u k d a hi lo : Nat) : (s.unitEvent u k d).fld a hi lo = s.fld a hi lo := rfl

theorem State.length_events_unitEvent (s : State) (u k d : Nat) : (s.unitEvent u k d).events.length = s.events.length + 1 := List.length_append

theorem State.events_sliceEcc (s : State) (n bank : Nat) (ue : Bool) : (s.sliceEcc n bank ue).events = s.events := by
  rw [s.sliceEcc_regsOnly n bank ue]

/-- Counts that saturate add up. -/
theorem min_min_add (x y z m : Nat) : min (min (x + y) m + z) m = min (x + (y + z)) m := by omega

theorem State.foldl_groupCorrected_of_clear {n : Nat} (a g : Nat → Nat) {l : List Nat} (ha : ∀ x ∈ l, sliceOf (a x) = n) (s : State)
    (h : ∀ x ∈ l, s.mem.bad (g x) = false) :
    (l.foldl (fun s x => s.groupCorrected (a x) (g x)) s).fld (rSlcEcc n) 47 16 = min (s.fld (rSlcEcc n) 47 16 + l.length) (2 ^ 32 - 1) ∧
      (l.foldl (fun s x => s.groupCorrected (a x) (g x)) s).events.length = s.events.length + l.length := by
  induction l generalizing s with
  | nil =>
    have hlt : s.fld (rSlcEcc n) 47 16 < 2 ^ 32 := bits_lt _ _ _
    exact ⟨(Nat.min_eq_left (Nat.le_sub_one_of_lt hlt)).symm, rfl⟩
  | cons x r ih =>
    obtain ⟨hx, hr⟩ := List.forall_mem_cons.1 h
    obtain ⟨hax, har⟩ := List.forall_mem_cons.1 ha
    have hfld : (s.groupCorrected (a x) (g x)).fld (rSlcEcc n) 47 16 = min (s.fld (rSlcEcc n) 47 16 + 1) (2 ^ 32 - 1) := by
      rw [State.groupCorrected_of_clear hx, State.fld_unitEvent, hax, State.fld_sliceEcc_corrected]
    have hevents : (s.groupCorrected (a x) (g x)).events.length = s.events.length + 1 := by
      rw [State.groupCorrected_of_clear hx, State.length_events_unitEvent, State.events_sliceEcc]
    obtain ⟨hfld', hevents'⟩ := ih har (s.groupCorrected (a x) (g x)) fun y hy => by rw [State.groupCorrected_mem, hr y hy]
    rw [List.foldl_cons, hfld', hevents', hfld, hevents, List.length_cons, min_min_add, Nat.add_assoc, Nat.add_comm 1]
    exact ⟨rfl, rfl⟩

/-! ### SLICE_SCRUB -/

section

variable {s : State} {n : Nat} {ce ue : List Nat}

/-- The word of a bank in the row that a slice scrubs next. -/
def State.scrubAddr (s : State) (n b : Nat) : Nat := sliceDpa n b (Tab.get s.scrubRow 0 n % 4096)

/-- The banks of the slice's next row have been read. -/
def State.scrubRead (s : State) (n : Nat) : State := s.scrubBanks n (Tab.get s.scrubRow 0 n % 4096) 32

/-- The groups found correctable are counted, and those found uncorrectable marked. -/
def State.scrubFound (s : State) (n : Nat) (ce ue : List Nat) : State :=
  ue.foldl (fun t g => t.groupLost (s.scrubAddr n (g / 8)) (s.scrubAddr n (g / 8) + g % 8 * 8))
    (ce.foldl (fun t g => t.groupCorrected (s.scrubAddr n (g / 8)) (s.scrubAddr n (g / 8) + g % 8 * 8)) (s.scrubRead n))

/-- The slice's scrub goes on at a row. -/
def State.nextScrub (s : State) (n row : Nat) : State := { s with scrubRow := Tab.put s.scrubRow n row }

theorem State.nextScrub_frame {s t u v : State} {n row : Nat} (h : u.ErrorsOnly v) (g : s.BanksOnly u) (ht : t = v.nextScrub n row) :
    t = { s with mem := t.mem, regs := t.regs, events := t.events, scrubRow := t.scrubRow, busy := t.busy, deficit := t.deficit } := by
  rw [ht, h, g]
  rfl

theorem exec_sliceScrub (hwf : Instr.wf (.sliceScrub n ce ue) = true) :
    exec (.sliceScrub n ce ue) s =
      .next ((s.scrubFound n ce ue).nextScrub n ((Tab.get s.scrubRow 0 n % 4096 + 1) % 4096)) := by
  show execSliceScrub n ce ue s = _
  rw [execSliceScrub, guardWf_of_wf hwf]
  simp only [State.nextScrub, State.scrubFound, State.scrubRead, State.scrubBanks, State.visitBank, State.scrubAddr]

theorem sliceScrub_of_wf (s : State) (hwf : Instr.wf (.sliceScrub n ce ue) = true) : ∃ t : State, exec (.sliceScrub n ce ue) s = .next t ∧
      Tab.get t.scrubRow 0 n = (Tab.get s.scrubRow 0 n % 4096 + 1) % 4096 ∧
      (∀ k, t.mem.byte k = s.mem.byte k) ∧
      (∀ k, t.mem.bad k = true ↔ s.mem.bad k = true ∨ ∃ g ∈ ue, groupOf k = s.scrubAddr n (g / 8) + g % 8 * 8) ∧
      (∀ b < 32, Tab.get t.busy 0 (bankKey (s.scrubAddr n b)) = s.freeAt (s.scrubAddr n b)) ∧
      (ue = [] → (∀ g ∈ ce, s.mem.bad (s.scrubAddr n (g / 8) + g % 8 * 8) = false) →
        t.fld (rSlcEcc n) 47 16 = min (s.fld (rSlcEcc n) 47 16 + ce.length) (2 ^ 32 - 1) ∧ t.events.length = s.events.length + ce.length) ∧
      t = { s with mem := t.mem, regs := t.regs, events := t.events, scrubRow := t.scrubRow, busy := t.busy, deficit := t.deficit } := by
  have hwf' := hwf
  simp only [Instr.wf, Bool.and_eq_true, List.all_eq_true, decide_eq_true_eq] at hwf'
  obtain ⟨⟨hn, hce⟩, hue⟩ := hwf'
  obtain ⟨honly, hregs, hbusy⟩ := s.scrubBanks_leaves hn (Tab.get s.scrubRow 0 n % 4096) (Nat.le_refl 32)
  have hread : (s.scrubRead n).mem = s.mem := honly.mem
  have hgroup : ∀ g ∈ ue, groupOf (s.scrubAddr n (g / 8) + g % 8 * 8) = s.scrubAddr n (g / 8) + g % 8 * 8 := fun g hg => by
    have hb : g / 8 < 32 := by have := hue g hg; omega
    have hlt := sliceDpa_lt (row := Tab.get s.scrubRow 0 n % 4096) hn hb (Nat.mod_lt _ (by norm_num))
    have hmod := sliceDpa_mod (bank := g / 8) (row := Tab.get s.scrubRow 0 n % 4096) hn
    exact groupOf_of_aligned (by unfold State.scrubAddr; omega) (by unfold State.scrubAddr; omega)
  have hbyte : ∀ k, (s.scrubFound n ce ue).mem.byte k = s.mem.byte k := fun k => by
    rw [State.scrubFound, State.byte_foldl_groupLost, State.foldl_groupCorrected_mem, hread]
  have hbad : ∀ k, (s.scrubFound n ce ue).mem.bad k = true ↔ s.mem.bad k = true ∨ ∃ g ∈ ue, groupOf k = s.scrubAddr n (g / 8) + g % 8 * 8 := fun k => by
    rw [State.scrubFound, State.bad_foldl_groupLost _ _ hgroup, State.foldl_groupCorrected_mem, hread]
  have hfound : (s.scrubRead n).ErrorsOnly (s.scrubFound n ce ue) :=
    .foldl (.foldl (.refl _) (fun _ h => h.groupCorrected _ _) ce) (fun _ h => h.groupLost _ _) ue
  have hecc : ue = [] → (∀ g ∈ ce, s.mem.bad (s.scrubAddr n (g / 8) + g % 8 * 8) = false) →
      (s.scrubFound n ce ue).fld (rSlcEcc n) 47 16 = min (s.fld (rSlcEcc n) 47 16 + ce.length) (2 ^ 32 - 1) ∧
        (s.scrubFound n ce ue).events.length = s.events.length + ce.length := fun hnil hclear => by
    subst hnil
    have hcount := State.foldl_groupCorrected_of_clear (n := n) (fun g => s.scrubAddr n (g / 8)) (fun g => s.scrubAddr n (g / 8) + g % 8 * 8)
      (fun g hg => sliceOf_sliceDpa hn (by have := hce g hg; omega)) (s.scrubRead n) (by rw [hread]; exact hclear)
    have hfld : (s.scrubRead n).fld (rSlcEcc n) 47 16 = s.fld (rSlcEcc n) 47 16 := hregs.fld (not_fabReg_rSlcEcc hn) _ _
    have hevents : (s.scrubRead n).events = s.events := honly.events
    rw [hfld, hevents] at hcount
    rw [State.scrubFound, List.foldl_nil]
    exact hcount
  have hexec := exec_sliceScrub (s := s) hwf
  have hreadOnly : s.BanksOnly (s.scrubRead n) := honly
  have hbusyRead : ∀ b < 32, Tab.get (s.scrubRead n).busy 0 (bankKey (s.scrubAddr n b)) = s.freeAt (s.scrubAddr n b) := fun b hb =>
    (hbusy b hb).trans (if_pos hb)
  generalize (Tab.get s.scrubRow 0 n % 4096 + 1) % 4096 = row at hexec ⊢
  generalize s.scrubFound n ce ue = v at hfound hbyte hbad hecc hexec
  generalize s.scrubRead n = u at hfound hreadOnly hbusyRead
  refine ⟨_, hexec, Tab.get_put_self .., hbyte, hbad, fun b hb => ?_, hecc, ?_⟩
  · exact (congrArg (fun t => Tab.get t 0 (bankKey (s.scrubAddr n b))) hfound.busy).trans (hbusyRead b hb)
  · exact State.nextScrub_frame hfound hreadOnly rfl

end

end Sys2Proof.Machine
end

section
/-! SUPPORT. Events that fall due one after another, the arbiters' mode, and areas laid over memory: what each leaves. -/

namespace Sys2Proof.Machine

namespace State

variable {σ s t : State}

/-! ### Unit events (R453) -/

/-- The second of an event is read off the clock, the uptime's base and the lock. -/
theorem eventSecond_of (hc : t.clock = s.clock) (hp : t.power = s.power) (hr : t.fld rPtpStat 61 61 = s.fld rPtpStat 61 61) :
    t.eventSecond = s.eventSecond := by
  simp only [State.eventSecond, State.now, hc, hp, hr]

/-- Events fall due. -/
def addEvents (s : State) (l : List UEvent) : State := { s with events := s.events ++ l }

theorem unitEvent_eq (s : State) (u k d : Nat) : s.unitEvent u k d = s.addEvents [⟨u, k, s.eventSecond, d⟩] := rfl

theorem addEvents_addEvents (s : State) (l m : List UEvent) : (s.addEvents l).addEvents m = s.addEvents (l ++ m) := by
  simp only [addEvents, List.append_assoc]

theorem eventSecond_addEvents (s : State) (l : List UEvent) : (s.addEvents l).eventSecond = s.eventSecond := rfl

/-- Events that fall due one after another do so in the same second. -/
theorem foldl_unitEvent {α : Type} (u k d : α → Nat) (l : List α) (s : State) :
    l.foldl (fun s x => s.unitEvent (u x) (k x) (d x)) s = s.addEvents (l.map fun x => ⟨u x, k x, s.eventSecond, d x⟩) := by
  induction l generalizing s with
  | nil => simp only [List.foldl_nil, List.map_nil, addEvents, List.append_nil]
  | cons x r ih => rw [List.foldl_cons, ih, unitEvent_eq, addEvents_addEvents, eventSecond_addEvents, List.singleton_append, List.map_cons]

theorem sameRegsBut.unitEvent {p : Nat → Prop} (h : σ.sameRegsBut s p) (u k d : Nat) : σ.sameRegsBut (s.unitEvent u k d) p := h.update rfl

/-! ### The mode of the arbiters (R300) -/

/-- The arbiters' registers. -/
def arbReg (a : Nat) : Prop := ∃ d < 4, a = rArbCtrl d

theorem setArb_regs (h : σ.sameRegsBut s p) (hp : ∀ d < 4, p (rArbCtrl d)) : σ.sameRegsBut s.setArb p :=
  h.foldl fun d hd _ h => h.setFld (hp d (List.mem_range.1 hd)) _ _ _

end State

/-! ### Areas laid over memory (R282, R309) -/

/-- An area laid clears the marks of the groups it holds, and leaves the others. -/
theorem Memory.bad_lay (m : Memory) (a : Area) (k : Nat) : (m.lay a).bad k = (m.bad k && !a.has (groupOf k)) := by
  rw [Bool.eq_iff_iff, Bool.and_eq_true]
  simp only [Memory.bad, Memory.lay, List.contains_iff_mem, List.mem_filter]

/-- Keys of one slice. -/
def sliceArea (slice : Nat) (tag : Option Nat) : Area := ⟨0, hamperDpa, .slice slice, tag⟩

theorem sliceArea_has {slice k : Nat} (tag : Option Nat) (hk : k < hamperDpa) : (sliceArea slice tag).has k = decide (sliceOf k = slice) := by
  simp [Area.has, sliceArea, Sel.has, hk, beq_eq_decide]

theorem State.laySlice_mem (s : State) (slice : Nat) (tag : Option Nat) : (s.laySlice slice tag).mem = s.mem.lay (sliceArea slice tag) := rfl

section

variable (m : Memory) {slice k : Nat} (tag : Option Nat) (hk : k < hamperDpa)

include hk

/-- The words of another slice keep their bytes and marks. -/
theorem Memory.lay_sliceArea_of_ne (hs : sliceOf k ≠ slice) :
    (m.lay (sliceArea slice tag)).byte k = m.byte k ∧ (m.lay (sliceArea slice tag)).bad k = m.bad k := by
  refine ⟨m.byte_lay_outside _ ((sliceArea_has tag hk).trans (decide_eq_false hs)), ?_⟩
  rw [Memory.bad_lay, sliceArea_has tag (groupOf_lt hk), sliceOf_groupOf hk, decide_eq_false hs, Bool.not_false, Bool.and_true]

/-- No word of the slice is marked. -/
theorem Memory.bad_lay_sliceArea (hs : sliceOf k = slice) : (m.lay (sliceArea slice tag)).bad k = false := by
  rw [Memory.bad_lay, sliceArea_has tag (groupOf_lt hk), sliceOf_groupOf hk, decide_eq_true hs, Bool.not_true, Bool.and_false]

end

end Sys2Proof.Machine
end

section
/-! Chapter 8 of the manual: marches end. -/

namespace Sys2Proof.Machine

/-! ### Words written back marked (R280, R309) -/

/-- Marks set on several groups. -/
theorem Memory.bad_foldl_setPoison (f : Nat → Nat) (l : List Nat) (m : Memory) (k : Nat) :
    (l.foldl (fun m g => m.setPoison (f g) true) m).bad k = true ↔ m.bad k = true ∨ ∃ g ∈ l, groupOf k = f g := by
  induction l generalizing m with
  | nil => simp
  | cons g r ih => rw [List.foldl_cons, ih, Memory.bad_setPoison, or_assoc, List.exists_mem_cons_iff]

namespace State

variable {σ s t : State} {n : Nat}

/-- The word of a march's number. -/
def marchAddr (n w : Nat) : Nat := sliceDpa n (w / 4096) (w % 4096)

theorem sliceOf_marchAddr {w : Nat} (hn : n < 512) (hw : w < 131072) : sliceOf (marchAddr n w) = n :=
  sliceOf_sliceDpa hn (Nat.div_lt_of_lt_mul hw)

theorem marchAddr_lt {w : Nat} (hn : n < 512) (hw : w < 131072) : marchAddr n w + 64 ≤ hamperDpa :=
  sliceDpa_lt hn (Nat.div_lt_of_lt_mul hw) (Nat.mod_lt _ (by norm_num))

theorem groupOf_marchAddr {w : Nat} (hn : n < 512) (hw : w < 131072) : groupOf (marchAddr n w) = marchAddr n w := by
  have hlt := marchAddr_lt hn hw
  have hmod : marchAddr n w % 64 = 0 := sliceDpa_mod hn
  exact groupOf_of_aligned (by omega) (by omega)

/-- What marking the words of a slice leaves: bytes, all but marks, registers and events, and all registers but the slice's error counts; each word is reported at most once. -/
structure MarkedOnly (n k : Nat) (s t : State) : Prop where
  only : s.ErrorsOnly t
  regs : s.sameRegsBut t (· = rSlcEcc n)
  byte : ∀ j, t.mem.byte j = s.mem.byte j
  events : ∃ l : List UEvent, t.events = s.events ++ l ∧ l.length ≤ k ∧ ∀ e ∈ l, e.unit = unitSlice n ∧ e.kind = evUe

theorem MarkedOnly.refl (n : Nat) (s : State) : MarkedOnly n 0 s s := ⟨.refl s, .refl s _, fun _ => rfl, [], (List.append_nil _).symm, Nat.le_refl 0, by simp⟩

theorem ErrorsOnly.trans {u : State} (h : s.ErrorsOnly t) (g : t.ErrorsOnly u) : s.ErrorsOnly u := by
  rw [g]
  exact h.update _ _ _

theorem MarkedOnly.trans {u : State} {j k : Nat} (h : MarkedOnly n j s t) (g : MarkedOnly n k t u) : MarkedOnly n (j + k) s u := by
  obtain ⟨l, hl, hlen, hall⟩ := h.events
  obtain ⟨l', hl', hlen', hall'⟩ := g.events
  refine ⟨h.only.trans g.only, h.regs.trans g.regs, fun i => (g.byte i).trans (h.byte i), l ++ l', ?_, ?_, fun e he => ?_⟩
  · rw [hl', hl, List.append_assoc]
  · rw [List.length_append]
    exact Nat.add_le_add hlen hlen'
  · exact (List.mem_append.1 he).elim (hall e) (hall' e)

theorem sliceEcc_regs (h : σ.sameRegsBut s (· = rSlcEcc n)) (bank : Nat) (ue : Bool) : σ.sameRegsBut (s.sliceEcc n bank ue) (· = rSlcEcc n) := by
  exact ((State.sameRegsBut.ite (h.addFld_self 63 48 1) (h.addFld_self 47 16 1)).setFld_self 12 8 bank).setFld_self 0 0 (bit ue)

theorem groupLost_of_clear {g : Nat} (h : s.mem.bad g = false) (a : Nat) : s.groupLost a g =
    (State.sliceEcc { s with mem := s.mem.setPoison g true } (sliceOf a) (bankOf a) true).unitEvent (unitSlice (sliceOf a)) evUe (detailOf [bankOf a, rowOf a]) :=
  if_neg (by simp [h])

theorem groupLost_markedOnly (s : State) {a : Nat} (g : Nat) (ha : sliceOf a = n) : MarkedOnly n 1 s (s.groupLost a g) := by
  have honly : s.ErrorsOnly (s.groupLost a g) := .groupLost (.refl s) a g
  have hbyte := s.byte_groupLost a g
  cases hbad : s.mem.bad g
  case true =>
    rw [groupLost_of_marked hbad]
    exact ⟨.refl s, .refl s _, fun _ => rfl, [], (List.append_nil _).symm, Nat.zero_le 1, by simp⟩
  case false =>
    rw [groupLost_of_clear hbad, ha] at honly hbyte ⊢
    have hregs : s.sameRegsBut { s with mem := s.mem.setPoison g true } (· = rSlcEcc n) := .update (.refl s _) rfl
    refine ⟨honly, (sliceEcc_regs hregs (bankOf a) true).unitEvent _ _ _, hbyte, ?_⟩
    rw [unitEvent, events_sliceEcc]
    exact ⟨_, rfl, Nat.le_refl 1, by simp⟩

/-- Every group of a word is marked. -/
def markAll (s : State) (a : Nat) : State := { s with mem := (List.range 8).foldl (fun m g => m.setPoison (a + 8 * g) true) s.mem }

theorem markWord_eq (s : State) (n w : Nat) : s.markWord n w = (s.groupLost (marchAddr n w) (marchAddr n w)).markAll (marchAddr n w) := rfl

theorem MarkedOnly.markAll {k : Nat} (h : MarkedOnly n k s t) (a : Nat) : MarkedOnly n k s (t.markAll a) :=
  ⟨h.only.update _ _ _, h.regs.update rfl, fun j => (Memory.byte_foldl_setPoison (fun g => a + 8 * g) (fun _ => true) _ t.mem j).trans (h.byte j), h.events⟩

/-- A word written back marked. -/
theorem markWord_markedOnly (s : State) (w : Nat) (ha : sliceOf (marchAddr n w) = n) : MarkedOnly n 1 s (s.markWord n w) := by
  rw [markWord_eq]
  exact (s.groupLost_markedOnly _ ha).markAll _

theorem bad_markWord (s : State) (w k : Nat) (hg : groupOf (marchAddr n w) = marchAddr n w) :
    (s.markWord n w).mem.bad k = true ↔ s.mem.bad k = true ∨ ∃ g < 8, groupOf k = marchAddr n w + 8 * g := by
  rw [markWord_eq, markAll, Memory.bad_foldl_setPoison, bad_groupLost _ _ _ hg]
  simp only [List.mem_range]
  constructor
  · rintro ((hb | hk) | hk)
    · exact .inl hb
    · exact .inr ⟨0, by omega, by rw [Nat.mul_zero, Nat.add_zero, hk]⟩
    · exact .inr hk
  · exact Or.imp_left .inl

section

variable {lost : List Nat} (hn : n < 512) (hlost : ∀ w ∈ lost, w < 131072)

include hn hlost

theorem foldl_markWord_markedOnly (s : State) : MarkedOnly n lost.length s (lost.foldl (fun s w => s.markWord n w) s) := by
  induction lost generalizing s with
  | nil => exact .refl n s
  | cons w r ih =>
    obtain ⟨hw, hr⟩ := List.forall_mem_cons.1 hlost
    rw [List.foldl_cons, List.length_cons, Nat.add_comm r.length 1]
    exact (s.markWord_markedOnly w (sliceOf_marchAddr hn hw)).trans (ih hr _)

theorem bad_foldl_markWord (s : State) (k : Nat) : (lost.foldl (fun s w => s.markWord n w) s).mem.bad k = true ↔
    s.mem.bad k = true ∨ ∃ w ∈ lost, ∃ g < 8, groupOf k = marchAddr n w + 8 * g := by
  induction lost generalizing s with
  | nil => simp
  | cons w r ih =>
    obtain ⟨hw, hr⟩ := List.forall_mem_cons.1 hlost
    rw [List.foldl_cons, ih hr, bad_markWord _ _ _ (groupOf_marchAddr hn hw), or_assoc, List.exists_mem_cons_iff]

end

/-! ### Failing words (R310, R454) -/

/-- SLC_MARCH shows the number of failing words and the place of the first. -/
def showFails (s : State) (n : Nat) (fails : List Nat) : State :=
  let t := s.setFld (rSlcMarch n) 49 32 fails.length
  match fails with
  | [] => t
  | w :: _ => (t.setFld (rSlcMarch n) 28 24 (w / 4096)).setFld (rSlcMarch n) 23 12 (w % 4096)

/-- The rows of failing words fall due for spares. -/
def dueRows (s : State) (n : Nat) (fails : List Nat) : State :=
  { s with flash := { s.flash with badRows := (s.flash.badRows ++ fails.map (fun w => (n, w / 4096, w % 4096))).dedup } }

/-- A failing word is a failed test of the slice. -/
def failEvents (s : State) (n : Nat) (fails : List Nat) : List UEvent :=
  fails.map fun w => ⟨unitSlice n, evTestFail, s.eventSecond, detailOf [w / 4096, w % 4096]⟩

theorem recordFails_eq (s : State) (n : Nat) (fails : List Nat) :
    s.recordFails n fails = ((s.showFails n fails).dueRows n fails).addEvents ((s.showFails n fails).failEvents n fails) :=
  foldl_unitEvent (fun _ => unitSlice n) (fun _ => evTestFail) (fun w => detailOf [w / 4096, w % 4096]) fails ((s.showFails n fails).dueRows n fails)

theorem showFails_leaves (s : State) (n : Nat) (fails : List Nat) : s.RegsOnly (s.showFails n fails) ∧ s.sameRegsBut (s.showFails n fails) (· = rSlcMarch n) := by
  have hcount := (sameRegsBut.refl s (· = rSlcMarch n)).setFld_self 49 32 fails.length
  cases fails with
  | nil => exact ⟨.setFld (.refl s) _ _ _ _, hcount⟩
  | cons w r => exact ⟨.setFld (.setFld (.setFld (.refl s) _ _ _ _) _ _ _ _) _ _ _ _, (hcount.setFld_self 28 24 _).setFld_self 23 12 _⟩

end State

/-! ### MARCH_COMPLETE -/

section

variable {s : State} {n : Nat} {fails lost : List Nat}

/-- What the march leaves of the slice's words: zero after a destructive one (SLC_MARCH.STATE 2), marks after a preserving one. -/
def State.marched (s : State) (n : Nat) (lost : List Nat) : State :=
  if s.fld (rSlcMarch n) 63 60 = 2 then s.laySlice n none else lost.foldl (fun s w => s.markWord n w) s

/-- The march has ended, with its result shown and recorded. -/
def State.marchEnded (s : State) (n : Nat) (fails : List Nat) : State :=
  ((s.setFld (rSlcMarch n) 63 60 (if fails = [] then 3 else 4)).recordFails n fails).setArb

theorem exec_marchComplete (hwf : Instr.wf (.marchComplete n ⟨fails, lost⟩) = true) (hst : s.fld (rSlcMarch n) 63 60 = 1 ∨ s.fld (rSlcMarch n) 63 60 = 2) :
    exec (.marchComplete n ⟨fails, lost⟩) s = .next ((s.marched n lost).marchEnded n fails) := by
  have hrun : ¬ (s.fld (rSlcMarch n) 63 60 ≠ 1 ∧ s.fld (rSlcMarch n) 63 60 ≠ 2) := by omega
  show execMarchComplete n ⟨fails, lost⟩ s = _
  rw [execMarchComplete, guardWf_of_wf hwf]
  simp only [if_neg hrun, State.marched, State.marchEnded, List.isEmpty_iff]

namespace State

theorem fld_showFails_result (s : State) (n : Nat) (fails : List Nat) : (s.showFails n fails).fld (rSlcMarch n) 63 60 = s.fld (rSlcMarch n) 63 60 := by
  have hcount := s.fld_setFld_ne (rSlcMarch n) 49 32 fails.length 63 60 (by omega) (by omega) (by omega)
  cases fails with
  | nil => exact hcount
  | cons w r =>
    simp only [showFails]
    rw [fld_setFld_ne _ _ _ _ _ _ _ (by omega) (by omega) (by omega), fld_setFld_ne _ _ _ _ _ _ _ (by omega) (by omega) (by omega), hcount]

theorem fld_showFails_count (s : State) (n : Nat) (fails : List Nat) : (s.showFails n fails).fld (rSlcMarch n) 49 32 = fails.length % 2 ^ 18 := by
  have hcount := s.fld_setFld_self (rSlcMarch n) 49 32 fails.length (by omega) (by omega)
  cases fails with
  | nil => exact hcount
  | cons w r =>
    simp only [showFails]
    rw [fld_setFld_ne _ _ _ _ _ _ _ (by omega) (by omega) (by omega), fld_setFld_ne _ _ _ _ _ _ _ (by omega) (by omega) (by omega), hcount]

theorem fld_showFails_place (s : State) (n w : Nat) (l : List Nat) :
    (s.showFails n (w :: l)).fld (rSlcMarch n) 28 24 = w / 4096 % 32 ∧ (s.showFails n (w :: l)).fld (rSlcMarch n) 23 12 = w % 4096 := by
  simp only [showFails]
  constructor
  · rw [fld_setFld_ne _ _ _ _ _ _ _ (by omega) (by omega) (by omega), fld_setFld_self _ _ _ _ _ (by omega) (by omega)]
    norm_num
  · rw [fld_setFld_self _ _ _ _ _ (by omega) (by omega)]
    exact Nat.mod_mod _ _

theorem fld_showFails_nil (s : State) (n : Nat) :
    (s.showFails n []).fld (rSlcMarch n) 28 24 = s.fld (rSlcMarch n) 28 24 ∧ (s.showFails n []).fld (rSlcMarch n) 23 12 = s.fld (rSlcMarch n) 23 12 :=
  ⟨s.fld_setFld_ne _ _ _ _ _ _ (by omega) (by omega) (by omega), s.fld_setFld_ne _ _ _ _ _ _ (by omega) (by omega) (by omega)⟩

/-! #### The state after the march -/

theorem rArbCtrl_ne_rSlcMarch (d n : Nat) : rSlcMarch n ≠ rArbCtrl d := by
  unfold rSlcMarch rArbCtrl slcB fabDieB
  omega

theorem rSlcEcc_ne_rSlcMarch (n : Nat) : rSlcMarch n ≠ rSlcEcc n := by
  unfold rSlcMarch rSlcEcc
  omega

/-- The lock of cluster time is in no register of a slice. -/
theorem rPtpStat_ne_slice (hn : n < 512) : rPtpStat ≠ rSlcMarch n ∧ rPtpStat ≠ rSlcEcc n := by
  unfold rPtpStat rSlcMarch rSlcEcc ptpB slcB
  omega

/-- The march's result is shown. -/
def resultShown (s : State) (n : Nat) (fails : List Nat) : State :=
  (s.setFld (rSlcMarch n) 63 60 (if fails = [] then 3 else 4)).showFails n fails

theorem resultShown_leaves (s : State) (n : Nat) (fails : List Nat) :
    s.RegsOnly (s.resultShown n fails) ∧ s.sameRegsBut (s.resultShown n fails) (· = rSlcMarch n) := by
  obtain ⟨honly, hregs⟩ := (s.setFld (rSlcMarch n) 63 60 (if fails = [] then 3 else 4)).showFails_leaves n fails
  exact ⟨.trans (.setFld (.refl s) _ _ _ _) honly, .trans ((sameRegsBut.refl s _).setFld_self _ _ _) hregs⟩

/-- Its rows and failed tests are recorded, and the arbiters take their mode. -/
def resultKept (s : State) (n : Nat) (fails : List Nat) : State := ((s.dueRows n fails).addEvents (s.failEvents n fails)).setArb

theorem marchEnded_eq (s : State) (n : Nat) (fails : List Nat) : s.marchEnded n fails = (s.resultShown n fails).resultKept n fails := by
  rw [marchEnded, recordFails_eq]
  rfl

theorem fld_resultKept (s : State) (n : Nat) (fails : List Nat) (hi lo : Nat) :
    (s.resultKept n fails).fld (rSlcMarch n) hi lo = s.fld (rSlcMarch n) hi lo := by
  have hrefl : s.sameRegsBut ((s.dueRows n fails).addEvents (s.failEvents n fails)) (fun a => a ≠ rSlcMarch n) := .update (.refl s _) rfl
  exact (setArb_regs hrefl fun d _ => (rArbCtrl_ne_rSlcMarch d n).symm).fld (not_not_intro rfl) hi lo

theorem resultKept_frame (s : State) (n : Nat) (fails : List Nat) : s.resultKept n fails = { s with
    regs := (s.resultKept n fails).regs
    flash := { s.flash with badRows := (s.flash.badRows ++ fails.map (fun w => (n, w / 4096, w % 4096))).dedup }
    events := s.events ++ s.failEvents n fails } :=
  RegsOnly.setArb (.refl ((s.dueRows n fails).addEvents (s.failEvents n fails)))

/-- What the end of a march leaves, and how SLC_MARCH reads then (R308, R310, R454). -/
theorem marchEnded_leaves (s : State) (fails : List Nat) (hn : n < 512) :
    let t := s.marchEnded n fails
    t = { s with
      regs := t.regs
      flash := { s.flash with badRows := (s.flash.badRows ++ fails.map (fun w => (n, w / 4096, w % 4096))).dedup }
      events := s.events ++ s.failEvents n fails } ∧
    t.fld (rSlcMarch n) 63 60 = (if fails = [] then 3 else 4) ∧ t.fld (rSlcMarch n) 49 32 = fails.length % 2 ^ 18 ∧
    (∀ w l, fails = w :: l → t.fld (rSlcMarch n) 28 24 = w / 4096 % 32 ∧ t.fld (rSlcMarch n) 23 12 = w % 4096) ∧
    (fails = [] → t.fld (rSlcMarch n) 28 24 = s.fld (rSlcMarch n) 28 24 ∧ t.fld (rSlcMarch n) 23 12 = s.fld (rSlcMarch n) 23 12) := by
  intro t
  obtain ⟨honly, hregs⟩ := s.resultShown_leaves n fails
  have hfld : ∀ hi lo, t.fld (rSlcMarch n) hi lo = (s.resultShown n fails).fld (rSlcMarch n) hi lo := fun hi lo => by
    rw [show t = _ from s.marchEnded_eq n fails, fld_resultKept]
  have hstart := fun h2 l2 (h : h2 < 60) => s.fld_setFld_ne (rSlcMarch n) 63 60 (if fails = [] then 3 else 4) h2 l2 (by omega) (by omega) (.inl h)
  refine ⟨?_, ?_, ?_, fun w l hw => ?_, fun hnil => ?_⟩
  · have hframe := (s.resultShown n fails).resultKept_frame n fails
    have hsecond : (s.resultShown n fails).failEvents n fails = s.failEvents n fails := by
      have he : (s.resultShown n fails).eventSecond = s.eventSecond :=
        eventSecond_of (by rw [honly]) (by rw [honly]) (hregs.fld (rPtpStat_ne_slice hn).1 _ _)
      simp only [failEvents, he]
    rw [hsecond, ← marchEnded_eq] at hframe
    generalize s.resultShown n fails = u at honly hframe
    rw [honly] at hframe
    exact hframe
  · rw [hfld, resultShown, fld_showFails_result, fld_setFld_self _ _ _ _ _ (by omega) (by omega)]
    split <;> rfl
  · rw [hfld, resultShown, fld_showFails_count]
  · subst hw
    rw [hfld, hfld, resultShown]
    exact fld_showFails_place _ _ _ _
  · obtain ⟨hbank, hrow⟩ := fld_showFails_nil (s.setFld (rSlcMarch n) 63 60 3) n
    subst hnil
    rw [hfld, hfld, resultShown, if_pos rfl, hbank, hrow, fld_setFld_ne _ _ _ _ _ _ _ (by omega) (by omega) (by omega),
      fld_setFld_ne _ _ _ _ _ _ _ (by omega) (by omega) (by omega)]
    exact ⟨rfl, rfl⟩

end State

end

end Sys2Proof.Machine
end

section
/-! Chapter 8 of the manual: what a march leaves of its slice. -/

namespace Sys2Proof.Machine

section

variable {s : State} {n : Nat} {fails lost : List Nat}

namespace State

/-- A march that destroys has laid zero over its slice. -/
theorem marched_of_destroying (lost : List Nat) (h : s.fld (rSlcMarch n) 63 60 = 2) : s.marched n lost = s.laySlice n none := if_pos h

theorem marched_of_preserving (lost : List Nat) (h : s.fld (rSlcMarch n) 63 60 = 1) : s.marched n lost = lost.foldl (fun s w => s.markWord n w) s :=
  if_neg (by omega)

/-- What a march leaves besides its slice's words and merge windows. -/
structure MarchedOnly (n k : Nat) (s t : State) : Prop where
  frame : t = { s with mem := t.mem, regs := t.regs, events := t.events, merge := t.merge }
  regs : s.sameRegsBut t (· = rSlcEcc n)
  events : ∃ l : List UEvent, t.events = s.events ++ l ∧ l.length ≤ k ∧ (s.fld (rSlcMarch n) 63 60 = 2 → l = []) ∧ ∀ e ∈ l, e.unit = unitSlice n ∧ e.kind = evUe

theorem marched_leaves (s : State) (hn : n < 512) (hlost : ∀ w ∈ lost, w < 131072) (hst : s.fld (rSlcMarch n) 63 60 = 1 ∨ s.fld (rSlcMarch n) 63 60 = 2) :
    MarchedOnly n lost.length s (s.marched n lost) := by
  obtain h1 | h2 := hst
  · obtain ⟨honly, hregs, -, l, hl, hlen, hall⟩ := foldl_markWord_markedOnly hn hlost s
    rw [marched_of_preserving lost h1]
    generalize lost.foldl (fun s w => s.markWord n w) s = t at honly hregs hl
    refine ⟨?_, hregs, l, hl, hlen, fun h2 => by omega, hall⟩
    rw [honly]
  · rw [marched_of_destroying lost h2]
    exact ⟨rfl, .update (.refl s _) rfl, [], (List.append_nil _).symm, Nat.zero_le _, fun _ => rfl, by simp⟩

/-- A preserving march leaves every byte, and marks the words that held an uncorrectable error (R309). -/
theorem mem_marched_of_preserving (hn : n < 512) (hlost : ∀ w ∈ lost, w < 131072) (h : s.fld (rSlcMarch n) 63 60 = 1) (k : Nat) :
    (s.marched n lost).mem.byte k = s.mem.byte k ∧
      ((s.marched n lost).mem.bad k = true ↔ s.mem.bad k = true ∨ ∃ w ∈ lost, ∃ g < 8, groupOf k = marchAddr n w + 8 * g) := by
  rw [marched_of_preserving lost h]
  exact ⟨(foldl_markWord_markedOnly hn hlost s).byte k, bad_foldl_markWord hn hlost s k⟩

/-- A destructive march leaves the words of its slice zero, and its merge windows closed (R299, R309). -/
theorem mem_marched_of_destroying (lost : List Nat) (h : s.fld (rSlcMarch n) 63 60 = 2) {k : Nat} (hk : k < hamperDpa) :
    (sliceOf k = n → (s.marched n lost).mem.byte k = 0 ∧ (s.marched n lost).mem.bad k = false) ∧
      (sliceOf k ≠ n → (s.marched n lost).mem.byte k = s.mem.byte k ∧ (s.marched n lost).mem.bad k = s.mem.bad k) := by
  rw [marched_of_destroying lost h, laySlice_mem]
  refine ⟨fun hs => ⟨?_, s.mem.bad_lay_sliceArea none hk hs⟩, s.mem.lay_sliceArea_of_ne none hk⟩
  exact s.mem.byte_lay_zero _ ((sliceArea_has none hk).trans (decide_eq_true hs)) rfl

theorem mem_merge_marched (lost : List Nat) (h : s.fld (rSlcMarch n) 63 60 = 2) {x : Nat × Nat} (hx : x ∈ (s.marched n lost).merge) :
    x ∈ s.merge ∧ sliceOf (64 * x.1) ≠ n := by
  rw [marched_of_destroying lost h] at hx
  obtain ⟨hm, hne⟩ := List.mem_filter.1 hx
  exact ⟨hm, by simpa using hne⟩

end State

/-- A march that has come to its end, with its result. -/
theorem marchComplete_of_running (hwf : Instr.wf (.marchComplete n ⟨fails, lost⟩) = true) (hst : s.fld (rSlcMarch n) 63 60 = 1 ∨ s.fld (rSlcMarch n) 63 60 = 2) :
    ∃ t : State, exec (.marchComplete n ⟨fails, lost⟩) s = .next t ∧
      t.fld (rSlcMarch n) 63 60 = (if fails = [] then 3 else 4) ∧ t.fld (rSlcMarch n) 49 32 = fails.length % 2 ^ 18 ∧
      (∀ w l, fails = w :: l → t.fld (rSlcMarch n) 28 24 = w / 4096 % 32 ∧ t.fld (rSlcMarch n) 23 12 = w % 4096) ∧
      (fails = [] → t.fld (rSlcMarch n) 28 24 = s.fld (rSlcMarch n) 28 24 ∧ t.fld (rSlcMarch n) 23 12 = s.fld (rSlcMarch n) 23 12) ∧
      (∃ l : List UEvent, t.events = s.events ++ l ++ fails.map (fun w => ⟨unitSlice n, evTestFail, s.eventSecond, detailOf [w / 4096, w % 4096]⟩) ∧
        l.length ≤ lost.length ∧ (s.fld (rSlcMarch n) 63 60 = 2 → l = []) ∧ ∀ e ∈ l, e.unit = unitSlice n ∧ e.kind = evUe) ∧
      (∀ w ∈ fails, (n, w / 4096, w % 4096) ∈ t.flash.badRows) ∧ (∀ e ∈ s.flash.badRows, e ∈ t.flash.badRows) ∧
      (s.fld (rSlcMarch n) 63 60 = 1 → ∀ k, t.mem.byte k = s.mem.byte k ∧ (t.mem.bad k = true ↔ s.mem.bad k = true ∨ ∃ w ∈ lost, ∃ g < 8, groupOf k = sliceDpa n (w / 4096) (w % 4096) + 8 * g)) ∧
      (s.fld (rSlcMarch n) 63 60 = 2 → ∀ k < hamperDpa, (sliceOf k = n → t.mem.byte k = 0 ∧ t.mem.bad k = false) ∧ (sliceOf k ≠ n → t.mem.byte k = s.mem.byte k ∧ t.mem.bad k = s.mem.bad k)) ∧
      t = { s with mem := t.mem, regs := t.regs, events := t.events, flash := { s.flash with badRows := t.flash.badRows }, merge := t.merge } ∧
      (s.fld (rSlcMarch n) 63 60 = 2 → ∀ x ∈ t.merge, x ∈ s.merge ∧ sliceOf (64 * x.1) ≠ n) := by
  have hwf' := hwf
  simp only [Instr.wf, Bool.and_eq_true, List.all_append, List.all_eq_true, decide_eq_true_eq] at hwf'
  obtain ⟨hn, -, hlost⟩ := hwf'
  have hexec := exec_marchComplete (lost := lost) hwf hst
  obtain ⟨hframe, hresult, hcount, hplace, hnone⟩ := (s.marched n lost).marchEnded_leaves fails hn
  obtain ⟨hmarched, hregs, l, hevents, hlen, hzero, hall⟩ := s.marched_leaves hn hlost hst
  have hpres := State.mem_marched_of_preserving (s := s) hn hlost
  have hdest := fun h k hk => State.mem_marched_of_destroying (s := s) (n := n) (k := k) lost h hk
  have hmerge := fun h x hx => State.mem_merge_marched (s := s) (n := n) (x := x) lost h hx
  generalize s.marched n lost = u at *
  generalize u.marchEnded n fails = t at *
  have hmem : t.mem = u.mem := by rw [hframe]
  have hrows : t.flash.badRows = (s.flash.badRows ++ fails.map (fun w => (n, w / 4096, w % 4096))).dedup := by rw [hframe, hmarched]
  refine ⟨t, hexec, hresult, hcount, hplace, fun hnil => ?_, ⟨l, ?_, hlen, hzero, hall⟩, fun w hw => ?_, fun e he => ?_, ?_, ?_, ?_, ?_⟩
  · obtain ⟨hbank, hrow⟩ := hnone hnil
    exact ⟨hbank.trans (hregs.fld (State.rSlcEcc_ne_rSlcMarch n) _ _), hrow.trans (hregs.fld (State.rSlcEcc_ne_rSlcMarch n) _ _)⟩
  · have hsecond : u.eventSecond = s.eventSecond :=
      State.eventSecond_of (by rw [hmarched]) (by rw [hmarched]) (hregs.fld (State.rPtpStat_ne_slice hn).2 _ _)
    have hadded : t.events = u.events ++ u.failEvents n fails := by rw [hframe]
    rw [hadded, hevents, State.failEvents, hsecond]
  · rw [hrows, List.mem_dedup]
    exact List.mem_append_right _ (List.mem_map_of_mem hw)
  · rw [hrows, List.mem_dedup]
    exact List.mem_append_left _ he
  · rw [hmem]
    exact hpres
  · rw [hmem]
    exact hdest
  · rw [hframe, hmarched]
  · have htm : t.merge = u.merge := by rw [hframe]
    rw [htm]
    exact hmerge

end

/-- Settles O19: a request is served from the merge or from its bank, a scrub reads a row bank by bank, a march is read off its stages. -/
theorem slicesServe : Obligations.SlicesServe := by
  unfold Obligations.SlicesServe
  refine ⟨fun s => ⟨fun id ce ue r hwf hw ha _ => ⟨fun hturn => ?_, exec_sliceRead_of_merge hwf hw ha, sliceRead_of_bank hwf hw ha⟩,
    fun id r hw hturn => ?_, fun id r hw hturn ha _ => sliceWrite_of_turn hw hturn ha, fun n ce ue hwf => sliceScrub_of_wf s hwf⟩,
    fun s n fails lost hwf hst => marchComplete_of_running hwf hst⟩
  · exact (exec_sliceRead_of_waits hwf hw).trans (congrArg _ (if_pos (by simp [hturn])))
  · exact (exec_sliceWrite_of_waits hw).trans (congrArg _ (if_pos (by simp [hturn])))

end Sys2Proof.Machine
end

section
/-! SUPPORT. Rounds of potluck words: what a contribution, a granted word and an applied round leave. -/

namespace Sys2Proof.Machine

namespace State

/-! ### Contributions (R293, R297) -/

section

variable (s : State) (p c : Nat) (r : FabReq) (o : Op)

/-- What a contribution brings to the round of one of its words. -/
def contribOf (a : Nat) : Contrib :=
  ⟨c, r.id, o.id, (BitVec.ofNat 32 (ofLe (((r.data.drop (a - r.addr)).take 4).map (·.1))), ((r.data.drop (a - r.addr)).take 4).any (·.2)), o.st, o.pc⟩

/-- A word's round, once the contribution has joined it. -/
def joined (a : Nat) : PotWord :=
  { Tab.get s.pot ⟨p, s.potSet p a, []⟩ a with contribs := (Tab.get s.pot ⟨p, s.potSet p a, []⟩ a).contribs ++ [contribOf c r o a] }

theorem contribute_eq (a : Nat) : s.contribute p c r o a = { s with pot := Tab.put s.pot a (s.joined p c r o a) } := rfl

/-- A contribution joins the round of each of its words, and no other. -/
theorem foldl_contribute (l : List Nat) :
    let t := l.foldl (fun s a => s.contribute p c r o a) s
    t = { s with pot := t.pot } ∧ (∀ a ∉ l, Tab.find t.pot a = Tab.find s.pot a) ∧ (l.Nodup → ∀ a ∈ l, Tab.find t.pot a = some (s.joined p c r o a)) := by
  induction l generalizing s with
  | nil => simp
  | cons b l ih =>
    obtain ⟨hframe, hout, hin⟩ := ih (s.contribute p c r o b)
    rw [List.foldl_cons]
    generalize l.foldl (fun s a => s.contribute p c r o a) (s.contribute p c r o b) = t at *
    rw [contribute_eq] at hframe hout hin
    refine ⟨hframe, fun a ha => ?_, fun hnodup a ha => ?_⟩
    · obtain ⟨hab, hal⟩ := not_or.1 (mt List.mem_cons.2 ha)
      rw [hout a hal, Tab.find_put_ne _ _ hab]
    · obtain ⟨hb, hl⟩ := List.nodup_cons.1 hnodup
      obtain rfl | hal := List.mem_cons.1 ha
      · rw [hout a hb, Tab.find_put_self]
      · have hab : a ≠ b := fun h => hb (h ▸ hal)
        rw [hin hl a hal]
        simp only [joined, Tab.get, Tab.find_put_ne _ _ hab]
        rfl

end

/-- The grant of a word of the scratchpad to a contribution. -/
def potGranted (s : State) (r : FabReq) : State := if r.addr < hamperDpa then s.sliceGrant r 0 else s

/-- The grant changes registers, and what its point notes. -/
theorem RegsOnly.frame_granted {s t : State} {point burst master : Nat} {deficit : Tab Nat} (h : (s.granted point burst master deficit).RegsOnly t) :
    t = { s with regs := t.regs, grants := t.grants, turns := t.turns, deficit := t.deficit } := by
  rw [h]
  rfl

theorem potGranted_leaves (s : State) (r : FabReq) :
    s.potGranted r = { s with regs := (s.potGranted r).regs, grants := (s.potGranted r).grants, turns := (s.potGranted r).turns, deficit := (s.potGranted r).deficit } ∧
      s.sameRegsBut (s.potGranted r) fabReg := by
  unfold potGranted
  split
  · obtain ⟨deficit, honly, hregs⟩ := s.sliceGrant_leaves r 0
    exact ⟨honly.frame_granted, fun a ha => hregs a ha⟩
  · exact ⟨rfl, .refl s _⟩

theorem countPot_regsOnly (s : State) (a : Nat) : s.RegsOnly (s.countPot a) :=
  .ite (.refl s) (.maxFld (.setFld (.refl s) _ _ _ _) _ _ _ _)

end State

end Sys2Proof.Machine
end

section
/-! Chapter 8 of the manual: potluck rounds. -/

namespace Sys2Proof.Machine

/-! ### POTLUCK_CONTRIBUTION (R293, R297) -/

section

variable {s : State} {id : Nat} {r : FabReq}

/-- A contribution that has reached its destination, at a slice where the arbiter picks it. -/
structure PotArrived (s : State) (id : Nat) (r : FabReq) : Prop where
  req : s.fabReq id = some r
  kind : r.kind = .pot
  unserved : r.served = false
  route : s.route (coreDie r.core) (s.dieOf r.core r.addr) = true
  turn : r.addr < hamperDpa → s.sliceTurn r = true

theorem PotArrived.passes (h : PotArrived s id r) :
    ¬ (r.kind ≠ .pot ∨ r.served ∨ !s.route (coreDie r.core) (s.dieOf r.core r.addr) ∨ (r.addr < hamperDpa ∧ !s.sliceTurn r)) := by
  simpa [h.kind, h.unserved, h.route] using h.turn

theorem exec_potluckContribution_of_live (h : PotArrived s id r) {c p : Nat} {o : Op} (hc : (s.potGranted r).logicalOf r.core = some c)
    (ho : ((s.potGranted r).core r.core).op r.op = some o) (hp : (s.potGranted r).partOf c = some p) :
    exec (.potluckContribution id) s =
      .next ((r.left.foldl (fun s a => s.contribute p c r o a) ((s.potGranted r).setReq { r with served := true })).countPot r.addr) := by
  show execPotluckContribution id s = _
  rw [execPotluckContribution, guardWf_of_wf (rfl : Instr.wf (.potluckContribution id) = true), h.req]
  simp only [if_neg h.passes, ← State.potGranted.eq_1, hc, ho, hp]

/-- A contribution of a core that runs no program any more is discarded (R297). -/
theorem exec_potluckContribution_of_ended (h : PotArrived s id r) (hc : s.logicalOf r.core = none) :
    exec (.potluckContribution id) s = .next ((s.potGranted r).setReq { r with served := true, left := [] }) := by
  have hcg : (s.potGranted r).logicalOf r.core = none := (State.logicalOf_of_fabReg (s.potGranted_leaves r).2 _).trans hc
  show execPotluckContribution id s = _
  rw [execPotluckContribution, guardWf_of_wf (rfl : Instr.wf (.potluckContribution id) = true), h.req]
  simp only [if_neg h.passes, ← State.potGranted.eq_1, hcg]

/-- A contribution of a live program joins the rounds of its words, and is served. -/
theorem potluckContribution_of_live (h : PotArrived s id r) {c p : Nat} {o : Op}
    (hc : s.logicalOf r.core = some c) (ho : (s.core r.core).op r.op = some o) (hp : s.partOf c = some p) :
    ∃ t : State, exec (.potluckContribution id) s = .next t ∧ t.fabReq id = some { r with served := true } ∧
      (r.left.Nodup → ∀ a ∈ r.left, Tab.find t.pot a = some (s.joined p c r o a)) ∧
      (∀ a, a ∉ r.left → Tab.find t.pot a = Tab.find s.pot a) ∧
      t = { s with fab := t.fab, pot := t.pot, regs := t.regs, grants := t.grants, turns := t.turns, deficit := t.deficit } := by
  obtain ⟨hframe, hregs⟩ := s.potGranted_leaves r
  have hexec := exec_potluckContribution_of_live h (c := c) (p := p) (o := o)
  generalize s.potGranted r = u at hframe hregs hexec
  replace hexec := hexec ((State.logicalOf_of_fabReg hregs _).trans hc) (by rw [hframe]; exact ho) (by rw [hframe]; exact hp)
  have hru : u.fabReq id = some r := (State.fabReq_of_fab (by rw [hframe]) id).trans h.req
  have hjoined : ∀ a, (u.setReq { r with served := true }).joined p c r o a = s.joined p c r o a := fun a => by rw [hframe]; rfl
  have hpot : (u.setReq { r with served := true }).pot = s.pot := by rw [hframe]; rfl
  have hset := State.fabReq_setReq (r' := { r with served := true }) hru rfl
  have hsetOnly : u.setReq { r with served := true } = { u with fab := (u.setReq { r with served := true }).fab } := rfl
  generalize u.setReq { r with served := true } = v at *
  obtain ⟨hadded, hout, hin⟩ := v.foldl_contribute p c r o r.left
  generalize r.left.foldl (fun s a => s.contribute p c r o a) v = w at *
  have hcount := w.countPot_regsOnly r.addr
  generalize w.countPot r.addr = t at *
  have htpot : t.pot = w.pot := by rw [hcount]
  refine ⟨t, hexec, ?_, fun hnodup a ha => ?_, fun a ha => ?_, ?_⟩
  · rw [← hset]
    exact State.fabReq_of_fab (by rw [hcount, hadded]) id
  · rw [htpot, hin hnodup a ha, hjoined]
  · rw [htpot, hout a ha, hpot]
  · rw [hcount, hadded, hsetOnly, hframe]

end

/-! ### The round's application (R293 to R298) -/

section

variable {s : State} {a : Nat} {w : PotWord}

/-- A round that still waits for a member is not applied. -/
theorem exec_potluckRoundApply_of_waiting (hw : Tab.find s.pot a = some w) (hxs : w.members.mapM (s.nextContrib a w) = none) :
    exec (.potluckRoundApply a .good) s = .next s := by
  show execPotluckRoundApply a .good s = _
  rw [execPotluckRoundApply, guardWf_of_wf (rfl : Instr.wf (.potluckRoundApply a .good) = true), hw]
  simp only [hxs]

theorem exec_potluckRoundApply {x : Contrib} {l : List Contrib} (hw : Tab.find s.pot a = some w)
    (hxs : w.members.mapM (s.nextContrib a w) = some (x :: l)) (ha : a < hamperDpa) :
    exec (.potluckRoundApply a .good) s = .next ((s.roundRead ((w.members.head?).getD 0) a .good).applyRound a w (x :: l)) := by
  show execPotluckRoundApply a .good s = _
  rw [execPotluckRoundApply, guardWf_of_wf (rfl : Instr.wf (.potluckRoundApply a .good) = true), hw]
  simp only [hxs]
  rw [s.chanAt_of_scratchpad ha]
  simp

namespace State

/-- The read for a round takes the word's bank, for the old value and the new. -/
theorem roundRead_banksOnly (s : State) (m : Nat) (ha : a < hamperDpa) : s.BanksOnly (s.roundRead m a .good) := by
  rw [roundRead, s.chanAt_of_scratchpad ha]
  have hs : s.BanksOnly s := rfl
  exact (hs.bankAccess m a).bankAccess m a

/-- The word that an applied round leaves, and its mark. -/
def roundWord (s : State) (a : Nat) (xs : List Contrib) : PWord :=
  ((add32 (s.mem.word32 a) (treeSum 8 (xs.map (fun x => (x.val.1, 0)))).1).1, xs.any (fun x => x.val.2) || (s.mem.readB a 4).any (·.2))

/-- The contributions of a round leave their word, and their requests wait for it no more. -/
def roundTaken (s : State) (a : Nat) (w : PotWord) (ids : List Nat) : State :=
  let rest := w.contribs.filter (fun x => !ids.contains x.req)
  { s with
    pot := if rest.isEmpty then Tab.del s.pot a else Tab.put s.pot a { w with contribs := rest }
    fab := s.fab.map (fun (r : FabReq) => if ids.contains r.id then { r with left := r.left.erase a } else r) }

theorem roundTaken_mem (s : State) (w : PotWord) (ids : List Nat) : (s.roundTaken a w ids).mem = s.mem := rfl

/-- What stays of a word's round is of other requests. -/
theorem mem_roundTaken (s : State) {w : PotWord} {ids : List Nat} {y : Contrib}
    (hy : y ∈ (Tab.get (s.roundTaken a w ids).pot w a).contribs) (hp : Tab.find (s.roundTaken a w ids).pot a ≠ none) : y ∈ w.contribs ∧ y.req ∉ ids := by
  simp only [roundTaken] at hy hp
  split at hy
  · rename_i hnil
    rw [if_pos hnil, Tab.find_del_self] at hp
    exact absurd rfl hp
  · rw [Tab.get_put_self] at hy
    simpa using hy

/-- The word stored, its merge window closed, and the flags and poison of the round noted. -/
def roundStored (s : State) (a : Nat) (w : PotWord) (xs : List Contrib) : State :=
  let fl := ((treeSum 8 (xs.map (fun x => (x.val.1, 0)))).2 ||| (add32 (s.mem.word32 a) (treeSum 8 (xs.map (fun x => (x.val.1, 0)))).1).2) &&& (Fl.nanGen ||| Fl.ovf)
  let s' := (s.storeWord a (pbytes [s.roundWord a xs])).closeMerge a
  let s' := match (w.members.head?).bind s'.phys with
    | some k => s'.raise k fl
    | none => s'
  if (s.roundWord a xs).2 then s'.potPoison w.part xs else s'

theorem applyRound_of_scratchpad (s : State) (w : PotWord) (xs : List Contrib) (ha : a < hamperDpa) :
    s.applyRound a w xs = ((s.roundStored a w xs).roundTaken a w (xs.map Contrib.req)).countPot a := by
  have hstack : ¬ stackDpa ≤ a := by unfold hamperDpa stackDpa at *; omega
  have hnew : pbytes [s.roundWord a xs] = (toLe 4 (s.roundWord a xs).1.toNat).map (fun b => ((b, (s.roundWord a xs).2) : PByte)) := List.append_nil _
  simp only [applyRound, roundStored, hnew]
  rw [s.loadWord_of_scratchpad ha, if_neg hstack]
  rfl

/-- Flags and poisoned stores of a round change registers and cores alone. -/
theorem potPoison_coresOnly {s t : State} (h : s.CoresOnly t) (p : Nat) (xs : List Contrib) : s.CoresOnly (t.potPoison p xs) := by
  unfold potPoison
  split
  · exact h.poisonStore _ _ _ _ _
  · exact h

theorem raise_coresOnly {s t : State} (h : s.CoresOnly t) (k : Nat) (f : Fl) : s.CoresOnly (t.raise k f) := .ite h (h.setFld _ _ _ _)

theorem roundStored_coresOnly (s : State) (w : PotWord) (xs : List Contrib) :
    ((s.storeWord a (pbytes [s.roundWord a xs])).closeMerge a).CoresOnly (s.roundStored a w xs) := by
  simp only [roundStored]
  generalize (s.storeWord a (pbytes [s.roundWord a xs])).closeMerge a = u
  split
  · split
    · exact potPoison_coresOnly (raise_coresOnly (.refl u) _ _) _ _
    · exact potPoison_coresOnly (.refl u) _ _
  · split
    · exact raise_coresOnly (.refl u) _ _
    · exact .refl u

/-- An applied round stores its word in memory, and takes its contributions away. -/
theorem applyRound_leaves (s : State) (w : PotWord) (xs : List Contrib) (ha : a < hamperDpa) :
    (s.applyRound a w xs).mem = s.mem.writeB a (pbytes [s.roundWord a xs]) ∧
      (s.applyRound a w xs).pot = (s.roundTaken a w (xs.map Contrib.req)).pot := by
  have hstored := s.roundStored_coresOnly (a := a) w xs
  rw [applyRound_of_scratchpad s w xs ha, storeWord_of_scratchpad s _ ha] at *
  generalize pbytes [s.roundWord a xs] = bs at *
  generalize s.roundStored a w xs = u at *
  have hcount := (u.roundTaken a w (xs.map Contrib.req)).countPot_regsOnly a
  generalize (u.roundTaken a w (xs.map Contrib.req)).countPot a = t at *
  constructor
  · rw [hcount.mem, roundTaken_mem, hstored.mem]
    rfl
  · have hpot : u.pot = s.pot := by rw [hstored]; rfl
    rw [hcount]
    simp only [roundTaken, hpot]

/-! ### The word and its mark (R280) -/

end State

/-- A stored word is read back. -/
theorem Memory.word32_writeB_pbytes (m : Memory) (a : Nat) (x : PWord) : (m.writeB a (pbytes [x])).word32 a = x.1 := by
  refine Memory.word32_of_pbytes (i := 0) (ws := [x]) rfl fun n b _ _ hb => ?_
  obtain ⟨hn, rfl⟩ := List.getElem?_eq_some_iff.1 hb
  exact m.byte_writeB_inside a _ hn

theorem Memory.any_bad_readB_of_aligned (m : Memory) {a : Nat} (h4 : a % 4 = 0) : (m.readB a 4).any (·.2) = m.bad a := by
  have h := m.any_bad_readB (a := a / 64 * 64) (a % 64 / 4) (Nat.mul_mod_left _ _)
  rwa [show a / 64 * 64 + 4 * (a % 64 / 4) = a by omega] at h

/-- A word of the scratchpad carries its mark into its group, which is wider. -/
theorem Memory.bad_writeB_word (m : Memory) {a : Nat} (h : a + 4 ≤ hamperDpa) (h4 : a % 4 = 0) (x : PWord) :
    (m.writeB a (pbytes [x])).bad a = true ↔ m.bad a = true ∨ x.2 = true := by
  have hlen : (pbytes [x]).length = 4 := length_pbytes [x]
  have hg : groupOf a = a / 8 * 8 := groupOf_of_scratchpad (by omega)
  have hs : groupSize a = 8 := by
    obtain ⟨hs, -⟩ | ⟨-, hk⟩ := groupSize_cases a
    · exact hs
    · unfold hamperDpa at h
      omega
  have hstack : a + (pbytes [x]).length ≤ stackDpa := by unfold hamperDpa stackDpa at *; omega
  rw [m.bad_writeB_of_part (.inl hstack) (by omega) (by omega) (by omega)]
  refine or_congr_right ⟨?_, fun hx => ?_⟩
  · rintro ⟨i, b, hb, hmark, -⟩
    have hmem := List.mem_of_getElem? hb
    simp only [pbytes, List.flatMap_cons, List.flatMap_nil, List.append_nil, List.mem_map] at hmem
    obtain ⟨v, -, rfl⟩ := hmem
    exact hmark
  · refine ⟨0, (pbytes [x])[0], List.getElem?_eq_getElem (by omega), ?_, by omega, by omega⟩
    simpa [pbytes] using hx

/-- A round that every member has contributed to is applied. -/
theorem potluckRoundApply_of_ready {x : Contrib} {xs l : List Contrib} (hw : Tab.find s.pot a = some w)
    (hxs : w.members.mapM (s.nextContrib a w) = some xs) (hl : xs = x :: l) (ha : a + 4 ≤ hamperDpa) (h4 : a % 4 = 0) :
    ∃ t : State, exec (.potluckRoundApply a .good) s = .next t ∧
      t.mem.word32 a = (add32 (s.mem.word32 a) (treeSum 8 (xs.map (fun x => (x.val.1, 0)))).1).1 ∧ s.sameMemBut t a 4 ∧
      (t.mem.bad a = true ↔ s.mem.bad a = true ∨ ∃ x ∈ xs, x.val.2 = true) ∧
      (∀ y, y ∈ (Tab.get t.pot w a).contribs → Tab.find t.pot a ≠ none → y ∈ w.contribs ∧ ∀ x ∈ xs, y.req ≠ x.req) := by
  have ha' : a < hamperDpa := by omega
  have hread := s.roundRead_banksOnly ((w.members.head?).getD 0) ha'
  have hexec := exec_potluckRoundApply hw (hl ▸ hxs) ha'
  rw [← hl] at hexec
  generalize s.roundRead ((w.members.head?).getD 0) a .good = u at hread hexec
  obtain ⟨hmem, hpot⟩ := u.applyRound_leaves w xs ha'
  generalize u.applyRound a w xs = t at hexec hmem hpot
  have hword : u.roundWord a xs = s.roundWord a xs := by simp only [State.roundWord, hread.mem]
  rw [hword, hread.mem] at hmem
  refine ⟨t, hexec, ?_, State.sameMemBut_of_writeB (length_pbytes _) hmem, ?_, fun y hy hp => ?_⟩
  · rw [hmem, Memory.word32_writeB_pbytes, State.roundWord]
  · rw [hmem, Memory.bad_writeB_word _ ha h4, State.roundWord, Memory.any_bad_readB_of_aligned _ h4]
    rw [Bool.or_eq_true, List.any_eq_true, or_comm (a := ∃ _, _), or_self_left]
  · rw [hpot] at hy hp
    obtain ⟨hyw, hreq⟩ := u.mem_roundTaken hy hp
    exact ⟨hyw, fun x hx h => hreq (h ▸ List.mem_map_of_mem hx)⟩

end

/-- Settles O20: a contribution joins round by round, a round is applied where each member has one to give. -/
theorem potluckRounds : Obligations.PotluckRounds := by
  intro s
  refine ⟨fun id r c o p hr hkind hserved hroute hturn hc ho hp => ?_, fun id r hr hkind hserved hroute hturn => exec_potluckContribution_of_ended ⟨hr, hkind, hserved, hroute, hturn⟩,
    fun a w _ => exec_potluckRoundApply_of_waiting, fun a w xs x l hw hxs hl ha h4 => ?_⟩
  · obtain ⟨t, hexec, hreq, hin, hout, hframe⟩ := potluckContribution_of_live ⟨hr, hkind, hserved, hroute, hturn⟩ hc ho hp
    exact ⟨t, hexec, hreq, fun a ha hnodup => ⟨_, _, hin hnodup a ha, rfl, rfl, rfl, rfl⟩, hout, hframe⟩
  · obtain ⟨t, hexec, hword, h⟩ := potluckRoundApply_of_ready hw hxs hl ha h4
    refine ⟨t, hexec, hword.trans ?_, h⟩
    rw [s.readMem_of_scratchpad (by omega)]
    rfl

end Sys2Proof.Machine
end

section
/-! SUPPORT. The two registers of a bridge link, and the state of its ends. -/

namespace Sys2Proof.Machine

/-! ### An update made to each register of a list -/

/-- An update of one register, from what stood there. -/
structure OneReg (f : State → Nat → State) : Prop where
  only : ∀ (s : State) a, s.RegsOnly (f s a)
  other : ∀ (s : State) a b, b ≠ a → (f s a).reg b = s.reg b
  self : ∀ s t a, s.reg a = t.reg a → (f s a).reg a = (f t a).reg a

theorem oneReg_setFld (hi lo v : Nat) : OneReg (fun s a => s.setFld a hi lo v) where
  only s _ := .setFld (.refl s) _ _ _ _
  other s _ _ h := s.reg_setFld_ne _ _ _ h
  self s t a h := by simp only [State.setFld, State.reg_setReg_self, h]

theorem oneReg_addFld (hi lo n : Nat) : OneReg (fun s a => s.addFld a hi lo n) where
  only s _ := .addFld (.refl s) _ _ _ _
  other s _ _ h := s.reg_addFld_ne _ _ _ h
  self s t a h := by simp only [State.addFld, State.setFld, State.fld, State.reg_setReg_self, h]

namespace OneReg

variable {f : State → Nat → State} (hf : OneReg f)

include hf

theorem foldl_only (l : List Nat) (s : State) : s.RegsOnly (l.foldl f s) := .foldl (.refl s) (fun a h => h.trans (hf.only _ a)) l

theorem foldl_regs (l : List Nat) (s : State) : s.sameRegsBut (l.foldl f s) (· ∈ l) :=
  State.sameRegsBut.foldl (.refl s _) fun a ha _ h => h.trans fun b hb => hf.other _ a b fun e => hb (e ▸ ha)

/-- Each register of the list takes its update once. -/
theorem fld_foldl {l : List Nat} (hl : l.Nodup) (s : State) {a : Nat} (ha : a ∈ l) (hi lo : Nat) : (l.foldl f s).fld a hi lo = (f s a).fld a hi lo := by
  simp only [State.fld]
  congr 1
  induction l generalizing s with
  | nil => simp at ha
  | cons b l ih =>
    obtain ⟨hb, hl⟩ := List.nodup_cons.1 hl
    rw [List.foldl_cons]
    obtain rfl | hal := List.mem_cons.1 ha
    · exact hf.foldl_regs l _ _ hb
    · rw [ih hl (f s b) hal]
      exact hf.self _ _ _ (hf.other s b a fun h => hb (h ▸ hal))

end OneReg

theorem State.RegsOnly.events {s t : State} (h : s.RegsOnly t) : t.events = s.events := by rw [h]

theorem State.RegsOnly.links {s t : State} (h : s.RegsOnly t) : t.links = s.links := by rw [h]

/-! ### The registers of a link (R290, R291) -/

theorem farEnd_ne {d n : Nat} (hd : d < 4) (hn : n < 4) : farEnd d n ≠ 4 * d + n := by
  unfold farEnd
  split
  · omega
  · dsimp only
    split <;> split <;> omega

theorem nodup_linkRegs : ∀ d < 4, ∀ n < 4, (linkRegs d n).Nodup := by decide

/-- The lock of cluster time is in no register of a link. -/
theorem rPtpStat_not_mem_linkRegs : ∀ d < 4, ∀ n < 4, rPtpStat ∉ linkRegs d n := by decide

/-! ### The ends of a link -/

namespace State

variable {s t : State}

@[simp] theorem link_updLink_self (s : State) (e : Nat) (f : Link → Link) : (s.updLink e f).link e = f (s.link e) := Tab.get_put_self ..

theorem link_updLink_ne (s : State) {e e' : Nat} (f : Link → Link) (h : e' ≠ e) : (s.updLink e f).link e' = s.link e' := Tab.get_put_ne _ _ _ h

theorem link_of_links (h : t.links = s.links) (e : Nat) : t.link e = s.link e := by simp only [State.link, h]

theorem link_updLink_id (s : State) (e e' : Nat) : (s.updLink e id).link e' = s.link e' := by
  obtain rfl | h := eq_or_ne e' e
  · exact s.link_updLink_self e' id
  · exact s.link_updLink_ne id h

/-- Updates of an end that agree on it. -/
theorem updLink_congr (s : State) (e : Nat) {f g : Link → Link} (h : f (s.link e) = g (s.link e)) : s.updLink e f = s.updLink e g := by
  simp only [State.updLink, h]

end State

/-- Delivering takes blocks out of the receiving end alone. -/
theorem Link.deliver_only (n : Nat) (l : Link) : ∃ held recvSeq, l.deliver n = { l with held := held, recvSeq := recvSeq } := by
  induction n generalizing l with
  | zero => exact ⟨_, _, rfl⟩
  | succ n ih =>
    unfold Link.deliver
    split
    · obtain ⟨held, recvSeq, h⟩ := ih { l with held := l.held.erase l.recvSeq, recvSeq := (l.recvSeq + 1) % 2 ^ 32 }
      exact ⟨held, recvSeq, h⟩
    · exact ⟨_, _, rfl⟩

theorem Link.replay_deliver (n : Nat) (l : Link) : (l.deliver n).replay = l.replay := by
  obtain ⟨held, recvSeq, h⟩ := l.deliver_only n
  rw [h]

/-- The next block, held alone, is delivered (R290). -/
theorem Link.deliver_of_next (n : Nat) {l : Link} (h : l.held = [l.recvSeq]) :
    l.deliver (n + 2) = { l with held := [], recvSeq := (l.recvSeq + 1) % 2 ^ 32 } := by
  rw [Link.deliver, h, if_pos (by simp), List.erase_cons_head, Link.deliver, if_neg (by simp)]

/-- An end notes a retraining: the failures of its blocks are forgotten, and the retrainings of the last second kept (R291). -/
def Link.retrained (now : Nat) (l : Link) : Link := { l with fails := [], retrains := (now :: l.retrains).filter (fun t => decide (now < t + 1000000000)) }

theorem Link.mem_retrains_retrained (now : Nat) (l : Link) : now ∈ (l.retrained now).retrains := by simp [Link.retrained]

/-- An end takes in the blocks that its other end resends (R291). -/
def Link.takeIn (l : List Nat) (x : Link) : Link :=
  Link.deliver 64 { x with held := l.foldl (fun h q => if (q + 2 ^ 32 - x.recvSeq) % 2 ^ 32 < 64 then insertNat q h else h) x.held }

theorem Link.replay_takeIn (l : List Nat) (x : Link) : (x.takeIn l).replay = x.replay := Link.replay_deliver _ _

theorem Link.recvSeq_takeIn_of_next {x : Link} (h : x.held = []) : (x.takeIn [x.recvSeq]).recvSeq = (x.recvSeq + 1) % 2 ^ 32 := by
  have hq : (x.recvSeq + 2 ^ 32 - x.recvSeq) % 2 ^ 32 = 0 := by rw [Nat.add_sub_cancel_left, Nat.mod_self]
  have hheld : [x.recvSeq].foldl (fun h q => if (q + 2 ^ 32 - x.recvSeq) % 2 ^ 32 < 64 then insertNat q h else h) x.held = [x.recvSeq] := by
    rw [List.foldl_cons, List.foldl_nil, if_pos (by omega), h]
    rfl
  rw [Link.takeIn, hheld]
  exact congrArg Link.recvSeq (Link.deliver_of_next 62 rfl)

/-! ### A retraining, and the way round a link that is down (R291) -/

theorem retrainLink_eq (s : State) (d n : Nat) : s.retrainLink d n =
    (State.updLink ((linkRegs d n).foldl (fun s a => s.addFld a 47 32 1) (s.setLink d n 1)) (4 * d + n)
      (Link.retrained ((linkRegs d n).foldl (fun s a => s.addFld a 47 32 1) (s.setLink d n 1)).now)).unitEvent (unitLink d n) evCe 0 := rfl

theorem detour_eq (s : State) (d n e f : Nat) : s.detour d n e f =
    (((linkRegs d n).foldl (fun t a => t.addFld a 31 0 (s.link e).replay.length) s).updLink e (fun x => { x with replay := [] })).updLink f
      (Link.takeIn (s.link e).replay) := rfl

/-- `t` is `s` but for registers and links. -/
def State.LinksOnly (s t : State) : Prop := t = { s with regs := t.regs, links := t.links }

theorem State.LinksOnly.of_regsOnly {s t : State} (h : s.RegsOnly t) (e e' : Nat) (f f' : Link → Link) : s.LinksOnly ((t.updLink e f).updLink e' f') := by
  rw [h]
  rfl

theorem State.LinksOnly.trans {s t u : State} (h : s.LinksOnly t) (g : t.LinksOnly u) : s.LinksOnly u := by
  rw [h] at g
  exact g

theorem State.LinksOnly.regsOnly {s t u : State} (h : s.LinksOnly t) (g : t.RegsOnly u) : s.LinksOnly u := by
  rw [h] at g
  rw [g]
  rfl

theorem State.LinksOnly.events {s t : State} (h : s.LinksOnly t) : t.events = s.events := by rw [h]

theorem State.LinksOnly.frame_unitEvent {s t u : State} {unit k x : Nat} (h : s.LinksOnly t) (hu : u = t.unitEvent unit k x) :
    u = { s with regs := u.regs, links := u.links, events := u.events } := by
  rw [hu, h]
  rfl

end Sys2Proof.Machine
end

section
/-! Chapter 8 of the manual: bridge links and router failures. -/

namespace Sys2Proof.Machine

section

variable {s : State} {d n q : Nat} (hd : d < 4) (hn : n < 4)

/-! ### BRIDGE_BLOCK_RECEIVE (R290) -/

/-- The link is up, and the block is the next one of the sender's replay buffer. -/
structure NextBlock (s : State) (d n q : Nat) : Prop where
  fits : q < 2 ^ 32
  up : s.fld (rLink d n) 63 62 = 0
  next : q = (s.link (4 * d + n)).recvSeq
  known : (s.link (farEnd d n)).replay.contains q = true

theorem NextBlock.passes (h : NextBlock s d n q) : ¬ (s.fld (rLink d n) 63 62 ≠ 0 ∨ 64 ≤ (q + 2 ^ 32 - (s.link (4 * d + n)).recvSeq) % 2 ^ 32 ∨
    (!(s.link (farEnd d n)).replay.contains q ∧ 64 ≤ (s.link (farEnd d n)).replay.length)) := by
  have hq : (q + 2 ^ 32 - (s.link (4 * d + n)).recvSeq) % 2 ^ 32 = 0 := by rw [← h.next, Nat.add_sub_cancel_left, Nat.mod_self]
  rw [hq, h.up, h.known]
  simp

include hd hn

theorem wf_bridgeBlock (hq : q < 2 ^ 32) (good : Bool) : Instr.wf (.bridgeBlockReceive d n q good) = true := by
  simp only [Instr.wf, fits, hd, hn, hq, decide_true, Bool.and_self]

/-- A good block that is the next one is delivered and acknowledged. -/
theorem exec_bridgeBlockReceive_of_good (h : NextBlock s d n q) (hheld : (s.link (4 * d + n)).held = []) :
    exec (.bridgeBlockReceive d n q true) s = .next (((s.updLink (farEnd d n) id).updLink (4 * d + n)
      (fun x => { x with held := [], recvSeq := (q + 1) % 2 ^ 32, fails := Tab.del x.fails q })).emit (.bridgeAck d n q)) := by
  have hid : (fun x : Link => if (s.link (farEnd d n)).replay.contains q then x else { x with replay := x.replay ++ [q], sendSeq := (q + 1) % 2 ^ 32 }) = id := by
    rw [h.known]
    rfl
  show execBridgeBlockReceive d n q true s = _
  rw [execBridgeBlockReceive, guardWf_of_wf (wf_bridgeBlock hd hn h.fits true)]
  simp only [if_neg h.passes, hid, if_true]
  rw [State.updLink_congr]
  rw [State.link_updLink_id, hheld, h.next]
  exact Link.deliver_of_next 62 rfl

theorem exec_bridgeBlockReceive_of_damaged (h : NextBlock s d n q) :
    exec (.bridgeBlockReceive d n q false) s = .next (
      let u := ((s.updLink (farEnd d n) id).updLink (4 * d + n)
        (fun x => { x with fails := Tab.put x.fails q (Tab.get (s.link (4 * d + n)).fails 0 q + 1) })).emit (.bridgeNack d n q)
      if 3 ≤ Tab.get (s.link (4 * d + n)).fails 0 q then u.retrainLink d n else u) := by
  have hid : (fun x : Link => if (s.link (farEnd d n)).replay.contains q then x else { x with replay := x.replay ++ [q], sendSeq := (q + 1) % 2 ^ 32 }) = id := by
    rw [h.known]
    rfl
  show execBridgeBlockReceive d n q false s = _
  rw [execBridgeBlockReceive, guardWf_of_wf (wf_bridgeBlock hd hn h.fits false)]
  simp only [if_neg h.passes, hid, Bool.false_eq_true, if_false]
  exact congrArg _ (if_congr (Nat.succ_le_succ_iff (a := 3)) rfl rfl)

end

section

variable {d n : Nat} (hd : d < 4) (hn : n < 4) (s : State)

include hd hn

/-- The link shows a state at both its registers, and the time of an event is read past them. -/
theorem fld_setLink (st : Nat) {a : Nat} (ha : a ∈ linkRegs d n) : (s.setLink d n st).fld a 63 62 = st % 4 := by
  rw [State.setLink, (oneReg_setFld 63 62 st).fld_foldl (nodup_linkRegs d hd n hn) s ha, State.fld_setFld_self _ _ _ _ _ (by omega) (by omega)]
  rfl

theorem eventSecond_of_linkRegs {t : State} (honly : s.RegsOnly t) (hregs : s.sameRegsBut t (· ∈ linkRegs d n)) : t.eventSecond = s.eventSecond :=
  State.eventSecond_of (by rw [honly]) (by rw [honly]) (hregs.fld (rPtpStat_not_mem_linkRegs d hd n hn) _ _)

/-- A link that is retrained shows it and counts it at both its registers, and reports it (R290, R313). -/
theorem retrainLink_leaves :
    (∀ a ∈ linkRegs d n, (s.retrainLink d n).fld a 63 62 = 1 ∧ (s.retrainLink d n).fld a 47 32 = min (s.fld a 47 32 + 1) 65535) ∧
      (s.retrainLink d n).events = s.events ++ [⟨unitLink d n, evCe, s.eventSecond, 0⟩] ∧
      ((s.retrainLink d n).link (4 * d + n)).fails = [] ∧ s.now ∈ ((s.retrainLink d n).link (4 * d + n)).retrains := by
  have hset := oneReg_setFld 63 62 1
  have hadd := oneReg_addFld 47 32 1
  have hnodup := nodup_linkRegs d hd n hn
  have honly : s.RegsOnly ((linkRegs d n).foldl (fun s a => s.addFld a 47 32 1) (s.setLink d n 1)) := (hset.foldl_only _ s).trans (hadd.foldl_only _ _)
  have hregs : s.sameRegsBut ((linkRegs d n).foldl (fun s a => s.addFld a 47 32 1) (s.setLink d n 1)) (· ∈ linkRegs d n) :=
    (hset.foldl_regs _ s).trans (hadd.foldl_regs _ _)
  have hfld : ∀ a ∈ linkRegs d n, ((linkRegs d n).foldl (fun s a => s.addFld a 47 32 1) (s.setLink d n 1)).fld a 63 62 = 1 ∧
      ((linkRegs d n).foldl (fun s a => s.addFld a 47 32 1) (s.setLink d n 1)).fld a 47 32 = min (s.fld a 47 32 + 1) 65535 := fun a ha => by
    rw [hadd.fld_foldl hnodup _ ha, hadd.fld_foldl hnodup _ ha, State.fld_addFld_self _ _ _ _ _ (by omega) (by omega), State.addFld,
      State.fld_setFld_ne _ _ _ _ _ _ _ (by omega) (by omega) (by omega), fld_setLink hd hn s 1 ha, State.setLink, hset.fld_foldl hnodup _ ha,
      State.fld_setFld_ne _ _ _ _ _ _ _ (by omega) (by omega) (by omega)]
    exact ⟨rfl, rfl⟩
  have hsecond := eventSecond_of_linkRegs hd hn s honly hregs
  rw [retrainLink_eq]
  generalize (linkRegs d n).foldl (fun s a => s.addFld a 47 32 1) (s.setLink d n 1) = u at *
  have hnow : u.now = s.now := by rw [honly]; rfl
  rw [hnow]
  have hlink : ∀ v : State, (v.unitEvent (unitLink d n) evCe 0).link (4 * d + n) = v.link (4 * d + n) := fun _ => rfl
  refine ⟨hfld, ?_, ?_, ?_⟩
  · rw [← hsecond]
    exact congrArg (· ++ _) honly.events
  · rw [hlink, State.link_updLink_self]
    rfl
  · rw [hlink, State.link_updLink_self]
    exact Link.mem_retrains_retrained _ _

/-! ### LINK_RETRAIN_END (R291) -/

/-- The blocks of one end's replay buffer are resent, counted, and taken in at its other end. -/
theorem detour_leaves {e f : Nat} (hef : f ≠ e) :
    let t := s.detour d n e f
    s.LinksOnly t ∧ s.sameRegsBut t (· ∈ linkRegs d n) ∧ (∀ a ∈ linkRegs d n, t.fld a 31 0 = min (s.fld a 31 0 + (s.link e).replay.length) (2 ^ 32 - 1)) ∧
      t.link e = { s.link e with replay := [] } ∧ t.link f = (s.link f).takeIn (s.link e).replay := by
  have hadd := oneReg_addFld 31 0 (s.link e).replay.length
  have honly := hadd.foldl_only (linkRegs d n) s
  have hregs := hadd.foldl_regs (linkRegs d n) s
  have hfld : ∀ a ∈ linkRegs d n, ((linkRegs d n).foldl (fun t a => t.addFld a 31 0 (s.link e).replay.length) s).fld a 31 0 =
      min (s.fld a 31 0 + (s.link e).replay.length) (2 ^ 32 - 1) := fun a ha => by
    rw [hadd.fld_foldl (nodup_linkRegs d hd n hn) s ha, State.fld_addFld_self _ _ _ _ _ (by omega) (by omega)]
  intro t
  have ht : t = _ := detour_eq s d n e f
  generalize (linkRegs d n).foldl (fun t a => t.addFld a 31 0 (s.link e).replay.length) s = u at *
  have hlink : ∀ x, u.link x = s.link x := State.link_of_links honly.links
  refine ⟨ht ▸ .of_regsOnly honly _ _ _ _, ht ▸ hregs.update rfl, ht ▸ hfld, ?_, ?_⟩
  · rw [ht, State.link_updLink_ne _ _ hef.symm, State.link_updLink_self, hlink]
  · rw [ht, State.link_updLink_self, State.link_updLink_ne _ _ hef, hlink]

/-- A link that is down shows it, and the blocks of both its ends have been resent, counted and taken in at the other (R291). -/
theorem downLink_leaves :
    let e := 4 * d + n
    let l := s.link e
    let g := s.link (farEnd d n)
    let t := s.downLink d n
    (∀ a ∈ linkRegs d n, t.fld a 63 62 = 2 ∧ t.fld a 31 0 = min (s.fld a 31 0 + l.replay.length + g.replay.length) (2 ^ 32 - 1)) ∧
      (t.link e).replay = [] ∧ (t.link (farEnd d n)).replay = [] ∧
      (l.replay = [g.recvSeq] → g.held = [] → (t.link (farEnd d n)).recvSeq = (g.recvSeq + 1) % 2 ^ 32) ∧
      t.events = s.events ++ [⟨unitLink d n, evUe, s.eventSecond, 0⟩] ∧ t = { s with regs := t.regs, links := t.links, events := t.events } := by
  have hne := farEnd_ne hd hn
  obtain ⟨honly, hregs, hfld, hle, hlf⟩ := detour_leaves hd hn s hne
  obtain ⟨honly', hregs', hfld', hlf', hle'⟩ := detour_leaves hd hn (s.detour d n (4 * d + n) (farEnd d n)) hne.symm
  intro e l g t
  have ht : t = (((s.detour d n e (farEnd d n)).detour d n (farEnd d n) e).setLink d n 2).unitEvent (unitLink d n) evUe 0 := rfl
  have hset := oneReg_setFld 63 62 2
  have hshown : ∀ v : State, v.RegsOnly (v.setLink d n 2) ∧ v.sameRegsBut (v.setLink d n 2) (· ∈ linkRegs d n) ∧
      ∀ a ∈ linkRegs d n, (v.setLink d n 2).fld a 63 62 = 2 ∧ (v.setLink d n 2).fld a 31 0 = v.fld a 31 0 := fun v =>
    ⟨hset.foldl_only _ v, hset.foldl_regs _ v, fun a ha => ⟨fld_setLink hd hn v 2 ha,
      (hset.fld_foldl (nodup_linkRegs d hd n hn) v ha _ _).trans (State.fld_setFld_ne _ _ _ _ _ _ _ (by omega) (by omega) (by omega))⟩⟩
  generalize (s.detour d n e (farEnd d n)).detour d n (farEnd d n) e = v at *
  generalize s.detour d n e (farEnd d n) = u at *
  obtain ⟨hv, hvregs, hvfld⟩ := hshown v
  generalize v.setLink d n 2 = w at *
  have hw : s.LinksOnly w := (honly.trans honly').regsOnly hv
  have hwlink : ∀ x, t.link x = v.link x := fun x => (congrArg (State.link · x) ht).trans (State.link_of_links hv.links x)
  have hwfld : ∀ a hi lo, t.fld a hi lo = w.fld a hi lo := fun a hi lo => (congrArg (State.fld · a hi lo) ht).trans (w.fld_unitEvent _ _ _ _ _ _)
  have hsecond : w.eventSecond = s.eventSecond :=
    State.eventSecond_of (by rw [hw]) (by rw [hw]) (((hregs.trans hregs').trans hvregs).fld (rPtpStat_not_mem_linkRegs d hd n hn) _ _)
  refine ⟨fun a ha => ?_, ?_, ?_, fun hl hg => ?_, ?_, ?_⟩
  · obtain ⟨hstate, hcount⟩ := hvfld a ha
    rw [hwfld, hwfld, hstate, hcount, hfld' a ha, hfld a ha, hlf, Link.replay_takeIn]
    exact ⟨rfl, (min_min_add ..).trans (by rw [Nat.add_assoc])⟩
  · rw [hwlink, hle', Link.replay_takeIn, hle]
  · rw [hwlink, hlf']
  · have hnext := Link.recvSeq_takeIn_of_next hg
    rw [← hl] at hnext
    rw [← hnext, hwlink, hlf', hlf]
  · rw [← hsecond, ht]
    exact congrArg (· ++ _) hw.events
  · exact hw.frame_unitEvent ht

end

section

variable {s : State} {d n q : Nat} (hd : d < 4) (hn : n < 4)

include hd hn

theorem exec_linkRetrainEnd (hst : s.fld (rLink d n) 63 62 = 1) (ok : Bool) : exec (.linkRetrainEnd d n ok) s = .next (
    if ok ∧ (((s.link (4 * d + n)).retrains ++ (if n = 3 then [] else (s.link (farEnd d n)).retrains)).filter
      (fun t => decide (s.now < t + 1000000000))).length < 3 then s.setLink d n 0 else s.downLink d n) := by
  have hwf : Instr.wf (.linkRetrainEnd d n ok) = true := by simp only [Instr.wf, hd, hn, decide_true, Bool.and_self]
  show execLinkRetrainEnd d n ok s = _
  rw [execLinkRetrainEnd, guardWf_of_wf hwf, if_pos hst]

/-! ### BRIDGE_NACK and BRIDGE_ACK (R290) -/

/-- A NACK of a block that is still in the replay buffer is counted at both registers of the link. -/
theorem bridgeNack_of_known (hq : q < 2 ^ 32) (h : (s.link (senderEnd d n)).replay.contains q = true) : ∃ t : State, exec (.bridgeNack d n q) s = .next t ∧
    (∀ a ∈ linkRegs d n, t.fld a 31 0 = min (s.fld a 31 0 + 1) (2 ^ 32 - 1)) ∧ s.sameRegsBut t (· ∈ linkRegs d n) ∧ t = { s with regs := t.regs } := by
  have hadd := oneReg_addFld 31 0 1
  have hwf : Instr.wf (.bridgeNack d n q) = true := by simp only [Instr.wf, fits, hd, hn, hq, decide_true, Bool.and_self]
  refine ⟨(linkRegs d n).foldl (fun s a => s.addFld a 31 0 1) s, ?_, fun a ha => ?_, hadd.foldl_regs _ s, hadd.foldl_only _ s⟩
  · show execBridgeNack d n q s = _
    rw [execBridgeNack, guardWf_of_wf hwf, if_pos h]
  · rw [hadd.fld_foldl (nodup_linkRegs d hd n hn) s ha, State.fld_addFld_self _ _ _ _ _ (by omega) (by omega)]

theorem exec_bridgeAck (hq : q < 2 ^ 32) :
    exec (.bridgeAck d n q) s = .next (s.updLink (senderEnd d n) (fun l => { l with replay := l.replay.erase q })) := by
  have hwf : Instr.wf (.bridgeAck d n q) = true := by simp only [Instr.wf, fits, hd, hn, hq, decide_true, Bool.and_self]
  show execBridgeAck d n q s = _
  rw [execBridgeAck, guardWf_of_wf hwf]

end

/-! ### ROUTER_FAILURE (R306, R307, R454) -/

section

variable {s : State} {d r : Nat}

/-- The direct faults of a failed router, and of the core that it serves, fall due. -/
def State.routerFaults (s : State) (d r : Nat) : State :=
  s.addEvents (if r < 34 then [⟨unitRouter (34 * d + r), evDirect, s.eventSecond, 0⟩, ⟨unitCore (34 * d + r), evDirect, s.eventSecond, 0⟩]
    else [⟨unitRouter (136 + 4 * d + (r - 34)), evDirect, s.eventSecond, 0⟩])

theorem routerFaults_eq (s : State) (d r : Nat) :
    (if r < 34 then (s.unitEvent (unitRouter (34 * d + r)) evDirect 0).unitEvent (unitCore (34 * d + r)) evDirect 0
      else s.unitEvent (unitRouter (136 + 4 * d + (r - 34))) evDirect 0) = s.routerFaults d r := by
  unfold State.routerFaults
  split
  · rw [State.unitEvent_eq, State.unitEvent_eq, State.addEvents_addEvents, State.eventSecond_addEvents, List.singleton_append]
  · exact State.unitEvent_eq ..

variable (hd : d < 4) (hr : r < 38)

include hd hr

theorem exec_routerFailure : exec (.routerFailure d r) s = .next (if s.fld (rRtr d) r r = 1 then s else (s.routerFaults d r).failRouter d r) := by
  have hwf : Instr.wf (.routerFailure d r) = true := by simp only [Instr.wf, hd, hr, decide_true, Bool.and_self]
  show execRouterFailure d r s = _
  rw [execRouterFailure, guardWf_of_wf hwf]
  simp only [routerFaults_eq]

omit hd in
/-- A router is recorded as failed at its bit. -/
theorem fld_router_setFld (s : State) (a : Nat) : (s.setFld a r r 1).fld a r r = 1 := by
  rw [State.fld_setFld_self _ _ _ _ _ (by omega) (by omega), Nat.add_sub_cancel_left]
  rfl

end

/-- Settles O21: a link's blocks and retrainings end by end, a router's failure by what `State.failRouter` does once its faults are due. -/
theorem linksAndRouters : Obligations.LinksAndRouters := by
  refine ⟨fun s d n q hd hn hq => ⟨fun hup hnext hknown => ?_, bridgeNack_of_known hd hn hq, exec_bridgeAck hd hn hq, fun hst => ?_⟩, fun s d r hd hr => ?_⟩
  · have hblock : NextBlock s d n q := ⟨hq, hup, hnext, hknown⟩
    have hdamaged := exec_bridgeBlockReceive_of_damaged hd hn hblock
    refine ⟨exec_bridgeBlockReceive_of_good hd hn hblock, fun hfails => ?_, fun hfails => ?_⟩
    · rw [hdamaged]
      exact congrArg _ (if_neg (by omega))
    · simp only [if_pos hfails] at hdamaged
      exact ⟨_, hdamaged, retrainLink_leaves hd hn _⟩
  · have hexec := exec_linkRetrainEnd hd hn hst
    refine ⟨fun hfew => ?_, fun ok hdown => ?_⟩
    · have hset := oneReg_setFld 63 62 0
      rw [hexec, if_pos ⟨rfl, hfew⟩]
      exact ⟨_, rfl, fun a => fld_setLink hd hn s 0, hset.foldl_regs _ s, hset.foldl_only _ s⟩
    · rw [hexec, if_neg fun ⟨hok, hfew⟩ => hdown.elim (ne_false_of_eq_true hok) (Nat.not_le.2 hfew)]
      exact ⟨_, rfl, downLink_leaves hd hn s⟩
  · rw [exec_routerFailure hd hr]
    refine ⟨fun h => congrArg _ (if_pos h), fun h => ⟨fld_router_setFld hr _ _, fun hlost => ?_, fun hlost => ?_⟩⟩
    · rw [if_neg (by omega)]
      exact congrArg _ (if_neg (ne_true_of_eq_false hlost))
    · rw [if_neg (by omega)]
      exact congrArg _ (if_pos hlost)

end Sys2Proof.Machine
end

section
/-! SUPPORT. Areas laid undefined, and what a maintenance operation answers. -/

namespace Sys2Proof.Machine

/-! ### A slice laid undefined (R309, R310) -/

/-- An area laid undefined reads free bytes. -/
theorem Memory.byte_lay_free (m : Memory) (a : Area) {k t : Nat} (h : a.has k = true) (ht : a.tag = some t) : (m.lay a).byte k = Config.freeByte t k := by
  have hf : Tab.find (m.lay a).cells k = none := by
    simp only [Memory.lay]
    rw [Tab.find_filter m.cells (fun j => !a.has j)]
    simp [h]
  have hb : (m.lay a).tagOf k = some t := by simp [Memory.lay, Memory.tagOf, h, ht]
  simp only [Memory.byte, hf, Memory.base, hb, Option.getD_none]

/-- The words of a slice become undefined: they read as the next free bytes. -/
def State.undefineSlice (s : State) (n : Nat) : State := ({ s with free := s.free + 1 } : State).laySlice n (some s.free)

theorem State.mem_undefineSlice (s : State) (n : Nat) {k : Nat} (hk : k < hamperDpa) :
    (sliceOf k = n → (s.undefineSlice n).mem.byte k = Config.freeByte s.free k ∧ (s.undefineSlice n).mem.bad k = false) ∧
      (sliceOf k ≠ n → (s.undefineSlice n).mem.byte k = s.mem.byte k ∧ (s.undefineSlice n).mem.bad k = s.mem.bad k) := by
  have hmem : (s.undefineSlice n).mem = s.mem.lay (sliceArea n (some s.free)) := rfl
  rw [hmem]
  refine ⟨fun hs => ⟨?_, s.mem.bad_lay_sliceArea _ hk hs⟩, s.mem.lay_sliceArea_of_ne _ hk⟩
  exact s.mem.byte_lay_free _ ((sliceArea_has _ hk).trans (decide_eq_true hs)) rfl

/-! ### Maintenance operations (R506, R554) -/

/-- A maintenance operation that the device lets through runs its handler. -/
theorem State.receive_askMaint {s : State} {p : Pkt} {r : Nat} {i : Instr} {f : Asker → State → State} (h : s.asks p r false false true)
    (hd : (s.accept p 0).deferred i = false) (hi : ∀ t : State, t.act i = t.askMaint p r true f) :
    s.receive p 0 false i = (f (asker p r) (s.asked p r)).settled p false := by
  obtain ⟨hturn, hkept, hgate⟩ := h
  rw [State.receive_of_inTurn hturn false hd, hi, State.askMaint, State.ask_of_open hkept hgate]

section

variable {s : State} {p : Pkt} {r n : Nat}

theorem exec_startMarch_of_asks {d : Bool} (hwf : Instr.wf (.startMarch p r n d) = true) (h : s.asks p r false false true) :
    exec (.startMarch p r n d) s = .next (((s.asked p r).startMarch (asker p r) n d).settled p false) := by
  show execStartMarch p r n d s = _
  rw [execStartMarch, guardWf_of_wf hwf, State.receive_askMaint h rfl fun _ => rfl]

theorem exec_stopMarch_of_asks (hwf : Instr.wf (.stopMarch p r n) = true) (h : s.asks p r false false true) :
    exec (.stopMarch p r n) s = .next (((s.asked p r).stopMarch (asker p r) n).settled p false) := by
  show execStopMarch p r n s = _
  rw [execStopMarch, guardWf_of_wf hwf, State.receive_askMaint h rfl fun _ => rfl]

theorem exec_retrainChannel_of_asks (hwf : Instr.wf (.retrainChannel p r n) = true) (h : s.asks p r false false true) :
    exec (.retrainChannel p r n) s = .next (((s.asked p r).retrainNow (asker p r) n).settled p false) := by
  show execRetrainChannel p r n s = _
  rw [execRetrainChannel, guardWf_of_wf hwf, State.receive_askMaint h rfl fun _ => rfl]

theorem exec_digestSweep_of_asks (hwf : Instr.wf (.digestSweep p r n) = true) (h : s.asks p r false false true) :
    exec (.digestSweep p r n) s = .next (((s.asked p r).startSweep (asker p r) n).settled p false) := by
  show execDigestSweep p r n s = _
  rw [execDigestSweep, guardWf_of_wf hwf, State.receive_askMaint h rfl fun _ => rfl]

end

end Sys2Proof.Machine
end

section
/-! Chapters 8, 10 and 14 of the manual: marches, retraining and sweeps on request. -/

namespace Sys2Proof.Machine

namespace State

section

variable (u : State) (a : Asker) {n : Nat}

/-! ### Start march (R308, R552) -/

theorem marchOn_iff : u.marchOn n = true ↔ u.fld (rSlcMarch n) 63 60 = 1 ∨ u.fld (rSlcMarch n) 63 60 = 2 := by
  simp only [marchOn, Bool.or_eq_true, beq_iff_eq]

/-- The start of a slice's march is noted. -/
def noteStart (u : State) (n : Nat) : State := { u with marchAt := Tab.put u.marchAt n u.clock.eclk }

/-- A march is shown as running, and its start noted. -/
def marchShown (u : State) (n st : Nat) : State := (u.setFld (rSlcMarch n) 63 60 st).noteStart n

/-- A march has started; a destructive one has left its slice undefined. -/
def marchStarted (u : State) (n : Nat) (destructive : Bool) : State :=
  (if destructive then (u.marchShown n 2).undefineSlice n else u.marchShown n 1).setArb

theorem marchStarted_preserving (u : State) (n : Nat) : u.marchStarted n false = (u.marchShown n 1).setArb := by
  simp only [marchStarted, Bool.false_eq_true, if_false]

theorem marchStarted_destroying (u : State) (n : Nat) : u.marchStarted n true = ((u.marchShown n 2).undefineSlice n).setArb := by
  simp only [marchStarted, if_true]

theorem startMarch_of_badSlice (d : Bool) (h : 512 ≤ n) : u.startMarch a n d = u.say a stBadRequest := if_pos h

theorem startMarch_of_busy {d : Bool} (hn : n < 512) (h : u.fld (rSlcMarch n) 63 60 = 1 ∨ u.fld (rSlcMarch n) 63 60 = 2 ∨ d = true ∧ u.anyLoaded = true) :
    u.startMarch a n d = u.say a stBusy := by
  have hbusy : (u.marchOn n || (d && u.anyLoaded)) = true := by
    rw [Bool.or_eq_true, marchOn_iff, Bool.and_eq_true]
    tauto
  rw [startMarch, if_neg (Nat.not_le.2 hn), if_pos hbusy]

theorem startMarch_of_idle {d : Bool} (hn : n < 512) (h1 : u.fld (rSlcMarch n) 63 60 ≠ 1) (h2 : u.fld (rSlcMarch n) 63 60 ≠ 2)
    (hd : d = true → u.anyLoaded = false) : u.startMarch a n d = (u.marchStarted n d).say a stOk := by
  have hidle : ¬ (u.marchOn n || (d && u.anyLoaded)) = true := by
    rw [Bool.or_eq_true, marchOn_iff, Bool.and_eq_true]
    rintro ((h | h) | ⟨h, hl⟩)
    · exact h1 h
    · exact h2 h
    · exact Bool.false_ne_true ((hd h).symm.trans hl)
  rw [startMarch, if_neg (Nat.not_le.2 hn), if_neg hidle]
  cases d
  · rw [marchStarted_preserving, marchShown]
    simp only [Bool.false_eq_true, if_false]
    generalize u.setFld (rSlcMarch n) 63 60 1 = v
    rfl
  · rw [marchStarted_destroying, marchShown]
    simp only [if_true]
    generalize u.setFld (rSlcMarch n) 63 60 2 = v
    rfl

theorem fld_setArb_rSlcMarch (u : State) (n hi lo : Nat) : u.setArb.fld (rSlcMarch n) hi lo = u.fld (rSlcMarch n) hi lo :=
  (setArb_regs (.refl u (· ≠ rSlcMarch n)) fun d _ => (rArbCtrl_ne_rSlcMarch d n).symm).fld (not_not_intro rfl) hi lo

theorem fld_noteStart (u : State) (n a hi lo : Nat) : (u.noteStart n).fld a hi lo = u.fld a hi lo := rfl

theorem fld_undefineSlice (u : State) (n a hi lo : Nat) : (u.undefineSlice n).fld a hi lo = u.fld a hi lo := rfl

theorem fld_marchShown (u : State) (n st : Nat) : (u.marchShown n st).fld (rSlcMarch n) 63 60 = st % 2 ^ (63 + 1 - 60) := by
  rw [marchShown, fld_noteStart, fld_setFld_self _ _ _ _ _ (by omega) (by omega)]

/-- A march that is shown changes its register, and notes its start. -/
theorem RegsOnly.frame_noteStart {u v t : State} (hv : u.RegsOnly v) (h : (v.noteStart n).RegsOnly t) :
    t = { u with regs := t.regs, marchAt := Tab.put u.marchAt n u.clock.eclk } := by
  rw [h, hv]
  rfl

theorem RegsOnly.frame_undefineSlice {u v t : State} (hv : u.RegsOnly v) (h : ((v.noteStart n).undefineSlice n).RegsOnly t) :
    t = { u with regs := t.regs, mem := t.mem, free := t.free, merge := t.merge, marchAt := Tab.put u.marchAt n u.clock.eclk } ∧
      t.mem = (u.undefineSlice n).mem := by
  rw [h, hv]
  exact ⟨rfl, rfl⟩

/-- A preserving march changes registers, and notes its start. -/
theorem marchStarted_of_preserving : (u.marchStarted n false).fld (rSlcMarch n) 63 60 = 1 ∧
    u.marchStarted n false = { u with regs := (u.marchStarted n false).regs, marchAt := Tab.put u.marchAt n u.clock.eclk } := by
  rw [marchStarted_preserving, fld_setArb_rSlcMarch, fld_marchShown]
  exact ⟨rfl, RegsOnly.frame_noteStart (.setFld (.refl u) _ _ _ _) (.setArb (.refl _))⟩

/-- A destructive march also leaves its slice undefined. -/
theorem marchStarted_of_destroying : (u.marchStarted n true).fld (rSlcMarch n) 63 60 = 2 ∧ (u.marchStarted n true).mem = (u.undefineSlice n).mem ∧
    u.marchStarted n true = { u with
      regs := (u.marchStarted n true).regs
      mem := (u.marchStarted n true).mem
      free := (u.marchStarted n true).free
      merge := (u.marchStarted n true).merge
      marchAt := Tab.put u.marchAt n u.clock.eclk } := by
  rw [marchStarted_destroying, fld_setArb_rSlcMarch, fld_undefineSlice, fld_marchShown]
  obtain ⟨hframe, hmem⟩ := RegsOnly.frame_undefineSlice (n := n) (.setFld (.refl u) (rSlcMarch n) 63 60 2) (.setArb (.refl _))
  exact ⟨rfl, hmem, hframe⟩

/-! ### Stop march (R310) -/

/-- Free words of a slice take numbers from the free counter alone. -/
def freed (u : State) (free : Nat) : State := { u with free := free }

theorem freeBelow_eq (u : State) (m : Nat) : ∃ w, u.freeBelow m = (w, u.freed (u.free + 1)) := ⟨_, rfl⟩

theorem freeWords_eq (u : State) (m : Nat) : ∃ l free, u.freeWords m = (l, u.freed free) := by
  induction m generalizing u with
  | zero => exact ⟨[], u.free, rfl⟩
  | succ m ih =>
    obtain ⟨w, hw⟩ := u.freeBelow_eq 131072
    obtain ⟨l, free, hl⟩ := ih (u.freed (u.free + 1))
    refine ⟨w :: l, free, ?_⟩
    simp only [freeWords, hw, hl]
    rfl

/-- The slice of a destructive march becomes undefined where it is stopped. -/
def marchCut (u : State) (n : Nat) : State := if u.fld (rSlcMarch n) 63 60 = 2 then u.undefineSlice n else u

theorem stopMarch_of_idle (hn : n < 512) (h1 : u.fld (rSlcMarch n) 63 60 ≠ 1) (h2 : u.fld (rSlcMarch n) 63 60 ≠ 2) : u.stopMarch a n = u.say a stOk := by
  have hoff : (!u.marchOn n) = true := by
    rw [Bool.not_eq_true', ← Bool.not_eq_true, marchOn_iff]
    omega
  rw [stopMarch, if_neg (Nat.not_le.2 hn), if_pos hoff]

/-- Words of a slice, which are free values, are recorded as failing. -/
def freeFails (u : State) (n : Nat) : State :=
  let (m, v) := u.freeBelow 131073
  let (l, w) := v.freeWords m
  (w.recordFails n l).setArb

theorem freeFails_eq (u : State) (n : Nat) : ∃ fails free, u.freeFails n = ((u.freed free).showFails n fails).resultKept n fails := by
  obtain ⟨m, hm⟩ := u.freeBelow_eq 131073
  obtain ⟨l, free, hl⟩ := (u.freed (u.free + 1)).freeWords_eq m
  refine ⟨l, free, ?_⟩
  simp only [freeFails, hm, hl, recordFails_eq]
  rfl

/-- A march that is stopped, with the failing words found so far. -/
def marchStopped (u : State) (n : Nat) : State := ((u.marchCut n).setFld (rSlcMarch n) 63 60 0).freeFails n

theorem stopMarch_of_running (hn : n < 512) (h : u.fld (rSlcMarch n) 63 60 = 1 ∨ u.fld (rSlcMarch n) 63 60 = 2) :
    u.stopMarch a n = (u.marchStopped n).say a stOk := by
  have hon : ¬ (!u.marchOn n) = true := by simpa using u.marchOn_iff.2 h
  have hcut : (if u.fld (rSlcMarch n) 63 60 = 2 then (let (t, s) := u.fresh; s.laySlice n (some t)) else u) = u.marchCut n := rfl
  rw [stopMarch, if_neg (Nat.not_le.2 hn), if_neg hon, hcut, marchStopped]
  dsimp only
  generalize (u.marchCut n).setFld (rSlcMarch n) 63 60 0 = v
  rfl

/-- What recording free failures leaves, and the state that SLC_MARCH keeps showing. -/
theorem freeFails_leaves (u : State) (n : Nat) : (u.freeFails n).fld (rSlcMarch n) 63 60 = u.fld (rSlcMarch n) 63 60 ∧
    u.freeFails n = { u with
      regs := (u.freeFails n).regs
      free := (u.freeFails n).free
      events := (u.freeFails n).events
      flash := { u.flash with badRows := (u.freeFails n).flash.badRows } } := by
  obtain ⟨fails, free, h⟩ := u.freeFails_eq n
  obtain ⟨honly, -⟩ := (u.freed free).showFails_leaves n fails
  have hkept := ((u.freed free).showFails n fails).resultKept_frame n fails
  refine ⟨by rw [h, fld_resultKept, fld_showFails_result]; rfl, ?_⟩
  rw [← h] at hkept
  generalize u.freeFails n = t at *
  generalize (u.freed free).showFails n fails = v at *
  rw [hkept, honly]
  rfl

/-- A march that is stopped: its slice is idle, and a destructive one has left it undefined. -/
theorem marchStopped_leaves : (u.marchStopped n).fld (rSlcMarch n) 63 60 = 0 ∧ (u.marchStopped n).mem = (u.marchCut n).mem ∧
    (u.marchStopped n).merge = (u.marchCut n).merge ∧
    u.marchStopped n = { u with
      regs := (u.marchStopped n).regs
      free := (u.marchStopped n).free
      events := (u.marchStopped n).events
      mem := (u.marchStopped n).mem
      merge := (u.marchStopped n).merge
      flash := { u.flash with badRows := (u.marchStopped n).flash.badRows } } := by
  have honly : (u.marchCut n).RegsOnly ((u.marchCut n).setFld (rSlcMarch n) 63 60 0) := .setFld (.refl _) _ _ _ _
  have hidle := (u.marchCut n).fld_setFld_self (rSlcMarch n) 63 60 0 (by omega) (by omega)
  have hcut : u.marchCut n = { u with mem := (u.marchCut n).mem, merge := (u.marchCut n).merge, free := (u.marchCut n).free } := by
    unfold marchCut
    split <;> rfl
  unfold marchStopped
  generalize (u.marchCut n).setFld (rSlcMarch n) 63 60 0 = v at *
  generalize u.marchCut n = w at *
  obtain ⟨hshown, hframe⟩ := v.freeFails_leaves n
  generalize v.freeFails n = t at *
  refine ⟨hshown.trans hidle, ?_, ?_, ?_⟩
  · rw [hframe, honly.mem]
  · rw [hframe, honly]
  · rw [hframe, honly, hcut]

/-! ### Retrain channel (R345, R554) -/

theorem retrainNow_of_up (hn : n < 256) (hst : u.chanState n = 2) (htest : u.channelTest n = false) (hfree : u.retraining = none) :
    u.retrainNow a n = (((((u.updChan n (fun c => { c with due := false })).setFld (rHmcStat n) 63 60 3).channelLate n 2000).setArb).settleRed).say a stOk := by
  have hok : ¬ (256 ≤ n ∨ u.chanState n ≠ 2 ∧ u.chanState n ≠ 3) := by omega
  have hidle : ¬ (u.retraining.isSome ∨ u.channelTest n) := by simp [hfree, htest]
  have hdue : (((u.updChan n (fun c => { c with due := true })).chan n).due ∧ (u.updChan n (fun c => { c with due := true })).chanState n = 2 ∧
      (u.updChan n (fun c => { c with due := true })).retraining.isNone ∧
      !(u.updChan n (fun c => { c with due := true })).runs.any (fun r => r.unit == unitChan n)) := by
    refine ⟨?_, hst, ?_, ?_⟩
    · exact congrArg Chan.due (Tab.get_put_self ..)
    · exact Option.isNone_iff_eq_none.2 hfree
    · exact congrArg Bool.not htest
  have htwice : (u.updChan n (fun c => { c with due := true })).updChan n (fun c => { c with due := false }) = u.updChan n (fun c => { c with due := false }) := by
    simp only [State.updChan, State.chan, Tab.get_put_self, Tab.put_put]
  rw [retrainNow, if_neg hok, if_neg hidle]
  simp only [execChannelRetraining, guardWf_of_wf (show Instr.wf (.channelRetraining n) = true from decide_eq_true hn), after, if_pos hdue, htwice]

theorem retrainNow_of_busy (hn : n < 256) (hst : u.chanState n = 2) (hbusy : u.retraining ≠ none) : u.retrainNow a n = u.say a stBusy := by
  have hok : ¬ (256 ≤ n ∨ u.chanState n ≠ 2 ∧ u.chanState n ≠ 3) := by omega
  rw [retrainNow, if_neg hok, if_pos (.inl (Option.isSome_iff_ne_none.2 hbusy))]

/-! ### Digest sweep (R354, R556) -/

/-- The region's accumulators, SWEEPV and DIRTY are clear. -/
def sweepCleared (u : State) (n : Nat) : State :=
  (((List.range 256).foldl (fun s q => s.setReg (rDgsacc q n) 0) u).setFld (rDgst n) 4 4 0).setFld (rDgst n) 3 3 0

/-- A region's sweep runs. -/
def sweeping (u : State) (n : Nat) : State := { u with sweeps := u.sweeps ++ [n] }

theorem startSweep_of_badRegion (h : 16 ≤ n ∨ u.fld (rDgcfg n) 63 63 = 0) : u.startSweep a n = u.say a stBadRequest := if_pos h

theorem startSweep_of_idle (hn : n < 16) (hact : u.fld (rDgcfg n) 63 63 = 1) (hs : u.sweeps.contains n = false) (ht : u.offTest = false)
    (hw : u.tgWrites = false) (hr : u.restore = none) : u.startSweep a n = ((u.sweepCleared n).sweeping n).say a stOk := by
  have hok : ¬ (16 ≤ n ∨ u.fld (rDgcfg n) 63 63 = 0) := by omega
  have hidle : ¬ (u.sweeps.contains n ∨ u.offTest ∨ u.tgWrites ∨ u.restore.any (fun r => u.boundTo n r.part)) := by
    rw [hs, ht, hw, hr]
    simp
  rw [startSweep, if_neg hok, if_neg hidle]
  rfl

/-- A register that reads zero reads zero after others have been cleared. -/
theorem reg_foldl_clear_of_zero (f : Nat → Nat) (l : List Nat) {s : State} {x : Nat} (h : s.reg x = 0) :
    (l.foldl (fun s q => s.setReg (f q) 0) s).reg x = 0 := by
  induction l generalizing s with
  | nil => exact h
  | cons b l ih =>
    refine ih ?_
    by_cases hx : x = f b
    · rw [hx, reg_setReg_self, Nat.zero_mod]
    · rw [reg_setReg_ne _ _ hx, h]

theorem reg_foldl_clear (f : Nat → Nat) {l : List Nat} (s : State) {q : Nat} (hq : q ∈ l) : (l.foldl (fun s q => s.setReg (f q) 0) s).reg (f q) = 0 := by
  induction l generalizing s with
  | nil => simp at hq
  | cons b l ih =>
    obtain rfl | hq := List.mem_cons.1 hq
    · exact reg_foldl_clear_of_zero f l (by rw [reg_setReg_self, Nat.zero_mod])
    · exact ih _ hq

theorem rDgsacc_ne_rDgst {q : Nat} (_ : q < 256) (_ : n < 16) : rDgsacc q n ≠ rDgst n := by
  unfold rDgsacc rDgst hmcB hmcGlobB
  omega

theorem sweepCleared_leaves (hn : n < 16) : u.RegsOnly (u.sweepCleared n) ∧ (∀ q < 256, (u.sweepCleared n).reg (rDgsacc q n) = 0) ∧
    (u.sweepCleared n).fld (rDgst n) 3 3 = 0 ∧ (u.sweepCleared n).fld (rDgst n) 4 4 = 0 := by
  have honly : u.RegsOnly ((List.range 256).foldl (fun s q => s.setReg (rDgsacc q n) 0) u) := .foldl (.refl u) (fun _ h => h.setReg _ _) _
  refine ⟨(honly.setFld _ _ _ _).setFld _ _ _ _, fun q hq => ?_, ?_, ?_⟩
  · rw [sweepCleared, reg_setFld_ne _ _ _ _ (rDgsacc_ne_rDgst hq hn), reg_setFld_ne _ _ _ _ (rDgsacc_ne_rDgst hq hn)]
    exact reg_foldl_clear (rDgsacc · n) u (List.mem_range.2 hq)
  · rw [sweepCleared, fld_setFld_self _ _ _ _ _ (by omega) (by omega), Nat.zero_mod]
  · rw [sweepCleared, fld_setFld_ne _ _ _ _ _ _ _ (by omega) (by omega) (by omega), fld_setFld_self _ _ _ _ _ (by omega) (by omega), Nat.zero_mod]

theorem RegsOnly.frame_sweeping {u v : State} (h : u.RegsOnly v) : (v.sweeping n).sweeps = u.sweeps ++ [n] ∧
    v.sweeping n = { u with sweeps := (v.sweeping n).sweeps, win := (v.sweeping n).win, regs := (v.sweeping n).regs } := by
  rw [h]
  exact ⟨rfl, rfl⟩

theorem reg_sweeping (u : State) (n a : Nat) : (u.sweeping n).reg a = u.reg a := rfl

theorem fld_sweeping (u : State) (n a hi lo : Nat) : (u.sweeping n).fld a hi lo = u.fld a hi lo := rfl

/-- What the start of a sweep leaves. -/
theorem sweepStarted_leaves (hn : n < 16) : ∃ t, (u.sweepCleared n).sweeping n = t ∧ t.sweeps = u.sweeps ++ [n] ∧ (∀ q < 256, t.reg (rDgsacc q n) = 0) ∧
    t.fld (rDgst n) 3 3 = 0 ∧ t.fld (rDgst n) 4 4 = 0 ∧ t = { u with sweeps := t.sweeps, win := t.win, regs := t.regs } := by
  obtain ⟨honly, hreg, hdirty, hsweepv⟩ := u.sweepCleared_leaves hn
  generalize u.sweepCleared n = v at *
  obtain ⟨hsweeps, hframe⟩ := honly.frame_sweeping (n := n)
  refine ⟨v.sweeping n, rfl, hsweeps, fun q hq => ?_, ?_, ?_, hframe⟩
  · rw [reg_sweeping, hreg q hq]
  · rw [fld_sweeping, hdirty]
  · rw [fld_sweeping, hsweepv]

end

end State

/-- Settles O44: each request by what its handler answers, and what the march, retraining or sweep that it starts leaves. -/
theorem maintenanceStarts : Obligations.MaintenanceStarts := by
  intro s p r n h u a ok no
  have hmarch := fun d (hwf : Instr.wf (.startMarch p r n d) = true) => exec_startMarch_of_asks hwf h
  have answered : ∀ {t v : State} {o : Host.Outcome State Fault Refusal}, o = .next (t.settled p false) → t = v → o = .next (v.settled p false) := by
    rintro t v o h rfl
    exact h
  refine ⟨fun d hwf => ⟨fun hn => ?_, fun hn hbusy => ?_, fun hn h1 h2 => ⟨?_, ?_⟩⟩, fun hwf hn => ⟨fun h1 h2 => ?_, fun hon => ?_⟩,
    fun hwf hn hst htest => ⟨fun hfree => ?_, fun hbusy => ?_⟩, fun hwf hn hact hs ht hw hr => ?_, fun hwf hbad => ?_⟩
  · exact answered (hmarch d hwf) (u.startMarch_of_badSlice a d hn)
  · exact answered (hmarch d hwf) (u.startMarch_of_busy a hn hbusy)
  · rintro rfl
    obtain ⟨hshown, hframe⟩ := u.marchStarted_of_preserving (n := n)
    exact ⟨_, answered (hmarch _ hwf) (u.startMarch_of_idle a hn h1 h2 nofun), hshown, hframe⟩
  · rintro rfl hloaded
    obtain ⟨hshown, hmem, hframe⟩ := u.marchStarted_of_destroying (n := n)
    refine ⟨_, answered (hmarch _ hwf) (u.startMarch_of_idle a hn h1 h2 fun _ => hloaded), hshown, fun k hk => ?_, fun k hk => ?_, hframe⟩ <;> rw [hmem]
    · exact (u.mem_undefineSlice n hk).1
    · exact (u.mem_undefineSlice n hk).2
  · exact answered (exec_stopMarch_of_asks hwf h) (u.stopMarch_of_idle a hn h1 h2)
  · obtain ⟨hidle, hmem, hmerge, hframe⟩ := u.marchStopped_leaves (n := n)
    refine ⟨_, answered (exec_stopMarch_of_asks hwf h) (u.stopMarch_of_running a hn hon), hidle, fun h1 => ?_, fun h2 k hk => ?_, hframe⟩
    · rw [hmem, hmerge, State.marchCut, if_neg (by omega)]
      exact ⟨rfl, rfl⟩
    · rw [hmem, State.marchCut, if_pos h2]
      exact u.mem_undefineSlice n hk
  · exact answered (exec_retrainChannel_of_asks hwf h) (u.retrainNow_of_up a hn hst htest hfree)
  · exact answered (exec_retrainChannel_of_asks hwf h) (u.retrainNow_of_busy a hn hst hbusy)
  · obtain ⟨t, rfl, hleaves⟩ := u.sweepStarted_leaves hn
    exact ⟨_, answered (exec_digestSweep_of_asks hwf h) (u.startSweep_of_idle a hn hact hs ht hw hr), hleaves⟩
  · exact answered (exec_digestSweep_of_asks hwf h) (u.startSweep_of_badRegion a hbad)

end Sys2Proof.Machine
end

section
/-! Chapters 8 and 15 of the manual: a die that does not come up, in a state whose epoch has no channel of the device. -/

namespace Sys2Proof.Machine

section

variable {s : State} {check fail : List Nat}

/-- A die that does not power up makes the device failed (R496). -/
theorem exec_computePowerUp_of_dieFails (hwf : Instr.wf (.computePowerUp ⟨true, check, fail⟩) = true) (hboot : s.fld rBoot 63 60 = 2) (hwake : s.canWake = true) :
    exec (.computePowerUp ⟨true, check, fail⟩) s = .next ((s.setFld rPwrStat 57 56 0).dieStates 0).failDevice := by
  have hgo : ¬ (s.fld rBoot 63 60 ≠ 2 ∨ !s.canWake) := by simp [hboot, hwake]
  show execComputePowerUp ⟨true, check, fail⟩ s = _
  rw [execComputePowerUp, guardWf_of_wf hwf, if_neg hgo, if_pos rfl]

end

/-- The number of a channel whose NWT_RCH_STAT stands where PWR_STAT does. The device's own end at 63. -/
def strayRch : Nat := (rPwrStat - rRchStat 0) / 8

theorem rRchStat_strayRch : rRchStat strayRch = rPwrStat := by decide

/-- An epoch on that channel, hosted here for partition 0. -/
def strayEpoch : Epoch :=
  ⟨⟨0, strayRch, 0, 0⟩, 0, ⟨strayRch, 0, 0, false, 0, 0, 0, 0, 0, 0, 0, 0, 0, none, []⟩, 0, 0, 0, 0, 0, false, false, none, false, false, none, [], [], false,
    some ⟨[], [], [], [], [], 0, none, false, false, none, 0⟩, ⟨[], [], [], false, false, false, [], 0⟩, ⟨[], [], [], none, [], [], [], false, false, false, false⟩⟩

/-- A device at STATE 2 that may wake; core 0, the one that is not fenced, holds a closed program with that epoch. -/
def strayState : State :=
  { (((State.reset.readFences (fun k => k != 0)).setFld rBoot 63 60 2).setFld rFacStat 13 13 1).setReg (rCmap 0) (2 ^ 63) with
    parts := [(0, { Part.reset with st := .closed, num := 1 })]
    epochs := [(strayRch, strayEpoch)] }

theorem strayState_wakes : strayState.fld rBoot 63 60 = 2 ∧ strayState.canWake = true := by decide +kernel

/-- Core 0 is fenced, its program ends, and the close of its epoch writes outcome 2 to NWT_RCH_STAT's bits 59:56, here PWR_STAT's. -/
theorem fld_rPwrStat_strayState : (((strayState.setFld rPwrStat 57 56 0).dieStates 0).failDevice).fld rPwrStat 57 56 = 2 := by decide +kernel

/-- Refutes O47 at the clause of a die that fails: PWR_STAT does not show the compute dies off in `strayState`, which the statement, made of every state, does not
exclude: an epoch's channel number is not bounded there, and its status register falls on PWR_STAT. -/
theorem not_computePower : ¬ Obligations.ComputePower := by
  intro h
  obtain ⟨hboot, hwake⟩ := strayState_wakes
  obtain ⟨hup, -⟩ := h strayState
  obtain ⟨-, hgo⟩ := hup true [] [] rfl
  obtain ⟨-, hfails, -⟩ := hgo hboot hwake
  obtain ⟨t, hexec, hpwr, -⟩ := hfails rfl
  rw [exec_computePowerUp_of_dieFails rfl hboot hwake, Host.Outcome.next.injEq] at hexec
  rw [← hexec, fld_rPwrStat_strayState] at hpwr
  exact absurd hpwr (by decide)

end Sys2Proof.Machine
end

section
/-! SUPPORT. An instruction's record on its core, and what sending a request and freeing its tracker change (05 R147, 09 R316, R322, R323). -/

namespace Sys2Proof.Machine

/-! ### The record of an instruction (R147) -/

theorem Core.op_of_ops {x y : Core} (h : y.ops = x.ops) (i : Nat) : y.op i = x.op i := by simp only [Core.op, h]

/-- A record that is replaced is found replaced. -/
theorem Core.op_setOp {x : Core} {i : Nat} {o d : Op} (h : x.op i = some o) (hid : d.id = o.id) : (x.setOp d).op i = some d := by
  have hsame : ((fun e : Op => e.id == i) ∘ fun e => if e.id = d.id then d else e) = fun e => e.id == i := by
    funext e
    by_cases he : e.id = d.id <;> simp [he]
  have hfind : x.ops.find? (fun e => e.id == i) = some o := h
  rw [Core.op, Core.setOp, List.find?_map, hsame, hfind]
  simp [hid]

/-- A transfer that has made its last access leaves, and its completion add falls due. -/
theorem Core.settle_of_over {x : Core} {o : Op} (h : o.over = true) : x.settle o = x.finish o := if_pos h

/-! ### A request is sent (R316, R322) -/

/-- The instruction's progress once its request is sent. -/
def Cand.sent (e : Cand) : Op :=
  match e.kind with
  | .read => { e.op with rsent := e.op.rsent + 1 }
  | .flag _ _ _ => { e.op with wsent := e.op.wsent + 1 }
  | _ => { e.op with wsent := e.op.wsent + 1, landed := dropLanded e.op.landed e.req.pos e.req.len }

section

variable (s : State) (k : Nat) (e : Cand) (z : Option Nat)

/-- The core's bursts after the word of a request, the word's own, and the words that CORE_FEED_MERGE counts with it. -/
def State.burstsWith : List Burst × Nat × Nat :=
  joinBurst (s.core k).bursts (s.fabNext + 1) s.clock.eclk e.req.addr (decide (e.kind = .write)) z.isSome

/-- What enters the fabric. -/
def State.requestOf : FabReq :=
  ⟨s.fabNext, k, e.op.id, e.kind, e.req.addr, e.req.len, e.req.pos,
    (if e.kind = .write ∨ e.kind = .pot then (landedAt e.op.landed e.req.pos e.req.len).getD [] else []), s.clock.eclk, z, false,
    (if e.kind = .pot then (List.range (e.req.len / 4)).map (fun i => e.req.addr + 4 * i) else []),
    (if e.kind = .read ∨ e.kind = .write then (s.burstsWith k e z).2.1 else 0)⟩

/-- The core once the request is sent. -/
def State.senderOf : Core :=
  { (s.core k).setOp e.sent with bursts := if e.kind = .read ∨ e.kind = .write then (s.burstsWith k e z).1 else (s.core k).bursts }

/-- The request is in the fabric and the core has noted it. -/
def State.launched : State :=
  State.setCore { s with fab := s.fab ++ [s.requestOf k e z], fabNext := s.fabNext + 1 } k (s.senderOf k e z)

theorem State.trackers_launched : (s.launched k e z).trackers k = s.trackers k + 1 := by
  simp [State.trackers, State.launched, State.requestOf]

/-- CORE_FEED_STAT shows the trackers held and the most that were (R328). -/
def State.trackersShown : State := (s.setFld (rFeedStat k) 63 53 (s.trackers k)).maxFld (rFeedStat k) 42 32 (s.trackers k)

theorem State.fld_trackersShown : (s.trackersShown k).fld (rFeedStat k) 63 53 = s.trackers k % 2048 := by
  rw [State.trackersShown, State.maxFld, State.fld_setFld_ne _ _ _ _ _ _ _ (by decide) (by decide) (by decide),
    State.fld_setFld_self _ _ _ _ _ (by decide) (by decide)]
  rfl

variable {e}

theorem State.send_of_merging (h : e.kind = .read ∨ e.kind = .write) :
    s.send k e z = (((s.launched k e z).addFld (rFeedMerge k) 63 0 (s.burstsWith k e z).2.2).trackersShown k).dropClaims k := by
  have hb : s.senderOf k e z = { (s.core k).setOp e.sent with bursts := (s.burstsWith k e z).1 } := by rw [State.senderOf, if_pos h]
  rw [State.launched, hb]
  obtain ⟨o, kind, req⟩ := e
  obtain rfl | rfl := h
  · simp only [State.send, State.updCore_updCore]
    rfl
  · simp only [State.send, State.updCore_updCore]
    rfl

theorem State.send_of_single (h : ¬ (e.kind = .read ∨ e.kind = .write)) :
    s.send k e z = ((s.launched k e z).trackersShown k).dropClaims k := by
  have hb : s.senderOf k e z = (s.core k).setOp e.sent := by
    rw [State.senderOf, if_neg h]
    rfl
  rw [State.launched, hb]
  obtain ⟨o, kind, req⟩ := e
  cases kind with
  | read => exact absurd (.inl rfl) h
  | write => exact absurd (.inr rfl) h
  | pot => rfl
  | flag t n m => rfl

variable (e)

/-- A sent request counts its tracker, and the words that join a burst with it (R316, R322, R328). -/
theorem State.send_eq : ∃ u : State, s.send k e z = u.dropClaims k ∧ (s.launched k e z).RegsOnly u ∧
    s.sameRegsBut u (fun a => a = rFeedStat k ∨ a = rFeedMerge k) ∧ u.fld (rFeedStat k) 63 53 = (s.trackers k + 1) % 2048 := by
  have hlaunched : s.sameRegsBut (s.launched k e z) (fun a => a = rFeedStat k ∨ a = rFeedMerge k) := (State.sameRegsBut.refl s _).update rfl
  have hshown : ∀ v : State, (s.launched k e z).RegsOnly v → s.sameRegsBut v (fun a => a = rFeedStat k ∨ a = rFeedMerge k) →
      (s.launched k e z).RegsOnly (v.trackersShown k) ∧
      s.sameRegsBut (v.trackersShown k) (fun a => a = rFeedStat k ∨ a = rFeedMerge k) ∧
      (v.trackersShown k).fld (rFeedStat k) 63 53 = (s.trackers k + 1) % 2048 := by
    intro v hv hr
    have hn : v.trackers k = s.trackers k + 1 := by
      rw [hv]
      exact s.trackers_launched k e z
    rw [v.fld_trackersShown, hn]
    exact ⟨(hv.setFld _ _ _ _).maxFld _ _ _ _, (hr.setFld (.inl rfl) _ _ _).maxFld (.inl rfl) _ _ _, rfl⟩
  by_cases h : e.kind = .read ∨ e.kind = .write
  · exact ⟨_, s.send_of_merging k z h, hshown _ (.addFld (.refl _) _ _ _ _) (hlaunched.addFld (.inr rfl) _ _ _)⟩
  · exact ⟨_, s.send_of_single k z h, hshown _ (.refl _) hlaunched⟩

end

/-! #### The last tracker (R323) -/

/-- A request sent leaves the A-stream. -/
theorem State.a_senderOf (s : State) (k : Nat) (e : Cand) (z : Option Nat) : (s.senderOf k e z).a = (s.core k).a := rfl

/-- It leaves the generators, and with them whether an instruction makes fabric requests. -/
theorem fabricUser_senderOf (s : State) (k : Nat) (e : Cand) (z : Option Nat) (i : Ovt) : fabricUser (s.senderOf k e z) i = fabricUser (s.core k) i := rfl

section

variable {s : State} {k : Nat}

theorem State.dropClaims_of_full {h : Hold} (hh : (s.core k).a.hold = some h) (hu : fabricUser (s.core k) h.ins = true) (ht : 1536 ≤ s.trackers k) :
    s.dropClaims k = s.setCore k { s.core k with a := { (s.core k).a with state := 3, stall := 9, obj := 0, hold := none } } := by
  simp only [State.dropClaims, hh, ht, hu, and_self, if_true]
  rfl

theorem State.dropClaims_of_free (hfree : s.trackers k < 1536 ∨ ∀ h, (s.core k).a.hold = some h → fabricUser (s.core k) h.ins = false) :
    s.dropClaims k = s := by
  unfold State.dropClaims
  simp only
  split
  next h hh =>
    refine if_neg fun hfull => ?_
    obtain ⟨hfull, huser⟩ := hfull
    obtain hlt | hnot := hfree
    · omega
    · rw [hnot h hh] at huser
      cases huser
  · rfl

/-- Claims dropped are those of the A-stream. -/
theorem State.dropClaims_eq (s : State) (k : Nat) : s.dropClaims k = s ∨ ∃ a, s.dropClaims k = s.setCore k { s.core k with a := a } := by
  by_cases ht : 1536 ≤ s.trackers k
  · rcases hh : (s.core k).a.hold with _ | h
    · exact .inl (State.dropClaims_of_free (.inr (by simp [hh])))
    · cases hu : fabricUser (s.core k) h.ins
      · exact .inl (State.dropClaims_of_free (.inr (by simp [hh, hu])))
      · exact .inr ⟨_, State.dropClaims_of_full hh hu ht⟩
  · exact .inl (State.dropClaims_of_free (.inl (by omega)))

theorem State.dropClaims_leaves (s : State) (k : Nat) : (∃ cores, s.dropClaims k = { s with cores := cores }) ∧ s.sameCoresBut (s.dropClaims k) k ∧
    ∀ a, { (s.dropClaims k).core k with a := a } = { s.core k with a := a } := by
  obtain h | ⟨b, h⟩ := s.dropClaims_eq k <;> rw [h]
  · exact ⟨⟨s.cores, rfl⟩, fun _ _ => rfl, fun _ => rfl⟩
  · refine ⟨⟨_, rfl⟩, fun j hj => State.core_setCore_ne _ _ hj, fun a => ?_⟩
    rw [State.core_setCore_self]

end

/-! #### What a sent request leaves (R316, R322, R323, R328) -/

section

variable (s : State) (k : Nat) (e : Cand) (z : Option Nat)

theorem State.send_frame : ∃ cores regs, s.send k e z = { s with fab := s.fab ++ [s.requestOf k e z], fabNext := s.fabNext + 1, cores := cores, regs := regs } := by
  obtain ⟨u, hsend, honly, -, -⟩ := s.send_eq k e z
  obtain ⟨⟨cores, hcores⟩, -, -⟩ := u.dropClaims_leaves k
  refine ⟨cores, u.regs, ?_⟩
  rw [hsend, hcores, honly]
  rfl

theorem State.send_regs : s.sameRegsBut (s.send k e z) (fun a => a = rFeedStat k ∨ a = rFeedMerge k) ∧
    (s.send k e z).fld (rFeedStat k) 63 53 = (s.trackers k + 1) % 2048 := by
  obtain ⟨u, hsend, -, hregs, hfld⟩ := s.send_eq k e z
  obtain ⟨⟨cores, hcores⟩, -, -⟩ := u.dropClaims_leaves k
  rw [hsend, hcores]
  exact ⟨hregs, hfld⟩

theorem State.send_sameCoresBut : s.sameCoresBut (s.send k e z) k := by
  obtain ⟨u, hsend, honly, -, -⟩ := s.send_eq k e z
  obtain ⟨-, hothers, -⟩ := u.dropClaims_leaves k
  intro j hj
  rw [hsend, hothers j hj, honly]
  exact State.core_setCore_ne _ _ hj

/-- The sending core but for its A-stream, and the A-stream by whether the last tracker has gone. -/
theorem State.core_send : (∀ a, { (s.send k e z).core k with a := a } = { s.senderOf k e z with a := a }) ∧
    (s.trackers k + 1 < 1536 ∨ (∀ h, (s.core k).a.hold = some h → fabricUser (s.core k) h.ins = false) → ((s.send k e z).core k).a = (s.core k).a) ∧
    (∀ h, (s.core k).a.hold = some h → fabricUser (s.core k) h.ins = true → s.trackers k + 1 = 1536 →
      ((s.send k e z).core k).a = { (s.core k).a with state := 3, stall := 9, obj := 0, hold := none }) := by
  obtain ⟨u, hsend, honly, -, -⟩ := s.send_eq k e z
  obtain ⟨-, -, hrest⟩ := u.dropClaims_leaves k
  have hcore : u.core k = s.senderOf k e z := by
    rw [honly]
    exact State.core_setCore_self _ _ _
  have htrackers : u.trackers k = s.trackers k + 1 := by
    rw [honly]
    exact s.trackers_launched k e z
  rw [hsend]
  refine ⟨fun a => by rw [hrest, hcore], fun hfree => ?_, fun h hh hu ht => ?_⟩
  · rw [← htrackers] at hfree
    rw [State.dropClaims_of_free (by simpa only [hcore, State.a_senderOf, fabricUser_senderOf] using hfree), hcore, State.a_senderOf]
  · have hhold : (u.core k).a.hold = some h := by rwa [hcore, State.a_senderOf]
    have huser : fabricUser (u.core k) h.ins = true := by rwa [hcore, fabricUser_senderOf]
    rw [State.dropClaims_of_full hhold huser (by omega), State.core_setCore_self, hcore, State.a_senderOf]

end

/-! ### A tracker is freed (R322, R323) -/

theorem State.fab_freeReq (s : State) (r : FabReq) : (s.freeReq r).fab = s.fab.filter (fun e => e.id != r.id) := by
  unfold State.freeReq State.freeStream
  simp only
  split <;> rfl

theorem State.trackers_freeReq (s : State) (r : FabReq) (k : Nat) :
    (s.freeReq r).trackers k = (s.fab.filter (fun e => e.core == k && e.id != r.id)).length := by
  rw [State.trackers, State.fab_freeReq, List.filter_filter]

theorem State.fabReq_freeReq (s : State) (r : FabReq) : (s.freeReq r).fabReq r.id = none := by
  simp [State.fabReq, State.fab_freeReq]

/-- An A-stream that waits for a tracker goes on once one is free. -/
theorem State.core_freeStream (s : State) (k : Nat) :
    (s.freeStream k).core k = if (s.core k).a.state = 3 ∧ (s.core k).a.stall = 9 ∧ s.trackers k < 1536
      then { s.core k with a := { (s.core k).a with state := 2, stall := 0 } } else s.core k := by
  unfold State.freeStream
  simp only
  split
  · exact State.core_setCore_self _ _ _
  · rfl

theorem State.core_freeReq (s : State) (r : FabReq) :
    (s.freeReq r).core r.core = if (s.core r.core).a.state = 3 ∧ (s.core r.core).a.stall = 9 ∧ (s.freeReq r).trackers r.core < 1536
      then { s.core r.core with a := { (s.core r.core).a with state := 2, stall := 0 } } else s.core r.core := by
  rw [State.trackers_freeReq, State.freeReq, State.core_freeStream, State.core_setFld, State.trackers, State.setFld_fab, List.filter_filter]
  rfl

theorem State.op_freeReq (s : State) (r : FabReq) (i : Nat) : ((s.freeReq r).core r.core).op i = (s.core r.core).op i := by
  refine Core.op_of_ops ?_ i
  rw [State.core_freeReq]
  split <;> rfl

end Sys2Proof.Machine
end

section
/-! Chapter 9 of the manual: fabric requests are sent, and their answers land. -/

namespace Sys2Proof.Machine

/-! ### REQUEST_SEND (R11, R316 to R324) -/

section

variable {s : State} {c k : Nat} {e : Cand} {z : Option Nat}

/-- The requests that a core would send, each with its latest-service time. -/
def State.stamped (s : State) (k : Nat) (hamper : Bool) : List (Cand × Option Nat) := ((s.core k).candsAt hamper).map (fun e => (e, s.stampOf k e))

/-- The request that a core sends next on the fabric (R318 to R322, R324). -/
def State.nextSend (s : State) (k : Nat) : Option (Cand × Option Nat) :=
  pickCand ((s.stamped k false).filter (fun e => s.maySend k e && (e.2.isSome || !(s.stamped k false).any (fun e => e.2.isSome))))

theorem exec_requestSend_of_next (hc : c < 128) (hk : s.phys c = some k) (hnext : s.nextSend k = some (e, z))
    (h : s.keyOf e.req.addr ≠ none ∨ ∃ t n m, e.kind = .flag t n m) : exec (.requestSend c) s = .next (s.send k e z) := by
  have hwf : Instr.wf (.requestSend c) = true := decide_eq_true hc
  show execRequestSend c s = _
  rw [execRequestSend, guardWf_of_wf hwf]
  simp only [State.nextSend, State.stamped] at hnext
  simp only [hk, hnext]
  split
  · rfl
  · rename_i hkind
    obtain hkey | ⟨t, n, m, hflag⟩ := h
    · rw [if_pos (Option.isSome_iff_ne_none.2 hkey)]
    · exact absurd hflag (hkind t n m)

/-- A word that is not mapped is not accessed (R11). -/
theorem exec_requestSend_of_unmapped (hc : c < 128) (hk : s.phys c = some k) (hnext : s.nextSend k = some (e, z))
    (hkey : s.keyOf e.req.addr = none) (hkind : ∀ t n m, e.kind ≠ .flag t n m) :
    exec (.requestSend c) s = .next (s.abort c tAddressFault e.op.st e.op.pc) := by
  have hwf : Instr.wf (.requestSend c) = true := decide_eq_true hc
  show execRequestSend c s = _
  rw [execRequestSend, guardWf_of_wf hwf]
  simp only [State.nextSend, State.stamped] at hnext
  simp only [hk, hnext]
  exact congrArg _ (if_neg (by simp [hkey]))

end

/-! ### READ_RESPONSE_LAND (R147, R155, R194, R322, R323) -/

section

variable {s : State} {k c id pos : Nat} {o : Op} {bs : List PByte}

/-- A transfer notes the bytes at their place. -/
theorem State.land_of_transfer (ho : (s.core k).op id = some o) (hs : ∀ cf b, o.ins ≠ .sload cf b) (hc : ∀ cf g q, o.ins ≠ .cload cf g q) :
    s.land k c id pos bs = s.setCore k ((s.core k).settle { o with rland := o.rland + 1, landed := putLanded o.landed pos bs }) := by
  simp only [State.land, ho]
  rfl

/-- A spread load lays them in its bank. -/
theorem State.land_of_sload (ho : (s.core k).op id = some o) {cf : Cf} {b : SloadB} (hi : o.ins = .sload cf b) :
    s.land k c id pos bs = s.setCore k (((s.core k).fillSpread o b pos bs).settle
      { o with rland := o.rland + 1, cnt := if pos < tileBytes b then o.cnt + 1 else o.cnt }) := by
  simp only [State.land, ho, hi]
  rfl

theorem State.land_of_cload (ho : (s.core k).op id = some o) {cf : Cf} {g q : Nat} (hi : o.ins = .cload cf g q) :
    s.land k c id pos bs = s.landCload k c o q bs := by
  simp only [State.land, ho, hi]

theorem State.landCload_of_poisoned (q : Nat) (hp : bs.any (·.2) = true) : s.landCload k c o q bs = s.abort c tPoison o.st o.pc := if_pos hp

theorem State.landCload_of_above {q : Nat} (hp : bs.any (·.2) = false) (hmax : ((s.core k).slot q).max < ofLe (bs.map (·.1))) :
    s.landCload k c o q bs = s.abort c tCountBound o.st o.pc := by
  simp only [State.landCload, hp, hmax, Bool.false_eq_true, if_false, if_true]

/-- The value is known, and waits for the writes before it (R156). -/
theorem State.landCload_of_waiting {q : Nat} (hp : bs.any (·.2) = false) (hmax : ofLe (bs.map (·.1)) ≤ ((s.core k).slot q).max)
    {w : SlotWrite} {l : List SlotWrite} (hw : ((s.core k).slot q).writes = w :: l) (hne : w.op ≠ some o.id) :
    s.landCload k c o q bs = s.setCore k (((s.core k).setOp { o with rland := 1, claims := [] }).setSlot q { (s.core k).slot q with
      writes := ((s.core k).slot q).writes.map (fun w => if w.op = some o.id then { w with value := some (ofLe (bs.map (·.1))) } else w) }) := by
  simp only [State.landCload, hp, Nat.not_lt.2 hmax, Bool.false_eq_true, if_false, hw, List.map_cons, if_neg hne]

theorem State.abort_of_partOf {p : Nat} (hp : s.partOf c = some p) (code : Nat) (st : Strm) (pc : Nat) :
    s.abort c code st pc = s.terminate p code (.at c st pc) := by simp only [State.abort, hp]

end

section

variable {s : State} {id c : Nat} {r : FabReq}

theorem exec_readResponseLand_of_served (hr : s.fabReq id = some r) (hkind : r.kind = .read) (hserved : r.served = true) (hdata : r.data ≠ [])
    (hl : s.logicalOf r.core = some c) (hroute : s.route (s.dieOf r.core r.addr) (coreDie r.core) = true) :
    exec (.readResponseLand id) s = .next ((s.freeReq r).land r.core c r.op r.pos r.data).settleRed := by
  have hl' : (s.freeReq r).logicalOf r.core = some c := (State.logicalOf_freeReq _ _ _).trans hl
  have hne : r.data.isEmpty = false := by simpa using hdata
  show execReadResponseLand id s = _
  rw [execReadResponseLand, guardWf_of_wf (rfl : Instr.wf (.readResponseLand id) = true), State.landResponse]
  simp only [hr, hkind, hserved, hroute, and_self, if_true, hl', hne, Bool.false_eq_true, if_false]

/-! ### WRITE_ACKNOWLEDGE (R147, R286, R322) -/

theorem exec_writeAcknowledge_of_served {o : Op} (hr : s.fabReq id = some r) (hkind : r.kind = .write ∨ r.kind = .pot) (hserved : r.served = true)
    (hleft : r.left = []) (ho : (s.core r.core).op r.op = some o) (hroute : s.route (s.dieOf r.core r.addr) (coreDie r.core) = true) :
    exec (.writeAcknowledge id) s =
      .next ((s.freeReq r).setCore r.core (((s.freeReq r).core r.core).settle { o with wdone := o.wdone + 1 })) := by
  have ho' : ((s.freeReq r).core r.core).op r.op = some o := (State.op_freeReq _ _ _).trans ho
  show execWriteAcknowledge id s = _
  rw [execWriteAcknowledge, guardWf_of_wf (rfl : Instr.wf (.writeAcknowledge id) = true)]
  simp only [hr, hkind, hserved, hleft, List.isEmpty_nil, hroute, and_self, if_true, State.acked, ho']
  rfl

end

/-- A move or a store has made its last access with its last acknowledgement (R147). -/
theorem Op.over_of_stored {o : Op} (hi : ∃ cf b, o.ins = .move cf b ∨ o.ins = .qstore cf b) (h : o.wdone = reqCount o.dst) : o.over = true := by
  have hstored : o.stored = true := decide_eq_true h
  obtain ⟨cf, b, hi | hi⟩ := hi <;> simpa only [Op.over, hi] using hstored

/-- Settles O16: a request is sent by `State.send`, its data lands by the kind of its instruction, and an acknowledgement settles the record. -/
theorem requestsTravel : Obligations.RequestsTravel := by
  unfold Obligations.RequestsTravel
  refine ⟨?_, ?_, ?_⟩
  · intro s c k e z hc hk x all hnext j r o
    refine ⟨fun hsent => ?_, exec_requestSend_of_unmapped hc hk hnext⟩
    obtain ⟨cores, regs, hframe⟩ := s.send_frame k e z
    obtain ⟨hregs, hfld⟩ := s.send_regs k e z
    obtain ⟨hcore, hfree, hfull⟩ := s.core_send k e z
    refine ⟨s.send k e z, exec_requestSend_of_next hc hk hnext hsent, congrArg State.fab hframe, congrArg State.fabNext hframe, hcore _,
      s.send_sameCoresBut k e z, hfree, hfull, hfld, ?_, hregs⟩
    rw [hframe]
  · intro s id c p r o hwf hr hkind hserved hdata hl hp ho k f x hroute
    have hexec := exec_readResponseLand_of_served hr hkind hserved hdata hl hroute
    have ho' : (f.core k).op r.op = some o := (State.op_freeReq _ _ _).trans ho
    have hp' : f.partOf c = some p := (State.partOf_freeReq _ _ _).trans hp
    have hid : r.id = id := State.id_of_fabReq hr
    refine ⟨s.core_freeReq r, s.trackers_freeReq r k, hid ▸ s.fabReq_freeReq r, fun hs hc => ?_, fun cf b hi => ?_, fun cf g q hi => ?_⟩
    · rw [hexec, State.land_of_transfer ho' hs hc]
    · rw [hexec, State.land_of_sload ho' hi]
    · intro v n
      rw [hexec, State.land_of_cload ho' hi]
      refine ⟨fun hpoison => ?_, fun hclean hmax => ?_, fun hclean hmax w l hw hne => ?_⟩
      · rw [State.landCload_of_poisoned q hpoison, State.abort_of_partOf hp']
      · rw [State.landCload_of_above hclean hmax, State.abort_of_partOf hp']
      · rw [State.landCload_of_waiting hclean hmax hw hne]
  · intro s id r o hwf hr hkind hserved hleft ho hroute x d
    refine ⟨exec_writeAcknowledge_of_served hr hkind hserved hleft ho hroute, fun hi hlast => ?_⟩
    rw [Core.settle_of_over (Op.over_of_stored (o := d) hi hlast)]
    exact ⟨rfl, rfl⟩

end Sys2Proof.Machine
end

section
/-! Chapter 9 of the manual: the core's accesses to its own hamper window. -/

namespace Sys2Proof.Machine

/-! ### What an access notes on the core (R315, R446) -/

/-- The registers that count poisoned stores (R485). -/
def poisonReg (a : Nat) : Prop := ∃ p, a = rPoison p

namespace State.OnCore

variable {σ s : State} {k : Nat}

theorem poisonStore (h : σ.OnCore s k poisonReg) (p n c : Nat) (st : Strm) (pc : Nat) : σ.OnCore (s.poisonStore p n c st pc) k poisonReg :=
  have hs := h.setFld ⟨p, rfl⟩ 63 48 _
  .ite h (.ite hs ((((hs.setFld ⟨p, rfl⟩ _ _ _).setFld ⟨p, rfl⟩ _ _ _).setFld ⟨p, rfl⟩ _ _ _).setFld ⟨p, rfl⟩ _ _ _))

theorem wrote (h : σ.OnCore s k poisonReg) (c id a : Nat) (bs : List PByte) : σ.OnCore (s.wrote k c id a bs) k poisonReg := by
  unfold State.wrote
  split
  · exact .ite (h.setCore _) (h.poisonStore _ _ _ _ _)
  · exact h

theorem acked (h : σ.OnCore s k poisonReg) (id : Nat) : σ.OnCore (s.acked k id) k poisonReg := by
  unfold State.acked
  split
  · exact h
  · exact h.setCore _

end State.OnCore

/-! ### HAMPER_ACCESS (R315, R444, R446) -/

namespace State

section

variable (s : State) (k key : Nat) (ce ue : List Nat)

/-- The groups that a read of a word finds uncorrectable for the first time (R444). -/
def lostGroups : List Nat := ((ue.filter (fun g => decide (g < 8))).filter (fun g => !s.mem.bad (key / 64 * 64 + 8 * g))).dedup

/-- The memory in which they are marked. -/
def lostMarked : Memory := (s.lostGroups key ue).foldl (fun m g => m.setPoison (key / 64 * 64 + 8 * g) true) s.mem

/-- The state in which the errors that a read meets are marked and recorded (R444, R454). -/
def hamperMet : State :=
  ce.foldl (fun s _ => s.unitEvent (unitCore k) evCe 0)
    ((s.lostGroups key ue).foldl (fun s _ => s.unitEvent (unitCore k) evUe 0) { s with mem := s.lostMarked key ue })

theorem hamperMet_eq : ∃ events, s.hamperMet k key ce ue = { s with mem := s.lostMarked key ue, events := events } ∧
    events.length = s.events.length + (s.lostGroups key ue).length + ce.length := by
  refine ⟨(s.hamperMet k key ce ue).events, ?_, ?_⟩
  · simp only [hamperMet, foldl_unitEvent]
    rfl
  · simp [hamperMet, foldl_unitEvent, addEvents, Nat.add_assoc]

end

section

variable {s : State} {c k key : Nat} {ce ue : List Nat} {e : Cand} {z : Option Nat}

theorem hamperNext_of_read (hk : s.phys c = some k) (hnext : pickCand (s.stamped k true) = some (e, z)) (hkey : s.keyOf e.req.addr = some key)
    (hkind : e.kind = .read) :
    s.hamperNext c ce ue = (((s.hamperMet k key ce ue).updCore k (fun y => y.setOp { e.op with rsent := e.op.rsent + 1 })).land k c e.op.id e.req.pos
      ((s.hamperMet k key ce ue).mem.readB key e.req.len)) := by
  rw [stamped] at hnext
  simp only [hamperNext, hk, hnext, hkey, hkind]
  rfl

theorem writeMem_setCore {a : Nat} (hkey : s.keyOf a = some key) (k : Nat) (x : Core) (bs : List PByte) :
    (s.setCore k x).writeMem a bs = State.setCore { s with mem := s.mem.writeB key bs } k x := by
  have hregs : s.sameRegsBut (s.setCore k x) countReg := fun _ _ => rfl
  rw [writeMem, hregs.keyOf, hkey]
  rfl

/-- The write of a core to its hamper, noted by its instruction. -/
theorem hamperNext_of_write (hk : s.phys c = some k) (hnext : pickCand (s.stamped k true) = some (e, z)) (hkey : s.keyOf e.req.addr = some key)
    (hkind : e.kind = .write) {bs : List PByte} (hbs : landedAt e.op.landed e.req.pos e.req.len = some bs) :
    OnCore { s with mem := s.mem.writeB key bs } (s.hamperNext c ce ue) k poisonReg := by
  rw [stamped] at hnext
  simp only [hamperNext, hk, hnext, hkey, hkind, hbs, Option.getD_some, updCore, writeMem_setCore hkey]
  exact (((OnCore.refl _ k poisonReg).setCore _).wrote _ _ _ _).acked _

end

end State

theorem exec_hamperAccess {c : Nat} {ce ue : List Nat} (hwf : Instr.wf (.hamperAccess c ce ue) = true) (s : State) :
    exec (.hamperAccess c ce ue) s = .next (s.hamperNext c ce ue).settleRed := by
  show execHamperAccess c ce ue s = _
  rw [execHamperAccess, guardWf_of_wf hwf]

/-- Settles O18: a read's errors are marked before its bytes land, a write stores its bytes and is done. -/
theorem hamperAccessed : Obligations.HamperAccessed := by
  unfold Obligations.HamperAccessed
  intro s c k key ce ue e z hwf hk x hnext hkey hop bad m
  refine ⟨fun hkind hs hc => ?_, fun hkind bs hbs => ?_⟩
  · obtain ⟨events, hmet, hlength⟩ := s.hamperMet_eq k key ce ue
    refine ⟨s.hamperNext c ce ue, exec_hamperAccess hwf s, ?_⟩
    rw [State.hamperNext_of_read hk hnext hkey hkind, hmet,
      State.land_of_transfer (o := { e.op with rsent := e.op.rsent + 1 }) (by rw [State.core_updCore_self]; exact Core.op_setOp hop rfl) hs hc]
    refine ⟨rfl, ?_, hlength, rfl⟩
    rw [State.core_setCore_self, State.core_updCore_self]
    rfl
  · refine ⟨s.hamperNext c ce ue, exec_hamperAccess hwf s, ?_⟩
    obtain ⟨honly, hcores, -⟩ := State.hamperNext_of_write (ce := ce) (ue := ue) hk hnext hkey hkind hbs
    refine ⟨honly.mem, hcores, ?_⟩
    rw [honly]

end Sys2Proof.Machine
end

section
/-! SUPPORT. Connection numbers, what leaves while the link is up, and what a lost message counts (12 R410, R419, R438). -/

namespace Sys2Proof.Machine

/-! ### A connection number not used since reset (R419) -/

/-- The numbers that are tried, from one picked at random. -/
def connTries (used : List Nat) (f : Nat) : List Nat := (List.range (used.length + 1)).map (fun j => 1 + (Config.connNumber f + j) % (2 ^ 32 - 1))

theorem nodup_connTries {used : List Nat} (h : used.length < 2 ^ 31) (f : Nat) : (connTries used f).Nodup := by
  refine List.Nodup.map_on (fun i hi j hj hij => ?_) List.nodup_range
  rw [List.mem_range] at hi hj
  omega

/-- More numbers are tried than have been used. -/
theorem exists_find_connTries {used : List Nat} (h : used.length < 2 ^ 31) (f : Nat) :
    ∃ m, (connTries used f).find? (fun x => !used.contains x) = some m ∧ m ∉ used ∧ m ≠ 0 := by
  rcases hfind : (connTries used f).find? (fun x => !used.contains x) with _ | m
  · have hsub : connTries used f ⊆ used := fun x hx => by simpa using List.find?_eq_none.1 hfind x hx
    have hlen := ((nodup_connTries h f).subperm hsub).length_le
    simp [connTries] at hlen
  · have hm : m ∉ used := by simpa using List.find?_some hfind
    obtain ⟨j, -, rfl⟩ := List.mem_map.1 (List.mem_of_find?_eq_some hfind)
    exact ⟨_, rfl, hm, by omega⟩

/-- A connection number is taken. -/
def State.takeConn (s : State) (m : Nat) : State := { s with free := s.free + 1, connsUsed := m :: s.connsUsed }

theorem State.freshConn_eq {s : State} (h : s.connsUsed.length < 2 ^ 31) : ∃ m, s.freshConn = (m, s.takeConn m) ∧ m ∉ s.connsUsed ∧ m ≠ 0 := by
  obtain ⟨m, hfind, hused, hzero⟩ := exists_find_connTries h s.free
  rw [connTries] at hfind
  refine ⟨m, ?_, hused, hzero⟩
  simp only [State.freshConn, State.fresh, hfind, Option.getD_some]
  rfl

/-! ### While the link is down nothing leaves (R410) -/

theorem State.emitUp_of_up {s : State} (h : s.linkUp = true) (o : Out) : s.emitUp o = s.emit o := if_pos h

theorem State.emitUp_of_down {s : State} (h : s.linkUp = false) (o : Out) : s.emitUp o = s := if_neg (ne_true_of_eq_false h)

theorem State.linkUp_of_fld {s t : State} (h : t.fld rEthStat 63 61 = s.fld rEthStat 63 61) : t.linkUp = s.linkUp := by rw [State.linkUp, State.linkUp, h]

/-! ### Lost messages (R276, R438) -/

/-- The registers that count dropped telemetry. -/
def dropReg (a : Nat) : Prop := a = rTelstat ∨ ∃ p < 8, a = rPhaseStat p

theorem not_dropReg_of_nwt {a : Nat} (h : nwtB ≤ a) : ¬ dropReg a := by
  unfold dropReg rTelstat rPhaseStat hubB
  unfold nwtB at h
  omega

namespace State

variable {σ s t : State}

theorem RegsOnly.countDrop (h : σ.RegsOnly s) (source part : Nat) : σ.RegsOnly (s.countDrop source part) := by
  unfold State.countDrop
  split
  · exact .ite (h.addFld _ _ _ _) h
  · exact h.addFld _ _ _ _
  · exact h.addFld _ _ _ _
  · exact h.addFld _ _ _ _
  · exact h

theorem RegsOnly.countLost (h : σ.RegsOnly s) (l : List Msg) : σ.RegsOnly (s.countLost l) := by
  unfold State.countLost
  refine foldl (foldl h (fun _ h => h.countDrop _ _) _) (fun m h => ?_) _
  split
  · exact .ite h (h.countDrop _ _)
  · exact h

theorem sameRegsBut.countDrop (h : σ.sameRegsBut s dropReg) (source part : Nat) : σ.sameRegsBut (s.countDrop source part) dropReg := by
  unfold State.countDrop
  split
  · split
    · rename_i hp
      exact h.addFld (.inr ⟨part, hp.1, rfl⟩) _ _ _
    · exact h
  · exact h.addFld (.inl rfl) _ _ _
  · exact h.addFld (.inl rfl) _ _ _
  · exact h.addFld (.inl rfl) _ _ _
  · exact h

theorem sameRegsBut.countLost (h : σ.sameRegsBut s dropReg) (l : List Msg) : σ.sameRegsBut (s.countLost l) dropReg := by
  unfold State.countLost
  refine foldl (foldl h fun _ _ _ h => h.countDrop _ _) fun m _ _ h => ?_
  split
  · exact .ite h (h.countDrop _ _)
  · exact h

/-- The collector's identity and address stand among the transport's registers. -/
theorem collector_of_dropReg (h : s.sameRegsBut t dropReg) : t.collector = s.collector := by
  simp only [collector, h rCollId (not_dropReg_of_nwt (by decide)), h rCollH (not_dropReg_of_nwt (by decide)), h rCollL (not_dropReg_of_nwt (by decide))]

/-! ### A connection closes (R422, R431, R438) -/

/-- The connection is gone, with what only it could finish. -/
def dropConn (s : State) (n : Nat) : State :=
  { s with
    conns := Tab.del s.conns n
    assembly := match s.assembly with
      | some a => if a.conn = n then none else some a
      | none => none
    update := s.update.filter (fun u => u.conn != n)
    storeOp := s.storeOp.filter (fun o => o.conn != n) }

/-- A closed connection leaves the table, and what it had not sent counts as lost. -/
def closed (s : State) (n : Nat) (unsent : List Msg) : State := (s.dropConn n).countLost unsent

theorem closed_conns (s : State) (n : Nat) (l : List Msg) : (s.closed n l).conns = Tab.del s.conns n := by
  have h : (s.dropConn n).RegsOnly (s.closed n l) := .countLost (.refl _) l
  rw [h]
  rfl

theorem closed_collector (s : State) (n : Nat) (l : List Msg) : (s.closed n l).collector = s.collector :=
  have hregs : s.sameRegsBut (s.dropConn n) dropReg := fun _ _ => rfl
  collector_of_dropReg (hregs.countLost l)

theorem closeConn_of_find {n : Nat} {c : Conn} (h : Tab.find s.conns n = some c) :
    s.closeConn n = c.terminations.foldl (fun u m => if s.collector.1 = 0 then u else u.sendTo 0 s.collector.1 s.collector.2 m) (s.closed n c.unsent) := by
  simp only [closeConn, h]
  rfl

end State

end Sys2Proof.Machine
end

section
/-! Chapter 12 of the manual: connections open, are refused, and close. -/

namespace Sys2Proof.Machine

namespace State

/-! ### OPEN is answered (R419, R420, R424, R560) -/

section

variable (s : State)

/-- A connection once a block has been sent on it. -/
def sentOn (c : Conn) (m : Msg) : Conn :=
  { c with
    nextSeq := (c.nextSeq + 1) % 2 ^ 32
    pctrOut := c.pctrOut + 1
    sent := c.sent ++ [⟨c.nextSeq, m, 0, false, s.fld rNwtCtrl 39 36⟩]
    since := 0
    echo := false
    last := s.now }

/-- The connection notes a block. -/
def noteSent (c : Conn) (m : Msg) : State := { s with conns := Tab.put s.conns c.mine (s.sentOn c m) }

theorem linkUp_noteSent (c : Conn) (m : Msg) : (s.noteSent c m).linkUp = s.linkUp := linkUp_of_fld rfl

theorem transmit_eq (c : Conn) (m : Msg) : s.transmit c m = (s.noteSent c m).emitUp (s.packetOf c c.nextSeq (c.pctrOut + 1) m) := rfl

theorem transmit_conns (c : Conn) (m : Msg) : (s.transmit c m).conns = Tab.put s.conns c.mine (s.sentOn c m) := by
  rw [transmit_eq, emitUp]
  split <;> rfl

theorem transmit_outbox_of_up (h : s.linkUp = true) (c : Conn) (m : Msg) :
    (s.transmit c m).outbox = s.outbox ++ [s.packetOf c c.nextSeq (c.pctrOut + 1) m] := by
  rw [transmit_eq, emitUp_of_up ((s.linkUp_noteSent c m).trans h)]
  rfl

theorem transmit_outbox_of_down (h : s.linkUp = false) (c : Conn) (m : Msg) : (s.transmit c m).outbox = s.outbox := by
  rw [transmit_eq, emitUp_of_down ((s.linkUp_noteSent c m).trans h)]
  rfl

variable (p : Pkt) (ver cls n i : Nat)

/-- The blocks granted to a peer that opens a connection. -/
def openGrant : Nat := s.firstGrant (min (max 1 i) (s.fld rNwtCtrl 47 40))

/-- The half-open connection of a responder, before it answers. -/
def responder (m : Nat) : Conn :=
  { newConn m n p.src p.addr cls (min s.nwtVersion ver) s.now (s.openGrant i) p.credit (s.fld rNwtCtrl 47 40) ((p.seq + 1) % 2 ^ 32) with
    pctrHigh := p.pctr, pctrSeen := [p.pctr] }

/-- The responder has answered (R419, R420). -/
def peerOpened (m : Nat) : State := (s.takeConn m).transmit (s.responder p ver cls n i m) (.opened 0 (s.openGrant i))

theorem acceptOpen_eq {m : Nat} (h : s.freshConn = (m, s.takeConn m)) : s.acceptOpen p ver cls n i = s.peerOpened p ver cls n i m := by
  rw [acceptOpen, h]
  rfl

theorem peerOpened_conns (m : Nat) : (s.peerOpened p ver cls n i m).conns =
    Tab.put s.conns m ((s.takeConn m).sentOn (s.responder p ver cls n i m) (.opened 0 (s.openGrant i))) := transmit_conns ..

theorem peerOpened_frame (m : Nat) : ∃ conns outbox, s.peerOpened p ver cls n i m = { s.takeConn m with conns := conns, outbox := outbox } :=
  ⟨_, _, SentOnly.transmit (.refl (s.takeConn m)) _ _⟩

/-- OPENACK carries the number, the version and the credit. -/
theorem peerOpened_outbox (m : Nat) :
    (s.linkUp = true → (s.peerOpened p ver cls n i m).outbox = s.outbox ++
      [.openAck p.src p.addr cls n 0 m (min s.nwtVersion ver) (s.openGrant i)
        { (s.takeConn m).envelope (s.responder p ver cls n i m) 0 1 (some (.opened 0 (s.openGrant i))) with ver := 1 }]) ∧
    (s.linkUp = false → (s.peerOpened p ver cls n i m).outbox = s.outbox) := by
  have hlink : (s.takeConn m).linkUp = s.linkUp := linkUp_of_fld rfl
  exact ⟨fun h => transmit_outbox_of_up _ (hlink.trans h) _ _, fun h => transmit_outbox_of_down _ (hlink.trans h) _ _⟩

variable {s p ver cls}

theorem gotOpen_of_dropped {d : Drop} (h : s.checkHead p cls = some d) : s.gotOpen p ver cls n i = s.dropPacket d := by
  simp only [gotOpen, h]

variable (hhead : s.checkHead p cls = none) (hnone : s.connsOf p.src cls = [])

include hhead hnone

theorem gotOpen_of_noVersion (hver : ver + 1 < s.nwtVersion) : s.gotOpen p ver cls n i = s.refuseOpen p cls n 3 := by
  simp only [gotOpen, hhead, hnone, List.find?_nil, hver, if_true]

theorem gotOpen_of_full (hver : s.nwtVersion ≤ ver + 1) (hfull : 65536 ≤ s.conns.length ∨ 4096 ≤ s.halfOpen) :
    s.gotOpen p ver cls n i = s.refuseOpen p cls n 1 := by
  simp only [gotOpen, hhead, hnone, List.find?_nil, Nat.not_lt.2 hver, if_false, List.length_nil, (by decide : ¬ 2 ≤ 0), hfull, if_true]

theorem gotOpen_of_room (hver : s.nwtVersion ≤ ver + 1) (hconns : s.conns.length < 65536) (hhalf : s.halfOpen < 4096) :
    s.gotOpen p ver cls n i = s.acceptOpen p ver cls n i := by
  have hroom : ¬ (65536 ≤ s.conns.length ∨ 4096 ≤ s.halfOpen) := by omega
  simp only [gotOpen, hhead, hnone, List.find?_nil, Nat.not_lt.2 hver, if_false, List.length_nil, (by decide : ¬ 2 ≤ 0), hroom]

end

theorem exec_openConn {p : Pkt} {ver cls n i : Nat} (hwf : Instr.wf (.openConn p ver cls n i) = true) (s : State) :
    exec (.openConn p ver cls n i) s = .next (s.gotOpen p ver cls n i) := by
  show execOpenConn p ver cls n i s = _
  rw [execOpenConn, guardWf_of_wf hwf]

/-! ### OPENACK (R420, R424) -/

section

variable {s : State} {p : Pkt}

/-- A packet that passes the checks of its head is under a key of its class (R417). -/
theorem cls_of_checkHead {cls : Nat} (h : s.checkHead p cls = none) : p.keyId / 2 % 2 = cls := by
  unfold checkHead at h
  split_ifs at h
  omega

theorem exec_openAck_of_checked {st ver n i : Nat} {c : Conn} (hwf : Instr.wf (.openAck p st ver n i) = true) (hhead : s.checkHead p c.cls = none)
    (hconn : s.checkConn p c.cls = .ok c) (htheirs : c.theirs = 0) :
    exec (.openAck p st ver n i) s = .next (
      if st ≠ 0 then (s.accept p 0).loseConn p.conn
      else ((s.accept p 0).updConn p.conn (fun c => { c with
        theirs := n, ver := ver, half := false, credit := max c.credit i, sent := [], rxNext := (p.seq + 1) % 2 ^ 32
        granted := (p.seq + min ((s.accept p 0).fld rNwtCtrl 47 40) (992 - (s.accept p 0).grantedElse p.conn)) % 2 ^ 32 })).drain p.conn) := by
  show execOpenAck p st ver n i s = _
  rw [execOpenAck, guardWf_of_wf hwf]
  simp only [gotOpenAck, cls_of_checkHead hhead, hhead, hconn, htheirs, ne_eq, not_true, if_false]

end

/-! ### HALF_OPEN_TIMEOUT (R420) -/

theorem exec_halfOpenTimeout_of_find {s : State} {n : Nat} {c : Conn} (hn : n < 2 ^ 32) (h : Tab.find s.conns n = some c) :
    exec (.halfOpenTimeout n) s = .next (if c.half then (s.reach (c.opened + 10000000)).loseConn n else s) := by
  have hwf : Instr.wf (.halfOpenTimeout n) = true := decide_eq_true hn
  show execHalfOpenTimeout n s = _
  rw [execHalfOpenTimeout, guardWf_of_wf hwf]
  simp only [h]

/-! ### A refusal (R410, R420, R560) -/

/-- A refusal is counted, but for that of a version. -/
def refusing (s : State) (st : Nat) : State := if st = 3 then s else s.addFld rNwtDrop2 31 16 1

theorem refusing_linkUp (s : State) (st : Nat) : (s.refusing st).linkUp = s.linkUp := by
  refine linkUp_of_fld ?_
  unfold refusing
  split
  · rfl
  · exact fld_setFld_other _ _ _ _ _ _ (by decide)

end State

/-- Settles O33: an OPEN by what the checks and tables leave of it, OPENACK by its status, and a close by the terminations that it sends again. -/
theorem connectionsOpen : Obligations.ConnectionsOpen := by
  unfold Obligations.ConnectionsOpen
  intro s p
  refine ⟨?_, ?_, fun _ => rfl, ?_, ?_⟩
  · intro ver cls n i hwf
    refine ⟨fun d hd => ?_, fun hhead hnone => ⟨fun hver => ?_, fun hver hfull => ?_, fun hver hconns hhalf hused => ?_⟩⟩
    · rw [State.exec_openConn hwf, State.gotOpen_of_dropped n i hd]
    · rw [State.exec_openConn hwf, State.gotOpen_of_noVersion n i hhead hnone hver]
    · rw [State.exec_openConn hwf, State.gotOpen_of_full n i hhead hnone hver hfull]
    · obtain ⟨m, hfresh, hm, hzero⟩ := State.freshConn_eq hused
      have hexec := State.exec_openConn hwf s
      rw [State.gotOpen_of_room n i hhead hnone hver hconns hhalf, State.acceptOpen_eq s p ver cls n i hfresh] at hexec
      have htable := s.peerOpened_conns p ver cls n i m
      obtain ⟨conns, outbox, hframe⟩ := s.peerOpened_frame p ver cls n i m
      obtain ⟨hup, hdown⟩ := s.peerOpened_outbox p ver cls n i m
      refine ⟨_, m, (s.takeConn m).sentOn (s.responder p ver cls n i m) (.opened 0 (s.openGrant i)), hexec, hm, hzero, ?_, ?_, fun j hj => ?_,
        rfl, rfl, rfl, rfl, rfl, rfl, rfl, rfl, rfl, fun h => ⟨_, hup h, rfl, rfl, rfl, rfl, rfl, rfl, rfl, rfl, rfl, rfl⟩, hdown, ?_⟩
      · rw [hframe]
        rfl
      · rw [htable, Tab.find_put_self]
      · rw [htable, Tab.find_put_ne _ _ hj]
      · rw [hframe]
        rfl
  · intro cls n st u
    have hup : u.linkUp = s.linkUp := s.refusing_linkUp st
    exact ⟨fun h => State.emitUp_of_up (hup.trans h) _, fun h => State.emitUp_of_down (hup.trans h) _⟩
  · intro st ver n i c0 c hwf hfind0 hhead hconn hfind htheirs
    have hexec := State.exec_openAck_of_checked hwf hhead hconn htheirs
    refine ⟨fun hst => ?_, fun hst => ?_⟩
    · rw [hexec, if_neg (not_not.2 hst), State.updConn_of_find hfind]
    · rw [hexec, if_pos hst]
  · intro n c hn hfind
    have hexec := State.exec_halfOpenTimeout_of_find hn hfind
    refine ⟨fun hhalf => ?_, fun hhalf => ?_, fun hnone => ?_, fun hcollector => ?_⟩
    · rw [hexec, if_pos hhalf]
    · rw [hexec, if_neg (ne_true_of_eq_false hhalf)]
    · rw [State.closeConn_of_find hfind, hnone, List.foldl_nil, State.closed_conns, Tab.find_del_self]
    · refine ⟨s.closed n c.unsent, ?_, fun j hj => ?_, s.closed_collector n _, ?_⟩
      · rw [State.closed_conns, Tab.find_del_self]
      · rw [State.closed_conns, Tab.find_del_ne _ hj]
      · rw [State.closeConn_of_find hfind]
        simp only [hcollector, if_false]

end Sys2Proof.Machine
end

section
/-! Chapter 10 of the manual: a request of a master that the device does not have, whose wait is counted where the state of a channel stands. -/

namespace Sys2Proof.Machine

/-! ### A faulty channel (R346, R356) -/

theorem State.countAccess_of_faulty {s : State} {a : Nat} {h : Home} (hh : s.homeOf a = some h) (hf : s.chanState h.chan = 5) (wr : Bool) :
    s.countAccess a wr = s := by
  simp only [State.countAccess, hh, hf, if_true]

theorem State.storeWord_of_faulty {s : State} {a : Nat} (hf : s.faultyAt a = true) (bs : List PByte) : s.storeWord a bs = s := if_pos hf

/-- What a discarded write leaves: the request alone is changed, where its core is in no map. -/
theorem State.writeReq_of_faulty {s : State} {r : FabReq} (hf : s.faultyAt r.addr = true) (hc : s.logicalOf r.core = none) :
    s.writeReq r = s.serve r r.data := by
  have hc' : (s.serve r r.data).logicalOf r.core = none := hc
  simp only [State.writeReq, State.storeWord_of_faulty hf, hc']

/-- A write in its pseudo-channel's turn, at a controller that is up (R336, R337). -/
theorem exec_hmcWrite_of_turn {s : State} {id q : Nat} {r : FabReq} (hw : s.waits id .write true = some r) (hq : s.chanAt r.addr = some q)
    (hst : s.chanState q = 2) (ht : s.chanTurn r = true) :
    exec (.hmcWrite id) s = .next (((s.chanGrant r).countAccess r.addr true).writeReq r) := by
  show execHmcWrite id s = _
  rw [execHmcWrite, guardWf_of_wf (show Instr.wf (.hmcWrite id) = true from rfl)]
  simp [hw, hq, hst, ht]

/-! ### The state -/

/-- The number of a master whose FAB_MSTARVE stands where HMC_STAT of channel 0 does. The device's masters end at 135 (R301). -/
def strayMaster : Nat := (rHmcStat 0 - rMstarve 0) / 0x1000

theorem rMstarve_strayMaster : rMstarve strayMaster = rHmcStat 0 := by decide

/-- A write of that master's, of four clear bytes at the start of stacked memory, which channel 0 holds. -/
def strayWrite : FabReq := ⟨0, strayMaster, 0, .write, stackDpa, 4, 0, clean [1, 1, 1, 1], 0, none, false, [], 0⟩

/-- Channel 0 is up, digest region 0 is active on its first MiB, and the write has waited 5 × 2^28 ECLK. -/
def starvedState : State :=
  { ((State.reset.setFld (rHmcStat 0) 63 60 2).setReg (rDgcfg 0) (2 ^ 63 + 1)) with
    clock := ⟨5 * 2 ^ 28, 0, 0⟩
    fab := [strayWrite] }

theorem starvedState_waits : starvedState.waits 0 .write true = some strayWrite ∧ starvedState.chanAt strayWrite.addr = some 0 ∧
    starvedState.keyOf strayWrite.addr = some strayWrite.addr ∧ starvedState.chanState 0 = 2 ∧ starvedState.chanTurn strayWrite = true := by
  decide +kernel

/-- The wait that FAB_MSTARVE keeps makes HMC_STAT.STATE read 5: the channel is faulty. -/
theorem chanGrant_starvedState : (starvedState.chanGrant strayWrite).chanState 0 = 5 ∧
    (starvedState.chanGrant strayWrite).homeOf strayWrite.addr = some ⟨0, 0, 0, 0, 0, 0⟩ ∧ (starvedState.chanGrant strayWrite).logicalOf strayMaster = none := by
  decide +kernel

/-- So the write is neither counted nor stored (R346). -/
theorem exec_hmcWrite_starvedState :
    exec (.hmcWrite 0) starvedState = .next ((starvedState.chanGrant strayWrite).serve strayWrite strayWrite.data) := by
  obtain ⟨hw, hq, -, hst, ht⟩ := starvedState_waits
  obtain ⟨hfaulty, hhome, hcore⟩ := chanGrant_starvedState
  have hat : (starvedState.chanGrant strayWrite).faultyAt strayWrite.addr = true := by
    simp only [State.faultyAt, State.chanAt, hhome, Option.map_some, Option.any_some, State.chanFaulty]
    exact beq_iff_eq.2 hfaulty
  rw [exec_hmcWrite_of_turn hw hq hst ht, State.countAccess_of_faulty hhome hfaulty, State.writeReq_of_faulty hat hcore]

/-- Nothing is counted in HMC_WRW, and no mark of the window is set. -/
theorem served_starvedState : ((starvedState.chanGrant strayWrite).serve strayWrite strayWrite.data).fld (rHmcWrw 0) 63 0 = 0 ∧
    Tab.get ((starvedState.chanGrant strayWrite).serve strayWrite strayWrite.data).win 0 0 = 0 := by
  decide +kernel

/-- Refutes O22 at the clause of a served write: it is not counted in HMC_WRW. The statement, made of every state, bounds a request's core only where HMC_ECC is
read; FAB_MSTARVE of the master of `strayWrite` falls on HMC_STAT, where its wait reads as the state of a faulty channel. -/
theorem not_channelsServe : ¬ Obligations.ChannelsServe := by
  intro h
  obtain ⟨hw, hq, hkey, hst, ht⟩ := starvedState_waits
  obtain ⟨hserve, -⟩ := h
  obtain ⟨-, hwrite, -⟩ := hserve starvedState 0
  obtain ⟨-, -, hserved⟩ := hwrite 0 strayWrite hw hq hkey
  obtain ⟨t, hexec, -, -, -, hcount⟩ := hserved hst ht
  rw [exec_hmcWrite_starvedState, Host.Outcome.next.injEq] at hexec
  rw [← hexec, served_starvedState.1] at hcount
  exact absurd hcount (by decide +kernel)

/-- Refutes O23 at the clause of a write shorter than a word, which should make its region's window partial: in `starvedState` the grant that counts the write's wait
turns the channel faulty, and the write is discarded unseen. -/
theorem not_digestsKept : ¬ Obligations.DigestsKept := by
  intro h
  obtain ⟨hw, hq, -, hst, ht⟩ := starvedState_waits
  obtain ⟨hwrite, -⟩ := h
  obtain ⟨t, hexec, -, -, hwin, -⟩ := hwrite starvedState 0 0 0 strayWrite hw hq hst ht (by decide)
  rw [exec_hmcWrite_starvedState, Host.Outcome.next.injEq] at hexec
  have hpartial := hwin (by decide +kernel)
  rw [← hexec, served_starvedState.2] at hpartial
  exact absurd hpartial (by decide +kernel)

end Sys2Proof.Machine
end

section
/-! SUPPORT. Registers as REG_WRITE reaches them: where an address lands, which write acts, and what the fields of a write leave (14 R503 to R505). -/

namespace Sys2Proof.Machine

/-! ### Addresses (R503, R504) -/

theorem regIndex_of_eq {a base stride n i : Nat} (ha : a = base + stride * i) (hs : 0 < stride) (hi : i < n) : regIndex a base stride n = some i := by
  subst ha
  have hdiv : (base + stride * i - base) / stride = i := by rw [Nat.add_sub_cancel_left, Nat.mul_div_cancel_left _ hs]
  rw [regIndex, if_pos ⟨Nat.le_add_right .., by simp, by omega⟩, hdiv]

theorem regIndex_of_lt {a base stride n : Nat} (h : a < base) : regIndex a base stride n = none := if_neg fun hb => Nat.not_le.2 h hb.1

theorem regIndex_of_mod {a base stride n : Nat} (h : (a - base) % stride ≠ 0) : regIndex a base stride n = none := if_neg fun hb => h hb.2.1

theorem regIndex_of_beyond {a base stride n : Nat} (h : n ≤ (a - base) / stride) : regIndex a base stride n = none :=
  if_neg fun hb => Nat.not_le.2 hb.2.2 h

/-- The register that an address indexes. -/
theorem wregAt_of_index {r : WReg} {a i : Nat} (hr : r ∈ wregs) (hi : i < r.count) (ha : a = r.base + r.stride * i) : wregAt a = some r :=
  wregAt_of_has hr ((WReg.has_iff (wregs_stride_pos r hr)).2 ⟨i, hi, ha⟩)

/-- Every block but CORE_ and ENG_ is kept where it is addressed. -/
theorem State.regKey_of_not_coreReg {a : Nat} (h : coreReg a = false) (u : State) : u.regKey a = some a := by
  simp only [State.regKey, h, Bool.false_eq_true, if_false]

theorem coreReg_of_above {a : Nat} (h : slcB ≤ a) : coreReg a = false := by
  rw [coreReg, Bool.or_eq_false_iff, decide_eq_false_iff_not, decide_eq_false_iff_not]
  unfold slcB at h
  unfold coreB engB
  omega

theorem State.regKey_of_above {a : Nat} (h : slcB ≤ a) (u : State) : u.regKey a = some a := u.regKey_of_not_coreReg (coreReg_of_above h)

/-- ENG_ARITH of a logical core is kept at its physical core. -/
theorem State.regKey_rArith {u : State} {c k : Nat} (hc : c < 128) (hk : u.phys c = some k) : u.regKey (rArith c) = some (rArith k) := by
  have hcore : coreReg (rArith c) = true := by
    rw [coreReg, Bool.or_eq_true, decide_eq_true_iff, decide_eq_true_iff]
    unfold rArith engB
    omega
  have heng : ¬ rArith c < engB := by
    unfold rArith
    omega
  have hindex : (rArith c - engB) / 0x10000 = c := by
    unfold rArith
    omega
  have hoff : (rArith c - engB) % 0x10000 = 0x400 := by
    unfold rArith
    omega
  simp only [State.regKey, hcore, if_true, if_neg heng, hindex, hoff, hk, Option.map_some]
  rw [rArith, Nat.mul_comm]

theorem State.writeRegs_one {u : State} {a x : Nat} (h : u.regKey a = some x) (v : Nat) : u.writeRegs a [v] = u.writeAt x v := by
  simp [State.writeRegs, List.zipIdx, h]

/-! ### The fields of a write (R505) -/

/-- Fields of one register lie in its 64 bits, and share none. -/
def WFld.apart (f g : WFld) : Prop := f.hi < g.lo ∨ g.hi < f.lo

theorem wregs_flds : ∀ r ∈ wregs, (∀ f ∈ r.flds, f.lo ≤ f.hi ∧ f.hi < 64) ∧ r.flds.Pairwise WFld.apart := by
  unfold WFld.apart
  decide

namespace State

variable {σ u : State} {x v : Nat}

theorem writeFld_rw {f : WFld} (hf : f.acc = .rw) : u.writeFld x v f = u.setFld x f.hi f.lo (bits v f.hi f.lo) := by
  simp only [writeFld, hf]

theorem writeFld_leaves (h : σ.RegsOnly u ∧ σ.sameRegsBut u (· = x)) (f : WFld) :
    σ.RegsOnly (u.writeFld x v f) ∧ σ.sameRegsBut (u.writeFld x v f) (· = x) := by
  obtain ⟨honly, hregs⟩ := h
  unfold writeFld
  split
  · exact ⟨honly.setFld _ _ _ _, hregs.setFld_self _ _ _⟩
  · exact ⟨honly.setFld _ _ _ _, hregs.setFld_self _ _ _⟩
  · exact ⟨honly, hregs⟩

/-- A field keeps its value while fields apart from it are written. -/
theorem fld_writeFld_apart {f g : WFld} (h : g.apart f) (hg : g.lo ≤ g.hi ∧ g.hi < 64) (hf : f.hi < 64) :
    (u.writeFld x v g).fld x f.hi f.lo = u.fld x f.hi f.lo := by
  unfold WFld.apart at h
  obtain ⟨hle, h64⟩ := hg
  unfold writeFld
  split
  · exact fld_setFld_ne _ _ _ _ _ _ _ hle hf (by omega)
  · exact fld_setFld_ne _ _ _ _ _ _ _ hle hf (by omega)
  · rfl

theorem foldl_writeFld_leaves (l : List WFld) (h : σ.RegsOnly u ∧ σ.sameRegsBut u (· = x)) :
    σ.RegsOnly (l.foldl (fun s f => s.writeFld x v f) u) ∧ σ.sameRegsBut (l.foldl (fun s f => s.writeFld x v f) u) (· = x) := by
  induction l generalizing u with
  | nil => exact h
  | cons f l ih => exact ih (writeFld_leaves h f)

/-- A write changes its register alone. -/
theorem writeFlds_leaves (u : State) (x v : Nat) : u.RegsOnly (u.writeFlds x v) ∧ u.sameRegsBut (u.writeFlds x v) (· = x) := by
  unfold writeFlds
  split
  · exact foldl_writeFld_leaves _ ⟨.refl u, .refl u _⟩
  · exact ⟨.refl u, .refl u _⟩

theorem fld_foldl_writeFld_apart {f : WFld} (hf : f.hi < 64) {l : List WFld} (hl : ∀ g ∈ l, (g.lo ≤ g.hi ∧ g.hi < 64) ∧ g.apart f) (u : State) :
    (l.foldl (fun s f => s.writeFld x v f) u).fld x f.hi f.lo = u.fld x f.hi f.lo := by
  induction l generalizing u with
  | nil => rfl
  | cons g l ih =>
    obtain ⟨⟨hg, hap⟩, hl⟩ := List.forall_mem_cons.1 hl
    rw [List.foldl_cons, ih hl, fld_writeFld_apart hap hg hf]

theorem fld_foldl_writeFld {f : WFld} (hacc : f.acc = .rw) {l : List WFld} (hf : f ∈ l) (hl : ∀ g ∈ l, g.lo ≤ g.hi ∧ g.hi < 64)
    (hap : l.Pairwise WFld.apart) (u : State) : (l.foldl (fun s f => s.writeFld x v f) u).fld x f.hi f.lo = bits v f.hi f.lo := by
  induction l generalizing u with
  | nil => simp at hf
  | cons g l ih =>
    obtain ⟨⟨hle, h64⟩, hrest⟩ := List.forall_mem_cons.1 hl
    obtain ⟨hgl, hap⟩ := List.pairwise_cons.1 hap
    obtain rfl | hf := List.mem_cons.1 hf
    · have hapart : ∀ e ∈ l, (e.lo ≤ e.hi ∧ e.hi < 64) ∧ e.apart f := fun e he => ⟨hrest e he, (hgl e he).symm⟩
      rw [List.foldl_cons, fld_foldl_writeFld_apart h64 hapart, writeFld_rw hacc, fld_setFld_self _ _ _ _ _ hle h64]
      exact Nat.mod_eq_of_lt (bits_lt ..)
    · rw [List.foldl_cons, ih hf hrest hap]

/-- A field that is both read and written reads what was written. -/
theorem fld_writeFlds {r : WReg} {f : WFld} (hr : wregAt x = some r) (hf : f ∈ r.flds) (hacc : f.acc = .rw) (u : State) (v : Nat) :
    (u.writeFlds x v).fld x f.hi f.lo = bits v f.hi f.lo := by
  obtain ⟨hl, hap⟩ := wregs_flds r (wregAt_eq_some hr).1
  simp only [writeFlds, hr]
  exact fld_foldl_writeFld hacc hf hl hap u

end State

end Sys2Proof.Machine
end

section
/-! Chapters 2, 10, 11, 12, 13 and 15 of the manual: registers whose write acts. -/

namespace Sys2Proof.Machine

namespace State

/-! ### An accepted write of one register (R427, R505) -/

/-- A message that is a REG_WRITE of one register, in its turn and let through, writes it and answers OK. -/
theorem exec_of_askOwn {s : State} {p : Pkt} {r a v : Nat} {i : Instr} (hexec : exec i s = guardWf (Instr.wf i) s fun s => s.receive p 0 false i)
    (hact : ∀ t : State, t.act i = t.askOwn p r a v) (hd : (s.accept p 0).deferred i = false)
    (h : Instr.wf i = true ∧ s.asks p r false false (computeReg a) ∧ (s.asked p r).writeStatus a [v] = stOk) :
    exec i s = .next ((((s.asked p r).writeRegs a [v]).say (asker p r) stOk).settled p false) := by
  obtain ⟨hwf, ⟨hturn, hkept, hgate⟩, hok⟩ := h
  rw [hexec, guardWf_of_wf hwf, receive_of_inTurn hturn false hd, hact, askOwn, askRegWrite, ask_of_open hkept hgate, if_pos hok]

/-! ### Which write acts (R357, R406, R436, R471, R530) -/

variable (u : State) (v : Nat)

theorem writeAt_rCstore : u.writeAt rCstore v = u.writeStore v := if_pos rfl

theorem writeAt_rPtpCtrl : u.writeAt rPtpCtrl v = u.writePtp v := by
  rw [writeAt, if_neg (by decide), if_neg (by decide), if_pos rfl]

theorem writeAt_rFacCtrl : u.writeAt rFacCtrl v = u.writeLeak v := by
  rw [writeAt, if_neg (by decide), if_neg (by decide), if_neg (by decide), if_pos rfl]

/-- The addresses of the registers whose write acts alone. -/
def actsAlone (x : Nat) : Prop := x = rCstore ∨ x = rTherm ∨ x = rPtpCtrl ∨ x = rFacCtrl

variable {u v} {x q n : Nat}

theorem writeAt_of_not_actsAlone (h : ¬ actsAlone x) : u.writeAt x v =
    match regIndex x (rTgctl 0) 0x1000 256, regIndex x (rTalCtrl 0) 0x1000 256, regIndex x (rDgcfg 0) 8 16 with
    | some q, _, _ => u.writeTg q v
    | _, some q, _ => u.writeTal q v
    | _, _, some n => u.writeDigest n v
    | _, _, _ => u.writeFlds x v := by
  unfold actsAlone at h
  push Not at h
  obtain ⟨hstore, htherm, hptp, hfac⟩ := h
  exact (if_neg hstore).trans ((if_neg htherm).trans ((if_neg hptp).trans (if_neg hfac)))

theorem writeAt_rTgctl (hq : q < 256) : u.writeAt (rTgctl q) v = u.writeTg q v := by
  have hself : regIndex (rTgctl q) (rTgctl 0) 0x1000 256 = some q := regIndex_of_eq (by unfold rTgctl; omega) (by decide) hq
  rw [writeAt_of_not_actsAlone (by unfold actsAlone rTgctl rCstore rTherm rPtpCtrl rFacCtrl hmcB mntB hmcGlobB ptpB facB; omega), hself]

theorem writeAt_rTalCtrl (hq : q < 256) : u.writeAt (rTalCtrl q) v = u.writeTal q v := by
  have hself : regIndex (rTalCtrl q) (rTalCtrl 0) 0x1000 256 = some q := regIndex_of_eq (by unfold rTalCtrl; omega) (by decide) hq
  have htg : regIndex (rTalCtrl q) (rTgctl 0) 0x1000 256 = none := regIndex_of_beyond (by unfold rTalCtrl rTgctl talB hmcB; omega)
  rw [writeAt_of_not_actsAlone (by unfold actsAlone rTalCtrl rCstore rTherm rPtpCtrl rFacCtrl talB mntB hmcGlobB ptpB facB; omega), hself, htg]

theorem writeAt_rDgcfg (hn : n < 16) : u.writeAt (rDgcfg n) v = u.writeDigest n v := by
  have hself : regIndex (rDgcfg n) (rDgcfg 0) 8 16 = some n := regIndex_of_eq (by unfold rDgcfg; omega) (by decide) hn
  have htg : regIndex (rDgcfg n) (rTgctl 0) 0x1000 256 = none := regIndex_of_mod (by unfold rDgcfg rTgctl hmcGlobB hmcB; omega)
  have htal : regIndex (rDgcfg n) (rTalCtrl 0) 0x1000 256 = none := regIndex_of_lt (by unfold rDgcfg rTalCtrl hmcGlobB talB; omega)
  rw [writeAt_of_not_actsAlone (by unfold actsAlone rDgcfg rCstore rTherm rPtpCtrl rFacCtrl hmcGlobB mntB ptpB facB; omega), hself, htg, htal]

/-- A register below the channels' acts in no way. -/
theorem writeAt_of_lt (h : x < hmcB) : u.writeAt x v = u.writeFlds x v := by
  unfold hmcB at h
  have htg : regIndex x (rTgctl 0) 0x1000 256 = none := regIndex_of_lt (by unfold rTgctl hmcB; omega)
  have htal : regIndex x (rTalCtrl 0) 0x1000 256 = none := regIndex_of_lt (by unfold rTalCtrl talB; omega)
  have hdg : regIndex x (rDgcfg 0) 8 16 = none := regIndex_of_lt (by unfold rDgcfg hmcGlobB; omega)
  rw [writeAt_of_not_actsAlone (by unfold actsAlone rCstore rTherm rPtpCtrl rFacCtrl mntB hmcGlobB ptpB facB; omega), htg, htal, hdg]

theorem writeAt_rClient : u.writeAt rClient v = u.writeFlds rClient v := by
  have htg : regIndex rClient (rTgctl 0) 0x1000 256 = none := by decide
  have htal : regIndex rClient (rTalCtrl 0) 0x1000 256 = none := by decide
  have hdg : regIndex rClient (rDgcfg 0) 8 16 = none := by decide
  rw [writeAt_of_not_actsAlone (by unfold actsAlone; decide), htg, htal, hdg]

/-! ### STEPNOW (R436) -/

theorem writePtp_of_step (h : bits v 53 53 = 1) : u.writePtp v = (u.writeFlds rPtpCtrl v).stepClock (u.writeFlds rPtpCtrl v).ptpOffset := if_pos h

/-! ### LEAKCLR (R530, R542) -/

theorem writeLeak_of_dry (h : bits v 0 0 = 1) (hdry : u.power.wet = false) : u.writeLeak v = u.setFld rFacStat 15 15 0 :=
  if_pos ⟨h, by rw [hdry]; rfl⟩

theorem writeLeak_of_wet (hwet : u.power.wet = true) : u.writeLeak v = u := by
  rw [writeLeak, if_neg]
  rw [hwet]
  simp

/-! ### Arithmetic flags (R73, R505) -/

theorem wregAt_rArith {k : Nat} (hk : k < 136) : wregAt (rArith k) = some ⟨rArith 0, 136, 0x10000, 0, [⟨7, 0, .w1c, 0, 255⟩]⟩ :=
  wregAt_of_index (by decide) hk (by dsimp only [rArith]; omega)

theorem writeFlds_rArith {k : Nat} (hk : k < 136) : u.writeFlds (rArith k) v =
    u.setFld (rArith k) 7 0 (bits (u.fld (rArith k) 7 0 &&& (2 ^ 64 - 1 - bits v 7 0)) 7 0) := by
  simp only [writeFlds, wregAt_rArith hk, List.foldl_cons, List.foldl_nil, writeFld]

/-- A bit of a field that is set is the value's. -/
theorem testBit_setFld_inside {hi lo w i : Nat} (h : lo ≤ i ∧ i ≤ hi) (hi' : i < 64) : ((u.setFld x hi lo w).reg x).testBit i = w.testBit (i - lo) := by
  rw [setFld, reg_setReg_self, Nat.testBit_mod_two_pow, testBit_setBits _ _ _ _ _ (by omega), if_pos h]
  simp [hi']

/-- A bit of the ones' complement of a field. -/
theorem testBit_complement {b i : Nat} (h : b < 2 ^ 64) (hi : i < 64) : (2 ^ 64 - 1 - b).testBit i = !b.testBit i := by
  rw [Nat.sub_sub, Nat.add_comm 1, Nat.testBit_two_pow_sub_succ h]
  simp [hi]

/-- A flag written 1 is cleared, and any other is kept. -/
theorem testBit_writeFlds_rArith {k i : Nat} (hk : k < 136) (hi : i < 8) :
    ((u.writeFlds (rArith k) v).reg (rArith k)).testBit i = ((u.reg (rArith k)).testBit i && !v.testBit i) := by
  have hv : bits v 7 0 < 2 ^ 64 := Nat.lt_of_lt_of_le (bits_lt ..) (Nat.pow_le_pow_right (by omega) (by omega))
  have hfield : ∀ w, (bits w 7 0).testBit i = w.testBit i := by
    intro w
    rw [bits_testBit]
    simp [hi]
  calc ((u.writeFlds (rArith k) v).reg (rArith k)).testBit i
      = (bits (u.fld (rArith k) 7 0 &&& (2 ^ 64 - 1 - bits v 7 0)) 7 0).testBit i := by
        rw [writeFlds_rArith hk, testBit_setFld_inside (by omega) (by omega), Nat.sub_zero]
    _ = (u.fld (rArith k) 7 0 &&& (2 ^ 64 - 1 - bits v 7 0)).testBit i := hfield _
    _ = ((u.fld (rArith k) 7 0).testBit i && !(bits v 7 0).testBit i) := by rw [Nat.testBit_and, testBit_complement hv (by omega)]
    _ = ((u.reg (rArith k)).testBit i && !v.testBit i) := by rw [fld, hfield, hfield]

/-! ### TAL_CTRL.MODE (R406, R552) -/

/-- The mode that a write asks for waits, as TAL_STAT shows. -/
def talAsked (u : State) (q v : Nat) : State := ({ u with talPend := Tab.put u.talPend q (bits v 1 0) } : State).setFld (rTalStat q) 63 63 1

/-- The unit takes the mode that waits, where no addition is pending. -/
def talTaken (s : State) (q m : Nat) : State :=
  (({ s with talPend := Tab.del s.talPend q } : State).setFld (rTalCtrl q) 1 0 m).setFld (rTalStat q) 63 63 0

theorem applyTalMode_of_idle {s : State} {q m : Nat} (hfind : Tab.find s.talPend q = some m) (hidle : ∀ b ∈ s.tally, b.chan ≠ q) :
    s.applyTalMode q = s.talTaken q m := by
  have hnone : ¬ s.tally.any (fun b => b.chan == q) := by simpa using hidle
  simp only [applyTalMode, hfind, if_neg hnone, talTaken]

theorem writeTal_eq (u : State) (q v : Nat) : u.writeTal q v = (u.talAsked q v).applyTalMode q := by
  unfold writeTal talAsked
  rfl

theorem writeTal_of_idle (h : ∀ b ∈ u.tally, b.chan ≠ q) : u.writeTal q v = (u.talAsked q v).talTaken q (bits v 1 0) := by
  have hfind : Tab.find (u.talAsked q v).talPend q = some (bits v 1 0) := by rw [talAsked, setFld_talPend, Tab.find_put_self]
  have htally : (u.talAsked q v).tally = u.tally := by rw [talAsked, setFld_tally]
  rw [writeTal_eq, applyTalMode_of_idle hfind (by rwa [htally])]

theorem rTalCtrl_ne_rTalStat (q : Nat) : rTalCtrl q ≠ rTalStat q := by
  unfold rTalCtrl rTalStat
  omega

theorem fld_writeTal_of_idle (h : ∀ b ∈ u.tally, b.chan ≠ q) :
    (u.writeTal q v).fld (rTalCtrl q) 1 0 = bits v 1 0 ∧ (u.writeTal q v).fld (rTalStat q) 63 63 = 0 := by
  rw [writeTal_of_idle h, talTaken, fld_setFld_self _ _ _ _ _ (by omega) (by omega), fld_setFld_other _ _ _ _ _ _ (rTalCtrl_ne_rTalStat q),
    fld_setFld_self _ _ _ _ _ (by omega) (by omega)]
  exact ⟨Nat.mod_eq_of_lt (bits_lt ..), rfl⟩

/-! ### HMC_DGCFGn (R357, R552) -/

/-- The accumulators of a region are cleared on the channels of a list. -/
def accCleared (n : Nat) (l : List Nat) (u : State) : State := l.foldl (fun s q => (s.setReg (rDgwacc q n) 0).setReg (rDgsacc q n) 0) u

theorem reg_setReg_zero_of_zero {s : State} {x : Nat} (h : s.reg x = 0) (a : Nat) : (s.setReg a 0).reg x = 0 := by
  by_cases hx : x = a
  · rw [hx, reg_setReg_self, Nat.zero_mod]
  · rw [reg_setReg_ne _ _ hx, h]

theorem reg_accCleared_of_zero {s : State} (h : s.reg x = 0) (l : List Nat) : (s.accCleared n l).reg x = 0 := by
  induction l generalizing s with
  | nil => exact h
  | cons b l ih => exact ih (reg_setReg_zero_of_zero (reg_setReg_zero_of_zero h _) _)

theorem reg_accCleared {l : List Nat} (hq : q ∈ l) (s : State) :
    (s.accCleared n l).reg (rDgwacc q n) = 0 ∧ (s.accCleared n l).reg (rDgsacc q n) = 0 := by
  induction l generalizing s with
  | nil => simp at hq
  | cons b l ih =>
    obtain rfl | hq := List.mem_cons.1 hq
    · have hw : (s.setReg (rDgwacc q n) 0).reg (rDgwacc q n) = 0 := by rw [reg_setReg_self, Nat.zero_mod]
      have hs : ((s.setReg (rDgwacc q n) 0).setReg (rDgsacc q n) 0).reg (rDgsacc q n) = 0 := by rw [reg_setReg_self, Nat.zero_mod]
      exact ⟨reg_accCleared_of_zero (reg_setReg_zero_of_zero hw _) l, reg_accCleared_of_zero hs l⟩
    · exact ih hq _

theorem reg_accCleared_of_ne {l : List Nat} (h : ∀ q ∈ l, x ≠ rDgwacc q n ∧ x ≠ rDgsacc q n) (s : State) : (s.accCleared n l).reg x = s.reg x := by
  induction l generalizing s with
  | nil => rfl
  | cons b l ih =>
    obtain ⟨⟨hw, hs⟩, hl⟩ := List.forall_mem_cons.1 h
    exact (ih hl _).trans ((reg_setReg_ne _ _ hs).trans (reg_setReg_ne _ _ hw))

theorem RegsOnly.accCleared {σ s : State} (h : σ.RegsOnly s) (n : Nat) (l : List Nat) : σ.RegsOnly (s.accCleared n l) :=
  .foldl h (fun _ h => (h.setReg _ _).setReg _ _) l

/-- The region's status is clear, and the window in progress dropped. -/
def regionSet (u : State) (n v : Nat) : State :=
  { (u.writeFlds (rDgcfg n) v).setReg (rDgst n) 0 with win := Tab.del u.win n }

theorem writeDigest_eq (u : State) (n v : Nat) : u.writeDigest n v = (u.regionSet n v).accCleared n (List.range 256) := by
  have hwin : (u.writeFlds (rDgcfg n) v).win = u.win := by rw [(u.writeFlds_leaves (rDgcfg n) v).1]
  rw [regionSet, ← hwin]
  rfl

theorem wregAt_rDgcfg (hn : n < 16) : wregAt (rDgcfg n) =
    some ⟨rDgcfg 0, 16, 8, 0, [⟨63, 63, .rw, 0, 1⟩, ⟨62, 60, .rw, 0, 7⟩, ⟨39, 20, .rw, 0, 2 ^ 20 - 1⟩, ⟨19, 0, .rw, 1, 589824⟩]⟩ :=
  wregAt_of_index (by decide) hn (by dsimp only [rDgcfg])

theorem writeDigest_leaves (u : State) (n v : Nat) : let t := u.writeDigest n v
    t.reg (rDgst n) = 0 ∧ (∀ q < 256, t.reg (rDgwacc q n) = 0 ∧ t.reg (rDgsacc q n) = 0) ∧
      t.reg (rDgcfg n) = (u.writeFlds (rDgcfg n) v).reg (rDgcfg n) ∧ t.mem = u.mem := by
  intro t
  have ht : t = (u.regionSet n v).accCleared n (List.range 256) := u.writeDigest_eq n v
  have hst : (u.regionSet n v).reg (rDgst n) = 0 := reg_setReg_self ..
  have hcfg : (u.regionSet n v).reg (rDgcfg n) = (u.writeFlds (rDgcfg n) v).reg (rDgcfg n) :=
    reg_setReg_ne _ _ (by unfold rDgcfg rDgst; simp)
  have hmem : (u.regionSet n v).mem = u.mem := (u.writeFlds_leaves (rDgcfg n) v).1.mem
  rw [ht, (RegsOnly.accCleared (.refl _) n _).mem, reg_accCleared_of_ne (x := rDgcfg n)]
  · exact ⟨reg_accCleared_of_zero hst _, fun q hq => reg_accCleared (List.mem_range.2 hq) _, hcfg, hmem⟩
  · intro q hq
    have := List.mem_range.1 hq
    unfold rDgcfg rDgwacc rDgsacc hmcGlobB hmcB
    omega

/-! ### HMC_TGCTL (R355, R552) -/

theorem wregAt_rTgctl (hq : q < 256) : wregAt (rTgctl q) = some ⟨rTgctl 0, 256, 0x1000, 0x0080_C00F_C000_47FF,
    [⟨63, 60, .rw, 0, 3⟩, ⟨59, 56, .rw, 0, 3⟩, ⟨55, 48, .rw, 0, 255⟩, ⟨47, 46, .rw, 1, 3⟩, ⟨35, 30, .rw, 0, 63⟩, ⟨14, 0, .rw, 0, 18431⟩]⟩ :=
  wregAt_of_index (by decide) hq (by dsimp only [rTgctl]; omega)

theorem mode_writeFlds_rTgctl (hq : q < 256) : bits ((u.writeFlds (rTgctl q) v).reg (rTgctl q)) 63 60 = bits v 63 60 :=
  fld_writeFlds (f := ⟨63, 60, .rw, 0, 3⟩) (wregAt_rTgctl hq) (by decide) rfl u v

/-- The contents that a generator's run of mode 2 or 3 addresses become undefined. -/
def tgErased (u : State) (q w : Nat) : State :=
  { u with
    free := u.free + 1
    mem := u.mem.lay ⟨stackDpa, stackTop, .chan u.removed q (bits w 47 46) (bits w 35 30) (bits w 14 0), some u.free⟩ }

theorem tgDestroy_of_writing {w : Nat} (h : bits w 63 60 = 2 ∨ bits w 63 60 = 3) : u.tgDestroy q w = u.tgErased q w := if_pos h

theorem tgDestroy_of_reading {w : Nat} (h2 : bits w 63 60 ≠ 2) (h3 : bits w 63 60 ≠ 3) : u.tgDestroy q w = u := if_neg (by omega)

/-- A run is noted on its channel, with HMC_TGSTAT clear. -/
def tgNoted (u : State) (q w : Nat) : State := (u.updChan q (fun c => { c with tg := some w })).setReg (rTgstat q) 0

theorem tg_tgNoted (u : State) (q w : Nat) : ((u.tgNoted q w).chan q).tg = some w := congrArg Chan.tg (Tab.get_put_self ..)

theorem reg_tgNoted (u : State) (q w : Nat) : (u.tgNoted q w).reg (rTgstat q) = 0 := reg_setReg_self ..

theorem removed_of_regs {s t : State} (hmap : t.reg rMap = s.reg rMap) (hrmv : t.reg rRmv = s.reg rRmv) : t.removed = s.removed := by
  simp only [removed, fld, hmap, hrmv]

/-- The channel map stands apart from the generators' registers. -/
theorem removed_tgNoted (hq : q < 256) (w : Nat) : ((u.writeFlds (rTgctl q) v).tgNoted q w).removed = u.removed := by
  obtain ⟨-, hregs⟩ := u.writeFlds_leaves (rTgctl q) v
  have hkept : ∀ x, hmcGlobB ≤ x → ((u.writeFlds (rTgctl q) v).tgNoted q w).reg x = u.reg x := by
    intro x hx
    unfold hmcGlobB at hx
    refine (reg_setReg_ne _ _ (by unfold rTgstat hmcB; omega)).trans (hregs x (by unfold rTgctl hmcB; omega))
  exact removed_of_regs (hkept _ (Nat.le_refl _)) (hkept _ (Nat.le_add_right ..))

theorem writeTg_of_off (hq : q < 256) (h : bits v 63 60 = 0) : u.writeTg q v = u.writeFlds (rTgctl q) v :=
  if_pos ((mode_writeFlds_rTgctl hq).trans h)

theorem writeTg_of_mode (hq : q < 256) (h : bits v 63 60 ≠ 0) : u.writeTg q v =
    ((u.writeFlds (rTgctl q) v).tgNoted q ((u.writeFlds (rTgctl q) v).reg (rTgctl q))).tgDestroy q ((u.writeFlds (rTgctl q) v).reg (rTgctl q)) :=
  if_neg fun h0 => h ((mode_writeFlds_rTgctl hq).symm.trans h0)

/-- What a write of HMC_TGCTL leaves, by the mode that it asks for. -/
theorem writeTg_leaves (hq : q < 256) : let t := u.writeTg q v
    (bits v 63 60 = 0 → t.chans = u.chans ∧ t.mem = u.mem ∧ t.fld (rTgctl q) 63 60 = 0) ∧
      (bits v 63 60 = 1 → (∃ w, (t.chan q).tg = some w ∧ bits w 63 60 = 1) ∧ t.reg (rTgstat q) = 0 ∧ t.mem = u.mem) ∧
      (bits v 63 60 = 2 ∨ bits v 63 60 = 3 → t.reg (rTgstat q) = 0 ∧ ∃ w, (t.chan q).tg = some w ∧ bits w 63 60 = bits v 63 60 ∧
        t.mem = u.mem.lay ⟨stackDpa, stackTop, .chan u.removed q (bits w 47 46) (bits w 35 30) (bits w 14 0), some u.free⟩) := by
  intro t
  obtain ⟨honly, -⟩ := u.writeFlds_leaves (rTgctl q) v
  have hmode := mode_writeFlds_rTgctl (u := u) (v := v) hq
  have hmem : ∀ w, ((u.writeFlds (rTgctl q) v).tgNoted q w).mem = u.mem := fun _ => honly.mem
  have hfree : (u.writeFlds (rTgctl q) v).free = u.free := by rw [honly]
  refine ⟨fun h => ?_, fun h => ?_, fun h => ?_⟩
  · rw [show t = _ from writeTg_of_off hq h]
    exact ⟨by rw [honly], honly.mem, hmode.trans h⟩
  · rw [show t = _ from writeTg_of_mode hq (by omega), tgDestroy_of_reading (by omega) (by omega)]
    exact ⟨⟨_, tg_tgNoted .., hmode.trans h⟩, reg_tgNoted .., hmem _⟩
  · rw [show t = _ from writeTg_of_mode hq (by omega), tgDestroy_of_writing (by omega)]
    refine ⟨reg_tgNoted .., _, tg_tgNoted .., hmode, ?_⟩
    rw [tgErased, removed_tgNoted hq, hmem, ← hfree]
    rfl

end State

/-- Settles O39: each message by the REG_WRITE of one register that it is, and each register by what its write comes to. -/
theorem actingRegisters : Obligations.ActingRegisters := by
  intro s p r v ready done
  refine ⟨State.exec_of_askOwn rfl (fun _ => rfl) rfl, State.exec_of_askOwn rfl (fun _ => rfl) rfl, fun c => State.exec_of_askOwn rfl (fun _ => rfl) rfl,
    fun q => ⟨State.exec_of_askOwn rfl (fun _ => rfl) rfl, State.exec_of_askOwn rfl (fun _ => rfl) rfl, State.exec_of_askOwn rfl (fun _ => rfl) rfl,
      State.exec_of_askOwn rfl (fun _ => rfl) rfl, State.exec_of_askOwn rfl (fun _ => rfl) rfl⟩,
    fun n => State.exec_of_askOwn rfl (fun _ => rfl) rfl, State.exec_of_askOwn rfl (fun _ => rfl) rfl, State.exec_of_askOwn rfl (fun _ => rfl) rfl, fun u => ?_⟩
  have hfac : u.writeRegs rFacCtrl [v] = u.writeLeak v := (State.writeRegs_one (u.regKey_of_above (by decide)) v).trans (u.writeAt_rFacCtrl v)
  refine ⟨fun h => ?_, fun h hdry => ?_, fun hwet => ?_, fun c k hc hphys hk => ?_, fun q hq hidle => ?_, fun n hn => ?_, ?_, fun hv => ?_, fun q hq => ?_⟩
  · rw [State.writeRegs_one (u.regKey_of_above (by decide)), State.writeAt_rPtpCtrl, State.writePtp_of_step h]
    exact ⟨_, rfl, u.writeFlds_leaves rPtpCtrl v⟩
  · rw [hfac, State.writeLeak_of_dry h hdry]
  · rw [hfac, State.writeLeak_of_wet hwet]
  · rw [State.writeRegs_one (State.regKey_rArith hc hphys), State.writeAt_of_lt (by unfold rArith engB hmcB; omega)]
    exact ⟨_, rfl, (u.writeFlds_leaves (rArith k) v).1, fun i hi => State.testBit_writeFlds_rArith hk hi⟩
  · rw [State.writeRegs_one (u.regKey_of_above (by unfold rTalCtrl slcB talB; omega)), State.writeAt_rTalCtrl hq]
    exact State.fld_writeTal_of_idle hidle
  · rw [State.writeRegs_one (u.regKey_of_above (by unfold rDgcfg slcB hmcGlobB; omega)), State.writeAt_rDgcfg hn]
    obtain ⟨hst, hacc, hcfg, hmem⟩ := u.writeDigest_leaves n v
    have hfld : ∀ f ∈ [(⟨63, 63, .rw, 0, 1⟩ : WFld), ⟨62, 60, .rw, 0, 7⟩, ⟨39, 20, .rw, 0, 2 ^ 20 - 1⟩, ⟨19, 0, .rw, 1, 589824⟩], f.acc = .rw →
        (u.writeDigest n v).fld (rDgcfg n) f.hi f.lo = bits v f.hi f.lo := by
      intro f hf hacc
      rw [State.fld, hcfg]
      exact State.fld_writeFlds (State.wregAt_rDgcfg hn) hf hacc u v
    exact ⟨hst, hacc, hfld ⟨63, 63, .rw, 0, 1⟩ (by decide) rfl, hfld ⟨39, 20, .rw, 0, 2 ^ 20 - 1⟩ (by decide) rfl,
      hfld ⟨19, 0, .rw, 1, 589824⟩ (by decide) rfl, hmem⟩
  · rw [State.writeRegs_one (u.regKey_of_above (by decide)), State.writeAt_rCstore]
    have hreg : wregAt rCstore = some ⟨rCstore, 1, 8, 0, [⟨63, 40, .rw, 0, 2 ^ 24 - 1⟩, ⟨39, 16, .rw, 0, 2 ^ 24 - 1⟩]⟩ := by decide
    exact ⟨u.writeFlds rCstore v, State.fld_writeFlds (f := ⟨63, 40, .rw, 0, 2 ^ 24 - 1⟩) hreg (by decide) rfl u v,
      State.fld_writeFlds (f := ⟨39, 16, .rw, 0, 2 ^ 24 - 1⟩) hreg (by decide) rfl u v, (u.writeFlds_leaves rCstore v).1, rfl⟩
  · rw [State.writeRegs_one (u.regKey_of_above (by decide)), State.writeAt_rClient]
    have hreg : wregAt rClient = some ⟨rClient, 1, 8, 0, wWhole⟩ := by decide
    have hfld := State.fld_writeFlds (f := ⟨63, 0, .rw, 0, 2 ^ 64 - 1⟩) hreg (by decide) rfl u v
    have hlt := resetWord_reg_lt (u.writeFlds rClient v) rClient (by decide)
    simp only [State.fld, bits, Nat.pow_zero, Nat.div_one] at hfld
    rwa [Nat.mod_eq_of_lt hlt, Nat.mod_eq_of_lt hv] at hfld
  · rw [State.writeRegs_one (u.regKey_of_above (by unfold rTgctl slcB hmcB; omega)), State.writeAt_rTgctl hq]
    exact State.writeTg_leaves hq

end Sys2Proof.Machine
end

section
/-! SUPPORT. What a boot records in flash, and which registers it shows the bank, the fences and the configuration in (14 R491, R492, R507, R515). -/

namespace Sys2Proof.Machine

/-- Flash as a boot leaves it: the trial's mark, the boots counted, the stored configuration in force. -/
def Flash.booted (f : Flash) : Flash := { f with trial := f.pick.2.1, boots := satN 32 (f.boots + 1), config := f.stored }

/-- The count of boots fits its field. -/
theorem Flash.boots_booted (f : Flash) : f.booted.boots % 2 ^ (31 + 1 - 0) = f.booted.boots := by
  refine Nat.mod_eq_of_lt ?_
  simp only [Flash.booted, satN]
  omega

namespace State

variable {σ s t : State} {a j k : Nat}

/-! ### The stages of a boot (R491, R492, R507) -/

/-- The boot is recorded. -/
def bootNoted (s : State) : State :=
  { s with flash := s.flash.booted, attempt := 0, power := { s.power with histBase := s.flash.lastTime } }

/-- HUB_BOOT shows the cause and the count, and the port is down. -/
def causeShown (s : State) (cause : Nat) : State := ((s.setFld rBoot 47 44 cause).setFld rBoot 31 0 s.flash.boots).setFld rEthStat 63 61 1

/-- HUB_BOOT shows the bank, and whether it is a trial. -/
def trialShown (s : State) (b trial : Bool) : State := ((s.setFld rBoot 63 60 2).setFld rBoot 59 59 (bit b)).setFld rBoot 58 58 (bit trial)

/-- FALLBACK, and the versions of both banks. -/
def versionsShown (s : State) (fallback : Bool) (floor : Nat) : State :=
  let t := (s.setFld rBoot 57 57 (bit fallback)).setFld rFwver 63 32 s.runBank.version
  t.setFld rFwver 31 0 (if t.idleBank.good floor then t.idleBank.version else 0)

/-- A bank boots, or recovery. -/
def bankShown (s : State) (f : Flash) : State :=
  match f.pick.1 with
  | none => s.setFld rBoot 63 60 5
  | some b => (s.trialShown b (f.pick.2.1 == Trial.running)).versionsShown f.pick.2.2 f.svnFloor

/-- The fences that unit history keeps are read, and the configuration is put in force. -/
def settingsShown (s : State) : State := (s.readFences s.coreLasting).applyConfig

theorem boot_eq (s : State) (cause : Nat) : s.boot cause = ((s.bootNoted.causeShown cause).bankShown s.flash).settingsShown := by
  simp only [boot, bootNoted, Flash.booted, bankShown]
  generalize s.flash.pick = p
  obtain ⟨bank, trial, fallback⟩ := p
  cases bank <;> rfl

/-! ### The bank (R491) -/

theorem trialShown_leaves (s : State) (b trial : Bool) : s.RegsOnly (s.trialShown b trial) ∧ s.sameRegsBut (s.trialShown b trial) (· = rBoot) :=
  ⟨(((RegsOnly.refl s).setFld _ _ _ _).setFld _ _ _ _).setFld _ _ _ _, (((sameRegsBut.refl s _).setFld_self _ _ _).setFld_self _ _ _).setFld_self _ _ _⟩

theorem fld_trialShown (s : State) (b trial : Bool) :
    (s.trialShown b trial).fld rBoot 63 60 = 2 ∧ (s.trialShown b trial).fld rBoot 59 59 = bit b ∧
      ∀ hi lo, hi < 58 → (s.trialShown b trial).fld rBoot hi lo = s.fld rBoot hi lo := by
  have hbit : bit b % 2 ^ (59 + 1 - 59) = bit b := by cases b <;> rfl
  refine ⟨?_, ?_, fun hi lo h => ?_⟩
  · rw [trialShown, fld_setFld_ne _ _ _ _ _ _ _ (by omega) (by omega) (by omega), fld_setFld_ne _ _ _ _ _ _ _ (by omega) (by omega) (by omega),
      fld_setFld_self _ _ _ _ _ (by omega) (by omega)]
    rfl
  · rw [trialShown, fld_setFld_ne _ _ _ _ _ _ _ (by omega) (by omega) (by omega), fld_setFld_self _ _ _ _ _ (by omega) (by omega), hbit]
  · rw [trialShown, fld_setFld_ne _ _ _ _ _ _ _ (by omega) (by omega) (by omega), fld_setFld_ne _ _ _ _ _ _ _ (by omega) (by omega) (by omega),
      fld_setFld_ne _ _ _ _ _ _ _ (by omega) (by omega) (by omega)]

/-- The registers of the boot and of the firmware's versions. -/
def bankReg (a : Nat) : Prop := a = rBoot ∨ a = rFwver

theorem versionsShown_leaves (s : State) (fallback : Bool) (floor : Nat) :
    s.RegsOnly (s.versionsShown fallback floor) ∧ s.sameRegsBut (s.versionsShown fallback floor) bankReg :=
  ⟨(((RegsOnly.refl s).setFld _ _ _ _).setFld _ _ _ _).setFld _ _ _ _,
    (((sameRegsBut.refl s bankReg).setFld (.inl rfl) _ _ _).setFld (.inr rfl) _ _ _).setFld (.inr rfl) _ _ _⟩

theorem fld_versionsShown (s : State) (fallback : Bool) (floor : Nat) {hi lo : Nat} (hhi : hi < 64) (h : hi < 57 ∨ 57 < lo) :
    (s.versionsShown fallback floor).fld rBoot hi lo = s.fld rBoot hi lo := by
  have hne : rBoot ≠ rFwver := by decide
  rw [versionsShown, fld_setFld_other _ _ _ _ _ _ hne, fld_setFld_other _ _ _ _ _ _ hne, fld_setFld_ne _ _ _ _ _ _ _ (by omega) hhi h]

theorem bankShown_of_none {f : Flash} (h : f.pick.1 = none) (s : State) : s.bankShown f = s.setFld rBoot 63 60 5 := by
  simp only [bankShown, h]

theorem bankShown_of_some {f : Flash} {b : Bool} (h : f.pick.1 = some b) (s : State) :
    s.bankShown f = (s.trialShown b (f.pick.2.1 == Trial.running)).versionsShown f.pick.2.2 f.svnFloor := by
  simp only [bankShown, h]

theorem bankShown_leaves (s : State) (f : Flash) : s.RegsOnly (s.bankShown f) ∧ s.sameRegsBut (s.bankShown f) bankReg := by
  cases h : f.pick.1 with
  | none =>
    rw [bankShown_of_none h]
    exact ⟨.setFld (.refl s) _ _ _ _, (sameRegsBut.refl s bankReg).setFld (.inl rfl) _ _ _⟩
  | some b =>
    rw [bankShown_of_some h]
    obtain ⟨honly, hregs⟩ := s.trialShown_leaves b (f.pick.2.1 == Trial.running)
    obtain ⟨honly', hregs'⟩ := (s.trialShown b (f.pick.2.1 == Trial.running)).versionsShown_leaves f.pick.2.2 f.svnFloor
    exact ⟨honly.trans honly', .trans (fun x hx => hregs x fun e => hx (.inl e)) hregs'⟩

/-- The cause and the count keep their place. -/
theorem fld_bankShown (s : State) (f : Flash) {hi lo : Nat} (h : hi < 57) : (s.bankShown f).fld rBoot hi lo = s.fld rBoot hi lo := by
  cases hp : f.pick.1 with
  | none => rw [bankShown_of_none hp, fld_setFld_ne _ _ _ _ _ _ _ (by omega) (by omega) (by omega)]
  | some b => rw [bankShown_of_some hp, fld_versionsShown _ _ _ (by omega) (.inl h), (s.fld_trialShown b _).2.2 _ _ (by omega)]

/-! ### Fences (R38, R456, R515) -/

theorem rDsup_inj {d e : Nat} : rDsup d = rDsup e ↔ d = e := by
  unfold rDsup
  omega

/-- One fence bit is set or cleared. -/
theorem fenced_setFld_rDsup (s : State) (k v j : Nat) :
    (s.setFld (rDsup (k / 34)) (k % 34) (k % 34) v).fenced j = if j = k then v % 2 == 1 else s.fenced j := by
  have hk : k % 34 < 34 := Nat.mod_lt _ (by decide)
  have hj : j % 34 < 34 := Nat.mod_lt _ (by decide)
  by_cases hd : j / 34 = k / 34
  · by_cases hb : j % 34 = k % 34
    · have hjk : j = k := by omega
      rw [if_pos hjk, hjk, fenced, fld_setFld_self _ _ _ _ _ (Nat.le_refl _) (by omega), Nat.add_sub_cancel_left, Nat.pow_one]
    · rw [if_neg (fun e => hb (by rw [e])), fenced, hd, fld_setFld_ne _ _ _ _ _ _ _ (Nat.le_refl _) (by omega) (by omega), fenced, hd]
  · rw [if_neg (fun e => hd (by rw [e])), fenced, fld_setFld_other _ _ _ _ _ _ (fun e => hd (rDsup_inj.1 e)), fenced]

/-- The fence bits of a list of cores follow unit history. -/
def fencesRead (s : State) (lasting : Nat → Bool) (l : List Nat) : State :=
  l.foldl (fun s k => s.setFld (rDsup (k / 34)) (k % 34) (k % 34) (bit (lasting k))) s

theorem bit_mod_two (b : Bool) : (bit b % 2 == 1) = b := by cases b <;> rfl

theorem fenced_fencesRead (lasting : Nat → Bool) (l : List Nat) (s : State) (j : Nat) :
    (s.fencesRead lasting l).fenced j = if j ∈ l then lasting j else s.fenced j := by
  induction l generalizing s with
  | nil => rfl
  | cons k l ih =>
    refine (ih _).trans ?_
    rw [fenced_setFld_rDsup, bit_mod_two]
    by_cases hl : j ∈ l
    · rw [if_pos hl, if_pos (List.mem_cons_of_mem _ hl)]
    · by_cases hk : j = k
      · rw [if_neg hl, if_pos hk, if_pos (List.mem_cons.2 (.inl hk)), hk]
      · rw [if_neg hl, if_neg hk, if_neg (by simp [hl, hk])]

/-! ### The settings (R38, R507, R515) -/

/-- The registers of the fences, the count of healthy cores and the module configuration. -/
def settingReg (a : Nat) : Prop := a = rCmapSum ∨ a = rNwtCtrl ∨ a = rEthCtrl ∨ a = rPtpCtrl ∨ ∃ d < 4, a = rDsup d

theorem settingReg_rDsup (hk : k < 136) : settingReg (rDsup (k / 34)) := .inr (.inr (.inr (.inr ⟨k / 34, by omega, rfl⟩)))

theorem fencesRead_leaves (s : State) (lasting : Nat → Bool) :
    s.RegsOnly (s.fencesRead lasting (List.range 136)) ∧ s.sameRegsBut (s.fencesRead lasting (List.range 136)) settingReg :=
  ⟨.foldl (.refl s) (fun _ h => h.setFld _ _ _ _) _,
    (sameRegsBut.refl s _).foldl fun _ hk _ h => h.setFld (settingReg_rDsup (List.mem_range.1 hk)) _ _ _⟩

theorem applyConfig_leaves (h : σ.RegsOnly s) : σ.RegsOnly s.applyConfig :=
  ((((h.setFld _ _ _ _).setFld _ _ _ _).setFld _ _ _ _).setFld _ _ _ _).setFld _ _ _ _

/-- The registers of the module configuration. -/
def configReg (a : Nat) : Prop := a = rNwtCtrl ∨ a = rEthCtrl ∨ a = rPtpCtrl

theorem applyConfig_regs (s : State) : s.sameRegsBut s.applyConfig configReg := by
  have hnwt : configReg rNwtCtrl := .inl rfl
  have heth : configReg rEthCtrl := .inr (.inl rfl)
  have hptp : configReg rPtpCtrl := .inr (.inr rfl)
  exact (((((sameRegsBut.refl s _).setFld hnwt _ _ _).setFld heth _ _ _).setFld heth _ _ _).setFld heth _ _ _).setFld hptp _ _ _

theorem countHealth_regs (s : State) : s.sameRegsBut s.countHealth (· = rCmapSum) := ((sameRegsBut.refl s _).setFld_self _ _ _).setFld_self _ _ _

theorem settingsShown_leaves (s : State) : s.RegsOnly s.settingsShown ∧ s.sameRegsBut s.settingsShown settingReg := by
  obtain ⟨honly, hregs⟩ := s.fencesRead_leaves s.coreLasting
  have hcount : s.sameRegsBut (s.readFences s.coreLasting) settingReg := hregs.trans fun x hx => countHealth_regs _ x fun e => hx (.inl e)
  refine ⟨applyConfig_leaves ((honly.setFld _ _ _ _).setFld _ _ _ _), hcount.trans fun x hx => applyConfig_regs _ x ?_⟩
  rintro (h | h | h)
  · exact hx (.inr (.inl h))
  · exact hx (.inr (.inr (.inl h)))
  · exact hx (.inr (.inr (.inr (.inl h))))

theorem fenced_of_reg (h : t.reg (rDsup (j / 34)) = s.reg (rDsup (j / 34))) : t.fenced j = s.fenced j := by simp only [fenced, fld, h]

/-- A core is lasting by its records and its router alone. -/
theorem coreLasting_of (hu : t.flash.units = s.flash.units) (hr : t.reg (rRtr (k / 34)) = s.reg (rRtr (k / 34))) : t.coreLasting k = s.coreLasting k := by
  simp only [coreLasting, unitRec, fld, hu, hr]

theorem not_settingReg_rRtr (d : Nat) (hd : d < 4) : ¬ settingReg (rRtr d) := by
  unfold settingReg rRtr rCmapSum rNwtCtrl rEthCtrl rPtpCtrl rDsup fabDieB hubB nwtB ethB ptpB dsupB
  omega

/-- Each core is fenced where unit history says so. -/
theorem fenced_settingsShown (s : State) (hk : k < 136) : s.settingsShown.fenced k = s.settingsShown.coreLasting k := by
  obtain ⟨honly, hregs⟩ := s.settingsShown_leaves
  have hlasting : s.settingsShown.coreLasting k = s.coreLasting k :=
    coreLasting_of (by rw [honly]) (hregs _ (not_settingReg_rRtr _ (by omega)))
  have hread : (s.fencesRead s.coreLasting (List.range 136)).fenced k = s.coreLasting k := by
    rw [fenced_fencesRead, if_pos (List.mem_range.2 hk)]
  have hcount : rDsup (k / 34) ≠ rCmapSum := by
    unfold rDsup rCmapSum dsupB hubB
    omega
  have hconfig : ¬ configReg (rDsup (k / 34)) := by
    unfold configReg rNwtCtrl rEthCtrl rPtpCtrl rDsup nwtB ethB ptpB dsupB
    omega
  rw [hlasting, ← hread]
  exact fenced_of_reg ((applyConfig_regs _ _ hconfig).trans (countHealth_regs _ _ hcount))

/-! ### What a boot leaves -/

/-- The registers that a boot writes. -/
def bootReg (a : Nat) : Prop := bankReg a ∨ a = rEthStat ∨ settingReg a

theorem causeShown_leaves (s : State) (cause : Nat) : s.RegsOnly (s.causeShown cause) ∧ s.sameRegsBut (s.causeShown cause) bootReg :=
  ⟨(((RegsOnly.refl s).setFld _ _ _ _).setFld _ _ _ _).setFld _ _ _ _,
    (((sameRegsBut.refl s bootReg).setFld (.inl (.inl rfl)) _ _ _).setFld (.inl (.inl rfl)) _ _ _).setFld (.inr (.inl rfl)) _ _ _⟩

/-- A boot is recorded, and changes these registers alone. -/
theorem boot_leaves (s : State) (cause : Nat) : s.bootNoted.RegsOnly (s.boot cause) ∧ s.sameRegsBut (s.boot cause) bootReg := by
  obtain ⟨hc, hcr⟩ := s.bootNoted.causeShown_leaves cause
  obtain ⟨hb, hbr⟩ := (s.bootNoted.causeShown cause).bankShown_leaves s.flash
  obtain ⟨hs, hsr⟩ := ((s.bootNoted.causeShown cause).bankShown s.flash).settingsShown_leaves
  rw [boot_eq]
  refine ⟨(hc.trans hb).trans hs, fun x hx => ?_⟩
  exact (hsr x fun h => hx (.inr (.inr h))).trans ((hbr x fun h => hx (.inl h)).trans (hcr x hx))

theorem not_settingReg_rBoot : ¬ settingReg rBoot := by
  unfold settingReg rBoot rCmapSum rNwtCtrl rEthCtrl rPtpCtrl rDsup hubB nwtB ethB ptpB dsupB
  omega

theorem not_settingReg_rEthStat : ¬ settingReg rEthStat := by
  unfold settingReg rEthStat rCmapSum rNwtCtrl rEthCtrl rPtpCtrl rDsup hubB nwtB ethB ptpB dsupB
  omega

/-- What HUB_BOOT and the port show after a boot. -/
theorem boot_shows (s : State) {cause : Nat} (hcause : cause < 16) :
    (s.boot cause).fld rBoot 47 44 = cause ∧ (s.boot cause).fld rBoot 31 0 = s.flash.booted.boots ∧ (s.boot cause).fld rEthStat 63 61 = 1 ∧
      (s.flash.pick.1 = none → (s.boot cause).fld rBoot 63 60 = 5) ∧
      (∀ b, s.flash.pick.1 = some b → (s.boot cause).fld rBoot 63 60 = 2 ∧ (s.boot cause).fld rBoot 59 59 = bit b) := by
  obtain ⟨-, hsr⟩ := ((s.bootNoted.causeShown cause).bankShown s.flash).settingsShown_leaves
  obtain ⟨-, hbr⟩ := (s.bootNoted.causeShown cause).bankShown_leaves s.flash
  have hboot : ∀ hi lo, (s.boot cause).fld rBoot hi lo = ((s.bootNoted.causeShown cause).bankShown s.flash).fld rBoot hi lo :=
    fun hi lo => by rw [boot_eq, hsr.fld not_settingReg_rBoot]
  have hne : rBoot ≠ rEthStat := by decide
  refine ⟨?_, ?_, ?_, fun h => ?_, fun b h => ?_⟩
  · rw [hboot, fld_bankShown _ _ (by omega), causeShown, fld_setFld_other _ _ _ _ _ _ hne,
      fld_setFld_ne _ _ _ _ _ _ _ (by omega) (by omega) (by omega), fld_setFld_self _ _ _ _ _ (by omega) (by omega)]
    exact Nat.mod_eq_of_lt (by simpa using hcause)
  · rw [hboot, fld_bankShown _ _ (by omega), causeShown, fld_setFld_other _ _ _ _ _ _ hne, fld_setFld_self _ _ _ _ _ (by omega) (by omega)]
    exact s.flash.boots_booted
  · rw [boot_eq, hsr.fld not_settingReg_rEthStat, hbr.fld (by unfold bankReg; decide), causeShown, fld_setFld_self _ _ _ _ _ (by omega) (by omega)]
    rfl
  · rw [hboot, bankShown_of_none h, fld_setFld_self _ _ _ _ _ (by omega) (by omega)]
    rfl
  · obtain ⟨hstate, hbit, -⟩ := (s.bootNoted.causeShown cause).fld_trialShown b (s.flash.pick.2.1 == Trial.running)
    rw [hboot, hboot, bankShown_of_some h, fld_versionsShown _ _ _ (by omega) (.inr (by omega)), fld_versionsShown _ _ _ (by omega) (.inr (by omega))]
    exact ⟨hstate, hbit⟩

theorem fenced_boot (s : State) (cause : Nat) (hk : k < 136) : (s.boot cause).fenced k = (s.boot cause).coreLasting k := by
  rw [boot_eq, fenced_settingsShown _ hk]

end State

end Sys2Proof.Machine
end

section
/-! Chapters 10, 14 and 15 of the manual: power-on, warm and watchdog resets. -/

namespace Sys2Proof.Machine

namespace State

variable {e s t u : State}

/-! ### A state that a reset has cleared boots (R491, R532) -/

/-- What O46 says of `t`, which has booted after a reset at `e`. -/
def Booted (e t : State) (cause : Nat) : Prop :=
  t.flash = { e.flash with trial := e.flash.pick.2.1, boots := min (e.flash.boots + 1) (2 ^ 32 - 1), config := e.flash.stored } ∧
    t.fld rBoot 47 44 = cause ∧ t.fld rBoot 31 0 = t.flash.boots ∧ t.fld rEthStat 63 61 = 1 ∧
    (e.flash.pick.1 = none → t.fld rBoot 63 60 = 5) ∧ (∀ b, e.flash.pick.1 = some b → t.fld rBoot 63 60 = 2 ∧ t.fld rBoot 59 59 = bit b) ∧
    t.cores = [] ∧ t.parts = [] ∧ t.conns = [] ∧ t.epochs = [] ∧ t.groups = [] ∧ t.kept = [] ∧ t.fab = [] ∧ t.update = none ∧ t.clock = ⟨0, 0, 0⟩ ∧
    t.fld rFacStat 15 15 = e.fld rFacStat 15 15 ∧ t.fld rPwrStat 57 56 = 0 ∧ t.power.histBase = e.flash.lastTime ∧
    (∀ k < 136, t.fenced k = t.coreLasting k) ∧ t.pending = e.pending ∧ t.outbox = e.outbox

/-- A reset at `e` has cleared what waits on cores, partitions and the network, and left flash and the commands that wait. -/
structure Cleared (e u : State) : Prop where
  flash : u.flash = e.flash
  cores : u.cores = []
  parts : u.parts = []
  conns : u.conns = []
  epochs : u.epochs = []
  groups : u.groups = []
  kept : u.kept = []
  fab : u.fab = []
  update : u.update = none
  clock : u.clock = ⟨0, 0, 0⟩
  pending : u.pending = e.pending
  outbox : u.outbox = e.outbox

theorem not_bootReg_rFacStat : ¬ bootReg rFacStat := by
  unfold bootReg bankReg settingReg rFacStat rBoot rFwver rEthStat rCmapSum rNwtCtrl rEthCtrl rPtpCtrl rDsup facB hubB nwtB ethB ptpB dsupB
  omega

theorem not_bootReg_rPwrStat : ¬ bootReg rPwrStat := by
  unfold bootReg bankReg settingReg rPwrStat rBoot rFwver rEthStat rCmapSum rNwtCtrl rEthCtrl rPtpCtrl rDsup pwrB hubB nwtB ethB ptpB dsupB
  omega

theorem booted_of_cleared {cause : Nat} (h : e.Cleared u) (hleak : u.fld rFacStat 15 15 = e.fld rFacStat 15 15)
    (hpwr : u.fld rPwrStat 57 56 = 0) (hcause : cause < 16) : e.Booted (u.boot cause) cause := by
  obtain ⟨honly, hregs⟩ := u.boot_leaves cause
  obtain ⟨hshown, hcount, hport, hrecovery, hbank⟩ := u.boot_shows hcause
  have hfences := fun k hk => u.fenced_boot cause (k := k) hk
  have hfac := hregs.fld not_bootReg_rFacStat 15 15
  have hoff := hregs.fld not_bootReg_rPwrStat 57 56
  generalize u.boot cause = t at *
  rw [h.flash] at hcount hrecovery hbank
  have hbooted : t.flash = e.flash.booted := by
    rw [honly, ← h.flash]
    rfl
  have hbase : t.power.histBase = e.flash.lastTime := by
    rw [honly, ← h.flash]
    rfl
  exact ⟨hbooted, hshown, by rw [hbooted, hcount], hport, hrecovery, hbank, (congrArg State.cores honly).trans h.cores,
    (congrArg State.parts honly).trans h.parts, (congrArg State.conns honly).trans h.conns, (congrArg State.epochs honly).trans h.epochs,
    (congrArg State.groups honly).trans h.groups, (congrArg State.kept honly).trans h.kept, (congrArg State.fab honly).trans h.fab,
    (congrArg State.update honly).trans h.update, (congrArg State.clock honly).trans h.clock, hfac.trans hleak, hoff.trans hpwr, hbase, hfences,
    (congrArg State.pending honly).trans h.pending, (congrArg State.outbox honly).trans h.outbox⟩

/-! ### Power-on reset (R342, R348, R516, R517, R532) -/

/-- The state that a power-on reset boots from: every rail was off, and the rails of the hub are on again. -/
def relit (s : State) : State := { s.dark with power := { s.dark.power with railsOff := false } }

/-- What every rail's loss leaves, before the leak latch is shown. -/
def darkened (s : State) : State :=
  { State.reset with
    pending := s.pending, free := s.free, outbox := s.outbox, flash := s.flash
    power := { Power.reset with railsOff := true, wet := s.power.wet, lockOut := s.power.lockOut } }

theorem dark_eq (s : State) : s.dark = s.darkened.setFld rFacStat 15 15 (s.fld rFacStat 15 15) := rfl

theorem relit_only (s : State) : { s.darkened with power := { s.darkened.power with railsOff := false } }.RegsOnly s.relit :=
  .setFld (.refl _) rFacStat 15 15 (s.fld rFacStat 15 15)

theorem cleared_relit (s : State) : s.Cleared s.relit := by
  constructor <;> rw [s.relit_only] <;> rfl

theorem reg_relit (s : State) (a : Nat) : s.relit.reg a = s.dark.reg a := rfl

theorem reg_darkened (s : State) (a : Nat) : s.darkened.reg a = resetWord a := rfl

theorem reg_relit_of_ne {a : Nat} (h : a ≠ rFacStat) : s.relit.reg a = resetWord a := by
  rw [reg_relit, dark_eq, reg_setFld_ne _ _ _ _ h, reg_darkened]

theorem fld_relit_leak (s : State) : s.relit.fld rFacStat 15 15 = s.fld rFacStat 15 15 := by
  rw [fld, reg_relit, ← fld, dark_eq, fld_setFld_self _ _ _ _ _ (by omega) (by omega)]
  exact Nat.mod_eq_of_lt (bits_lt ..)

theorem fld_relit_rPwrStat (s : State) : s.relit.fld rPwrStat 57 56 = 0 := by
  rw [fld, reg_relit_of_ne (by decide)]
  decide

/-- The failing rows that are repaired leave unit history. -/
def rowsKept (s : State) (un : List Nat) : State :=
  { s with flash := { s.flash with chanRows := s.flash.chanRows.filter (fun r => un.contains r.1) } }

/-- A channel is faulty, and reported. -/
def chanFaulted (s : State) (q : Nat) : State := (s.setFld (rHmcStat q) 63 60 5).unitEvent (unitChan q) evDirect 0

/-- Channels of a list are faulty. -/
def chansFaulted (s : State) (l : List Nat) : State := l.foldl chanFaulted s

/-- The channels that fail training, or keep a failing row. -/
def faultyAtReset (s : State) (l un : List Nat) : List Nat := (l ++ un.filter (fun q => s.flash.chanRows.any (fun r => r.1 == q))).dedup

theorem exec_powerOnReset_of_dark {l un : List Nat} (hwf : Instr.wf (.powerOnReset ⟨l, un⟩) = true)
    (h : s.power.lockOut = true ∨ s.power.railsOff = true ∧ s.power.okIn < 10000) : exec (.powerOnReset ⟨l, un⟩) s = .next s := by
  show execPowerOnReset ⟨l, un⟩ s = _
  rw [execPowerOnReset, guardWf_of_wf hwf, if_pos h]

theorem exec_powerOnReset_of_supplied {l un : List Nat} (hwf : Instr.wf (.powerOnReset ⟨l, un⟩) = true) (hlock : s.power.lockOut = false)
    (h : s.power.railsOff = false ∨ 10000 ≤ s.power.okIn) :
    exec (.powerOnReset ⟨l, un⟩) s = .next (((s.relit.boot 0).rowsKept un).chansFaulted (s.faultyAtReset l un)) := by
  have hgo : ¬ (s.power.lockOut = true ∨ s.power.railsOff = true ∧ s.power.okIn < 10000) := by
    rw [hlock]
    obtain h | h := h
    · simp [h]
    · simp [Nat.not_lt.2 h]
  have hrows : (s.relit.boot 0).flash.chanRows = s.flash.chanRows := by
    rw [(s.relit.boot_leaves 0).1, ← s.cleared_relit.flash]
    rfl
  have hbad : (l ++ (s.relit.boot 0).beyondRepair un).dedup = s.faultyAtReset l un := by rw [beyondRepair, hrows, faultyAtReset]
  show execPowerOnReset ⟨l, un⟩ s = _
  rw [execPowerOnReset, guardWf_of_wf hwf, if_neg hgo, ← hbad]
  rfl

/-! #### Faulty channels (R342, R348) -/

/-- The state registers of the channels. -/
def chanStatReg (a : Nat) : Prop := ∃ q < 256, a = rHmcStat q

theorem chansFaulted_cons (s : State) (q : Nat) (l : List Nat) : s.chansFaulted (q :: l) = (s.chanFaulted q).chansFaulted l := by
  rw [chansFaulted, List.foldl_cons, chansFaulted]

theorem chansFaulted_regs {l : List Nat} (hl : ∀ q ∈ l, q < 256) (s : State) : s.sameRegsBut (s.chansFaulted l) chanStatReg :=
  (sameRegsBut.refl s _).foldl fun q hq _ h => (h.setFld ⟨q, hl q hq, rfl⟩ _ _ _).unitEvent _ _ _

theorem chansFaulted_errors (l : List Nat) (s : State) : s.ErrorsOnly (s.chansFaulted l) :=
  .foldl (.refl s) (fun _ h => (h.setFld _ _ _ _).unitEvent _ _ _) _

theorem mem_chanFaulted (s : State) (q : Nat) : (s.chanFaulted q).mem = s.mem := by
  rw [chanFaulted, unitEvent_mem, setFld_mem]

theorem mem_chansFaulted (l : List Nat) (s : State) : (s.chansFaulted l).mem = s.mem := by
  induction l generalizing s with
  | nil => rfl
  | cons q l ih => rw [chansFaulted_cons, ih, mem_chanFaulted]

theorem power_chansFaulted (l : List Nat) (s : State) : (s.chansFaulted l).power = s.power := by rw [chansFaulted_errors l s]

theorem chanState_chanFaulted (s : State) (x q : Nat) : (s.chanFaulted x).chanState q = if q = x then 5 else s.chanState q := by
  rw [chanState, chanFaulted, fld_unitEvent]
  by_cases hq : q = x
  · rw [hq, fld_setFld_self _ _ _ _ _ (by omega) (by omega), if_pos rfl]
    rfl
  · rw [fld_setFld_other _ _ _ _ _ _ (by unfold rHmcStat; omega), if_neg hq, chanState]

theorem chanState_chansFaulted (l : List Nat) (s : State) (q : Nat) : (s.chansFaulted l).chanState q = if q ∈ l then 5 else s.chanState q := by
  induction l generalizing s with
  | nil => rfl
  | cons x l ih =>
    rw [chansFaulted_cons, ih, chanState_chanFaulted]
    by_cases hl : q ∈ l
    · rw [if_pos hl, if_pos (List.mem_cons_of_mem _ hl)]
    · simp only [List.mem_cons, hl, or_false, if_false]

theorem events_unitEvent (s : State) (u k d : Nat) :
    (s.unitEvent u k d).events.map (fun e => (e.unit, e.kind)) = s.events.map (fun e => (e.unit, e.kind)) ++ [(u, k)] := by
  rw [unitEvent_eq, addEvents, List.map_append, List.map_singleton]

theorem events_chanFaulted (s : State) (q : Nat) :
    (s.chanFaulted q).events.map (fun e => (e.unit, e.kind)) = s.events.map (fun e => (e.unit, e.kind)) ++ [(unitChan q, evDirect)] := by
  rw [chanFaulted, events_unitEvent, setFld_events]

theorem events_chansFaulted (l : List Nat) (s : State) :
    (s.chansFaulted l).events.map (fun e => (e.unit, e.kind)) = s.events.map (fun e => (e.unit, e.kind)) ++ l.map (fun q => (unitChan q, evDirect)) := by
  induction l generalizing s with
  | nil => rw [List.map_nil, List.append_nil, chansFaulted, List.foldl_nil]
  | cons q l ih =>
    rw [chansFaulted_cons, ih, events_chanFaulted, List.append_assoc, List.map_cons, List.singleton_append]

theorem resetWord_rHmcStat : ∀ q < 256, resetWord (rHmcStat q) = 0 := by decide +kernel

theorem not_bootReg_rHmcStat {q : Nat} (hq : q < 256) : ¬ bootReg (rHmcStat q) := by
  unfold bootReg bankReg settingReg rHmcStat rBoot rFwver rEthStat rCmapSum rNwtCtrl rEthCtrl rPtpCtrl rDsup hmcB hubB nwtB ethB ptpB dsupB
  omega

/-- No channel is up after the boot of a power-on reset. -/
theorem chanState_relit {q : Nat} (hq : q < 256) : (s.relit.boot 0).chanState q = 0 := by
  have hne : rHmcStat q ≠ rFacStat := by
    unfold rHmcStat rFacStat hmcB facB
    omega
  obtain ⟨-, hregs⟩ := s.relit.boot_leaves 0
  rw [chanState, hregs.fld (not_bootReg_rHmcStat hq), fld, reg_relit_of_ne hne, resetWord_rHmcStat q hq]
  rfl

/-- Where the state registers of the channels lie. -/
theorem chanStatReg.range {a : Nat} (h : chanStatReg a) : rHmcStat 0 ≤ a ∧ a ≤ rHmcStat 255 := by
  obtain ⟨q, hq, rfl⟩ := h
  unfold rHmcStat
  omega

theorem not_chanStatReg_rDsup {d : Nat} (hd : d < 4) : ¬ chanStatReg (rDsup d) := fun h => by
  have hrange := h.range
  unfold rDsup rHmcStat dsupB hmcB at hrange
  omega

theorem not_chanStatReg_rRtr {d : Nat} (hd : d < 4) : ¬ chanStatReg (rRtr d) := fun h => by
  have hrange := h.range
  unfold rRtr rHmcStat fabDieB hmcB at hrange
  omega

/-- Repairs and faulty channels leave what a boot shows. -/
theorem Booted.repaired {cause : Nat} (h : e.Booted t cause) (un : List Nat) {l : List Nat} (hl : ∀ q ∈ l, q < 256) :
    (e.rowsKept un).Booted ((t.rowsKept un).chansFaulted l) cause := by
  have hregs := (t.rowsKept un).chansFaulted_regs hl
  have hframe := (t.rowsKept un).chansFaulted_errors l
  have hfld : ∀ a, ¬ chanStatReg a → ∀ hi lo, ((t.rowsKept un).chansFaulted l).fld a hi lo = t.fld a hi lo := fun a ha hi lo => hregs.fld ha hi lo
  have hboot := hfld rBoot fun h => absurd h.range (by decide)
  have heth := hfld rEthStat fun h => absurd h.range (by decide)
  have hfac := hfld rFacStat fun h => absurd h.range (by decide)
  have hpwr := hfld rPwrStat fun h => absurd h.range (by decide)
  obtain ⟨hflash, hcause, hcount, hport, hnone, hsome, hcores, hparts, hconns, hepochs, hgroups, hkept, hfab, hupdate, hclock, hleak, hoff, hbase, hfences,
    hpending, hout⟩ := h
  generalize (t.rowsKept un).chansFaulted l = v at *
  have hvflash : v.flash = (t.rowsKept un).flash := by rw [hframe]
  have hbooted : v.flash = (e.rowsKept un).flash.booted := by
    rw [hvflash, rowsKept, hflash]
    rfl
  have hcounted : v.fld rBoot 31 0 = v.flash.boots := by
    rw [hboot, hcount, hvflash]
    rfl
  have hbank : ∀ b, e.flash.pick.1 = some b → v.fld rBoot 63 60 = 2 ∧ v.fld rBoot 59 59 = bit b := by
    rw [hboot, hboot]
    exact hsome
  have hread : ∀ k < 136, v.fenced k = v.coreLasting k := fun k hk => by
    have hfence : v.fenced k = t.fenced k := fenced_of_reg (hregs _ (not_chanStatReg_rDsup (by omega)))
    have hlast : v.coreLasting k = t.coreLasting k := coreLasting_of (by rw [hvflash]; rfl) (hregs _ (not_chanStatReg_rRtr (by omega)))
    rw [hfence, hlast, hfences k hk]
  exact ⟨hbooted, (hboot ..).trans hcause, hcounted, (heth ..).trans hport, fun hp => (hboot ..).trans (hnone hp), hbank,
    (congrArg State.cores hframe).trans hcores, (congrArg State.parts hframe).trans hparts, (congrArg State.conns hframe).trans hconns,
    (congrArg State.epochs hframe).trans hepochs, (congrArg State.groups hframe).trans hgroups, (congrArg State.kept hframe).trans hkept,
    (congrArg State.fab hframe).trans hfab, (congrArg State.update hframe).trans hupdate, (congrArg State.clock hframe).trans hclock,
    (hfac ..).trans hleak, (hpwr ..).trans hoff, (congrArg (fun x => x.power.histBase) hframe).trans hbase, hread,
    (congrArg State.pending hframe).trans hpending, (congrArg State.outbox hframe).trans hout⟩

/-! ### Warm reset (R506, R532) -/

/-- What a warm reset at `e` leaves, before the coolant latches are shown. -/
def warmDark (e : State) : State :=
  { State.reset with
    pending := e.pending, free := e.free, outbox := e.outbox, flash := e.flash, mem := e.mem.zero 0 stackDpa
    chans := e.chans, power := { e.power with stageAt := 0, heldLow := false, throttled := 0, reason := 0 } }

/-- The state that a warm reset at `e` boots from. -/
def warmCleared (e : State) : State := (e.warmDark.setFld rFacStat 15 15 (e.fld rFacStat 15 15)).setFld rFacStat 14 14 (e.fld rFacStat 14 14)

/-- The state in which a warm reset takes its effect: programs have ended, and the channels rest. -/
def atWarmReset (s : State) : State := (s.endPrograms tReset).restChannels

theorem warmReset_eq (s : State) (cause : Nat) : s.warmReset cause = s.atWarmReset.warmCleared.boot cause := by
  unfold warmReset
  rfl

theorem warmCleared_only (e : State) : e.warmDark.RegsOnly e.warmCleared := ((RegsOnly.refl _).setFld _ _ _ _).setFld _ _ _ _

theorem cleared_warmCleared (e : State) : e.Cleared e.warmCleared := by
  constructor <;> rw [e.warmCleared_only] <;> rfl

/-- The coolant latches stay. -/
theorem fld_warmCleared_latches (e : State) :
    e.warmCleared.fld rFacStat 15 15 = e.fld rFacStat 15 15 ∧ e.warmCleared.fld rFacStat 14 14 = e.fld rFacStat 14 14 := by
  refine ⟨?_, ?_⟩
  · rw [warmCleared, fld_setFld_ne _ _ _ _ _ _ _ (by omega) (by omega) (by omega), fld_setFld_self _ _ _ _ _ (by omega) (by omega)]
    exact Nat.mod_eq_of_lt (bits_lt ..)
  · rw [warmCleared, fld_setFld_self _ _ _ _ _ (by omega) (by omega)]
    exact Nat.mod_eq_of_lt (bits_lt ..)

theorem fld_warmCleared_rPwrStat (e : State) : e.warmCleared.fld rPwrStat 57 56 = 0 := by
  have hne : rPwrStat ≠ rFacStat := by decide
  have hreset : e.warmDark.reg rPwrStat = resetWord rPwrStat := rfl
  rw [warmCleared, fld_setFld_other _ _ _ _ _ _ hne, fld_setFld_other _ _ _ _ _ _ hne, fld, hreset]
  decide

theorem groupOf_lt_stackDpa {k : Nat} : groupOf k < stackDpa ↔ k < stackDpa := by
  unfold groupOf Machine.groupSize stackDpa
  split <;> omega

theorem has_below {hi k : Nat} : (⟨0, hi, .all, none⟩ : Area).has k = decide (k < hi) := by simp [Area.has, Sel.has]

/-- What is not stacked memory reads zero, and stacked memory stays (R532). -/
theorem zeroed_below_stack (m : Memory) (k : Nat) :
    (k < stackDpa → (m.zero 0 stackDpa).byte k = 0 ∧ (m.zero 0 stackDpa).bad k = false) ∧
      (stackDpa ≤ k → (m.zero 0 stackDpa).byte k = m.byte k ∧ (m.zero 0 stackDpa).bad k = m.bad k) := by
  have hbad : (m.zero 0 stackDpa).bad k = (m.bad k && !decide (k < stackDpa)) := by
    rw [Memory.zero, Memory.bad_lay, has_below, decide_eq_decide.2 groupOf_lt_stackDpa]
  refine ⟨fun hk => ⟨?_, ?_⟩, fun hk => ⟨?_, ?_⟩⟩
  · exact m.byte_lay_zero _ (by rw [has_below, decide_eq_true hk]) rfl
  · rw [hbad, decide_eq_true hk, Bool.not_true, Bool.and_false]
  · exact m.byte_lay_outside _ (by rw [has_below, decide_eq_false (Nat.not_lt.2 hk)])
  · rw [hbad, decide_eq_false (Nat.not_lt.2 hk), Bool.not_false, Bool.and_true]

theorem booted_warmReset (s : State) {cause : Nat} (hcause : cause < 16) : s.atWarmReset.Booted (s.warmReset cause) cause := by
  rw [warmReset_eq]
  exact booted_of_cleared (cleared_warmCleared _) (fld_warmCleared_latches _).1 (fld_warmCleared_rPwrStat _) hcause

/-- What the boot of a warm reset leaves of the stacks, their channels and the connections. -/
theorem boot_warmCleared_leaves (e : State) (cause : Nat) :
    (e.warmCleared.boot cause).chans = e.chans ∧ (e.warmCleared.boot cause).power.stacksOn = e.power.stacksOn ∧
      (e.warmCleared.boot cause).mem = e.mem.zero 0 stackDpa ∧ (e.warmCleared.boot cause).conns = [] := by
  obtain ⟨honly, -⟩ := e.warmCleared.boot_leaves cause
  have hcleared := e.warmCleared_only
  rw [honly]
  generalize e.warmCleared = u at *
  rw [hcleared]
  exact ⟨rfl, rfl, rfl, rfl⟩

theorem fld_warmReset_rFacStat (s : State) (cause : Nat) : (s.warmReset cause).fld rFacStat 14 14 = s.atWarmReset.fld rFacStat 14 14 := by
  rw [warmReset_eq, (s.atWarmReset.warmCleared.boot_leaves cause).2.fld not_bootReg_rFacStat]
  exact s.atWarmReset.fld_warmCleared_latches.2

theorem conns_warmReset (s : State) (cause : Nat) : (s.warmReset cause).conns = [] := by
  obtain ⟨-, -, -, hconns⟩ := s.atWarmReset.boot_warmCleared_leaves cause
  rw [warmReset_eq, hconns]

/-- With no connection, nothing is acknowledged or sent. -/
theorem settleConn_of_no_conns (h : s.conns = []) (n : Nat) (now : Bool) : s.settleConn n now = s := by
  have hnone : Tab.find s.conns n = none := by rw [h]; rfl
  simp only [settleConn, grantSend, drain, hnone, Option.any_none, Bool.false_eq_true, if_false]

end State

section

variable {s : State} {p : Pkt} {r : Nat}

/-- MAINT 0x0A (R506): the reset comes after the reply. -/
theorem exec_warmReset_of_asks (hwf : Instr.wf (.warmReset p r) = true) (h : s.asks p r false true false) :
    exec (.warmReset p r) s = .next (((s.asked p r).say (asker p r) stOk).warmReset 1) := by
  obtain ⟨hturn, hkept, hgate⟩ := h
  have hact : (s.received p).act (.warmReset p r) = ((s.asked p r).say (asker p r) stOk).warmReset 1 :=
    State.ask_of_open hkept hgate fun k s => (s.say k stOk).warmReset 1
  show execWarmReset p r s = _
  rw [execWarmReset, guardWf_of_wf hwf, State.receive_of_inTurn hturn false rfl, hact, State.settled_false,
    State.settleConn_of_no_conns (State.conns_warmReset _ _)]

theorem exec_trialWatchdog_of_trying (htrial : s.fld rBoot 58 58 = 1) (hready : s.fld rBoot 63 60 ≠ 3) (hshade : s.fld rBoot 63 60 ≠ 6) :
    exec .trialWatchdog s = .next (s.warmReset 2) := by
  have hwf : Instr.wf .trialWatchdog = true := rfl
  show execTrialWatchdog s = _
  rw [execTrialWatchdog, guardWf_of_wf hwf, if_pos ⟨htrial, hready, hshade⟩]

theorem exec_trialWatchdog_of_settled (h : s.fld rBoot 58 58 = 0 ∨ s.fld rBoot 63 60 = 3 ∨ s.fld rBoot 63 60 = 6) : exec .trialWatchdog s = .next s := by
  have hwf : Instr.wf .trialWatchdog = true := rfl
  show execTrialWatchdog s = _
  rw [execTrialWatchdog, guardWf_of_wf hwf, if_neg (by omega)]

end

/-! ### O46 -/

namespace State

/-- Repairs change unit history alone. -/
theorem rowsKept_leaves (s : State) (un : List Nat) :
    (s.rowsKept un).mem = s.mem ∧ (s.rowsKept un).power = s.power ∧ (s.rowsKept un).events = s.events ∧ ∀ q, (s.rowsKept un).chanState q = s.chanState q :=
  ⟨rfl, rfl, rfl, fun _ => rfl⟩

/-- What O46 says of the rest of the state that a power-on reset boots. -/
theorem boot_relit_leaves (s : State) :
    (s.relit.boot 0).mem = Memory.empty ∧ (s.relit.boot 0).power.railsOff = false ∧ (s.relit.boot 0).power.stacksOn = false ∧
      (s.relit.boot 0).power.samples = [] ∧ (s.relit.boot 0).events = [] := by
  obtain ⟨honly, -⟩ := s.relit.boot_leaves 0
  have hrelit := s.relit_only
  generalize s.relit.boot 0 = t at *
  generalize s.relit = u at *
  rw [honly, hrelit]
  exact ⟨rfl, rfl, rfl, rfl, rfl⟩

/-- What O46 says of the rest of the state that a power-on reset leaves. -/
theorem powerOn_leaves (s : State) (un l : List Nat) : let t := ((s.relit.boot 0).rowsKept un).chansFaulted l
    (∀ k, t.mem.byte k = 0 ∧ t.mem.bad k = false) ∧ t.power.railsOff = false ∧ t.power.stacksOn = false ∧ t.power.samples = [] ∧
      (∀ q < 256, t.chanState q = if l.contains q then 5 else 0) ∧ t.events.map (fun e => (e.unit, e.kind)) = l.map (fun q => (unitChan q, evDirect)) := by
  intro t
  obtain ⟨hmem, hrails, hstacks, hsamples, hevents⟩ := s.boot_relit_leaves
  obtain ⟨kmem, kpower, kevents, kstate⟩ := (s.relit.boot 0).rowsKept_leaves un
  have tmem : t.mem = Memory.empty := by rw [mem_chansFaulted, kmem, hmem]
  have tpower : t.power = (s.relit.boot 0).power := by rw [power_chansFaulted, kpower]
  rw [tmem, tpower, events_chansFaulted, kevents, hevents]
  refine ⟨fun k => ⟨Memory.byte_empty k, Memory.bad_empty k⟩, hrails, hstacks, hsamples, fun q hq => ?_, rfl⟩
  rw [chanState_chansFaulted, kstate, chanState_relit hq, List.contains_eq_mem]
  simp only [decide_eq_true_eq]

theorem faultyAtReset_lt {s : State} {l un : List Nat} (hwf : Instr.wf (.powerOnReset ⟨l, un⟩) = true) : ∀ q ∈ s.faultyAtReset l un, q < 256 := by
  have hall : (l ++ un).all (fun q => decide (q < 256)) = true := hwf
  intro q hq
  rw [faultyAtReset, List.mem_dedup, List.mem_append, List.mem_filter] at hq
  have hmem : q ∈ l ++ un := List.mem_append.2 (hq.imp id And.left)
  exact of_decide_eq_true (List.all_eq_true.1 hall q hmem)

/-- A power-on reset leaves a state that has booted. -/
theorem booted_powerOn (s : State) (un : List Nat) {l : List Nat} (hl : ∀ q ∈ l, q < 256) :
    (s.rowsKept un).Booted (((s.relit.boot 0).rowsKept un).chansFaulted l) 0 :=
  (booted_of_cleared s.cleared_relit s.fld_relit_leak s.fld_relit_rPwrStat (by decide)).repaired un hl

end State

/-- Settles O46: each reset boots from a cleared state, and a boot shows what flash holds. -/
theorem resets : Obligations.Resets := by
  unfold Obligations.Resets
  intro s booted
  refine ⟨?_, ?_, fun p r => exec_warmReset_of_asks, exec_trialWatchdog_of_trying, exec_trialWatchdog_of_settled⟩
  · intro l un hwf rows bad
    refine ⟨State.exec_powerOnReset_of_dark hwf, fun hlock hsupply => ?_⟩
    exact ⟨_, State.exec_powerOnReset_of_supplied hwf hlock hsupply, s.booted_powerOn un (State.faultyAtReset_lt hwf), s.powerOn_leaves un _⟩
  · intro cause hcause e
    have he : s.atWarmReset = e := rfl
    have hbooted := s.booted_warmReset hcause
    have hlatch := s.fld_warmReset_rFacStat cause
    obtain ⟨hchans, hstacks, hmem, -⟩ := s.atWarmReset.boot_warmCleared_leaves cause
    rw [← State.warmReset_eq, he] at hchans hstacks hmem
    rw [he] at hbooted hlatch
    clear_value e
    exact ⟨hbooted, hlatch, hchans, hstacks, by rw [hmem]; exact State.zeroed_below_stack e.mem⟩

end Sys2Proof.Machine
end

section
/-! Chapter 11 of the manual: which reduction messages take effect. -/

namespace Sys2Proof.Machine

/-! ### A reduction message in its turn (R361, R382, R495, R526) -/

namespace State

variable {u : State} {m : Msg} {ok : Bool}

theorem reduce_of_recovery (h : u.fld rBoot 63 60 = 5) : u.reduce ok m = u := if_pos h

theorem reduce_of_dark (h : u.fld rBoot 63 60 ≠ 5) (hc : u.computeOn = false) : u.reduce ok m = u.stale := by
  rw [reduce, if_neg h, hc]
  rfl

theorem reduce_of_untrusted (h : u.fld rBoot 63 60 ≠ 5) (hc : u.computeOn = true) (hok : ok = false) : u.reduce ok m = u.addFld rRdrop 15 0 1 := by
  rw [reduce, if_neg h, hc, hok]
  rfl

theorem reduce_of_trusted (h : u.fld rBoot 63 60 ≠ 5) (hc : u.computeOn = true) (hok : ok = true) : u.reduce ok m = (u.gotMsg m).settleRed := by
  rw [reduce, if_neg h, hc, hok]
  rfl

variable {s : State} {p : Pkt} {i : Instr} {bulk : Bool}

/-- A reduction message is received with its packet, is never deferred, and acts by its sender's standing in the group. -/
theorem received_of_reduction (hc : carried i = some (p, 1, bulk)) (hr : u.reduction i = some (m, ok)) :
    exec i s = guardWf (Instr.wf i) s (fun s => s.receive p 1 bulk i) ∧ s.deferred i = false ∧ u.act i = u.reduce ok m := by
  unfold reduction at hr
  split at hr
  case h_13 => cases hr
  all_goals
    cases hc
    cases hr
    exact ⟨rfl, rfl, rfl⟩

theorem exec_of_reduction (hc : carried i = some (p, 1, bulk)) (hr : (s.received p).reduction i = some (m, ok)) (hwf : Instr.wf i = true)
    (hturn : s.inTurn p 1) : exec i s = .next (((s.received p).reduce ok m).settled p bulk) := by
  obtain ⟨hexec, -, hact⟩ := received_of_reduction (s := s) hc hr
  obtain ⟨-, hdef, -⟩ := received_of_reduction (s := s.accept p 0) hc hr
  rw [hexec, guardWf_of_wf hwf, receive_of_inTurn hturn bulk hdef, hact]

/-- A message from the sender that the group table lists has its effect. -/
theorem exec_of_listed (hc : carried i = some (p, 1, bulk)) (hr : (s.received p).reduction i = some (m, ok)) (hwf : Instr.wf i = true)
    (hturn : s.inTurn p 1) (hboot : (s.received p).fld rBoot 63 60 ≠ 5) (hon : (s.received p).computeOn = true) (hok : ok = true) :
    exec i s = .next (((s.received p).gotMsg m).settleRed.settled p bulk) := by
  rw [exec_of_reduction hc hr hwf hturn, reduce_of_trusted hboot hon hok]

/-! ### A message of an epoch that is not the device's current one (R375, R405) -/

section

variable {n : EpName} (h : s.named n = none)

include h

theorem gotRoster_of_unnamed (t : Nat) (lis : Bool) (adm : List Nat) : s.gotRoster n t lis adm = s.stale := by simp only [gotRoster, h]

theorem gotContrib_of_unnamed (k f : Nat) (data : List PByte) :
    s.gotContrib n k f data = s.stale.toRank n.group k (.rack n (s.myRank n.group) 3 false false 0 f) := by simp only [gotContrib, h]

theorem gotRack_of_unnamed (k st : Nat) (a b : Bool) (cred f : Nat) : s.gotRack n k st a b cred f = s.stale := by simp only [gotRack, h]

theorem gotDone_of_unnamed (k : Nat) (a b : Bool) : s.gotDone n k a b = s.stale := by simp only [gotDone, h]

theorem gotAdmit_of_unnamed (t : Nat) (up : Option Nat) (ex : List Nat) : s.gotAdmit n t up ex = s.stale := by simp only [gotAdmit, h]

theorem gotLate_of_unnamed (x : Nat) : s.gotLate n x = s.stale := by simp only [gotLate, h]

theorem gotClose_of_unnamed (o : Nat) (rec1 : List Byte) (inc : List Nat) : s.gotClose n o rec1 inc = s.stale := by simp only [gotClose, h]

theorem gotResult_of_unnamed (k : Nat) (a b c : Bool) (rf f : Nat) (data : List PByte) : s.gotResult n k a b c rf f data = s.stale := by
  simp only [gotResult, h]

theorem gotAbandon_of_unnamed : s.gotAbandon n = s.stale := by simp only [gotAbandon, h]

theorem gotLost_of_unnamed (k : Nat) : s.gotLost n k = s.stale := by simp only [gotLost, h]

end

end State

/-- Settles O52: a message in its turn acts by its sender's standing; each has the effect of its kind, and none finds an epoch under a name that is not current. -/
theorem reductionMessages : Obligations.ReductionMessages := by
  unfold Obligations.ReductionMessages
  refine fun s => ⟨fun i p bulk m ok hc hr hwf hturn => ?_, fun p n hturn hboot hon => ?_, fun n hn k f a b u x c l => ?_⟩
  · intro u
    rw [State.exec_of_reduction hc hr hwf hturn]
    refine ⟨fun hboot => ?_, fun hboot hoff => ?_, fun hboot hon hok => ?_, fun hboot hon hok => ?_⟩
    · rw [State.reduce_of_recovery hboot]
    · rw [State.reduce_of_dark hboot hoff, State.stale]
    · rw [State.reduce_of_untrusted hboot hon hok]
    · rw [State.reduce_of_trusted hboot hon hok]
  · have effect : ∀ {i bulk m ok}, carried i = some (p, 1, bulk) → (s.received p).reduction i = some (m, ok) → Instr.wf i = true → ok = true →
        exec i s = .next (((s.received p).gotMsg m).settleRed.settled p bulk) := fun hc hr hwf => State.exec_of_listed hc hr hwf hturn hboot hon
    exact ⟨fun d t rt => effect (m := .roll n d t rt) rfl rfl, fun d v k => effect (m := .answer n d v k) rfl rfl,
      fun t l adm => effect (m := .roster n t l adm) rfl rfl, fun k f d => effect (m := .contrib n k f d) rfl rfl,
      fun k st a b c f => effect (m := .rack n k st a b c f) rfl rfl, fun k a b => effect (m := .done n k a b) rfl rfl,
      fun t up x => effect (m := .admitRanks n t up x) rfl rfl, fun k d => effect (m := .late n k d) rfl rfl,
      fun o r l => effect (m := .close n o r l) rfl rfl, fun k a b c rf f d => effect (m := .result n k a b c rf f d) rfl rfl,
      fun r => effect (m := .abandon n r) rfl rfl, fun k => effect (m := .lost n k) rfl rfl⟩
  · exact ⟨State.gotRoster_of_unnamed hn _ _ _, State.gotRack_of_unnamed hn _ _ _ _ _ _, State.gotDone_of_unnamed hn _ _ _,
      State.gotAdmit_of_unnamed hn _ _ _, State.gotLate_of_unnamed hn _, State.gotAbandon_of_unnamed hn, State.gotLost_of_unnamed hn _,
      fun _ => State.gotClose_of_unnamed hn _ _ _, fun _ => ⟨State.gotResult_of_unnamed hn _ _ _ _ _ _ _, State.gotContrib_of_unnamed hn _ _ _⟩⟩

end Sys2Proof.Machine
end

section
/-! Chapter 11 of the manual: contributions, their acknowledgements, and DONE. -/

namespace Sys2Proof.Machine

/-! ### Parts of an epoch that has just been set (R375) -/

section

variable {s : State} {ch : Nat} {e : Epoch}

theorem State.updHolder_putEpoch (s : State) (hn : e.name.rch = ch) (f : HolderSide → HolderSide) :
    (s.putEpoch e).updHolder ch f = s.putEpoch { e with holder := f e.holder } := by
  rw [State.updHolder_of_epoch (State.epoch_putEpoch hn)]
  simp only [State.putEpoch, Tab.put_put]

theorem State.updMember_of_epoch (h : s.epoch ch = some e) (f : MemberSide → MemberSide) :
    s.updMember ch f = s.putEpoch { e with member := f e.member } := State.updEpoch_of_epoch h _

theorem State.updMember_putEpoch (s : State) (hn : e.name.rch = ch) (f : MemberSide → MemberSide) :
    (s.putEpoch e).updMember ch f = s.putEpoch { e with member := f e.member } := by
  rw [State.updMember_of_epoch (State.epoch_putEpoch hn)]
  simp only [State.putEpoch, Tab.put_put]

end

/-! ### The staging entry of a block (R396, R397) -/

/-- Some number up to a list's length does not stand in the list. -/
theorem exists_range_notMem (l : List Nat) : ∃ i ∈ List.range (l.length + 1), i ∉ l := by
  have hcard : l.toFinset.card < (Finset.range (l.length + 1)).card := by
    rw [Finset.card_range]
    exact Nat.lt_succ_of_le l.toFinset_card_le
  obtain ⟨i, hi, hl⟩ := Finset.exists_mem_notMem_of_card_lt_card hcard
  exact ⟨i, List.mem_range.2 (Finset.mem_range.1 hi), fun hm => hl (List.mem_toFinset.2 hm)⟩

/-- The entries that the blocks of a partition's epochs take. -/
def State.usedEntries (s : State) (p : Nat) : List Nat :=
  (s.epochs.filter (fun e => e.2.part == p)).flatMap (fun e => e.2.holder.staged.map (·.entry))

theorem State.freeEntry_eq (s : State) (p : Nat) :
    s.freeEntry p = ((List.range ((s.usedEntries p).length + 1)).find? (fun i => !(s.usedEntries p).contains i)).getD 0 := rfl

theorem State.freeEntry_notMem (s : State) (p : Nat) : s.freeEntry p ∉ s.usedEntries p := by
  rw [State.freeEntry_eq]
  rcases hf : (List.range ((s.usedEntries p).length + 1)).find? (fun i => !(s.usedEntries p).contains i) with _ | i
  · obtain ⟨i, hi, hn⟩ := exists_range_notMem (s.usedEntries p)
    exact absurd (List.find?_eq_none.1 hf i hi) (by simpa using hn)
  · simpa using List.find?_some hf

theorem State.mem_usedEntries {s : State} {x : Nat × Epoch} {b : Staged} (hx : x ∈ s.epochs) (hb : b ∈ x.2.holder.staged) :
    b.entry ∈ s.usedEntries x.2.part :=
  List.mem_flatMap.2 ⟨x, List.mem_filter.2 ⟨hx, beq_self_eq_true _⟩, List.mem_map_of_mem hb⟩

/-! ### CONTRIB (R371, R382, R397, R405, R440) -/

/-- The holder's RACK of the block at element `f` to its sender `k` goes out. -/
def State.racked (t : State) (n : EpName) (my k f st : Nat) (a b : Bool) : State := t.toRank n.group k (.rack n my st a b 0 f)

/-- The block's tag is right for the holder, and an entry of its region is free. -/
def Epoch.fits (e : Epoch) (adm : List Nat) (f : Nat) (data : List PByte) : Prop :=
  f ∈ e.desc.shardBlocks e.desc.wireCode adm e.rank ∧ data.length = packedLen e.desc.wireCode (e.desc.blockLen e.desc.wireCode f) ∧
    e.holder.staged.length < e.desc.blocks

/-- A block's bytes in its entry, in whole words; a rank that has been added needs none. -/
def State.entryWritten (s : State) (e : Epoch) (k : Nat) (data : List PByte) : State :=
  if k ∈ e.holder.added then s
  else s.hubWrite (s.entryAt e.part (s.freeEntry e.part)) (data ++ clean (zeroBytes ((64 - data.length % 64) % 64)))

/-- The epoch that has accepted a block, staged in entry `i` unless its rank has been added. -/
def Epoch.accepting (e : Epoch) (k f i : Nat) (nan poison : Bool) : Epoch :=
  { e with holder := { e.holder with
      staged := if k ∈ e.holder.added then e.holder.staged else e.holder.staged ++ [⟨k, f, i, false⟩]
      accepted := e.holder.accepted ++ [⟨k, f, nan, poison⟩] } }

/-- Staging a block and noting it accepted sets the epoch once, over the memory that the block was written to. -/
theorem State.accepted_eq {s : State} {e : Epoch} {d : Desc} (h : s.current e d) (k f : Nat) (data : List PByte) (nan poison : Bool) :
    (if e.holder.added.contains k = true then s
      else (s.hubWrite (s.entryAt e.part (s.freeEntry e.part)) (data ++ clean (zeroBytes ((64 - data.length % 64) % 64)))).updHolder e.name.rch
        (fun x => { x with staged := x.staged ++ [⟨k, f, s.freeEntry e.part, false⟩] })).updHolder e.name.rch
          (fun x => { x with accepted := x.accepted ++ [⟨k, f, nan, poison⟩] }) =
      (s.entryWritten e k data).putEpoch (e.accepting k f (s.freeEntry e.part) nan poison) := by
  unfold State.entryWritten Epoch.accepting
  by_cases hk : k ∈ e.holder.added
  · rw [if_pos (List.contains_iff_mem.2 hk), State.updHolder_of_epoch h.1]
    simp only [if_pos hk]
  · rw [if_neg (mt List.contains_iff_mem.1 hk), State.updHolder_of_epoch ((((StoredOnly.refl s).hubWrite _ _).epoch _).trans h.1),
      State.updHolder_putEpoch _ rfl]
    simp only [if_neg hk]

section

variable {s : State} {e : Epoch} {d : Desc} (h : s.current e d) (k f : Nat) (data : List PByte)

include h

/-- Before its ROSTER, this device holds nothing of the epoch. -/
theorem State.gotContrib_of_unrostered (ha : e.admitted = none) :
    s.gotContrib e.name k f data = s.stale.racked e.name (s.myRank e.name.group) k f 3 false false := by
  simp only [State.gotContrib, h.named, ha]
  rfl

variable {k f} {adm : List Nat} (ha : e.admitted = some adm)

include ha

/-- A duplicate is acknowledged again with the flags of the block accepted. -/
theorem State.gotContrib_of_accepted {x : Accepted} (hx : e.holder.accepted.find? (fun a => a.rank == k && a.first == f) = some x) :
    s.gotContrib e.name k f data = (s.addFld rRdrop 47 32 1).racked e.name (s.myRank e.name.group) k f 0 x.nan x.poison := by
  simp only [State.gotContrib, h.named, ha, hx]
  rfl

variable (hx : e.holder.accepted.find? (fun a => a.rank == k && a.first == f) = none)

include hx

theorem State.gotContrib_of_over (ho : e.holder.ended = true ∨ e.holder.final = true) :
    s.gotContrib e.name k f data = s.stale.racked e.name (s.myRank e.name.group) k f 3 false false := by
  simp only [State.gotContrib, h.named, ha, hx, if_pos ho]
  rfl

variable (ho : ¬ (e.holder.ended = true ∨ e.holder.final = true))

include ho

theorem State.gotContrib_of_outsider (hk : k ∉ adm) :
    s.gotContrib e.name k f data = (s.addFld rRdrop 31 16 1).racked e.name (s.myRank e.name.group) k f 2 false false := by
  have hnot : (!adm.contains k) = true := by simpa using hk
  simp only [State.gotContrib, h.named, ha, hx, if_neg ho, if_pos hnot]
  rfl

variable (hk : k ∈ adm)

include hk

/-- A block whose tag is wrong, or for which no entry is free. -/
theorem State.gotContrib_of_misfit (hn : ¬ e.fits adm f data) :
    s.gotContrib e.name k f data = (s.addFld rRdrop 31 16 1).racked e.name (s.myRank e.name.group) k f 1 false false := by
  have hin : ¬ (!adm.contains k) = true := by simpa using hk
  have hbad : (!(e.desc.shardBlocks e.desc.wireCode adm e.rank).contains f) = true ∨
      data.length ≠ packedLen e.desc.wireCode (e.desc.blockLen e.desc.wireCode f) ∨ e.desc.blocks ≤ e.holder.staged.length := by
    by_contra hall
    simp only [not_or, not_not, Bool.not_eq_true', Bool.not_eq_false, List.contains_iff_mem, Nat.not_le, ne_eq] at hall
    exact hn hall
  simp only [State.gotContrib, h.named, ha, hx, if_neg ho, if_neg hin, if_pos hbad]
  rfl

/-- A block whose tag is right is staged and acknowledged with its flags. -/
theorem State.gotContrib_of_fits (hfit : e.fits adm f data) :
    let code := e.desc.wireCode
    let nan := (unpackElems code (e.desc.blockLen code f) (data.map (·.1))).any (nanWord code)
    let poison := data.any (·.2)
    s.gotContrib e.name k f data =
      (((s.entryWritten e k data).putEpoch (e.accepting k f (s.freeEntry e.part) nan poison)).countStage.racked e.name (s.myRank e.name.group) k f 0 nan
        poison).grantCredit e.name.rch := by
  intro code nan poison
  have hin : ¬ (!adm.contains k) = true := by simpa using hk
  have hgood : ¬ ((!(e.desc.shardBlocks e.desc.wireCode adm e.rank).contains f) = true ∨
      data.length ≠ packedLen e.desc.wireCode (e.desc.blockLen e.desc.wireCode f) ∨ e.desc.blocks ≤ e.holder.staged.length) := by
    obtain ⟨hf, hlen, hroom⟩ := hfit
    simp [hf, hlen, hroom]
  rw [← State.accepted_eq h]
  simp only [State.gotContrib, h.named, ha, hx, if_neg ho, if_neg hin, if_neg hgood]
  rfl

end

/-! ### RACK (R382, R383, R401, R440) -/

/-- The block at element `f` has gone to holder `k` and waits for its acknowledgement, which this RACK is. -/
def MemberSide.hit (m : MemberSide) (k st f : Nat) : Prop := st = 0 ∧ ∃ x ∈ m.blocks, x.first = f ∧ x.holder = k ∧ x.sent = true ∧ x.acked = false

/-- The credit that a holder has granted, with what its RACK adds. -/
def MemberSide.credited (m : MemberSide) (k cred : Nat) : Tab Nat := if cred = 0 then m.cred else Tab.put m.cred k (Tab.get m.cred 0 k + cred)

theorem MemberSide.hit_iff (m : MemberSide) (k st f : Nat) :
    (st == 0 && m.blocks.any (fun b => b.first == f && b.holder == k && b.sent && !b.acked)) = true ↔ m.hit k st f := by
  simp [MemberSide.hit, and_assoc]

section

variable {s : State} {e : Epoch} {d : Desc} (h : s.current e d)

include h

theorem State.gotRack_of_closed (hc : e.closed = true) (k st : Nat) (a b : Bool) (cred f : Nat) : s.gotRack e.name k st a b cred f = s.stale := by
  simp only [State.gotRack, h.named, if_pos hc]

theorem State.gotRack_of_ended (hc : e.closed = false) (hl : (s.part e.part).live = false) (k st : Nat) (a b : Bool) (cred f : Nat) :
    s.gotRack e.name k st a b cred f = s := by
  simp [State.gotRack, h.named, hc, hl]

/-- DONE goes once every block of the tally area is formed and acknowledged. -/
theorem State.checkDone_of_current :
    s.checkDone e.name.rch =
      if e.member.doneSent = false ∧ (∀ x ∈ e.member.blocks, x.acked = true) ∧ e.member.blocks.length = ceilDiv d.elems (perBlock d.wireCode) then
        (s.putEpoch { e with member := { e.member with doneSent := true } }).toRank e.name.group (s.hostRank e.name.group)
          (.done e.name e.rank e.member.nan e.member.poison)
      else s := by
  obtain ⟨he, rfl⟩ := h
  simp only [State.checkDone, he, State.updMember_of_epoch he]
  exact if_congr (by rw [Bool.not_eq_true', List.all_eq_true]) rfl rfl

variable (hc : e.closed = false) (hl : (s.part e.part).live = true) {k st f : Nat}

include hc hl

/-- A block is acknowledged with its flags; its credit lets others go. -/
theorem State.gotRack_of_hit (hh : e.member.hit k st f) (a b : Bool) (cred : Nat) :
    s.gotRack e.name k st a b cred f = ((s.putEpoch { e with member := { e.member with
      cred := e.member.credited k cred
      nan := e.member.nan || a
      poison := e.member.poison || b
      blocks := e.member.blocks.map (fun x => if x.first = f then { x with acked := true } else x) } }).sendBlocks e.name.rch).checkDone e.name.rch := by
  simp only [State.gotRack, h.named, hc, hl, Bool.false_eq_true, Bool.not_true, if_false, State.updMember_of_epoch h.1,
    if_pos ((e.member.hit_iff k st f).2 hh), State.updMember_putEpoch s rfl]
  rfl

/-- Any other RACK of an open epoch gives its credit alone. -/
theorem State.gotRack_of_miss (hh : ¬ e.member.hit k st f) (a b : Bool) (cred : Nat) :
    s.gotRack e.name k st a b cred f =
      ((s.putEpoch { e with member := { e.member with cred := e.member.credited k cred } }).sendBlocks e.name.rch).checkDone e.name.rch := by
  simp only [State.gotRack, h.named, hc, hl, Bool.false_eq_true, Bool.not_true, if_false, State.updMember_of_epoch h.1,
    if_neg (mt (e.member.hit_iff k st f).1 hh)]
  rfl

end

/-! ### DONE (R383, R384, R393) -/

/-- How DONE resolves a rank: excluded where poison, or a NaN that the descriptor excludes, was met. -/
def Desc.resolves (d : Desc) (nan poison : Bool) : Resolved :=
  if poison = true ∨ nan = true ∧ d.exclNan = true ∧ (d.policy = 1 ∨ d.policy = 2) then .excluded else .included

theorem Desc.resolves_eq (d : Desc) (nan poison : Bool) :
    d.resolves nan poison = if (poison || (nan && d.exclNan && (d.policy == 1 || d.policy == 2))) = true then .excluded else .included :=
  if_congr (by simp [and_assoc]) rfl rfl

/-- The host's part with a rank's DONE. -/
def HostSide.noteDone (v : HostSide) (d : Desc) (k : Nat) (nan poison : Bool) : HostSide :=
  { v with resolved := Tab.put v.resolved k (d.resolves nan poison), census := if nan then insertNat k v.census else v.census }

/-- The state that has noted a DONE. -/
def State.doneNoted (s : State) (e : Epoch) (d : Desc) (v : HostSide) (k : Nat) (nan poison : Bool) : State :=
  s.putEpoch { e with host := some (v.noteDone d k nan poison) }

/-- The state that has noted a DONE, and announces the admitted prefix if it has grown. -/
def State.prefixTold (s : State) (e : Epoch) (d : Desc) (v : HostSide) (k : Nat) (nan poison : Bool) : State :=
  if v.announced = admittedPrefix (v.noteDone d k nan poison) v.adm then s.doneNoted e d v k nan poison
  else (s.doneNoted e d v k nan poison).wantAdmit e.name.rch

theorem State.prefixTold_eq (s : State) (e : Epoch) (d : Desc) (v : HostSide) (k : Nat) (nan poison : Bool) :
    let x := v.noteDone d k nan poison
    s.prefixTold e d v k nan poison = if (x.announced != admittedPrefix x x.adm) = true then (s.doneNoted e d v k nan poison).wantAdmit e.name.rch
      else s.doneNoted e d v k nan poison := by
  simp only [State.prefixTold, bne_iff_ne, ne_eq, ite_not]
  rfl

theorem HostSide.find_noteDone_self (v : HostSide) (d : Desc) (k : Nat) (nan poison : Bool) :
    Tab.find (v.noteDone d k nan poison).resolved k = some (d.resolves nan poison) := Tab.find_put_self ..

theorem HostSide.find_noteDone_ne (v : HostSide) (d : Desc) {k j : Nat} (nan poison : Bool) (hj : j ≠ k) :
    Tab.find (v.noteDone d k nan poison).resolved j = Tab.find v.resolved j := Tab.find_put_ne _ _ hj

theorem State.doneNoted_host (s : State) (e : Epoch) (d : Desc) (v : HostSide) (k : Nat) (nan poison : Bool) :
    ((s.doneNoted e d v k nan poison).epoch e.name.rch).bind Epoch.host = some (v.noteDone d k nan poison) :=
  congrArg (Option.bind · Epoch.host) (State.epoch_putEpoch rfl)

/-- Whether the host closes depends on its ranks' resolutions: one unresolved keeps the epoch open. -/
theorem State.checkResolved_of_unresolved {s : State} {ch j : Nat} {x : HostSide} (hx : (s.epoch ch).bind Epoch.host = some x) (hj : j ∈ x.adm)
    (hr : Tab.find x.resolved j = none) : s.checkResolved ch = s := by
  have hall : ¬ (x.rollClosed = true ∧ x.adm.all (fun r => (Tab.find x.resolved r).isSome) = true) := fun hc => by
    have hsome := List.all_eq_true.1 hc.2 j hj
    rw [hr] at hsome
    cases hsome
  simp only [State.checkResolved, hx, if_neg hall]

theorem State.checkResolved_of_resolved {s : State} {ch : Nat} {x : HostSide} (hx : (s.epoch ch).bind Epoch.host = some x) (hc : x.rollClosed = true)
    (hr : ∀ j ∈ x.adm, Tab.find x.resolved j ≠ none) : s.checkResolved ch = s.hostClose ch none := by
  have hall : x.rollClosed = true ∧ x.adm.all (fun r => (Tab.find x.resolved r).isSome) = true :=
    ⟨hc, List.all_eq_true.2 fun j hj => Option.isSome_iff_ne_none.2 (hr j hj)⟩
  simp only [State.checkResolved, hx, if_pos hall]

section

variable {s : State} {e : Epoch} {d : Desc} (h : s.current e d)

include h

theorem State.gotDone_of_noHost (hh : e.host = none) (k : Nat) (a b : Bool) : s.gotDone e.name k a b = s.stale := by
  simp only [State.gotDone, h.named, hh]

variable {v : HostSide} (hh : e.host = some v)

include hh

/-- ADMIT, sent or held back, leaves the host's ranks and their resolutions. -/
theorem State.wantAdmit_leaves :
    ∃ x : HostSide, ((s.wantAdmit e.name.rch).epoch e.name.rch).bind Epoch.host = some x ∧ x.adm = v.adm ∧ x.resolved = v.resolved := by
  rw [State.wantAdmit_of_host h hh, State.sendAdmit_of_host h hh]
  split
  · rw [((ToldOnly.refl _).toRanks _ _ _).epoch]
    exact ⟨_, congrArg (Option.bind · Epoch.host) (State.epoch_putEpoch_self s _), rfl, rfl⟩
  · exact ⟨_, congrArg (Option.bind · Epoch.host) (State.epoch_putEpoch_self s _), rfl, rfl⟩

omit hh in
theorem State.prefixTold_host (v : HostSide) (k : Nat) (a b : Bool) :
    ∃ x : HostSide, ((s.prefixTold e d v k a b).epoch e.name.rch).bind Epoch.host = some x ∧ x.adm = v.adm ∧ x.resolved = (v.noteDone d k a b).resolved := by
  unfold State.prefixTold
  split
  · exact ⟨_, s.doneNoted_host e d v k a b, rfl, rfl⟩
  · exact State.wantAdmit_leaves (e := { e with host := some (v.noteDone d k a b) }) ⟨State.epoch_putEpoch rfl, h.2⟩ rfl

/-- DONE of an epoch that has closed, of a rank not admitted, or a second one. -/
theorem State.gotDone_of_settled {k : Nat} (hn : v.outcome ≠ none ∨ k ∉ v.adm ∨ Tab.find v.resolved k ≠ none) (a b : Bool) :
    s.gotDone e.name k a b = s := by
  have hnot : v.outcome.isSome = true ∨ (!v.adm.contains k) = true ∨ (Tab.find v.resolved k).isSome = true := by
    simpa [Option.isSome_iff_ne_none] using hn
  simp only [State.gotDone, h.named, hh, if_pos hnot]

variable (ho : v.outcome = none) {k : Nat} (hk : k ∈ v.adm) (hr : Tab.find v.resolved k = none) (a b : Bool)

include ho hk hr

/-- The first DONE of an admitted rank is noted; the prefix is announced while another rank is unresolved, and the host closes once none is. -/
theorem State.gotDone_of_first :
    s.gotDone e.name k a b = State.checkResolved (if v.adm.all (fun r => r == k || (Tab.find v.resolved r).isSome) = true then s.doneNoted e d v k a b
      else s.prefixTold e d v k a b) e.name.rch := by
  have hnot : ¬ (v.outcome.isSome = true ∨ (!v.adm.contains k) = true ∨ (Tab.find v.resolved k).isSome = true) := by
    simp [ho, hk, hr]
  obtain ⟨he, rfl⟩ := id h
  have hnoted : s.updHost e.name.rch (fun x => { x with
      resolved := Tab.put x.resolved k (e.desc.resolves a b), census := if a then insertNat k x.census else x.census }) = s.doneNoted e e.desc v k a b :=
    State.updHost_of_host he hh _
  simp only [State.gotDone, h.named, hh, if_neg hnot, ← Desc.resolves_eq, hnoted, s.doneNoted_host, Option.any_some, ← s.prefixTold_eq]

theorem State.gotDone_of_last (hc : v.rollClosed = true) (hall : ∀ j ∈ v.adm, j = k ∨ Tab.find v.resolved j ≠ none) :
    s.gotDone e.name k a b = (s.doneNoted e d v k a b).hostClose e.name.rch none := by
  have hlast : v.adm.all (fun r => r == k || (Tab.find v.resolved r).isSome) = true :=
    List.all_eq_true.2 fun j hj => by simpa [Option.isSome_iff_ne_none] using hall j hj
  rw [State.gotDone_of_first h hh ho hk hr, if_pos hlast]
  refine State.checkResolved_of_resolved (s.doneNoted_host e d v k a b) hc fun j hj => ?_
  by_cases hjk : j = k
  · rw [hjk, HostSide.find_noteDone_self]
    exact Option.some_ne_none _
  · rw [HostSide.find_noteDone_ne v d a b hjk]
    exact (hall j hj).resolve_left hjk

theorem State.gotDone_of_waiting {j : Nat} (hj : j ∈ v.adm) (hjk : j ≠ k) (hjr : Tab.find v.resolved j = none) :
    s.gotDone e.name k a b = s.prefixTold e d v k a b := by
  have hlast : ¬ v.adm.all (fun r => r == k || (Tab.find v.resolved r).isSome) = true := fun hall => by
    simpa [hjk, hjr] using List.all_eq_true.1 hall j hj
  obtain ⟨x, hx, hadm, hres⟩ := State.prefixTold_host h v k a b
  have hopen : Tab.find x.resolved j = none := by rw [hres, HostSide.find_noteDone_ne v d a b hjk, hjr]
  rw [State.gotDone_of_first h hh ho hk hr, if_neg hlast, State.checkResolved_of_unresolved hx (hadm ▸ hj) hopen]

end

/-- Settles O54: each message by its equation on the epoch it names, the entry by what the partition's blocks take, DONE by whether a rank is unresolved. -/
theorem contributions : Obligations.Contributions := by
  unfold Obligations.Contributions
  intro s e d h
  refine ⟨fun k f data => ?_, fun x hx hp b hb => ?_, fun k st a b cred f => ?_, State.checkDone_of_current h, fun k a b => ?_⟩
  · obtain ⟨-, rfl⟩ := id h
    refine ⟨State.gotContrib_of_unrostered h k f data, fun adm ha => ⟨fun x hx => State.gotContrib_of_accepted h data ha hx, fun hx =>
      ⟨State.gotContrib_of_over h data ha hx, fun he hf => ?_, fun he hf hk => ?_, fun he hf hk => ?_⟩⟩⟩
    · exact State.gotContrib_of_outsider h data ha hx (by simp [he, hf])
    · exact State.gotContrib_of_misfit h data ha hx (by simp [he, hf]) hk
    · exact State.gotContrib_of_fits h data ha hx (by simp [he, hf]) hk
  · intro he
    exact s.freeEntry_notMem e.part (he ▸ hp ▸ State.mem_usedEntries hx hb)
  · exact ⟨fun hc => State.gotRack_of_closed h hc k st a b cred f, fun hc hl => State.gotRack_of_ended h hc hl k st a b cred f,
      fun hc hl hh => State.gotRack_of_hit h hc hl hh a b cred, fun hc hl hh => State.gotRack_of_miss h hc hl hh a b cred⟩
  · refine ⟨fun hh => State.gotDone_of_noHost h hh k a b, fun v hh => ⟨fun hn => State.gotDone_of_settled h hh hn a b, fun ho hk hr hc =>
      ⟨State.gotDone_of_last h hh ho hk hr a b hc, ?_⟩⟩⟩
    rintro ⟨j, hj, hjk, hjr⟩
    exact State.gotDone_of_waiting h hh ho hk hr a b hj hjk hjr

end Sys2Proof.Machine
end

section
/-! Chapter 12 of the manual: a message meets the packet's checks, acts in its turn, and its connection settles. -/

namespace Sys2Proof.Machine

namespace State

/-! ### A message arrives (R416 to R419, R524) -/

variable {s : State} {i : Instr} {p : Pkt} {cls : Nat} {bulk : Bool}

/-- The row of every message receives it with its packet. -/
theorem exec_of_carried (h : carried i = some (p, cls, bulk)) (s : State) : exec i s = guardWf (Instr.wf i) s fun s => s.receive p cls bulk i := by
  unfold carried at h
  split at h <;> cases h <;> rfl

theorem exec_of_carried_wf (h : carried i = some (p, cls, bulk)) (hwf : Instr.wf i = true) (s : State) : exec i s = .next (s.receive p cls bulk i) := by
  rw [exec_of_carried h, guardWf_of_wf hwf]

theorem receive_of_dark (h : s.power.railsOff = true) (cls : Nat) (bulk : Bool) (i : Instr) : s.receive p cls bulk i = s := if_pos h

section

variable {d : Drop} (hrails : s.power.railsOff = false)

include hrails

theorem receive_of_badHead (h : s.checkHead p cls = some d) (bulk : Bool) (i : Instr) : s.receive p cls bulk i = s.dropPacket d := by
  simp only [receive, hrails, h, Bool.false_eq_true, if_false]

theorem receive_of_badConn (hhead : s.checkHead p cls = none) (h : s.checkConn p cls = .error d) (bulk : Bool) (i : Instr) :
    s.receive p cls bulk i = s.dropPacket d := by
  simp only [receive, hrails, hhead, h, Bool.false_eq_true, if_false]

end

/-! ### What settling a connection touches (R410, R421, R422, R424) -/

/-- A connection is listed under its own number (R419). -/
def ownNumber (s : State) (n : Nat) : Prop := ∀ c, Tab.find s.conns n = some c → c.mine = n

/-- `t` is `s` but for connections, registers and what was sent; of the registers only HUB_XTRK differs, and of the connections only `n`, where it stands under its own number. -/
structure SettlesOn (s t : State) (n : Nat) : Prop where
  only : t = { s with conns := t.conns, regs := t.regs, outbox := t.outbox }
  regs : s.sameRegsBut t (· = rXtrk)
  conns : s.ownNumber n → t.ownNumber n ∧ ∀ j, j ≠ n → Tab.find t.conns j = Tab.find s.conns j

namespace SettlesOn

variable {t u : State} {n : Nat}

theorem refl (s : State) (n : Nat) : s.SettlesOn s n := ⟨rfl, .refl s _, fun h => ⟨h, fun _ _ => rfl⟩⟩

theorem trans (h : s.SettlesOn t n) (g : t.SettlesOn u n) : s.SettlesOn u n where
  only := by
    rw [g.only, h.only]
  regs := h.regs.trans g.regs
  conns := fun hs =>
    have ⟨ht, hj⟩ := h.conns hs
    have ⟨hu, gj⟩ := g.conns ht
    ⟨hu, fun j hn => (gj j hn).trans (hj j hn)⟩

theorem ite {c : Prop} [Decidable c] (ht : s.SettlesOn t n) (hu : s.SettlesOn u n) : s.SettlesOn (if c then t else u) n := by
  split <;> assumption

/-- The connection is listed anew, under the number it has. -/
theorem put (s : State) {n : Nat} {c : Conn} (hc : s.ownNumber n → c.mine = n) (outbox : List Out) :
    s.SettlesOn { s with conns := Tab.put s.conns n c, outbox := outbox } n where
  only := rfl
  regs := fun _ _ => rfl
  conns := fun h => ⟨fun d hd => by
    rw [Tab.find_put_self, Option.some.injEq] at hd
    exact hd ▸ hc h, fun _ hj => Tab.find_put_ne _ _ hj⟩

theorem updConn (s : State) (n : Nat) {f : Conn → Conn} (hf : ∀ c, (f c).mine = c.mine) : s.SettlesOn (s.updConn n f) n := by
  unfold State.updConn
  split
  · rename_i c hc
    exact put s (fun h => (hf c).trans (h c hc)) _
  · exact refl s n

theorem emit (s : State) (n : Nat) (o : Out) : s.SettlesOn (s.emit o) n := ⟨rfl, fun _ _ => rfl, fun h => ⟨h, fun _ _ => rfl⟩⟩

theorem addXtrk (s : State) (n hi lo v : Nat) : s.SettlesOn (s.addFld rXtrk hi lo v) n :=
  ⟨RegsOnly.addFld (.refl s) _ _ _ _, (sameRegsBut.refl s _).addFld_self hi lo v, fun h => ⟨h, fun _ _ => rfl⟩⟩

theorem grantSend (s : State) (n : Nat) : s.SettlesOn (s.grantSend n) n := by
  unfold State.grantSend
  split
  · exact refl s n
  · refine trans (updConn s n ?_) (addXtrk _ n _ _ _)
    exact fun _ => rfl

theorem sendAck (s : State) (n : Nat) : s.SettlesOn (s.sendAck n) n := by
  unfold State.sendAck
  split
  · exact refl s n
  · refine ite (trans (updConn s n ?_) (emit _ n _)) (refl s n)
    exact fun _ => rfl

/-- A block sent on a connection is noted there. -/
theorem transmit {c : Conn} (h : Tab.find s.conns n = some c) (r : List Msg) (m : Msg) : s.SettlesOn (s.transmit { c with unsent := r } m) n := by
  have hnote : s.SettlesOn (s.noteSent { c with unsent := r } m) n := ⟨rfl, fun _ _ => rfl, fun hs => by
    obtain rfl : c.mine = n := hs c h
    exact (put s (c := s.sentOn { c with unsent := r } m) (fun _ => rfl) s.outbox).conns hs⟩
  rw [transmit_eq]
  exact hnote.trans (ite (emit _ n _) (refl _ n))

theorem drainMsgs (s : State) (n : Nat) (l : List Msg) : s.SettlesOn (s.drainMsgs n l) n := by
  induction l generalizing s with
  | nil => exact refl s n
  | cons m r ih =>
    unfold State.drainMsgs
    split
    · exact refl s n
    · rename_i c hc
      exact ite ((transmit hc r m).trans (ih _)) (refl s n)

theorem drain (s : State) (n : Nat) : s.SettlesOn (s.drain n) n := by
  unfold State.drain
  split
  · exact refl s n
  · exact drainMsgs s n _

theorem settleConn (s : State) (n : Nat) (now : Bool) : s.SettlesOn (s.settleConn n now) n :=
  ((grantSend s n).trans (ite (sendAck _ n) (refl _ n))).trans (drain _ n)

end SettlesOn

end State

/-- Settles O36: a message is received with its packet's checks; in its turn it acts; settling the connection is read step by step. -/
theorem messagesTakeTurn : Obligations.MessagesTakeTurn := by
  unfold Obligations.MessagesTakeTurn
  refine ⟨fun s i p cls bulk hc hwf => ?_, fun s n now => ?_⟩
  · rw [State.exec_of_carried_wf hc hwf]
    refine ⟨fun h => ?_, fun hrails d h => ?_, fun hrails hhead d h => ?_, fun hturn hdef => ?_⟩
    · rw [State.receive_of_dark h]
    · rw [State.receive_of_badHead hrails h]
    · rw [State.receive_of_badConn hrails hhead h]
    · rw [State.receive_of_inTurn hturn bulk hdef]
  · obtain ⟨honly, hregs, hconns⟩ := State.SettlesOn.settleConn s n now
    exact ⟨honly, hregs, fun hown => (hconns hown).2⟩

end Sys2Proof.Machine
end

section
/-! Chapter 12 of the manual: owner requests take effect once, and only where the device's state lets them through. -/

namespace Sys2Proof.Machine

namespace State

/-! ### A request and the one kept (R427) -/

section

variable {s : State} {p : Pkt} {r : Nat}

theorem ask_of_kept {k : Kept} {m : Msg} (h : s.kept.find? (fun k => k.owner == p.src && k.req == r) = some k) (hm : k.reply = some m) (blocked : Bool)
    (f : Asker → State → State) : s.ask p r blocked f = s.sendOn p.conn m := by
  simp only [ask, h, hm]

theorem ask_of_new (h : s.kept.find? (fun k => k.owner == p.src && k.req == r) = none) (blocked : Bool) (f : Asker → State → State) :
    s.ask p r blocked f = if blocked then ({ s with kept := remember s.kept p.src r } : State).say (asker p r) stBusy
      else f (asker p r) { s with kept := remember s.kept p.src r } := by
  simp only [ask, h]
  rfl

theorem find_kept_of_new {l : List Kept} {owner : Nat} (h : ∀ k ∈ l, k.owner ≠ owner ∨ k.req ≠ r) :
    l.find? (fun k => k.owner == owner && k.req == r) = none := by
  rw [List.find?_eq_none]
  intro k hk
  simpa [imp_iff_not_or] using h k hk

end

theorem kept_answer (s : State) (a : Asker) (st : Nat) (late poison : Bool) (data : List Byte) :
    (s.answer a st late poison data).kept = keepReply a.owner a.req (.reply a.req st late poison data) s.kept :=
  (s.answer_sentOnly a st late poison data).kept

theorem answer_frame (s : State) (a : Asker) (st : Nat) (late poison : Bool) (data : List Byte) : let t := s.answer a st late poison data
    t = { s with kept := t.kept, conns := t.conns, outbox := t.outbox } := by
  intro t
  rw [kept_answer]
  exact s.answer_sentOnly a st late poison data

/-! ### Which requests are let through (R494, R495, R526) -/

section

variable {u : State}

theorem gated_of_booting (h : u.fld rBoot 63 60 < 3) (recov compute : Bool) : u.gated false recov compute = true := by
  have hready : u.fld rBoot 63 60 ≠ 5 := by omega
  simp only [gated, hready, h, if_false, decide_true, Bool.not_false, Bool.and_self, Bool.true_or]

theorem gated_of_recovery (h : u.fld rBoot 63 60 = 5) (early compute : Bool) : u.gated early false compute = true := by
  simp only [gated, h, if_true, Bool.not_false]

theorem gated_of_dark (h : u.fld rBoot 63 60 ≠ 5) (hoff : u.computeOn = false) (early recov : Bool) : u.gated early recov true = true := by
  simp only [gated, h, hoff, if_false, Bool.not_false, Bool.and_self, Bool.or_true]

end

variable {s : State} {i : Instr} {p : Pkt} {r : Nat} {bulk : Bool}

/-- Every owner request asks, and is let through before READY and in recovery as R494 and R495 say. -/
theorem act_of_requested (h : requested i = some (p, r)) (u : State) :
    ∃ (compute : Bool) (f : Asker → State → State), u.act i = u.ask p r (u.gated (Machine.early i) (inRecovery i) compute) f := by
  unfold requested at h
  split at h <;> cases h <;>
    dsimp only [act, askRegRead, askRegWrite, askOwn, askMemRead, askMemWrite, askImage, askLoad, askStep, askKill, askGroup, askMaint, askKey, askAlways,
      askWarmReset, askFw, askFwData, Machine.early, inRecovery] <;>
    exact ⟨_, _, rfl⟩

/-- The requests that need a compute die, but for those of registers and LOAD (R526). -/
theorem act_of_needing {a n x : Nat} {d : List Byte} {b : StepB} (h : i ∈ [Instr.memRead p r n a, .memWrite p r a d, .start p r b, .step p r b,
    .runTestPack p r n x, .startMarch p r n true, .startMarch p r n false, .stopMarch p r n, .retrainChannel p r n, .digestSweep p r n]) (u : State) :
    Machine.early i = false ∧ ∃ f : Asker → State → State, u.act i = u.ask p r (u.gated false false true) f := by
  simp only [List.mem_cons, List.not_mem_nil, or_false] at h
  rcases h with rfl | rfl | rfl | rfl | rfl | rfl | rfl | rfl | rfl | rfl <;> dsimp only [act, askMemRead, askMemWrite, askStep, askMaint] <;>
    exact ⟨rfl, _, rfl⟩

/-- Only data of a firmware image waits to be programmed, which the hub takes before READY. -/
theorem deferred_of_late (h : Machine.early i = false) (s : State) : s.deferred i = false := by
  unfold deferred
  split
  · cases h
  · rfl

/-- Only data of a firmware image waits to be programmed, which the hub takes in recovery. -/
theorem deferred_of_not_inRecovery (h : inRecovery i = false) (s : State) : s.deferred i = false := by
  unfold deferred
  split
  · cases h
  · rfl

section

variable (hc : carried i = some (p, 0, bulk)) (hwf : Instr.wf i = true) (hturn : s.inTurn p 0)
  (hnew : ∀ k ∈ (s.received p).kept, k.owner ≠ p.src ∨ k.req ≠ r)

include hc hwf hturn hnew

/-- A new request that is not let through is answered BUSY (R427). -/
theorem exec_of_blocked {blocked : Bool} {f : Asker → State → State} (hdef : (s.accept p 0).deferred i = false)
    (hact : (s.received p).act i = (s.received p).ask p r blocked f) (hb : blocked = true) :
    exec i s = .next (((s.asked p r).say (asker p r) stBusy).settled p bulk) := by
  rw [exec_of_carried_wf hc hwf, receive_of_inTurn hturn bulk hdef, hact, ask_of_new (find_kept_of_new hnew), if_pos hb]
  rfl

theorem exec_of_booting (hr : requested i = some (p, r)) (hboot : (s.received p).fld rBoot 63 60 < 3) (hlate : Machine.early i = false) :
    exec i s = .next (((s.asked p r).say (asker p r) stBusy).settled p bulk) := by
  obtain ⟨compute, f, hact⟩ := act_of_requested hr (s.received p)
  exact exec_of_blocked hc hwf hturn hnew (deferred_of_late hlate _) hact (hlate ▸ gated_of_booting hboot _ _)

theorem exec_of_recovery (hr : requested i = some (p, r)) (hboot : (s.received p).fld rBoot 63 60 = 5) (hout : inRecovery i = false) :
    exec i s = .next (((s.asked p r).say (asker p r) stBusy).settled p bulk) := by
  obtain ⟨compute, f, hact⟩ := act_of_requested hr (s.received p)
  exact exec_of_blocked hc hwf hturn hnew (deferred_of_not_inRecovery hout _) hact (hout ▸ gated_of_recovery hboot _ _)

/-- A request that needs a compute die, with the dies off (R526). -/
theorem exec_of_dark {f : Asker → State → State} (hlate : Machine.early i = false) (hboot : (s.received p).fld rBoot 63 60 ≠ 5)
    (hoff : (s.received p).computeOn = false) (hact : (s.received p).act i = (s.received p).ask p r ((s.received p).gated false false true) f) :
    exec i s = .next (((s.asked p r).say (asker p r) stBusy).settled p bulk) :=
  exec_of_blocked hc hwf hturn hnew (deferred_of_late hlate _) hact (gated_of_dark hboot hoff _ _)

end

theorem exec_computePowerUp_of_recovery {s : State} {b : WakeB} (hwf : Instr.wf (.computePowerUp b) = true) (h : s.fld rBoot 63 60 = 5) :
    exec (.computePowerUp b) s = .next s := by
  have hboot : s.fld rBoot 63 60 ≠ 2 := by omega
  show execComputePowerUp b s = _
  rw [execComputePowerUp, guardWf_of_wf hwf, if_pos (.inl hboot)]

end State

/-- Settles O37: a request by the one kept, and by the gate that its kind meets. -/
theorem requestsOnce : Obligations.RequestsOnce := by
  unfold Obligations.RequestsOnce
  refine ⟨fun s p r early recov compute f => ⟨fun k m hk hm => State.ask_of_kept hk hm _ f, fun hnew => State.ask_of_new hnew _ f,
    fun st late poison data k hk ho hr => ?_, fun st late poison data => s.answer_frame _ _ _ _ _⟩, fun s => ⟨?_, fun hboot b hwf =>
    State.exec_computePowerUp_of_recovery hwf hboot⟩⟩
  · rw [State.kept_answer] at hk
    exact reply_of_mem_keepReply hk ho hr
  · intro i p r bulk hr hc hwf hturn hnew u busy
    refine ⟨State.exec_of_booting hc hwf hturn hnew hr, State.exec_of_recovery hc hwf hturn hnew hr, fun hboot hoff a n d x b hi => ?_,
      fun hboot hfailed hoff n e hi => ?_⟩
    · obtain ⟨hlate, f, hact⟩ := State.act_of_needing hi (s.received p)
      exact State.exec_of_dark hc hwf hturn hnew hlate hboot hoff hact
    · subst hi
      have hact : (s.received p).act (.load p r n e) = (s.received p).askLoad p r n e := rfl
      rw [State.askLoad, (bne_iff_ne.2 hfailed : ((s.received p).fld rBoot 63 60 != 4) = true)] at hact
      exact State.exec_of_dark hc hwf hturn hnew rfl hboot hoff hact

end Sys2Proof.Machine
end

section
/-! Chapter 12 of the manual: acknowledgements, holes, resends, and connections that are dead. -/

namespace Sys2Proof.Machine

namespace State

/-! ### ACK (R415, R421, R422, R424, R426) -/

section

variable {s : State} {p : Pkt} {b cls n : Nat} {c : Conn}

theorem find_of_checkConn (h : s.checkConn p cls = .ok c) : Tab.find s.conns p.conn = some c := by
  unfold checkConn at h
  split at h
  · cases h
  · rename_i d hd
    split_ifs at h
    cases h
    exact hd

end

end State

/-- A connection that has heard the header of a packet at `now` (R418 to R420, R426). -/
def Conn.accepted (c : Conn) (now : Nat) (p : Pkt) (b : Nat) : Conn :=
  let d := (c.noteCtr p.pctr).heard p b
  { d with last := now, half := d.half && d.theirs == 0, echo := d.echo || p.ce, addr := if d.cls = 0 then p.addr else d.addr }

theorem Conn.window_accepted (c : Conn) (now : Nat) {p : Pkt} (h : p.echo = true) (b : Nat) : (c.accepted now p b).window = max 1 (c.window / 2) := if_pos h

namespace State

section

variable {s : State} {p : Pkt} {b cls n : Nat} {c : Conn}

/-- With no cairn write in progress, an acknowledgement leaves the connections to the transport. -/
theorem cairnAcked_conns (h : s.cairnOut = none) (n : Nat) : (s.cairnAcked n).conns = s.conns := by
  have hwrite : ∀ l : Option StoreOp, ({ s with storeOp := l } : State).writeOn n = none := fun l => by
    show s.cairnOut.filter _ = none
    rw [h]
    rfl
  simp only [cairnAcked, hwrite]
  split <;> rfl

theorem find_accept (hc : Tab.find s.conns p.conn = some c) (hcairn : s.cairnOut = none) :
    Tab.find (s.accept p b).conns p.conn = some (c.accepted s.now p b) := by
  have hnone : ({ s with conns := Tab.put s.conns p.conn (c.accepted s.now p b) } : State).cairnOut = none := hcairn
  rw [accept, updConn_of_find hc]
  exact (congrArg (Tab.find · p.conn) (cairnAcked_conns hnone p.conn)).trans (Tab.find_put_self ..)

theorem exec_ack_of_checked (hwf : Instr.wf (.ack p b) = true) (hhead : s.checkHead p (p.keyId / 2 % 2) = none)
    (hconn : s.checkConn p (p.keyId / 2 % 2) = .ok c) (hcairn : s.cairnOut = none) :
    exec (.ack p b) s = .next (((holes (unacked c.sent p.ackSeq b) p.ackSeq b).foldl (fun s e => s.resend p.conn e true) (s.accept p b)).drain p.conn) := by
  show execAck p b s = _
  rw [execAck, guardWf_of_wf hwf]
  simp only [hhead, hconn, find_accept (find_of_checkConn hconn) hcairn]
  rfl

/-! ### ACK_TIMER (R421) -/

theorem sendAck_of_up (hc : Tab.find s.conns n = some c) (hup : s.linkUp = true) : s.sendAck n =
    ({ s with conns := Tab.put s.conns n { c with since := 0, echo := false, pctrOut := c.pctrOut + 1 } } : State).emit
      (.ack c.theirs c.rxNext c.bitmap c.granted (s.envelope c c.nextSeq (c.pctrOut + 1) none)) := by
  simp only [sendAck, hc, hup, if_true, updConn_of_find hc]

theorem sendAck_of_down (hdown : s.linkUp = false) (n : Nat) : s.sendAck n = s := by
  unfold sendAck
  split
  · rfl
  · rw [hdown]
    rfl

theorem exec_ackTimer_of_find (hn : n < 2 ^ 32) (hc : Tab.find s.conns n = some c) :
    exec (.ackTimer n) s = .next (if c.since = 0 then s else s.sendAck n) := by
  have hwf : Instr.wf (.ackTimer n) = true := decide_eq_true hn
  show execAckTimer n s = _
  rw [execAckTimer, guardWf_of_wf hwf]
  simp only [hc]

/-! ### RESEND_TIMER (R410, R415, R422, R552) -/

theorem exec_resendTimer_of_find {q : Nat} {e : Sent} (hn : n < 2 ^ 32) (hq : q < 2 ^ 32) (hc : Tab.find s.conns n = some c)
    (he : c.sent.find? (fun e => e.seq == q) = some e) : exec (.resendTimer n q) s = .next (s.resend n e false) := by
  have hwf : Instr.wf (.resendTimer n q) = true := Bool.and_eq_true_iff.2 ⟨decide_eq_true hn, decide_eq_true hq⟩
  show execResendTimer n q s = _
  rw [execResendTimer, guardWf_of_wf hwf]
  simp only [hc, Option.bind_some, he]

/-- A 16-bit counter in a register's low bits. -/
theorem fld_addFld_low16 (s : State) (a n : Nat) : (s.addFld a 15 0 n).fld a 15 0 = min (s.fld a 15 0 + n) 65535 :=
  fld_addFld_self s a 15 0 n (by omega) (by omega)

theorem resend_of_spent {e : Sent} (hc : Tab.find s.conns n = some c) (h : e.retry ≤ e.resends) (hole : Bool) :
    s.resend n e hole = (s.addFld rNwtConn 31 16 1).loseConn n := by
  simp only [resend, hc, h, if_true]

/-- A block as it stands once it has been sent again (R552). -/
def resent (s : State) (e : Sent) (hole : Bool) : Sent := { e with resends := e.resends + 1, holed := hole, retry := s.fld rNwtCtrl 39 36 }

/-- A connection that has sent a block again. -/
def resentOn (s : State) (c : Conn) (e : Sent) (hole : Bool) : Conn :=
  { c with pctrOut := c.pctrOut + 1, since := 0, echo := false, sent := c.sent.map (fun x => if x.seq = e.seq then s.resent e hole else x) }

/-- The connection notes that a block goes again. -/
def noteResent (s : State) (n : Nat) (c : Conn) (e : Sent) (hole : Bool) : State := { s with conns := Tab.put s.conns n (s.resentOn c e hole) }

theorem resend_of_up {e : Sent} (hc : Tab.find s.conns n = some c) (h : e.resends < e.retry) (hup : s.linkUp = true) (hole : Bool) :
    s.resend n e hole = ((s.noteResent n c e hole).addFld rNwtConn 15 0 1).emit (s.packetOf c e.seq (c.pctrOut + 1) e.msg) := by
  have hlink : (s.noteResent n c e hole).linkUp = true := (linkUp_of_fld rfl).trans hup
  simp only [resend, hc, Nat.not_le.2 h, if_false, updConn_of_find hc]
  exact if_pos hlink

end

/-- The block that is sent again stands in its place. -/
theorem find_resent (s : State) {l : List Sent} {q : Nat} {e : Sent} (h : l.find? (fun e => e.seq == q) = some e) (hole : Bool) :
    (l.map (fun x => if x.seq = e.seq then s.resent e hole else x)).find? (fun e => e.seq == q) = some (s.resent e hole) := by
  have hq : e.seq = q := by simpa using List.find?_some h
  have hsame : ((fun x : Sent => x.seq == q) ∘ fun x => if x.seq = e.seq then s.resent e hole else x) = fun x => x.seq == q := by
    funext x
    show ((if x.seq = e.seq then s.resent e hole else x).seq == q) = _
    split
    · rename_i hx
      rw [hx]
      rfl
    · rfl
  rw [List.find?_map, hsame, h, Option.map_some, if_pos rfl]

end State

/-- What an ACK leaves unacknowledged, bit by bit of its bitmap (R421, R422). -/
theorem unacked_eq (l : List Sent) (a b : Nat) : unacked l a b = l.filter (fun e => !(seqBefore e.seq a ||
    decide ((e.seq + 2 ^ 32 - (a + 1)) % 2 ^ 32 < 64 ∧ bits b ((e.seq + 2 ^ 32 - (a + 1)) % 2 ^ 32) ((e.seq + 2 ^ 32 - (a + 1)) % 2 ^ 32) = 1))) := by
  refine List.filter_congr fun e _ => ?_
  rw [Bool.not_or, Bool.decide_and]
  rfl

/-- Settles O34: an ACK by what the connection hears of it, each timer by the block or packet that it waits for. -/
theorem acksAndResends : Obligations.AcksAndResends := by
  unfold Obligations.AcksAndResends
  intro s n hn
  refine ⟨fun p b c hwf hp hhead hconn hcairn => ?_, fun c hc => ⟨fun hsince => ?_, fun hsince hup => ?_, fun hdown => ?_, fun q e hq he => ⟨fun hspent => ?_,
    fun hleft hup => ?_⟩⟩⟩
  · subst hp
    intro u sent
    have hsent : sent = unacked c.sent p.ackSeq b := (unacked_eq ..).symm
    rw [hsent]
    exact ⟨⟨c.accepted s.now p b, State.find_accept (State.find_of_checkConn hconn) hcairn, rfl, rfl, fun h => c.window_accepted s.now h b, rfl⟩,
      State.exec_ack_of_checked hwf hhead hconn hcairn⟩
  · rw [State.exec_ackTimer_of_find hn hc, if_pos hsince]
  · rw [State.exec_ackTimer_of_find hn hc, if_neg hsince, State.sendAck_of_up hc hup]
  · rw [State.exec_ackTimer_of_find hn hc, State.sendAck_of_down hdown, ite_self]
  · rw [State.exec_resendTimer_of_find hn hq hc he, State.resend_of_spent hc hspent]
  · have hseq : e.seq = q := by simpa using List.find?_some he
    refine ⟨_, (State.exec_resendTimer_of_find hn hq hc he).trans (congrArg _ (State.resend_of_up hc hleft hup false)), ?_, ?_,
      ⟨s.resentOn c e false, Tab.find_put_self .., rfl, rfl, s.find_resent he false⟩, ?_, rfl⟩
    · rw [hseq]
      rfl
    · exact (s.noteResent n c e false).fld_addFld_low16 rNwtConn 1
    · exact State.sameRegsBut.addFld_self (s := s.noteResent n c e false) (fun _ _ => rfl) _ _ _

end Sys2Proof.Machine
end

section
/-! Chapters 12 and 14 of the manual: counter snapshots, and telemetry that is dropped. -/

namespace Sys2Proof.Machine

/-! ### What a dropped message counts (R438, R513) -/

/-- A message is telemetry. -/
def isTelemetry (m : Msg) : Bool :=
  match m with
  | .telemetry _ _ _ _ => true
  | _ => false

/-- A message is telemetry of source `k`. -/
def ofSource (k : Nat) (m : Msg) : Bool :=
  match m with
  | .telemetry n _ _ _ => n == k
  | _ => false

/-- Telemetry of one source is telemetry. -/
theorem filter_ofSource_filter_isTelemetry (k : Nat) (l : List Msg) : (l.filter isTelemetry).filter (ofSource k) = l.filter (ofSource k) := by
  rw [List.filter_filter]
  refine List.filter_congr fun m _ => ?_
  cases m <;> simp [isTelemetry, ofSource]

theorem sumOf_eq_sum (l : List Nat) : sumOf l = l.sum := List.sum_eq_foldl.symm

/-- Telemetry of a source, connection by connection. -/
theorem length_filter_ofSource (k : Nat) (l : Tab Conn) : ((l.flatMap (fun e => e.2.unsent.filter isTelemetry)).filter (ofSource k)).length =
    sumOf (l.map (fun e => (e.2.unsent.filter (ofSource k)).length)) := by
  simp only [sumOf_eq_sum, List.filter_flatMap, List.length_flatMap, filter_ofSource_filter_isTelemetry]

namespace State

/-- HUB_TELSTAT's count of messages dropped, by source 2, 3 or 4: bits 63 to 48, 47 to 32, 31 to 16. -/
def dropCount (s : State) (k : Nat) : Nat := s.fld rTelstat (95 - 16 * k) (80 - 16 * k)

section

variable {k : Nat} (hk : 2 ≤ k ∧ k ≤ 4)

include hk

theorem dropCount_le (s : State) : s.dropCount k ≤ 65535 := by
  have h := bits_lt (s.reg rTelstat) (95 - 16 * k) (80 - 16 * k)
  rw [show 95 - 16 * k + 1 - (80 - 16 * k) = 16 by omega] at h
  exact Nat.le_of_lt_succ h

theorem dropCount_addFld (s : State) {j : Nat} (hj : 2 ≤ j ∧ j ≤ 4) :
    (s.addFld rTelstat (95 - 16 * j) (80 - 16 * j) 1).dropCount k = if j = k then min (s.dropCount k + 1) 65535 else s.dropCount k := by
  by_cases h : j = k
  · subst h
    have hmax : 2 ^ (95 - 16 * j + 1 - (80 - 16 * j)) - 1 = 65535 := by
      rw [show 95 - 16 * j + 1 - (80 - 16 * j) = 16 by omega]
      rfl
    rw [if_pos rfl, dropCount, fld_addFld_self _ _ _ _ _ (by omega) (by omega), hmax]
    rfl
  · rw [if_neg h]
    exact fld_setFld_ne _ _ _ _ _ _ _ (by omega) (by omega) (by omega)

theorem dropCount_countDrop (s : State) (source part : Nat) :
    (s.countDrop source part).dropCount k = if source = k then min (s.dropCount k + 1) 65535 else s.dropCount k := by
  unfold countDrop
  split
  · have hne : rTelstat ≠ rPhaseStat part := by
      unfold rTelstat rPhaseStat
      omega
    rw [if_neg (show ¬ 1 = k by omega)]
    split
    · exact fld_setFld_other _ _ _ _ _ _ hne
    · rfl
  · exact dropCount_addFld hk s (j := 2) (by omega)
  · exact dropCount_addFld hk s (j := 3) (by omega)
  · exact dropCount_addFld hk s (j := 4) (by omega)
  · rename_i h2 h3 h4
    refine (if_neg fun h => ?_).symm
    obtain rfl | rfl | rfl : k = 2 ∨ k = 3 ∨ k = 4 := by omega
    · exact h2 h
    · exact h3 h
    · exact h4 h

end

/-- A message that will not be sent is counted, but for phase records. -/
def loseMsg (s : State) (m : Msg) : State :=
  match m with
  | .telemetry src p _ _ => if src = 1 then s else s.countDrop src p
  | _ => s

/-- The steps whose phase records will not be sent, each once. -/
def lostSteps (l : List Msg) : List (Nat × Nat) :=
  (l.filterMap (fun m => match m with
    | .telemetry 1 p st _ => some (p, st)
    | _ => none)).dedup

theorem countLost_eq (s : State) (l : List Msg) :
    s.countLost l = l.foldl loseMsg ((lostSteps l).foldl (fun s e => s.countDrop 1 e.1) s) := rfl

section

variable {k : Nat} (hk : 2 ≤ k ∧ k ≤ 4)

include hk

theorem dropCount_loseMsg (s : State) (m : Msg) :
    (s.loseMsg m).dropCount k = if ofSource k m then min (s.dropCount k + 1) 65535 else s.dropCount k := by
  unfold loseMsg
  split
  · rename_i src p st d
    by_cases h : src = 1
    · rw [if_pos h, if_neg (by simp [ofSource]; omega)]
    · rw [if_neg h, dropCount_countDrop hk]
      simp [ofSource]
  · rename_i h
    have hno : ofSource k m = false := by
      cases m with
      | telemetry a b c d => exact absurd rfl (h a b c d)
      | _ => rfl
    rw [hno]
    rfl

theorem dropCount_foldl_loseMsg (s : State) (l : List Msg) :
    (l.foldl loseMsg s).dropCount k = min (s.dropCount k + (l.filter (ofSource k)).length) 65535 := by
  induction l generalizing s with
  | nil => simp [dropCount_le hk s]
  | cons m r ih =>
    rw [List.foldl_cons, ih, dropCount_loseMsg hk]
    cases h : ofSource k m
    · simp [h]
    · simp only [h, if_true, List.filter_cons_of_pos, List.length_cons]
      omega

/-- What will not be sent is counted once for each message of the source, up to the field's all-ones value. -/
theorem dropCount_countLost (s : State) (l : List Msg) :
    (s.countLost l).dropCount k = min (s.dropCount k + (l.filter (ofSource k)).length) 65535 := by
  have hphase : ((lostSteps l).foldl (fun s e => s.countDrop 1 e.1) s).dropCount k = s.dropCount k :=
    foldl_leaves (dropCount · k) (fun (s : State) (e : Nat × Nat) => (dropCount_countDrop hk s 1 e.1).trans (if_neg (by omega))) _ _
  rw [countLost_eq, dropCount_foldl_loseMsg hk, hphase]

end

/-! ### TELEMETRY_DROP_TIMEOUT (R438) -/

/-- The connections without the telemetry that waits on them. -/
def quieted (s : State) : State := { s with conns := s.conns.map (fun e => (e.1, { e.2 with unsent := e.2.unsent.filter (fun m => !isTelemetry m) })) }

/-- The telemetry that waits on connections. -/
def waitingTelemetry (s : State) : List Msg := s.conns.flatMap (fun e => e.2.unsent.filter isTelemetry)

theorem exec_telemetryDropTimeout (s : State) : exec .telemetryDropTimeout s = .next (s.quieted.countLost s.waitingTelemetry) := rfl

theorem no_telemetry_quieted {s : State} {e : Nat × Conn} (he : e ∈ s.quieted.conns) {m : Msg} (hm : m ∈ e.2.unsent) (a b c : Nat) (d : List Byte) :
    m ≠ .telemetry a b c d := by
  obtain ⟨e', -, rfl⟩ := List.mem_map.1 he
  obtain ⟨-, hno⟩ := List.mem_filter.1 hm
  rintro rfl
  cases hno

theorem dropCount_dropped {k : Nat} (hk : 2 ≤ k ∧ k ≤ 4) (s : State) : (s.quieted.countLost s.waitingTelemetry).dropCount k =
    min (s.dropCount k + sumOf (s.conns.map (fun e => (e.2.unsent.filter (ofSource k)).length))) 65535 := by
  rw [dropCount_countLost hk, waitingTelemetry, length_filter_ofSource]
  rfl

/-! ### COUNTER_SNAPSHOT (R508, R513) -/

/-- The register records of a snapshot. -/
def snapshot (s : State) : List (List Byte) := (List.range (s.fld rTelctl 40 32)).map (fun i => snapRecord (s.reg (rSnap i)) (s.readReg (s.reg (rSnap i))))

section

variable {s : State}

theorem exec_counterSnapshot_of_off (h : s.fld rTelctl 63 48 = 0) : exec .counterSnapshot s = .next s := congrArg _ (if_pos h)

theorem exec_counterSnapshot_of_on (h : s.fld rTelctl 63 48 ≠ 0) : exec .counterSnapshot s = .next (
    if s.collector.1 = 0 then s.countDrop 3 0xFF
    else
      let t := s.telemetry 3 0xFF 0 (snapRecord 0 s.now ++ (s.snapshot.take 255).flatten)
      if s.snapshot.length ≤ 255 then t else t.telemetry 3 0xFF 0 (snapRecord 0 t.now ++ (s.snapshot.drop 255).flatten)) := congrArg _ (if_neg h)

theorem exec_counterSnapshot_of_one (h : s.fld rTelctl 63 48 ≠ 0) (hc : s.collector.1 ≠ 0) (hl : s.snapshot.length ≤ 255) :
    exec .counterSnapshot s = .next (s.sendTo 0 s.collector.1 s.collector.2 (.telemetry 3 0xFF 0 (snapRecord 0 s.now ++ s.snapshot.flatten))) := by
  rw [exec_counterSnapshot_of_on h, if_neg hc]
  simp only [hl, if_true, List.take_of_length_le hl]
  exact congrArg _ (if_neg hc)

end

end State

/-- Settles O35: a snapshot by whether there is a collector, dropped telemetry by what its messages count. -/
theorem telemetrySent : Obligations.TelemetrySent := by
  unfold Obligations.TelemetrySent
  refine fun s => ⟨State.exec_counterSnapshot_of_off, fun hon => ⟨fun hc => ?_, fun hc hl => State.exec_counterSnapshot_of_one hon hc hl⟩,
    s.quieted.countLost s.waitingTelemetry, s.exec_telemetryDropTimeout, ?_⟩
  · rw [State.exec_counterSnapshot_of_on hon, if_pos hc]
    rfl
  · have honly : s.quieted.RegsOnly (s.quieted.countLost s.waitingTelemetry) := .countLost (.refl _) _
    have hregs : s.sameRegsBut (s.quieted.countLost s.waitingTelemetry) dropReg := .countLost (fun _ _ => rfl) _
    have hconns : (s.quieted.countLost s.waitingTelemetry).conns = s.quieted.conns := by rw [honly]
    refine ⟨fun e he m hm a b c d => State.no_telemetry_quieted (hconns ▸ he) hm a b c d, ?_, State.dropCount_dropped (k := 2) (by omega) s,
      State.dropCount_dropped (k := 3) (by omega) s, State.dropCount_dropped (k := 4) (by omega) s, hregs, ?_⟩
    · rw [hconns, State.quieted, List.map_map]
      rfl
    · rw [honly]
      rfl

end Sys2Proof.Machine
end

section
/-! Chapter 12 of the manual: the Ethernet port, its bring-up, its loss, and what it discards and answers. -/

namespace Sys2Proof.Machine

namespace State

/-! ### Counters of one field (R12) -/

theorem fld_addFld_satN (s : State) (a hi lo n : Nat) (h : lo ≤ hi) (h64 : hi < 64) :
    (s.addFld a hi lo n).fld a hi lo = satN (hi + 1 - lo) (s.fld a hi lo + n) := fld_addFld_self s a hi lo n h h64

/-- A bit of a register outside the field set keeps its value. -/
theorem testBit_setFld_ne (s : State) {a hi lo j : Nat} (v : Nat) (h : lo ≤ hi) (ha : resetWord a < 2 ^ 64) (hj : j < lo ∨ hi < j) :
    ((s.setFld a hi lo v).reg a).testBit j = (s.reg a).testBit j := by
  rw [setFld, reg_setReg_self, Nat.testBit_mod_two_pow, testBit_setBits _ _ _ _ _ h, if_neg (by omega)]
  by_cases hlt : j < 64
  · simp [hlt]
  · have hreg : s.reg a < 2 ^ j := (resetWord_reg_lt s a ha).trans_le (Nat.pow_le_pow_right (by omega) (by omega))
    simp [hlt, Nat.testBit_lt_two_pow hreg]

/-- One more in a 16-bit counter of a register, and nothing else. -/
theorem counted16 (s : State) {a lo : Nat} (hlo : lo < 49) (ha : resetWord a < 2 ^ 64) : let t := s.addFld a (lo + 15) lo 1
    t = { s with regs := t.regs } ∧ s.sameRegsBut t (· = a) ∧ t.fld a (lo + 15) lo = satN 16 (s.fld a (lo + 15) lo + 1) ∧
      ∀ j, j < lo ∨ lo + 15 < j → (t.reg a).testBit j = (s.reg a).testBit j := by
  have hwidth : lo + 15 + 1 - lo = 16 := by omega
  refine ⟨rfl, (sameRegsBut.refl s _).addFld_self _ _ _, ?_, fun j hj => s.testBit_setFld_ne _ (by omega) ha hj⟩
  rw [fld_addFld_satN _ _ _ _ _ (by omega) (by omega), hwidth]

/-! ### An attempt starts (R409) -/

/-- `t` is `s` but for the attempt and registers. -/
def PortOnly (s t : State) : Prop := t = { s with attempt := t.attempt, regs := t.regs }

theorem PortOnly.refl (s : State) : s.PortOnly s := rfl

theorem PortOnly.regsOnly {s t u : State} (h : s.PortOnly t) (g : t.RegsOnly u) : s.PortOnly u := by
  rw [g, h]
  rfl

/-- An attempt of bring-up starts: four times the mode and the attempt of its cycle. -/
def trying (s : State) (a : Nat) : State := ({ s with attempt := a } : State).setFld rEthStat 63 61 1

theorem PortOnly.trying {s t : State} (h : s.PortOnly t) (a : Nat) : s.PortOnly (t.trying a) := by
  have hset : ({ t with attempt := a } : State).RegsOnly (t.trying a) := .setFld (.refl _) _ _ _ _
  rw [hset, h]
  rfl

theorem trying_regs {σ s : State} (h : σ.sameRegsBut s (· = rEthStat)) (a : Nat) : σ.sameRegsBut (s.trying a) (· = rEthStat) :=
  (h.update (t := { s with attempt := a }) rfl).setFld_self _ _ _

theorem fld_trying (s : State) (a : Nat) : (s.trying a).fld rEthStat 63 61 = 1 ∧ ∀ hi lo, hi < 61 → (s.trying a).fld rEthStat hi lo = s.fld rEthStat hi lo :=
  ⟨fld_setFld_self _ _ _ _ _ (by omega) (by omega), fun hi lo h => fld_setFld_ne _ _ _ _ _ _ _ (by omega) (by omega) (by omega)⟩

theorem attempt_trying (s : State) (a : Nat) : (s.trying a).attempt = a := rfl

theorem nextAttempt_eq (s : State) : s.nextAttempt = s.trying (s.attempt / 4 * 4 + (s.attempt % 4 + 1) % 3) := rfl

theorem bringUp_eq (s : State) : s.bringUp = s.trying (4 * s.fld rEthCtrl 63 62) := rfl

/-! ### An attempt that fails (R409, R454) -/

/-- The lanes that fail to train. -/
def badLanes (l : List Nat) : List Nat := (List.range 8).filter l.contains

/-- The events of lanes that fail where another trained. -/
def laneEvents (sec : Nat) (l : List Nat) : List UEvent := if (badLanes l).length < 8 then (badLanes l).map (fun n => ⟨unitLane n, evUe, sec, 0⟩) else []

theorem map_laneEvents (sec : Nat) (l : List Nat) : (laneEvents sec l).map (fun e => (e.unit, e.kind)) =
    if (badLanes l).length < 8 then (badLanes l).map (fun n => (unitLane n, evUe)) else [] := by
  unfold laneEvents
  split
  · rw [List.map_map]
    rfl
  · rfl

/-- An attempt fails: the next of the cycle starts, and the lanes' events fall due. -/
def attemptFailed (s : State) (l : List Nat) : State := s.nextAttempt.addEvents (laneEvents s.nextAttempt.eventSecond l)

theorem addEvents_nil (s : State) : s.addEvents [] = s := by
  rw [addEvents, List.append_nil]

theorem fld_addEvents (s : State) (l : List UEvent) (a hi lo : Nat) : (s.addEvents l).fld a hi lo = s.fld a hi lo := rfl

theorem addEvents_regs {σ s : State} {p : Nat → Prop} (h : σ.sameRegsBut s p) (l : List UEvent) : σ.sameRegsBut (s.addEvents l) p := h.update rfl

theorem PortOnly.addEvents {s t : State} (h : s.PortOnly t) (l : List UEvent) : let u := t.addEvents l
    u.attempt = t.attempt ∧ u.events = s.events ++ l ∧ u = { s with attempt := u.attempt, regs := u.regs, events := u.events } := by
  intro u
  have hevents : u.events = s.events ++ l := by
    show t.events ++ l = _
    rw [h]
  refine ⟨rfl, hevents, ?_⟩
  rw [hevents]
  show t.addEvents l = { s with attempt := t.attempt, regs := t.regs, events := s.events ++ l }
  rw [State.addEvents, h]

/-- What a failed attempt leaves. -/
theorem attemptFailed_leaves (s : State) (l : List Nat) : let t := s.attemptFailed l
    t.fld rEthStat 63 61 = 1 ∧ t.attempt / 4 = s.attempt / 4 ∧ t.attempt % 4 = (s.attempt % 4 + 1) % 3 ∧
      t = { s with attempt := t.attempt, regs := t.regs, events := t.events } ∧ s.sameRegsBut t (· = rEthStat) ∧
      t.events.map (fun e => (e.unit, e.kind)) = s.events.map (fun e => (e.unit, e.kind)) ++
        (if (badLanes l).length < 8 then (badLanes l).map (fun n => (unitLane n, evUe)) else []) := by
  rw [attemptFailed, nextAttempt_eq]
  generalize hsec : laneEvents _ l = es
  obtain ⟨hattempt, hevents, honly⟩ := ((PortOnly.refl s).trying (s.attempt / 4 * 4 + (s.attempt % 4 + 1) % 3)).addEvents es
  rw [attempt_trying] at hattempt
  refine ⟨?_, by omega, by omega, honly, addEvents_regs (trying_regs (.refl s _) _) es, ?_⟩
  · rw [fld_addEvents]
    exact (s.fld_trying _).1
  · rw [hevents, List.map_append, ← hsec, map_laneEvents]

theorem exec_linkAttemptTimeout (s : State) : exec .linkAttemptTimeout s = .next (if s.training then s.attemptFailed [] else s) :=
  congrArg (fun t => Host.Outcome.next (if s.training then t else s)) s.nextAttempt.addEvents_nil.symm

/-! ### LINK_UP (R409, R412, R454) -/

/-- The link is up at its rate, and its router is solicited. -/
def cameUp (s : State) (fast : Bool) : State := (s.setFld rEthStat 63 61 (if fast then 3 else 4)).solicitRouter

theorem badLanes_nil : badLanes [] = [] := by decide

section

variable {s : State} {b : BringB}

theorem badLanes_ne_nil {l : List Nat} (hl : l ≠ []) (h : ∀ n ∈ l, n < 8) : badLanes l ≠ [] := by
  obtain ⟨n, hn⟩ := List.exists_mem_of_ne_nil l hl
  exact List.ne_nil_of_mem (List.mem_filter.2 ⟨List.mem_range.2 (h n hn), List.contains_iff_mem.2 hn⟩)

theorem exec_linkUp_of_stray (hwf : Instr.wf (.linkUp b) = true) (h : s.training = false ∨ s.fastAttempt ≠ b.fast) : exec (.linkUp b) s = .next s := by
  have hstray : (s.training && s.fastAttempt == b.fast) = false := by
    obtain h | h := h
    · rw [h, Bool.false_and]
    · rw [beq_eq_false_iff_ne.2 h, Bool.and_false]
  show execLinkUp b s = _
  rw [execLinkUp, guardWf_of_wf hwf, hstray]
  rfl

section

variable (htrain : s.training = true) (hfast : s.fastAttempt = b.fast)

include htrain hfast

theorem exec_linkUp_of_tried (hwf : Instr.wf (.linkUp b) = true) : exec (.linkUp b) s = .next (
    if !(badLanes b.failed).isEmpty then
      (if (badLanes b.failed).length < 8 then (badLanes b.failed).foldl (fun s n => s.unitEvent (unitLane n) evUe 0) s.nextAttempt else s.nextAttempt)
    else if b.aligned then (s.cameUp b.fast).conns.foldl (fun t e => t.drain e.1) (s.cameUp b.fast)
    else s.setFld rEthStat 63 61 2) := by
  show execLinkUp b s = _
  rw [execLinkUp, guardWf_of_wf hwf, htrain, hfast, beq_self_eq_true]
  rfl

theorem exec_linkUp_of_failed (hwf : Instr.wf (.linkUp b) = true) (hl : b.failed ≠ []) : exec (.linkUp b) s = .next (s.attemptFailed b.failed) := by
  have hlanes : ∀ n ∈ b.failed, n < 8 := by
    simpa [Instr.wf] using hwf
  rw [exec_linkUp_of_tried htrain hfast hwf, if_pos (by simp [badLanes_ne_nil hl hlanes]), foldl_unitEvent (fun n => unitLane n) (fun _ => evUe) (fun _ => 0), attemptFailed,
    laneEvents]
  split
  · rfl
  · rw [addEvents_nil]

end

section

variable {fast : Bool} (htrain : s.training = true) (hfast : s.fastAttempt = fast)

include htrain hfast

theorem exec_linkUp_of_negotiated : exec (.linkUp ⟨fast, [], false⟩) s = .next (s.setFld rEthStat 63 61 2) := by
  rw [exec_linkUp_of_tried (b := ⟨fast, [], false⟩) htrain hfast rfl, badLanes_nil, List.isEmpty_nil, Bool.not_true, if_neg Bool.false_ne_true,
    if_neg Bool.false_ne_true]

theorem exec_linkUp_of_aligned : let v := s.setFld rEthStat 63 61 (if fast then 3 else 4)
    let router := addressAt s.flash.config 16
    exec (.linkUp ⟨fast, [], true⟩) s =
      .next (s.conns.foldl (fun t e => t.drain e.1) (if router = 0 then v else v.emit (.neighborSolicit router))) := by
  intro v router
  have hsolicit : s.cameUp fast = if router = 0 then v else v.emit (.neighborSolicit router) := by
    rw [cameUp, solicitRouter, setFld_flash]
  have hconns : (s.cameUp fast).conns = s.conns := by
    rw [hsolicit, apply_ite State.conns, emit_conns, ite_self, setFld_conns]
  rw [exec_linkUp_of_tried (b := ⟨fast, [], true⟩) htrain hfast rfl, badLanes_nil, List.isEmpty_nil, Bool.not_true, if_neg Bool.false_ne_true, if_pos rfl,
    hconns, hsolicit]

end

end

/-- The cycle of attempts: in MODE 0 two at 1.6 Tb/s and one at 800 Gb/s, in MODE 1 all fast. -/
theorem fastAttempt_iff (s : State) : s.fastAttempt = true ↔ s.attempt / 4 = 1 ∨ s.attempt / 4 = 0 ∧ s.attempt % 4 < 2 := by
  unfold fastAttempt
  split
  · rename_i h
    rw [h, decide_eq_true_iff]
    omega
  · rename_i h
    simp [h]
  · rename_i h0 h1
    have hmode : ¬ (s.attempt / 4 = 1 ∨ s.attempt / 4 = 0 ∧ s.attempt % 4 < 2) := fun h => h.elim h1 fun h => h0 h.1
    simp only [hmode, Bool.false_eq_true]

/-! ### LINK_LOSS (R400, R410) -/

/-- A loss is past the limit on a link that is up, or it is not. -/
theorem lost_or_kept (up aligned : Bool) (n : Nat) : (up = true ∧ (aligned = false ∨ 16 < n)) ∨ (up = false ∨ aligned = true ∧ n ≤ 16) := by
  cases up
  · exact .inr (.inl rfl)
  · cases aligned
    · exact .inl ⟨rfl, .inl rfl⟩
    · exact (Nat.lt_or_ge 16 n).imp (fun h => ⟨rfl, .inr h⟩) fun h => .inr ⟨rfl, h⟩

theorem not_kept_of_lost {up aligned : Bool} {n : Nat} (h : up = true ∧ (aligned = false ∨ 16 < n)) : ¬ (up = false ∨ aligned = true ∧ n ≤ 16) := by
  obtain ⟨rfl, rfl | hn⟩ := h
  · simp
  · simp [hn]

section

variable {s : State} {n : Nat} {aligned : Bool}

/-- The codewords in error are counted. -/
def fecCounted (s : State) (n : Nat) : State := s.addFld rEthStat 31 0 n

/-- The link has gone down: the loss is counted, and bring-up starts again. -/
def downed (s : State) (n : Nat) : State := ((s.fecCounted n).addFld rEthStat 47 32 1).bringUp

theorem fld_fecCounted (s : State) (n : Nat) : (s.fecCounted n).fld rEthStat 31 0 = satN 32 (s.fld rEthStat 31 0 + n) ∧
    ∀ hi lo, 31 < lo → hi < 64 → (s.fecCounted n).fld rEthStat hi lo = s.fld rEthStat hi lo :=
  ⟨fld_addFld_satN _ _ _ _ _ (by omega) (by omega), fun hi lo hlo hhi => fld_setFld_ne _ _ _ _ _ _ _ (by omega) hhi (by omega)⟩

theorem linkUp_fecCounted (s : State) (n : Nat) : (s.fecCounted n).linkUp = s.linkUp := linkUp_of_fld ((s.fld_fecCounted n).2 _ _ (by omega) (by omega))

theorem fecCounted_regs (s : State) (n : Nat) : s.sameRegsBut (s.fecCounted n) (· = rEthStat) := (sameRegsBut.refl s _).addFld_self _ _ _

theorem downed_eq (s : State) (n : Nat) : s.downed n = ((s.fecCounted n).addFld rEthStat 47 32 1).trying (4 * s.fld rEthCtrl 63 62) := by
  have hmode : ((s.fecCounted n).addFld rEthStat 47 32 1).fld rEthCtrl 63 62 = s.fld rEthCtrl 63 62 :=
    ((s.fecCounted_regs n).addFld_self 47 32 1).fld (by decide) 63 62
  rw [downed, bringUp_eq, hmode]

theorem downed_leaves (s : State) (n : Nat) : s.PortOnly (s.downed n) ∧ s.sameRegsBut (s.downed n) (· = rEthStat) ∧ (s.downed n).attempt = 4 * s.fld rEthCtrl 63 62 := by
  rw [downed_eq]
  exact ⟨((PortOnly.refl s).regsOnly (((RegsOnly.refl s).addFld _ _ _ _).addFld _ _ _ _)).trying _, trying_regs ((s.fecCounted_regs n).addFld_self _ _ _) _,
    attempt_trying _ _⟩

/-- What the port shows once the link has gone down. -/
theorem fld_downed (s : State) (n : Nat) : (s.downed n).fld rEthStat 31 0 = satN 32 (s.fld rEthStat 31 0 + n) ∧
    (s.downed n).fld rEthStat 47 32 = satN 16 (s.fld rEthStat 47 32 + 1) ∧ (s.downed n).fld rEthStat 63 61 = 1 := by
  obtain ⟨hfec, hrest⟩ := s.fld_fecCounted n
  rw [downed_eq]
  obtain ⟨hstate, hlow⟩ := ((s.fecCounted n).addFld rEthStat 47 32 1).fld_trying (4 * s.fld rEthCtrl 63 62)
  refine ⟨?_, ?_, hstate⟩
  · rw [hlow _ _ (by omega), addFld, fld_setFld_ne _ _ _ _ _ _ _ (by omega) (by omega) (by omega), hfec]
  · rw [hlow _ _ (by omega), fld_addFld_satN _ _ _ _ _ (by omega) (by omega), hrest _ _ (by omega) (by omega)]

variable (hwf : Instr.wf (.linkLoss ⟨n, aligned⟩) = true)

include hwf

theorem exec_linkLoss : exec (.linkLoss ⟨n, aligned⟩) s = .next (
    if s.linkUp && (!aligned || decide (16 < n)) then (s.epochs.foldl (fun v e => v.holderLost e.1) (s.downed n)).settleRed else s.fecCounted n) := by
  have hepochs : (s.downed n).epochs = s.epochs := by rw [(s.downed_leaves n).1]
  rw [← s.linkUp_fecCounted n, ← hepochs]
  show execLinkLoss ⟨n, aligned⟩ s = _
  rw [execLinkLoss, guardWf_of_wf hwf]
  rfl

theorem exec_linkLoss_of_lost (hup : s.linkUp = true) (h : aligned = false ∨ 16 < n) :
    exec (.linkLoss ⟨n, aligned⟩) s = .next (s.epochs.foldl (fun v e => v.holderLost e.1) (s.downed n)).settleRed := by
  rw [exec_linkLoss hwf, if_pos (by simpa [hup] using h)]

theorem exec_linkLoss_of_kept (h : s.linkUp = false ∨ aligned = true ∧ n ≤ 16) : exec (.linkLoss ⟨n, aligned⟩) s = .next (s.fecCounted n) := by
  have hkept : (s.linkUp && (!aligned || decide (16 < n))) = false := by
    obtain h | ⟨ha, hn⟩ := h
    · rw [h, Bool.false_and]
    · simp [ha, Nat.not_lt.2 hn]
  rw [exec_linkLoss hwf, hkept]
  rfl

end

/-! ### Neighbor Discovery and echo (R412) -/

section

variable {s : State}

theorem exec_neighborSolicitation {a b : Nat} (ha : a < 2 ^ 128) (hb : b < 2 ^ 128) :
    exec (.neighborSolicitation a b) s = .next (if s.linkUp && s.ownsAddress b then s.emit (.neighborAdvert a b) else s) := by
  have hwf : Instr.wf (.neighborSolicitation a b) = true := Bool.and_eq_true_iff.2 ⟨decide_eq_true ha, decide_eq_true hb⟩
  show execNeighborSolicitation a b s = _
  rw [execNeighborSolicitation, guardWf_of_wf hwf]

theorem ownsAddress_iff {b : Nat} : s.ownsAddress b = true ↔
    b = 0xFE80 * 2 ^ 112 + deviceId ∨ addressAt s.flash.config 0 ≠ 0 ∧ b = addressAt s.flash.config 0 := by
  simp only [ownsAddress, Bool.or_eq_true, Bool.and_eq_true, beq_iff_eq, bne_iff_ne]

/-- The echo replies of the present second. -/
def recentEchoes (s : State) : List Nat := s.echoes.filter (fun t => decide (s.now < t + 1000000000))

theorem exec_echoRequest {a k q : Nat} {d : List Byte} (hwf : Instr.wf (.echoRequest a k q d) = true) : exec (.echoRequest a k q d) s = .next (
    if s.linkUp && decide (s.recentEchoes.length < 100) then ({ s with echoes := s.now :: s.recentEchoes } : State).emit (.echoReply a k q d)
    else { s with echoes := s.recentEchoes }) := by
  show execEchoRequest a k q d s = _
  rw [execEchoRequest, guardWf_of_wf hwf]
  rfl

end

end State

/-- Settles O59: an attempt by what it comes to, a loss by whether it takes the link down, each discard by its counter, each request by whether it is answered. -/
theorem ethernetPort : Obligations.EthernetPort := by
  unfold Obligations.EthernetPort
  refine fun s => ⟨⟨fun h => ?_, fun h => ⟨_, ?_, s.attemptFailed_leaves []⟩, fun b hwf htrain hfast hl =>
    ⟨_, State.exec_linkUp_of_failed htrain hfast hwf hl, s.attemptFailed_leaves b.failed⟩⟩, fun fast => ⟨fun htrain hfast =>
    ⟨State.exec_linkUp_of_negotiated htrain hfast, State.exec_linkUp_of_aligned htrain hfast⟩, fun b hwf => State.exec_linkUp_of_stray hwf⟩, s.fastAttempt_iff,
    fun n b hwf => ?_, ?_, fun a b ha hb => ?_, fun a k q d hwf => ?_⟩
  · rw [s.exec_linkAttemptTimeout, h]
    rfl
  · rw [s.exec_linkAttemptTimeout, h]
    rfl
  · obtain hlost | hkept := State.lost_or_kept s.linkUp b n
    · obtain ⟨hfec, hloss, hstate⟩ := s.fld_downed n
      obtain ⟨honly, hregs, hattempt⟩ := s.downed_leaves n
      exact ⟨s.downed n, honly, hregs, hfec, fun hup hbad => ⟨hloss, hstate, hattempt, State.exec_linkLoss_of_lost hwf hup hbad⟩,
        fun hkept => absurd hkept (State.not_kept_of_lost hlost)⟩
    · obtain ⟨hfec, hrest⟩ := s.fld_fecCounted n
      have honly : s.RegsOnly (s.fecCounted n) := .addFld (.refl s) _ _ _ _
      exact ⟨s.fecCounted n, (State.PortOnly.refl s).regsOnly honly, s.fecCounted_regs n, hfec,
        fun hup hbad => absurd hkept (State.not_kept_of_lost ⟨hup, hbad⟩), fun _ =>
        ⟨hrest 63 32 (by omega) (by omega), s.addFld_attempt .., State.exec_linkLoss_of_kept hwf hkept⟩⟩
  · exact ⟨⟨_, rfl, s.counted16 (lo := 48) (by omega) (by decide)⟩, ⟨_, rfl, s.counted16 (lo := 32) (by omega) (by decide)⟩,
      ⟨_, rfl, s.counted16 (lo := 16) (by omega) (by decide)⟩, ⟨_, rfl, s.counted16 (lo := 0) (by omega) (by decide)⟩,
      ⟨_, rfl, s.counted16 (lo := 48) (by omega) (by decide)⟩⟩
  · refine ⟨fun hup hown => ?_, fun h => ?_⟩
    · rw [State.exec_neighborSolicitation ha hb, hup, State.ownsAddress_iff.2 hown]
      rfl
    · rw [State.exec_neighborSolicitation ha hb, if_neg]
      rw [Bool.and_eq_true, State.ownsAddress_iff]
      rintro ⟨hup, hown⟩
      obtain h | h := h
      · rw [hup] at h
        cases h
      · exact h hown
  · refine ⟨s.recentEchoes, fun x => by rw [State.recentEchoes, List.mem_filter, decide_eq_true_iff], fun hup hl => ?_, fun h => ?_⟩
    · rw [State.exec_echoRequest hwf, hup, decide_eq_true hl]
      rfl
    · rw [State.exec_echoRequest hwf, if_neg]
      rw [Bool.and_eq_true, decide_eq_true_iff]
      rintro ⟨hup, hl⟩
      obtain h | h := h
      · rw [hup] at h
        cases h
      · omega

end Sys2Proof.Machine
end

section
/-! Chapter 12 of the manual: cluster time is measured, stepped, slewed and held over. -/

namespace Sys2Proof.Machine

/-! ### Signed fields (R5) -/

/-- An integer within the range of `n` bits reads back from its two's complement. -/
theorem signed_unsigned {n : Nat} {v : Int} (hn : 0 < n) (hlo : -(2 ^ (n - 1) : Int) ≤ v) (hhi : v < 2 ^ (n - 1)) : signed n (unsigned n v) = v := by
  obtain ⟨k, rfl⟩ : ∃ k, n = k + 1 := ⟨n - 1, by omega⟩
  rw [Nat.add_sub_cancel] at hlo hhi
  have hpow : ((2 ^ (k + 1) : Nat) : Int) = 2 * 2 ^ k := by push_cast; ring
  have hpos : (0 : Int) < 2 ^ k := by positivity
  have hcast : ((2 ^ k : Nat) : Int) = 2 ^ k := by push_cast; rfl
  have hmod : unsigned (k + 1) v % 2 ^ (k + 1) = (v % ((2 ^ (k + 1) : Nat) : Int)).toNat := by
    refine Nat.mod_eq_of_lt ?_
    have hlt := Int.emod_lt_of_pos v (show (0 : Int) < ((2 ^ (k + 1) : Nat) : Int) by omega)
    unfold unsigned
    omega
  unfold signed
  rw [hmod, Nat.add_sub_cancel, hpow]
  obtain hneg | hnonneg := lt_or_ge v 0
  · have hv : v % (2 * 2 ^ k) = v + 2 * 2 ^ k := by
      rw [← Int.add_emod_right, Int.emod_eq_of_lt (by omega) (by omega)]
    rw [hv, if_neg (by omega)]
    omega
  · rw [Int.emod_eq_of_lt hnonneg (by omega), if_pos (by omega)]
    omega

/-- What a key reads is listed. -/
theorem Tab.mem_of_find {α : Type} {t : Tab α} {k : Nat} {v : α} (h : Tab.find t k = some v) : (k, v) ∈ t := by
  induction t with
  | nil => cases h
  | cons e r ih =>
    obtain ⟨j, w⟩ := e
    rw [Tab.find] at h
    split at h
    · rename_i hj
      cases h
      exact hj ▸ List.mem_cons_self ..
    · exact List.mem_cons_of_mem _ (ih h)

theorem bit_eq_one {b : Bool} : bit b = 1 ↔ b = true := by cases b <;> decide

namespace State

/-! ### A measurement (R436) -/

/-- The measured offset is beyond STEPTHR. -/
def bigOffset (s : State) (o : Int) : Bool := decide ((s.fld rPtpCtrl 31 16 : Int) < o ∨ o < -(s.fld rPtpCtrl 31 16 : Int))

/-- A measurement is shown: LOCK, no holdover, a lock since reset, whether the offset is big, and the offset. -/
def measured (s : State) (o : Int) : State :=
  ((((s.setFld rPtpStat 63 63 1).setFld rPtpStat 62 62 0).setFld rPtpStat 61 61 1).setFld rPtpStat 60 60 (bit (s.bigOffset o))).setFld rPtpStat 47 16 (offsetField o)

/-- The frequency correction that a measurement asks for, within 100 ppm. -/
def correction (s : State) (o : Int) : Int :=
  max (-10000) (min 10000 (if s.bigOffset o then (if 0 < o then -10000 else 10000) else Config.servo (signed 16 (s.fld rPtpStat 15 0)) o))

theorem exec_ptpSync {o : Int} (hwf : Instr.wf (.ptpSync o) = true) (s : State) : exec (.ptpSync o) s = .next (
    if s.fld rPtpStat 61 61 == 0 then (s.measured o).stepClock o else (s.measured o).setFld rPtpStat 15 0 (unsigned 16 (s.correction o))) := by
  show execPtpSync o s = _
  rw [execPtpSync, guardWf_of_wf hwf]
  rfl

theorem measured_leaves (s : State) (o : Int) : s.RegsOnly (s.measured o) ∧ s.sameRegsBut (s.measured o) (· = rPtpStat) :=
  ⟨(((((RegsOnly.refl s).setFld _ _ _ _).setFld _ _ _ _).setFld _ _ _ _).setFld _ _ _ _).setFld _ _ _ _,
    (((((sameRegsBut.refl s _).setFld_self _ _ _).setFld_self _ _ _).setFld_self _ _ _).setFld_self _ _ _).setFld_self _ _ _⟩

theorem fld_measured (s : State) (o : Int) : (s.measured o).fld rPtpStat 63 63 = 1 ∧ (s.measured o).fld rPtpStat 62 62 = 0 ∧
    (s.measured o).fld rPtpStat 61 61 = 1 ∧ (s.measured o).fld rPtpStat 60 60 = bit (s.bigOffset o) := by
  unfold measured
  refine ⟨?_, ?_, ?_, ?_⟩
  · repeat rw [fld_setFld_ne _ _ _ _ _ _ _ (by omega) (by omega) (by omega)]
    exact fld_setFld_self _ _ _ _ _ (by omega) (by omega)
  · repeat rw [fld_setFld_ne _ _ _ _ _ _ _ (by omega) (by omega) (by omega)]
    exact fld_setFld_self _ _ _ _ _ (by omega) (by omega)
  · repeat rw [fld_setFld_ne _ _ _ _ _ _ _ (by omega) (by omega) (by omega)]
    exact fld_setFld_self _ _ _ _ _ (by omega) (by omega)
  · rw [fld_setFld_ne _ _ _ _ _ _ _ (by omega) (by omega) (by omega), fld_setFld_self _ _ _ _ _ (by omega) (by omega)]
    cases s.bigOffset o <;> rfl

/-- OFFSET holds the measured offset, saturated to 32 bits. -/
theorem ptpOffset_measured (s : State) (o : Int) : (s.measured o).ptpOffset = max (-(2 ^ 31)) (min (2 ^ 31 - 1) o) := by
  have hfld : (s.measured o).fld rPtpStat 47 16 = offsetField o % 2 ^ 32 := fld_setFld_self _ _ _ _ _ (by omega) (by omega)
  have hsigned : signed 32 (offsetField o % 2 ^ 32) = signed 32 (offsetField o) := by simp only [signed, Nat.mod_mod]
  rw [ptpOffset, hfld, hsigned]
  exact signed_unsigned (by omega) (by omega) (by omega)

theorem correction_within (s : State) (o : Int) : -10000 ≤ s.correction o ∧ s.correction o ≤ 10000 := by
  unfold correction
  omega

theorem correction_of_ahead {s : State} {o : Int} (hbig : s.bigOffset o = true) (h : 0 < o) : s.correction o = -10000 := by
  simp only [correction, hbig, h, if_true]
  rfl

theorem correction_of_behind {s : State} {o : Int} (hbig : s.bigOffset o = true) (h : o < 0) : s.correction o = 10000 := by
  simp only [correction, hbig, if_true, if_neg (not_lt.2 h.le)]
  rfl

/-- The correction in force reads back. -/
theorem fld_corrected (s : State) {g : Int} (hlo : -10000 ≤ g) (hhi : g ≤ 10000) :
    signed 16 ((s.setFld rPtpStat 15 0 (unsigned 16 g)).fld rPtpStat 15 0) = g := by
  have hsigned : signed 16 (unsigned 16 g % 2 ^ 16) = signed 16 (unsigned 16 g) := by simp only [signed, Nat.mod_mod]
  rw [fld_setFld_self _ _ _ _ _ (by omega) (by omega)]
  exact hsigned.trans (signed_unsigned (by omega) (by omega) (by omega))

/-! ### A step of cluster time (R436, R437) -/

/-- The time after a step, and what it leaves. -/
def steppedTo (s : State) (o : Int) : State := { s with clock := { s.clock with ns := ((s.clock.ns : Int) - o).toNat, frac := 0 } }

/-- The instants that the new time has passed, in the order of their times. -/
def passedInstants (s : State) : List (Nat × Instr) :=
  ((s.stepInstants ++ s.epochInstants ++ s.waitInstants).filter (fun e => decide (e.1 ≤ s.clock.ns))).insertionSort (fun a b => a.1 ≤ b.1)

theorem stepClock_eq (s : State) (o : Int) : s.stepClock o = (s.steppedTo o).passedInstants.foldl (fun s e => s.fire e.2) (s.steppedTo o) := rfl

theorem pairwise_passedInstants (s : State) : s.passedInstants.Pairwise (fun a b => a.1 ≤ b.1) := by
  have : Std.Total (fun a b : Nat × Instr => a.1 ≤ b.1) := ⟨fun a b => Nat.le_total a.1 b.1⟩
  have : IsTrans (Nat × Instr) (fun a b => a.1 ≤ b.1) := ⟨fun _ _ _ => Nat.le_trans⟩
  exact List.pairwise_insertionSort _ _

theorem mem_passedInstants (s : State) (e : Nat × Instr) :
    e ∈ s.passedInstants ↔ e ∈ s.stepInstants ++ s.epochInstants ++ s.waitInstants ∧ e.1 ≤ s.clock.ns := by
  rw [passedInstants, List.mem_insertionSort, List.mem_filter, decide_eq_true_iff]

/-- A partition with a command that waits is listed. -/
theorem mem_parts_of_cmd {s : State} {p : Nat} {c : StepCmd} (h : (s.part p).cmd = some c) : (p, s.part p) ∈ s.parts := by
  rcases hfind : Tab.find s.parts p with _ | x
  · have hnone : (s.part p).cmd = none := by
      rw [part, Tab.get, hfind]
      rfl
    rw [hnone] at h
    cases h
  · have hpart : s.part p = x := by
      rw [part, Tab.get, hfind]
      rfl
    exact hpart ▸ Tab.mem_of_find hfind

/-- The instant of a command that waits is one that time can pass. -/
theorem mem_stepInstants {s : State} {p : Nat} {c : StepCmd} (h : (s.part p).cmd = some c) (hi : c.body.instant ≠ 0) :
    (c.body.instant, Instr.stepOpen p) ∈ s.stepInstants := by
  refine List.mem_filterMap.2 ⟨_, mem_parts_of_cmd h, ?_⟩
  simp only [h, Option.bind_some, hi, if_false]

/-! ### Holdover (R436) -/

/-- The clock runs on without Sync. -/
def heldOver (s : State) : State := (s.setFld rPtpStat 63 63 0).setFld rPtpStat 62 62 1

theorem heldOver_leaves (s : State) : s.RegsOnly s.heldOver ∧ s.sameRegsBut s.heldOver (· = rPtpStat) :=
  ⟨((RegsOnly.refl s).setFld _ _ _ _).setFld _ _ _ _, ((sameRegsBut.refl s _).setFld_self _ _ _).setFld_self _ _ _⟩

theorem fld_heldOver (s : State) : s.heldOver.fld rPtpStat 63 63 = 0 ∧ s.heldOver.fld rPtpStat 62 62 = 1 ∧
    s.heldOver.fld rPtpStat 61 0 = s.fld rPtpStat 61 0 := by
  unfold heldOver
  refine ⟨?_, ?_, ?_⟩
  · rw [fld_setFld_ne _ _ _ _ _ _ _ (by omega) (by omega) (by omega)]
    exact fld_setFld_self _ _ _ _ _ (by omega) (by omega)
  · exact fld_setFld_self _ _ _ _ _ (by omega) (by omega)
  · rw [fld_setFld_ne _ _ _ _ _ _ _ (by omega) (by omega) (by omega), fld_setFld_ne _ _ _ _ _ _ _ (by omega) (by omega) (by omega)]

end State

/-- Settles O60: a measurement by what it shows and by whether it is the first, a step by the instants it passes. -/
theorem clusterTime : Obligations.ClusterTime := by
  unfold Obligations.ClusterTime
  refine fun s => ⟨fun o hwf => ?_, fun o => ?_, fun p _ c hc hi => State.mem_stepInstants hc hi, ?_⟩
  · obtain ⟨honly, hregs⟩ := s.measured_leaves o
    obtain ⟨hlock, hhold, hfirst, hbig⟩ := s.fld_measured o
    have hoffset := s.ptpOffset_measured o
    refine ⟨s.measured o, honly, hregs, hlock, hhold, hfirst, fun hlo hhi => ?_, fun hhi => ?_, fun hlo => ?_, ?_, fun h => ?_, fun h => ?_⟩
    · omega
    · omega
    · omega
    · rw [hbig, bit_eq_one, State.bigOffset, decide_eq_true_iff]
    · rw [State.exec_ptpSync hwf, h]
      rfl
    · obtain ⟨hlo, hhi⟩ := s.correction_within o
      refine ⟨s.correction o, hlo, hhi, fun hb => State.correction_of_ahead (decide_eq_true hb), fun hb => State.correction_of_behind (decide_eq_true hb), ?_,
        State.fld_corrected _ hlo hhi⟩
      rw [State.exec_ptpSync hwf, h]
      rfl
  · exact ⟨(s.steppedTo o).passedInstants, State.pairwise_passedInstants _, State.mem_passedInstants _, s.stepClock_eq o⟩
  · obtain ⟨honly, hregs⟩ := s.heldOver_leaves
    exact ⟨s.heldOver, rfl, honly, hregs, s.fld_heldOver⟩

end Sys2Proof.Machine
end

section
/-! SUPPORT. Flash and the update: what a bank that verifies holds, which bank boots, the bytes that are programmed, and the fields that an update shows (14 R489 to R492, R510 to R513). -/

namespace Sys2Proof.Machine

/-! ### Banks (R489 to R492) -/

/-- A bank that verifies has its magic, hash and signature, and an SVN at or above the floor. -/
theorem Bank.of_verify {b : Bank} {f : Nat} (h : b.verify f = 0) : b.read 0 4 = [0x4C, 0x58, 0x46, 0x57] ∧
    sha256 (b.read fwBodyAt (fieldLe (b.read 16 8) 0 8)) = b.read 24 32 ∧ Config.slhVerify (b.read 0 4096) (b.read 4096 sigLen) = true ∧ f ≤ b.svn := by
  unfold Bank.verify at h
  dsimp only at h
  split_ifs at h with hbytes hhead hbody hhash hsig hsvn
  rw [not_or, not_not] at hhead
  exact ⟨hhead.1, not_not.1 hhash, by simpa using hsig, Nat.not_lt.1 hsvn⟩

/-- Bank A or B. -/
def Flash.bank (f : Flash) (b : Bool) : Bank := if b then f.bankB else f.bankA

/-- A bank is good. -/
def Flash.goodBank (f : Flash) (b : Bool) : Bool := (f.bank b).good f.svnFloor

/-- The choice without a trial: the active bank, or the other. -/
def Flash.plainPick (f : Flash) : Option Bool × Trial × Bool :=
  if f.goodBank f.active then (some f.active, .none, false) else if f.goodBank (!f.active) then (some (!f.active), .none, true) else (none, .none, false)

section

variable {f : Flash}

theorem Flash.pick_of_pending (h : f.trial = .pending) : f.pick = if f.goodBank (!f.active) then (some (!f.active), .running, false) else f.plainPick := by
  simp only [Flash.pick, h]
  rfl

theorem Flash.pick_of_settled (h : f.trial ≠ .pending) : f.pick = f.plainPick := by
  unfold Flash.pick
  split
  · exact absurd ‹_› h
  · rfl

/-- The trial's bank boots where it is good. -/
theorem Flash.pick_of_trial (h : f.trial = .pending) (hgood : f.goodBank (!f.active) = true) : f.pick = (some (!f.active), .running, false) := by
  rw [pick_of_pending h, if_pos hgood]

theorem Flash.pick_of_noTrial (h : f.trial ≠ .pending ∨ f.goodBank (!f.active) = false) : f.pick = f.plainPick := by
  by_cases hp : f.trial = .pending
  · rw [pick_of_pending hp, h.resolve_left (not_not.2 hp), if_neg Bool.false_ne_true]
  · exact pick_of_settled hp

theorem Flash.plainPick_of_active (h : f.goodBank f.active = true) : f.plainPick = (some f.active, .none, false) := if_pos h

theorem Flash.plainPick_of_other (ha : f.goodBank f.active = false) (h : f.goodBank (!f.active) = true) : f.plainPick = (some (!f.active), .none, true) := by
  rw [plainPick, ha, if_neg Bool.false_ne_true, if_pos h]

theorem Flash.plainPick_of_none (ha : f.goodBank f.active = false) (h : f.goodBank (!f.active) = false) : f.plainPick = (none, .none, false) := by
  rw [plainPick, ha, if_neg Bool.false_ne_true, h, if_neg Bool.false_ne_true]

end

/-! ### Bytes that are entered (R510) -/

/-- Bytes outside those entered stay. -/
theorem find_putBytes_out {t : Tab Byte} {off k : Nat} {d : List Byte} (h : k < off ∨ off + d.length ≤ k) : Tab.find (putBytes t off d) k = Tab.find t k := by
  induction d generalizing t off with
  | nil => rfl
  | cons b r ih =>
    rw [List.length_cons] at h
    rw [putBytes, ih (by omega), Tab.find_put_ne _ _ (by omega)]

/-- The bytes entered stand at their offsets. -/
theorem find_putBytes {t : Tab Byte} {off i : Nat} {d : List Byte} {x : Byte} (h : d[i]? = some x) : Tab.find (putBytes t off d) (off + i) = some x := by
  induction d generalizing t off i with
  | nil => simp at h
  | cons b r ih =>
    cases i with
    | zero =>
      rw [List.getElem?_cons_zero, Option.some.injEq] at h
      rw [putBytes, find_putBytes_out (by omega), Nat.add_zero, Tab.find_put_self, h]
    | succ i =>
      rw [List.getElem?_cons_succ] at h
      rw [putBytes, show off + (i + 1) = off + 1 + i by omega, ih h]

namespace State

variable {s t : State}

/-! ### The bank that does not run (R489) -/

theorem idleBank_setIdle (s : State) (b : Bank) : (s.setIdle b).idleBank = b := by
  have hboot : (s.setIdle b).fld rBoot 59 59 = s.fld rBoot 59 59 := rfl
  by_cases h : s.fld rBoot 59 59 = 1
  · rw [idleBank, hboot, if_pos h, setIdle, if_pos h]
  · rw [idleBank, hboot, if_neg h, setIdle, if_neg h]

theorem runBank_setIdle (s : State) (b : Bank) : (s.setIdle b).runBank = s.runBank := by
  have hboot : (s.setIdle b).fld rBoot 59 59 = s.fld rBoot 59 59 := rfl
  by_cases h : s.fld rBoot 59 59 = 1
  · rw [runBank, runBank, hboot, if_pos h, if_pos h, setIdle, if_pos h]
  · rw [runBank, runBank, hboot, if_neg h, if_neg h, setIdle, if_neg h]

theorem idleBank_of (hf : t.flash = s.flash) (hboot : t.fld rBoot 59 59 = s.fld rBoot 59 59) : t.idleBank = s.idleBank := by rw [idleBank, idleBank, hf, hboot]

/-! ### HUB_FWSTAT (R513) -/

theorem fwStat_leaves (s : State) (st result : Nat) : s.RegsOnly (s.fwStat st result) ∧ s.sameRegsBut (s.fwStat st result) (· = rFwstat) :=
  ⟨((RegsOnly.refl s).setFld _ _ _ _).setFld _ _ _ _, ((sameRegsBut.refl s _).setFld_self _ _ _).setFld_self _ _ _⟩

theorem fld_fwStat (s : State) {st : Nat} (h : st < 16) (result : Nat) : (s.fwStat st result).fld rFwstat 63 60 = st ∧
    (s.fwStat st result).fld rFwstat 59 56 = s.fld rFwstat 59 56 := by
  refine ⟨?_, ?_⟩
  · rw [fwStat, fld_setFld_ne _ _ _ _ _ _ _ (by omega) (by omega) (by omega), fld_setFld_self _ _ _ _ _ (by omega) (by omega)]
    exact Nat.mod_eq_of_lt h
  · rw [fwStat, fld_setFld_ne _ _ _ _ _ _ _ (by omega) (by omega) (by omega), fld_setFld_ne _ _ _ _ _ _ _ (by omega) (by omega) (by omega)]

/-! ### The update (R510, R511) -/

/-- The update that a data operation goes on with, or the one that it starts. -/
def begunUpdate (s : State) (conn target : Nat) : Update := s.update.getD ⟨conn, target, false, [], [], 0⟩

/-- `t` is `s` but for registers and the update, which is `w`; of the registers, HUB_FWSTAT alone, which shows an update that receives. -/
structure Updating (s t : State) (w : Update) : Prop where
  only : t = { s with update := some w, regs := t.regs }
  regs : s.sameRegsBut t (· = rFwstat)
  state : t.fld rFwstat 63 60 = 1

theorem openUpdate_of_some {w : Update} (h : s.update = some w) (conn target : Nat) : s.openUpdate conn target = s.fwStat 1 0 := by simp only [openUpdate, h]

/-- The state that the first data operation starts from: an update that has nothing, of which HUB_FWSTAT shows the target. -/
def newUpdate (s : State) (conn target : Nat) : State := State.setReg { s with update := some ⟨conn, target, false, [], [], 0⟩ } rFwstat (target * 2 ^ 56)

theorem openUpdate_of_none (h : s.update = none) (conn target : Nat) : s.openUpdate conn target = (s.newUpdate conn target).fwStat 1 0 := by
  simp only [openUpdate, h]
  rfl

theorem newUpdate_leaves (s : State) (conn target : Nat) : let t := s.newUpdate conn target
    t = { s with update := some ⟨conn, target, false, [], [], 0⟩, regs := t.regs } ∧ s.sameRegsBut t (· = rFwstat) := by
  have h : s.sameRegsBut { s with update := some ⟨conn, target, false, [], [], 0⟩ } (· = rFwstat) := .update (.refl s _) rfl
  exact ⟨rfl, h.setReg rfl _⟩

theorem openUpdate_updating (s : State) (conn target : Nat) : s.Updating (s.openUpdate conn target) (s.begunUpdate conn target) := by
  unfold begunUpdate
  rcases hu : s.update with _ | w
  · rw [openUpdate_of_none hu]
    obtain ⟨honly, hregs⟩ := (s.newUpdate conn target).fwStat_leaves 1 0
    obtain ⟨hnew, hnewRegs⟩ := s.newUpdate_leaves conn target
    refine ⟨?_, hnewRegs.trans hregs, (fld_fwStat _ (by omega) 0).1⟩
    rw [honly, hnew, Option.getD_none]
  · rw [openUpdate_of_some hu]
    obtain ⟨honly, hregs⟩ := s.fwStat_leaves 1 0
    refine ⟨?_, hregs, (fld_fwStat s (by omega) 0).1⟩
    rw [honly, Option.getD_some, ← hu]

theorem openUpdate_target (h : s.update = none) (conn : Nat) {target : Nat} (ht : target < 16) : (s.openUpdate conn target).fld rFwstat 59 56 = target := by
  rw [openUpdate_of_none h, (fld_fwStat _ (by omega) 0).2, fld, newUpdate, reg_setReg_self]
  unfold bits
  omega

theorem Updating.holds {w : Update} (h : s.Updating t w) : t.update = some w := by rw [h.only]

/-- The bytes received are counted. -/
theorem Updating.countFw {w : Update} (h : s.Updating t w) (n : Nat) : s.Updating (t.countFw n) { w with received := w.received + n } ∧
    (t.countFw n).fld rFwstat 59 56 = t.fld rFwstat 59 56 := by
  have hcount : ({ t with update := t.update.map (fun u => { u with received := u.received + n }) } : State).RegsOnly (t.countFw n) := .addFld (.refl _) _ _ _ _
  refine ⟨⟨?_, ?_, ?_⟩, ?_⟩
  · rw [hcount, h.holds, h.only]
    rfl
  · exact h.regs.trans (.addFld_self (s := { t with update := _ }) (fun _ _ => rfl) _ _ _)
  · exact (fld_setFld_ne _ _ _ _ _ _ _ (by omega) (by omega) (by omega)).trans h.state
  · exact fld_setFld_ne _ _ _ _ _ _ _ (by omega) (by omega) (by omega)

/-- Another update of what the update holds. -/
theorem Updating.map {w : Update} (h : s.Updating t w) (g : Update → Update) : s.Updating { t with update := t.update.map g } (g w) := by
  refine ⟨?_, h.regs.update rfl, h.state⟩
  rw [h.holds, h.only]
  rfl

section

variable {conn target off len : Nat}

/-- A data operation that is not refused is of the update's connection and target. -/
theorem of_not_fwRefusal (h : s.fwRefusal conn target off len = none) : (s.begunUpdate conn target).conn = conn ∧ (s.begunUpdate conn target).target = target := by
  have hbusy : ¬ (s.updateElse conn ∨ s.update.any (fun u => u.target != target) ∨ target = 0 ∧ s.fld rBoot 58 58 = 1) := fun hb => by
    rw [fwRefusal, if_pos hb] at h
    cases h
  rw [not_or, not_or] at hbusy
  obtain ⟨hconn, htarget, -⟩ := hbusy
  unfold begunUpdate
  rcases hu : s.update with _ | w
  · exact ⟨rfl, rfl⟩
  · rw [updateElse, hu] at hconn
    rw [hu] at htarget
    simpa using And.intro hconn htarget

end

end State

end Sys2Proof.Machine
end

section
/-! Chapter 14 of the manual: a firmware update, from the data it receives to the bank that boots. -/

namespace Sys2Proof.Machine

namespace State

/-! ### FW_IMAGE arrives (R421, R429, R510) -/

section

variable {s : State} {i : Instr} {p : Pkt} {bulk : Bool} {r n off : Nat} {d : List Byte}

/-- The row of an operation that does not wait: what carries it, and the handler `f` that its TARGET `n` lets it run. -/
structure FwRow (s : State) (i : Instr) (p : Pkt) (r n : Nat) (bulk : Bool) (f : Asker → State → State) : Prop where
  row : carried i = some (p, 0, bulk)
  act : ∀ t : State, t.act i = t.askFw p r n f
  now : (s.accept p 0).deferred i = false

section

variable {f : Asker → State → State} (h : s.FwRow i p r n bulk f) (hask : s.asks p r true true false) (hwf : Instr.wf i = true)

include h hask hwf

theorem FwRow.exec : exec i s = .next ((if 2 ≤ n then (s.asked p r).say (asker p r) stBadRequest else f (asker p r) (s.asked p r)).settled p bulk) := by
  obtain ⟨hturn, hkept, hgate⟩ := hask
  rw [exec_of_carried_wf h.row hwf, receive_of_inTurn hturn bulk h.now, h.act, askFw, askAlways, ask_of_open hkept hgate]

theorem FwRow.exec_of_target (hn : n < 2) : Machine.exec i s = .next ((f (asker p r) (s.asked p r)).settled p bulk) := by
  rw [h.exec hask hwf, if_neg (by omega)]

theorem FwRow.exec_of_badTarget (hn : 2 ≤ n) : Machine.exec i s = .next (((s.asked p r).say (asker p r) stBadRequest).settled p bulk) := by
  rw [h.exec hask hwf, if_pos hn]

end

theorem act_fwImageData (t : State) : t.act (.fwImageData p r n off d) = t.askFw p r n fun a s => (s.fwRefusal p.conn n off d.length).elim (s.packData a off d) (s.say a) := by
  dsimp only [act, askFwData]
  congr 1
  funext a s
  cases s.fwRefusal p.conn n off d.length <;> rfl

theorem deferred_of_target (h : n ≠ 0) (s : State) : s.deferred (.fwImageData p r n off d) = false := by
  have hn : (n == 0) = false := by simpa using h
  simp only [deferred, hn, Bool.false_and]

variable (s p r n)

theorem fwRow_data (off : Nat) (d : List Byte) (h : n ≠ 0 ∨ (s.accept p 0).deferred (.fwImageData p r n off d) = false) :
    s.FwRow (.fwImageData p r n off d) p r n true fun a t => (t.fwRefusal p.conn n off d.length).elim (t.packData a off d) (t.say a) :=
  ⟨rfl, act_fwImageData, h.elim (fun hn => deferred_of_target hn _) id⟩

theorem fwRow_finish : s.FwRow (.fwImageFinish p r n) p r n false fun a t => t.finishFw a n := ⟨rfl, fun _ => rfl, rfl⟩

theorem fwRow_activate : s.FwRow (.fwImageActivate p r n) p r n false fun a t => t.activateFw a n := ⟨rfl, fun _ => rfl, rfl⟩

theorem fwRow_commit (off : Nat) : s.FwRow (.fwImageCommit p r n off) p r n false fun a t => t.commitFw a off := ⟨rfl, fun _ => rfl, rfl⟩

theorem fwRow_abort : s.FwRow (.fwImageAbort p r n) p r n false fun a t => t.abortFw a := ⟨rfl, fun _ => rfl, rfl⟩

variable {s p r n}

/-- Data that waits joins the queue, and its connection settles. -/
theorem receive_of_deferred (h : s.inTurn p 0) (bulk : Bool) (hdef : (s.accept p 0).deferred i = true) :
    s.receive p 0 bulk i = ((s.accept p 0).deferBlock i).settleConn p.conn p.ackNow := by
  obtain ⟨hrails, hhead, ⟨c', hconn⟩, c, hc, htheirs, hn, -, hs, hh, hg⟩ := h
  have hnew : c.isNew p.seq = true := by
    rw [hn] at hg ⊢
    exact Conn.isNew_next hs hg
  simp only [receive, hrails, hhead, hconn, hc, htheirs, hnew, hdef, Bool.false_eq_true, Bool.not_true, if_false, if_true]

theorem not_refused_of_deferred (h : s.deferred (.fwImageData p r 0 off d) = true) : s.fwRefusal p.conn 0 off d.length = none := by
  simp only [deferred, Bool.and_eq_true, Option.isNone_iff_eq_none] at h
  obtain ⟨⟨-, hfit⟩, -⟩ := h
  exact hfit

/-- The requests that the device holds, with this one. -/
def keptWith (s : State) (p : Pkt) (r : Nat) : State := { s with kept := if s.kept.any (fun k => k.owner == p.src && k.req == r) then s.kept else remember s.kept p.src r }

theorem deferBlock_of_new (h : ∀ w b, s.update = some w → b ∈ w.queue → b.seq ≠ p.seq) :
    s.deferBlock (.fwImageData p r n off d) = (s.keptWith p r).queueFw (asker p r) p.seq off d := by
  have hnew : s.update.any (fun u => u.queue.any (fun b => b.seq == p.seq)) = false := by
    rcases hu : s.update with _ | w
    · rfl
    · simpa using fun b hb => h w b hu hb
  simp only [deferBlock, hnew, Bool.false_eq_true, if_false]
  rfl

end

/-! ### Data (R423, R457, R510, R513) -/

section

variable {s : State} {a : Asker} {off : Nat} {d : List Byte}

/-- Data of a pack stands in the hub's buffer, and is counted. -/
def packEntered (s : State) (conn off : Nat) (d : List Byte) : State :=
  let t := (s.openUpdate conn 1).countFw d.length
  { t with update := t.update.map (fun u => { u with buffer := putBytes u.buffer off d }) }

theorem packData_eq (s : State) (a : Asker) (off : Nat) (d : List Byte) : s.packData a off d = (s.packEntered a.conn off d).say a stOk := rfl

theorem packEntered_updating (s : State) (conn off : Nat) (d : List Byte) : let w := s.begunUpdate conn 1
    s.Updating (s.packEntered conn off d) { w with received := w.received + d.length, buffer := putBytes w.buffer off d } :=
  ((s.openUpdate_updating conn 1).countFw d.length).1.map fun u => { u with buffer := putBytes u.buffer off d }

theorem fld_withUpdate (s : State) (w : Option Update) (x hi lo : Nat) : ({ s with update := w } : State).fld x hi lo = s.fld x hi lo := rfl

theorem packEntered_target (h : s.update = none) (conn off : Nat) (d : List Byte) : (s.packEntered conn off d).fld rFwstat 59 56 = 1 :=
  (fld_withUpdate ((s.openUpdate conn 1).countFw d.length) _ _ _ _).trans <| ((s.openUpdate_updating conn 1).countFw d.length).2.trans (openUpdate_target h conn (by omega))

theorem received_begunUpdate (s : State) (conn target : Nat) : (s.begunUpdate conn target).received = (s.update.map Update.received).getD 0 := by
  unfold begunUpdate
  cases s.update <;> rfl

theorem queue_begunUpdate (s : State) (conn target : Nat) : (s.begunUpdate conn target).queue = (s.update.map Update.queue).getD [] := by
  unfold begunUpdate
  cases s.update <;> rfl

/-- A later change of flash and registers. -/
theorem Updating.reflash {s t u : State} {w : Update} (h : s.Updating t w) (g : u = { t with flash := u.flash, regs := u.regs }) :
    u = { s with update := some w, flash := u.flash, regs := u.regs } := by
  rw [g, h.only]

theorem Updating.flash {s t : State} {w : Update} (h : s.Updating t w) : t.flash = s.flash ∧ t = { s with update := some w, flash := t.flash, regs := t.regs } :=
  ⟨by rw [h.only], h.reflash rfl⟩

/-- The bank that does not run is erased, and HUB_FWVER shows no image there. -/
def erased (s : State) : State := (s.setIdle ⟨false, []⟩).setFld rFwver 31 0 0

theorem erased_leaves (s : State) : let t := s.erased
    t = { s with flash := t.flash, regs := t.regs } ∧ s.sameRegsBut t (· = rFwver) ∧ t.idleBank = ⟨false, []⟩ ∧ t.fld rFwver 31 0 = 0 := by
  have honly : (s.setIdle ⟨false, []⟩).RegsOnly s.erased := .setFld (.refl _) _ _ _ _
  have hregs : (s.setIdle ⟨false, []⟩).sameRegsBut s.erased (· = rFwver) := sameRegsBut.setFld_self (.refl _ _) _ _ _
  refine ⟨?_, ?_, ?_, ?_⟩
  · rw [honly]
    rfl
  · exact .trans (.update (.refl s _) rfl) hregs
  · rw [idleBank_of (by rw [honly]) (hregs.fld (by decide) _ _), idleBank_setIdle]
  · exact (fld_setFld_self _ _ _ _ _ (by omega) (by omega)).trans (Nat.zero_mod _)

/-- The state that a block of an image joins the queue in. -/
def opened (s : State) (conn off n : Nat) : State :=
  let t := (s.openUpdate conn 0).countFw n
  if off = 0 then t.erased else t

theorem opened_leaves (s : State) (conn off n : Nat) : let t := s.opened conn off n
    let w := s.begunUpdate conn 0
    t = { s with update := some { w with received := w.received + n }, flash := t.flash, regs := t.regs } ∧ t.fld rFwstat 63 60 = 1 ∧
      (off = 0 → t.idleBank = ⟨false, []⟩ ∧ t.fld rFwver 31 0 = 0) ∧ (off ≠ 0 → t.flash = s.flash) := by
  have hopen := ((s.openUpdate_updating conn 0).countFw n).1
  by_cases h : off = 0
  · obtain ⟨herased, hregs, hidle, hver⟩ := ((s.openUpdate conn 0).countFw n).erased_leaves
    have ht : s.opened conn off n = ((s.openUpdate conn 0).countFw n).erased := if_pos h
    simp only [ht]
    exact ⟨hopen.reflash herased, (hregs.fld (by decide) _ _).trans hopen.state, fun _ => ⟨hidle, hver⟩, absurd h⟩
  · have ht : s.opened conn off n = (s.openUpdate conn 0).countFw n := if_neg h
    simp only [ht]
    exact ⟨hopen.flash.2, hopen.state, fun h0 => absurd h0 h, fun _ => hopen.flash.1⟩

/-- The block that joins the queue. -/
def joinedUpdate (w : Update) (seq off : Nat) (d : List Byte) (a : Asker) : Update :=
  { w with erase := w.erase || off == 0, queue := w.queue ++ [⟨seq, off, d, a⟩] }

theorem queueFw_eq (s : State) (a : Asker) (seq off : Nat) (d : List Byte) : let t := s.opened a.conn off d.length
    s.queueFw a seq off d = { t with update := t.update.map (fun w => joinedUpdate w seq off d a) } := rfl

/-- What a block of an image leaves, which joins the queue of the update that it belongs to. -/
theorem queueFw_leaves (hfit : s.fwRefusal a.conn 0 off d.length = none) (seq : Nat) : let t := s.queueFw a seq off d
    ∃ w, t.update = some w ∧ w.conn = a.conn ∧ w.target = 0 ∧ w.queue = ((s.update.map Update.queue).getD []) ++ [⟨seq, off, d, a⟩] ∧
      (off = 0 → w.erase = true ∧ t.idleBank = ⟨false, []⟩ ∧ t.fld rFwver 31 0 = 0) ∧ (off ≠ 0 → t.flash = s.flash) ∧ t.fld rFwstat 63 60 = 1 ∧
      t = { s with update := t.update, flash := t.flash, regs := t.regs } := by
  obtain ⟨hconn, htarget⟩ := of_not_fwRefusal hfit
  obtain ⟨honly, hstate, hzero, hrest⟩ := s.opened_leaves a.conn off d.length
  rw [queueFw_eq]
  generalize s.opened a.conn off d.length = x at honly hstate hzero hrest
  have hupdate := congrArg State.update honly
  dsimp only at hupdate ⊢
  rw [hupdate, ← queue_begunUpdate s a.conn 0]
  refine ⟨_, rfl, hconn, htarget, rfl, fun h => ⟨?_, hzero h⟩, hrest, hstate, ?_⟩
  · simp [joinedUpdate, h]
  · rw [honly]

theorem fwRefusal_keptWith (s : State) (p : Pkt) (r conn target off len : Nat) : (s.keptWith p r).fwRefusal conn target off len = s.fwRefusal conn target off len := rfl

end

/-! ### Finish (R457, R490, R511, R513) -/

section

variable {s : State} {a : Asker} {w : Update} {n : Nat}

theorem finishFw_of_none (h : s.update = none) (a : Asker) (n : Nat) : s.finishFw a n = (s.fwStat 5 7).say a stBadRequest := by simp only [finishFw, h]

theorem finishFw_of_other (h : s.update = some w) (hw : w.conn ≠ a.conn ∨ w.target ≠ n) : s.finishFw a n = s.say a stBusy := by
  simp only [finishFw, h, if_pos hw]

/-- An image that passes is ready, and HUB_FWVER shows its version. -/
def imageReady (s : State) : State := (({ s with update := none } : State).fwStat 3 0).setFld rFwver 31 0 s.idleBank.version

theorem finishFw_image (h : s.update = some w) (hconn : w.conn = a.conn) (htarget : w.target = 0) : let x := s.idleBank.verify s.flash.svnFloor
    s.finishFw a 0 = if x ≠ 0 then (s.fwStat 5 x).say a stBadRequest else s.imageReady.say a stOk := by
  simp only [finishFw, h, hconn, htarget, ne_eq, not_true_eq_false, or_self, if_false, if_true]
  rfl

theorem imageReady_leaves (s : State) : let t := s.imageReady
    t = { s with update := none, regs := t.regs } ∧ t.fld rFwstat 63 60 = 3 ∧ t.fld rFwver 31 0 = s.idleBank.version % 2 ^ 32 := by
  have hstat := (({ s with update := none } : State).fwStat_leaves 3 0).1
  have honly : ({ s with update := none } : State).RegsOnly s.imageReady := hstat.setFld _ _ _ _
  refine ⟨honly, ?_, ?_⟩
  · rw [imageReady, fld_setFld_other _ _ _ _ _ _ (by decide), (fld_fwStat _ (by omega) 0).1]
  · rw [imageReady, fld_setFld_self _ _ _ _ _ (by omega) (by omega)]

/-- A pack that passes is stored. -/
def packStored (s : State) (slot : Nat) (k : Pack) : State := (({ s with update := none } : State).storePack slot k).fwStat 3 0

theorem finishFw_badPack (h : s.update = some w) (hconn : w.conn = a.conn) (htarget : w.target = 1) (hx : s.verifyPack w.buffer ≠ 0) :
    s.finishFw a 1 = (s.fwStat 5 (s.verifyPack w.buffer)).say a stBadRequest := by
  simp only [finishFw, h, hconn, htarget, ne_eq, not_true_eq_false, or_self, if_false, Nat.one_ne_zero]
  exact if_pos hx

theorem finishFw_pack {slot : Nat} (h : s.update = some w) (hconn : w.conn = a.conn) (htarget : w.target = 1) (hx : s.verifyPack w.buffer = 0)
    (hslot : s.packSlot (packFrom w.buffer).id = some slot) : s.finishFw a 1 = (s.packStored slot (packFrom w.buffer)).say a stOk := by
  simp only [finishFw, h, hconn, htarget, hx, hslot, ne_eq, not_true_eq_false, or_self, if_false, Nat.one_ne_zero]
  rfl

/-- A pack that is stored is the one of its number. -/
theorem packOf_storePack (s : State) (slot : Nat) (k : Pack) : (s.storePack slot k).packOf k.id = some k := by
  have hmem : (slot, k) ∈ (s.storePack slot k).flash.packs := Tab.mem_of_find (Tab.find_put_self ..)
  unfold packOf
  rcases hfind : ((s.storePack slot k).flash.packs.map (·.2)).find? (fun x => x.id == k.id) with _ | x
  · rw [List.find?_eq_none] at hfind
    exact absurd (beq_self_eq_true _) (hfind k (List.mem_map_of_mem hmem))
  · obtain ⟨e, he, rfl⟩ := List.mem_map.1 (List.mem_of_find?_eq_some hfind)
    have hid : (e.2.id == k.id) = true := List.find?_some (p := fun x : Pack => x.id == k.id) hfind
    obtain rfl | hold := Tab.mem_put he
    · exact hfind
    · simp [beq_iff_eq.1 hid] at hold

theorem packStored_leaves (s : State) (slot : Nat) (k : Pack) : let t := s.packStored slot k
    t.packOf k.id = some k ∧ t.fld rFwstat 63 60 = 3 ∧ t = { s with update := none, regs := t.regs, flash := { s.flash with packs := t.flash.packs } } := by
  have honly : (State.storePack { s with update := none } slot k).RegsOnly (s.packStored slot k) := (fwStat_leaves _ 3 0).1
  have hflash : (s.packStored slot k).flash = (State.storePack { s with update := none } slot k).flash := by rw [honly]
  refine ⟨?_, (fld_fwStat _ (by omega) 0).1, ?_⟩
  · rw [packOf, hflash]
    exact packOf_storePack _ slot k
  · rw [hflash]
    exact honly

end

/-! ### Activate, commit and abort (R491, R492, R511) -/

section

variable {s : State} {a : Asker} {n off : Nat}

theorem activateFw_of_other (h : s.updateElse a.conn = true) (n : Nat) : s.activateFw a n = s.say a stBusy := if_pos h

theorem commitFw_of_other (h : s.updateElse a.conn = true) (off : Nat) : s.commitFw a off = s.say a stBusy := if_pos h

theorem abortFw_of_other (h : s.updateElse a.conn = true) : s.abortFw a = s.say a stBusy := if_pos h

/-- The other bank is marked for the next boot. -/
def markedTrial (s : State) : State := ({ s with flash := { s.flash with trial := .pending } } : State).fwStat 4 0

theorem markedTrial_leaves (s : State) : let t := s.markedTrial
    t.fld rFwstat 63 60 = 4 ∧ t = { s with flash := { s.flash with trial := .pending }, regs := t.regs } :=
  ⟨(fld_fwStat _ (by omega) 0).1, (fwStat_leaves { s with flash := { s.flash with trial := .pending } } 4 0).1⟩

theorem activateFw_of_own (h : s.updateElse a.conn = false) (n : Nat) : s.activateFw a n =
    if n = 0 ∧ s.fld rFwstat 63 60 = 3 ∧ s.fld rFwstat 59 56 = 0 then s.markedTrial.say a stOk else (s.setFld rFwstat 47 40 8).say a stBadRequest := by
  rw [activateFw, h, if_neg Bool.false_ne_true]
  rfl

/-- The trial's bank becomes the active one, and OFFSET bit 0 raises the SVN floor. -/
def committed (s : State) (off : Nat) : State :=
  ({ s with flash := { s.flash with
      active := s.fld rBoot 59 59 == 1, trial := .none
      svnFloor := if off % 2 = 1 then max s.flash.svnFloor (min 64 s.runBank.svn) else s.flash.svnFloor } } : State).setFld rBoot 58 58 0

theorem commitFw_of_own (h : s.updateElse a.conn = false) (off : Nat) : s.commitFw a off =
    if s.fld rBoot 58 58 = 0 then (s.setFld rFwstat 47 40 9).say a stBadRequest else (s.committed off).say a stOk := by
  rw [commitFw, h, if_neg Bool.false_ne_true]
  rfl

theorem committed_leaves (s : State) (off : Nat) : let t := s.committed off
    t.fld rBoot 58 58 = 0 ∧ t.flash.trial = .none ∧ t.flash.active = decide (s.fld rBoot 59 59 = 1) ∧
      t.flash.svnFloor = (if off % 2 = 1 then max s.flash.svnFloor (min 64 s.runBank.svn) else s.flash.svnFloor) ∧
      t = { s with regs := t.regs, flash := { s.flash with trial := .none, active := t.flash.active, svnFloor := t.flash.svnFloor } } :=
  ⟨(fld_setFld_self _ _ _ _ _ (by omega) (by omega)).trans (Nat.zero_mod _), rfl, rfl, rfl, rfl⟩

/-- The update ends, and a mark that waits is removed. -/
def aborted (s : State) : State :=
  ({ s with update := none, flash := { s.flash with trial := if s.flash.trial = .pending then .none else s.flash.trial } } : State).setFld rFwstat 63 60 0

theorem abortFw_of_own (h : s.updateElse a.conn = false) : s.abortFw a = s.aborted.say a stOk := by
  rw [abortFw, h, if_neg Bool.false_ne_true]
  rfl

theorem aborted_leaves (s : State) : let t := s.aborted
    t.update = none ∧ t.fld rFwstat 63 60 = 0 ∧ t.flash.trial ≠ .pending ∧ (s.flash.trial ≠ .pending → t.flash.trial = s.flash.trial) ∧
      t = { s with update := none, regs := t.regs, flash := { s.flash with trial := t.flash.trial } } := by
  have htrial : s.aborted.flash.trial = if s.flash.trial = .pending then .none else s.flash.trial := rfl
  refine ⟨rfl, (fld_setFld_self _ _ _ _ _ (by omega) (by omega)).trans (Nat.zero_mod _), ?_, fun h => htrial.trans (if_neg h), rfl⟩
  rw [htrial]
  split
  · exact Trial.noConfusion
  · assumption

end

/-! ### Flash is programmed (R423, R510, R512) -/

section

variable {v : State} {w : Update}

theorem wf_flashProgramComplete : Instr.wf .flashProgramComplete = true := rfl

theorem exec_flashProgramComplete (v : State) : exec .flashProgramComplete v = execFlashProgramComplete v := rfl

theorem exec_flashProgramComplete_of_none (h : v.update = none) : exec .flashProgramComplete v = .next v := by
  rw [exec_flashProgramComplete, execFlashProgramComplete, guardWf_of_wf wf_flashProgramComplete]
  simp only [h]

theorem exec_flashProgramComplete_of_erase (h : v.update = some w) (he : w.erase = true) :
    exec .flashProgramComplete v = .next { v with update := some { w with erase := false } } := by
  rw [exec_flashProgramComplete, execFlashProgramComplete, guardWf_of_wf wf_flashProgramComplete]
  simp only [h, he, if_true]

theorem exec_flashProgramComplete_of_idle (h : v.update = some w) (he : w.erase = false) (hq : w.queue = []) : exec .flashProgramComplete v = .next v := by
  rw [exec_flashProgramComplete, execFlashProgramComplete, guardWf_of_wf wf_flashProgramComplete]
  simp only [h, he, hq, Bool.false_eq_true, if_false]

/-- The front block stands in the bank that does not run, and leaves the queue. -/
def programmed (v : State) (w : Update) (b : FwBlock) (l : List FwBlock) : State :=
  { v.setIdle ⟨false, putBytes (if v.idleBank.shipped then [] else v.idleBank.bytes) b.off b.data⟩ with update := some { w with queue := l } }

theorem exec_flashProgramComplete_of_block {b : FwBlock} {l : List FwBlock} (h : v.update = some w) (he : w.erase = false) (hq : w.queue = b :: l) :
    let x := ((v.programmed w b l).updConn w.conn (fun c => c.take b.seq none)).say b.ask stOk
    exec .flashProgramComplete v = .next (((State.pump w.conn (x.heldCount w.conn) x).sendAck w.conn).settleConn w.conn false) := by
  obtain ⟨conn, target, erase, queue, buffer, received⟩ := w
  cases he
  cases hq
  rw [exec_flashProgramComplete, execFlashProgramComplete, guardWf_of_wf wf_flashProgramComplete]
  simp only [h, Bool.false_eq_true, if_false]
  rfl

theorem programmed_leaves (v : State) (w : Update) (b : FwBlock) (l : List FwBlock) : let t := v.programmed w b l
    t = { v with flash := t.flash, update := some { w with queue := l } } ∧ t.idleBank.shipped = false ∧
      (∀ i x, b.data[i]? = some x → Tab.find t.idleBank.bytes (b.off + i) = some x) ∧
      (∀ k, k < b.off ∨ b.off + b.data.length ≤ k → v.idleBank.shipped = false → Tab.find t.idleBank.bytes k = Tab.find v.idleBank.bytes k) ∧ t.runBank = v.runBank := by
  have hidle : (v.programmed w b l).idleBank = ⟨false, putBytes (if v.idleBank.shipped then [] else v.idleBank.bytes) b.off b.data⟩ := idleBank_setIdle v _
  refine ⟨rfl, by rw [hidle], fun i x h => ?_, fun k hk hs => ?_, runBank_setIdle v _⟩
  · rw [hidle]
    exact find_putBytes h
  · rw [hidle, find_putBytes_out hk, hs, if_neg Bool.false_ne_true]

end

end State

/-- Settles O51: a row's handler is read case by case, the queue and the banks by what they leave, the boot's choice by the banks that are good. -/
theorem firmwareUpdate : Obligations.FirmwareUpdate := by
  unfold Obligations.FirmwareUpdate
  intro s p r u a ok no
  refine ⟨fun hask n hn => ⟨fun off d hwf => ⟨fun st hst hnow => ?_, fun h1 hfit => ?_⟩, fun hwf => ?_, fun hwf => ?_, fun off hwf => ?_, fun hwf => ?_⟩,
    fun hask n hn => ⟨fun off d hwf => ?_, fun hwf => ?_, fun hwf => ?_, fun off hwf => ?_, fun hwf => ?_⟩, fun off d hwf hturn hdef => ?_, fun v => ?_,
    fun b f => Bank.of_verify, fun f => ?_⟩
  · rw [(State.fwRow_data s p r n off d (hnow.imp (by omega) id)).exec_of_target hask hwf hn, hst]
    rfl
  · subst h1
    have hentered := u.packEntered_updating p.conn off d
    have hown := State.of_not_fwRefusal hfit
    refine ⟨u.packEntered p.conn off d, ?_, ?_, hentered.state, fun h => State.packEntered_target h _ _ _, _, hentered.holds, hown.1, hown.2, ?_, fun i x hx => find_putBytes hx⟩
    · rw [(State.fwRow_data s p r 1 off d (.inl (by omega))).exec_of_target hask hwf hn, hfit, Option.elim_none, State.packData_eq]
      rfl
    · rw [hentered.only]
    · rw [State.received_begunUpdate]
  · rw [(State.fwRow_finish s p r n).exec_of_target hask hwf hn]
    refine ⟨fun h => by rw [State.finishFw_of_none h], fun w hw hother => by rw [State.finishFw_of_other hw hother], fun w hw hconn htarget => ?_⟩
    obtain rfl | rfl : n = 0 ∨ n = 1 := by omega
    · rw [State.finishFw_image hw hconn htarget]
      refine ⟨fun _ hbad => by rw [if_pos hbad], fun _ hgood => ⟨u.imageReady, ?_, u.imageReady_leaves⟩, fun h => absurd h (by omega), fun h => absurd h (by omega)⟩
      rw [if_neg (not_not.2 hgood)]
    · refine ⟨fun h => absurd h (by omega), fun h => absurd h (by omega), fun _ hbad => by rw [State.finishFw_badPack hw hconn htarget hbad], fun _ hgood hslot => ?_⟩
      obtain ⟨slot, hslot⟩ := Option.ne_none_iff_exists'.1 hslot
      exact ⟨_, by rw [State.finishFw_pack hw hconn htarget hgood hslot], u.packStored_leaves slot _⟩
  · rw [(State.fwRow_activate s p r n).exec_of_target hask hwf hn]
    refine ⟨fun h => by rw [State.activateFw_of_other h], fun h h0 hstate htarget => ⟨u.markedTrial, ?_, u.markedTrial_leaves⟩, fun h hno => ?_⟩
    · rw [State.activateFw_of_own h, if_pos ⟨h0, hstate, htarget⟩]
    · rw [State.activateFw_of_own h, if_neg fun ⟨h0, hstate, htarget⟩ => hno.elim (by omega) fun hno => hno.elim (· hstate) (· htarget)]
  · rw [(State.fwRow_commit s p r n off).exec_of_target hask hwf hn]
    refine ⟨fun h => by rw [State.commitFw_of_other h], fun h hrun => ?_, fun h hrun => ⟨u.committed off, ?_, u.committed_leaves off⟩⟩
    · rw [State.commitFw_of_own h, if_pos hrun]
    · rw [State.commitFw_of_own h, if_neg (hrun.trans_ne Nat.one_ne_zero)]
  · rw [(State.fwRow_abort s p r n).exec_of_target hask hwf hn]
    exact ⟨fun h => by rw [State.abortFw_of_other h], fun h => ⟨u.aborted, by rw [State.abortFw_of_own h], u.aborted_leaves⟩⟩
  · exact (State.fwRow_data s p r n off d (.inl (by omega))).exec_of_badTarget hask hwf hn
  · exact (State.fwRow_finish s p r n).exec_of_badTarget hask hwf hn
  · exact (State.fwRow_activate s p r n).exec_of_badTarget hask hwf hn
  · exact (State.fwRow_commit s p r n off).exec_of_badTarget hask hwf hn
  · exact (State.fwRow_abort s p r n).exec_of_badTarget hask hwf hn
  · intro v hnew
    have hfit : (v.keptWith p r).fwRefusal (asker p r).conn 0 off d.length = none := (v.fwRefusal_keptWith p r ..).trans (State.not_refused_of_deferred hdef)
    obtain ⟨w, hw, hconn, htarget, hqueue, hzero, hrest, hstate, honly⟩ := State.queueFw_leaves hfit p.seq
    refine ⟨(v.keptWith p r).queueFw (asker p r) p.seq off d, w, ?_, hw, hconn, htarget, hqueue, hzero, hrest, by rw [honly]; rfl, hstate, ?_⟩
    · rw [State.exec_of_carried_wf rfl hwf, State.receive_of_deferred hturn true hdef, State.deferBlock_of_new hnew]
    · rw [honly]
      rfl
  · refine ⟨State.exec_flashProgramComplete_of_none, fun w => State.exec_flashProgramComplete_of_erase, fun w => State.exec_flashProgramComplete_of_idle, fun w b l hw he hq => ?_⟩
    obtain ⟨honly, hshipped, hbytes, hout, hrun⟩ := v.programmed_leaves w b l
    exact ⟨v.programmed w b l, honly, hshipped, hbytes, hout, hrun, State.exec_flashProgramComplete_of_block hw he hq⟩
  · exact ⟨Flash.pick_of_trial, fun h ha => (Flash.pick_of_noTrial h).trans (Flash.plainPick_of_active ha),
      fun h ha ho => (Flash.pick_of_settled h).trans (Flash.plainPick_of_other ha ho), fun ha ho => (Flash.pick_of_noTrial (.inr ho)).trans (Flash.plainPick_of_none ha ho)⟩

end Sys2Proof.Machine
end
